-- ==== Sys2Proof/Word.lean ====
section
/-! DEFINITION. The word types of the Grenion G7: bytes, 32-bit instruction words, 64-bit scalar words and step words (R54, R33). -/
namespace Sys2Proof

/-- One byte of memory (R6). -/
abbrev Byte := BitVec 8
/-- A 64-bit scalar register value or system register (R33). -/
abbrev Word := BitVec 64
/-- A 32-bit instruction word (R54). -/
abbrev IWord := BitVec 32
/-- A 64-bit step word (R54, R70). -/
abbrev SWord := BitVec 64
/-- A tile v0 to v15: 2,048 bytes, byte 0 in the low bits (R33, R42). -/
abbrev Tile := BitVec 16384
/-- A mask m0 to m7: 2,048 bits (R33). -/
abbrev Mask := BitVec 2048

/-- A `Bool` as one bit of an encoding. -/
abbrev bit1 (b : Bool) : BitVec 1 := BitVec.ofBool b

end Sys2Proof
end

