-- ==== Sys2Proof/Config.lean ====
section
/-! DEFINITION. What an implementation of the Grenion G7 fixes and the spec does not state: free values with no body. Nothing can
be proved of their values. -/
namespace Sys2Proof.Config

/-- A value the spec leaves open, by occurrence (assumption 2). -/
opaque freeWord : Nat → Word

/-- The bytes a freeze image's undocumented parts hold, by image and offset (R247, assumption 30). -/
opaque freezeByte : Nat → Nat → Byte

/-- The energy coefficients of the counters 0 to 9, in µJ per unit (R398, assumption 31). -/
opaque energyCoeff : Nat → Nat

/-- The save area that Dortas gives a slot-table entry, in 64 KiB units (R325, assumption 53). -/
opaque saveArea : Nat → Nat

/-- Whether an Adit's link goes directly to another G7 (R379, assumption 33). -/
opaque directAdit : Nat → Bool

/-- Whether the receive of another device that a send is matched with, by endpoint, tag and match number, has CODE (R275, assumption 76). -/
opaque peerCode : Word → BitVec 8 → Nat → Bool

/-- SHA3-256 of bytes; whether an ML-DSA-44 signature of a digest verifies under a public key, given as FIPS 204 encodes it; and byte i of the
signature of a digest with the device's identity key (R393 to R400, assumption 32). -/
opaque sha3 : List Byte → BitVec 256
opaque mldsaVerify : List Byte → BitVec 256 → List Byte → Bool
opaque mldsaSign : BitVec 256 → Nat → Byte

/-- The firmware-key digest in Bygrim's ROM, the operator-key digest fused at installation, and the identity public key
(R393, R396, R397, assumption 32). -/
opaque romDigest : BitVec 256
opaque operatorDigest : BitVec 256
opaque identityKey : List Byte

end Sys2Proof.Config
end

