-- ==== Sys2Proof/Syntax.lean ====
section
/-! DEFINITION. The instruction set as syntax: one constructor of `Instr` for each row of spec/opcode_table.json.
Instruction words carry their operand fields as the formats of R59 to R70 lay them out; the rows that are not words
(the machine's own moves and the host's commands, spec/95) carry what names the occurrence: which context, group, entry or message. -/
namespace Sys2Proof

/-- Engine kinds, with the section codes of R76: 0 cc, 1 ve, 2 he, 3 ce, 4 se (R25, R55). -/
inductive Kind where
  | cc | ve | he | ce | se
  deriving DecidableEq, Repr

/-! ## Operand fields of the formats -/

/-- R format with destination and two sources (R59). -/
structure RRR where
  d : BitVec 5
  a : BitVec 5
  b : BitVec 5
  qa : Bool
  qb : Bool
  deriving DecidableEq, Repr

/-- R format, destination and one source; b and qb are reserved (R58, R86). -/
structure RRD where
  d : BitVec 5
  a : BitVec 5
  qa : Bool
  deriving DecidableEq, Repr

/-- One source with its empty policy. -/
structure RA where
  a : BitVec 5
  qa : Bool
  deriving DecidableEq, Repr

/-- PLOG: three predicates in R format (R88). -/
structure PPP where
  d : BitVec 5
  a : BitVec 5
  b : BitVec 5
  deriving DecidableEq, Repr

/-- I format (R60). -/
structure Imm where
  d : BitVec 5
  a : BitVec 5
  qa : Bool
  imm : BitVec 14
  deriving DecidableEq, Repr

/-- I format of the shifts: imm[5:0] (R89). -/
structure ImmSh where
  d : BitVec 5
  a : BitVec 5
  qa : Bool
  sh : BitVec 6
  deriving DecidableEq, Repr

/-- M format, plain access (R61). -/
structure MPlain where
  d : BitVec 5
  base : BitVec 5
  sz : BitVec 2
  off : BitVec 8
  deriving DecidableEq, Repr

/-- M format, acquire or release at scope `sc` (R61). -/
structure MOrd where
  d : BitVec 5
  base : BitVec 5
  sz : BitVec 2
  sc : BitVec 3
  off : BitVec 8
  deriving DecidableEq, Repr

/-- B format (R63). -/
structure Br where
  a : BitVec 5
  b : BitVec 5
  qa : Bool
  qb : Bool
  off : BitVec 13
  deriving DecidableEq, Repr

/-- BP: the predicate stands in the a field (R63). -/
structure BrP where
  p : BitVec 5
  off : BitVec 13
  deriving DecidableEq, Repr

/-- J format (R64). -/
structure Jmp where
  d : BitVec 5
  off : BitVec 20
  deriving DecidableEq, Repr

/-- LOOP: count register in X[24:20] with its policy in X[19] (R65). -/
structure LoopReg where
  s : BitVec 5
  q : Bool
  endw : BitVec 12
  stg : BitVec 2
  deriving DecidableEq, Repr

/-- LOOPI: 12-bit trip count whose bit 11 is MAJ[25] (R65). -/
structure LoopImm where
  n : BitVec 12
  endw : BitVec 12
  stg : BitVec 2
  deriving DecidableEq, Repr

/-- SYSW: source and 12-bit index (R60, R91). -/
structure SysW where
  a : BitVec 5
  qa : Bool
  idx : BitVec 12
  deriving DecidableEq, Repr

/-- SYSR: destination and 12-bit index (R60, R91). -/
structure SysR where
  d : BitVec 5
  idx : BitVec 12
  deriving DecidableEq, Repr

/-- SYSW to one of a numbered group of registers: BANKCFG0 to 15 or QB0 to 3. -/
structure SysWN (n : Nat) where
  a : BitVec 5
  qa : Bool
  n : BitVec n
  deriving DecidableEq, Repr

/-- Object form of the I format, a source and an object (R93). -/
structure ObjA where
  a : BitVec 5
  qa : Bool
  t : BitVec 8
  deriving DecidableEq, Repr

/-- Object form of the I format, a destination and an object (R93). -/
structure ObjD where
  d : BitVec 5
  t : BitVec 8
  deriving DecidableEq, Repr

/-- Atomics in R format, FN = ord, sc, op (R94). -/
structure Amo where
  d : BitVec 5
  a : BitVec 5
  b : BitVec 5
  qa : Bool
  qb : Bool
  ord : BitVec 2
  sc : BitVec 3
  op : BitVec 3
  deriving DecidableEq, Repr

/-- CAS: op is 0 only (R94). -/
structure Cas where
  d : BitVec 5
  a : BitVec 5
  b : BitVec 5
  qa : Bool
  qb : Bool
  ord : BitVec 2
  sc : BitVec 3
  deriving DecidableEq, Repr

/-- VV layout with all fields (R66). In VCVT vb is the source type, in VQNT the mantissa width, in VEXPAND the count register (R95, R96). -/
structure VV where
  vd : BitVec 4
  va : BitVec 4
  vb : BitVec 4
  msk : BitVec 4
  mz : Bool
  ty : BitVec 3
  deriving DecidableEq, Repr

/-- VV layout of a unary operation: vb reserved (R95). -/
structure VU where
  vd : BitVec 4
  va : BitVec 4
  msk : BitVec 4
  mz : Bool
  ty : BitVec 3
  deriving DecidableEq, Repr

/-- VV layout without MZ: VSEL and VCOMPRESS (R95). -/
structure VVnz where
  vd : BitVec 4
  va : BitVec 4
  vb : BitVec 4
  msk : BitVec 4
  ty : BitVec 3
  deriving DecidableEq, Repr

/-- MLOG: three masks (R95). -/
structure VMask where
  vd : BitVec 4
  va : BitVec 4
  vb : BitVec 4
  deriving DecidableEq, Repr

/-- VIOTA: va and vb reserved (R95). -/
structure VDst where
  vd : BitVec 4
  msk : BitVec 4
  mz : Bool
  ty : BitVec 3
  deriving DecidableEq, Repr

/-- VS layout of VBCAST (va is the kind of sb) and VROT (R66, R97). -/
structure VS where
  vd : BitVec 4
  va : BitVec 4
  sb : BitVec 5
  qb : Bool
  msk : BitVec 4
  mz : Bool
  ty : BitVec 3
  deriving DecidableEq, Repr

/-- VMOVS: index {vd, va}, destination register in sb, tile in bits [10:7] (R97, R203). -/
structure VMov where
  n : BitVec 8
  sb : BitVec 5
  vt : BitVec 4
  ty : BitVec 3
  deriving DecidableEq, Repr

/-- VPOP (R97). -/
structure VPopF where
  vd : BitVec 4
  sb : BitVec 5
  msk : BitVec 4
  mz : Bool
  ty : BitVec 3
  deriving DecidableEq, Repr

/-- VPUSH (R97). -/
structure VPushF where
  va : BitVec 4
  sb : BitVec 5
  msk : BitVec 4
  ty : BitVec 3
  deriving DecidableEq, Repr

/-- VSHAPE and VSETRM: only sb and qb (R97). -/
structure VSb where
  sb : BitVec 5
  qb : Bool
  deriving DecidableEq, Repr

/-- AMOD, AMOV and AADD: slot in vd[2:0] (R97). -/
structure VSlot where
  n : BitVec 3
  sb : BitVec 5
  qb : Bool
  deriving DecidableEq, Repr

/-- MPOP: mask in va[2:0], destination in sb (R97). -/
structure VMpop where
  m : BitVec 3
  sb : BitVec 5
  deriving DecidableEq, Repr

/-- VA layout of VLD, VST, VLDS and VSTS (R66). -/
structure VA where
  vd : BitVec 4
  as : BitVec 3
  pi : Bool
  msk : BitVec 4
  mz : Bool
  ty : BitVec 3
  off : BitVec 9
  deriving DecidableEq, Repr

/-- VA layout of VGATH and VSCAT: index tile in off[8:5] (R98). -/
structure VAIdx where
  vd : BitVec 4
  as : BitVec 3
  pi : Bool
  msk : BitVec 4
  mz : Bool
  ty : BitVec 3
  vi : BitVec 4
  deriving DecidableEq, Repr

/-- VLDT: trough in off[7:0] (R98). -/
structure VTr where
  vd : BitVec 4
  msk : BitVec 4
  mz : Bool
  ty : BitVec 3
  t : BitVec 8
  deriving DecidableEq, Repr

/-- VSTT: as VLDT without MZ (R98, R212). -/
structure VTrS where
  vd : BitVec 4
  msk : BitVec 4
  ty : BitVec 3
  t : BitVec 8
  deriving DecidableEq, Repr

/-- H layout with two sources (R68). -/
structure H2 where
  sa : BitVec 5
  sb : BitVec 5
  qa : Bool
  qb : Bool
  deriving DecidableEq, Repr

/-- H layout with one source. -/
structure H1 where
  sa : BitVec 5
  qa : Bool
  deriving DecidableEq, Repr

/-- H layout with one source and a two-bit option OPT[1:0] (R239, R242). -/
structure H1F where
  sa : BitVec 5
  qa : Bool
  f : BitVec 2
  deriving DecidableEq, Repr

/-- HADMIT.A: NS, SEED, ROT, RB (R222). -/
structure HAdmA where
  sa : BitVec 5
  sb : BitVec 5
  qa : Bool
  qb : Bool
  rb : BitVec 2
  rot : Bool
  seed : Bool
  ns : Bool
  deriving DecidableEq, Repr

/-- HADMIT.G: DX, SEED (R222). -/
structure HAdmG where
  sa : BitVec 5
  sb : BitVec 5
  qa : Bool
  qb : Bool
  dx : Bool
  seed : Bool
  deriving DecidableEq, Repr

/-- HVER: destination sa, selector sb (R236). -/
structure HVerF where
  sa : BitVec 5
  sb : BitVec 5
  qb : Bool
  deriving DecidableEq, Repr

/-- C layout of the copies (R69, R100). -/
structure Cpy where
  sa : BitVec 5
  sb : BitVec 5
  ct : BitVec 6
  rl : Bool
  sc : BitVec 3
  deriving DecidableEq, Repr

/-- CTPL (R100). -/
structure CTplF where
  sa : BitVec 5
  sb : BitVec 5
  ct : BitVec 6
  deriving DecidableEq, Repr

/-- CZERO (R100). -/
structure CZeroF where
  sa : BitVec 5
  sb : BitVec 5
  rl : Bool
  sc : BitVec 3
  deriving DecidableEq, Repr

/-- A step word's fields besides OP (R70). -/
structure StepF where
  fl : BitVec 4
  out : BitVec 8
  nin : BitVec 3
  in0 : BitVec 8
  in1 : BitVec 8
  in2 : BitVec 8
  in3 : BitVec 8
  x : BitVec 8
  deriving DecidableEq, Repr

/-! ## What names an occurrence of a move that is not a word -/

/-- A context: its slot-table entry and its number within the instance (R159, R325). -/
structure CtxRef where
  slot : Nat
  num : Nat
  deriving DecidableEq, Repr

/-- Why a word encodes no instruction (R70, R71, R83). -/
inductive DecodeErr where
  /-- ILLEGAL_OP with this detail: 0 major, 4 FN, 5 a SYSW naming li0 to li5 (R83). -/
  | illegal (detail : BitVec 8)
  /-- RESERVED_FIELD (R71 check 2). -/
  | reserved
  /-- STEP_PROGRAM with this detail, 1 to 4 (R70). -/
  | stepProgram (detail : BitVec 8)
  deriving DecidableEq, Repr

/-- A component descriptor of a CODED message (R380). -/
structure Comp where
  dest : Word
  src : Word
  off : BitVec 32
  blkid : BitVec 16
  blkg : BitVec 8
  tag : BitVec 8
  mseq : BitVec 24
  psn : BitVec 32
  deriving DecidableEq, Repr

/-- A Renain message: its 256-bit header (R373), component descriptors (R380), RMA record (R409), payload,
and the transport's sequence number and the Adit it arrives at. -/
structure Msg where
  header : BitVec 256
  comps : List Comp
  rma : BitVec 128
  payload : List Byte
  psn : BitVec 32
  adit : Nat
  deriving DecidableEq, Repr

/-- A host command: the sending endpoint, the command record of R384 and the operand words of R385. -/
structure Cmd where
  src : Word
  record : BitVec 128
  words : List Word
  deriving DecidableEq, Repr

/-- What a scrub finds in a sector (R366). -/
inductive ScrubFinding where
  | clean | correctable | uncorrectable
  deriving DecidableEq, Repr

/-- Where a sector is scrubbed: the stack of a Winze, or a group's SRAM (R366). -/
inductive ScrubUnit where
  | stack (n : Nat) | group (g : Nat)
  deriving DecidableEq, Repr

/-- A scope: eng < grp < dev < fab < sys (R144, R278). -/
inductive Scope where
  | eng | grp | dev | fab | sys
  deriving DecidableEq, Repr

/-- The instruction set and the moves of the Grenion G7: one constructor per row of spec/opcode_table.json, in its order. -/
inductive Instr where
  -- Integer arithmetic and logic (R86, R128)
  | add (o : RRR) | sub (o : RRR) | mul (o : RRR) | mulh (o : RRR) | mulhn (o : RRR)
  | div (o : RRR) | divn (o : RRR) | rem (o : RRR) | remn (o : RRR)
  | and (o : RRR) | or (o : RRR) | xor (o : RRR) | sll (o : RRR) | srl (o : RRR) | sra (o : RRR)
  | min (o : RRR) | max (o : RRR) | minn (o : RRR) | maxn (o : RRR) | slt (o : RRR) | sltn (o : RRR)
  | clz (o : RRD) | popc (o : RRD)
  -- Predicates (R88, R132)
  | psetEq (o : RRR) | psetNe (o : RRR) | psetLt (o : RRR) | psetGe (o : RRR) | psetLtn (o : RRR) | psetGen (o : RRR)
  | plogAnd (o : PPP) | plogOr (o : PPP) | plogXor (o : PPP) | plogAndn (o : PPP)
  -- Immediates (R89, R130)
  | addi (o : Imm) | andi (o : Imm) | ori (o : Imm) | xori (o : Imm)
  | slli (o : ImmSh) | srli (o : ImmSh) | srai (o : ImmSh) | slti (o : Imm) | lih (o : Imm)
  -- Scalar memory (R90, R142, R144)
  | ldSigned (o : MPlain) | ldUnsigned (o : MPlain) | ldaSigned (o : MOrd) | ldaUnsigned (o : MOrd)
  | st (o : MPlain) | stl (o : MOrd)
  -- System and control flow (R91)
  | waitf (a : BitVec 5) | eret | eretHalt (o : RA) | yield | fence (sc : BitVec 3)
  | sysr (o : SysR) | sysw (o : SysW) | syswFcsr (o : RA) | syswBankcfg (o : SysWN 4) | syswQb (o : SysWN 2)
  | trap (n : BitVec 8)
  | beq (o : Br) | bne (o : Br) | blt (o : Br) | bge (o : Br) | bltn (o : Br) | bgen (o : Br) | bp (o : BrP)
  | jal (o : Jmp) | jr (o : Imm) | loop (o : LoopReg) | loopi (o : LoopImm) | lbrk (p : BitVec 5)
  -- Control core, major 0x40 (R92)
  | fork (o : RRR) | leaseAcq (o : RA) | leaseTry (o : RRD) | leaseRel (o : RA) | swroute (o : RRR) | swdrop (o : RA)
  | lpatch (o : RRR) | larm (o : RRD) | lquery (o : RRD) | cstart (o : RRR) | cwait (o : RRD)
  | chkpt (d : BitVec 5) | assayr (o : RRD)
  -- Control core, object forms (R93)
  | tcfg (o : ObjA) | tclaim (o : ObjD) | tfill (o : ObjA) | ttake (o : ObjD) | trelease (o : ObjA)
  | twaitf (t : BitVec 8) | twaite (t : BitVec 8) | tstat (o : ObjD) | tresync (t : BitVec 8)
  | rdv (r : BitVec 8) | rdva (r : BitVec 8) | rdve (o : ObjA) | kpost (o : ObjA) | kreset (k : BitVec 8) | kread (o : ObjD)
  | rateBind (o : ObjA) | rateSet (o : ObjA) | rateHold (o : ObjA) | rateRead (o : ObjD)
  -- Atomics (R94)
  | amoI32 (o : Amo) | amoI64 (o : Amo) | amoN32 (o : Amo) | amoN64 (o : Amo) | casN32 (o : Cas) | casN64 (o : Cas)
  | amofF32 (o : Amo) | amofBf16 (o : Amo)
  -- Vector, float (R95)
  | vadd (o : VV) | vsub (o : VV) | vmul (o : VV) | vfma (o : VV) | vfms (o : VV) | vfnma (o : VV)
  | vmin (o : VV) | vmax (o : VV) | vminp (o : VV) | vmaxp (o : VV) | vabs (o : VU) | vneg (o : VU)
  | vexp2 (o : VU) | vlog2 (o : VU) | vrcp (o : VU) | vrsqrt (o : VU) | vtanh (o : VU) | vsigm (o : VU)
  | vrsum (o : VU) | vrmax (o : VU) | vrmin (o : VU) | vcsum (o : VU)
  -- Vector, integer (R95)
  | viadd (o : VV) | visub (o : VV) | vimul (o : VV) | vand (o : VV) | vor (o : VV) | vxor (o : VV)
  | vshl (o : VV) | vshr (o : VV) | vsra (o : VV)
  -- Vector, compare and mask (R95)
  | vcmpEq (o : VV) | vcmpNe (o : VV) | vcmpLt (o : VV) | vcmpLe (o : VV) | vcmpGt (o : VV) | vcmpGe (o : VV)
  | vcmpEqInt (o : VV) | vcmpNeInt (o : VV) | vcmpLtInt (o : VV) | vcmpLeInt (o : VV) | vcmpGtInt (o : VV) | vcmpGeInt (o : VV)
  | vsel (o : VVnz) | mlogAnd (o : VMask) | mlogOr (o : VMask) | mlogXor (o : VMask) | mlogAndn (o : VMask)
  | vcompress (o : VVnz) | vexpand (o : VV) | vtrn (o : VU) | viota (o : VDst)
  -- Vector, conversion (R95, R96)
  | vcvt (o : VV) | vcvtSat (o : VV) | vcvtToInt (o : VV) | vqntBlk16 (o : VV) | vqntBlk32 (o : VV)
  -- Vector, VS layout (R97)
  | vbcast (o : VS) | vmovs (o : VMov) | vpop (o : VPopF) | vpush (o : VPushF) | vrot (o : VS) | vshape (o : VSb) | vsetrm (o : VSb)
  | amod (o : VSlot) | amov (o : VSlot) | aadd (o : VSlot) | mpop (o : VMpop)
  -- Vector, VA layout (R98)
  | vld (o : VA) | vst (o : VA) | vlds (o : VA) | vsts (o : VA) | vgath (o : VAIdx) | vscat (o : VAIdx) | vldt (o : VTr) | vstt (o : VTrS)
  -- Hearth (R99)
  | hadmitA (o : HAdmA) | hadmitS (o : H2) | hadmitG (o : HAdmG) | hadmitU (x : Bool) | hdrop (o : H1)
  | hload (o : H1F) | hstore (o : H1F) | hspill (o : H2) | hfill (o : H1) | hwset (o : H1) | hzero (opt : BitVec 5)
  | hhad (n : BitVec 2) | hsetk (o : H1F) | hmesh (o : H1) | hcfg (o : H2) | hbind (o : H1) | hver (o : HVerF)
  | hfreeze (o : H1) | hthaw (o : H1) | hdrain
  -- Copy (R100)
  | ctpl (o : CTplF) | cpy (o : Cpy) | cpyx (o : Cpy) | cpyt (o : Cpy) | cgath (o : Cpy) | cscat (o : Cpy)
  | czero (o : CZeroF) | cwaitCopy (sa : BitVec 5) | cfence (sc : BitVec 3)
  | credF32 (o : Cpy) | credBf16 (o : Cpy) | credF32Det (o : Cpy) | credBf16Det (o : Cpy) | crede (sa : BitVec 5)
  -- Step words (R101)
  | send (o : StepF) | recv (o : StepF) | rrs (o : StepF) | copy (o : StepF) | wait (o : StepF) | loopb (o : StepF)
  | loope (o : StepF) | peer (o : StepF) | sitadv (o : StepF) | sitret (o : StepF) | kout (o : StepF) | done (o : StepF)
  -- Moves of the step engine: the step context's handle and the armed step's age (R268, R276)
  | stepFire (h : Nat) (age : Nat) | stepComplete (h : Nat) (age : Nat) | stepWatchdog (h : Nat)
  -- Waits, watchdogs, page replies and deliveries (R52, R78, R357, R358, R363, R364)
  | waitSatisfied (c : CtxRef) | waitWatchdog (c : CtxRef) | maxiterWatchdog (c : CtxRef) | pageRequestWatchdog (c : CtxRef)
  | pageGrant (vf : Nat) (id : Nat) (ipa : Nat) | pageDeny (vf : Nat) (id : Nat) (ipa : Nat)
  | faultDelivery (c : CtxRef) | eventDelivery (c : CtxRef)
  -- Leases, Proofer, Dortas (R157, R164, R172, R327 to R330, R336)
  | leaseRunEnd (g : Nat) | prooferPeriod (g : Nat) (l : Nat) | yieldDecision (slot : Nat) | vtCharge | bindDecision
  | slotSubmit (slot : Nat) | reclaimTimeout | quotaExhausted (rcb : Nat) (bytes : Bool) | quotaKillTimeout (slot : Nat)
  -- Pre-emption, restore, kill, rollback, scrub (R337, R341, R342, R346, R366)
  | hardPreempt (slot : Nat) | contextStop (c : CtxRef) | saveComplete (slot : Nat) | restore (slot : Nat) | restoreRunning (slot : Nat)
  | killSequence (slot : Nat) | drainMarkerComplete (slot : Nat) (stack : Nat) | rollback (rcb : Nat)
  | scrub (u : ScrubUnit) (sector : Nat) (f : ScrubFinding)
  -- Hearth (R217, R230, R231, R235, R244, R300); `west` names the peel, `south` the converter
  | waveAdmit (g : Nat) (west : Bool) | peelWatchdog (g : Nat) (west : Bool) | waveAtCell (g : Nat) (w : Nat) (i : Nat) (j : Nat)
  | stashValid (g : Nat) (t : Nat) | stashFree (g : Nat) (t : Nat) | edgeUnitTake (g : Nat) (edge : Nat) | converterPush (g : Nat) (south : Bool)
  -- Copies and Winze (R250, R321)
  | copyBegin (c : CtxRef) | copyComplete (c : CtxRef) | contributionArrival (stack : Nat) (c : CtxRef)
  | credeArrival (stack : Nat) (c : CtxRef) | refusedRetry (stack : Nat) (c : CtxRef)
  -- The ordering machine (R282 to R284): accesses by number
  | holdBufferLeave (id : Nat) | storeMerge (first : Nat) (second : Nat) | sectorWriteback (core : Nat) (sector : Nat) | storeScopeRise (id : Nat) (sc : Scope)
  -- Banks and invalidations (R307, R355)
  | bankSwitchDone (g : Nat) (b : Nat) | invalComplete (vf : Nat)
  -- Renain messages and the fabric (R373 to R382, R387)
  | cts (m : Msg) | data (m : Msg) | ack (m : Msg) | coded (m : Msg) | dnak (m : Msg) | retransmitTimeout (psn : Nat)
  | sia (m : Msg) | siw (m : Msg) | sitEntryRemove (die : Nat) (vf : Nat) (blkid : BitVec 16) (blkg : BitVec 8)
  | packetForward (m : Msg) | codedForm (adit : Nat) | rmaWr (m : Msg) | rmaRd (m : Msg) | rmaResp (m : Msg)
  -- Host commands (R385)
  | vfCreate (c : Cmd) | vfDestroy (c : Cmd) | s1root (c : Cmd) | s2root (c : Cmd) | inval (c : Cmd) | imgLoad (c : Cmd)
  | rcbWrite (c : Cmd) | lrecWrite (c : Cmd) | rcbCreate (c : Cmd) | rcbDelete (c : Cmd) | lrecArm (c : Cmd) | kill (c : Cmd)
  | preempt (c : Cmd) | resume (c : Cmd) | rwinSet (c : Cmd) | rmawinSet (c : Cmd) | routeSet (c : Cmd) | cgrpEn (c : Cmd)
  | keySet (c : Cmd) | assayRead (c : Cmd) | faultReport (c : Cmd)
  -- Power and bring-up (R393, R398, R402, R403)
  | powerOn | bringupComplete | supplyFailWarning | assaySaveTick | throttle (groups : BitVec 32)
  -- Results and words that are no instruction (R80, R83)
  | resultLands (c : CtxRef) (n : Nat) | unallocatedEncoding (e : DecodeErr) (w : Word)
  deriving DecidableEq, Repr

end Sys2Proof
end

