-- ==== Sys2Proof/Machine/Context.lean ====
section
/-! DEFINITION. The state of one context (R25 to R43) and of one step context (R267): registers, sequencer, results outstanding,
held faults and events, and what a context waits for. Plain data. -/
namespace Sys2Proof.Machine

/-- A fault or event to deliver: code, ECAUSE detail, EVAL, and whether it is an event (R40, R361, R364). -/
structure FaultRec where
  code : BitVec 8
  detail : BitVec 8
  eval : Word
  event : Bool
  deriving DecidableEq, Repr

/-- The states of a context (R27). -/
inductive Phase where
  | ready | waiting | stopped | joined
  deriving DecidableEq, Repr

/-- One entry of the loop stack (R30, R136). -/
structure LoopEntry where
  count : Nat
  index : Nat
  start : Word
  stop : Word
  stages : Nat
  depth : Bool
  deriving DecidableEq, Repr

/-- Where a party stands: its engine, group and VF, which fix distances (R278). `eng` numbers engines over the device:
0 to 127 control engines, 128 to 255 vector engines, 256 to 319 copy engines, 320 to 351 Hearths, 352 and 353 step engines,
354 to 361 Winzes, 362 the host. -/
structure Loc where
  eng : Nat
  grp : Nat
  vf : Nat
  deriving DecidableEq, Repr

/-- A page's ordering attribute (R287, R352). -/
inductive PageOrd where
  | so | rc | uo
  deriving DecidableEq, Repr

/-- A page's coherence attribute (R352). -/
inductive PageCoh where
  | priv | rsh | coh
  deriving DecidableEq, Repr

/-- What a translation gives for one page (R115, R352, R353). `remote` is the remote window of a page that maps another G7 (R377). -/
structure PageInfo where
  pa : Nat
  ord : PageOrd
  cohr : PageCoh
  fmt : BitVec 4
  blk : Bool
  ckpt : Bool
  remote : Option Nat
  deriving DecidableEq, Repr

/-- A run of bytes within one 32-byte sector with its page's attributes. -/
structure Piece where
  pa : Nat
  len : Nat
  page : PageInfo
  deriving DecidableEq, Repr

/-- What an access does when it is performed. -/
inductive AtomOp where
  | swap | add | and | or | xor | min | max | minn | maxn | cas (cmp : Word) | faddF32 | fminF32 | fmaxF32 | faddBf16 | fminBf16 | fmaxBf16
  deriving DecidableEq, Repr

/-- Where a result lands (R34, R186). -/
inductive Dest where
  | s (n : BitVec 5)
  | tile (n : BitVec 4)
  | mask (n : BitVec 3)
  | none
  deriving DecidableEq, Repr

/-- One element of a vector memory access: element position, the bytes it reads with their page, and for a BFP page the bit
its mantissa starts at (its last piece is the exponent byte). -/
structure ElemAccess where
  pos : Nat
  pieces : List Piece
  bit : Nat
  deriving DecidableEq, Repr

/-- How loaded elements become tile elements (R116, R205): page format, TY, tile element width, rounding mode and xorshift state at issue. -/
structure Conv where
  fmt : BitVec 4
  ty : BitVec 3
  w : Nat
  mode : Nat
  seed : BitVec 32
  deriving DecidableEq, Repr

/-- What a release carries (R290): who made it under which id, its scope, the accesses it publishes, and the EVAL of a SCOPE_DEMOTED to
post once it is performed there (R145). -/
structure Release where
  by_ : CtxRef
  id : Nat
  scope : Scope
  deps : List Nat
  note : Option Word
  deriving DecidableEq, Repr

/-- What lands: a value known at issue, or an access that is performed as it lands (R142, R176, R206). -/
inductive Result where
  /-- A value known at issue (R80). -/
  | value (v : Word)
  /-- A register of a tile or mask that is written already and may be read only from its landing on (R186). -/
  | held
  /-- A scalar load: pieces in address order, each with its bytes once it is performed, sign extension, acquire scope (R142, R143). -/
  | load (pieces : List (Piece × Option (List Byte))) (signed : Bool) (acq : Option Scope)
  /-- An atomic (R176): its piece, operation, operand, sign extension, the scope it acquires at, and what it publishes as a release. -/
  | atomic (piece : Piece) (op : AtomOp) (v : Word) (signed : Bool) (acq : Option Scope) (rels : List Release)
  /-- A vector load: the tile before, elements read already (position and raw value), elements to read as it lands, and the
  conversion (R205, R206, R359). -/
  | vload (base : Tile) (got : List (Nat × Nat)) (elems : List ElemAccess) (conv : Conv)
  deriving DecidableEq, Repr

/-- A result outstanding (R34, R80): it lands at cycle `at` at the earliest. -/
structure Pend where
  id : Nat
  dst : Dest
  at_ : Nat
  what : Result
  /-- The EVAL of a SCOPE_DEMOTED to post when the access completes (R145). -/
  note : Option Word
  deriving DecidableEq, Repr

/-- What a WAITING context waits for (R27). -/
inductive WaitCond where
  /-- s register full (R34, R35). -/
  | full (n : BitVec 5)
  /-- No result outstanding for this tile or mask (R186). -/
  | landed (d : Dest)
  /-- Every result of the context has landed (R150, R154, R157). -/
  | allLanded
  /-- Accesses performed at a scope (R149, R290). -/
  | performed (ids : List Nat) (sc : Scope)
  /-- No acquire of the context outstanding (R144, R291). -/
  | noAcquire
  /-- A sector-request slot is free on the engine (R147). -/
  | requestSlot
  /-- A page request for one of these IPA pages has been answered (R146, R209, R356). -/
  | pageReply (pages : List Nat)
  /-- Slot `head mod C` FREE, or slot `tail mod C` FULL (R165). -/
  | troughFree (grp t : Nat)
  | troughFull (grp t : Nat)
  /-- PHASE differs from the phase arrived in (R161). -/
  | phaseNot (grp r : Nat) (p : BitVec 16)
  /-- The lease of this Hearth is held by the context's instance (R163). -/
  | lease (grp : Nat)
  /-- A context slot or a context number is free (R159). -/
  | contextSlot (kind : Kind) (eng : Nat)
  /-- A step context is free (R180). -/
  | stepSlot
  /-- The step context has ended (R181). -/
  | stepEnd (h : Nat)
  /-- A route's FIFO has an entry, has room, or is empty (R43, R169, R315). -/
  | routeData (grp r : Nat)
  | routeRoom (grp r : Nat)
  | routeEmpty (grp r : Nat)
  /-- Bank not switching (R307, R308). -/
  | bankIdle (grp b : Nat)
  /-- The forked contexts have joined (R28, R154, R157). -/
  | children
  /-- The instance's step contexts have stopped (R182). -/
  | stepsStopped
  /-- Dortas has answered the YIELD offer (R157). -/
  | yieldReply
  /-- The Hearth or sheet is quiescent (R220); a Hearth instruction goes on also if it has been frozen, an ERET.HALT does not (R154). -/
  | quiescent (grp : Nat)
  | joinQuiet (grp : Nat)
  /-- The peel's queue has room (R222). -/
  | peelRoom (grp : Nat) (west : Bool)
  /-- A stash slot of this Hearth is neither reserved nor in use (R234, R243). -/
  | stashIdle (grp slot : Nat)
  /-- Every entry of the copy queue, CFENCE and CREDE included, has completed (R154). -/
  | copyEmpty
  /-- A page of the completion record's address has been answered (R23); Dortas waits, not the context, and no watchdog runs. -/
  | complReply (ipa : Nat)
  /-- The copy queue has room (R250), or at most `n` copies remain (R252). -/
  | copyRoom
  | copiesLeft (n : Nat)
  /-- No CPYX is in the copy queue (R259). -/
  | copyFlags
  /-- Earlier copies of the context have moved on: accesses to one byte are performed in program order (R251). -/
  | copyOrder (pieces : List Piece) (write : Bool)
  /-- A remote load's response has arrived (R377). -/
  | remote (id : Nat)
  /-- The instance's SIT references have drained (R28, R378). -/
  | sitDrained
  /-- Slot `head mod C` FREE, or slot `tail mod C` FULL, with no request for the slot (R165). -/
  | headFree (grp t : Nat)
  | tailFull (grp t : Nat)
  /-- A later cycle than this one: an access that goes first in it has been made by another context already (R46, R179, R313). -/
  | cycleAfter (c : Nat)
  /-- The replayed capture of the VF presents this event (R405): its kind and what names it. -/
  | replay (kind a b : Nat)
  deriving DecidableEq, Repr

/-- A wait: its condition, the cycle it began in, and the watchdog bound in force (R52, R156). -/
structure WaitRec where
  cond : WaitCond
  since : Nat
  bound : Nat
  deriving DecidableEq, Repr

/-- The instructions that enter the copy queue (R250). -/
inductive CopyOp where
  | cpy | cpyx | cpyt | cgath | cscat | czero | cred (bf det : Bool) | crede | cfence
  deriving DecidableEq, Repr

/-- One element of a copy (R258, R259): number in element order, source and destination addresses (`none`: the zero of CZERO, the slot's
side of CPYT at the byte offset `slotOff`), and bytes read and written. -/
structure CopyElem where
  k : Nat
  src : Option Nat
  dst : Option Nat
  slotOff : Nat
  n : Nat
  w : Nat
  deriving DecidableEq, Repr

/-- A contribution on its way to a Winze (R264): its element, stack, destination and value. -/
structure Contrib where
  k : Nat
  stack : Nat
  va : Word
  pa : Nat
  ckpt : Bool
  value : Nat
  deriving DecidableEq, Repr

/-- A copy-queue entry (R250 to R266): the instruction with its operands, template, rounding mode and stochastic state as they were at issue,
the accesses that a release of it waits for and those that its trough transitions do, and its progress. -/
structure CopyEntry where
  id : Nat
  op : CopyOp
  x : Word
  y : Word
  list : Word
  tpl : BitVec 512
  rel : Option Scope
  rm : Nat
  seed : BitVec 32
  pc : Word
  begun : Bool
  /-- Elements not yet come to, and elements kept back by a page, a bank, an earlier access or a remote answer (R255, R359). -/
  todo : List CopyElem
  left : List CopyElem
  /-- The end of the last 4,096-byte stretch begun, as an element number (R255). -/
  upto : Nat
  /-- Of a gather or scatter: rows whose index has been read, and the number of the next element (R259). -/
  rows : Nat
  next : Nat
  /-- The first page that each side has touched (R260). -/
  sp : Option PageInfo
  dp : Option PageInfo
  ids : List Nat
  tids : List Nat
  /-- Contributions still to send, streams a Winze has refused (stack and cycle), Winze that have still to take a CREDE, and those whose round is
  still open (R264 to R266). -/
  contribs : List Contrib
  refused : List (Nat × Nat)
  creding : List Nat
  closing : List Nat
  /-- The trough of a CPYT and the slot it holds (R262). -/
  trough : Nat
  slotIx : Option Nat
  /-- Pages waited on, remote reads asked for and answered (R255, R377). -/
  missing : List Nat
  asked : List (Nat × Nat)
  answers : List (Nat × Option (List Byte))
  flags : BitVec 5
  /-- The cycle since which it waits for a slot or a page (R166, R358), and a demotion to post (R145). -/
  since : Option Nat
  note : Bool
  deriving DecidableEq, Repr

/-- What the access at a PC has passed when it waits for a page or for a remote response (R146, R377): its scope, per page the first address,
its IPA and the stage-1 leaf, the cycle of its issue, and the remote pieces answered, by address. -/
structure Passed where
  pc : Word
  scope : Option (Scope × Bool)
  pages : List (Nat × Nat × Word)
  since : Nat
  got : List (Nat × List Byte)
  deriving DecidableEq, Repr

/-- The state of one context (R33). -/
structure Context where
  slot : Nat
  num : Nat
  kind : Kind
  engine : Nat
  engSlot : Nat
  phase : Phase
  wait : Option WaitRec
  pc : Word
  s : Vector Word 32
  full : BitVec 32
  p : BitVec 8
  loops : List LoopEntry
  hd : Bool
  fcsr : Word
  epc : Word
  ecause : Word
  eval : Word
  tvec : Word
  wdog : Word
  wtro : Word
  wtok : Word
  wrdv : Word
  vshape : Word
  v : Vector Tile 16
  m : Vector Mask 8
  a : Vector Word 8
  am : Vector Word 8
  cb : Vector Word 8
  qb : Vector Word 4
  ct : Vector (BitVec 512) 64
  copyq : List CopyEntry
  jrdv : Nat
  pend : List Pend
  /-- An RDV that has arrived and waits: its PC and the phase it arrived in (R161). -/
  arrived : Option (Word × BitVec 16)
  /-- Pages whose request the hypervisor denied, not yet raised (R357). -/
  denied : List Nat
  /-- Pages whose denial a copy of the context has still to report (R254, R357). -/
  copyDenied : List Nat
  /-- A load from a remote page: its address, request id, and the response's bytes once it has come (`none` in it: denied) (R377). -/
  remoteLd : Option (Word × Nat × Option (Option (List Byte)))
  /-- What the access at its PC has passed already (R146). -/
  past : Option Passed
  /-- Held asynchronous faults (R363) and events (R364), oldest first. -/
  faults : List FaultRec
  events : List FaultRec
  /-- Cycles outside a wait since the last loop-iteration boundary (R78). -/
  sinceBoundary : Nat
  /-- Row marks of stream instructions: the word's PC, rows done, and route entries of the next row already moved (R213, R316). -/
  mark : List (Word × Nat × Nat)
  /-- Element positions done of a vector access under replay, with the raw values a load has read: the staging tile and
  pending-element mask (R358, R359). -/
  staging : List (Word × List (Nat × Nat))
  /-- Deficit counter, and the first cycle after the last issue (R333). -/
  dc : Int
  lastIssue : Nat
  /-- The halt code of an ERET.HALT that waits, and whether a YIELD offer stands (R28, R157). -/
  halting : Option (BitVec 16)
  yielding : Bool
  /-- The lease has passed from the instance and the LEASE_LOST of that is to be raised; it has been delivered (R164). -/
  leasePassed : Bool
  leaseLost : Bool
  /-- PC of an HE-private instruction that has passed its lease check and waits (R164). -/
  heAt : Option Word
  deriving DecidableEq, Repr

/-- A context with the register state of R29 and no identity: the values FORK, CSTART and a bind start from. -/
def Context.blank : Context where
  slot := 0
  num := 0
  kind := .cc
  engine := 0
  engSlot := 0
  phase := .joined
  wait := none
  pc := 0
  s := Vector.replicate 32 0
  full := BitVec.allOnes 32
  p := 1
  loops := []
  hd := false
  fcsr := 0x9E37_79B9_0000_0000
  epc := 0
  ecause := 0
  eval := 0
  tvec := 0
  wdog := 4096
  wtro := 0
  wtok := 0
  wrdv := 0
  vshape := 0x2810
  v := Vector.replicate 16 0
  m := Vector.replicate 8 0
  a := Vector.replicate 8 0
  am := Vector.replicate 8 0
  cb := Vector.replicate 8 0
  qb := Vector.replicate 4 0
  ct := Vector.replicate 64 0
  copyq := []
  jrdv := 0
  pend := []
  arrived := none
  denied := []
  copyDenied := []
  remoteLd := none
  past := none
  faults := []
  events := []
  sinceBoundary := 0
  mark := []
  staging := []
  dc := 0
  lastIssue := 0
  halting := none
  yielding := false
  leasePassed := false
  leaseLost := false
  heAt := none

/-- What a context is called (R159, R325). -/
def Context.ref (c : Context) : CtxRef := ⟨c.slot, c.num⟩

end Sys2Proof.Machine
end

