-- ==== Sys2Proof/Machine/Tables.lean ====
section
/-! DEFINITION. The device's tables as plain data: sparse tables, region control blocks and launch records (R11 to R19), program
images (R76), the slot table (R325), troughs, tokens, rendezvous points, routes, Proofer loops and banks (R44, R168, R170, R306, R315),
and the stores of the ordering machine (R280). -/
namespace Sys2Proof.Machine

/-! ## Sparse tables: key and value pairs, keys strictly rising -/

/-- A table of values by number; a number not listed is not in the table. -/
abbrev Tbl (α : Type) := List (Nat × α)

def Tbl.get? {α : Type} (t : Tbl α) (k : Nat) : Option α :=
  match t with
  | [] => none
  | (k', v) :: rest => if k' = k then some v else Tbl.get? rest k

def Tbl.set {α : Type} (t : Tbl α) (k : Nat) (v : α) : Tbl α :=
  match t with
  | [] => [(k, v)]
  | (k', v') :: rest =>
    if k < k' then (k, v) :: (k', v') :: rest
    else if k = k' then (k, v) :: rest
    else (k', v') :: Tbl.set rest k v

def Tbl.del {α : Type} (t : Tbl α) (k : Nat) : Tbl α :=
  match t with
  | [] => []
  | (k', v') :: rest => if k' = k then rest else (k', v') :: Tbl.del rest k

/-- The lowest number from `lo` up that is not in the table, within `n` numbers. -/
def Tbl.lowestFree {α : Type} (t : Tbl α) (lo : Nat) : Nat → Option Nat
  | 0 => none
  | n + 1 => if (Tbl.get? t lo).isSome then Tbl.lowestFree t (lo + 1) n else some lo

/-! ## Fields of wide records -/

/-- Field [hi:lo] of a record as a number. -/
def fieldN {n : Nat} (b : BitVec n) (hi lo : Nat) : Nat := (b.extractLsb' lo (hi + 1 - lo)).toNat

/-- A record with field [hi:lo] replaced. -/
def setField {n : Nat} (b : BitVec n) (hi lo : Nat) (v : Nat) : BitVec n :=
  let mask := (BitVec.allOnes n >>> (n - (hi + 1 - lo))) <<< lo
  (b &&& ~~~mask) ||| ((BitVec.ofNat n v <<< lo) &&& mask)

/-! ## The region tree and launch records -/

/-- A node of the RCB table: the 512-bit record of R12, its virtual time (R328), its use counts of cycles and bytes (R336),
and its launch pool (R18): the pool's size and the 1,024-bit records (R19) with the cycle of their arming (R51). -/
structure RcbNode where
  bits : BitVec 512
  vt : Nat
  cycUse : Nat
  bytUse : Nat
  poolSize : Nat
  pool : Tbl (BitVec 1024)
  armedAt : Tbl Nat
  /-- Quota exhaustion standing at the node: cycles, bytes (R336). -/
  exhCyc : Bool
  exhByt : Bool
  /-- The node's subtree held an eligible record, and its effective SHARE was not 0, at the last look (R328). -/
  elig : Bool
  shared : Bool
  /-- Effective SHARE and PCLASS as they stood at the last virtual-time update (R16). -/
  share : Nat
  pclass : Nat
  /-- For a record, the cycles its condition read has waited on page requests, and the cycle in which a wait of it began (R22, R51). -/
  condWait : Tbl (Nat × Option Nat)
  /-- The cycle from which BINDMAX counts again: a quota restored, a SHARE no longer 0 (R51, R336). -/
  since : Nat
  deriving DecidableEq, Repr

/-! ## Program images -/

/-- A code section of an image: offset from CODEOFF, length and kind (R76). -/
structure Section_ where
  off : Nat
  len : Nat
  kind : Kind
  deriving DecidableEq, Repr

/-- A trough declaration (R76). -/
structure TroughDecl where
  slots : Nat
  dev : Bool
  slotBytes : Nat
  deriving DecidableEq, Repr

/-- A loop entry of a .rate directive (R76): the record, loop number, source and the two labels. -/
structure RateDecl where
  record : BitVec 128
  loop : Nat
  route : Bool
  src : Nat
  prod : Nat
  cons : Nat
  deriving DecidableEq, Repr

/-- A loaded program image (R76, R385): its VF, its header, its section table, its code bytes from CODEOFF on, and its declarations. -/
structure Image where
  vf : Nat
  header : BitVec 1024
  secs : List Section_
  code : List Byte
  troughs : List TroughDecl
  rates : List RateDecl
  deriving DecidableEq, Repr

/-! ## The slot table -/

/-- What a checkpoint records (R182). -/
structure Checkpoint where
  pc : Word
  s : Vector Word 32
  p : BitVec 8
  loops : List LoopEntry
  hd : Bool
  fcsr : Word
  epc : Word
  tvec : Word
  wdog : Word
  dest : BitVec 5
  valid : Bool
  rollbacks : Nat
  deriving DecidableEq, Repr

/-- Why an instance is being killed (R342, R365). -/
inductive KillCause where
  | reason (code : Nat)
  | fault (f : FaultRec) (ctx : Nat) (epc : Word)
  | rollback
  deriving DecidableEq, Repr

/-- A lease as a stop records it (R338): the groups it covers, and whether they are a sheet. -/
structure SavedLease where
  grps : List Nat
  sheet : Bool
  deriving DecidableEq, Repr

/-- A slot-table entry: the bind record (R325) and what Dortas and the hardware keep beside it. -/
structure Slot where
  bind : BitVec 1024
  image : Nat
  bindCycle : Nat
  sliceStart : Nat
  chargedAt : Nat
  ckpt : Option Checkpoint
  kill : Option KillCause
  /-- Stacks whose drain marker has not completed, each with the number of the first access after the marker (R342). -/
  markers : List (Nat × Nat)
  /-- A late record has asked the instance to yield at this cycle (R330). -/
  yieldAsked : Option Nat
  /-- Strict quotas that stand exhausted and have been delivered: the node, whether of bytes, and the cycle (R336). -/
  quotaAt : List (Nat × Bool × Nat)
  /-- The instance was stopped by a stalled quota (R336). -/
  quotaStop : Bool
  /-- Leases and step contexts recorded by a stop (R338); saved context records are the contexts themselves, STOPPED. -/
  leases : List SavedLease
  /-- Suspended by YIELD, waiting to be bound again (R157, R158). -/
  suspended : Bool
  /-- The cycle of the offer a YIELD of the instance makes to Dortas, while it stands (R157). -/
  offer : Option Nat
  /-- Rollback of the instance's domain is under way: its drain markers are queued (R346). -/
  rolling : Bool
  /-- The bind record as it was before its engines went free: of a stopped entry whose engines Dortas has taken back (R330, R341), of a retiring
  one past step 3 of R28. -/
  held : Option (BitVec 1024)
  deriving DecidableEq, Repr

/-! ## Shared objects -/

/-- The 2-bit states of a trough slot (R165). -/
inductive SlotState where
  | free | filling | full | draining
  deriving DecidableEq, Repr

/-- A priority pointer (R313): where it stands, the latest cycle in which requests of its kind were made, how many they were, and one more than
the rank of the last one served. -/
structure Ranked where
  ptr : Nat
  cycle : Nat
  met : Nat
  last : Nat
  deriving DecidableEq, Repr

def Ranked.reset : Ranked := ⟨0, 0, 0, 0⟩

/-- A trough descriptor (R44, R165, R311): `base` is an allotment offset. -/
structure Trough where
  base : Nat
  cap : Nat
  slotBytes : Nat
  dev : Bool
  conf : Bool
  inc : Bool
  head : Nat
  tail : Nat
  claimed : Nat
  filled : Nat
  slots : List SlotState
  counts : List (BitVec 32)
  /-- For each slot the cycle after its latest fill (R166, R213). -/
  filledAt : List Nat
  owner : Nat
  claimPtr : Ranked
  takePtr : Ranked
  deriving DecidableEq, Repr

/-- A token queue (R44, R45), and the cycle after its latest addition or consumption (R179). -/
structure TokenQ where
  count : BitVec 16
  gen : BitVec 16
  used : Nat
  deriving DecidableEq, Repr

/-- A rendezvous point (R44, R46): the cycle after its latest update and the context number that made it stand beside its fields. -/
structure Rdv where
  exp : Nat
  arr : Nat
  phase : BitVec 16
  at_ : Nat
  by_ : Nat
  deriving DecidableEq, Repr

/-- An endpoint of a route (R168). -/
structure Endpoint where
  code : Nat
  unit : Nat
  deriving DecidableEq, Repr

/-- An entry of a route FIFO (R315), with the cycle it was pushed in. -/
structure RouteEntry where
  bytes : List Byte
  unitEnd : Bool
  pushed : Nat
  deriving DecidableEq, Repr

/-- A route (R168, R315): entries in push order; the extension bank if any; the port counter of R317; who has pushed part of a unit (R316). -/
structure Route where
  owner : Nat
  src : Endpoint
  dst : Endpoint
  entries : List RouteEntry
  ext : Option Nat
  counter : Nat
  partway : Option CtxRef
  deriving DecidableEq, Repr

/-- A Proofer loop (R170 to R174). -/
structure RateLoop where
  owner : Nat
  ctx : Nat
  prod : Nat
  cons : Nat
  route : Bool
  src : Nat
  set : Bool
  param : BitVec 128
  i : Int
  e : Int
  wp : Nat
  wc : Nat
  pcnt : Nat
  hold : Bool
  frozen : Bool
  /-- Sign of the last non-zero e, and which of the last 16 periods changed it (R174). -/
  sign : Option Bool
  history : List Bool
  a : Nat
  z : Nat
  /-- Accepted, bound anew or resumed after a stop: it measures again from the next period boundary (R170, R341, R350). -/
  resuming : Bool
  deriving DecidableEq, Repr

/-- A group-SRAM bank (R305 to R307): 0 cache, 1 scratchpad, 2 FIFO; the switch running and the context that started it. -/
structure Bank where
  mode : Nat
  route : Nat
  attached : Bool
  busy : Bool
  toMode : Nat
  toRoute : Nat
  by_ : Option CtxRef
  since : Nat
  /-- The bound of the wait for its extension, from the WDOG in force when it started (R156, R307). -/
  bound : Nat
  deriving DecidableEq, Repr

/-! ## The ordering machine -/

/-- A store or atomic's write that is not yet performed everywhere (R279 to R284): id, issuer, its place, bytes of one sector,
its page, and ps (`none` in the hold buffer). -/
structure StoreRec where
  id : Nat
  /-- Stores that this one holds as well: merged in the hold buffer (R282), or written back with a sector (R283). -/
  also : List (CtxRef × Nat)
  by_ : CtxRef
  loc : Loc
  pa : Nat
  bytes : List Byte
  page : PageInfo
  ps : Option Scope
  rels : List Release
  /-- The sector request it belongs to (R147, R303), and the access whose pieces are in no order with one another (R287). -/
  req : Nat
  pair : Nat
  /-- A copy's write, for which a FENCE does not wait (R149, R251). -/
  copy : Bool
  /-- A remote store that has been sent and is not acknowledged (R284, R377), and the address that a denial of it reports. -/
  sent : Bool
  va : Word
  deriving DecidableEq, Repr

/-- A store as it enters the hold buffer. -/
def StoreRec.new (id : Nat) (by_ : CtxRef) (loc : Loc) (pa : Nat) (bytes : List Byte) (page : PageInfo) : StoreRec :=
  ⟨id, [], by_, loc, pa, bytes, page, none, [], id, id, false, false, 0⟩

/-- A 32-byte sector of a PRIV page held by a core's L1 (R283, R301): the page's UO and CKPT, the last context that stored to it and where
that stands, and, while it is dirty, the stores it holds, what those of them that are releases publish, and whether one is to an SO page. -/
structure L1Sector where
  core : Nat
  pa : Nat
  bytes : List Byte
  dirty : Bool
  uo : Bool
  ckpt : Bool
  by_ : CtxRef
  loc : Loc
  stores : List (CtxRef × Nat)
  rels : List Release
  so : Bool
  deriving DecidableEq, Repr

/-- Bytes as a party saw them at one moment, which its loads from RSH and UO pages may still return (R285): the party, a number that rises
with the moment, whether only UO loads may, and addresses with their bytes. -/
structure OldCopy where
  by_ : CtxRef
  gen : Nat
  uoOnly : Bool
  cells : List (Nat × Byte)
  deriving DecidableEq, Repr

/-- A page request (R356): id, the 64 KiB IPA page, the rights (bit 0 R, 1 W, 2 X) and the waiters. -/
structure PageReq where
  id : BitVec 16
  ipa : Nat
  rights : BitVec 3
  waiters : List CtxRef
  deriving DecidableEq, Repr

/-- A remote memory access window (R387): IPA base, length, rights. -/
structure RmaWin where
  base : Nat
  len : Nat
  r : Bool
  w : Bool
  deriving DecidableEq, Repr

/-- A remote window (R377): target endpoint, IPA base in the target VF, length, rights R and W. -/
structure RemoteWin where
  target : Word
  base : Nat
  len : Nat
  r : Bool
  w : Bool
  deriving DecidableEq, Repr

/-- An RMA request of this device that awaits its response: who made it, and the held record it carries, if any, by id and address (R284, R377). -/
structure RemoteReq where
  rid : Nat
  by_ : CtxRef
  store : Option (Nat × Nat)
  va : Word
  deriving DecidableEq, Repr

/-- What Dortas holds of a VF (R351, R356, R371, R383, R385). -/
structure Vf where
  cgrp : Word
  share : Nat
  mgmt : Word
  s1root : Option Nat
  s2root : Option Nat
  reqs : List PageReq
  nextReq : BitVec 16
  /-- Handles of transport security keys (R371). -/
  keys : List Word
  rma : Tbl RmaWin
  deriving DecidableEq, Repr

/-- An event of a capture as a replay presents it (R404, R405): its kind, what names it (kind 1: RCB index and record index; 2: PSN and
source endpoint; 3: engine; 4: loop; 5: id and verdict; 6: sector and issuer; 7: context), and what it recorded. -/
structure Captured where
  kind : Nat
  a : Nat
  b : Nat
  vals : List Int
  deriving DecidableEq, Repr

/-- A VF that runs from its capture (R405): events to come, whether the capture ended with kind 0xFF, and whether the replay has stopped. -/
structure Replay where
  events : List Captured
  cut : Bool
  stopped : Bool
  deriving DecidableEq, Repr

/-- An undo record (R344): the stack's log, the instance, the sector's address and its old bytes. -/
structure UndoRec where
  stack : Nat
  slot : Nat
  pa : Nat
  old : List Byte
  seq : Nat
  deriving DecidableEq, Repr

/-- What the Assay keeps of a VF (R183, R398 to R401): counters 0 to 9 (10 is formed from them), the copy in its own store, LOST,
RESETS, and the SEQ of the VF's latest report. -/
structure AssayVf where
  ctr : List Nat
  kept : List Nat
  lost : Bool
  resets : Nat
  lastSeq : Nat
  deriving DecidableEq, Repr

end Sys2Proof.Machine
end

