-- ==== Sys2Proof/Machine/HearthState.lean ====
section
/-! DEFINITION. The state of one group's Hearth: leases and runs (R163, R164), cells and Hearth-wide state (R215), peels, waves in flight
and converters (R216 to R222), and the sheet it belongs to (R238). -/
namespace Sys2Proof.Machine

/-- A request for a lease: the instance, the groups of the Hearths it covers, whether it is a reclaim request, and the cycle and core it came
from (R163, R164). -/
structure LeaseReq where
  slot : Nat
  grps : List Nat
  reclaim : Bool
  cycle : Nat
  core : Nat
  deriving DecidableEq, Repr

/-- One cell (R215). In a BFP tile c and cp hold mantissas, their exponents stand in the Hearth. -/
structure Cell where
  w : BitVec 32
  c : BitVec 16
  cp : BitVec 16
  g : BitVec 32
  m : BitVec 32
  v : BitVec 8
  deriving DecidableEq, Repr

def Cell.reset : Cell := ⟨0, 0, 0, 0, 0, 0⟩

/-- The states of a stash slot (R230). -/
inductive StashState where
  | free | writing | valid | reading
  deriving DecidableEq, Repr

/-- A stash record (R215), with the array cycle after its latest change of state (R300). -/
structure StashRec where
  tag : BitVec 16
  ver : BitVec 8
  st : StashState
  at_ : Nat
  deriving DecidableEq, Repr

def StashRec.reset : StashRec := ⟨0, 0, .free, 0⟩

/-- The kinds of wave (R217): A, S, G, U, the U export, HWSET and HFILL. -/
inductive WaveKind where
  | a | s | g | u | ux | hwset | hfill
  deriving DecidableEq, Repr

/-- What a peel does with its head wave (R228, R231). -/
inductive Verdict where
  | hold | enter
  /-- Discarded with a peel fault; the flag says that its slot becomes FREE. -/
  | discard (code : BitVec 8) (free : Bool)
  deriving DecidableEq, Repr

/-- The options of an admission (R222). -/
structure WaveOpt where
  ns : Bool
  seed : Bool
  rot : Bool
  rb : Nat
  dx : Bool
  deriving DecidableEq, Repr

/-- An instruction queued at a peel (R222, R241, R243): kind, waves, tag base, options, waves admitted so far, issue order, issuer,
HWSET's weight image or HFILL's stash words, HFILL's version. -/
structure PeelOp where
  kind : WaveKind
  n : Nat
  base : BitVec 16
  opt : WaveOpt
  k : Nat
  seq : Nat
  by_ : CtxRef
  image : List Nat
  ver : BitVec 8
  deriving DecidableEq, Repr

/-- A wave in flight (R217 to R228): admission cycle, tag, stamp, its elements (raw encodings or BFP mantissas) and block exponents,
latched hk0 to hk2, HWSET's image or HFILL's stash words, columns passed in each row, its sums (FP32 encodings by column, row, or cell for an
export), the exact block sums of R121, and the output units that have left (by member, and row for an export). -/
structure Wave where
  num : Nat
  kind : WaveKind
  start : Nat
  tag : BitVec 16
  stamp : BitVec 8
  opt : WaveOpt
  elems : List Nat
  exps : List Nat
  hk : List (BitVec 32)
  image : List Nat
  passed : List Nat
  sums : Tbl Nat
  parts : Tbl Int
  left : List Nat
  by_ : CtxRef
  deriving DecidableEq, Repr

/-- The Hearth of a group. -/
structure Hearth where
  /-- The instance that holds the lease, the groups the lease covers, and its run (R163, R164). -/
  holder : Option Nat
  leaseGrps : List Nat
  runStart : Nat
  runCount : Nat
  /-- Lead group, height and width of the sheet the Hearth belongs to (R238). -/
  sheet : Option (Nat × Nat × Nat)
  frozen : Bool
  /-- Trough bound to each edge code by HBIND (R244), by its key in the trough table. -/
  binds : Tbl Nat
  /-- Cells by 1,024 i + j; a cell not listed is at its reset values (R215). -/
  cells : Tbl Cell
  /-- Stash words by 64 t + i, the same in every column (R247); not listed: 0. -/
  stash : Tbl (BitVec 16)
  recs : Vector StashRec 16
  /-- Hadamard signs by row; not listed: 0 (R215, R237). -/
  signs : Tbl (BitVec 1024)
  /-- BFP segment exponents of c and cp by 1,024 b + j; not listed: 0 (R215). -/
  cExp : Tbl Nat
  cpExp : Tbl Nat
  hord : Nat
  hk : Vector (BitVec 32) 4
  hstat : BitVec 12
  cfg : Word
  vw : BitVec 8
  sseed : BitVec 32
  wseed : BitVec 32
  /-- The peels' queues (R222). -/
  west : List PeelOp
  south : List PeelOp
  /-- Units in the peel buffers by edge code (R216). -/
  bufs : Tbl (List (List Byte))
  waves : List Wave
  /-- Converted units of the south and west converters, and entries of the first one pushed already (R217, R235). -/
  outS : List (List Byte)
  outW : List (List Byte)
  sentS : Nat
  sentW : Nat
  /-- The array cycle, the cycle from which each peel may admit next (R219), and the cycle in which each head wave began to wait (R231). -/
  acyc : Nat
  nextWest : Nat
  nextSouth : Nat
  headWest : Option Nat
  headSouth : Option Nat
  /-- What the two peels do in an array cycle, from the state at its start, west first (R219, R229, R300). -/
  plan : Option (Nat × Verdict × Verdict)
  deriving DecidableEq, Repr

def Hearth.reset : Hearth where
  holder := none
  leaseGrps := []
  runStart := 0
  runCount := 0
  sheet := none
  frozen := false
  binds := []
  cells := []
  stash := []
  recs := Vector.replicate 16 StashRec.reset
  signs := []
  cExp := []
  cpExp := []
  hord := 64
  hk := Vector.replicate 4 0
  hstat := 0
  cfg := 0x0000000322002220
  vw := 0
  sseed := 0x9E3779B9
  wseed := 0x9E3779B9
  west := []
  south := []
  bufs := []
  waves := []
  outS := []
  outW := []
  sentS := 0
  sentW := 0
  acyc := 0
  nextWest := 0
  nextSouth := 0
  headWest := none
  headSouth := none
  plan := none

/-- What a freeze image's undocumented parts hold (R247, assumption 30): the number that names them, and the Hearths of the members. -/
structure FreezeRec where
  num : Nat
  members : List Hearth
  deriving DecidableEq, Repr

end Sys2Proof.Machine
end

