-- ==== Sys2Proof/Machine/DeviceState.lean ====
section
/-! DEFINITION. Step contexts and their matching store (R267 to R270), Winze rounds (R265, R321), the fabric (R374 to R382), Dortas'
reports (R410), and power-on (R393 to R407), as plain data. -/
namespace Sys2Proof.Machine

/-! ## Step contexts -/

/-- A loop counter of a step context (R267, R273). -/
structure StepLoop where
  count : Nat
  index : Nat
  start : Word
  active : Bool
  deriving DecidableEq, Repr

/-- The steps that are armed (R267, R272). -/
inductive StepOp where
  | send | recv | rrs | copy | wait | sitadv | sitret | kout | done
  deriving DecidableEq, Repr

/-- An armed step (R267, R268): age, word address, FL[2:0], input queues with their generations, output queue with its index, the
descriptor as resolved at arming, match numbers (R274); then its progress: fired, offsets a receive has taken, whether it has sent, and the
accesses it waits to see performed, remote reads asked for and answered (R377). -/
structure Armed where
  age : Nat
  op : StepOp
  pc : Word
  fl : BitVec 3
  ins : List (Nat × BitVec 16)
  out : Option (Nat × BitVec 8)
  lbuf : Word
  xbuf : Word
  len : Nat
  blkid : BitVec 16
  blkg : BitVec 8
  tag : BitVec 8
  peerA : Word
  peerB : Word
  matchA : Nat
  matchB : Nat
  armedAt : Nat
  fired : Bool
  got : List Nat
  sent : Bool
  started : Bool
  ids : List Nat
  asked : List (Nat × Nat)
  answers : List (Nat × Option (List Byte))
  /-- Acknowledgements a receive owes once these accesses are performed at dev (R375). -/
  owed : List (List Nat × Msg)
  deriving DecidableEq, Repr

/-- A step context (R267): `status` is none while it runs and CWAIT's word afterwards (R181). It has no EPC to address an instruction, and keeps no
MAXITER count of R78 (assumption 80, DESIGN CHOICE). -/
structure StepCtx where
  slot : Nat
  starter : CtxRef
  die : Nat
  pc : Word
  loops : List StepLoop
  pe : List Nat
  store : List Armed
  rank : Nat
  size : Nat
  ndesc : Nat
  peertab : Word
  table : Word
  wtok : Word
  wdog : Nat
  /-- Sends and receives armed so far by (2 × peer rank + side) × 256 + tag (R274). -/
  matched : Tbl Nat
  /-- The header of the descriptor table has been read (R269). -/
  ready : Bool
  /-- Pages whose request was denied (R357). -/
  denied : List Nat
  status : Option Word
  /-- The buffers its steps have named so far, and the number that accesses made since CSTART start from (R277, R296). -/
  named : List (Word × Nat)
  since : Nat
  deriving DecidableEq, Repr

/-! ## Winze rounds (R265, R321) -/

/-- A contribution held in a round's buffer: issuer index and the addition. -/
structure Held where
  idx : Nat
  by_ : CtxRef
  pa : Nat
  bf : Bool
  ckpt : Bool
  value : Nat
  deriving DecidableEq, Repr

/-- An open round at a stack's Winze: identity, issuer count, closed issuers, Serial, the holding buffer in arrival order, and who waits
for its close. -/
structure Round where
  stack : Nat
  vf : Nat
  num : Nat
  nim1 : Nat
  closed : List Nat
  serial : Bool
  held : List Held
  /-- The cycle after the latest one in which it handled a contribution or CREDE, and the highest issuer of them (R324). -/
  turn : Nat × Nat
  deriving DecidableEq, Repr

/-! ## The fabric -/

/-- A SIT entry (R378); `refs` of R381 are the buffered packets that name it. -/
structure SitEntry where
  die : Nat
  buf : Word
  len : Nat
  blkid : BitVec 16
  blkg : BitVec 8
  vf : Nat
  inst : Nat
  cgrp : BitVec 8
  /-- The devices it is advertised to; the model's own. -/
  devs : List (BitVec 32)
  retiring : Bool
  deriving DecidableEq, Repr

/-- A summary record of the switch (R378). -/
structure SiaRec where
  ep : Word
  blkid : BitVec 16
  blkg : BitVec 8
  cgrp : BitVec 8
  len : BitVec 32
  deriving DecidableEq, Repr

/-- A message this device has sent and whose acknowledgement it awaits (R375, R382, R389): the step it belongs to by handle and age. -/
structure TxRec where
  psn : BitVec 32
  msg : Msg
  handle : Nat
  age : Nat
  deriving DecidableEq, Repr

/-- A packet in a decode buffer (R381): its Adit, the cycle it leaves in, and the SIT keys it refers to. -/
structure Buffered where
  adit : Nat
  until_ : Nat
  keys : List (Nat × BitVec 16 × BitVec 8)
  deriving DecidableEq, Repr

/-- A packet waiting at an egress (R374, R379): whether it is a retransmission. -/
structure Queued where
  msg : Msg
  retrans : Bool
  deriving DecidableEq, Repr

/-- A route-table entry (R374). -/
structure FabRoute where
  value : BitVec 32
  len : Nat
  adits : BitVec 16
  local_ : Bool
  deriving DecidableEq, Repr

/-- A sector held by the Adits' window read buffers (R299, R387). -/
structure WinBuf where
  vf : Nat
  pa : Nat
  bytes : List Byte
  since : Nat
  deriving DecidableEq, Repr

structure Fabric where
  routes : Tbl FabRoute
  cgrps : List Nat
  sit : List SitEntry
  summary : List SiaRec
  ctsHeld : List Msg
  egress : List Queued
  unacked : List TxRec
  accepted : List (Word × BitVec 32)
  decoding : List Buffered
  winBufs : List WinBuf
  /-- Requests of other devices that wait on a page request of their target VF (R377). -/
  rmaHeld : List Msg
  nextPsn : BitVec 32
  deriving DecidableEq, Repr

def Fabric.reset : Fabric := ⟨[], [], [], [], [], [], [], [], [], [], [], 1⟩

/-! ## Dortas' reports (R410), captures (R404) and commands under way -/

/-- A record of the fault report. -/
structure FaultItem where
  kind : Nat
  vf : Nat
  slot : Nat
  ctx : Nat
  w1 : Word
  w2 : Word
  w3 : Word
  deriving DecidableEq, Repr

/-- A capture buffer of a VF (R404): address, length, offset of the next entry, stopped. -/
structure Capture where
  pa : Nat
  len : Nat
  next : Nat
  stopped : Bool
  deriving DecidableEq, Repr

/-- A completion record that waits on a page of its address (R23), or an invalidation that waits for accesses (R355). -/
structure Inval where
  vf : Nat
  ids : List Nat
  resp : Msg
  deriving DecidableEq, Repr

structure Dortas where
  escalated : Tbl Nat
  /-- Records, oldest first, each with whether the device's report and its VF's still hold it. -/
  items : List (FaultItem × Bool × Bool)
  droppedItems : Tbl Nat
  packets : Nat
  replies : Tbl Nat
  /-- VFs being destroyed, with the response to send once their instances are gone (R385). -/
  destroying : List (Nat × Msg)
  invals : List Inval
  captures : Tbl Capture
  /-- Pages of Dortas' own accesses that the hypervisor denied, by the name it waits under (R22, R23). -/
  denied : List (CtxRef × Nat)
  deriving DecidableEq, Repr

def Dortas.reset : Dortas := ⟨[], [], [], 0, [], [], [], [], []⟩

/-! ## Power-on and bring-up (R393 to R402, R407) -/

inductive BootPhase where
  | off | released | recovery | up
  deriving DecidableEq, Repr

/-- The package's configuration flash, its fuses, and what Bygrim has accepted: images by 2 × KIND + slot, the provisioning record, blown
fuses by KIND, VERSION and MINVER of the accepted image by KIND, management endpoints. -/
structure Boot where
  phase : BootPhase
  flash : Tbl (List Byte)
  prov : List Byte
  fuses : Tbl Nat
  accepted : Tbl (Nat × Nat)
  mgmt : List Word
  /-- SEQ of the next Assay report (R399). -/
  seq : Nat
  deriving DecidableEq, Repr

def Boot.reset : Boot := ⟨.off, [], [], [], [], [], 1⟩

/-! ## Issue arbitration (R333) -/

/-- A shared engine's counters: D_t by VF, tenant served last, context served last by VF; the route that its stream port served last (R317). -/
structure Arb where
  dt : Tbl Int
  lastVf : Nat
  lastCtx : Tbl Nat
  lastRoute : Nat
  deriving DecidableEq, Repr

end Sys2Proof.Machine
end

