-- ==== Sys2Proof/Machine/State.lean ====
section
/-! DEFINITION. The state of the machine, its faults and refusals, and the state right after reset. -/
namespace Sys2Proof.Machine

/-- How a run of the model ends where the machine has no next state. -/
inductive Fault where
  /-- Raised by an access whose physical address is no memory of the device: outside HBM4, the group-SRAM apertures and
  the remote aperture (R304, R377, R408). Safe: the model stops where the spec says no such address exists. -/
  | noSuchAddress (pa : Nat)
  deriving DecidableEq, Repr

/-- What the model turns down. -/
inductive Refusal where
  /-- An instruction that has no meaning yet, by its mnemonic. Safe. -/
  | notModelled (mnemonic : String)
  deriving DecidableEq, Repr

/-- Host.Cell-shaped memory: address and byte, addresses strictly rising, no zero byte listed. -/
abbrev Memory := List (Nat × Byte)

/-- Which agent moves next: a context issues, a step context's sequencer handles its next word, the machine or host makes the
move of an event row, a message arrives, an engine's arbiter chooses (R333), or time passes. -/
inductive Move where
  | issue (c : CtxRef)
  | stepIssue (h : Nat)
  | event (i : Instr)
  | arrive (m : Msg)
  | arbitrate (engine : Nat)
  | tick (n : Nat)
  /-- A context's view of some sectors at this moment is kept, or given up again (R285). -/
  | sample (c : CtxRef) (sectors : List Nat)
  | forget (c : CtxRef) (gen : Nat)
  /-- One piece or element of a pending load is performed by itself (R143, R207, R287, R289). -/
  | piece (c : CtxRef) (n k : Nat)
  /-- An uncorrectable error is found in what the engines hold for an instance: registers, tiles, L1, cells, slot states, a Winze buffer (R314, R366,
  R368); or in the counters of a trough (R314). -/
  | strike (slot : Nat)
  | strikeCounter (trough : Nat)
  /-- A VF is run from a capture (R405). -/
  | replay (vf : Nat) (events : List Captured) (cut : Bool)
  deriving DecidableEq, Repr

structure State where
  /-- The context whose instructions `exec` runs, and the other contexts. -/
  cur : Context
  parked : List Context
  /-- Memory settled at every scope (R281), stores issued and not yet at their home, stores placed in coherence order and not yet
  at sys, L1 sectors, poisoned sectors (R280 to R284, R301, R367). -/
  mem : Memory
  hold : List StoreRec
  coh : List StoreRec
  l1 : List L1Sector
  /-- Older values that loads from RSH and UO pages may still return (R285). -/
  olds : List OldCopy
  poison : List Nat
  rcbs : Tbl RcbNode
  images : Tbl Image
  vfs : Tbl Vf
  slots : Tbl Slot
  troughs : Tbl Trough
  tokens : Tbl TokenQ
  rdvs : Tbl Rdv
  routes : Tbl Route
  rates : Tbl RateLoop
  banks : Tbl Bank
  hearths : Tbl Hearth
  /-- What the undocumented parts of freeze images hold; the model's own (R247, assumption 30). -/
  freezes : List FreezeRec
  /-- Lease requests waiting, in arrival order (R163). -/
  leaseQ : List LeaseReq
  /-- Remote windows (R377), RMA requests under way, and the messages the device has sent, oldest first. -/
  rwins : Tbl RemoteWin
  remotes : List RemoteReq
  out : List Msg
  /-- The device's fabric address (R372). -/
  devaddr : BitVec 32
  undo : List UndoRec
  undoSeq : Nat
  /-- Discarded events by VF (R364). -/
  lostEvents : Tbl Nat
  /-- Step contexts by handle, the step context whose word `exec` runs, and the next age (R180, R267, R268). -/
  steps : Tbl StepCtx
  curStep : Nat
  nextAge : Nat
  /-- Winze rounds open (R265). -/
  rounds : List Round
  fabric : Fabric
  dortas : Dortas
  boot : Boot
  /-- Freeze images of stopped instances in their save areas, by group (R338), each with its member's place and shape. -/
  saved : Tbl Hearth
  /-- Arbitration counters by engine number of R333's engines: vector engines, then copy engines from 128 up. -/
  arbs : Tbl Arb
  /-- Groups whose clock enable is dropped (R403). -/
  throttled : BitVec 32
  /-- The Assay's counters by VF (R398). -/
  assay : Tbl AssayVf
  /-- VFs under replay (R405), and messages that have arrived and wait: for a replay to present them, or for what stands before their bytes. -/
  replays : Tbl Replay
  replayHeld : List Msg
  /-- Cycles since device reset (R40). -/
  cycle : Nat
  /-- The model's own fields: moves to come, a counter for free values, the next number for accesses. -/
  agenda : List Move
  free : Nat
  nextId : Nat
  deriving DecidableEq, Repr

/-- The root RCB as Dortas sets it at device reset (R406): every other field at its reset value of R12, OVR all ones but for its reserved bit 19 (R13), no pool. -/
def rootRcb : RcbNode where
  bits := setField (setField (setField (setField (setField (setField (setField (setField (setField (setField (setField (setField (setField (setField (setField (setField (setField
    (0 : BitVec 512) 191 176 128) 175 160 64) 159 144 32) 255 224 524288) 223 208 1024) 303 288 32768) 319 304 8192) 287 272 8192) 271 256 64)
    511 448 412316860416) 55 48 1) 107 88 2000) 87 68 10000) 127 108 (2 ^ 19 - 1)) 143 136 1) 47 40 255) 31 16 65535
  vt := 0
  cycUse := 0
  bytUse := 0
  poolSize := 0
  pool := []
  armedAt := []
  exhCyc := false
  exhByt := false
  elig := false
  shared := true
  share := 1
  pclass := 0
  condWait := []
  since := 0

/-- The machine right after device reset. -/
def State.reset : State where
  cur := Context.blank
  parked := []
  mem := []
  hold := []
  coh := []
  l1 := []
  olds := []
  poison := []
  rcbs := [(0, rootRcb)]
  images := []
  vfs := []
  slots := []
  troughs := []
  tokens := []
  rdvs := []
  routes := []
  rates := []
  banks := []
  hearths := []
  freezes := []
  leaseQ := []
  rwins := []
  remotes := []
  out := []
  devaddr := 0
  undo := []
  undoSeq := 0
  lostEvents := []
  steps := []
  curStep := 0
  nextAge := 0
  rounds := []
  fabric := Fabric.reset
  dortas := Dortas.reset
  boot := Boot.reset
  saved := []
  arbs := []
  throttled := 0
  assay := []
  replays := []
  replayHeld := []
  cycle := 0
  agenda := []
  free := 0
  nextId := 0

end Sys2Proof.Machine
end

