-- ==== Sys2Proof/Machine/Ops.lean ====
section
/-! DEFINITION. The named operations that the meanings share: how an instruction ends (R82), register reads and writes (R34, R35),
the sequencer and its loop stack (R135 to R141), taking an exception and returning from one (R151, R153, R362), events (R364), and
what the slot table gives a context (R325). -/
namespace Sys2Proof.Machine

/-! ## How an instruction ends -/

/-- Why an instruction does not complete: it waits (with what it has already done, if anything), it raises a fault and changes
nothing, it raises a fault after writes that its description keeps (R82), or the access has no address. -/
inductive Stop where
  | wait (c : WaitCond) (kept : Option State)
  | raise (f : FaultRec)
  | raiseKept (f : FaultRec) (s : State)
  | fault (f : Fault)

/-- An instruction's effect: it may read and change the state, and it may stop. A stop drops the changes made. -/
abbrev Act (α : Type) : Type := StateT State (Except Stop) α

def Act.stop {α : Type} (x : Stop) : Act α := fun _ => .error x

/-- Raise(F, detail), with EVAL (R82). -/
def raise {α : Type} (code detail : BitVec 8) (eval : Word) : Act α := Act.stop (.raise ⟨code, detail, eval, false⟩)

/-- Raise after writes that are kept (R82). -/
def raiseKept {α : Type} (code detail : BitVec 8) (eval : Word) : Act α := fun s => .error (.raiseKept ⟨code, detail, eval, false⟩ s)

/-- Wait(condition) before the instruction has changed anything; it is executed again when the wait ends. -/
def waitFor {α : Type} (c : WaitCond) : Act α := Act.stop (.wait c none)

/-- Wait(condition) that keeps what the instruction has done so far. -/
def waitKeep {α : Type} (c : WaitCond) : Act α := fun s => .error (.wait c (some s))

/-- `if b then Raise(...)`. -/
def raiseIf (b : Bool) (code detail : BitVec 8) (eval : Word) : Act Unit := if b then raise code detail eval else pure ()

/-- `Wait(not b)`. -/
def waitIf (b : Bool) (c : WaitCond) : Act Unit := if b then waitFor c else pure ()

/-! ## Fault codes (R361) and event codes (R364) -/

namespace Code
abbrev trap : BitVec 8 := 0x00
abbrev illegalOp : BitVec 8 := 0x01
abbrev reservedField : BitVec 8 := 0x02
abbrev privilege : BitVec 8 := 0x03
abbrev regEmpty : BitVec 8 := 0x04
abbrev misaligned : BitVec 8 := 0x05
abbrev attrSplit : BitVec 8 := 0x06
abbrev blockPartial : BitVec 8 := 0x07
abbrev formatMismatch : BitVec 8 := 0x08
abbrev xlateStage1 : BitVec 8 := 0x09
abbrev xlateStage2 : BitVec 8 := 0x0A
abbrev permission : BitVec 8 := 0x0B
abbrev atomicAttr : BitVec 8 := 0x0C
abbrev windowBounds : BitVec 8 := 0x0D
abbrev troughState : BitVec 8 := 0x0E
abbrev troughInconsistent : BitVec 8 := 0x0F
abbrev leaseLost : BitVec 8 := 0x10
abbrev hearthVersionLost : BitVec 8 := 0x11
abbrev hearthStashInvalid : BitVec 8 := 0x12
abbrev hearthShape : BitVec 8 := 0x13
abbrev rateUnstable : BitVec 8 := 0x14
abbrev scopeTrap : BitVec 8 := 0x15
abbrev sitDecode : BitVec 8 := 0x16
abbrev stepProgram : BitVec 8 := 0x17
abbrev uncorrectable : BitVec 8 := 0x18
abbrev watchdog : BitVec 8 := 0x19
abbrev quota : BitVec 8 := 0x1A
abbrev tokenSaturated : BitVec 8 := 0x20
abbrev tokenCancelled : BitVec 8 := 0x21
abbrev rateHold : BitVec 8 := 0x22
abbrev scopeDemoted : BitVec 8 := 0x23
abbrev decodeFallback : BitVec 8 := 0x24
abbrev bufferFallback : BitVec 8 := 0x25
abbrev ckptVoid : BitVec 8 := 0x26
end Code

/-! ## The current context and the others -/

/-- The state with the current context changed. -/
def State.setCur (s : State) (f : Context → Context) : State := { s with cur := f s.cur }

/-- Changing the current context. -/
def modCur (f : Context → Context) : Act Unit := modify (fun s => s.setCur f)

/-- The context of a name, if it exists. -/
def State.ctx? (s : State) (r : CtxRef) : Option Context :=
  if s.cur.ref = r then some s.cur else s.parked.find? (fun c => c.ref = r)

/-- The state with the named context changed. -/
def State.setCtx (s : State) (r : CtxRef) (f : Context → Context) : State :=
  if s.cur.ref = r then s.setCur f
  else { s with parked := s.parked.map (fun c => if c.ref = r then f c else c) }

/-- The state with the named context as the current one. -/
def State.focus (s : State) (r : CtxRef) : State :=
  if s.cur.ref = r then s
  else
    match s.parked.find? (fun c => c.ref = r) with
    | none => s
    | some c =>
      let rest := s.parked.filter (fun d => d.ref ≠ r)
      { s with cur := c, parked := if s.cur.phase = .joined then rest else s.cur :: rest }

/-- The contexts of an instance. -/
def State.ctxsOf (s : State) (slot : Nat) : List Context := (s.cur :: s.parked).filter (fun c => c.slot = slot && c.phase ≠ .joined)

/-! ## Scalar registers (R33 to R35) -/

/-- The value of an s register; s0 reads 0. -/
def Context.getS (c : Context) (n : BitVec 5) : Word := if n = 0 then 0 else c.s[n.toNat]'n.isLt

/-- Whether an s register is full; s0 always is. -/
def Context.isFull (c : Context) (n : BitVec 5) : Bool := n = 0 || c.full.getLsbD n.toNat

/-- WriteS (R82): a write to s0 is discarded. The register is full afterwards. -/
def Context.putS (c : Context) (n : BitVec 5) (v : Word) : Context :=
  if n = 0 then c else { c with s := c.s.set n.toNat v n.isLt, full := c.full ||| (1#32 <<< n.toNat) }

/-- The register marked empty at issue (R34). -/
def Context.empty (c : Context) (n : BitVec 5) : Context :=
  if n = 0 then c else { c with full := c.full &&& ~~~(1#32 <<< n.toNat) }

/-- ReadSrc(n, q) (R82). -/
def readSrc (n : BitVec 5) (q : Bool) : Act Word := fun s =>
  if s.cur.isFull n then .ok (s.cur.getS n, s)
  else if q then .error (.raise ⟨Code.regEmpty, 0, 0, false⟩)
  else .error (.wait (.full n) none)

/-- An instruction that writes an empty register waits at issue until it is full (R35). -/
def destReady (d : BitVec 5) : Act Unit := fun s =>
  if s.cur.isFull d then .ok ((), s) else .error (.wait (.full d) none)

/-- WriteS(d, v) with the result in the cycle after issue. -/
def writeS (d : BitVec 5) (v : Word) : Act Unit := modCur (fun c => c.putS d v)

/-! ## The sequencer (R30 to R32, R135 to R138) -/

/-- The active loops of the current handler depth, innermost first (R141). -/
def Context.activeLoops (c : Context) : List LoopEntry := c.loops.filter (fun e => e.depth = c.hd)

/-- The innermost entry of the current handler depth. -/
def Context.innermost (c : Context) : Option LoopEntry :=
  match c.loops with
  | [] => none
  | e :: _ => if e.depth = c.hd then some e else none

/-- LoopBack (R137), from the innermost entry outward: the new stack, the next PC, and whether an iteration ended. -/
def loopBackFrom (hd : Bool) : List LoopEntry → Word → List LoopEntry × Word × Bool
  | [], next => ([], next, false)
  | e :: rest, next =>
    if e.depth = hd then
      if e.index + 1 < e.count then ({ e with index := e.index + 1 } :: rest, e.start, true)
      else
        match rest with
        | [] => ([], e.stop + 4, false)
        | e2 :: _ =>
          if e2.depth = hd ∧ e2.stop = e.stop then loopBackFrom hd rest (e.stop + 4)
          else (rest, e.stop + 4, false)
    else (e :: rest, next, false)

/-- A boundary resets the count of R78. -/
def Context.boundary (c : Context) (b : Bool) : Context := if b then { c with sinceBoundary := 0 } else c

/-- The loop-back of the innermost loop as if its last word had completed (R137). -/
def Context.loopBack (c : Context) (next : Word) : Context :=
  let r := loopBackFrom c.hd c.loops next
  let c' := { c with loops := r.1, pc := r.2.1 }
  c'.boundary (r.2.2 || c'.innermost.isNone)

/-- The context after the word at `pc` has completed and its successor is the next sequential word (R137). -/
def Context.nextSeq (c : Context) : Context :=
  match c.innermost with
  | none => { c with pc := c.pc + 4, sinceBoundary := 0 }
  | some e => if e.stop = c.pc then c.loopBack (c.pc + 4) else { c with pc := c.pc + 4 }

/-- The pops of R135 on a transfer to `t`. -/
def popOutside (hd : Bool) (t : Word) : List LoopEntry → List LoopEntry
  | [] => []
  | e :: rest =>
    if e.depth = hd ∧ ¬ (e.start.toNat ≤ t.toNat ∧ t.toNat ≤ e.stop.toNat) then popOutside hd t rest else e :: rest

/-- A transfer of control to `t` (R32, R135). -/
def Context.jumpTo (c : Context) (t : Word) : Context :=
  let c' := { c with loops := popOutside c.hd t c.loops, pc := t }
  c'.boundary (c'.innermost.isNone && t != c.pc)

/-- PC ← PC + 4, or the loop-back of R137. -/
def advance : Act Unit := modCur Context.nextSeq

/-- PC ← t with R135. -/
def transfer (t : Word) : Act Unit := modCur (fun c => c.jumpTo t)

/-- Predicate n as an instruction reads it (R37, R138). -/
def Context.getP (c : Context) (n : BitVec 5) : Bool :=
  if n = 0 then true
  else
    match (c.activeLoops.find? (fun e => 1 ≤ e.stages)) with
    | some e =>
      if 4 ≤ n.toNat ∧ n.toNat ≤ 4 + e.stages then
        decide (n.toNat - 4 ≤ e.index ∧ e.index - (n.toNat - 4) < e.count - e.stages)
      else c.p.getLsbD n.toNat
    | none => c.p.getLsbD n.toNat

/-- Whether a loop drives predicate n (R37). -/
def Context.drives (c : Context) (n : BitVec 5) : Bool :=
  match (c.activeLoops.find? (fun e => 1 ≤ e.stages)) with
  | some e => decide (4 ≤ n.toNat ∧ n.toNat ≤ 4 + e.stages)
  | none => false

/-- A write of predicate n: discarded for p0 and for a driven predicate (R37, R132). -/
def Context.putP (c : Context) (n : BitVec 5) (b : Bool) : Context :=
  if n = 0 ∨ c.drives n = true then c
  else { c with p := (c.p &&& ~~~(1#8 <<< n.toNat)) ||| ((bit1 b).setWidth 8 <<< n.toNat) }

/-! ## The slot table entry of an instance (R325) -/

def Slot.state (x : Slot) : Nat := fieldN x.bind 2 0
def Slot.vf (x : Slot) : Nat := fieldN x.bind 127 120
def Slot.rcbx (x : Slot) : Nat := fieldN x.bind 119 104
def Slot.lrec (x : Slot) : Nat := fieldN x.bind 103 88
def Slot.seq (x : Slot) : Nat := fieldN x.bind 87 72
def Slot.cmask (x : Slot) : BitVec 128 := x.bind.extractLsb' 896 128
def Slot.emask (x : Slot) : BitVec 64 := x.bind.extractLsb' 832 64
def Slot.hmask (x : Slot) : BitVec 32 := x.bind.extractLsb' 800 32
def Slot.ccore (x : Slot) : Nat := fieldN x.bind 674 668
def Slot.setState (x : Slot) (n : Nat) : Slot := { x with bind := setField x.bind 2 0 n }

/-- The n-th set bit of a mask, counted from bit 0 upward (R325, "bind-record order"). -/
def nthSetBit {w : Nat} (m : BitVec w) (n : Nat) : Option Nat :=
  ((List.range w).filter (fun i => m.getLsbD i))[n]?

/-- Group of a core, copy engine (R2, R325). -/
def grpOfCore (c : Nat) : Nat := c / 4
def grpOfCopy (e : Nat) : Nat := e / 2

/-- The slot-table entry of a context's instance. -/
def State.slotOf (s : State) (c : Context) : Option Slot := Tbl.get? s.slots c.slot

/-- The group of the instance's control core, where its troughs, rendezvous points, routes, loops and banks live (R161, R311). -/
def State.homeGrp (s : State) (slot : Nat) : Nat :=
  match Tbl.get? s.slots slot with
  | some x => grpOfCore x.ccore
  | none => 0

def State.vfOf (s : State) (slot : Nat) : Nat :=
  match Tbl.get? s.slots slot with
  | some x => x.vf
  | none => 0

/-- The instance of an entry runs: RUNNING, and neither struck by an uncorrectable error nor quiesced by a rollback. A stopped one arms and fires
no step and measures no rate; its fired steps go on (R337, R346, R367). -/
def State.running (s : State) (slot : Nat) : Bool := (Tbl.get? s.slots slot).any (fun x => x.state = 2 && !x.rolling && x.kill.isNone)

/-- The group a context's engine stands in. -/
def Context.grp (c : Context) : Nat :=
  match c.kind with
  | .cc => grpOfCore c.engine
  | .ve => grpOfCore c.engine
  | .ce => grpOfCopy c.engine
  | .he => c.engine
  | .se => 0

/-- Where a context stands (R278). -/
def State.locOf (s : State) (c : Context) : Loc :=
  { eng := match c.kind with
      | .cc => c.engine
      | .ve => 128 + c.engine
      | .ce => 256 + c.engine
      | .he => 320 + c.engine
      | .se => 352 + c.engine
    grp := c.grp
    vf := s.vfOf c.slot }

/-! ## Events (R364) -/

/-- Posting an event to a context: discarded and counted with TVEC = 0; at most 16 are held, a 17th merges with a held one of
its code or is discarded and counted. -/
def State.post (s : State) (r : CtxRef) (f : FaultRec) : State :=
  let lose (t : State) : State :=
    let v := t.vfOf r.slot
    { t with lostEvents := Tbl.set t.lostEvents v ((Tbl.get? t.lostEvents v).getD 0 + 1) }
  match s.ctx? r with
  | none => s
  | some c =>
    if c.tvec = 0 then lose s
    else if c.events.length < 16 then s.setCtx r (fun c => { c with events := c.events ++ [{ f with event := true }] })
    else if c.events.any (fun g => g.code = f.code) then s
    else lose s

/-- Post(E) to the current context (R82). -/
def postEvent (code detail : BitVec 8) (eval : Word) : Act Unit :=
  modify (fun s => s.post s.cur.ref ⟨code, detail, eval, true⟩)

/-! ## Taking an exception and returning from one (R151, R153, R362 to R365) -/

/-- ECAUSE of a fault or event (R40). -/
def FaultRec.ecause (f : FaultRec) : Word :=
  (if f.event then 0x10000 else 0) ||| (f.detail.setWidth 64 <<< 8) ||| f.code.setWidth 64

/-- Entering the handler: EPC, ECAUSE and EVAL set, HD ← 1, PC ← TVEC (R151, R362). -/
def Context.enterHandler (c : Context) (f : FaultRec) (epc : Word) : Context :=
  { c with epc := epc, ecause := f.ecause, eval := f.eval, hd := true, pc := c.tvec, phase := .ready, wait := none, sinceBoundary := 0, heAt := none, past := none }

/-- Escalation (R365): the entry goes to KILLING with the fault, and the context stops. An entry being killed already is left as it is (R343). -/
def State.escalate (s : State) (r : CtxRef) (f : FaultRec) (epc : Word) : State :=
  match Tbl.get? s.slots r.slot with
  | none => s.setCtx r (fun c => { c with phase := .stopped, wait := none })
  | some x =>
    let s' := if x.state = 6 ∨ x.state = 0 then s
      else { s with slots := Tbl.set s.slots r.slot { x.setState 6 with kill := some (.fault f r.num epc) } }
    s'.setCtx r (fun c => { c with phase := .stopped, wait := none })

/-- Taking an exception in the named context: the handler at HD = 0 with TVEC not 0, escalation otherwise (R151). -/
def State.takeFault (s : State) (r : CtxRef) (f : FaultRec) (epc : Word) : State :=
  match s.ctx? r with
  | none => s
  | some c =>
    if c.hd = false ∧ c.tvec ≠ 0 then s.setCtx r (fun c => c.enterHandler f epc)
    else s.escalate r f epc

/-- The return from a handler: PC ← EPC, HD ← 0, the handler's loops discarded, then R135 on the target (R141, R153). -/
def Context.leaveHandler (c : Context) : Context :=
  let c' := { c with
    hd := false, loops := c.loops.filter (fun e => !e.depth)
    arrived := c.arrived.filter (fun a => a.1 = c.epc)
    mark := c.mark.filter (fun a => a.1 = c.epc)
    staging := c.staging.filter (fun a => a.1 = c.epc) }
  c'.jumpTo c.epc

/-! ## Ending a meaning -/

/-- The current context waits: WAITING at this instruction (R27, R52). -/
def State.enterWait (s : State) (w : WaitCond) : State :=
  s.setCur (fun c => { c with phase := .waiting, wait := some ⟨w, s.cycle, c.wdog.toNat * 1024⟩ })

/-- The outcome of a meaning: the next state; the wait; the exception of R151 with EPC at this instruction (R362). -/
def runAct (a : Act Unit) (s : State) : Host.Outcome State Fault Refusal :=
  match a s with
  | .ok (_, s') => .next s'
  | .error (.wait c kept) => .next ((kept.getD s).enterWait c)
  | .error (.raise f) => .next (s.takeFault s.cur.ref f s.cur.pc)
  | .error (.raiseKept f s') => .next (s'.takeFault s'.cur.ref f s'.cur.pc)
  | .error (.fault f) => .fault f

/-- A free value: the next of the machine's sequence (assumption 2). -/
def freshFree : Act Word := fun s => .ok (Config.freeWord s.free, { s with free := s.free + 1 })

/-- A new number for an access or message. -/
def freshId : Act Nat := fun s => .ok (s.nextId, { s with nextId := s.nextId + 1 })

/-- One of several numbers the spec leaves open, by a free value; none of an empty list (assumption 2). -/
def pickFree (l : List Nat) : Act (Option Nat) := do
  let w ← freshFree
  pure (l[w.toNat % l.length]?)

/-- A result that lands later: d empty at issue, the value due at the given latency class's cycle (R34, R80). -/
def pendResult (dst : Dest) (latency : Nat) (what : Result) : Act Unit := do
  let id ← freshId
  modify (fun s => s.setCur (fun c => { c with pend := c.pend ++ [⟨id, dst, s.cycle + latency, what, none⟩] }))

/-- The latency of a class for the running image: the stated one if it is larger than the G7's own (R76, R79, R80). -/
def State.latency (s : State) (cls own : Nat) : Nat :=
  match s.slotOf s.cur with
  | none => own
  | some x =>
    match Tbl.get? s.images x.image with
    | none => own
    | some img => max own (fieldN img.header (199 + 8 * cls) (192 + 8 * cls))

/-- A value for s register d that lands under latency class `cls` (R34, R80). A write to s0 is discarded. -/
def writeSLate (d : BitVec 5) (cls own : Nat) (v : Word) : Act Unit := do
  if d = 0 then pure ()
  else
    let s ← get
    pendResult (.s d) (s.latency cls own) (.value v)
    modCur (fun c => c.empty d)

/-- Every register result of the context has landed (R150, R154, R157). -/
def awaitLanded : Act Unit := do
  let s ← get
  waitIf (!s.cur.pend.isEmpty) .allLanded

/-! ## Windows (R47, R48) -/

/-- Relocation: physical object BASE + i if i < COUNT, else WINDOW_BOUNDS with EVAL = i. -/
def relocate (w : Word) (i : BitVec 8) : Act Nat :=
  if i.toNat < fieldN w 40 32 then pure (fieldN w 15 0 + i.toNat)
  else raise Code.windowBounds 0 (i.setWidth 64)

end Sys2Proof.Machine
end

