-- ==== Sys2Proof/Machine/Operands.lean ====
section
/-! DEFINITION. The operand forms of the common formats (R59 to R65) as shared shapes: two sources, one source, immediate,
predicate and branch forms. A meaning is one of these shapes over its operation. -/
namespace Sys2Proof.Machine

/-- R format, d ← f(a, b), result in the cycle after issue (R59, R128). -/
def rForm (f : Word → Word → Word) (o : RRR) : Act Unit := do
  destReady o.d
  let x ← readSrc o.a o.qa
  let y ← readSrc o.b o.qb
  writeS o.d (f x y)
  advance

/-- R format with a result of a latency class (R129). -/
def rFormLate (cls own : Nat) (f : Word → Word → Word) (o : RRR) : Act Unit := do
  destReady o.d
  let x ← readSrc o.a o.qa
  let y ← readSrc o.b o.qb
  writeSLate o.d cls own (f x y)
  advance

/-- R format with one source (R86). -/
def r1Form (f : Word → Word) (o : RRD) : Act Unit := do
  destReady o.d
  let x ← readSrc o.a o.qa
  writeS o.d (f x)
  advance

/-- I format, d ← f(a, imm) (R60, R130). -/
def iForm (f : Word → BitVec 14 → Word) (o : Imm) : Act Unit := do
  destReady o.d
  let x ← readSrc o.a o.qa
  writeS o.d (f x o.imm)
  advance

/-- I format of the shifts (R130). -/
def shForm (f : Word → Nat → Word) (o : ImmSh) : Act Unit := do
  destReady o.d
  let x ← readSrc o.a o.qa
  writeS o.d (f x o.sh.toNat)
  advance

/-- PSET (R132). -/
def psetForm (f : Word → Word → Bool) (o : RRR) : Act Unit := do
  let x ← readSrc o.a o.qa
  let y ← readSrc o.b o.qb
  modCur (fun c => c.putP o.d (f x y))
  advance

/-- PLOG (R132). -/
def plogForm (f : Bool → Bool → Bool) (o : PPP) : Act Unit := do
  modCur (fun c => c.putP o.d (f (c.getP o.a) (c.getP o.b)))
  advance

/-- A conditional branch on two registers (R63, R133). -/
def brForm (f : Word → Word → Bool) (o : Br) : Act Unit := do
  let x ← readSrc o.a o.qa
  let y ← readSrc o.b o.qb
  let s ← get
  if f x y then transfer (s.cur.pc + 4 * o.off.signExtend 64) else advance

end Sys2Proof.Machine
end

