-- ==== Sys2Proof/Machine/Alu.lean ====
section
/-! DEFINITION. Integer arithmetic and logic, predicates and immediates (R128 to R132). No instruction here faults on its operand
values or touches fcsr (R129). -/
namespace Sys2Proof.Machine

/-! ## The results of R128 -/

def aluMulh (x y : Word) : Word := BitVec.ofInt 64 (x.toInt * y.toInt / 2 ^ 64)
def aluMulhn (x y : Word) : Word := BitVec.ofNat 64 (x.toNat * y.toNat / 2 ^ 64)
/-- Truncated toward zero; all ones for y = 0; −2^63 for −2^63 / −1. -/
def aluDiv (x y : Word) : Word := if y = 0 then BitVec.allOnes 64 else BitVec.ofInt 64 (x.toInt.tdiv y.toInt)
def aluDivn (x y : Word) : Word := if y = 0 then BitVec.allOnes 64 else x / y
def aluRem (x y : Word) : Word := if y = 0 then x else BitVec.ofInt 64 (x.toInt.tmod y.toInt)
def aluRemn (x y : Word) : Word := if y = 0 then x else x % y
/-- Shift counts are y[5:0]. -/
def shCount (y : Word) : Nat := (y.extractLsb' 0 6).toNat
def aluSll (x y : Word) : Word := x <<< shCount y
def aluSrl (x y : Word) : Word := x >>> shCount y
def aluSra (x y : Word) : Word := x.sshiftRight (shCount y)
def aluMin (x y : Word) : Word := if x.slt y then x else y
def aluMax (x y : Word) : Word := if x.slt y then y else x
def aluMinn (x y : Word) : Word := if x.ult y then x else y
def aluMaxn (x y : Word) : Word := if x.ult y then y else x
def boolWord (b : Bool) : Word := if b then 1 else 0
/-- Leading zero bits, from bit k - 1 down. -/
def clzFrom (x : Word) : Nat → Nat
  | 0 => 0
  | k + 1 => if x.getLsbD k then 0 else clzFrom x k + 1
def aluClz (x : Word) : Word := BitVec.ofNat 64 (clzFrom x 64)
/-- One bits among bits 0 to k - 1. -/
def popFrom {w : Nat} (x : BitVec w) : Nat → Nat
  | 0 => 0
  | k + 1 => popFrom x k + (if x.getLsbD k then 1 else 0)
def aluPopc (x : Word) : Word := BitVec.ofNat 64 (popFrom x 64)

/-! ## Major 0x00 -/

def execAdd (o : RRR) (s : State) : Host.Outcome State Fault Refusal := runAct (rForm (· + ·) o) s
def execSub (o : RRR) (s : State) : Host.Outcome State Fault Refusal := runAct (rForm (· - ·) o) s
def execMul (o : RRR) (s : State) : Host.Outcome State Fault Refusal := runAct (rFormLate 0 3 (· * ·) o) s
def execMulh (o : RRR) (s : State) : Host.Outcome State Fault Refusal := runAct (rFormLate 0 3 aluMulh o) s
def execMulhn (o : RRR) (s : State) : Host.Outcome State Fault Refusal := runAct (rFormLate 0 3 aluMulhn o) s
def execDiv (o : RRR) (s : State) : Host.Outcome State Fault Refusal := runAct (rFormLate 1 34 aluDiv o) s
def execDivn (o : RRR) (s : State) : Host.Outcome State Fault Refusal := runAct (rFormLate 1 34 aluDivn o) s
def execRem (o : RRR) (s : State) : Host.Outcome State Fault Refusal := runAct (rFormLate 1 34 aluRem o) s
def execRemn (o : RRR) (s : State) : Host.Outcome State Fault Refusal := runAct (rFormLate 1 34 aluRemn o) s
def execAnd (o : RRR) (s : State) : Host.Outcome State Fault Refusal := runAct (rForm (· &&& ·) o) s
def execOr (o : RRR) (s : State) : Host.Outcome State Fault Refusal := runAct (rForm (· ||| ·) o) s
def execXor (o : RRR) (s : State) : Host.Outcome State Fault Refusal := runAct (rForm (· ^^^ ·) o) s
def execSll (o : RRR) (s : State) : Host.Outcome State Fault Refusal := runAct (rForm aluSll o) s
def execSrl (o : RRR) (s : State) : Host.Outcome State Fault Refusal := runAct (rForm aluSrl o) s
def execSra (o : RRR) (s : State) : Host.Outcome State Fault Refusal := runAct (rForm aluSra o) s
def execMin (o : RRR) (s : State) : Host.Outcome State Fault Refusal := runAct (rForm aluMin o) s
def execMax (o : RRR) (s : State) : Host.Outcome State Fault Refusal := runAct (rForm aluMax o) s
def execMinn (o : RRR) (s : State) : Host.Outcome State Fault Refusal := runAct (rForm aluMinn o) s
def execMaxn (o : RRR) (s : State) : Host.Outcome State Fault Refusal := runAct (rForm aluMaxn o) s
def execSlt (o : RRR) (s : State) : Host.Outcome State Fault Refusal := runAct (rForm (fun x y => boolWord (x.slt y)) o) s
def execSltn (o : RRR) (s : State) : Host.Outcome State Fault Refusal := runAct (rForm (fun x y => boolWord (x.ult y)) o) s
def execClz (o : RRD) (s : State) : Host.Outcome State Fault Refusal := runAct (r1Form aluClz o) s
def execPopc (o : RRD) (s : State) : Host.Outcome State Fault Refusal := runAct (r1Form aluPopc o) s

/-! ## Major 0x01 (R88, R132) -/

def execPsetEq (o : RRR) (s : State) : Host.Outcome State Fault Refusal := runAct (psetForm (fun x y => x == y) o) s
def execPsetNe (o : RRR) (s : State) : Host.Outcome State Fault Refusal := runAct (psetForm (fun x y => x != y) o) s
def execPsetLt (o : RRR) (s : State) : Host.Outcome State Fault Refusal := runAct (psetForm (fun x y => x.slt y) o) s
def execPsetGe (o : RRR) (s : State) : Host.Outcome State Fault Refusal := runAct (psetForm (fun x y => !x.slt y) o) s
def execPsetLtn (o : RRR) (s : State) : Host.Outcome State Fault Refusal := runAct (psetForm (fun x y => x.ult y) o) s
def execPsetGen (o : RRR) (s : State) : Host.Outcome State Fault Refusal := runAct (psetForm (fun x y => !x.ult y) o) s
def execPlogAnd (o : PPP) (s : State) : Host.Outcome State Fault Refusal := runAct (plogForm (fun a b => a && b) o) s
def execPlogOr (o : PPP) (s : State) : Host.Outcome State Fault Refusal := runAct (plogForm (fun a b => a || b) o) s
def execPlogXor (o : PPP) (s : State) : Host.Outcome State Fault Refusal := runAct (plogForm (fun a b => a != b) o) s
def execPlogAndn (o : PPP) (s : State) : Host.Outcome State Fault Refusal := runAct (plogForm (fun a b => a && !b) o) s

/-! ## Immediates (R130) -/

def execAddi (o : Imm) (s : State) : Host.Outcome State Fault Refusal := runAct (iForm (fun x i => x + i.signExtend 64) o) s
def execAndi (o : Imm) (s : State) : Host.Outcome State Fault Refusal := runAct (iForm (fun x i => x &&& i.signExtend 64) o) s
def execOri (o : Imm) (s : State) : Host.Outcome State Fault Refusal := runAct (iForm (fun x i => x ||| i.signExtend 64) o) s
def execXori (o : Imm) (s : State) : Host.Outcome State Fault Refusal := runAct (iForm (fun x i => x ^^^ i.signExtend 64) o) s
def execSlli (o : ImmSh) (s : State) : Host.Outcome State Fault Refusal := runAct (shForm (fun x k => x <<< k) o) s
def execSrli (o : ImmSh) (s : State) : Host.Outcome State Fault Refusal := runAct (shForm (fun x k => x >>> k) o) s
def execSrai (o : ImmSh) (s : State) : Host.Outcome State Fault Refusal := runAct (shForm (fun x k => x.sshiftRight k) o) s
def execSlti (o : Imm) (s : State) : Host.Outcome State Fault Refusal :=
  runAct (iForm (fun x i => boolWord (x.slt (i.signExtend 64))) o) s
def execLih (o : Imm) (s : State) : Host.Outcome State Fault Refusal :=
  runAct (iForm (fun x i => (x <<< 14) ||| i.setWidth 64) o) s

end Sys2Proof.Machine
end

