-- ==== Sys2Proof/WellFormed.lean ====
section
/-! DEFINITION. Which instructions are well formed: the register numbers, type and scope codes and reserved combinations that
R57, R58, R62 and R65 to R70 and the rows of R88 to R101 allow. A word of an ill-formed instruction raises RESERVED_FIELD (R71 check 2). -/
namespace Sys2Proof

/-- A predicate number (R57). -/
def predOk (p : BitVec 5) : Bool := decide (p.toNat < 8)
/-- A mask named directly (R57). -/
def maskOk (m : BitVec 4) : Bool := decide (m.toNat < 8)
/-- MK of 9 to 15 is reserved (R57, R66). -/
def mkOk (m : BitVec 4) : Bool := decide (m.toNat ≤ 8)
/-- With MK = 0, MZ must be 0 (R66). -/
def mzOk (m : BitVec 4) (mz : Bool) : Bool := mkOk m && (m != 0 || !mz)
/-- A stream register number (R57). -/
def streamOk (q : BitVec 5) : Bool := decide (q.toNat < 4)
/-- Floating element types (R67). -/
def floatTy (t : BitVec 3) : Bool := decide (t.toNat ≤ 4)
/-- Integer element types (R67). -/
def intTy (t : BitVec 3) : Bool := t != 3 && t != 7
/-- Source types of VCVT (R96). -/
def srcTy (t : BitVec 4) : Bool := decide (t.toNat ≤ 4) || decide (8 ≤ t.toNat) && t != 11 && t != 15
/-- Scope codes (R61). -/
def scopeOk (s : BitVec 3) : Bool := decide (s.toNat ≤ 4)
/-- Order and scope of an atomic (R94). -/
def ordOk (o : BitVec 2) (s : BitVec 3) : Bool := scopeOk s && (o != 0 || s == 0)
/-- Release bit and scope of a copy (R69). -/
def rlOk (rl : Bool) (s : BitVec 3) : Bool := scopeOk s && (rl || s == 0)
/-- The indices that SYSW's plain form takes: fcsr, BANKCFG0 to 15 and QB0 to 3 have forms of their own, li0 to li5 are refused (R83). -/
def syswOk (idx : BitVec 12) : Bool :=
  idx != 0x001 && (idx.extractLsb' 4 8 != 0x02) && (idx.extractLsb' 2 10 != 0x014) && !(decide (0x060 ≤ idx.toNat) && decide (idx.toNat ≤ 0x065))
/-- Group, slot-table and instance numbers in range (R2, R325). -/
def groupOk (g : Nat) : Bool := decide (g < 32)
def slotOk (s : Nat) : Bool := decide (s < 2048)

/-- Input fields beyond NIN are zero (R70). -/
def StepF.inputsClean (o : StepF) : Bool :=
  (decide (1 ≤ o.nin.toNat) || o.in0 == 0) && (decide (2 ≤ o.nin.toNat) || o.in1 == 0) &&
  (decide (3 ≤ o.nin.toNat) || o.in2 == 0) && (decide (4 ≤ o.nin.toNat) || o.in3 == 0)

/-- R70's checks 2 and 4 and the input fields of check 3. X is in none of its four cases: in a step that takes no descriptor it may be anything
(assumption 80, DESIGN CHOICE). -/
def stepOk (o : StepF) : Bool :=
  decide (o.nin.toNat ≤ 4) && o.inputsClean && (o.fl.getLsbD 3 || o.out == 0)

/-- FL bits that the step defines (R70 check 3, R101, R272, R273): LOOPB, LOOPE and PEER take no inputs and no FL[3]. -/
def Instr.stepFlagsOk (i : Instr) (o : StepF) : Bool :=
  match i with
  | .send _ => o.fl &&& 0b0110 == 0
  | .recv _ | .rrs _ => o.fl &&& 0b0100 == 0
  | .loopb _ | .loope _ => o.fl &&& 0b1100 == 0 && o.nin == 0
  | .peer _ => o.fl &&& 0b1000 == 0 && o.nin == 0
  | _ => o.fl &&& 0b0111 == 0

/-- The values that the encoding or the instruction's own row allows. -/
def Instr.wf (i : Instr) : Bool :=
  match i with
  | .add _ => true
  | .sub _ => true
  | .mul _ => true
  | .mulh _ => true
  | .mulhn _ => true
  | .div _ => true
  | .divn _ => true
  | .rem _ => true
  | .remn _ => true
  | .and _ => true
  | .or _ => true
  | .xor _ => true
  | .sll _ => true
  | .srl _ => true
  | .sra _ => true
  | .min _ => true
  | .max _ => true
  | .minn _ => true
  | .maxn _ => true
  | .slt _ => true
  | .sltn _ => true
  | .clz _ => true
  | .popc _ => true
  | .psetEq o => predOk o.d
  | .psetNe o => predOk o.d
  | .psetLt o => predOk o.d
  | .psetGe o => predOk o.d
  | .psetLtn o => predOk o.d
  | .psetGen o => predOk o.d
  | .plogAnd o => predOk o.d && predOk o.a && predOk o.b
  | .plogOr o => predOk o.d && predOk o.a && predOk o.b
  | .plogXor o => predOk o.d && predOk o.a && predOk o.b
  | .plogAndn o => predOk o.d && predOk o.a && predOk o.b
  | .addi _ => true
  | .andi _ => true
  | .ori _ => true
  | .xori _ => true
  | .slli _ => true
  | .srli _ => true
  | .srai _ => true
  | .slti _ => true
  | .lih _ => true
  | .ldSigned _ => true
  | .ldUnsigned _ => true
  | .ldaSigned o => scopeOk o.sc
  | .ldaUnsigned o => scopeOk o.sc
  | .st _ => true
  | .stl o => scopeOk o.sc
  | .waitf _ => true
  | .eret => true
  | .eretHalt _ => true
  | .yield => true
  | .fence sc => scopeOk sc
  | .sysr _ => true
  | .sysw o => syswOk o.idx
  | .syswFcsr _ => true
  | .syswBankcfg _ => true
  | .syswQb _ => true
  | .trap _ => true
  | .beq _ => true
  | .bne _ => true
  | .blt _ => true
  | .bge _ => true
  | .bltn _ => true
  | .bgen _ => true
  | .bp o => predOk o.p
  | .jal _ => true
  | .jr _ => true
  | .loop o => o.endw != 0
  | .loopi o => o.endw != 0
  | .lbrk p => predOk p
  | .fork _ => true
  | .leaseAcq _ => true
  | .leaseTry _ => true
  | .leaseRel _ => true
  | .swroute _ => true
  | .swdrop _ => true
  | .lpatch _ => true
  | .larm _ => true
  | .lquery _ => true
  | .cstart _ => true
  | .cwait _ => true
  | .chkpt _ => true
  | .assayr _ => true
  | .tcfg _ => true
  | .tclaim _ => true
  | .tfill _ => true
  | .ttake _ => true
  | .trelease _ => true
  | .twaitf _ => true
  | .twaite _ => true
  | .tstat _ => true
  | .tresync _ => true
  | .rdv _ => true
  | .rdva _ => true
  | .rdve _ => true
  | .kpost _ => true
  | .kreset _ => true
  | .kread _ => true
  | .rateBind o => decide (o.t.toNat < 32)
  | .rateSet o => decide (o.t.toNat < 32)
  | .rateHold o => decide (o.t.toNat < 32)
  | .rateRead o => decide (o.t.toNat < 32)
  | .amoI32 o => ordOk o.ord o.sc && o.op != 7
  | .amoI64 o => ordOk o.ord o.sc && o.op != 7
  | .amoN32 o => ordOk o.ord o.sc && o.op != 7
  | .amoN64 o => ordOk o.ord o.sc && o.op != 7
  | .casN32 o => ordOk o.ord o.sc
  | .casN64 o => ordOk o.ord o.sc
  | .amofF32 o => ordOk o.ord o.sc && decide (o.op.toNat ≤ 2)
  | .amofBf16 o => ordOk o.ord o.sc && decide (o.op.toNat ≤ 2)
  | .vadd o => mzOk o.msk o.mz && floatTy o.ty
  | .vsub o => mzOk o.msk o.mz && floatTy o.ty
  | .vmul o => mzOk o.msk o.mz && floatTy o.ty
  | .vfma o => mzOk o.msk o.mz && floatTy o.ty
  | .vfms o => mzOk o.msk o.mz && floatTy o.ty
  | .vfnma o => mzOk o.msk o.mz && floatTy o.ty
  | .vmin o => mzOk o.msk o.mz && floatTy o.ty
  | .vmax o => mzOk o.msk o.mz && floatTy o.ty
  | .vminp o => mzOk o.msk o.mz && floatTy o.ty
  | .vmaxp o => mzOk o.msk o.mz && floatTy o.ty
  | .vabs o => mzOk o.msk o.mz && floatTy o.ty
  | .vneg o => mzOk o.msk o.mz && floatTy o.ty
  | .vexp2 o => mzOk o.msk o.mz && floatTy o.ty
  | .vlog2 o => mzOk o.msk o.mz && floatTy o.ty
  | .vrcp o => mzOk o.msk o.mz && floatTy o.ty
  | .vrsqrt o => mzOk o.msk o.mz && floatTy o.ty
  | .vtanh o => mzOk o.msk o.mz && floatTy o.ty
  | .vsigm o => mzOk o.msk o.mz && floatTy o.ty
  | .vrsum o => mzOk o.msk o.mz && floatTy o.ty
  | .vrmax o => mzOk o.msk o.mz && floatTy o.ty
  | .vrmin o => mzOk o.msk o.mz && floatTy o.ty
  | .vcsum o => mzOk o.msk o.mz && floatTy o.ty
  | .viadd o => mzOk o.msk o.mz && intTy o.ty
  | .visub o => mzOk o.msk o.mz && intTy o.ty
  | .vimul o => mzOk o.msk o.mz && intTy o.ty
  | .vand o => mzOk o.msk o.mz && intTy o.ty
  | .vor o => mzOk o.msk o.mz && intTy o.ty
  | .vxor o => mzOk o.msk o.mz && intTy o.ty
  | .vshl o => mzOk o.msk o.mz && intTy o.ty
  | .vshr o => mzOk o.msk o.mz && intTy o.ty
  | .vsra o => mzOk o.msk o.mz && intTy o.ty
  | .vcmpEq o => maskOk o.vd && mzOk o.msk o.mz && floatTy o.ty
  | .vcmpNe o => maskOk o.vd && mzOk o.msk o.mz && floatTy o.ty
  | .vcmpLt o => maskOk o.vd && mzOk o.msk o.mz && floatTy o.ty
  | .vcmpLe o => maskOk o.vd && mzOk o.msk o.mz && floatTy o.ty
  | .vcmpGt o => maskOk o.vd && mzOk o.msk o.mz && floatTy o.ty
  | .vcmpGe o => maskOk o.vd && mzOk o.msk o.mz && floatTy o.ty
  | .vcmpEqInt o => maskOk o.vd && mzOk o.msk o.mz && intTy o.ty
  | .vcmpNeInt o => maskOk o.vd && mzOk o.msk o.mz && intTy o.ty
  | .vcmpLtInt o => maskOk o.vd && mzOk o.msk o.mz && intTy o.ty
  | .vcmpLeInt o => maskOk o.vd && mzOk o.msk o.mz && intTy o.ty
  | .vcmpGtInt o => maskOk o.vd && mzOk o.msk o.mz && intTy o.ty
  | .vcmpGeInt o => maskOk o.vd && mzOk o.msk o.mz && intTy o.ty
  | .vsel o => mkOk o.msk && floatTy o.ty
  | .mlogAnd o => maskOk o.vd && maskOk o.va && maskOk o.vb
  | .mlogOr o => maskOk o.vd && maskOk o.va && maskOk o.vb
  | .mlogXor o => maskOk o.vd && maskOk o.va && maskOk o.vb
  | .mlogAndn o => maskOk o.vd && maskOk o.va && maskOk o.vb
  | .vcompress o => mkOk o.msk && floatTy o.ty
  | .vexpand o => mzOk o.msk o.mz && floatTy o.ty
  | .vtrn o => mzOk o.msk o.mz && floatTy o.ty
  | .viota o => mzOk o.msk o.mz && intTy o.ty
  | .vcvt o => mzOk o.msk o.mz && floatTy o.ty && srcTy o.vb
  | .vcvtSat o => mzOk o.msk o.mz && floatTy o.ty && srcTy o.vb
  | .vcvtToInt o => mzOk o.msk o.mz && intTy o.ty && decide (o.vb.toNat ≤ 4)
  | .vqntBlk16 o => mzOk o.msk o.mz && decide (o.ty.toNat ≤ 1) && decide (2 ≤ o.vb.toNat) && decide (o.vb.toNat ≤ 8)
  | .vqntBlk32 o => mzOk o.msk o.mz && decide (o.ty.toNat ≤ 1) && decide (2 ≤ o.vb.toNat) && decide (o.vb.toNat ≤ 8)
  | .vbcast o => mzOk o.msk o.mz && floatTy o.ty && (o.va == 0 || o.va == 1 && streamOk o.sb && !o.qb)
  | .vmovs o => intTy o.ty
  | .vpop o => mzOk o.msk o.mz && streamOk o.sb && floatTy o.ty
  | .vpush o => mkOk o.msk && streamOk o.sb && floatTy o.ty
  | .vrot o => mzOk o.msk o.mz && floatTy o.ty
  | .vshape _ => true
  | .vsetrm _ => true
  | .amod _ => true
  | .amov _ => true
  | .aadd _ => true
  | .mpop _ => true
  | .vld o => mzOk o.msk o.mz && floatTy o.ty
  | .vst o => mzOk o.msk o.mz && floatTy o.ty
  | .vlds o => mzOk o.msk o.mz && floatTy o.ty
  | .vsts o => mzOk o.msk o.mz && floatTy o.ty
  | .vgath o => mzOk o.msk o.mz && floatTy o.ty
  | .vscat o => mzOk o.msk o.mz && floatTy o.ty
  | .vldt o => mzOk o.msk o.mz && floatTy o.ty
  | .vstt o => mkOk o.msk && floatTy o.ty
  | .hadmitA _ => true
  | .hadmitS _ => true
  | .hadmitG _ => true
  | .hadmitU _ => true
  | .hdrop _ => true
  | .hload o => o.f != 3
  | .hstore o => o.f != 3
  | .hspill _ => true
  | .hfill _ => true
  | .hwset _ => true
  | .hzero _ => true
  | .hhad n => n != 3
  | .hsetk _ => true
  | .hmesh _ => true
  | .hcfg _ => true
  | .hbind _ => true
  | .hver _ => true
  | .hfreeze _ => true
  | .hthaw _ => true
  | .hdrain => true
  | .ctpl _ => true
  | .cpy o => rlOk o.rl o.sc
  | .cpyx o => rlOk o.rl o.sc
  | .cpyt o => rlOk o.rl o.sc
  | .cgath o => rlOk o.rl o.sc
  | .cscat o => rlOk o.rl o.sc
  | .czero o => rlOk o.rl o.sc
  | .cwaitCopy _ => true
  | .cfence sc => scopeOk sc
  | .credF32 o => rlOk o.rl o.sc
  | .credBf16 o => rlOk o.rl o.sc
  | .credF32Det o => rlOk o.rl o.sc
  | .credBf16Det o => rlOk o.rl o.sc
  | .crede _ => true
  | .send o => stepOk o && i.stepFlagsOk o
  | .recv o => stepOk o && i.stepFlagsOk o
  | .rrs o => stepOk o && i.stepFlagsOk o
  | .copy o => stepOk o && i.stepFlagsOk o
  | .wait o => stepOk o && i.stepFlagsOk o
  | .loopb o => stepOk o && i.stepFlagsOk o
  | .loope o => stepOk o && i.stepFlagsOk o
  | .peer o => stepOk o && i.stepFlagsOk o
  | .sitadv o => stepOk o && i.stepFlagsOk o
  | .sitret o => stepOk o && i.stepFlagsOk o
  | .kout o => stepOk o && i.stepFlagsOk o
  | .done o => stepOk o && i.stepFlagsOk o
  | .stepFire h _ => decide (h < 64)
  | .stepComplete h _ => decide (h < 64)
  | .stepWatchdog h => decide (h < 64)
  | .waitSatisfied _ => true
  | .waitWatchdog _ => true
  | .maxiterWatchdog _ => true
  | .pageRequestWatchdog _ => true
  | .pageGrant _ _ _ => true
  | .pageDeny _ _ _ => true
  | .faultDelivery _ => true
  | .eventDelivery _ => true
  | .leaseRunEnd g => groupOk g
  | .prooferPeriod g l => groupOk g && decide (l < 32)
  | .yieldDecision slot => slotOk slot
  | .vtCharge => true
  | .bindDecision => true
  | .slotSubmit slot => slotOk slot
  | .reclaimTimeout => true
  | .quotaExhausted rcb _ => decide (rcb < 16384)
  | .quotaKillTimeout slot => slotOk slot
  | .hardPreempt slot => slotOk slot
  | .contextStop _ => true
  | .saveComplete slot => slotOk slot
  | .restore slot => slotOk slot
  | .restoreRunning slot => slotOk slot
  | .killSequence slot => slotOk slot
  | .drainMarkerComplete slot stack => slotOk slot && decide (stack < 8)
  | .rollback rcb => decide (rcb < 16384)
  | .scrub _ _ _ => true
  | .waveAdmit g _ => groupOk g
  | .peelWatchdog g _ => groupOk g
  | .waveAtCell g _ i j => groupOk g && decide (i < 512) && decide (j < 4096)
  | .stashValid g t => groupOk g && decide (t < 16)
  | .stashFree g t => groupOk g && decide (t < 16)
  | .edgeUnitTake g _ => groupOk g
  | .converterPush g _ => groupOk g
  | .copyBegin _ => true
  | .copyComplete _ => true
  | .contributionArrival stack _ => decide (stack < 8)
  | .credeArrival stack _ => decide (stack < 8)
  | .refusedRetry stack _ => decide (stack < 8)
  | .holdBufferLeave _ => true
  | .storeMerge _ _ => true
  | .sectorWriteback _ _ => true
  | .storeScopeRise _ _ => true
  | .bankSwitchDone g b => groupOk g && decide (b < 16)
  | .invalComplete _ => true
  | .cts _ => true
  | .data _ => true
  | .ack _ => true
  | .coded _ => true
  | .dnak _ => true
  | .retransmitTimeout _ => true
  | .sia _ => true
  | .siw _ => true
  | .sitEntryRemove _ _ _ _ => true
  | .packetForward _ => true
  | .codedForm _ => true
  | .rmaWr _ => true
  | .rmaRd _ => true
  | .rmaResp _ => true
  | .vfCreate _ => true
  | .vfDestroy _ => true
  | .s1root _ => true
  | .s2root _ => true
  | .inval _ => true
  | .imgLoad _ => true
  | .rcbWrite _ => true
  | .lrecWrite _ => true
  | .rcbCreate _ => true
  | .rcbDelete _ => true
  | .lrecArm _ => true
  | .kill _ => true
  | .preempt _ => true
  | .resume _ => true
  | .rwinSet _ => true
  | .rmawinSet _ => true
  | .routeSet _ => true
  | .cgrpEn _ => true
  | .keySet _ => true
  | .assayRead _ => true
  | .faultReport _ => true
  | .powerOn => true
  | .bringupComplete => true
  | .supplyFailWarning => true
  | .assaySaveTick => true
  | .throttle _ => true
  | .resultLands _ _ => true
  | .unallocatedEncoding _ _ => true

end Sys2Proof
end

