-- ==== Sys2Proof/Decode.lean ====
section
/-! DEFINITION. Decoding 32-bit instruction words and 64-bit step words (R54 to R71, R83 to R101), and the encoder written from the
same encoding tables. The decoder finds the instruction by major and function code (R71 check 1), then refuses every word whose
unused fields are not zero or whose values R57, R58, R62, R65 to R69 or the instruction forbids (check 2): a word is an
instruction exactly when it is the encoding of the well-formed instruction read from it. -/
namespace Sys2Proof

/-- Bits `lo + n - 1` down to `lo` of a word. -/
abbrev fld {m : Nat} (w : BitVec m) (lo n : Nat) : BitVec n := w.extractLsb' lo n
/-- One bit of a word as a flag. -/
abbrev flag {m : Nat} (w : BitVec m) (lo : Nat) : Bool := w.getLsbD lo

/-! ## Layouts -/

/-- R format (R59). -/
def packR (maj : BitVec 7) (d a b : BitVec 5) (qa qb : Bool) (fn : BitVec 8) : IWord := maj ++ d ++ a ++ b ++ bit1 qa ++ bit1 qb ++ fn
/-- I format (R60). -/
def packI (maj : BitVec 7) (d a : BitVec 5) (qa : Bool) (imm : BitVec 14) : IWord := maj ++ d ++ a ++ bit1 qa ++ imm
/-- M format (R61). -/
def packM (maj : BitVec 7) (d base : BitVec 5) (sz : BitVec 2) (sc : BitVec 3) (ord : BitVec 2) (off : BitVec 8) : IWord :=
  maj ++ d ++ base ++ sz ++ sc ++ ord ++ off
/-- B format (R63). -/
def packB (maj : BitVec 7) (a b : BitVec 5) (qa qb : Bool) (off : BitVec 13) : IWord := maj ++ a ++ b ++ bit1 qa ++ bit1 qb ++ off
/-- J format (R64). -/
def packJ (maj : BitVec 7) (d : BitVec 5) (off : BitVec 20) : IWord := maj ++ d ++ off
/-- L format (R65). -/
def packL (maj : BitVec 7) (x : BitVec 11) (endw : BitVec 12) (stg : BitVec 2) : IWord := maj ++ x ++ endw ++ stg
/-- VV layout (R66). -/
def packVV (maj : BitVec 7) (vd va vb msk : BitVec 4) (mz : Bool) (ty : BitVec 3) (fn : BitVec 5) : IWord :=
  maj ++ vd ++ va ++ vb ++ msk ++ bit1 mz ++ ty ++ fn
/-- VS layout (R66). -/
def packVS (maj : BitVec 7) (vd va : BitVec 4) (sb : BitVec 5) (qb : Bool) (msk : BitVec 4) (mz : Bool) (ty fn : BitVec 3) : IWord :=
  maj ++ vd ++ va ++ sb ++ bit1 qb ++ msk ++ bit1 mz ++ ty ++ fn
/-- VA layout (R66). -/
def packVA (maj : BitVec 7) (vd : BitVec 4) (as : BitVec 3) (pi : Bool) (msk : BitVec 4) (mz : Bool) (ty : BitVec 3) (off : BitVec 9) : IWord :=
  maj ++ vd ++ as ++ bit1 pi ++ msk ++ bit1 mz ++ ty ++ off
/-- H layout (R68). -/
def packH (maj : BitVec 7) (sa sb : BitVec 5) (qa qb : Bool) (opt : BitVec 9) (fn : BitVec 4) : IWord :=
  maj ++ sa ++ sb ++ bit1 qa ++ bit1 qb ++ opt ++ fn
/-- C layout (R69). -/
def packC (maj : BitVec 7) (sa sb : BitVec 5) (ct : BitVec 6) (rl : Bool) (sc : BitVec 3) (fn : BitVec 5) : IWord :=
  maj ++ sa ++ sb ++ ct ++ bit1 rl ++ sc ++ fn
/-- The immediate of an object form: function code, imm[9:8] zero, object (R93). -/
def objImm (fn : BitVec 4) (t : BitVec 8) : BitVec 14 := fn ++ 0#2 ++ t
/-- The step word (R70). -/
def packStep (op : BitVec 6) (o : StepF) : SWord :=
  op ++ o.fl ++ o.out ++ o.nin ++ 0#3 ++ o.in0 ++ o.in1 ++ o.in2 ++ o.in3 ++ o.x

/-! ## Reading operand fields -/

def RRR.unpack (w : IWord) : RRR := ⟨fld w 20 5, fld w 15 5, fld w 10 5, flag w 9, flag w 8⟩
def RRD.unpack (w : IWord) : RRD := ⟨fld w 20 5, fld w 15 5, flag w 9⟩
def RA.unpackR (w : IWord) : RA := ⟨fld w 15 5, flag w 9⟩
def RA.unpackI (w : IWord) : RA := ⟨fld w 15 5, flag w 14⟩
def PPP.unpack (w : IWord) : PPP := ⟨fld w 20 5, fld w 15 5, fld w 10 5⟩
def Imm.unpack (w : IWord) : Imm := ⟨fld w 20 5, fld w 15 5, flag w 14, fld w 0 14⟩
def ImmSh.unpack (w : IWord) : ImmSh := ⟨fld w 20 5, fld w 15 5, flag w 14, fld w 0 6⟩
def MPlain.unpack (w : IWord) : MPlain := ⟨fld w 20 5, fld w 15 5, fld w 13 2, fld w 0 8⟩
def MOrd.unpack (w : IWord) : MOrd := ⟨fld w 20 5, fld w 15 5, fld w 13 2, fld w 10 3, fld w 0 8⟩
def Br.unpack (w : IWord) : Br := ⟨fld w 20 5, fld w 15 5, flag w 14, flag w 13, fld w 0 13⟩
def BrP.unpack (w : IWord) : BrP := ⟨fld w 20 5, fld w 0 13⟩
def Jmp.unpack (w : IWord) : Jmp := ⟨fld w 20 5, fld w 0 20⟩
def LoopReg.unpack (w : IWord) : LoopReg := ⟨fld w 20 5, flag w 19, fld w 2 12, fld w 0 2⟩
def LoopImm.unpack (w : IWord) : LoopImm := ⟨fld w 25 1 ++ fld w 14 11, fld w 2 12, fld w 0 2⟩
def SysR.unpack (w : IWord) : SysR := ⟨fld w 20 5, fld w 0 12⟩
def SysW.unpack (w : IWord) : SysW := ⟨fld w 15 5, flag w 14, fld w 0 12⟩
def SysWN.unpack {n : Nat} (w : IWord) : SysWN n := ⟨fld w 15 5, flag w 14, fld w 0 n⟩
def ObjA.unpack (w : IWord) : ObjA := ⟨fld w 15 5, flag w 14, fld w 0 8⟩
def ObjD.unpack (w : IWord) : ObjD := ⟨fld w 20 5, fld w 0 8⟩
def Amo.unpack (w : IWord) : Amo := ⟨fld w 20 5, fld w 15 5, fld w 10 5, flag w 9, flag w 8, fld w 6 2, fld w 3 3, fld w 0 3⟩
def Cas.unpack (w : IWord) : Cas := ⟨fld w 20 5, fld w 15 5, fld w 10 5, flag w 9, flag w 8, fld w 6 2, fld w 3 3⟩
def VV.unpack (w : IWord) : VV := ⟨fld w 21 4, fld w 17 4, fld w 13 4, fld w 9 4, flag w 8, fld w 5 3⟩
def VU.unpack (w : IWord) : VU := ⟨fld w 21 4, fld w 17 4, fld w 9 4, flag w 8, fld w 5 3⟩
def VVnz.unpack (w : IWord) : VVnz := ⟨fld w 21 4, fld w 17 4, fld w 13 4, fld w 9 4, fld w 5 3⟩
def VMask.unpack (w : IWord) : VMask := ⟨fld w 21 4, fld w 17 4, fld w 13 4⟩
def VDst.unpack (w : IWord) : VDst := ⟨fld w 21 4, fld w 9 4, flag w 8, fld w 5 3⟩
def VS.unpack (w : IWord) : VS := ⟨fld w 21 4, fld w 17 4, fld w 12 5, flag w 11, fld w 7 4, flag w 6, fld w 3 3⟩
def VMov.unpack (w : IWord) : VMov := ⟨fld w 17 8, fld w 12 5, fld w 7 4, fld w 3 3⟩
def VPopF.unpack (w : IWord) : VPopF := ⟨fld w 21 4, fld w 12 5, fld w 7 4, flag w 6, fld w 3 3⟩
def VPushF.unpack (w : IWord) : VPushF := ⟨fld w 17 4, fld w 12 5, fld w 7 4, fld w 3 3⟩
def VSb.unpack (w : IWord) : VSb := ⟨fld w 12 5, flag w 11⟩
def VSlot.unpack (w : IWord) : VSlot := ⟨fld w 21 3, fld w 12 5, flag w 11⟩
def VMpop.unpack (w : IWord) : VMpop := ⟨fld w 17 3, fld w 12 5⟩
def VA.unpack (w : IWord) : VA := ⟨fld w 21 4, fld w 18 3, flag w 17, fld w 13 4, flag w 12, fld w 9 3, fld w 0 9⟩
def VAIdx.unpack (w : IWord) : VAIdx := ⟨fld w 21 4, fld w 18 3, flag w 17, fld w 13 4, flag w 12, fld w 9 3, fld w 5 4⟩
def VTr.unpack (w : IWord) : VTr := ⟨fld w 21 4, fld w 13 4, flag w 12, fld w 9 3, fld w 0 8⟩
def VTrS.unpack (w : IWord) : VTrS := ⟨fld w 21 4, fld w 13 4, fld w 9 3, fld w 0 8⟩
def H2.unpack (w : IWord) : H2 := ⟨fld w 20 5, fld w 15 5, flag w 14, flag w 13⟩
def H1.unpack (w : IWord) : H1 := ⟨fld w 20 5, flag w 14⟩
def H1F.unpack (w : IWord) : H1F := ⟨fld w 20 5, flag w 14, fld w 4 2⟩
def HAdmA.unpack (w : IWord) : HAdmA := ⟨fld w 20 5, fld w 15 5, flag w 14, flag w 13, fld w 7 2, flag w 6, flag w 5, flag w 4⟩
def HAdmG.unpack (w : IWord) : HAdmG := ⟨fld w 20 5, fld w 15 5, flag w 14, flag w 13, flag w 5, flag w 4⟩
def HVerF.unpack (w : IWord) : HVerF := ⟨fld w 20 5, fld w 15 5, flag w 13⟩
def Cpy.unpack (w : IWord) : Cpy := ⟨fld w 20 5, fld w 15 5, fld w 9 6, flag w 8, fld w 5 3⟩
def CTplF.unpack (w : IWord) : CTplF := ⟨fld w 20 5, fld w 15 5, fld w 9 6⟩
def CZeroF.unpack (w : IWord) : CZeroF := ⟨fld w 20 5, fld w 15 5, flag w 8, fld w 5 3⟩
def StepF.unpack (w : SWord) : StepF :=
  ⟨fld w 54 4, fld w 46 8, fld w 43 3, fld w 32 8, fld w 24 8, fld w 16 8, fld w 8 8, fld w 0 8⟩

/-! ## Allocation: the instruction of a major and function code (R71 check 1, R83) -/

/-- SYSW by its index: li0 to li5 are no destination (R30, R83); fcsr, BANKCFG and QB have forms of their own (R41, R43, R307). -/
def rawSysw (w : IWord) : Except DecodeErr Instr :=
  let idx := fld w 0 12
  if 0x060#12 ≤ idx && idx ≤ 0x065#12 then .error (.illegal 5)
  else if idx = 0x001#12 then .ok (.syswFcsr (RA.unpackI w))
  else if fld w 4 8 = 0x02#8 then .ok (.syswBankcfg (SysWN.unpack w))
  else if fld w 2 10 = 0x014#10 then .ok (.syswQb (SysWN.unpack w))
  else .ok (.sysw (SysW.unpack w))

/-- Common majors 0x00 to 0x3F (R86 to R91). -/
def rawCommon (w : IWord) : Except DecodeErr Instr :=
  match (fld w 25 7).toNat with
  | 0x00 => (match (fld w 0 8).toNat with
    | 0x01 => .ok (.add (RRR.unpack w))
    | 0x02 => .ok (.sub (RRR.unpack w))
    | 0x03 => .ok (.mul (RRR.unpack w))
    | 0x04 => .ok (.mulh (RRR.unpack w))
    | 0x05 => .ok (.mulhn (RRR.unpack w))
    | 0x06 => .ok (.div (RRR.unpack w))
    | 0x07 => .ok (.divn (RRR.unpack w))
    | 0x08 => .ok (.rem (RRR.unpack w))
    | 0x09 => .ok (.remn (RRR.unpack w))
    | 0x0A => .ok (.and (RRR.unpack w))
    | 0x0B => .ok (.or (RRR.unpack w))
    | 0x0C => .ok (.xor (RRR.unpack w))
    | 0x0D => .ok (.sll (RRR.unpack w))
    | 0x0E => .ok (.srl (RRR.unpack w))
    | 0x0F => .ok (.sra (RRR.unpack w))
    | 0x10 => .ok (.min (RRR.unpack w))
    | 0x11 => .ok (.max (RRR.unpack w))
    | 0x12 => .ok (.minn (RRR.unpack w))
    | 0x13 => .ok (.maxn (RRR.unpack w))
    | 0x14 => .ok (.slt (RRR.unpack w))
    | 0x15 => .ok (.sltn (RRR.unpack w))
    | 0x16 => .ok (.clz (RRD.unpack w))
    | 0x17 => .ok (.popc (RRD.unpack w))
    | _ => .error (.illegal 4))
  | 0x01 => (match (fld w 0 8).toNat with
    | 0x01 => .ok (.psetEq (RRR.unpack w))
    | 0x02 => .ok (.psetNe (RRR.unpack w))
    | 0x03 => .ok (.psetLt (RRR.unpack w))
    | 0x04 => .ok (.psetGe (RRR.unpack w))
    | 0x05 => .ok (.psetLtn (RRR.unpack w))
    | 0x06 => .ok (.psetGen (RRR.unpack w))
    | 0x10 => .ok (.plogAnd (PPP.unpack w))
    | 0x11 => .ok (.plogOr (PPP.unpack w))
    | 0x12 => .ok (.plogXor (PPP.unpack w))
    | 0x13 => .ok (.plogAndn (PPP.unpack w))
    | _ => .error (.illegal 4))
  | 0x08 => .ok (.addi (Imm.unpack w))
  | 0x09 => .ok (.andi (Imm.unpack w))
  | 0x0A => .ok (.ori (Imm.unpack w))
  | 0x0B => .ok (.xori (Imm.unpack w))
  | 0x0C => .ok (.slli (ImmSh.unpack w))
  | 0x0D => .ok (.srli (ImmSh.unpack w))
  | 0x0E => .ok (.srai (ImmSh.unpack w))
  | 0x0F => .ok (.slti (Imm.unpack w))
  | 0x10 => .ok (.lih (Imm.unpack w))
  | 0x20 => if fld w 8 2 = (1#2) then .ok (.ldaSigned (MOrd.unpack w)) else if fld w 8 2 = (0#2) then .ok (.ldSigned (MPlain.unpack w)) else .error .reserved
  | 0x21 => if fld w 8 2 = (1#2) then .ok (.ldaUnsigned (MOrd.unpack w)) else if fld w 8 2 = (0#2) then .ok (.ldUnsigned (MPlain.unpack w)) else .error .reserved
  | 0x22 => if fld w 8 2 = (2#2) then .ok (.stl (MOrd.unpack w)) else if fld w 8 2 = (0#2) then .ok (.st (MPlain.unpack w)) else .error .reserved
  | 0x28 => (match (fld w 0 8).toNat with
    | 0x01 => .ok (.waitf ((fld w 15 5)))
    | 0x02 => .ok (.eret)
    | 0x03 => .ok (.eretHalt (RA.unpackR w))
    | 0x04 => .ok (.yield)
    | _ => .error (.illegal 4))
  | 0x29 => .ok (.fence ((fld w 0 3)))
  | 0x2A => .ok (.sysr (SysR.unpack w))
  | 0x2B => rawSysw w
  | 0x2C => .ok (.trap ((fld w 0 8)))
  | 0x30 => .ok (.beq (Br.unpack w))
  | 0x31 => .ok (.bne (Br.unpack w))
  | 0x32 => .ok (.blt (Br.unpack w))
  | 0x33 => .ok (.bge (Br.unpack w))
  | 0x34 => .ok (.bltn (Br.unpack w))
  | 0x35 => .ok (.bgen (Br.unpack w))
  | 0x36 => .ok (.bp (BrP.unpack w))
  | 0x38 => .ok (.jal (Jmp.unpack w))
  | 0x39 => .ok (.jr (Imm.unpack w))
  | 0x3C => .ok (.loop (LoopReg.unpack w))
  | 0x3D => .ok (.lbrk ((fld w 20 5)))
  | 0x3E => .ok (.loopi (LoopImm.unpack w))
  | 0x3F => .ok (.loopi (LoopImm.unpack w))
  | _ => .error (.illegal 0)

/-- Control-core majors (R92 to R94). -/
def rawCc (w : IWord) : Except DecodeErr Instr :=
  match (fld w 25 7).toNat with
  | 0x40 => (match (fld w 0 8).toNat with
    | 0x01 => .ok (.fork (RRR.unpack w))
    | 0x02 => .ok (.leaseAcq (RA.unpackR w))
    | 0x03 => .ok (.leaseTry (RRD.unpack w))
    | 0x04 => .ok (.leaseRel (RA.unpackR w))
    | 0x05 => .ok (.swroute (RRR.unpack w))
    | 0x06 => .ok (.swdrop (RA.unpackR w))
    | 0x07 => .ok (.lpatch (RRR.unpack w))
    | 0x08 => .ok (.larm (RRD.unpack w))
    | 0x09 => .ok (.lquery (RRD.unpack w))
    | 0x0A => .ok (.cstart (RRR.unpack w))
    | 0x0B => .ok (.cwait (RRD.unpack w))
    | 0x0C => .ok (.chkpt ((fld w 20 5)))
    | 0x0D => .ok (.assayr (RRD.unpack w))
    | _ => .error (.illegal 4))
  | 0x41 => (match (fld w 10 4).toNat with
    | 0x01 => .ok (.tcfg (ObjA.unpack w))
    | 0x02 => .ok (.tclaim (ObjD.unpack w))
    | 0x03 => .ok (.tfill (ObjA.unpack w))
    | 0x04 => .ok (.ttake (ObjD.unpack w))
    | 0x05 => .ok (.trelease (ObjA.unpack w))
    | 0x06 => .ok (.twaitf ((fld w 0 8)))
    | 0x07 => .ok (.twaite ((fld w 0 8)))
    | 0x08 => .ok (.tstat (ObjD.unpack w))
    | 0x09 => .ok (.tresync ((fld w 0 8)))
    | _ => .error (.illegal 4))
  | 0x42 => (match (fld w 10 4).toNat with
    | 0x01 => .ok (.rdv ((fld w 0 8)))
    | 0x02 => .ok (.rdva ((fld w 0 8)))
    | 0x03 => .ok (.rdve (ObjA.unpack w))
    | 0x04 => .ok (.kpost (ObjA.unpack w))
    | 0x05 => .ok (.kreset ((fld w 0 8)))
    | 0x06 => .ok (.kread (ObjD.unpack w))
    | _ => .error (.illegal 4))
  | 0x43 => (match (fld w 10 4).toNat with
    | 0x01 => .ok (.rateBind (ObjA.unpack w))
    | 0x02 => .ok (.rateSet (ObjA.unpack w))
    | 0x03 => .ok (.rateHold (ObjA.unpack w))
    | 0x04 => .ok (.rateRead (ObjD.unpack w))
    | _ => .error (.illegal 4))
  | 0x44 => .ok (.amoI32 (Amo.unpack w))
  | 0x45 => .ok (.amoI64 (Amo.unpack w))
  | 0x46 => .ok (.amoN32 (Amo.unpack w))
  | 0x47 => .ok (.amoN64 (Amo.unpack w))
  | 0x48 => .ok (.casN32 (Cas.unpack w))
  | 0x49 => .ok (.casN64 (Cas.unpack w))
  | 0x4A => .ok (.amofF32 (Amo.unpack w))
  | 0x4B => .ok (.amofBf16 (Amo.unpack w))
  | _ => .error (.illegal 0)

/-- Vector-engine majors (R95 to R98). -/
def rawVe (w : IWord) : Except DecodeErr Instr :=
  match (fld w 25 7).toNat with
  | 0x40 => (match (fld w 0 5).toNat with
    | 0x01 => .ok (.vadd (VV.unpack w))
    | 0x02 => .ok (.vsub (VV.unpack w))
    | 0x03 => .ok (.vmul (VV.unpack w))
    | 0x04 => .ok (.vfma (VV.unpack w))
    | 0x05 => .ok (.vfms (VV.unpack w))
    | 0x06 => .ok (.vfnma (VV.unpack w))
    | 0x07 => .ok (.vmin (VV.unpack w))
    | 0x08 => .ok (.vmax (VV.unpack w))
    | 0x09 => .ok (.vminp (VV.unpack w))
    | 0x0A => .ok (.vmaxp (VV.unpack w))
    | 0x0B => .ok (.vabs (VU.unpack w))
    | 0x0C => .ok (.vneg (VU.unpack w))
    | 0x0D => .ok (.vexp2 (VU.unpack w))
    | 0x0E => .ok (.vlog2 (VU.unpack w))
    | 0x0F => .ok (.vrcp (VU.unpack w))
    | 0x10 => .ok (.vrsqrt (VU.unpack w))
    | 0x11 => .ok (.vtanh (VU.unpack w))
    | 0x12 => .ok (.vsigm (VU.unpack w))
    | 0x13 => .ok (.vrsum (VU.unpack w))
    | 0x14 => .ok (.vrmax (VU.unpack w))
    | 0x15 => .ok (.vrmin (VU.unpack w))
    | 0x16 => .ok (.vcsum (VU.unpack w))
    | _ => .error (.illegal 4))
  | 0x41 => (match (fld w 0 5).toNat with
    | 0x01 => .ok (.viadd (VV.unpack w))
    | 0x02 => .ok (.visub (VV.unpack w))
    | 0x03 => .ok (.vimul (VV.unpack w))
    | 0x04 => .ok (.vand (VV.unpack w))
    | 0x05 => .ok (.vor (VV.unpack w))
    | 0x06 => .ok (.vxor (VV.unpack w))
    | 0x07 => .ok (.vshl (VV.unpack w))
    | 0x08 => .ok (.vshr (VV.unpack w))
    | 0x09 => .ok (.vsra (VV.unpack w))
    | _ => .error (.illegal 4))
  | 0x42 => (match (fld w 0 5).toNat with
    | 0x01 => .ok (.vcmpEq (VV.unpack w))
    | 0x02 => .ok (.vcmpNe (VV.unpack w))
    | 0x03 => .ok (.vcmpLt (VV.unpack w))
    | 0x04 => .ok (.vcmpLe (VV.unpack w))
    | 0x05 => .ok (.vcmpGt (VV.unpack w))
    | 0x06 => .ok (.vcmpGe (VV.unpack w))
    | 0x08 => .ok (.vcmpEqInt (VV.unpack w))
    | 0x09 => .ok (.vcmpNeInt (VV.unpack w))
    | 0x0A => .ok (.vcmpLtInt (VV.unpack w))
    | 0x0B => .ok (.vcmpLeInt (VV.unpack w))
    | 0x0C => .ok (.vcmpGtInt (VV.unpack w))
    | 0x0D => .ok (.vcmpGeInt (VV.unpack w))
    | 0x10 => .ok (.vsel (VVnz.unpack w))
    | 0x11 => .ok (.mlogAnd (VMask.unpack w))
    | 0x12 => .ok (.mlogOr (VMask.unpack w))
    | 0x13 => .ok (.mlogXor (VMask.unpack w))
    | 0x14 => .ok (.mlogAndn (VMask.unpack w))
    | 0x18 => .ok (.vcompress (VVnz.unpack w))
    | 0x19 => .ok (.vexpand (VV.unpack w))
    | 0x1A => .ok (.vtrn (VU.unpack w))
    | 0x1B => .ok (.viota (VDst.unpack w))
    | _ => .error (.illegal 4))
  | 0x43 => (match (fld w 0 5).toNat with
    | 0x01 => .ok (.vcvt (VV.unpack w))
    | 0x02 => .ok (.vcvtSat (VV.unpack w))
    | 0x03 => .ok (.vcvtToInt (VV.unpack w))
    | 0x04 => .ok (.vqntBlk16 (VV.unpack w))
    | 0x05 => .ok (.vqntBlk32 (VV.unpack w))
    | _ => .error (.illegal 4))
  | 0x44 => (match (fld w 0 3).toNat with
    | 0x01 => .ok (.vbcast (VS.unpack w))
    | 0x02 => .ok (.vmovs (VMov.unpack w))
    | 0x03 => .ok (.vpop (VPopF.unpack w))
    | 0x04 => .ok (.vpush (VPushF.unpack w))
    | 0x05 => .ok (.vrot (VS.unpack w))
    | 0x06 => .ok (.vshape (VSb.unpack w))
    | 0x07 => .ok (.vsetrm (VSb.unpack w))
    | _ => .error (.illegal 4))
  | 0x46 => (match (fld w 0 3).toNat with
    | 0x01 => .ok (.amod (VSlot.unpack w))
    | 0x02 => .ok (.amov (VSlot.unpack w))
    | 0x03 => .ok (.aadd (VSlot.unpack w))
    | 0x04 => .ok (.mpop (VMpop.unpack w))
    | _ => .error (.illegal 4))
  | 0x48 => .ok (.vld (VA.unpack w))
  | 0x49 => .ok (.vst (VA.unpack w))
  | 0x4A => .ok (.vlds (VA.unpack w))
  | 0x4B => .ok (.vsts (VA.unpack w))
  | 0x4C => .ok (.vgath (VAIdx.unpack w))
  | 0x4D => .ok (.vscat (VAIdx.unpack w))
  | 0x4E => .ok (.vldt (VTr.unpack w))
  | 0x4F => .ok (.vstt (VTrS.unpack w))
  | _ => .error (.illegal 0)

/-- Hearth majors (R99). -/
def rawHe (w : IWord) : Except DecodeErr Instr :=
  match (fld w 25 7).toNat with
  | 0x40 => (match (fld w 0 4).toNat with
    | 0x01 => .ok (.hadmitA (HAdmA.unpack w))
    | 0x02 => .ok (.hadmitS (H2.unpack w))
    | 0x03 => .ok (.hadmitG (HAdmG.unpack w))
    | 0x04 => .ok (.hadmitU ((flag w 4)))
    | 0x05 => .ok (.hdrop (H1.unpack w))
    | _ => .error (.illegal 4))
  | 0x41 => (match (fld w 0 4).toNat with
    | 0x01 => .ok (.hload (H1F.unpack w))
    | 0x02 => .ok (.hstore (H1F.unpack w))
    | 0x03 => .ok (.hspill (H2.unpack w))
    | 0x04 => .ok (.hfill (H1.unpack w))
    | 0x05 => .ok (.hwset (H1.unpack w))
    | 0x06 => .ok (.hzero ((fld w 4 5)))
    | 0x07 => .ok (.hhad ((fld w 4 2)))
    | 0x08 => .ok (.hsetk (H1F.unpack w))
    | _ => .error (.illegal 4))
  | 0x42 => (match (fld w 0 4).toNat with
    | 0x01 => .ok (.hmesh (H1.unpack w))
    | 0x02 => .ok (.hcfg (H2.unpack w))
    | 0x03 => .ok (.hbind (H1.unpack w))
    | 0x04 => .ok (.hver (HVerF.unpack w))
    | 0x05 => .ok (.hfreeze (H1.unpack w))
    | 0x06 => .ok (.hthaw (H1.unpack w))
    | 0x07 => .ok (.hdrain)
    | _ => .error (.illegal 4))
  | _ => .error (.illegal 0)

/-- Copy-engine majors (R100). -/
def rawCe (w : IWord) : Except DecodeErr Instr :=
  match (fld w 25 7).toNat with
  | 0x40 => (match (fld w 0 5).toNat with
    | 0x01 => .ok (.ctpl (CTplF.unpack w))
    | 0x02 => .ok (.cpy (Cpy.unpack w))
    | 0x03 => .ok (.cpyx (Cpy.unpack w))
    | 0x04 => .ok (.cpyt (Cpy.unpack w))
    | 0x05 => .ok (.cgath (Cpy.unpack w))
    | 0x06 => .ok (.cscat (Cpy.unpack w))
    | 0x07 => .ok (.czero (CZeroF.unpack w))
    | 0x08 => .ok (.cwaitCopy ((fld w 20 5)))
    | 0x09 => .ok (.cfence ((fld w 5 3)))
    | _ => .error (.illegal 4))
  | 0x41 => (match (fld w 0 5).toNat with
    | 0x01 => .ok (.credF32 (Cpy.unpack w))
    | 0x02 => .ok (.credBf16 (Cpy.unpack w))
    | 0x03 => .ok (.credF32Det (Cpy.unpack w))
    | 0x04 => .ok (.credBf16Det (Cpy.unpack w))
    | 0x05 => .ok (.crede ((fld w 20 5)))
    | _ => .error (.illegal 4))
  | _ => .error (.illegal 0)

/-- The instruction a 32-bit word's allocation gives, for a context of kind `k` (R55, R71 check 1). A step context decodes no 32-bit word. -/
def rawWord (k : Kind) (w : IWord) : Except DecodeErr Instr :=
  if (fld w 25 7).toNat < 0x40 then rawCommon w
  else match k with
    | .cc => rawCc w
    | .ve => rawVe w
    | .he => rawHe w
    | .ce => rawCe w
    | .se => .error (.illegal 0)

/-- The step a 64-bit word's OP gives (R101). -/
def rawStep (w : SWord) : Except DecodeErr Instr :=
  let o := StepF.unpack w
  match (fld w 58 6).toNat with
  | 0x01 => .ok (.send o)
  | 0x02 => .ok (.recv o)
  | 0x03 => .ok (.rrs o)
  | 0x04 => .ok (.copy o)
  | 0x05 => .ok (.wait o)
  | 0x06 => .ok (.loopb o)
  | 0x07 => .ok (.loope o)
  | 0x08 => .ok (.peer o)
  | 0x09 => .ok (.sitadv o)
  | 0x0A => .ok (.sitret o)
  | 0x0B => .ok (.kout o)
  | 0x0C => .ok (.done o)
  | _ => .error (.stepProgram 1)

/-! ## The encoder -/

/-- What an instruction is encoded as: a word of every kind of context (`none`) or of one kind, a step word, or nothing
(a move of the machine or of the host, which no program holds). -/
inductive Enc where
  | word (k : Option Kind) (w : IWord)
  | step (w : SWord)
  | move
  deriving DecidableEq, Repr

/-- The encoding of each instruction (R59 to R70, R86 to R101). -/
def encode (i : Instr) : Enc :=
  match i with
  | .add o => .word none (packR 0x00#7 o.d o.a o.b o.qa o.qb 0x01#8)
  | .sub o => .word none (packR 0x00#7 o.d o.a o.b o.qa o.qb 0x02#8)
  | .mul o => .word none (packR 0x00#7 o.d o.a o.b o.qa o.qb 0x03#8)
  | .mulh o => .word none (packR 0x00#7 o.d o.a o.b o.qa o.qb 0x04#8)
  | .mulhn o => .word none (packR 0x00#7 o.d o.a o.b o.qa o.qb 0x05#8)
  | .div o => .word none (packR 0x00#7 o.d o.a o.b o.qa o.qb 0x06#8)
  | .divn o => .word none (packR 0x00#7 o.d o.a o.b o.qa o.qb 0x07#8)
  | .rem o => .word none (packR 0x00#7 o.d o.a o.b o.qa o.qb 0x08#8)
  | .remn o => .word none (packR 0x00#7 o.d o.a o.b o.qa o.qb 0x09#8)
  | .and o => .word none (packR 0x00#7 o.d o.a o.b o.qa o.qb 0x0A#8)
  | .or o => .word none (packR 0x00#7 o.d o.a o.b o.qa o.qb 0x0B#8)
  | .xor o => .word none (packR 0x00#7 o.d o.a o.b o.qa o.qb 0x0C#8)
  | .sll o => .word none (packR 0x00#7 o.d o.a o.b o.qa o.qb 0x0D#8)
  | .srl o => .word none (packR 0x00#7 o.d o.a o.b o.qa o.qb 0x0E#8)
  | .sra o => .word none (packR 0x00#7 o.d o.a o.b o.qa o.qb 0x0F#8)
  | .min o => .word none (packR 0x00#7 o.d o.a o.b o.qa o.qb 0x10#8)
  | .max o => .word none (packR 0x00#7 o.d o.a o.b o.qa o.qb 0x11#8)
  | .minn o => .word none (packR 0x00#7 o.d o.a o.b o.qa o.qb 0x12#8)
  | .maxn o => .word none (packR 0x00#7 o.d o.a o.b o.qa o.qb 0x13#8)
  | .slt o => .word none (packR 0x00#7 o.d o.a o.b o.qa o.qb 0x14#8)
  | .sltn o => .word none (packR 0x00#7 o.d o.a o.b o.qa o.qb 0x15#8)
  | .clz o => .word none (packR 0x00#7 o.d o.a 0 o.qa false 0x16#8)
  | .popc o => .word none (packR 0x00#7 o.d o.a 0 o.qa false 0x17#8)
  | .psetEq o => .word none (packR 0x01#7 o.d o.a o.b o.qa o.qb 0x01#8)
  | .psetNe o => .word none (packR 0x01#7 o.d o.a o.b o.qa o.qb 0x02#8)
  | .psetLt o => .word none (packR 0x01#7 o.d o.a o.b o.qa o.qb 0x03#8)
  | .psetGe o => .word none (packR 0x01#7 o.d o.a o.b o.qa o.qb 0x04#8)
  | .psetLtn o => .word none (packR 0x01#7 o.d o.a o.b o.qa o.qb 0x05#8)
  | .psetGen o => .word none (packR 0x01#7 o.d o.a o.b o.qa o.qb 0x06#8)
  | .plogAnd o => .word none (packR 0x01#7 o.d o.a o.b false false 0x10#8)
  | .plogOr o => .word none (packR 0x01#7 o.d o.a o.b false false 0x11#8)
  | .plogXor o => .word none (packR 0x01#7 o.d o.a o.b false false 0x12#8)
  | .plogAndn o => .word none (packR 0x01#7 o.d o.a o.b false false 0x13#8)
  | .addi o => .word none (packI 0x08#7 o.d o.a o.qa o.imm)
  | .andi o => .word none (packI 0x09#7 o.d o.a o.qa o.imm)
  | .ori o => .word none (packI 0x0A#7 o.d o.a o.qa o.imm)
  | .xori o => .word none (packI 0x0B#7 o.d o.a o.qa o.imm)
  | .slli o => .word none (packI 0x0C#7 o.d o.a o.qa (0#8 ++ o.sh))
  | .srli o => .word none (packI 0x0D#7 o.d o.a o.qa (0#8 ++ o.sh))
  | .srai o => .word none (packI 0x0E#7 o.d o.a o.qa (0#8 ++ o.sh))
  | .slti o => .word none (packI 0x0F#7 o.d o.a o.qa o.imm)
  | .lih o => .word none (packI 0x10#7 o.d o.a o.qa o.imm)
  | .ldSigned o => .word none (packM 0x20#7 o.d o.base o.sz 0 0 o.off)
  | .ldUnsigned o => .word none (packM 0x21#7 o.d o.base o.sz 0 0 o.off)
  | .ldaSigned o => .word none (packM 0x20#7 o.d o.base o.sz o.sc 1#2 o.off)
  | .ldaUnsigned o => .word none (packM 0x21#7 o.d o.base o.sz o.sc 1#2 o.off)
  | .st o => .word none (packM 0x22#7 o.d o.base o.sz 0 0 o.off)
  | .stl o => .word none (packM 0x22#7 o.d o.base o.sz o.sc 2#2 o.off)
  | .waitf a => .word none (packR 0x28#7 0 a 0 false false 0x01#8)
  | .eret => .word none (packR 0x28#7 0 0 0 false false 0x02#8)
  | .eretHalt o => .word none (packR 0x28#7 0 o.a 0 o.qa false 0x03#8)
  | .yield => .word none (packR 0x28#7 0 0 0 false false 0x04#8)
  | .fence sc => .word none (packI 0x29#7 0 0 false (0#11 ++ sc))
  | .sysr o => .word none (packI 0x2A#7 o.d 0 false (0#2 ++ o.idx))
  | .sysw o => .word none (packI 0x2B#7 0 o.a o.qa (0#2 ++ o.idx))
  | .syswFcsr o => .word none (packI 0x2B#7 0 o.a o.qa (0#2 ++ 0x001#12))
  | .syswBankcfg o => .word none (packI 0x2B#7 0 o.a o.qa (0#2 ++ 0x02#8 ++ o.n))
  | .syswQb o => .word none (packI 0x2B#7 0 o.a o.qa (0#2 ++ 0x014#10 ++ o.n))
  | .trap n => .word none (packI 0x2C#7 0 0 false (0#6 ++ n))
  | .beq o => .word none (packB 0x30#7 o.a o.b o.qa o.qb o.off)
  | .bne o => .word none (packB 0x31#7 o.a o.b o.qa o.qb o.off)
  | .blt o => .word none (packB 0x32#7 o.a o.b o.qa o.qb o.off)
  | .bge o => .word none (packB 0x33#7 o.a o.b o.qa o.qb o.off)
  | .bltn o => .word none (packB 0x34#7 o.a o.b o.qa o.qb o.off)
  | .bgen o => .word none (packB 0x35#7 o.a o.b o.qa o.qb o.off)
  | .bp o => .word none (packB 0x36#7 o.p 0 false false o.off)
  | .jal o => .word none (packJ 0x38#7 o.d o.off)
  | .jr o => .word none (packI 0x39#7 o.d o.a o.qa o.imm)
  | .loop o => .word none (packL 0x3C#7 (o.s ++ bit1 o.q ++ 0#5) o.endw o.stg)
  | .loopi o => .word none (packL (0x1F#6 ++ o.n.extractLsb' 11 1) (o.n.extractLsb' 0 11) o.endw o.stg)
  | .lbrk p => .word none (packJ 0x3D#7 p 0)
  | .fork o => .word (some .cc) (packR 0x40#7 o.d o.a o.b o.qa o.qb 0x01#8)
  | .leaseAcq o => .word (some .cc) (packR 0x40#7 0 o.a 0 o.qa false 0x02#8)
  | .leaseTry o => .word (some .cc) (packR 0x40#7 o.d o.a 0 o.qa false 0x03#8)
  | .leaseRel o => .word (some .cc) (packR 0x40#7 0 o.a 0 o.qa false 0x04#8)
  | .swroute o => .word (some .cc) (packR 0x40#7 o.d o.a o.b o.qa o.qb 0x05#8)
  | .swdrop o => .word (some .cc) (packR 0x40#7 0 o.a 0 o.qa false 0x06#8)
  | .lpatch o => .word (some .cc) (packR 0x40#7 o.d o.a o.b o.qa o.qb 0x07#8)
  | .larm o => .word (some .cc) (packR 0x40#7 o.d o.a 0 o.qa false 0x08#8)
  | .lquery o => .word (some .cc) (packR 0x40#7 o.d o.a 0 o.qa false 0x09#8)
  | .cstart o => .word (some .cc) (packR 0x40#7 o.d o.a o.b o.qa o.qb 0x0A#8)
  | .cwait o => .word (some .cc) (packR 0x40#7 o.d o.a 0 o.qa false 0x0B#8)
  | .chkpt d => .word (some .cc) (packR 0x40#7 d 0 0 false false 0x0C#8)
  | .assayr o => .word (some .cc) (packR 0x40#7 o.d o.a 0 o.qa false 0x0D#8)
  | .tcfg o => .word (some .cc) (packI 0x41#7 0 o.a o.qa (objImm 0x01#4 o.t))
  | .tclaim o => .word (some .cc) (packI 0x41#7 o.d 0 false (objImm 0x02#4 o.t))
  | .tfill o => .word (some .cc) (packI 0x41#7 0 o.a o.qa (objImm 0x03#4 o.t))
  | .ttake o => .word (some .cc) (packI 0x41#7 o.d 0 false (objImm 0x04#4 o.t))
  | .trelease o => .word (some .cc) (packI 0x41#7 0 o.a o.qa (objImm 0x05#4 o.t))
  | .twaitf t => .word (some .cc) (packI 0x41#7 0 0 false (objImm 0x06#4 t))
  | .twaite t => .word (some .cc) (packI 0x41#7 0 0 false (objImm 0x07#4 t))
  | .tstat o => .word (some .cc) (packI 0x41#7 o.d 0 false (objImm 0x08#4 o.t))
  | .tresync t => .word (some .cc) (packI 0x41#7 0 0 false (objImm 0x09#4 t))
  | .rdv r => .word (some .cc) (packI 0x42#7 0 0 false (objImm 0x01#4 r))
  | .rdva r => .word (some .cc) (packI 0x42#7 0 0 false (objImm 0x02#4 r))
  | .rdve o => .word (some .cc) (packI 0x42#7 0 o.a o.qa (objImm 0x03#4 o.t))
  | .kpost o => .word (some .cc) (packI 0x42#7 0 o.a o.qa (objImm 0x04#4 o.t))
  | .kreset k => .word (some .cc) (packI 0x42#7 0 0 false (objImm 0x05#4 k))
  | .kread o => .word (some .cc) (packI 0x42#7 o.d 0 false (objImm 0x06#4 o.t))
  | .rateBind o => .word (some .cc) (packI 0x43#7 0 o.a o.qa (objImm 0x01#4 o.t))
  | .rateSet o => .word (some .cc) (packI 0x43#7 0 o.a o.qa (objImm 0x02#4 o.t))
  | .rateHold o => .word (some .cc) (packI 0x43#7 0 o.a o.qa (objImm 0x03#4 o.t))
  | .rateRead o => .word (some .cc) (packI 0x43#7 o.d 0 false (objImm 0x04#4 o.t))
  | .amoI32 o => .word (some .cc) (packR 0x44#7 o.d o.a o.b o.qa o.qb (o.ord ++ o.sc ++ o.op))
  | .amoI64 o => .word (some .cc) (packR 0x45#7 o.d o.a o.b o.qa o.qb (o.ord ++ o.sc ++ o.op))
  | .amoN32 o => .word (some .cc) (packR 0x46#7 o.d o.a o.b o.qa o.qb (o.ord ++ o.sc ++ o.op))
  | .amoN64 o => .word (some .cc) (packR 0x47#7 o.d o.a o.b o.qa o.qb (o.ord ++ o.sc ++ o.op))
  | .casN32 o => .word (some .cc) (packR 0x48#7 o.d o.a o.b o.qa o.qb (o.ord ++ o.sc ++ 0#3))
  | .casN64 o => .word (some .cc) (packR 0x49#7 o.d o.a o.b o.qa o.qb (o.ord ++ o.sc ++ 0#3))
  | .amofF32 o => .word (some .cc) (packR 0x4A#7 o.d o.a o.b o.qa o.qb (o.ord ++ o.sc ++ o.op))
  | .amofBf16 o => .word (some .cc) (packR 0x4B#7 o.d o.a o.b o.qa o.qb (o.ord ++ o.sc ++ o.op))
  | .vadd o => .word (some .ve) (packVV 0x40#7 o.vd o.va o.vb o.msk o.mz o.ty 0x01#5)
  | .vsub o => .word (some .ve) (packVV 0x40#7 o.vd o.va o.vb o.msk o.mz o.ty 0x02#5)
  | .vmul o => .word (some .ve) (packVV 0x40#7 o.vd o.va o.vb o.msk o.mz o.ty 0x03#5)
  | .vfma o => .word (some .ve) (packVV 0x40#7 o.vd o.va o.vb o.msk o.mz o.ty 0x04#5)
  | .vfms o => .word (some .ve) (packVV 0x40#7 o.vd o.va o.vb o.msk o.mz o.ty 0x05#5)
  | .vfnma o => .word (some .ve) (packVV 0x40#7 o.vd o.va o.vb o.msk o.mz o.ty 0x06#5)
  | .vmin o => .word (some .ve) (packVV 0x40#7 o.vd o.va o.vb o.msk o.mz o.ty 0x07#5)
  | .vmax o => .word (some .ve) (packVV 0x40#7 o.vd o.va o.vb o.msk o.mz o.ty 0x08#5)
  | .vminp o => .word (some .ve) (packVV 0x40#7 o.vd o.va o.vb o.msk o.mz o.ty 0x09#5)
  | .vmaxp o => .word (some .ve) (packVV 0x40#7 o.vd o.va o.vb o.msk o.mz o.ty 0x0A#5)
  | .vabs o => .word (some .ve) (packVV 0x40#7 o.vd o.va 0 o.msk o.mz o.ty 0x0B#5)
  | .vneg o => .word (some .ve) (packVV 0x40#7 o.vd o.va 0 o.msk o.mz o.ty 0x0C#5)
  | .vexp2 o => .word (some .ve) (packVV 0x40#7 o.vd o.va 0 o.msk o.mz o.ty 0x0D#5)
  | .vlog2 o => .word (some .ve) (packVV 0x40#7 o.vd o.va 0 o.msk o.mz o.ty 0x0E#5)
  | .vrcp o => .word (some .ve) (packVV 0x40#7 o.vd o.va 0 o.msk o.mz o.ty 0x0F#5)
  | .vrsqrt o => .word (some .ve) (packVV 0x40#7 o.vd o.va 0 o.msk o.mz o.ty 0x10#5)
  | .vtanh o => .word (some .ve) (packVV 0x40#7 o.vd o.va 0 o.msk o.mz o.ty 0x11#5)
  | .vsigm o => .word (some .ve) (packVV 0x40#7 o.vd o.va 0 o.msk o.mz o.ty 0x12#5)
  | .vrsum o => .word (some .ve) (packVV 0x40#7 o.vd o.va 0 o.msk o.mz o.ty 0x13#5)
  | .vrmax o => .word (some .ve) (packVV 0x40#7 o.vd o.va 0 o.msk o.mz o.ty 0x14#5)
  | .vrmin o => .word (some .ve) (packVV 0x40#7 o.vd o.va 0 o.msk o.mz o.ty 0x15#5)
  | .vcsum o => .word (some .ve) (packVV 0x40#7 o.vd o.va 0 o.msk o.mz o.ty 0x16#5)
  | .viadd o => .word (some .ve) (packVV 0x41#7 o.vd o.va o.vb o.msk o.mz o.ty 0x01#5)
  | .visub o => .word (some .ve) (packVV 0x41#7 o.vd o.va o.vb o.msk o.mz o.ty 0x02#5)
  | .vimul o => .word (some .ve) (packVV 0x41#7 o.vd o.va o.vb o.msk o.mz o.ty 0x03#5)
  | .vand o => .word (some .ve) (packVV 0x41#7 o.vd o.va o.vb o.msk o.mz o.ty 0x04#5)
  | .vor o => .word (some .ve) (packVV 0x41#7 o.vd o.va o.vb o.msk o.mz o.ty 0x05#5)
  | .vxor o => .word (some .ve) (packVV 0x41#7 o.vd o.va o.vb o.msk o.mz o.ty 0x06#5)
  | .vshl o => .word (some .ve) (packVV 0x41#7 o.vd o.va o.vb o.msk o.mz o.ty 0x07#5)
  | .vshr o => .word (some .ve) (packVV 0x41#7 o.vd o.va o.vb o.msk o.mz o.ty 0x08#5)
  | .vsra o => .word (some .ve) (packVV 0x41#7 o.vd o.va o.vb o.msk o.mz o.ty 0x09#5)
  | .vcmpEq o => .word (some .ve) (packVV 0x42#7 o.vd o.va o.vb o.msk o.mz o.ty 0x01#5)
  | .vcmpNe o => .word (some .ve) (packVV 0x42#7 o.vd o.va o.vb o.msk o.mz o.ty 0x02#5)
  | .vcmpLt o => .word (some .ve) (packVV 0x42#7 o.vd o.va o.vb o.msk o.mz o.ty 0x03#5)
  | .vcmpLe o => .word (some .ve) (packVV 0x42#7 o.vd o.va o.vb o.msk o.mz o.ty 0x04#5)
  | .vcmpGt o => .word (some .ve) (packVV 0x42#7 o.vd o.va o.vb o.msk o.mz o.ty 0x05#5)
  | .vcmpGe o => .word (some .ve) (packVV 0x42#7 o.vd o.va o.vb o.msk o.mz o.ty 0x06#5)
  | .vcmpEqInt o => .word (some .ve) (packVV 0x42#7 o.vd o.va o.vb o.msk o.mz o.ty 0x08#5)
  | .vcmpNeInt o => .word (some .ve) (packVV 0x42#7 o.vd o.va o.vb o.msk o.mz o.ty 0x09#5)
  | .vcmpLtInt o => .word (some .ve) (packVV 0x42#7 o.vd o.va o.vb o.msk o.mz o.ty 0x0A#5)
  | .vcmpLeInt o => .word (some .ve) (packVV 0x42#7 o.vd o.va o.vb o.msk o.mz o.ty 0x0B#5)
  | .vcmpGtInt o => .word (some .ve) (packVV 0x42#7 o.vd o.va o.vb o.msk o.mz o.ty 0x0C#5)
  | .vcmpGeInt o => .word (some .ve) (packVV 0x42#7 o.vd o.va o.vb o.msk o.mz o.ty 0x0D#5)
  | .vsel o => .word (some .ve) (packVV 0x42#7 o.vd o.va o.vb o.msk false o.ty 0x10#5)
  | .mlogAnd o => .word (some .ve) (packVV 0x42#7 o.vd o.va o.vb 0 false 0 0x11#5)
  | .mlogOr o => .word (some .ve) (packVV 0x42#7 o.vd o.va o.vb 0 false 0 0x12#5)
  | .mlogXor o => .word (some .ve) (packVV 0x42#7 o.vd o.va o.vb 0 false 0 0x13#5)
  | .mlogAndn o => .word (some .ve) (packVV 0x42#7 o.vd o.va o.vb 0 false 0 0x14#5)
  | .vcompress o => .word (some .ve) (packVV 0x42#7 o.vd o.va o.vb o.msk false o.ty 0x18#5)
  | .vexpand o => .word (some .ve) (packVV 0x42#7 o.vd o.va o.vb o.msk o.mz o.ty 0x19#5)
  | .vtrn o => .word (some .ve) (packVV 0x42#7 o.vd o.va 0 o.msk o.mz o.ty 0x1A#5)
  | .viota o => .word (some .ve) (packVV 0x42#7 o.vd 0 0 o.msk o.mz o.ty 0x1B#5)
  | .vcvt o => .word (some .ve) (packVV 0x43#7 o.vd o.va o.vb o.msk o.mz o.ty 0x01#5)
  | .vcvtSat o => .word (some .ve) (packVV 0x43#7 o.vd o.va o.vb o.msk o.mz o.ty 0x02#5)
  | .vcvtToInt o => .word (some .ve) (packVV 0x43#7 o.vd o.va o.vb o.msk o.mz o.ty 0x03#5)
  | .vqntBlk16 o => .word (some .ve) (packVV 0x43#7 o.vd o.va o.vb o.msk o.mz o.ty 0x04#5)
  | .vqntBlk32 o => .word (some .ve) (packVV 0x43#7 o.vd o.va o.vb o.msk o.mz o.ty 0x05#5)
  | .vbcast o => .word (some .ve) (packVS 0x44#7 o.vd o.va o.sb o.qb o.msk o.mz o.ty 0x01#3)
  | .vmovs o => .word (some .ve) (packVS 0x44#7 (o.n.extractLsb' 4 4) (o.n.extractLsb' 0 4) o.sb false o.vt false o.ty 0x02#3)
  | .vpop o => .word (some .ve) (packVS 0x44#7 o.vd 0 o.sb false o.msk o.mz o.ty 0x03#3)
  | .vpush o => .word (some .ve) (packVS 0x44#7 0 o.va o.sb false o.msk false o.ty 0x04#3)
  | .vrot o => .word (some .ve) (packVS 0x44#7 o.vd o.va o.sb o.qb o.msk o.mz o.ty 0x05#3)
  | .vshape o => .word (some .ve) (packVS 0x44#7 0 0 o.sb o.qb 0 false 0 0x06#3)
  | .vsetrm o => .word (some .ve) (packVS 0x44#7 0 0 o.sb o.qb 0 false 0 0x07#3)
  | .amod o => .word (some .ve) (packVS 0x46#7 (0#1 ++ o.n) 0 o.sb o.qb 0 false 0 0x01#3)
  | .amov o => .word (some .ve) (packVS 0x46#7 (0#1 ++ o.n) 0 o.sb o.qb 0 false 0 0x02#3)
  | .aadd o => .word (some .ve) (packVS 0x46#7 (0#1 ++ o.n) 0 o.sb o.qb 0 false 0 0x03#3)
  | .mpop o => .word (some .ve) (packVS 0x46#7 0 (0#1 ++ o.m) o.sb false 0 false 0 0x04#3)
  | .vld o => .word (some .ve) (packVA 0x48#7 o.vd o.as o.pi o.msk o.mz o.ty o.off)
  | .vst o => .word (some .ve) (packVA 0x49#7 o.vd o.as o.pi o.msk o.mz o.ty o.off)
  | .vlds o => .word (some .ve) (packVA 0x4A#7 o.vd o.as o.pi o.msk o.mz o.ty o.off)
  | .vsts o => .word (some .ve) (packVA 0x4B#7 o.vd o.as o.pi o.msk o.mz o.ty o.off)
  | .vgath o => .word (some .ve) (packVA 0x4C#7 o.vd o.as o.pi o.msk o.mz o.ty (o.vi ++ 0#5))
  | .vscat o => .word (some .ve) (packVA 0x4D#7 o.vd o.as o.pi o.msk o.mz o.ty (o.vi ++ 0#5))
  | .vldt o => .word (some .ve) (packVA 0x4E#7 o.vd 0 false o.msk o.mz o.ty (0#1 ++ o.t))
  | .vstt o => .word (some .ve) (packVA 0x4F#7 o.vd 0 false o.msk false o.ty (0#1 ++ o.t))
  | .hadmitA o => .word (some .he) (packH 0x40#7 o.sa o.sb o.qa o.qb (0#4 ++ o.rb ++ bit1 o.rot ++ bit1 o.seed ++ bit1 o.ns) 0x01#4)
  | .hadmitS o => .word (some .he) (packH 0x40#7 o.sa o.sb o.qa o.qb 0 0x02#4)
  | .hadmitG o => .word (some .he) (packH 0x40#7 o.sa o.sb o.qa o.qb (0#7 ++ bit1 o.dx ++ bit1 o.seed) 0x03#4)
  | .hadmitU x => .word (some .he) (packH 0x40#7 0 0 false false (0#8 ++ bit1 x) 0x04#4)
  | .hdrop o => .word (some .he) (packH 0x40#7 o.sa 0 o.qa false 0 0x05#4)
  | .hload o => .word (some .he) (packH 0x41#7 o.sa 0 o.qa false (0#7 ++ o.f) 0x01#4)
  | .hstore o => .word (some .he) (packH 0x41#7 o.sa 0 o.qa false (0#7 ++ o.f) 0x02#4)
  | .hspill o => .word (some .he) (packH 0x41#7 o.sa o.sb o.qa o.qb 0 0x03#4)
  | .hfill o => .word (some .he) (packH 0x41#7 o.sa 0 o.qa false 0 0x04#4)
  | .hwset o => .word (some .he) (packH 0x41#7 o.sa 0 o.qa false 0 0x05#4)
  | .hzero opt => .word (some .he) (packH 0x41#7 0 0 false false (0#4 ++ opt) 0x06#4)
  | .hhad n => .word (some .he) (packH 0x41#7 0 0 false false (0#7 ++ n) 0x07#4)
  | .hsetk o => .word (some .he) (packH 0x41#7 o.sa 0 o.qa false (0#7 ++ o.f) 0x08#4)
  | .hmesh o => .word (some .he) (packH 0x42#7 o.sa 0 o.qa false 0 0x01#4)
  | .hcfg o => .word (some .he) (packH 0x42#7 o.sa o.sb o.qa o.qb 0 0x02#4)
  | .hbind o => .word (some .he) (packH 0x42#7 o.sa 0 o.qa false 0 0x03#4)
  | .hver o => .word (some .he) (packH 0x42#7 o.sa o.sb false o.qb 0 0x04#4)
  | .hfreeze o => .word (some .he) (packH 0x42#7 o.sa 0 o.qa false 0 0x05#4)
  | .hthaw o => .word (some .he) (packH 0x42#7 o.sa 0 o.qa false 0 0x06#4)
  | .hdrain => .word (some .he) (packH 0x42#7 0 0 false false 0 0x07#4)
  | .ctpl o => .word (some .ce) (packC 0x40#7 o.sa o.sb o.ct false 0 0x01#5)
  | .cpy o => .word (some .ce) (packC 0x40#7 o.sa o.sb o.ct o.rl o.sc 0x02#5)
  | .cpyx o => .word (some .ce) (packC 0x40#7 o.sa o.sb o.ct o.rl o.sc 0x03#5)
  | .cpyt o => .word (some .ce) (packC 0x40#7 o.sa o.sb o.ct o.rl o.sc 0x04#5)
  | .cgath o => .word (some .ce) (packC 0x40#7 o.sa o.sb o.ct o.rl o.sc 0x05#5)
  | .cscat o => .word (some .ce) (packC 0x40#7 o.sa o.sb o.ct o.rl o.sc 0x06#5)
  | .czero o => .word (some .ce) (packC 0x40#7 o.sa o.sb 0 o.rl o.sc 0x07#5)
  | .cwaitCopy sa => .word (some .ce) (packC 0x40#7 sa 0 0 false 0 0x08#5)
  | .cfence sc => .word (some .ce) (packC 0x40#7 0 0 0 true sc 0x09#5)
  | .credF32 o => .word (some .ce) (packC 0x41#7 o.sa o.sb o.ct o.rl o.sc 0x01#5)
  | .credBf16 o => .word (some .ce) (packC 0x41#7 o.sa o.sb o.ct o.rl o.sc 0x02#5)
  | .credF32Det o => .word (some .ce) (packC 0x41#7 o.sa o.sb o.ct o.rl o.sc 0x03#5)
  | .credBf16Det o => .word (some .ce) (packC 0x41#7 o.sa o.sb o.ct o.rl o.sc 0x04#5)
  | .crede sa => .word (some .ce) (packC 0x41#7 sa 0 0 false 0 0x05#5)
  | .send o => .step (packStep 0x01#6 o)
  | .recv o => .step (packStep 0x02#6 o)
  | .rrs o => .step (packStep 0x03#6 o)
  | .copy o => .step (packStep 0x04#6 o)
  | .wait o => .step (packStep 0x05#6 o)
  | .loopb o => .step (packStep 0x06#6 o)
  | .loope o => .step (packStep 0x07#6 o)
  | .peer o => .step (packStep 0x08#6 o)
  | .sitadv o => .step (packStep 0x09#6 o)
  | .sitret o => .step (packStep 0x0A#6 o)
  | .kout o => .step (packStep 0x0B#6 o)
  | .done o => .step (packStep 0x0C#6 o)
  | .stepFire _ _ => .move
  | .stepComplete _ _ => .move
  | .stepWatchdog _ => .move
  | .waitSatisfied _ => .move
  | .waitWatchdog _ => .move
  | .maxiterWatchdog _ => .move
  | .pageRequestWatchdog _ => .move
  | .pageGrant _ _ _ => .move
  | .pageDeny _ _ _ => .move
  | .faultDelivery _ => .move
  | .eventDelivery _ => .move
  | .leaseRunEnd _ => .move
  | .prooferPeriod _ _ => .move
  | .yieldDecision _ => .move
  | .vtCharge => .move
  | .bindDecision => .move
  | .slotSubmit _ => .move
  | .reclaimTimeout => .move
  | .quotaExhausted _ _ => .move
  | .quotaKillTimeout _ => .move
  | .hardPreempt _ => .move
  | .contextStop _ => .move
  | .saveComplete _ => .move
  | .restore _ => .move
  | .restoreRunning _ => .move
  | .killSequence _ => .move
  | .drainMarkerComplete _ _ => .move
  | .rollback _ => .move
  | .scrub _ _ _ => .move
  | .waveAdmit _ _ => .move
  | .peelWatchdog _ _ => .move
  | .waveAtCell _ _ _ _ => .move
  | .stashValid _ _ => .move
  | .stashFree _ _ => .move
  | .edgeUnitTake _ _ => .move
  | .converterPush _ _ => .move
  | .copyBegin _ => .move
  | .copyComplete _ => .move
  | .contributionArrival _ _ => .move
  | .credeArrival _ _ => .move
  | .refusedRetry _ _ => .move
  | .holdBufferLeave _ => .move
  | .storeMerge _ _ => .move
  | .sectorWriteback _ _ => .move
  | .storeScopeRise _ _ => .move
  | .bankSwitchDone _ _ => .move
  | .invalComplete _ => .move
  | .cts _ => .move
  | .data _ => .move
  | .ack _ => .move
  | .coded _ => .move
  | .dnak _ => .move
  | .retransmitTimeout _ => .move
  | .sia _ => .move
  | .siw _ => .move
  | .sitEntryRemove _ _ _ _ => .move
  | .packetForward _ => .move
  | .codedForm _ => .move
  | .rmaWr _ => .move
  | .rmaRd _ => .move
  | .rmaResp _ => .move
  | .vfCreate _ => .move
  | .vfDestroy _ => .move
  | .s1root _ => .move
  | .s2root _ => .move
  | .inval _ => .move
  | .imgLoad _ => .move
  | .rcbWrite _ => .move
  | .lrecWrite _ => .move
  | .rcbCreate _ => .move
  | .rcbDelete _ => .move
  | .lrecArm _ => .move
  | .kill _ => .move
  | .preempt _ => .move
  | .resume _ => .move
  | .rwinSet _ => .move
  | .rmawinSet _ => .move
  | .routeSet _ => .move
  | .cgrpEn _ => .move
  | .keySet _ => .move
  | .assayRead _ => .move
  | .faultReport _ => .move
  | .powerOn => .move
  | .bringupComplete => .move
  | .supplyFailWarning => .move
  | .assaySaveTick => .move
  | .throttle _ => .move
  | .resultLands _ _ => .move
  | .unallocatedEncoding _ _ => .move

/-- The 32-bit word of an instruction, if it has one. -/
def Enc.word? : Enc → Option IWord
  | .word _ w => some w
  | .step _ => none
  | .move => none

/-- The step word of an instruction, if it has one. -/
def Enc.step? : Enc → Option SWord
  | .word _ _ => none
  | .step w => some w
  | .move => none

/-! ## The decoder -/

/-- Decoding a 32-bit word in a context of kind `k`: allocation, then reserved fields and forbidden values (R71 checks 1 and 2). -/
def decodeWord (k : Kind) (w : IWord) : Except DecodeErr Instr :=
  match rawWord k w with
  | .error e => .error e
  | .ok i => if (encode i).word? = some w ∧ i.wf = true then .ok i else .error .reserved

/-- Decoding a step word. The checks come in R70's order: OP, NIN, unused fields and flags, then FL[3] = 0 with OUT not 0. -/
def decodeStep (w : SWord) : Except DecodeErr Instr :=
  match rawStep w with
  | .error e => .error e
  | .ok i =>
    let o := StepF.unpack w
    if 4 < o.nin.toNat then .error (.stepProgram 2)
    else if fld w 40 3 ≠ 0 ∨ o.inputsClean = false ∨ i.stepFlagsOk o = false then .error (.stepProgram 3)
    else if o.fl.getLsbD 3 = false ∧ o.out ≠ 0 then .error (.stepProgram 4)
    else .ok i

/-- Four bytes as an instruction word, little-endian (R54). -/
def wordOfBytes (b0 b1 b2 b3 : Byte) : IWord := b3 ++ b2 ++ b1 ++ b0

/-- Eight bytes as a step word, little-endian (R54). -/
def stepOfBytes (l : List Byte) : SWord := l.foldr (fun b acc => (acc <<< 8) ||| b.setWidth 64) 0#64

/-- Decoding any bytes in a context of kind `k`: the instruction and what is left of the list; `none` for fewer bytes than a word. -/
def decodeBytes (k : Kind) : List Byte → Option (Except DecodeErr Instr × List Byte)
  | b0 :: b1 :: b2 :: b3 :: rest =>
    match k with
    | .se =>
      match rest with
      | b4 :: b5 :: b6 :: b7 :: rest' => some (decodeStep (stepOfBytes [b0, b1, b2, b3, b4, b5, b6, b7]), rest')
      | [] | [_] | [_, _] | [_, _, _] => none
    | .cc | .ve | .he | .ce => some (decodeWord k (wordOfBytes b0 b1 b2 b3), rest)
  | [] | [_] | [_, _] | [_, _, _] => none

/-- The kinds in which a word is tried when no context is named. -/
def tableKinds : List Kind := [.ve, .cc, .he, .ce]

/-- The kind of context in which a table word is read: the first of `tableKinds` that decodes it (se for a 64-bit word). -/
def tableKind (nbits w : Nat) : Option Kind :=
  if nbits = 64 then some .se
  else tableKinds.find? (fun k => (decodeWord k (BitVec.ofNat 32 w)).isOk)

/-- The instruction the decoder reads from the bits of an opcode-table row, bit 0 the least significant of the first word.
A word of a private major is read in the first engine kind that decodes it, since one word means something else in each kind (R55, R85). -/
def decodeTableWord (nbits w : Nat) : Option Instr :=
  match tableKind nbits w with
  | none => none
  | some .se => (decodeStep (BitVec.ofNat 64 w)).toOption
  | some k => (decodeWord k (BitVec.ofNat 32 w)).toOption

end Sys2Proof
end

