-- ==== Sys2Proof/Machine/Mem.lean ====
section
/-! DEFINITION. Memory and the ordering machine (R278 to R292): the settled bytes in one canonical form, the stores in flight, what a
party sees, the L1 sectors, and what it takes for an access to be performed at a scope. -/
namespace Sys2Proof.Machine

/-! ## Settled memory -/

/-- What a byte that nothing has written reads as (assumption 8). -/
def emptyByte : Byte := 0

def Memory.get (m : Memory) (a : Nat) : Byte :=
  match m with
  | [] => emptyByte
  | (k, b) :: rest => if k = a then b else Memory.get rest a

/-- Writing one byte; an entry equal to what an unlisted address reads as is removed. -/
def Memory.set (m : Memory) (a : Nat) (b : Byte) : Memory :=
  match m with
  | [] => if b = emptyByte then [] else [(a, b)]
  | (k, c) :: rest =>
    if a < k then (if b = emptyByte then (k, c) :: rest else (a, b) :: (k, c) :: rest)
    else if a = k then (if b = emptyByte then rest else (a, b) :: rest)
    else (k, c) :: Memory.set rest a b

/-- Writing a run of bytes from `a` up. -/
def Memory.setBytes (m : Memory) (a : Nat) : List Byte → Memory
  | [] => m
  | b :: rest => Memory.setBytes (m.set a b) (a + 1) rest

/-- The canonical form: addresses strictly rising, no entry that an unlisted address would read as. -/
def Memory.wf (m : Memory) : Bool :=
  match m with
  | [] => true
  | [(_, b)] => b != emptyByte
  | (k, b) :: (k', b') :: rest => b != emptyByte && decide (k < k') && Memory.wf ((k', b') :: rest)

/-! ## The physical address map (R304, R377, R408) -/

inductive PaKind where
  | hbm | sram (g : Nat) (bank : Nat) | remote | hole
  deriving DecidableEq, Repr

def paKind (pa : Nat) : PaKind :=
  if pa < 0x6000000000 then .hbm
  else if 0x400000000000 ≤ pa ∧ pa < 0x400000000000 + 32 * 2 ^ 24 then
    .sram ((pa - 0x400000000000) / 2 ^ 24) ((pa - 0x400000000000) % 2 ^ 24 / 2 ^ 20)
  else if pa / 2 ^ 47 % 2 = 1 ∧ pa < 2 ^ 48 then .remote
  else .hole

/-- Stack of an HBM4 address (R408). -/
def stackOf (pa : Nat) : Nat := (pa / 2 ^ 8 % 8) ^^^ (pa / 2 ^ 16 % 8) ^^^ (pa / 2 ^ 24 % 8)

/-! ## Scopes and distances (R278, R279) -/

def Scope.rank : Scope → Nat
  | .eng => 0
  | .grp => 1
  | .dev => 2
  | .fab => 3
  | .sys => 4

/-- The scope of a code 0 to 4 (R61). -/
def scopeOfCode (c : BitVec 3) : Scope :=
  match c.toNat with
  | 0 => .eng
  | 1 => .grp
  | 2 => .dev
  | 3 => .fab
  | _ => .sys

def Scope.succ : Scope → Scope
  | .eng => .grp
  | .grp => .dev
  | .dev => .fab
  | .fab => .sys
  | .sys => .sys

/-- D(P, Q) (R278). Engine number 362 is the host, 364 a context of another G7. -/
def dist (p q : Loc) : Scope :=
  if p.eng = 362 ∨ q.eng = 362 ∨ p.vf ≠ q.vf then .sys
  else if p.eng = 364 ∨ q.eng = 364 then .fab
  else if p.eng = q.eng then .eng
  else if p.grp = q.grp then .grp
  else .dev

/-- The wider of two scopes. -/
def Scope.max (a b : Scope) : Scope := if Scope.rank a ≤ Scope.rank b then b else a

/-- ps(W) ≥ s (R279). -/
def psAtLeast (ps : Option Scope) (sc : Scope) : Bool :=
  match ps with
  | none => false
  | some p => decide (Scope.rank sc ≤ Scope.rank p)

def StoreRec.covers (r : StoreRec) (pa : Nat) : Bool := decide (r.pa ≤ pa) && decide (pa < r.pa + r.bytes.length)
def StoreRec.overlaps (r q : StoreRec) : Bool := decide (r.pa < q.pa + q.bytes.length) && decide (q.pa < r.pa + r.bytes.length)
def StoreRec.byteAt (r : StoreRec) (pa : Nat) : Byte := r.bytes.getD (pa - r.pa) emptyByte
def StoreRec.ids (r : StoreRec) : List Nat := r.id :: r.also.map (·.2)
/-- Whether a context's store is in the record. -/
def StoreRec.owned (r : StoreRec) (c : CtxRef) : Bool := r.by_ = c || r.also.any (fun x => x.1 = c)

/-! ## What a party sees (R281, R285) -/

/-- The last store of a list that covers `pa` and meets `p`. -/
def lastCover (l : List StoreRec) (pa : Nat) (p : StoreRec → Bool) : Option StoreRec :=
  (l.filter (fun r => r.covers pa && p r)).getLast?

/-- The latest store in coherence order visible at `loc`, else the settled byte. -/
def State.viewByte (s : State) (loc : Loc) (pa : Nat) : Byte :=
  match lastCover s.coh pa (fun r => psAtLeast r.ps (dist r.loc loc)) with
  | some r => r.byteAt pa
  | none => s.mem.get pa

/-- The latest store in coherence order performed at dev, else the settled byte: what page walkers and Dortas read (R353). -/
def State.devByte (s : State) (pa : Nat) : Byte :=
  match lastCover s.coh pa (fun r => psAtLeast r.ps .dev) with
  | some r => r.byteAt pa
  | none => s.mem.get pa

/-- The latest byte in coherence order, visible or not: what an atomic or a Winze addition reads (R177, R320). -/
def State.lastByte (s : State) (pa : Nat) : Byte :=
  match lastCover s.coh pa (fun _ => true) with
  | some r => r.byteAt pa
  | none => s.mem.get pa

/-- Bytes `pa .. pa + n - 1` through a reader. -/
def bytesFrom (f : Nat → Byte) (pa n : Nat) : List Byte := (List.range n).map (fun i => f (pa + i))

/-- Little-endian value of bytes (R6). -/
def leNat : List Byte → Nat
  | [] => 0
  | b :: rest => b.toNat + 256 * leNat rest

/-- The low n bytes of a number, little-endian. -/
def natBytes (v : Nat) : Nat → List Byte
  | 0 => []
  | n + 1 => BitVec.ofNat 8 (v % 256) :: natBytes (v / 256) n

/-! ## L1 sectors (R283, R301, R302) -/

/-- The core whose L1 serves a context (R301). -/
def Context.core? (c : Context) : Option Nat :=
  match c.kind with
  | .cc => some c.engine
  | .ve => some c.engine
  | .ce => none
  | .he => none
  | .se => none

/-- The core that a place in `Loc` belongs to. -/
def Loc.core? (l : Loc) : Option Nat := if l.eng < 128 then some l.eng else if l.eng < 256 then some (l.eng - 128) else none

/-- A page whose stores stay in the core's L1 until their sector is written back (R283, R301). -/
def PageInfo.inL1 (p : PageInfo) : Bool := p.cohr == .priv && paKind p.pa == .hbm

/-- A page from which plain loads may return older values (R285). -/
def PageInfo.mayBeOld (p : PageInfo) : Bool := !p.inL1 && (p.cohr == .rsh || p.ord == .uo)

def State.l1Find (s : State) (core pa : Nat) : Option L1Sector := s.l1.find? (fun x => x.core = core && x.pa = pa / 32 * 32)

/-- Dropping a sector of a core's L1. -/
def State.l1Drop (s : State) (core pa : Nat) : State :=
  { s with l1 := s.l1.filter (fun x => !(x.core = core && x.pa = pa / 32 * 32)) }

/-- A store that is visible to a context (R279): near enough for its ps, the context's own, or written back from the L1 of its core (R301). -/
def State.sees (s : State) (c : Context) (r : StoreRec) : Bool :=
  psAtLeast r.ps (dist r.loc (s.locOf c)) || (r.ps.isSome && (r.owned c.ref || (r.page.cohr == .priv && c.core?.isSome && r.loc.core? = c.core?)))

/-- The byte a context sees: the latest store in coherence order that is visible to it, else the settled byte. -/
def State.seenByte (s : State) (c : Context) (pa : Nat) : Byte :=
  match lastCover s.coh pa (s.sees c) with
  | some r => r.byteAt pa
  | none => s.mem.get pa

/-- An address lies in a sector. -/
def StoreRec.inSector (r : StoreRec) (pa : Nat) : Bool := r.pa / 32 = pa / 32

/-- A sector may be filled: nothing the core itself wrote back to it is short of grp. -/
def State.fillReady (s : State) (core pa : Nat) : Bool :=
  (s.l1Find core pa).isSome || s.coh.all (fun r => !r.inSector pa || r.loc.core? ≠ some core || psAtLeast r.ps .grp)

/-- The sector filled from its home as `c` sees it (R301). -/
def State.l1Fill (s : State) (c : Context) (core pa : Nat) (p : PageInfo) : State :=
  match s.l1Find core pa with
  | some _ => s
  | none =>
    let base := pa / 32 * 32
    { s with l1 := s.l1 ++ [⟨core, base, bytesFrom (s.seenByte c) base 32, false, p.ord == .uo, p.ckpt, c.ref, s.locOf c, [], [], false⟩] }

/-- Bytes written over a run of a sector image. -/
def overlay (img : List Byte) (off : Nat) (bs : List Byte) : List Byte := img.take off ++ bs ++ img.drop (off + bs.length)

/-- A store performed in the core's L1: its sector is dirty and holds it (R283, R301). -/
def State.l1Write (s : State) (core : Nat) (r : StoreRec) : State :=
  { s with l1 := s.l1.map (fun x =>
      if x.core = core && x.pa = r.pa / 32 * 32 then
        { x with
          bytes := overlay x.bytes (r.pa % 32) r.bytes, dirty := true, by_ := r.by_, loc := r.loc, ckpt := x.ckpt || r.page.ckpt
          stores := x.stores ++ (r.by_, r.id) :: r.also, rels := x.rels ++ r.rels, so := x.so || r.page.ord == .so }
      else x) }

/-! ## Older values (R285) -/

/-- The view that a context has of some sectors at this moment, kept for its later loads. -/
def State.sample (s : State) (r : CtxRef) (sectors : List Nat) : State :=
  match s.ctx? r with
  | none => s
  | some c =>
    { s with
      nextId := s.nextId + 1
      olds := s.olds ++ [⟨r, s.nextId, false, sectors.flatMap (fun x => (List.range 32).map (fun i => (32 * x + i, s.seenByte c (32 * x + i))))⟩] }

/-- A kept view given up. -/
def State.forget (s : State) (r : CtxRef) (gen : Nat) : State := { s with olds := s.olds.filter (fun o => !(o.by_ = r && o.gen = gen)) }

/-- A context may no longer return an older value for these bytes: it has stored to them or seen them anew. -/
def State.renew (s : State) (rs : List CtxRef) (pa n : Nat) : State :=
  { s with olds := (s.olds.map (fun o =>
      if rs.contains o.by_ then { o with cells := o.cells.filter (fun c => !(decide (pa ≤ c.1) && decide (c.1 < pa + n))) } else o)).filter (fun o => !o.cells.isEmpty) }

/-- An ordering point of R285: older values of RSH pages are out of reach, and those of UO pages after an explicit acquire; the core's clean
PRIV sectors are read anew. -/
def State.orderPoint (s : State) (c : Context) (explicit : Bool) : State :=
  { s with
    olds := if explicit then s.olds.filter (fun o => o.by_ ≠ c.ref) else s.olds.map (fun o => if o.by_ = c.ref then { o with uoOnly := true } else o)
    l1 := s.l1.filter (fun x => !(c.core? = some x.core && !x.dirty && (explicit || !x.uo))) }

/-- Bytes of a piece. -/
def Piece.range (p : Piece) : List Nat := (List.range p.len).map (fun i => p.pa + i)

/-- The kept view that one access of a context to these pieces returns, if any: the oldest that has every byte of it. -/
def State.oldFor (s : State) (c : Context) (ps : List Piece) : Option OldCopy :=
  if ps.all (fun p => p.page.mayBeOld) then
    s.olds.find? (fun o => o.by_ = c.ref && ps.all (fun p => (p.page.ord == .uo || !o.uoOnly) && p.range.all (fun a => o.cells.any (fun x => x.1 = a))))
  else none

/-- The sectors of the PRIV pages among some pieces, filled (R301). -/
def State.fillPieces (s : State) (c : Context) (ps : List Piece) : State :=
  match c.core? with
  | some core => ps.foldl (fun t p => if p.page.inL1 then t.l1Fill c core p.pa p.page else t) s
  | none => s

/-- The byte that access number `before` of a context reads: its own latest earlier store still in the hold buffer, else the sector of its
core's L1 or the kept view, else what it sees (R148, R285). -/
def State.loadByte (s : State) (c : Context) (before : Nat) (old : Option OldCopy) (p : PageInfo) (pa : Nat) : Byte :=
  match lastCover s.hold pa (fun r => r.owned c.ref && decide (r.id < before)) with
  | some r => r.byteAt pa
  | none =>
    match (if p.inL1 then c.core?.bind (fun core => s.l1Find core pa) else none) with
    | some x => x.bytes.getD (pa % 32) emptyByte
    | none =>
      match old.bind (fun o => o.cells.find? (fun x => x.1 = pa)) with
      | some x => x.2
      | none => s.seenByte c pa

/-- One single-copy-atomic access (R118, R143): the bytes of its pieces, all from one moment. -/
def State.readUnit (s : State) (c : Context) (before : Nat) (ps : List Piece) : State × List Byte :=
  let s1 := s.fillPieces c ps
  let old := s1.oldFor c ps
  let bs := ps.flatMap (fun p => p.range.map (s1.loadByte c before old p.page))
  (if old.isSome then s1 else ps.foldl (fun t p => t.renew [c.ref] p.pa p.len) s1, bs)

/-- The sectors that an access would fill may be filled now. -/
def State.mayFill (s : State) (c : Context) (ps : List Piece) : Bool :=
  match c.core? with
  | some core => ps.all (fun p => !p.page.inL1 || s.fillReady core p.pa)
  | none => true

/-! ## Issued and performed (R279, R288, R290) -/

/-- A CRED of a deterministic round: its additions are the Winze's, made in the round's order and not in the context's (R265). -/
def CopyOp.inRound : CopyOp → Bool
  | .cred _ det => det
  | .cpy | .cpyx | .cpyt | .cgath | .cscat | .czero | .crede | .cfence => false

/-- Whether a queue entry has still to access memory (R251): CFENCE and CREDE never do, a CRED of a round until its sources are read (assumption
38). -/
def CopyEntry.accesses (e : CopyEntry) : Bool :=
  match e.op with
  | .cpy | .cpyx | .cpyt | .cgath | .cscat | .czero => true
  | .cred _ det => !det || !e.begun || !e.todo.isEmpty || !e.left.isEmpty
  | .crede | .cfence => false

/-- The stores of a number are performed at a scope: none held, those in coherence order far enough, one in a dirty sector at eng only. -/
def State.storesAt (s : State) (id : Nat) (sc : Scope) : Bool :=
  s.hold.all (fun r => !r.ids.contains id) && s.coh.all (fun r => !r.ids.contains id || psAtLeast r.ps sc) &&
  (sc == .eng || s.l1.all (fun x => !x.stores.any (fun y => y.2 = id)))

/-- An access is performed at a scope: its stores are, a load or atomic has landed, a copy has completed (its writes carry its number too). -/
def State.performedAt (s : State) (id : Nat) (sc : Scope) : Bool :=
  s.storesAt id sc && (s.cur :: s.parked).all (fun c => c.pend.all (fun q => q.id ≠ id) && c.copyq.all (fun e => e.id ≠ id || !e.accesses))

/-- Whether a pending result is an access to memory. -/
def Pend.isAccess (q : Pend) : Bool :=
  match q.what with
  | .value _ => false
  | .held => false
  | .load _ _ _ => true
  | .atomic _ _ _ _ _ _ => true
  | .vload _ _ _ _ => true

/-- The pieces a pending result has still to access. -/
def Pend.pieces (q : Pend) : List Piece :=
  match q.what with
  | .value _ => []
  | .held => []
  | .load ps _ _ => (ps.filter (fun x => x.2.isNone)).map (·.1)
  | .atomic p _ _ _ _ _ => [p]
  | .vload _ _ es _ => es.flatMap (·.pieces)

/-- An access of the context before number `id` is outstanding for a byte of the run: accesses to one byte are performed in program order (R148). -/
def State.olderPending (s : State) (by_ : CtxRef) (id pa n : Nat) : Bool :=
  match s.ctx? by_ with
  | none => false
  | some c => c.pend.any (fun q => decide (q.id < id) && q.pieces.any (fun p => decide (p.pa < pa + n) && decide (pa < p.pa + p.len)))

/-- Whether a pending access is an acquire (R291). -/
def Pend.isAcquire (q : Pend) : Bool :=
  match q.what with
  | .value _ => false
  | .held => false
  | .load _ _ acq => acq.isSome
  | .atomic _ _ _ _ acq _ => acq.isSome
  | .vload _ _ _ _ => false

/-- Whether a pending access has still to touch a page of an ORD (R288, R294). -/
def Pend.onOrd (q : Pend) (o : PageOrd) : Bool := q.pieces.any (fun p => p.page.ord == o)

/-- Ids of the context's own accesses that are not performed at `sc` (R290 condition 1); of its copies' writes where `copies` says so. -/
def State.ownUnperformed (s : State) (c : Context) (copies : Bool) (sc : Scope) : List Nat :=
  ((s.hold ++ s.coh).filter (fun r => r.owned c.ref && (copies || !r.copy) && !psAtLeast r.ps sc)).map (·.id) ++
  (if sc == .eng then [] else s.l1.flatMap (fun x => (x.stores.filter (fun y => y.1 = c.ref)).map (·.2))) ++
  (c.pend.filter Pend.isAccess).map (·.id) ++ (if copies then (c.copyq.filter CopyEntry.accesses).map (·.id) else [])

/-- Ids of the stores visible to the context that are not performed at `sc` (R290 condition 2). -/
def State.seenUnperformed (s : State) (c : Context) (sc : Scope) : List Nat :=
  (s.coh.filter (fun r => s.sees c r && !psAtLeast r.ps sc)).map (·.id) ++
  (if sc == .eng then [] else (s.l1.filter (fun x => c.core? = some x.core)).flatMap (fun x => x.stores.map (·.2)))

/-- What a release by `c` at `sc` publishes. -/
def State.releaseDeps (s : State) (c : Context) (copies : Bool) (sc : Scope) : List Nat :=
  let own := s.ownUnperformed c copies sc
  own ++ (s.seenUnperformed c sc).filter (fun i => !own.contains i && (copies || !s.coh.any (fun r => r.id = i && r.copy && r.owned c.ref)))

/-- The release of id `id` at `sc` by a context. -/
def State.release (s : State) (c : Context) (id : Nat) (sc : Scope) (note : Option Word) : Release :=
  ⟨c.ref, id, sc, s.releaseDeps c true sc, note⟩

/-- Whether what releases publish up to a stage is performed there: a release is at no stage up to its scope before that (R290, R292). Accesses
among `own` move with it. -/
def State.published (s : State) (rels : List Release) (own : List Nat) (sc : Scope) : Bool :=
  rels.all (fun x => decide (Scope.rank x.scope < Scope.rank sc) || x.deps.all (fun i => own.contains i || s.performedAt i sc))

/-- A release publishes as well what its context has come to see through an earlier load, number `id`, that lands only now (R144, R290). -/
def Release.learn (x : Release) (by_ : CtxRef) (id : Nat) (seen : Scope → List Nat) : Release :=
  if x.by_ = by_ && x.deps.contains id then { x with deps := x.deps ++ (seen x.scope).filter (fun i => !x.deps.contains i && i ≠ x.id) } else x

/-- Every release of a context that waits for its load `id` learns what the context sees now. -/
def State.learn (s : State) (c : Context) (id : Nat) : State :=
  let f (x : Release) : Release := x.learn c.ref id (s.seenUnperformed c)
  State.setCtx { s with
    hold := s.hold.map (fun r => { r with rels := r.rels.map f })
    coh := s.coh.map (fun r => { r with rels := r.rels.map f })
    l1 := s.l1.map (fun x => { x with rels := x.rels.map f }) } c.ref (fun c => { c with
    pend := c.pend.map (fun q =>
      match q.what with
      | .atomic p op v signed acq rels => { q with what := .atomic p op v signed acq (rels.map f) }
      | .value _ => q
      | .held => q
      | .load _ _ _ => q
      | .vload _ _ _ _ => q)
    copyq := c.copyq.map (fun e =>
      let more (ids : List Nat) (sc : Scope) : List Nat := if ids.contains id then ids ++ (s.seenUnperformed c sc).filter (fun i => !ids.contains i) else ids
      { e with ids := more e.ids (e.rel.getD .dev), tids := more e.tids .dev }) })

/-- An earlier SO access of the context is not performed at dev (R288); the pieces of one access are in no order (R287). -/
def State.soBefore (s : State) (by_ : CtxRef) (id pair : Nat) : Bool :=
  (s.hold ++ s.coh).any (fun r => r.owned by_ && decide (r.id < id) && r.pair ≠ pair && r.page.ord == .so && !psAtLeast r.ps .dev) ||
  s.l1.any (fun x => x.so && x.stores.any (fun y => y.1 = by_ && decide (y.2 < id))) ||
  (match s.ctx? by_ with
   | some c => c.pend.any (fun q => decide (q.id < id) && q.onOrd .so)
   | none => false)

/-- Ids of the earlier SO accesses of the context that are not performed at dev. -/
def State.soIds (s : State) (c : Context) : List Nat :=
  ((s.hold ++ s.coh).filter (fun r => r.owned c.ref && r.page.ord == .so && !psAtLeast r.ps .dev)).map (·.id) ++
  (s.l1.filter (·.so)).flatMap (fun x => (x.stores.filter (fun y => y.1 = c.ref)).map (·.2)) ++
  (c.pend.filter (fun q => q.onOrd .so)).map (·.id)

/-- Stores to a run that stand in coherence order short of a scope. -/
def State.shortOf (s : State) (pa n : Nat) (sc : Scope) : List Nat :=
  (s.coh.filter (fun r => decide (r.pa < pa + n) && decide (pa < r.pa + r.bytes.length) && !psAtLeast r.ps sc)).map (·.id)

/-- A store at `loc` may be at scope `sc`: each store before it in coherence order is visible to every party there (R281). -/
def State.inOrder (before : List StoreRec) (loc : Loc) (pa n : Nat) (sc : Scope) : Bool :=
  before.all (fun q => !(decide (q.pa < pa + n) && decide (pa < q.pa + q.bytes.length)) || psAtLeast q.ps (Scope.max sc (dist q.loc loc)))

/-! ## Undo logging (R344, R345) -/

/-- The undo log's bytes of an instance over all stacks (R345). -/
def State.undoBytes (s : State) (slot : Nat) : Nat := 64 * (s.undo.filter (fun u => u.slot = slot)).length

/-- Before the first write after a checkpoint to a sector of a CKPT page, its old bytes are logged (R344). `budget` is the effective UNDOB;
a record that would exceed it voids the checkpoint instead and posts CKPT_VOID (R345). -/
def State.logUndo (s : State) (slot budget pa : Nat) (ckpt : Bool) : State :=
  match Tbl.get? s.slots slot with
  | none => s
  | some x =>
    match x.ckpt with
    | none => s
    | some k =>
      let base := pa / 32 * 32
      if !ckpt || !k.valid || s.undo.any (fun u => u.slot = slot && u.pa = base) then s
      else if budget < s.undoBytes slot + 64 then
        let s' := { s with
          slots := Tbl.set s.slots slot { x with ckpt := some { k with valid := false } }
          undo := s.undo.filter (fun u => u.slot ≠ slot) }
        s'.post ⟨slot, 0⟩ ⟨Code.ckptVoid, 0, 0, true⟩
      else
        { s with
          undo := s.undo ++ [⟨stackOf base, slot, base, bytesFrom s.lastByte base 32, s.undoSeq⟩]
          undoSeq := s.undoSeq + 1 }

/-! ## Region control blocks (R12, R13) -/

/-- A field of an RCB with its OVR bit: hi, lo, bit. -/
structure RcbField where
  hi : Nat
  lo : Nat
  ovr : Nat
  deriving DecidableEq, Repr

namespace RcbField
def share : RcbField := ⟨55, 48, 0⟩
def pclass : RcbField := ⟨38, 36, 1⟩
def fdom : RcbField := ⟨35, 35, 2⟩
def scopepol : RcbField := ⟨56, 56, 3⟩
def qpol : RcbField := ⟨57, 57, 4⟩
def slice : RcbField := ⟨107, 88, 5⟩
def bindmax : RcbField := ⟨87, 68, 6⟩
def coresb : RcbField := ⟨191, 176, 7⟩
def cengb : RcbField := ⟨175, 160, 8⟩
def hearthb : RcbField := ⟨159, 144, 9⟩
def sramb : RcbField := ⟨255, 224, 10⟩
def outreq : RcbField := ⟨223, 208, 11⟩
def trob : RcbField := ⟨303, 288, 12⟩
def tokb : RcbField := ⟨319, 304, 13⟩
def rdvb : RcbField := ⟨287, 272, 14⟩
def stepb : RcbField := ⟨271, 256, 15⟩
def qcyc : RcbField := ⟨383, 320, 16⟩
def qbytes : RcbField := ⟨447, 384, 17⟩
def undob : RcbField := ⟨511, 448, 18⟩
end RcbField

def RcbNode.get (n : RcbNode) (f : RcbField) : Nat := fieldN n.bits f.hi f.lo
def RcbNode.level (n : RcbNode) : Nat := fieldN n.bits 34 32
def RcbNode.parent (n : RcbNode) : Nat := fieldN n.bits 31 16
def RcbNode.vf (n : RcbNode) : Nat := fieldN n.bits 47 40
def RcbNode.ovrBit (n : RcbNode) (b : Nat) : Bool := n.bits.getLsbD (108 + b)

/-- Eff(n, f) (R13): the tree is at most six levels deep. -/
def effAt (t : Tbl RcbNode) (f : RcbField) : Nat → Nat → Nat
  | 0, _ => 0
  | k + 1, n =>
    match Tbl.get? t n with
    | none => 0
    | some x => if x.level = 0 ∨ x.ovrBit f.ovr = true then x.get f else effAt t f k x.parent

def State.eff (s : State) (n : Nat) (f : RcbField) : Nat := effAt s.rcbs f 7 n

/-- SCOPEPOL is the tenant node's effective value, node 1 + VF, for the whole VF (R11, R13). -/
def State.scopePol (s : State) (vf : Nat) : Nat := s.eff (1 + vf) .scopepol

/-- The effective value at a context's region. -/
def State.effOf (s : State) (c : Context) (f : RcbField) : Nat :=
  match s.slotOf c with
  | some x => s.eff x.rcbx f
  | none => 0

/-! ## What the Assay and the quotas count (R183, R336, R398) -/

def AssayVf.reset : AssayVf := ⟨List.replicate 10 0, List.replicate 10 0, false, 0, 0⟩

/-- Counter k raised by n; it stays at 2^64 − 1 (R398). -/
def AssayVf.bump (a : AssayVf) (k n : Nat) : AssayVf := { a with ctr := a.ctr.set k (min (a.ctr.getD k 0 + n) (2 ^ 64 - 1)) }

/-- Use counted at every node of the path whose own quota is set (R336). -/
def countUse (bytes : Bool) (n : Nat) : Nat → Nat → Tbl RcbNode → Tbl RcbNode
  | 0, _, t => t
  | k + 1, i, t =>
    match Tbl.get? t i with
    | none => t
    | some x =>
      let f := if bytes then RcbField.qbytes else RcbField.qcyc
      let x' := if x.ovrBit f.ovr && x.get f != 0 then (if bytes then { x with bytUse := x.bytUse + n } else { x with cycUse := x.cycUse + n }) else x
      let t' := Tbl.set t i x'
      if x.level = 0 then t' else countUse bytes n k x.parent t'

/-- Activity of an instance counted: counter k of R183 for its VF, and the use counts of R336. -/
def State.meter (s : State) (slot k n : Nat) : State :=
  match Tbl.get? s.slots slot with
  | none => s
  | some x =>
    let s1 := { s with assay := Tbl.set s.assay x.vf (((Tbl.get? s.assay x.vf).getD AssayVf.reset).bump k n) }
    if k = 3 then s1 else { s1 with rcbs := countUse (decide (5 ≤ k)) n 7 x.rcbx s1.rcbs }

/-- Bytes moved at an address: group SRAM, else L1 for a core's access and HBM4 for any other (assumption 15). -/
def State.meterBytes (s : State) (slot : Nat) (core : Bool) (pa n : Nat) : State :=
  match paKind pa with
  | .sram _ _ => s.meter slot 6 n
  | .hbm => s.meter slot (if core then 5 else 7) n
  | .remote => s
  | .hole => s

/-! ## Stores leaving the hold buffer (R281, R282, R283) -/

/-- The core whose L1 a store is performed in. -/
def State.l1Of (s : State) (r : StoreRec) : Option Nat := if r.page.inL1 then (s.ctx? r.by_).bind Context.core? else none

/-- A store finds its place: its sector of the L1, filled if it must be, and clean for a release (R290, R302), or its home (R281). -/
def State.placeReady (s : State) (r : StoreRec) : Bool :=
  match s.l1Of r with
  | some core =>
    (decide (r.bytes.length = 32) || s.fillReady core r.pa) && (r.rels.isEmpty || (s.l1Find core r.pa).all (fun x => !x.dirty))
  | none => State.inOrder s.coh r.loc r.pa r.bytes.length .eng

/-- Whether a held store may leave: R148's byte order, R288 on SO pages, what its releases publish (R290, R292), and its place. Remote stores
leave through the fabric. -/
def State.mayLeave (s : State) (r : StoreRec) : Bool :=
  r.page.remote.isNone &&
  !(s.hold.any (fun q => q.by_ = r.by_ && decide (q.id < r.id) && q.overlaps r)) && !s.olderPending r.by_ r.id r.pa r.bytes.length &&
  (r.page.ord != .so || !s.soBefore r.by_ r.id r.pair) && s.published r.rels r.ids .eng && s.placeReady r

/-- The effective UNDOB of an instance. -/
def State.undobOf (s : State) (slot : Nat) : Nat :=
  match Tbl.get? s.slots slot with
  | some x => s.eff x.rcbx .undob
  | none => 0

/-- A store placed at its home in coherence order, performed at eng (R281). -/
def State.place (s : State) (r : StoreRec) : State :=
  let s1 := (s.logUndo r.by_.slot (s.undobOf r.by_.slot) r.pa r.page.ckpt).renew (r.by_ :: r.also.map (·.1)) r.pa r.bytes.length
  { s1 with coh := s1.coh ++ [{ r with ps := some .eng }] }

/-- A PRIV store performed in the core's L1, its sector filled first (R283, R302). -/
def State.placePriv (s : State) (c : Context) (core : Nat) (r : StoreRec) : State := (s.l1Fill c core r.pa r.page).l1Write core r

/-- One record of a store performed at its home or in the core's L1 (R281, R283). -/
def State.performStore (s0 : State) (r : StoreRec) : State :=
  let s := s0.meterBytes r.by_.slot (decide (r.loc.eng < 256)) r.pa r.bytes.length
  match s.l1Of r, s.ctx? r.by_ with
  | some core, some c => s.placePriv c core r
  | some _, none => s.place r
  | none, _ => s.place r

/-- A held store leaves the hold buffer and is performed at eng. The records of one number are one single-copy-atomic unit (R118) and move together. -/
def State.leaveHold (s : State) (id : Nat) : State :=
  let rs := s.hold.filter (fun r => r.id = id)
  if !rs.isEmpty && rs.all s.mayLeave then
    rs.foldl State.performStore { s with hold := s.hold.filter (fun q => q.id ≠ id) }
  else s

/-- A dirty sector written back as one store of 32 bytes, which holds every store made to the sector; it is kept clean (R283). -/
def State.writeback (s : State) (x : L1Sector) : State :=
  let s1 := s.logUndo x.by_.slot (s.undobOf x.by_.slot) x.pa x.ckpt
  let r : StoreRec :=
    { StoreRec.new s1.nextId x.by_ x.loc x.pa x.bytes ⟨x.pa, if x.so then .so else .rc, .priv, 0, false, x.ckpt, none⟩ with
      also := x.stores, rels := x.rels, ps := if State.inOrder s1.coh x.loc x.pa 32 .eng then some .eng else none }
  { s1 with
    nextId := s1.nextId + 1
    coh := s1.coh ++ [r]
    l1 := s1.l1.map (fun y => if y.core = x.core ∧ y.pa = x.pa then { y with dirty := false, stores := [], rels := [], so := false } else y) }

/-- A sector may be written back: what stands before it in coherence order is visible to its core (R281). -/
def State.mayWriteBack (s : State) (x : L1Sector) : Bool := x.dirty && State.inOrder s.coh x.loc x.pa 32 .eng

/-- Every dirty sector of a core that may be is written back (R283). -/
def State.writebackCore (s : State) (core : Nat) : State :=
  (s.l1.filter (fun x => x.core = core)).foldl (fun t x => if t.mayWriteBack x then t.writeback x else t) s

/-- The next stage of a store in coherence order, if nothing stands against it: the stores before it are visible wherever it becomes so (R281),
and what its releases publish is performed there (R290, R292). -/
def State.mayRise (s : State) (r : StoreRec) (sc : Scope) : Bool :=
  (match r.ps with
   | none => decide (sc = .eng)
   | some p => decide (Scope.rank sc = Scope.rank p + 1)) &&
  State.inOrder (s.coh.takeWhile (fun q => q.id ≠ r.id)) r.loc r.pa r.bytes.length sc && s.published r.rels r.ids sc

/-- What releases publish at every stage up to fab: a remote store passes them in one move (R284). -/
def State.publishedFar (s : State) (rels : List Release) (own : List Nat) : Bool := [Scope.eng, .grp, .dev, .fab].all (s.published rels own)

/-- The widest stage up to `sc` that a store placed now may be at (R281); none where it is not even visible to its own engine. -/
def State.reach (s : State) (loc : Loc) (pa n : Nat) (sc : Scope) : Option Scope :=
  [Scope.sys, .fab, .dev, .grp, .eng].find? (fun t => decide (Scope.rank t ≤ Scope.rank sc) && State.inOrder s.coh loc pa n t)

/-- Events that releases post once they are performed at their scope (R145). -/
def State.postNotes (s : State) (rels : List Release) (sc : Scope) : State :=
  rels.foldl (fun t x => match x.note with
    | some a => if x.scope = sc then t.post x.by_ ⟨Code.scopeDemoted, 0, a, true⟩ else t
    | none => t) s

/-- ps rises one stage; a store performed at sys is settled (R279, R284). The records of one number rise together. -/
def State.rise (s : State) (id : Nat) (sc : Scope) : State :=
  let rs := s.coh.filter (fun r => r.id = id)
  if !rs.isEmpty && rs.all (fun r => s.mayRise r sc) then
    let s1 := rs.foldl (fun t r => t.postNotes r.rels sc) s
    if sc = .sys then
      { s1 with mem := rs.foldl (fun m r => Memory.setBytes m r.pa r.bytes) s1.mem, coh := s1.coh.filter (fun q => q.id ≠ id) }
    else { s1 with coh := s1.coh.map (fun q => if q.id = id then { q with ps := some sc } else q) }
  else s

/-- A host's bytes written at every scope in one move, last in coherence order (R299). -/
def State.settle (s : State) (pa : Nat) (bs : List Byte) : State :=
  { s with
    mem := s.mem.setBytes pa bs
    coh := s.coh.map (fun r => { r with bytes := (List.range r.bytes.length).map (fun i =>
      if pa ≤ r.pa + i ∧ r.pa + i < pa + bs.length then bs.getD (r.pa + i - pa) emptyByte else r.bytes.getD i emptyByte) }) }

end Sys2Proof.Machine
end

