-- ==== Sys2Proof/Machine/Messages.lean ====
section
/-! DEFINITION. Renain messages: endpoints, headers and records (R372, R373, R409). -/
namespace Sys2Proof.Machine

/-! ## Message types (R373) -/

namespace MsgType
abbrev cts : Nat := 0x01
abbrev data : Nat := 0x02
abbrev ack : Nat := 0x03
abbrev coded : Nat := 0x04
abbrev dnak : Nat := 0x05
abbrev sia : Nat := 0x06
abbrev siw : Nat := 0x07
abbrev rmaWr : Nat := 0x10
abbrev rmaRd : Nat := 0x11
abbrev rmaResp : Nat := 0x12
abbrev cmd : Nat := 0x20
abbrev cmdResp : Nat := 0x21
abbrev preq : Nat := 0x22
abbrev preqReply : Nat := 0x23
end MsgType

/-- The 32-byte header (R373). -/
def mkHeader (dest src : Word) (blkid : BitVec 16) (blkg : BitVec 8) (code : Bool) (off : BitVec 32) (len : Nat) (tag : BitVec 8)
    (mseq : BitVec 24) (cgrp : BitVec 8) (type : Nat) : BitVec 256 :=
  dest ++ src ++ blkid ++ blkg ++ 0#7 ++ bit1 code ++ off ++ BitVec.ofNat 13 len ++ 0#3 ++ tag ++ mseq ++ cgrp ++ BitVec.ofNat 8 type

/-- This device's endpoint for a VF (R372). -/
def State.endpoint (s : State) (vf : Nat) : Word := 0#24 ++ s.devaddr ++ BitVec.ofNat 8 vf

/-- A message leaves the device. -/
def State.send (s : State) (m : Msg) : State := { s with out := s.out ++ [m] }

/-- An RMA record (R409). -/
def mkRma (offset : Word) (rid len kind status window : Nat) : BitVec 128 :=
  offset ++ 0#16 ++ BitVec.ofNat 16 rid ++ BitVec.ofNat 13 len ++ BitVec.ofNat 3 kind ++ BitVec.ofNat 8 status ++ 0#4 ++ BitVec.ofNat 4 window

/-- DEVADDR and VF of an endpoint (R372). -/
def epDev (e : Word) : BitVec 32 := e.extractLsb' 8 32
def epVf (e : Word) : Nat := fieldN e 7 0

end Sys2Proof.Machine

namespace Sys2Proof

/-! ## Header fields (R372, R373) -/

def Msg.dest (m : Msg) : Word := m.header.extractLsb' 192 64
def Msg.src (m : Msg) : Word := m.header.extractLsb' 128 64
def Msg.blkid (m : Msg) : BitVec 16 := m.header.extractLsb' 112 16
def Msg.blkg (m : Msg) : BitVec 8 := m.header.extractLsb' 104 8
def Msg.code (m : Msg) : Bool := m.header.getLsbD 96
def Msg.off (m : Msg) : Nat := Machine.fieldN m.header 95 64
def Msg.len (m : Msg) : Nat := Machine.fieldN m.header 63 51
def Msg.ncomp (m : Msg) : Nat := Machine.fieldN m.header 50 48
def Msg.tag (m : Msg) : BitVec 8 := m.header.extractLsb' 40 8
def Msg.mseq (m : Msg) : BitVec 24 := m.header.extractLsb' 16 24
def Msg.cgrp (m : Msg) : Nat := Machine.fieldN m.header 15 8
def Msg.type (m : Msg) : Nat := Machine.fieldN m.header 7 0

end Sys2Proof
end

