-- ==== Sys2Proof/Machine/Flags.lean ====
section
/-! DEFINITION. Number formats, rounding and every flag computation (R102 to R119, R127): values are exact dyadic numbers, each
rounded once. Flags are the five accrued bits of fcsr, NX UF OF DZ NV from bit 0 up (R41). -/
namespace Sys2Proof.Machine

/-! ## Formats (R102, R103) -/

/-- A floating format: exponent and mantissa widths and bias; `e4m3` has no infinity and one NaN mantissa. -/
structure Fmt where
  ew : Nat
  mw : Nat
  bias : Int
  e4m3 : Bool
  deriving DecidableEq, Repr

namespace Fmt
def f32 : Fmt := ⟨8, 23, 127, false⟩
def bf16 : Fmt := ⟨8, 7, 127, false⟩
def f16 : Fmt := ⟨5, 10, 15, false⟩
def fE4M3 : Fmt := ⟨4, 3, 7, true⟩
def fE5M2 : Fmt := ⟨5, 2, 15, false⟩
/-- Precision p, emin and width. -/
def p (f : Fmt) : Nat := f.mw + 1
def emin (f : Fmt) : Int := 1 - f.bias
def width (f : Fmt) : Nat := 1 + f.ew + f.mw
/-- Exponent of the largest finite value, and its mantissa as an integer of p bits. -/
def emax (f : Fmt) : Int := if f.e4m3 then 2 ^ f.ew - 1 - f.bias else 2 ^ f.ew - 2 - f.bias
def maxMant (f : Fmt) : Nat := if f.e4m3 then 2 ^ f.p - 2 else 2 ^ f.p - 1
/-- Encodings of the canonical NaN, of +∞ and of the largest finite value. -/
def nan (f : Fmt) : Nat := if f.e4m3 then 2 ^ (f.ew + f.mw) - 1 else (2 ^ f.ew - 1) * 2 ^ f.mw + 2 ^ (f.mw - 1)
def inf (f : Fmt) : Nat := (2 ^ f.ew - 1) * 2 ^ f.mw
def max (f : Fmt) : Nat := if f.e4m3 then 2 ^ (f.ew + f.mw) - 2 else (2 ^ f.ew - 1) * 2 ^ f.mw - 1
def fp8 (f : Fmt) : Bool := f.width == 8
end Fmt

/-- The floating format of a TY code 0 to 4 (R102). -/
def fmtOfTy (t : Nat) : Fmt :=
  match t with
  | 0 => .f32
  | 1 => .bf16
  | 2 => .f16
  | 3 => .fE4M3
  | _ => .fE5M2

/-- An exact value: a NaN (signalling or quiet), an infinity, a signed zero, or m × 2^e with m not 0. -/
inductive FVal where
  | nan (signalling : Bool)
  | inf (neg : Bool)
  | zero (neg : Bool)
  | num (m : Int) (e : Int)
  deriving DecidableEq, Repr

/-- m × 2^e, a zero m being +0. -/
def FVal.ofDyadic (m : Int) (e : Int) : FVal := if m = 0 then .zero false else .num m e

/-- The value an encoding has (R102 to R104). -/
def Fmt.decode (f : Fmt) (b : Nat) : FVal :=
  let mant := b % 2 ^ f.mw
  let ex := b / 2 ^ f.mw % 2 ^ f.ew
  let neg := b / 2 ^ (f.ew + f.mw) % 2 = 1
  let sg : Int := if neg then -1 else 1
  if f.e4m3 ∧ ex = 2 ^ f.ew - 1 ∧ mant = 2 ^ f.mw - 1 then .nan false
  else if ¬ f.e4m3 ∧ ex = 2 ^ f.ew - 1 then
    if mant = 0 then .inf neg else .nan (decide (mant < 2 ^ (f.mw - 1)))
  else if ex = 0 then
    if mant = 0 then .zero neg else .num (sg * mant) (f.emin - f.mw)
  else .num (sg * (mant + 2 ^ f.mw)) (ex - f.bias - f.mw)

/-! ## Flags and draws -/

/-- The accrued flags (R41, R127). -/
abbrev Flags := BitVec 5
def flNX : Flags := 1
def flUF : Flags := 2
def flOF : Flags := 4
def flDZ : Flags := 8
def flNV : Flags := 16

/-- What a rounding reads and changes: the mode of R106, the xorshift state of R107 and the flags raised so far. -/
structure REnv where
  mode : Nat
  seed : BitVec 32
  flags : Flags
  deriving DecidableEq, Repr

/-- One step of the xorshift (R107). -/
def nextSeed (z : BitVec 32) : BitVec 32 :=
  let z1 := z ^^^ (z <<< 13)
  let z2 := z1 ^^^ (z1 >>> 17)
  z2 ^^^ (z2 <<< 5)

/-- A draw is taken for every rounding made in SR mode (R107). -/
def REnv.draw (r : REnv) : REnv := if r.mode = 5 then { r with seed := nextSeed r.seed } else r
def REnv.raise (r : REnv) (f : Flags) : REnv := { r with flags := r.flags ||| f }

/-- The environment of an fcsr at issue (R41), and fcsr with the state and flags put back. -/
def envOf (fcsr : Word) : REnv := ⟨fieldN fcsr 2 0, fcsr.extractLsb' 32 32, 0⟩
def putEnv (fcsr : Word) (r : REnv) : Word :=
  ((r.seed ++ 0#32 : BitVec 64)) ||| (fcsr &&& 0xFFFFFFFF#64) ||| (r.flags.setWidth 64 <<< 4)

/-- RNE with no flags read or kept: the Hearth's sums and memory-side arithmetic (R120, R125). -/
def rneEnv : REnv := ⟨0, 0, 0⟩

/-! ## Rounding (R106) -/

/-- floor(log2 |m|) of a non-zero integer. -/
def ilog (m : Int) : Nat := m.natAbs.log2

/-- m × 2^e as a count of 2^q: the floor, and the remainder over 2^k (k = 0 where exact by scale). -/
def scaleTo (m : Int) (e q : Int) : Int × Nat × Nat :=
  if q ≤ e then (m * 2 ^ (e - q).toNat, 0, 0)
  else
    let k := (q - e).toNat
    (m / 2 ^ k, (m % 2 ^ k).toNat, k)

/-- Choose(x, lo, hi, q, mode) of R106 in units of q: lo, the fraction r / 2^k above it, whether x is negative, and the draw. -/
def choose (lo : Int) (r k : Nat) (neg : Bool) (mode : Nat) (d : BitVec 32) : Int :=
  let twice := 2 * r
  let whole := 2 ^ k
  match mode with
  | 0 => if twice < whole then lo else if whole < twice then lo + 1 else if lo % 2 = 0 then lo else lo + 1
  | 1 => if neg then lo + 1 else lo
  | 2 => lo
  | 3 => lo + 1
  | 4 => if twice < whole then lo else if whole < twice then lo + 1 else if neg then lo else lo + 1
  | _ => if d.toNat * whole < r * 2 ^ 32 then lo + 1 else lo

/-- x rounded to a count of 2^q: the count and whether it is inexact. -/
def roundAt (m : Int) (e q : Int) (mode : Nat) (d : BitVec 32) : Int × Bool :=
  let (lo, r, k) := scaleTo m e q
  if r = 0 then (lo, false) else (choose lo r k (decide (m < 0)) mode d, true)

/-- The encoding of y × 2^q, a value of the format (|y| at most 2^p). -/
def Fmt.encode (f : Fmt) (neg : Bool) (y : Nat) (q : Int) : Nat :=
  let sign := if neg then 2 ^ (f.ew + f.mw) else 0
  if y = 0 then sign
  else
    let l := y.log2
    let ex : Int := q + l
    if ex < f.emin then sign + y * 2 ^ (q - (f.emin - f.mw)).toNat
    else
      let mant := if l ≤ f.mw then y * 2 ^ (f.mw - l) else y / 2 ^ (l - f.mw)
      sign + (ex + f.bias).toNat * 2 ^ f.mw + (mant - 2 ^ f.mw)

/-- Overflow (R108), with the FP8 forms of R109. -/
def Fmt.overflow (f : Fmt) (neg : Bool) (mode : Nat) (sat : Bool) : Nat :=
  let sign := if neg then 2 ^ (f.ew + f.mw) else 0
  let toMax := decide (mode = 1) || (decide (mode = 2) && !neg) || (decide (mode = 3) && neg)
  if toMax || sat then sign + f.max
  else if f.e4m3 then f.nan
  else sign + f.inf

/-- RoundFmt(x, F) (R105 to R109): the encoding delivered. `sat` is the saturating form of FP8. In SR mode the rounding that says whether a result is
tiny takes the draw of the delivered one (assumption 25, DESIGN CHOICE). -/
def roundFmt (f : Fmt) (sat : Bool) (x : FVal) (r0 : REnv) : Nat × REnv :=
  let r := r0.draw
  let satF := sat && f.fp8
  match x with
  | .nan sig => (f.nan, if sig then r.raise flNV else r)
  | .zero neg => (if neg then 2 ^ (f.ew + f.mw) else 0, r)
  | .inf neg =>
    let sign := if neg then 2 ^ (f.ew + f.mw) else 0
    if satF then (sign + f.max, r.raise flNX)
    else if f.e4m3 then (f.nan, r.raise flNV)
    else (sign + f.inf, r)
  | .num m e =>
    let neg := decide (m < 0)
    let lg : Int := e + ilog m
    let e0 := if lg < f.emin then f.emin else lg
    let q := e0 - f.mw
    let (y, inexact) := roundAt m e q r.mode r.seed
    let (big, rm, _) := scaleTo (y.natAbs : Int) q (f.emax - f.mw)
    if (f.maxMant : Int) < big ∨ ((f.maxMant : Int) = big ∧ rm ≠ 0) then
      (f.overflow neg r.mode satF, r.raise (flOF ||| flNX))
    else
      let tiny := decide (lg < f.emin) &&
        (let (u, _) := roundAt m e (lg - f.mw) r.mode r.seed
         let (c, _, _) := scaleTo (u.natAbs : Int) (lg - f.mw) (f.emin)
         decide (c < 1))
      let fl : Flags := (if inexact then flNX else 0) ||| (if (tiny && inexact) || y = 0 then flUF else 0)
      (f.encode neg y.natAbs q, r.raise fl)

/-! ## Exact arithmetic -/

def FVal.isNeg : FVal → Bool
  | .nan _ => false
  | .inf n => n
  | .zero n => n
  | .num m _ => decide (m < 0)

def FVal.neg : FVal → FVal
  | .nan s => .nan s
  | .inf n => .inf (!n)
  | .zero n => .zero (!n)
  | .num m e => .num (-m) e

/-- A signalling operand sets NV (R104). -/
def FVal.sigFlag : FVal → Flags
  | .nan true => flNV
  | .nan false => 0
  | .inf _ => 0
  | .zero _ => 0
  | .num _ _ => 0

def FVal.isNan : FVal → Bool
  | .nan _ => true
  | .inf _ => false
  | .zero _ => false
  | .num _ _ => false

/-- m1 × 2^e1 + m2 × 2^e2 exactly. -/
def dyAdd (m1 e1 m2 e2 : Int) : Int × Int :=
  if e1 ≤ e2 then (m1 + m2 * 2 ^ (e2 - e1).toNat, e1) else (m1 * 2 ^ (e1 - e2).toNat + m2, e2)

/-- The exact sum. An exact zero sum of opposite signs is +0, or −0 in RDN (assumption 13). ∞ − ∞ is a NaN with NV. -/
def fAdd (mode : Nat) (a b : FVal) : FVal × Flags :=
  match a, b with
  | .nan s, y => (.nan false, (if s then flNV else 0) ||| y.sigFlag)
  | x, .nan s => (.nan false, x.sigFlag ||| (if s then flNV else 0))
  | .inf n, .inf n' => if n = n' then (.inf n, 0) else (.nan false, flNV)
  | .inf n, _ => (.inf n, 0)
  | _, .inf n => (.inf n, 0)
  | .zero n, .zero n' => (.zero (if n = n' then n else mode = 2), 0)
  | .zero _, .num m e => (.num m e, 0)
  | .num m e, .zero _ => (.num m e, 0)
  | .num m1 e1, .num m2 e2 =>
    let r := dyAdd m1 e1 m2 e2
    (if r.1 = 0 then .zero (mode = 2) else .num r.1 r.2, 0)

/-- The exact product; 0 × ∞ is a NaN with NV. -/
def fMul (a b : FVal) : FVal × Flags :=
  match a, b with
  | .nan s, y => (.nan false, (if s then flNV else 0) ||| y.sigFlag)
  | x, .nan s => (.nan false, x.sigFlag ||| (if s then flNV else 0))
  | .inf _, .zero _ => (.nan false, flNV)
  | .zero _, .inf _ => (.nan false, flNV)
  | .inf n, y => (.inf (n != y.isNeg), 0)
  | x, .inf n => (.inf (n != x.isNeg), 0)
  | .zero n, y => (.zero (n != y.isNeg), 0)
  | x, .zero n => (.zero (n != x.isNeg), 0)
  | .num m1 e1, .num m2 e2 => (.num (m1 * m2) (e1 + e2), 0)

/-- a × b + c with one rounding to come (R124). -/
def fFma (mode : Nat) (a b c : FVal) : FVal × Flags :=
  let p := fMul a b
  let r := fAdd mode p.1 c
  (r.1, p.2 ||| r.2)

/-- Comparison of numbers, −0 equal to +0; none with a NaN. -/
def fCmp (a b : FVal) : Option Ordering :=
  match a, b with
  | .nan _, _ => none
  | _, .nan _ => none
  | .inf n, .inf n' => some (if n = n' then .eq else if n then .lt else .gt)
  | .inf n, _ => some (if n then .lt else .gt)
  | _, .inf n => some (if n then .gt else .lt)
  | .zero _, .zero _ => some .eq
  | .zero _, .num m _ => some (if 0 < m then .lt else .gt)
  | .num m _, .zero _ => some (if 0 < m then .gt else .lt)
  | .num m1 e1, .num m2 e2 =>
    let d := (dyAdd m1 e1 (-m2) e2).1
    some (if d < 0 then .lt else if 0 < d then .gt else .eq)

/-- Whether a lies below b with −0 below +0 (R119). -/
def fBelow (a b : FVal) : Bool :=
  match fCmp a b with
  | some .lt => true
  | some .gt => false
  | some .eq => a.isNeg && !b.isNeg
  | none => false

/-- minimumNumber and maximumNumber, or the propagating forms (R119). -/
def fMinMax (isMax prop : Bool) (a b : FVal) : FVal × Flags :=
  let fl := a.sigFlag ||| b.sigFlag
  match a.isNan, b.isNan with
  | true, true => (.nan false, fl)
  | true, false => (if prop then .nan false else b, fl)
  | false, true => (if prop then .nan false else a, fl)
  | false, false => (if isMax then (if fBelow a b then b else a) else (if fBelow b a then b else a), fl)

/-! ## Integers (R111) -/

/-- A value rounded to an integer in a mode and saturated to lo..hi (R111). One below 1 that gives 0 sets NX alone: R105's UF is of floating formats
(assumption 25, DEDUCED). -/
def toIntSat (x : FVal) (lo hi : Int) (r0 : REnv) : Int × REnv :=
  let r := r0.draw
  match x with
  | .nan _ => (0, r.raise flNV)
  | .inf neg => (if neg then lo else hi, r.raise flNV)
  | .zero _ => (0, r)
  | .num m e =>
    let (y, inexact) := roundAt m e 0 r.mode r.seed
    if y < lo then (lo, r.raise flNV)
    else if hi < y then (hi, r.raise flNV)
    else (y, if inexact then r.raise flNX else r)

/-! ## Block floating point (R113, R114) -/

/-- The value of mantissa M under shared exponent E; E = 0xFF marks a NaN block. -/
def bfpValue (m e : Nat) (mant : Int) : FVal :=
  if e = 255 then .nan false else FVal.ofDyadic mant ((e : Int) - 127 - (m - 2))

/-- Whether a finite value lies within −lim × s .. (lim − 1) × s for s = 2^q. -/
def bfpFits (lim : Nat) (q : Int) (x : FVal) : Bool :=
  match x with
  | .num m e =>
    let (lo, r, _) := scaleTo m e q
    decide (-(lim : Int) ≤ lo) && (decide (lo < (lim : Int) - 1) || (lo = (lim : Int) - 1 && r = 0))
  | .zero _ => true
  | .nan _ => true
  | .inf _ => true

/-- The smallest E from `e` up, of `n` more, for which every finite input fits; 253 if none (R114). -/
def bfpExp (m : Nat) (xs : List FVal) : Nat → Nat → Nat
  | _, 0 => 253
  | e, n + 1 => if xs.all (bfpFits (2 ^ (m - 1)) ((e : Int) - 127 - (m - 2))) then e else bfpExp m xs (e + 1) n

/-- One mantissa (R114). -/
def bfpMant (m : Nat) (q : Int) (x : FVal) (r0 : REnv) : Int × REnv :=
  let lim : Int := 2 ^ (m - 1)
  let r := r0.draw
  match x with
  | .nan _ => (0, r)
  | .inf neg => (if neg then -lim else lim - 1, r.raise (flOF ||| flNX))
  | .zero _ => (0, r)
  | .num mm e =>
    let (t, inexact) := roundAt mm e q r.mode r.seed
    let (t', ov) := if lim - 1 < t then (lim - 1, true) else if t < -lim then (-lim, true) else (t, false)
    (t', r.raise ((if inexact || ov then flNX else 0) ||| (if ov then flOF else 0) ||| (if t' = 0 then flUF else 0)))

def bfpMants (m : Nat) (q : Int) : List FVal → REnv → List Int × REnv
  | [], r => ([], r)
  | x :: xs, r =>
    let (t, r1) := bfpMant m q x r
    let (ts, r2) := bfpMants m q xs r1
    (t :: ts, r2)

/-- QuantiseBlock (R114): E, the mantissas, and the environment. -/
def quantise (m : Nat) (xs : List FVal) (r : REnv) : Nat × List Int × REnv :=
  if xs.any FVal.isNan then
    let fl := xs.foldl (fun a x => a ||| x.sigFlag) 0
    (255, xs.map (fun _ => 0), (xs.foldl (fun r _ => r.draw) r).raise fl)
  else
    let e := if xs.any (fun x => match x with | .inf _ => true | .nan _ => false | .zero _ => false | .num _ _ => false) then 253
      else bfpExp m xs 0 253
    let (ts, r') := bfpMants m ((e : Int) - 127 - (m - 2)) xs r
    (e, ts, r')

/-! ## Memory-side arithmetic (R125, R176) -/

/-- RoundRNE(a + b) in a format, with no flags. -/
def addRne (f : Fmt) (a b : Nat) : Nat := (roundFmt f false (fAdd 0 (f.decode a) (f.decode b)).1 rneEnv).1

/-- FMIN and FMAX on encodings (R119). -/
def minMaxBits (f : Fmt) (isMax : Bool) (a b : Nat) : Nat := (roundFmt f false (fMinMax isMax false (f.decode a) (f.decode b)).1 rneEnv).1

end Sys2Proof.Machine
end

