-- ==== Sys2Proof/Machine/Template.lean ====
section
/-! DEFINITION. Copy templates and the elements they describe (R256 to R264). -/
namespace Sys2Proof.Machine

/-! ## Fields (R256) -/

abbrev Template := BitVec 512

def tplN0 (t : Template) : Nat := fieldN t 63 48
def tplN1 (t : Template) : Nat := fieldN t 47 32
def tplN2 (t : Template) : Nat := fieldN t 31 16
def tplOob (t : Template) : Nat := fieldN t 5 4
def tplEs (t : Template) : Nat := 2 ^ fieldN t 1 0
def tplSS1 (t : Template) : Int := (t.extractLsb' 64 64).toInt
def tplSS2 (t : Template) : Int := (t.extractLsb' 128 64).toInt
def tplDS1 (t : Template) : Int := (t.extractLsb' 192 64).toInt
def tplDS2 (t : Template) : Int := (t.extractLsb' 256 64).toInt
def tplO (t : Template) (d : Nat) : Int := (t.extractLsb' (320 + 16 * d) 16).toInt
def tplLim (t : Template) (d : Nat) : Nat := fieldN t (399 + 16 * d) (384 + 16 * d)
def tplXs (t : Template) : Nat := fieldN t 451 448
def tplXd (t : Template) : Nat := fieldN t 455 452
def tplXsat (t : Template) : Bool := t.getLsbD 456
def tplRound (t : Template) : Nat := fieldN t 471 464
def tplIdx (t : Template) : Nat := fieldN t 477 472
def tplNim1 (t : Template) : Nat := fieldN t 485 480

/-- The reserved bits of a template (R256). -/
def tplReserved (t : Template) : Bool :=
  fieldN t 511 486 != 0 || fieldN t 479 478 != 0 || fieldN t 463 457 != 0 || fieldN t 447 432 != 0 || fieldN t 15 6 != 0 || fieldN t 3 2 != 0

/-- The checks of CTPL (R257). -/
def tplOk (t : Template) : Bool :=
  !tplReserved t && tplOob t != 3 && decide (tplSS1 t % tplEs t = 0) && decide (tplSS2 t % tplEs t = 0) &&
  decide (tplDS1 t % tplEs t = 0) && decide (tplDS2 t % tplEs t = 0) && decide (tplXs t ≤ 5) && decide (tplXd t ≤ 5) &&
  decide (tplIdx t ≤ tplNim1 t)

/-- Bytes of a page format code 1 to 5 (R259). -/
def xWidth (c : Nat) : Nat := (fmtOfTy (c - 1)).width / 8

/-! ## Elements (R258, R259) -/

/-- The coordinates k = (k0, k1, k2) in element order. -/
def tplCoords (t : Template) : List (Nat × Nat × Nat) :=
  (List.range (tplN2 t)).flatMap (fun k2 => (List.range (tplN1 t)).flatMap (fun k1 => (List.range (tplN0 t)).map (fun k0 => (k0, k1, k2))))

/-- t_d (R258). -/
def tplT (t : Template) (d k : Nat) : Int := if tplOob t = 0 then k else tplO t d + k

def tplIn (t : Template) (k : Nat × Nat × Nat) : Bool :=
  tplOob t = 0 ||
  (decide (0 ≤ tplT t 0 k.1) && decide (tplT t 0 k.1 < tplLim t 0) && decide (0 ≤ tplT t 1 k.2.1) && decide (tplT t 1 k.2.1 < tplLim t 1) &&
   decide (0 ≤ tplT t 2 k.2.2) && decide (tplT t 2 k.2.2 < tplLim t 2))

/-- Addr(base, idx, S1, S2), mod 2^64 (R258). -/
def copyAddr (base : Word) (es : Nat) (i : Int × Int × Int) (s1 s2 : Int) : Nat :=
  (base + BitVec.ofInt 64 (i.1 * es + i.2.1 * s1 + i.2.2 * s2)).toNat

/-- The index of element k on the source side (1) or the destination side (2). -/
def sideIdx (t : Template) (side : Nat) (k : Nat × Nat × Nat) : Int × Int × Int :=
  if tplOob t = side then (tplT t 0 k.1, tplT t 1 k.2.1, tplT t 2 k.2.2) else (k.1, k.2.1, k.2.2)

/-- Byte offset of element k in a slot (R262). -/
def slotOff (t : Template) (k : Nat × Nat × Nat) : Nat := ((k.2.2 * tplN1 t + k.2.1) * tplN0 t + k.1) * tplEs t

/-- Elements numbered in element order. -/
def numberElems (l : List CopyElem) : List CopyElem := (l.zipIdx).map (fun (e, i) => { e with k := i })

/-- Source and destination by a pair of functions of the coordinates, in-bounds elements only. -/
def elemsBy (t : Template) (n w : Nat) (keep : Nat × Nat × Nat → Bool) (src dst : Nat × Nat × Nat → Option Nat) : List CopyElem :=
  numberElems (((tplCoords t).filter keep).map (fun k => (⟨0, src k, dst k, slotOff t k, n, w⟩ : CopyElem)))

/-- CPY, CPYX and CRED: both sides under R258; CPYX's destination elements have the width of XD. -/
def copyElems (t : Template) (x y : Word) (w : Nat) : List CopyElem :=
  elemsBy t (tplEs t) w (tplIn t) (fun k => some (copyAddr x (tplEs t) (sideIdx t 1 k) (tplSS1 t) (tplSS2 t)))
    (fun k => some (copyAddr y w (sideIdx t 2 k) (tplDS1 t) (tplDS2 t)))

/-- CPYT: one side in memory, the other in the slot (R262). -/
def troughElems (t : Template) (x : Word) (drain : Bool) : List CopyElem :=
  elemsBy t (tplEs t) (tplEs t) (tplIn t)
    (fun k => if drain then none else some (copyAddr x (tplEs t) (sideIdx t 1 k) (tplSS1 t) (tplSS2 t)))
    (fun k => if drain then some (copyAddr x (tplEs t) (sideIdx t 2 k) (tplDS1 t) (tplDS2 t)) else none)

/-- The elements of row m of a gather or scatter whose index is j, numbered from `first` (R259): the listed side takes row j, and with OOB set a row
whose j is LIM1 or more is skipped. -/
def rowElems (t : Template) (scatter : Bool) (x d : Word) (m j first : Nat) : List CopyElem :=
  if tplOob t ≠ 0 ∧ tplLim t 1 ≤ j then []
  else (List.range (tplN0 t)).map (fun k0 =>
    let k : Nat × Nat × Nat := (k0, m % tplN1 t, m / tplN1 t)
    let plain : Int × Int × Int := (k.1, k.2.1, k.2.2)
    let row : Int × Int × Int := (k0, j, 0)
    ⟨first + k0,
     some (if scatter then copyAddr x (tplEs t) plain (tplSS1 t) (tplSS2 t) else copyAddr x (tplEs t) row (tplSS1 t) 0),
     some (if scatter then copyAddr d (tplEs t) row (tplDS1 t) 0 else copyAddr d (tplEs t) plain (tplDS1 t) (tplDS2 t)),
     slotOff t k, tplEs t, tplEs t⟩)

/-- CZERO: 32-byte sectors in ascending order (R263). -/
def zeroElems (x y : Word) : List CopyElem :=
  (List.range (y.toNat / 32)).map (fun i => ⟨i, none, some ((x + 32 * BitVec.ofNat 64 i).toNat), 0, 0, 32⟩)

/-! ## What a copy still has to do -/

/-- The copies, as CWAIT and R254 count them; CFENCE is none (R250). -/
def CopyOp.isCopy : CopyOp → Bool
  | .cfence => false
  | .cpy | .cpyx | .cpyt | .cgath | .cscat | .czero | .cred _ _ | .crede => true

/-- A gather or scatter has rows whose index it has not read. -/
def CopyEntry.moreRows (e : CopyEntry) : Bool := (e.op = .cgath || e.op = .cscat) && decide (e.rows < tplN1 e.tpl * tplN2 e.tpl)

/-- A remote read has been asked for and has no answer. -/
def CopyEntry.underway (e : CopyEntry) (key : Nat) : Bool := e.asked.any (fun a => a.1 = key) && !e.answers.any (fun a => a.1 = key)

/-- Whether a copy has issued its last request (R250); a remote read on its way has been issued. -/
def CopyEntry.issued (e : CopyEntry) : Bool :=
  e.begun && e.todo.isEmpty && !e.moreRows && e.left.all (fun x => e.underway x.k) && e.contribs.isEmpty && e.creding.isEmpty && e.op != .cfence

/-- Every element has been moved. -/
def CopyEntry.moved (e : CopyEntry) : Bool := e.issued && e.left.isEmpty

/-- Virtual byte runs that elements access: address, length, and whether written. -/
def CopyOp.runs (op : CopyOp) (l : List CopyElem) : List (Nat × Nat × Bool) :=
  l.flatMap (fun x => (match x.src with
    | some a => [(a, x.n, false)]
    | none => []) ++ (match x.dst with
    | some a => if op.inRound then [] else [(a, x.w, true)]
    | none => []))

/-- Runs that a copy has not moved yet, of those known. -/
def CopyEntry.footprint (e : CopyEntry) : List (Nat × Nat × Bool) :=
  e.op.runs (e.left ++ e.todo) ++
  (if e.op.inRound then [] else e.contribs.map (fun c => (c.va.toNat, if e.op = .cred true false then 2 else 4, true))) ++
  (if e.moreRows then [(e.list.toNat + 4 * e.rows, 4 * (tplN1 e.tpl * tplN2 e.tpl - e.rows), false)] else [])

end Sys2Proof.Machine
end

