-- ==== Sys2Proof/Machine/Translate.lean ====
section
/-! DEFINITION. The two stages of translation (R351 to R353), page requests (R356, R357), and the checks of a scalar access in R142's
order. Walker reads see every store performed at dev. -/
namespace Sys2Proof.Machine

/-- What a walk gives: a value, a fault, or a stage-2 miss on an IPA page with the rights it needs (bit 0 R, 1 W, 2 X). -/
inductive Xl (α : Type) where
  | ok (a : α)
  | fault (code detail : BitVec 8)
  | miss (ipa : Nat) (rights : BitVec 3)
  deriving DecidableEq, Repr

/-- A table entry of eight bytes (R351). -/
def State.pte (s : State) (pa : Nat) : Word := BitVec.ofNat 64 (leNat (bytesFrom s.devByte pa 8))

/-- Index of a 48-bit address at a level (R351). -/
def pteIndex (level va : Nat) : Nat :=
  match level with
  | 0 => va / 2 ^ 39 % 512
  | 1 => va / 2 ^ 30 % 512
  | 2 => va / 2 ^ 21 % 512
  | _ => va / 2 ^ 16 % 32

/-- Bytes mapped by a leaf at a level. -/
def leafSize (level : Nat) : Nat :=
  match level with
  | 0 => 2 ^ 39
  | 1 => 2 ^ 30
  | 2 => 2 ^ 21
  | _ => 2 ^ 16

/-- What one table entry is (R351, R352). -/
inductive PteKind where
  | invalid | malformed | badFmt | table (addr : Nat) | leaf (oa : Nat)
  deriving DecidableEq, Repr

/-- The kind of an entry read at a level of stage 1 or stage 2 (R351 to R353). -/
def pteKind (stage2 : Bool) (level : Nat) (e : Word) : PteKind :=
  if e.getLsbD 0 = false then .invalid
  else if e.getLsbD 1 = false then
    let next := e.extractLsb' 8 40
    if level ≥ 3 then .malformed
    else if e.extractLsb' 2 6 ≠ 0 ∨ e.extractLsb' 48 16 ≠ 0 then .malformed
    else if level < 2 ∧ next.extractLsb' 0 4 ≠ 0 then .malformed
    else .table (next.toNat * 256)
  else
    let oa := (e.extractLsb' 16 32).toNat * 2 ^ 16
    if level = 0 then .malformed
    else if e.getLsbD 5 ∨ e.extractLsb' 48 16 ≠ 0 ∨ e.extractLsb' 6 2 = 3 then .malformed
    else if stage2 ∧ e.extractLsb' 8 8 ≠ 0 then .malformed
    else if !stage2 ∧ e.extractLsb' 8 2 = 3 then .malformed
    else if oa % leafSize level ≠ 0 then .malformed
    else if !stage2 ∧ 13 ≤ (e.extractLsb' 10 4).toNat then .badFmt
    else .leaf oa

/-- Rights of a leaf: bit 0 R, 1 W, 2 X. -/
def pteRights (e : Word) : BitVec 3 := e.extractLsb' 2 3

/-- A stage-2 walk from a table at `tbl`, level by level (R353): the PA and the leaf. -/
def stage2Walk (s : State) (ipa : Nat) (rights : BitVec 3) : Nat → Nat → Nat → Xl (Nat × Word)
  | 0, _, _ => .fault Code.xlateStage2 4
  | fuel + 1, level, tbl =>
    let e := s.pte (tbl + 8 * pteIndex level ipa)
    match pteKind true level e with
    | .invalid => .miss (ipa / 2 ^ 16 * 2 ^ 16) rights
    | .malformed => .fault Code.xlateStage2 (BitVec.ofNat 8 level)
    | .badFmt => .fault Code.xlateStage2 (BitVec.ofNat 8 level)
    | .table a => stage2Walk s ipa rights fuel (level + 1) a
    | .leaf oa =>
      if pteRights e &&& rights = rights then .ok (oa + ipa % leafSize level, e)
      else .miss (ipa / 2 ^ 16 * 2 ^ 16) rights

/-- Stage2(IPA, rights) (R353). -/
def stage2 (s : State) (vf ipa : Nat) (rights : BitVec 3) : Xl (Nat × Word) :=
  match (Tbl.get? s.vfs vf).bind (·.s2root) with
  | none => .fault Code.xlateStage2 4
  | some root => stage2Walk s ipa rights 4 0 root

/-- A stage-1 walk; each table address is an IPA and goes through stage 2 (R353). -/
def stage1Walk (s : State) (vf va : Nat) : Nat → Nat → Nat → Xl (Nat × Word)
  | 0, _, _ => .fault Code.xlateStage1 4
  | fuel + 1, level, tbl =>
    match stage2 s vf (tbl + 8 * pteIndex level va) 1 with
    | .fault c d => .fault c d
    | .miss p r => .miss p r
    | .ok (pa, _) =>
      let e := s.pte pa
      match pteKind false level e with
      | .invalid => .fault Code.xlateStage1 (BitVec.ofNat 8 level)
      | .malformed => .fault Code.xlateStage1 4
      | .badFmt => .fault Code.xlateStage1 5
      | .table a => stage1Walk s vf va fuel (level + 1) a
      | .leaf oa => .ok (oa + va % leafSize level, e)

/-- Stage 1 of one page for an access: the IPA and the stage-1 leaf (R353). -/
def stage1 (s : State) (vf : Nat) (va : Word) (rights : BitVec 3) : Xl (Nat × Word) :=
  if va.extractLsb' 48 16 ≠ 0 then .fault Code.xlateStage1 6
  else
    match (Tbl.get? s.vfs vf).bind (·.s1root) with
    | none => .fault Code.xlateStage1 7
    | some root =>
      match stage1Walk s vf va.toNat 4 0 root with
      | .fault c d => .fault c d
      | .miss p r => .miss p r
      | .ok (ipa, e) => if pteRights e &&& rights = rights then .ok (ipa, e) else .fault Code.permission 0

def pageOrdOf (x : BitVec 2) : PageOrd :=
  match x.toNat with
  | 0 => .so
  | 1 => .rc
  | _ => .uo

def pageCohOf (x : BitVec 2) : PageCoh :=
  match x.toNat with
  | 0 => .priv
  | 1 => .rsh
  | _ => .coh

/-- The stronger of two ORDs, SO > RC > UO (R287). -/
def PageOrd.stronger (a b : PageOrd) : PageOrd :=
  match a, b with
  | .so, _ => .so
  | _, .so => .so
  | .rc, _ => .rc
  | _, .rc => .rc
  | .uo, .uo => .uo

/-- ORD, COHR, FMT, BLK and CKPT of a stage-1 leaf (R352). -/
def pageOf (e1 : Word) : PageInfo :=
  { pa := 0, ord := pageOrdOf (e1.extractLsb' 6 2), cohr := pageCohOf (e1.extractLsb' 8 2), fmt := e1.extractLsb' 10 4,
    blk := e1.getLsbD 14, ckpt := e1.getLsbD 15, remote := none }

/-- The combined translation of an address after stage 2 (R287, R352, R377). -/
def combine (e1 : Word) (pa : Nat) (e2 : Word) : PageInfo :=
  let p := pageOf e1
  { p with
    pa := pa
    ord := p.ord.stronger (pageOrdOf (e2.extractLsb' 6 2))
    remote := if paKind pa = .remote then some (pa / 2 ^ 36 % 2048) else none }

/-! ## Page requests (R356, R357) -/

/-- The PREQ of a new entry (R356, R386). -/
def State.preq (s : State) (vf : Nat) (mgmt : Word) (id : BitVec 16) (page : Nat) (rights : BitVec 3) : Msg :=
  { header := mkHeader mgmt (s.endpoint 0xFF) 0 0 false 0 16 0 0 0 MsgType.preq
    comps := [], rma := 0
    payload := natBytes (id.toNat + 2 ^ 16 * vf + 2 ^ 24 * rights.toNat) 8 ++ natBytes page 8, psn := 0, adit := 0 }

/-- A waiter joins the VF's entry for the page whose rights cover its own, or makes a new entry while the queue has room (R356). -/
def State.joinRequest (s : State) (vf : Nat) (r : CtxRef) (page : Nat) (rights : BitVec 3) : State :=
  match Tbl.get? s.vfs vf with
  | none => s
  | some v =>
    if v.reqs.any (fun q => q.ipa = page && q.rights &&& rights = rights) then
      { s with vfs := Tbl.set s.vfs vf { v with reqs := v.reqs.map (fun q =>
          if q.ipa = page ∧ q.rights &&& rights = rights ∧ !q.waiters.contains r then { q with waiters := q.waiters ++ [r] } else q) } }
    else if v.reqs.length < 256 then
      ({ s with vfs := Tbl.set s.vfs vf { v with
          reqs := v.reqs ++ [⟨v.nextReq, page, rights, [r]⟩], nextReq := v.nextReq + 1 } } : State).send (s.preq vf v.mgmt v.nextReq page rights)
    else s

/-- The VF of the current context. -/
def curVf : Act Nat := fun s => .ok (s.vfOf s.cur.slot, s)

/-- A stage-2 miss: the context raises PERMISSION with detail 1 if the page was denied, else it enters the queue and waits (R146, R356, R357). -/
def pageMiss {α : Type} (ipa : Nat) (rights : BitVec 3) (eval : Word) : Act α := do
  let s ← get
  if s.cur.denied.contains ipa then
    modCur (fun c => { c with denied := c.denied.filter (· ≠ ipa) })
    raiseKept Code.permission 1 eval
  else
    let vf ← curVf
    modify (fun s => s.joinRequest vf s.cur.ref ipa rights)
    waitKeep (.pageReply [ipa])

/-- The value of a walk, its fault raised and its miss waited on. -/
def xl {α : Type} (x : Xl α) (eval : Word) : Act α :=
  match x with
  | .ok a => pure a
  | .fault c d => raise c d eval
  | .miss ipa r => pageMiss ipa r eval

/-- Stage 1 and then stage 2 of one address. -/
def translateFull (s : State) (vf : Nat) (va : Word) (rights : BitVec 3) : Xl PageInfo :=
  match stage1 s vf va rights with
  | .fault c d => .fault c d
  | .miss p r => .miss p r
  | .ok (ipa, e1) =>
    match stage2 s vf ipa rights with
    | .fault c d => .fault c d
    | .miss p r => .miss p r
    | .ok (pa, e2) => .ok (combine e1 pa e2)

/-! ## The pieces of an access (R143, R310) -/

/-- Bytes `va .. va + n - 1` cut at 32-byte boundaries: address and length of each piece. -/
def sectorCuts (va : Nat) : Nat → Nat → List (Nat × Nat)
  | 0, _ => []
  | _, 0 => []
  | fuel + 1, n =>
    let k := min n (32 - va % 32)
    (va, k) :: sectorCuts (va + k) fuel (n - k)

/-- The mode of a group-SRAM bank; a bank that no entry names is in cache mode (R305). -/
def Bank.reset : Bank := ⟨0, 0, false, false, 0, 0, none, 0, 0⟩
def bankKey (g b : Nat) : Nat := g * 16 + b
def State.bank (s : State) (g b : Nat) : Bank := (Tbl.get? s.banks (bankKey g b)).getD Bank.reset

/-- Whether every byte of a run is in a scratchpad bank or in no bank at all (R304, R308); a bank that is switching is reported. -/
def State.bankCheck (s : State) (pa : Nat) : Option WaitCond × Bool :=
  match paKind pa with
  | .sram g b =>
    let k := s.bank g b
    if k.busy then (some (.bankIdle g b), true) else (none, k.mode == 1)
  | .hbm | .remote => (none, true)
  | .hole => (none, true)

/-- The group-SRAM check of R142: stall while the bank switches, PERMISSION detail 2 unless it is scratchpad; a hole has no byte. -/
def checkBank (pa : Nat) (eval : Word) : Act Unit := do
  let s ← get
  if paKind pa = .hole then Act.stop (.fault (.noSuchAddress pa))
  match s.bankCheck pa with
  | (some w, _) => waitFor w
  | (none, true) => pure ()
  | (none, false) => raise Code.permission 2 eval

/-! ## Request slots (R147, R303) -/

/-- Two contexts issue through one sector port: a core's, a copy engine's, a Hearth's (R280). -/
def Context.samePort (c d : Context) : Bool :=
  match c.core?, d.core? with
  | some x, some y => x = y
  | none, none => c.kind = d.kind && c.engine = d.engine
  | some _, none => false
  | none, some _ => false

/-- Different numbers of a list. -/
def distinct (l : List Nat) : List Nat := l.foldr (fun x acc => if acc.contains x then acc else x :: acc) []

/-- Sector requests a pending result stands for: one for each piece of a scalar access, one for each sector of a vector load (R143, R206). -/
def Pend.requests (q : Pend) : Nat :=
  match q.what with
  | .value _ => 0
  | .held => 0
  | .load ps _ _ => ps.length
  | .atomic _ _ _ _ _ _ => 1
  | .vload _ _ es _ => (distinct (es.flatMap (fun e => e.pieces.map (fun p => p.pa / 32)))).length

/-- Sector requests of a context's copies: sectors that held writes go to, and remote reads that are not answered (R250, R303). -/
def State.copyRequests (s : State) (c : Context) : Nat :=
  (distinct ((s.hold.filter (fun r => r.by_ = c.ref && r.copy)).map (fun r => r.pa / 32))).length +
  c.copyq.foldl (fun n e => n + (e.asked.length - e.answers.length)) 0

/-- Sector requests a context has outstanding: its held stores, its copies, its pending accesses, and one that stalls at a switching bank (R303, R308). -/
def State.outstandingOf (s : State) (c : Context) : Nat :=
  s.copyRequests c +
  (distinct ((s.hold.filter (fun r => r.by_ = c.ref && !r.copy)).map (·.req))).length + c.pend.foldl (fun n q => n + q.requests) 0 +
  (match c.wait with
   | some w => match w.cond with
     | .bankIdle _ _ => 1
     | _ => 0
   | none => 0)

/-- Sector requests outstanding at the port a context issues through. -/
def State.outstanding (s : State) (c : Context) : Nat :=
  ((s.cur :: s.parked).filter c.samePort).foldl (fun n d => n + s.outstandingOf d) 0

/-- The slots of a context's port: OUTREQ, or the 512 of a copy engine (R147, R303). -/
def State.slotsOf (s : State) (c : Context) : Nat := if c.kind = .ce then 512 else s.effOf c .outreq

/-- AwaitRequestSlots (R147): a stall under QPOL 0, QUOTA under QPOL 1 where OUTREQ bounds the port. -/
def awaitRequestSlots (eval : Word) : Act Unit := do
  let s ← get
  if s.outstanding s.cur < s.slotsOf s.cur then pure ()
  else if s.cur.kind ≠ .ce ∧ s.effOf s.cur .qpol = 1 then raise Code.quota 0 eval
  else waitFor .requestSlot

/-- No access issues while an acquire of the context is outstanding (R144, R291). -/
def awaitAcquire : Act Unit := do
  let s ← get
  waitIf (s.cur.pend.any Pend.isAcquire) .noAcquire

/-- What the access at the context's PC has passed in an earlier try (R146). -/
def Context.passed (c : Context) : Option Passed := c.past.filter (fun p => p.pc = c.pc)

/-- ScopeOf (R145): the scope, or SCOPE_TRAP; the flag says that a demoted access posts SCOPE_DEMOTED. -/
def scopeOf (sc : BitVec 3) : Act (Scope × Bool) := do
  let s ← get
  if let some r := s.cur.passed.bind (·.scope) then pure r
  else if scopeOfCode sc = .sys then
    let vf ← curVf
    if s.scopePol vf = 1 then raise Code.scopeTrap 0 0 else pure (.fab, true)
  else pure (scopeOfCode sc, false)

/-! ## A scalar access (R142) -/

/-- The pages touched by n bytes: their first addresses within the access. -/
def pageStarts (va n : Nat) : List Nat :=
  if va / 2 ^ 16 = (va + n - 1) / 2 ^ 16 then [va] else [va, (va + n - 1) / 2 ^ 16 * 2 ^ 16]

/-- An index of the list of a CGATH or CSCAT as the context reads it now; one that cannot be read reads as 0 (R259). -/
def State.peekIndex (s : State) (c : Context) (e : CopyEntry) (m : Nat) : Nat :=
  match translateFull s (s.vfOf c.slot) (e.list + BitVec.ofNat 64 (4 * m)) 1 with
  | .ok i => leNat (s.readUnit c s.nextId [⟨i.pa, 4, i⟩]).2
  | .fault _ _ => 0
  | .miss _ _ => 0

/-- What a queued copy of the context will still access: the rows of a gather or scatter that are not listed yet by their index list (R251). -/
def State.copyRuns (s : State) (c : Context) (e : CopyEntry) : List (Nat × Nat × Bool) :=
  e.footprint ++ (if e.moreRows then
    e.op.runs ((List.range (tplN1 e.tpl * tplN2 e.tpl)).drop e.rows |>.flatMap (fun m => rowElems e.tpl (e.op == CopyOp.cscat) e.x e.y m (s.peekIndex c e m) 0))
  else [])

/-- A page on which stage 1 orders accesses (SO), where stage 2 does not translate it yet. -/
def State.soPage (s : State) (vf va : Nat) : Bool :=
  match stage1 s vf (BitVec.ofNat 64 va) 0 with
  | .ok (_, e1) => (pageOf e1).ord == .so
  | .fault _ _ => false
  | .miss _ _ => false

/-- A scalar access of a copy context meets a byte that an earlier copy has not moved yet, or both are on SO pages (R251). -/
def State.copyConflict (s : State) (c : Context) (pieces : List Piece) (write : Bool) : Bool :=
  c.kind == .ce && c.copyq.any (fun e => (s.copyRuns c e).any (fun (a, n, w) =>
    (sectorCuts a (n / 32 + 2) n).any (fun (a', n') =>
      match translateFull s (s.vfOf c.slot) (BitVec.ofNat 64 a') 0 with
      | .ok i => pieces.any (fun p => (i.ord == .so && p.page.ord == .so) ||
          ((w || write) && decide (p.pa < i.pa + n') && decide (i.pa < p.pa + p.len)))
      | .fault _ _ => false
      | .miss _ _ => s.soPage (s.vfOf c.slot) a' && pieces.any (fun p => p.page.ord == .so))))

/-- Stage 1 of the pages of an access, ATTR_SPLIT, and the format check: first address, IPA and leaf of each page (R142). -/
def stage1Pages (va : Word) (n : Nat) (rights : BitVec 3) (fmtOk : BitVec 4 → Bool) : Act (List (Nat × Nat × Word)) := do
  let vf ← curVf
  let pages ← (pageStarts va.toNat n).mapM (fun a => do
    let s ← get
    let (ipa, e1) ← xl (stage1 s vf (BitVec.ofNat 64 a) rights) va
    pure (a, ipa, e1))
  let infos := pages.map (fun x => pageOf x.2.2)
  let p0 := infos.headD (pageOf 0)
  raiseIf (infos.any (fun p => p.ord != p0.ord || p.cohr != p0.cohr || p.fmt != p0.fmt)) Code.attrSplit 0 va
  raiseIf (!fmtOk p0.fmt) Code.formatMismatch 0 va
  pure pages

/-- Stage 2 of one address of a page whose stage 1 is known. -/
def stage2At (pages : List (Nat × Nat × Word)) (a : Nat) (rights : BitVec 3) (va : Word) : Act PageInfo := do
  let vf ← curVf
  let s ← get
  match pages.find? (fun x => x.1 / 2 ^ 16 = a / 2 ^ 16) with
  | none => raise Code.xlateStage1 4 va
  | some (_, ipa, e1) =>
    let (pa, e2) ← xl (stage2 s vf (ipa / 2 ^ 16 * 2 ^ 16 + a % 2 ^ 16) rights) va
    pure (combine e1 pa e2)

/-- Up to AwaitRequestSlots an access is checked once: a wait for stage 2 resumes there (R146). -/
def passOnce (scope : Option (Scope × Bool)) (checks : Act (List (Nat × Nat × Word))) (va : Word) : Act (List (Nat × Nat × Word)) := do
  let s ← get
  match s.cur.passed with
  | some p => pure p.pages
  | none =>
    let pages ← checks
    awaitRequestSlots va
    modCur (fun c => { c with past := some ⟨c.pc, scope, pages, s.cycle, []⟩ })
    pure pages

/-- An access that has passed every check is done with what it had passed. -/
def endAccess : Act Unit := modCur (fun c => { c with past := none })

/-- The checks of R142 from TranslateStage1 to the bank check, for n bytes at `va` with the given rights: the pieces with their pages. -/
def scalarAccess (scope : Option (Scope × Bool)) (va : Word) (n : Nat) (rights : BitVec 3) : Act (List Piece) := do
  let pages ← passOnce scope (stage1Pages va n rights (· == 0)) va
  let pieces ← (sectorCuts va.toNat 4 n).mapM (fun (a, k) => do
    let i ← stage2At pages a rights va
    pure ({ pa := i.pa, len := k, page := i } : Piece))
  pieces.forM (fun p => checkBank p.pa va)
  let s ← get
  waitIf (s.copyConflict s.cur pieces (rights.getLsbD 1)) (.copyOrder pieces (rights.getLsbD 1))
  pure pieces

/-- A unit of bytes in the hold buffer: records of one number, one sector request for each sector (R118, R147, R280). A release carries its
scope, the event it posts, and what it publishes. -/
def holdUnit (va : Word) (pair : Option Nat) (rel : Option (Scope × Option Word)) (ps : List (Piece × List Byte)) : Act Nat := do
  let id ← freshId
  modify (fun s =>
    let rels := (rel.map (fun x => s.release s.cur id x.1 x.2)).toList
    { s with
      nextId := s.nextId + ps.length
      hold := s.hold ++ ps.zipIdx.map (fun x =>
        { StoreRec.new id s.cur.ref (s.locOf s.cur) x.1.1.pa x.1.2 x.1.1.page with rels := rels, req := s.nextId + x.2, pair := pair.getD id, va := va }) })
  pure id

/-- Storing bytes through pieces: one unit each (R143). -/
def issueStores (va : Word) (rel : Option (Scope × Option Word)) : Option Nat → List Piece → List Byte → Act Unit
  | _, [], _ => pure ()
  | pair, p :: rest, bs => do
    let id ← holdUnit va pair rel [(p, bs.take p.len)]
    issueStores va rel (pair.or (some id)) rest (bs.drop p.len)

/-- Dirty PRIV sectors of the core are written back by a release or a FENCE at grp or wider (R283). -/
def releaseWriteback (sc : Scope) : Act Unit := do
  let s ← get
  match s.cur.core? with
  | some core => if Scope.rank sc ≥ 1 then modify (fun s => s.writebackCore core) else pure ()
  | none => pure ()

/-- Bytes written from `pa` up by an agent that is no core's context, placed in coherence order and performed as far up to a scope as R281
lets them be, one record per sector; sectors of CKPT pages are logged first (R281, R293, R344). -/
def State.writeThrough (s : State) (by_ : CtxRef) (loc : Loc) (page : PageInfo) (pa : Nat) (bs : List Byte) (sc : Scope) : State :=
  (sectorCuts pa (bs.length / 32 + 2) bs.length).foldl (fun t (a, n) =>
    let t1 := (t.logUndo by_.slot (t.undobOf by_.slot) a page.ckpt).renew [by_] a n
    let r : StoreRec := StoreRec.new t1.nextId by_ loc a ((bs.drop (a - pa)).take n) { page with pa := a }
    ({ t1 with nextId := t1.nextId + 1, coh := t1.coh ++ [{ r with ps := t1.reach loc a n sc }] } : State).meterBytes by_.slot false a n) s

/-! ## Recorded-input capture and replay (R404, R405) -/

/-- An event may take effect: its VF runs from no capture, or the capture has it next (R405). -/
def State.presents (s : State) (vf kind a b : Nat) : Bool :=
  match Tbl.get? s.replays vf with
  | none => true
  | some r => match r.events with
    | [] => !r.cut
    | e :: _ => e.kind = kind && e.a = a && e.b = b

/-- The value that the event presented next recorded, for a VF under replay (R405). -/
def State.recorded (s : State) (vf k : Nat) : Option Int := (Tbl.get? s.replays vf).bind (fun r => r.events.head?.bind (fun e => e.vals[k]?))

/-- A wait until the replay presents an event of the current context's VF. -/
def awaitPresented (kind a b : Nat) : Act Unit := do
  let s ← get
  waitIf (!s.presents (s.vfOf s.cur.slot) kind a b) (.replay kind a b)

/-- A value an instruction of kind 7 returns: the recorded one under replay (R405). -/
def State.returned (s : State) (v : Word) : Word := match s.recorded (s.vfOf s.cur.slot) 0 with
  | some x => BitVec.ofInt 64 x
  | none => v

/-- An event of a replayed capture has taken effect. -/
def State.presented (s : State) (vf kind : Nat) : State :=
  match Tbl.get? s.replays vf with
  | none => s
  | some r => if r.events.head?.any (fun e => e.kind = kind) then { s with replays := Tbl.set s.replays vf { r with events := r.events.drop 1 } } else s

/-- An event of a VF (R404): a replay goes on to its next one, and a captured VF's buffer gets an entry: CYCLE and kind, the data bits a free
value; the buffer's last entry has kind 0xFF. -/
def State.capture (s0 : State) (vf kind : Nat) : State :=
  let s := s0.presented vf kind
  match Tbl.get? s.dortas.captures vf with
  | none => s
  | some k =>
    if k.stopped || decide (k.len < k.next + 16) then s
    else
      let full := decide (k.len < k.next + 32)
      let bs := natBytes s.cycle 8 ++ natBytes (if full then 0xFF else kind) 1 ++ natBytes (Config.freeWord s.free).toNat 7
      let s1 : State := { s with
        free := s.free + 1, dortas := { s.dortas with captures := Tbl.set s.dortas.captures vf { k with next := k.next + 16, stopped := full } } }
      s1.writeThrough ⟨2 ^ 24, 2⟩ ⟨363, 64, vf⟩ ⟨k.pa + k.next, .rc, .coh, 0, false, false, none⟩ (k.pa + k.next) bs .dev

end Sys2Proof.Machine
end

