-- ==== Sys2Proof/Machine/Remote.lean ====
section
/-! DEFINITION. Accesses to remote pages (R284, R377). -/
namespace Sys2Proof.Machine

/-- The window and offset of an access to the remote aperture (R377): PERMISSION detail 2 beyond the length or without the right. -/
def remoteTarget (pa : Nat) (n : Nat) (write : Bool) (eval : Word) : Act (RemoteWin × Nat) := do
  let s ← get
  match Tbl.get? s.rwins (pa / 2 ^ 36 % 2048) with
  | none => raise Code.permission 2 eval
  | some w =>
    let off := pa % 2 ^ 36
    if w.len < off + n ∨ (write = true ∧ w.w = false) ∨ (write = false ∧ w.r = false) then raise Code.permission 2 eval
    else pure (w, off)

/-- An RMA_RD of this device; the record's OFFSET holds the target IPA (assumption 12). -/
def State.sendRead (s : State) (w : RemoteWin) (off n : Nat) (by_ : CtxRef) (va : Word) : State :=
  let rid := s.nextId
  let vf := s.vfOf by_.slot
  ({ s with nextId := rid + 1, remotes := s.remotes ++ [⟨rid, by_, none, va⟩] } : State).send
    { header := mkHeader w.target (s.endpoint vf) 0 0 false 0 0 0 0 0 MsgType.rmaRd
      comps := [], rma := mkRma (BitVec.ofNat 64 (w.base + off)) (rid % 65536) n 0 0 0, payload := [], psn := 0, adit := 0 }

/-- A remote store may be sent: byte order, SO order, and what its releases publish (R148, R284, R288, R290). -/
def State.maySend (s : State) (r : StoreRec) : Bool :=
  !r.sent && !(s.hold.any (fun q => q.by_ = r.by_ && decide (q.id < r.id) && q.overlaps r)) && !s.olderPending r.by_ r.id r.pa r.bytes.length &&
  (r.page.ord != .so || !s.soBefore r.by_ r.id r.pair) && s.publishedFar r.rels r.ids

/-- One record of a held remote store is sent as an RMA_WR with completion PERFORMED (R284, R377). -/
def State.sendStore (s : State) (r : StoreRec) : State :=
  match r.page.remote.bind (fun i => Tbl.get? s.rwins i) with
  | none => s
  | some w =>
    let rid := s.nextId
    let vf := s.vfOf r.by_.slot
    ({ s with
      nextId := rid + 1
      remotes := s.remotes ++ [⟨rid, r.by_, some (r.id, r.pa), r.va⟩]
      hold := s.hold.map (fun q => if q.id = r.id && q.pa = r.pa then { q with sent := true } else q) } : State).send
      { header := mkHeader w.target (s.endpoint vf) 0 0 false 0 r.bytes.length 0 0 0 MsgType.rmaWr
        comps := [], rma := mkRma (BitVec.ofNat 64 (w.base + r.pa % 2 ^ 36)) (rid % 65536) r.bytes.length 2 0 0
        payload := r.bytes, psn := 0, adit := 0 }

/-- The records of one number are sent when all of them may be. -/
def State.sendUnit (s : State) (id : Nat) : State :=
  let rs := s.hold.filter (fun r => r.id = id)
  if rs.all s.maySend then rs.foldl State.sendStore s else s

/-- A record of a remote store is acknowledged: it is performed where its bytes live, and its release's events are posted (R145, R284). -/
def State.remoteDone (s : State) (id pa : Nat) : State :=
  let gone : State := { s with hold := s.hold.filter (fun q => !(q.id = id && q.pa = pa)) }
  match s.hold.find? (fun q => q.id = id && q.pa = pa) with
  | some r => [Scope.eng, .grp, .dev, .fab].foldl (fun t sc => t.postNotes r.rels sc) gone
  | none => s

/-- What a read of a remote page waits for (R148, R288): the context's own stores to its bytes, and on an SO page its earlier SO accesses. -/
def State.remoteBlockers (s : State) (c : Context) (p : PageInfo) (pa n : Nat) : List Nat × Scope :=
  let own := (s.hold.filter (fun r => r.owned c.ref && decide (r.pa < pa + n) && decide (pa < r.pa + r.bytes.length))).map (·.id)
  if own.isEmpty && p.ord == .so then (s.soIds c, .dev) else (own, .fab)

/-- A read of n bytes of a remote page by the current context (R377): sent once, then held WAITING until the response; the bytes, or
PERMISSION detail 1. -/
def remoteLoad (p : PageInfo) (pa n : Nat) (va : Word) : Act (List Byte) := do
  let s ← get
  match s.cur.remoteLd.filter (fun r => r.1 = BitVec.ofNat 64 pa) with
  | none =>
    let (w, off) ← remoteTarget pa n false va
    let (ids, sc) := s.remoteBlockers s.cur p pa n
    if ids.isEmpty then
      modify (fun s => (s.sendRead w off n s.cur.ref va).setCur (fun c => { c with remoteLd := some (BitVec.ofNat 64 pa, s.nextId, none) }))
      waitKeep (.remote s.nextId)
    else waitKeep (.performed ids sc)
  | some (_, id, none) => waitKeep (.remote id)
  | some (_, _, some none) =>
    modCur (fun c => { c with remoteLd := none })
    raiseKept Code.permission 1 va
  | some (_, _, some (some bs)) =>
    modCur (fun c => { c with remoteLd := none })
    pure bs

/-- The remote pieces of the current context's load read one after another, each with its bytes; local pieces are read as the load lands. -/
def remotePieces (va : Word) : List Piece → Act (List (Piece × Option (List Byte)))
  | [] => pure []
  | p :: rest => do
    let s ← get
    let here : Option (List Byte) ←
      if p.page.remote.isNone then pure none
      else
        match (s.cur.past.bind (fun x => x.got.find? (fun g => g.1 = p.pa))).map (·.2) with
        | some bs => pure (some bs)
        | none => do
          let bs ← remoteLoad p.page p.pa p.len va
          modCur (fun c => { c with past := c.past.map (fun x => { x with got := x.got ++ [(p.pa, bs)] }) })
          pure (some bs)
    let more ← remotePieces va rest
    pure ((p, here) :: more)

end Sys2Proof.Machine
end

