-- ==== Sys2Proof/Machine/Scalar.lean ====
section
/-! DEFINITION. Scalar loads and stores, fences and register waits (R142 to R150). -/
namespace Sys2Proof.Machine

/-- A value of n bytes extended to 64 bits (R142). -/
def extend (signed : Bool) (n v : Nat) : Word :=
  if signed then (if 2 ^ (8 * n - 1) ≤ v % 2 ^ (8 * n) then BitVec.ofNat 64 (2 ^ 64 - 2 ^ (8 * n) + v % 2 ^ (8 * n)) else BitVec.ofNat 64 (v % 2 ^ (8 * n)))
  else BitVec.ofNat 64 (v % 2 ^ (8 * n))

/-- The effective address of the M format (R61). -/
def effAddr (base : Word) (off : BitVec 8) (sz : BitVec 2) : Word := base + (off.signExtend 64) * (1 <<< sz.toNat)

/-- The result latency class of a scalar load (R79). -/
def loadClass : Nat × Nat := (2, 5)

/-- LD and LDA (R142): the checks, then the access outstanding. Remote pieces hold the context until their bytes are there (R377); the value lands
with the class's latency from the cycle of issue on all the same (R80). -/
def loadForm (signed : Bool) (d base : BitVec 5) (sz : BitVec 2) (off : BitVec 8) (acq : Option (BitVec 3)) : Act Unit := do
  destReady d
  let b ← readSrc base false
  let n := 2 ^ sz.toNat
  let addr := effAddr b off sz
  raiseIf (acq.isSome && addr.toNat % n != 0) Code.misaligned 0 addr
  let sc ← match acq with
    | none => pure none
    | some c => do
      let r ← scopeOf c
      pure (some r)
  let pieces ← scalarAccess sc addr n 1
  awaitAcquire
  let parts ← remotePieces addr pieces
  let s ← get
  let since := (s.cur.passed.map (·.since)).getD s.cycle
  let id ← freshId
  let note := if sc.any (·.2) then some addr else none
  modCur (fun c => ({ c with
    pend := c.pend ++ [⟨id, if d = 0 then .none else .s d, since + s.latency loadClass.1 loadClass.2, .load parts signed (sc.map (·.1)), note⟩] } : Context).empty d)
  endAccess
  advance

/-- The pieces of a store that lie on remote pages are within their windows (R377). -/
def checkRemotes (pieces : List Piece) (va : Word) : Act Unit :=
  pieces.forM (fun p => if p.page.remote.isSome then (do let _ ← remoteTarget p.pa p.len true va; pure ()) else pure ())

/-- ST and STL (R142): the checks, then the store in the hold buffer; a release carries what it publishes, and the event of a demoted one
(R145, R283, R290). -/
def storeForm (d base : BitVec 5) (sz : BitVec 2) (off : BitVec 8) (rel : Option (BitVec 3)) : Act Unit := do
  let b ← readSrc base false
  let v ← readSrc d false
  let n := 2 ^ sz.toNat
  let addr := effAddr b off sz
  raiseIf (rel.isSome && addr.toNat % n != 0) Code.misaligned 0 addr
  let sc ← match rel with
    | none => pure none
    | some c => do
      let r ← scopeOf c
      pure (some r)
  let pieces ← scalarAccess sc addr n 2
  awaitAcquire
  checkRemotes pieces addr
  match sc with
  | none => pure ()
  | some r => releaseWriteback r.1
  issueStores addr (sc.map (fun r => (r.1, if r.2 then some addr else none))) none pieces (natBytes v.toNat n)
  endAccess
  advance

def execLdSigned (o : MPlain) (s : State) : Host.Outcome State Fault Refusal := runAct (loadForm true o.d o.base o.sz o.off none) s
def execLdUnsigned (o : MPlain) (s : State) : Host.Outcome State Fault Refusal := runAct (loadForm false o.d o.base o.sz o.off none) s
def execLdaSigned (o : MOrd) (s : State) : Host.Outcome State Fault Refusal := runAct (loadForm true o.d o.base o.sz o.off (some o.sc)) s
def execLdaUnsigned (o : MOrd) (s : State) : Host.Outcome State Fault Refusal := runAct (loadForm false o.d o.base o.sz o.off (some o.sc)) s
def execSt (o : MPlain) (s : State) : Host.Outcome State Fault Refusal := runAct (storeForm o.d o.base o.sz o.off none) s
def execStl (o : MOrd) (s : State) : Host.Outcome State Fault Refusal := runAct (storeForm o.d o.base o.sz o.off (some o.sc)) s

/-- The wait of FENCE, ERET.HALT, YIELD and CHKPT for earlier accesses performed at a scope, with the writebacks of R283; copies are waited for
elsewhere (R149, R251). -/
def awaitPerformed (sc : Scope) : Act Unit := do
  releaseWriteback sc
  let s ← get
  let ids := s.releaseDeps s.cur false sc
  if ids.isEmpty then pure () else waitKeep (.performed ids sc)

/-- FENCE (R149, R290, R291): an explicit release and acquire. -/
def execFence (c : BitVec 3) (s : State) : Host.Outcome State Fault Refusal :=
  runAct (do
    let (sc, demoted) ← scopeOf c
    awaitPerformed sc
    awaitLandedLoads
    modify (fun s => s.orderPoint s.cur true)
    if demoted then postEvent Code.scopeDemoted 0 0
    advance) s
where
  /-- All earlier loads have landed (R149). -/
  awaitLandedLoads : Act Unit := do
    let s ← get
    waitIf (s.cur.pend.any Pend.isAccess) .allLanded

/-- WAITF (R150). -/
def execWaitf (a : BitVec 5) (s : State) : Host.Outcome State Fault Refusal :=
  runAct (do
    let _ ← readSrc a false
    advance) s

end Sys2Proof.Machine
end

