-- ==== Sys2Proof/Machine/Rdv.lean ====
section
/-! DEFINITION. Releases and acquires of the transitions (R293), and rendezvous points (R44, R46, R160 to R162). -/
namespace Sys2Proof.Machine

/-- An access of the context to UO pages only. -/
def State.isUo (s : State) (c : Context) (i : Nat) : Bool :=
  (s.hold ++ s.coh).any (fun r => r.id = i && r.page.ord == .uo) || s.l1.any (fun x => x.uo && x.stores.any (fun y => y.2 = i)) ||
  c.pend.any (fun q => q.id = i && !q.pieces.isEmpty && q.pieces.all (fun p => p.page.ord == .uo))

/-- A plain store to a remote page (R297). -/
def State.isRemoteStore (s : State) (i : Nat) : Bool := s.hold.any (fun r => r.id = i && r.page.remote.isSome && r.rels.isEmpty)

/-- A transition's release at a scope: the context waits until what it publishes, of the accesses that `keep` says, is performed there (R293). -/
def awaitPublished (sc : Scope) (keep : State → Nat → Bool) : Act Unit := do
  releaseWriteback sc
  let s ← get
  let ids := (s.releaseDeps s.cur true sc).filter (keep s)
  if ids.isEmpty then pure () else waitKeep (.performed ids sc)

/-- `uo` says whether accesses to UO pages are covered (R293, R294). -/
def awaitRelease (sc : Scope) (uo : Bool) : Act Unit := awaitPublished sc (fun s i => uo || !s.isUo s.cur i)

/-- A transition's acquire: an ordering point for RSH pages, and for UO pages where they are covered (R285, R293). -/
def transitionAcquire (uo : Bool) : Act Unit := modify (fun s => s.orderPoint s.cur uo)

def rdvKey (g r : Nat) : Nat := g * 256 + r
def State.rdv (s : State) (g r : Nat) : Rdv := (Tbl.get? s.rdvs (rdvKey g r)).getD ⟨0, 0, 0, 0, 0⟩

/-- A phase completes at the update that makes ARR equal EXP with EXP ≥ 1 (R46). -/
def Rdv.settle (p : Rdv) : Rdv := if p.arr = p.exp ∧ 1 ≤ p.exp then { p with arr := 0, phase := p.phase + 1 } else p

/-- One update of a point by context number `num` (R46). -/
def State.setRdv (s : State) (g r num : Nat) (p : Rdv) : State :=
  { s with rdvs := Tbl.set s.rdvs (rdvKey g r) { p.settle with at_ := s.cycle + 1, by_ := num } }

/-- Updates of one cycle come in ascending context number: one that would come after its turn is made in the next cycle (R46). -/
def rdvTurn (g r : Nat) : Act Unit := do
  let s ← get
  let p := s.rdv g r
  waitIf (p.at_ = s.cycle + 1 && decide (s.cur.num < p.by_)) (.cycleAfter s.cycle)

/-- The physical point of a window-relative number (R48); points live in the control context's group (R161). -/
def rdvOf (i : BitVec 8) : Act (Nat × Nat) := do
  let s ← get
  let r ← relocate s.cur.wrdv i
  pure (s.homeGrp s.cur.slot, r)

/-- RDV (R161): one arrival, then the wait for the phase to pass; the end of the wait is an acquire at dev. -/
def execRdv (i : BitVec 8) (s : State) : Host.Outcome State Fault Refusal :=
  runAct (do
    let (g, r) ← rdvOf i
    let s ← get
    match s.cur.arrived.filter (fun a => a.1 = s.cur.pc) with
    | some (_, ph) =>
      waitIf ((s.rdv g r).phase = ph) (.phaseNot g r ph)
      finish
    | none =>
      raiseIf ((s.rdv g r).exp = 0) Code.illegalOp 8 0
      awaitRelease .dev true
      rdvTurn g r
      let s ← get
      let p := s.rdv g r
      modify (fun s => (s.setRdv g r s.cur.num { p with arr := p.arr + 1 }).setCur (fun c => { c with arrived := some (c.pc, p.phase) }))
      let s ← get
      if (s.rdv g r).phase = p.phase then waitKeep (.phaseNot g r p.phase) else finish) s
where
  finish : Act Unit := do
    modCur (fun c => { c with arrived := none })
    transitionAcquire true
    advance

/-- RDVA (R161). -/
def execRdva (i : BitVec 8) (s : State) : Host.Outcome State Fault Refusal :=
  runAct (do
    let (g, r) ← rdvOf i
    let s ← get
    raiseIf ((s.rdv g r).exp = 0) Code.illegalOp 8 0
    awaitRelease .dev true
    rdvTurn g r
    let s ← get
    let p := s.rdv g r
    modify (fun s => s.setRdv g r s.cur.num { p with arr := p.arr + 1 })
    advance) s

/-- RDVE (R161). -/
def execRdve (o : ObjA) (s : State) : Host.Outcome State Fault Refusal :=
  runAct (do
    let x ← readSrc o.a o.qa
    let (g, r) ← rdvOf o.t
    let s ← get
    let p := s.rdv g r
    let e : Int := p.exp + x.toInt
    raiseIf (decide (e < 0 ∨ 65535 < e ∨ e < p.arr)) Code.illegalOp 8 0
    rdvTurn g r
    modify (fun s => s.setRdv g r s.cur.num { p with exp := e.toNat })
    advance) s

/-- The final arrival of a forked context (R160). At a point whose EXP an RDVE has lowered to 0 the spec gives no EXP − 1: it stays 0
(assumption 74, DESIGN CHOICE). -/
def State.finalArrival (s : State) (g r num : Nat) : State :=
  let p := s.rdv g r
  s.setRdv g r num { p with exp := p.exp - 1 }

end Sys2Proof.Machine
end

