-- ==== Sys2Proof/Machine/Lease.lean ====
section
/-! DEFINITION. Hearth leases and runs (R163, R164). -/
namespace Sys2Proof.Machine

def State.hearth (s : State) (g : Nat) : Hearth := (Tbl.get? s.hearths g).getD Hearth.reset
def State.setHearth (s : State) (g : Nat) (h : Hearth) : State := { s with hearths := Tbl.set s.hearths g h }

/-- The members of a sheet of height h and width w led by group g (R238). -/
def sheetMembers (g h w : Nat) : List Nat := (List.range h).flatMap (fun r => (List.range w).map (fun c => g + 4 * r + c))

/-- The groups a Hearth leads: its sheet, or itself alone (R238). -/
def State.sheetOf (s : State) (g : Nat) : List Nat :=
  match (s.hearth g).sheet with
  | some (lead, h, w) => if lead = g then sheetMembers g h w else [g]
  | none => [g]

/-- An instance holds the lease of these Hearths. -/
def State.holdsLease (s : State) (slot : Nat) (grps : List Nat) : Bool := grps.all (fun g => (s.hearth g).holder = some slot)

/-- A lease granted with a fresh run (R164). -/
def State.grantLease (s : State) (slot : Nat) (grps : List Nat) : State :=
  grps.foldl (fun t g => t.setHearth g { t.hearth g with holder := some slot, leaseGrps := grps, runStart := t.cycle, runCount := 0 }) s

/-- A request enters the queue after those that came before it, and among those of its cycle in ascending core number (R163). -/
def insertReq (r : LeaseReq) : List LeaseReq → List LeaseReq
  | [] => [r]
  | q :: rest => if q.cycle = r.cycle ∧ r.core < q.core then r :: q :: rest else q :: insertReq r rest

/-- The core that an instance's control context runs on. -/
def State.coreOf (s : State) (slot : Nat) : Nat := ((Tbl.get? s.slots slot).map (·.ccore)).getD 0

/-- A request of an instance joins the queue. -/
def State.askLease (s : State) (slot : Nat) (grps : List Nat) (reclaim : Bool) : State :=
  { s with leaseQ := insertReq ⟨slot, grps, reclaim, s.cycle, s.coreOf slot⟩ s.leaseQ }

/-- Requests granted in arrival order: one that is free of holders and of earlier requests for any of its Hearths (R163). -/
def State.grantScan (s : State) (kept : List LeaseReq) : List LeaseReq → State
  | [] => { s with leaseQ := kept }
  | r :: rest =>
    let blocked := r.grps.any (fun g => (s.hearth g).holder.isSome || kept.any (fun k => k.grps.contains g))
    if blocked then State.grantScan s (kept ++ [r]) rest
    else State.grantScan (s.grantLease r.slot r.grps) kept rest

def State.grantLeases (s : State) : State := s.grantScan [] s.leaseQ

/-- The Hearths of a lease lose their holder. -/
def State.dropLease (s : State) (grps : List Nat) : State :=
  grps.foldl (fun t g => t.setHearth g { t.hearth g with holder := none, leaseGrps := [] }) s

/-- A lease that an instance holds of any of these Hearths is returned whole (R163; assumption 75). -/
def State.returnLeases (s : State) (slot : Nat) (grps : List Nat) : State :=
  grps.foldl (fun t g => if (t.hearth g).holder = some slot then t.dropLease (t.hearth g).leaseGrps else t) s

/-- The Hearth contexts of an instance on these Hearths have a LEASE_LOST to raise (R164). -/
def State.markPassed (s : State) (slot : Nat) (grps : List Nat) : State :=
  let f (c : Context) : Context := if c.slot = slot ∧ c.kind = .he ∧ grps.contains c.engine then { c with leasePassed := true } else c
  { s with cur := f s.cur, parked := s.parked.map f }

/-- The end of a run (R164): with no waiter a fresh run; with one the lease passes, and a holder with a live Hearth context on the
Hearth reclaims at the tail. -/
def State.endRun (s : State) (g : Nat) : State :=
  let h := s.hearth g
  match h.holder with
  | none => s
  | some slot =>
    if s.leaseQ.any (fun r => r.grps.any (fun x => h.leaseGrps.contains x)) then
      let live := (s.ctxsOf slot).any (fun c => c.kind = .he && h.leaseGrps.contains c.engine)
      let s1 := s.dropLease h.leaseGrps
      let s2 := if live then (s1.markPassed slot h.leaseGrps).askLease slot h.leaseGrps true else s1
      s2.grantLeases
    else s.grantLease slot h.leaseGrps

/-- A holder that is being stopped, killed or rolled back keeps its Hearths until Dortas passes them on (R338, R343, R346). -/
def State.keepsLease (s : State) (slot : Nat) : Bool := (Tbl.get? s.slots slot).any (fun x => x.state = 3 || x.state = 6 || x.rolling)

/-- A run has ended: 64 HE-private instructions, or 95,000 cycles (R164). -/
def State.runOver (s : State) (g : Nat) : Bool :=
  let h := s.hearth g
  h.holder.any (fun k => !s.keepsLease k) && (decide (64 ≤ h.runCount) || decide (h.runStart + 95000 ≤ s.cycle))

/-- LEASE_RUN_END (R164). -/
def execLeaseRunEnd (g : Nat) (s : State) : Host.Outcome State Fault Refusal := .next (if s.runOver g then s.endRun g else s)

/-- The Hearths a lease selector names (R163). -/
def leaseSel (x : Word) : Act (List Nat) := do
  let s ← get
  raiseIf (x.extractLsb' 9 55 != 0) Code.reservedField 0 x
  match (s.slotOf s.cur).bind (fun sl => nthSetBit sl.hmask (fieldN x 7 0)) with
  | none => raise Code.permission 2 x
  | some g =>
    if x.getLsbD 8 then
      match (s.hearth g).sheet with
      | some (lead, _, _) => if lead = g then pure (s.sheetOf g) else raise Code.hearthShape 0 x
      | none => raise Code.hearthShape 0 x
    else pure [g]

/-- A request of the instance for exactly these Hearths stands in the queue. -/
def State.requested (s : State) (slot : Nat) (grps : List Nat) : Bool := s.leaseQ.any (fun r => r.slot = slot && r.grps = grps)

/-- LEASE.ACQ (R163). -/
def execLeaseAcq (o : RA) (s : State) : Host.Outcome State Fault Refusal :=
  runAct (do
    let x ← readSrc o.a o.qa
    let grps ← leaseSel x
    let slot := s.cur.slot
    if s.holdsLease slot grps then advance
    else if s.requested slot grps then waitFor (.lease (grps.headD 0))
    else
      modify (fun s => (s.askLease slot grps false).grantLeases)
      let s ← get
      if s.holdsLease slot grps then advance else waitKeep (.lease (grps.headD 0))) s

/-- LEASE.TRY (R163). -/
def execLeaseTry (o : RRD) (s : State) : Host.Outcome State Fault Refusal :=
  runAct (do
    destReady o.d
    let x ← readSrc o.a o.qa
    let grps ← leaseSel x
    let slot := s.cur.slot
    if s.holdsLease slot grps then writeS o.d 1
    else if grps.any (fun g => (s.hearth g).holder.isSome || s.leaseQ.any (fun r => r.grps.contains g)) then writeS o.d 0
    else
      modify (fun s => s.grantLease slot grps)
      writeS o.d 1
    advance) s

/-- LEASE.REL (R163): returns the lease that covers the Hearths it names, or cancels a standing request. -/
def execLeaseRel (o : RA) (s : State) : Host.Outcome State Fault Refusal :=
  runAct (do
    let x ← readSrc o.a o.qa
    let grps ← leaseSel x
    let slot := s.cur.slot
    modify (fun s =>
      let s1 := { s with leaseQ := s.leaseQ.filter (fun r => !(r.slot = slot && r.grps = grps)) }
      (s1.returnLeases slot grps).grantLeases)
    advance) s

/-- What every HE-private instruction does first (R164): a lease that has passed raises LEASE_LOST once, also where it is held again, then
the instruction waits while the reclaim stands. The instruction counts towards the run; one that has passed this check and waits is not checked again. -/
def hearthAccess : Act Unit := do
  let s0 ← get
  if s0.cur.heAt = some s0.cur.pc then pure ()
  else
    modify (fun s => if s.runOver s.cur.engine then s.endRun s.cur.engine else s)
    let s ← get
    let g := s.cur.engine
    if s.cur.leasePassed then
      modCur (fun c => { c with leasePassed := false, leaseLost := true })
      raiseKept Code.leaseLost 0 0
    else if (s.hearth g).holder = some s.cur.slot then
      modify (fun s => ((s.hearth g).leaseGrps.foldl (fun t x => t.setHearth x { t.hearth x with runCount := (t.hearth x).runCount + 1 }) s).setCur
        (fun c => { c with leaseLost := false, heAt := some c.pc }))
    else if s.cur.leaseLost && s.leaseQ.any (fun r => r.slot = s.cur.slot && r.grps.contains g) then waitKeep (.lease g)
    else
      modCur (fun c => { c with leaseLost := true })
      raiseKept Code.leaseLost 0 0

end Sys2Proof.Machine
end

