-- ==== Sys2Proof/Machine/Land.lean ====
section
/-! DEFINITION. Results that land (R34, R80, R142, R176): loads and atomics performed as they land, and the atomic instructions. -/
namespace Sys2Proof.Machine

/-- The new value of an atomic of n bytes (R176). -/
def atomNew (op : AtomOp) (n old v : Nat) : Nat :=
  let w := 2 ^ (8 * n)
  let sg (x : Nat) : Int := if w / 2 ≤ x then (x : Int) - w else x
  let vv := v % w
  match op with
  | .swap => vv
  | .add => (old + v) % w
  | .and => old &&& vv
  | .or => old ||| vv
  | .xor => old ^^^ vv
  | .min => if sg vv < sg old then vv else old
  | .max => if sg old < sg vv then vv else old
  | .minn => if vv < old then vv else old
  | .maxn => if old < vv then vv else old
  | .cas c => if old = c.toNat % w then vv else old
  | .faddF32 => addRne .f32 old vv
  | .fminF32 => minMaxBits .f32 false old vv
  | .fmaxF32 => minMaxBits .f32 true old vv
  | .faddBf16 => addRne .bf16 old vv
  | .fminBf16 => minMaxBits .bf16 false old vv
  | .fmaxBf16 => minMaxBits .bf16 true old vv

/-- Whether the store that an acquire of a byte of a piece would read is performed at its scope: none of its own is held or in a dirty sector, and
the latest one that `p` takes is far enough (R286). -/
def State.acquireOk (s : State) (c : Context) (before : Nat) (sc : Scope) (inL1 : Bool) (p : StoreRec → Bool) (pa : Nat) : Bool :=
  !(s.hold.any (fun r => r.owned c.ref && decide (r.id < before) && r.covers pa)) &&
  (!inL1 || sc == .eng || (c.core?.bind (fun k => s.l1Find k pa)).all (fun x => !x.dirty)) &&
  (match lastCover s.coh pa p with
   | some r => psAtLeast r.ps sc
   | none => true)

/-- One piece of a load may be performed: byte order, SO order, and a sector that can be filled (R148, R288, R301). -/
def State.mayRead (s : State) (c : Context) (id : Nat) (ps : List Piece) : Bool :=
  ps.all (fun p => (p.page.ord != .so || !s.soBefore c.ref id id) && !s.olderPending c.ref id p.pa p.len) && s.mayFill c ps

/-- The write of an atomic as the store that it is (R177, R281). -/
def State.atomRec (s : State) (c : Context) (id : Nat) (p : Piece) (bs : List Byte) (rels : List Release) : StoreRec :=
  { StoreRec.new id c.ref (s.locOf c) p.pa bs p.page with rels := rels }

/-- Whether a pending result may land now (R80, R286, R288, R290). -/
def State.mayLand (s : State) (c : Context) (q : Pend) : Bool :=
  decide (q.at_ ≤ s.cycle) && s.mayRead c q.id q.pieces &&
  (match q.what with
   | .value _ => true
   | .held => true
   | .load ps _ acq =>
     match acq with
     | none => true
     | some sc => ps.all (fun x => x.2.isSome || x.1.range.all (s.acquireOk c q.id sc x.1.page.inL1 (s.sees c)))
   | .atomic p _ _ _ acq rels =>
     !(s.hold.any (fun r => r.owned c.ref && decide (r.id < q.id) && decide (r.pa < p.pa + p.len) && decide (p.pa < r.pa + r.bytes.length))) &&
     (match acq with
      | none => true
      | some sc => p.range.all (s.acquireOk c q.id sc p.page.inL1 (fun _ => true))) &&
     s.published rels [q.id] .eng && s.placeReady (s.atomRec c q.id p (List.replicate p.len 0) rels) &&
     s.presents (s.vfOf c.slot) 6 (p.pa / 32) c.num
   | .vload _ _ _ _ => true)

/-- The unread pieces of a load read, each by itself (R143, R287). -/
def State.readPieces (s : State) (c : Context) (id : Nat) : List (Piece × Option (List Byte)) → State × List Byte
  | [] => (s, [])
  | (_, some bs) :: rest =>
    let (s1, more) := State.readPieces s c id rest
    (s1, bs ++ more)
  | (p, none) :: rest =>
    let (s1, bs) := s.readUnit c id [p]
    let (s2, more) := State.readPieces s1 c id rest
    (s2, bs ++ more)

/-- An atomic performed at its location: the old bytes and the state after the write, adjacent in coherence order (R177). -/
def State.performAtomic (s : State) (c : Context) (id : Nat) (p : Piece) (op : AtomOp) (v : Word) (rels : List Release) : State × Nat :=
  let new (old : Nat) : StoreRec := s.atomRec c id p (natBytes (atomNew op p.len old v.toNat) p.len) rels
  match (if p.page.inL1 then c.core? else none) with
  | some core =>
    let (s1, bs) := s.readUnit c id [p]
    (s1.placePriv c core (new (leNat bs)), leNat bs)
  | none =>
    let old := leNat (bytesFrom s.lastByte p.pa p.len)
    (s.place (new old), old)

/-- A value delivered to where it lands. -/
def Context.deliver (c : Context) (d : Dest) (v : Word) : Context :=
  match d with
  | .s n => c.putS n v
  | .tile _ => c
  | .mask _ => c
  | .none => c

/-- A result that has landed is no longer outstanding; the event of a demoted access is posted (R145). -/
def State.landed (s : State) (c : Context) (q : Pend) : State :=
  let s1 := s.setCtx c.ref (fun c => { c with pend := c.pend.filter (fun x => x.id ≠ q.id) })
  match q.note with
  | some a => s1.post c.ref ⟨Code.scopeDemoted, 0, a, true⟩
  | none => s1

/-- Bytes of an access counted (R183). -/
def State.meterPieces (s : State) (c : Context) (ps : List Piece) : State :=
  ps.foldl (fun t p => t.meterBytes c.slot c.core?.isSome p.pa p.len) s

/-- One result lands (RESULT_LANDS); nothing happens where it may not yet. Vector loads land in their own operation (R206). An acquire is an ordering
point (R285, R291), and what a load or atomic has let its context see, the context's later releases publish (R290). -/
def State.landScalar (s : State) (c : Context) (q : Pend) : State :=
  match q.what with
  | .value v => (s.landed c q).setCtx c.ref (fun c => c.deliver q.dst v)
  | .held => s.landed c q
  | .load ps signed acq =>
    let s1 := if acq.isSome then s.orderPoint c true else s
    let (s2, bs) := s1.readPieces c q.id ps
    let s3 := (s2.meterPieces c (ps.map (·.1))).learn c q.id
    (s3.landed c q).setCtx c.ref (fun c => c.deliver q.dst (extend signed bs.length (leNat bs)))
  | .atomic p op v signed acq rels =>
    let s1 := if acq.isSome then s.orderPoint c true else s
    let (s2, old) := s1.performAtomic c q.id p op v rels
    let s3 := ((s2.meterPieces c [p]).capture (s.vfOf c.slot) 6).learn c q.id
    (s3.landed c q).setCtx c.ref (fun c => c.deliver q.dst (extend signed p.len old))
  | .vload _ _ _ _ => s

/-! ## Atomics (R94, R176, R177) -/

/-- The FMT a page must have for an atomic (R116): raw for all, and its own type for AMOF. -/
inductive AtomKind where
  | int | f32 | bf16
  deriving DecidableEq, Repr

def AtomKind.fmtOk (k : AtomKind) (fmt : BitVec 4) : Bool :=
  match k with
  | .int => fmt == 0
  | .f32 => fmt == 0 || fmt == 1
  | .bf16 => fmt == 0 || fmt == 2

/-- An atomic (R176): checks in order, then the access outstanding until old lands. -/
def atomicForm (k : AtomKind) (n : Nat) (signed : Bool) (op : AtomOp) (d a b : BitVec 5) (qa qb : Bool) (ord : BitVec 2) (sc : BitVec 3)
    (cas : Bool) : Act Unit := do
  destReady d
  let t ← readSrc a qa
  let v ← readSrc b qb
  let s0 ← get
  let op := if cas then .cas (s0.cur.getS d) else op
  raiseIf (t.toNat % n != 0) Code.misaligned 0 t
  let r ← if ord = 0 then pure none else (do
    let r ← scopeOf sc
    pure (some r))
  let pages ← passOnce r (do
    let vf ← curVf
    let (ipa, e1) ← xl (stage1 s0 vf t 3) t
    raiseIf ((pageOf e1).cohr == .rsh) Code.atomicAttr 0 t
    raiseIf (!k.fmtOk (pageOf e1).fmt) Code.formatMismatch 0 t
    pure [(t.toNat, ipa, e1)]) t
  let info ← stage2At pages t.toNat 3 t
  raiseIf info.remote.isSome Code.atomicAttr 0 t
  checkBank info.pa t
  awaitAcquire
  let scope := (r.map (·.1)).getD .eng
  let acq := if ord = 1 ∨ ord = 3 then some scope else none
  let note := if r.any (·.2) then some t else none
  if ord = 2 ∨ ord = 3 then releaseWriteback scope
  let s ← get
  let id ← freshId
  let rels := if ord = 2 ∨ ord = 3 then [s.release s.cur id scope none] else []
  modCur (fun c => ({ c with
    pend := c.pend ++ [⟨id, if d = 0 then .none else .s d, s.cycle + 5, .atomic ⟨info.pa, n, info⟩ op v signed acq rels, note⟩] } : Context).empty d)
  endAccess
  advance

/-- The operation of an AMO's op field (R94). -/
def amoOp (signed : Bool) (op : BitVec 3) : AtomOp :=
  match op.toNat with
  | 0 => .swap
  | 1 => .add
  | 2 => .and
  | 3 => .or
  | 4 => .xor
  | 5 => if signed then .min else .minn
  | _ => if signed then .max else .maxn

def amofOp (bf : Bool) (op : BitVec 3) : AtomOp :=
  match op.toNat with
  | 0 => if bf then .faddBf16 else .faddF32
  | 1 => if bf then .fminBf16 else .fminF32
  | _ => if bf then .fmaxBf16 else .fmaxF32

def execAmoI32 (o : Amo) (s : State) : Host.Outcome State Fault Refusal :=
  runAct (atomicForm .int 4 true (amoOp true o.op) o.d o.a o.b o.qa o.qb o.ord o.sc false) s
def execAmoI64 (o : Amo) (s : State) : Host.Outcome State Fault Refusal :=
  runAct (atomicForm .int 8 false (amoOp true o.op) o.d o.a o.b o.qa o.qb o.ord o.sc false) s
def execAmoN32 (o : Amo) (s : State) : Host.Outcome State Fault Refusal :=
  runAct (atomicForm .int 4 false (amoOp false o.op) o.d o.a o.b o.qa o.qb o.ord o.sc false) s
def execAmoN64 (o : Amo) (s : State) : Host.Outcome State Fault Refusal :=
  runAct (atomicForm .int 8 false (amoOp false o.op) o.d o.a o.b o.qa o.qb o.ord o.sc false) s
def execCasN32 (o : Cas) (s : State) : Host.Outcome State Fault Refusal :=
  runAct (atomicForm .int 4 false .swap o.d o.a o.b o.qa o.qb o.ord o.sc true) s
def execCasN64 (o : Cas) (s : State) : Host.Outcome State Fault Refusal :=
  runAct (atomicForm .int 8 false .swap o.d o.a o.b o.qa o.qb o.ord o.sc true) s
def execAmofF32 (o : Amo) (s : State) : Host.Outcome State Fault Refusal :=
  runAct (atomicForm .f32 4 false (amofOp false o.op) o.d o.a o.b o.qa o.qb o.ord o.sc false) s
def execAmofBf16 (o : Amo) (s : State) : Host.Outcome State Fault Refusal :=
  runAct (atomicForm .bf16 2 false (amofOp true o.op) o.d o.a o.b o.qa o.qb o.ord o.sc false) s

end Sys2Proof.Machine
end

