-- ==== Sys2Proof/Machine/System.lean ====
section
/-! DEFINITION. Traps and returns, and the system registers (R40 to R43, R151 to R156, R306, R307). -/
namespace Sys2Proof.Machine

/-- TRAP n (R152): EPC = PC + 4. -/
def execTrap (n : BitVec 8) (s : State) : Host.Outcome State Fault Refusal :=
  .next (s.takeFault s.cur.ref ⟨Code.trap, n, 0, false⟩ (s.cur.pc + 4))

/-- ERET (R153). -/
def execEret (s : State) : Host.Outcome State Fault Refusal :=
  runAct (if s.cur.hd then modCur Context.leaveHandler else raise Code.illegalOp 6 0) s

/-- The system registers of R40; `absent` is an index that is not in the table. -/
inductive SysReg where
  | fcsr | vshape | wtro | wtok | wrdv | bankcfg (n : Nat) | scopepol | ctxid | instid | vfid | cycle | wdog | qb (n : Nat)
  | li (k : Nat) | epc | ecause | eval | tvec | rcba | rcbb | rcbc | rcbd | rcbqc | rcbqb | rcbu | rcbs | srama | absent
  deriving DecidableEq, Repr

/-- The register of an index (R40). -/
def sysRegOf (idx : BitVec 12) : SysReg :=
  let i := idx.toNat
  if 0x020 ≤ i ∧ i ≤ 0x02F then .bankcfg (i - 0x020)
  else if 0x050 ≤ i ∧ i ≤ 0x053 then .qb (i - 0x050)
  else if 0x060 ≤ i ∧ i ≤ 0x065 then .li (i - 0x060)
  else
    match i with
    | 0x001 => .fcsr
    | 0x002 => .vshape
    | 0x010 => .wtro
    | 0x011 => .wtok
    | 0x012 => .wrdv
    | 0x030 => .scopepol
    | 0x040 => .ctxid
    | 0x041 => .instid
    | 0x042 => .vfid
    | 0x043 => .cycle
    | 0x044 => .wdog
    | 0x070 => .epc
    | 0x071 => .ecause
    | 0x072 => .eval
    | 0x073 => .tvec
    | 0x080 => .rcba
    | 0x081 => .rcbb
    | 0x082 => .rcbc
    | 0x083 => .rcbd
    | 0x084 => .rcbqc
    | 0x085 => .rcbqb
    | 0x086 => .rcbu
    | 0x087 => .rcbs
    | 0x088 => .srama
    | _ => .absent

/-- "Present in" (R40). Step contexts execute no SYSR. -/
def SysReg.presentIn (r : SysReg) (k : Kind) : Bool :=
  match r with
  | .vshape | .qb _ => k == .ve
  | .bankcfg _ => k == .cc
  | .absent => false
  | .fcsr | .wtro | .wtok | .wrdv | .scopepol | .ctxid | .instid | .vfid | .cycle | .wdog | .li _ | .epc | .ecause | .eval | .tvec
  | .rcba | .rcbb | .rcbc | .rcbd | .rcbqc | .rcbqb | .rcbu | .rcbs | .srama => k != .se

/-- Access RW (R40). -/
def SysReg.writable (r : SysReg) : Bool :=
  match r with
  | .fcsr | .vshape | .bankcfg _ | .wdog | .qb _ | .epc | .tvec => true
  | .wtro | .wtok | .wrdv | .scopepol | .ctxid | .instid | .vfid | .cycle | .li _ | .ecause | .eval
  | .rcba | .rcbb | .rcbc | .rcbd | .rcbqc | .rcbqb | .rcbu | .rcbs | .srama | .absent => false

/-- Kind code of CTXID (R40). -/
def kindCode (k : Kind) : Nat :=
  match k with
  | .cc => 0
  | .ve => 1
  | .ce => 2
  | .he => 3
  | .se => 4

/-- The entries held of a route whose extension bank `b` is (R306): those beyond the 64 front entries. -/
def State.focc (s : State) (g b : Nat) : Nat :=
  (s.routes.filter (fun x => x.1 / 64 = g && x.2.ext = some b)).foldl (fun n x => n + (x.2.entries.length - 64)) 0

/-- BANKCFGn as it reads (R306). While BUSY is 1 it reads the mode and route in force before the switch: no rule says which (assumption 67, DESIGN
CHOICE). -/
def State.bankcfg (s : State) (g n : Nat) : Word :=
  let k := s.bank g n
  setField (setField (setField (setField 0 63 63 (if k.busy then 1 else 0)) 44 32 (if k.mode = 2 then s.focc g n else 0))
    13 8 (if k.mode = 2 then k.route else 0)) 1 0 k.mode

/-- A size field in KiB of the instance's scratchpad allotment (R311): the byte range, then each whole bank. -/
def Slot.sramKiB (x : Slot) : Nat := fieldN x.bind 799 768 + 1024 * popFromBank x
where
  popFromBank (x : Slot) : Nat := ((List.range 16).filter (fun b => x.bind.getLsbD (724 + b))).length

/-- The value SYSR reads (R30, R40 to R43). -/
def State.sysValue (s : State) (r : SysReg) : Word :=
  let c := s.cur
  let e (f : RcbField) : Nat := s.effOf c f
  let node := (s.slotOf c).bind (fun x => Tbl.get? s.rcbs x.rcbx)
  match r with
  | .fcsr => c.fcsr
  | .vshape => c.vshape
  | .wtro => c.wtro
  | .wtok => c.wtok
  | .wrdv => c.wrdv
  | .bankcfg n => s.bankcfg c.grp n
  | .scopepol => BitVec.ofNat 64 (s.scopePol (s.vfOf c.slot))
  | .ctxid => setField (setField 0 15 0 c.num) 18 16 (kindCode c.kind)
  | .instid =>
    match s.slotOf c with
    | some x => setField (setField (setField 0 15 0 x.lrec) 31 16 x.seq) 47 32 x.rcbx
    | none => 0
  | .vfid => BitVec.ofNat 64 (s.vfOf c.slot % 256)
  | .cycle => BitVec.ofNat 64 s.cycle
  | .wdog => c.wdog
  | .qb n => c.qb.toList.getD n 0
  | .li k => match c.loops[k]? with
    | some l => BitVec.ofNat 64 l.index
    | none => 0
  | .epc => c.epc
  | .ecause => c.ecause
  | .eval => c.eval
  | .tvec => c.tvec
  | .rcba =>
    setField (setField (setField (setField (setField (setField (setField 0 7 0 (e .share)) 10 8 (e .pclass)) 11 11 (e .fdom))
      12 12 (s.scopePol (s.vfOf c.slot))) 13 13 (e .qpol)) 33 14 (e .slice)) 53 34 (e .bindmax)
  | .rcbb => setField (setField (setField (setField 0 15 0 (e .coresb)) 31 16 (e .cengb)) 47 32 (e .hearthb)) 63 48 (e .outreq)
  | .rcbc => setField (setField (setField (setField 0 15 0 (e .trob)) 31 16 (e .tokb)) 47 32 (e .rdvb)) 63 48 (e .stepb)
  | .rcbd => BitVec.ofNat 64 (e .sramb)
  | .rcbqc => BitVec.ofNat 64 (e .qcyc)
  | .rcbqb => BitVec.ofNat 64 (e .qbytes)
  | .rcbu => BitVec.ofNat 64 (e .undob)
  | .rcbs =>
    match node with
    | some n => setField (setField (setField (setField 0 15 0 (fieldN n.bits 15 0)) 31 16 n.parent) 34 32 n.level) 47 40 n.vf
    | none => 0
  | .srama =>
    match s.slotOf c with
    | some x => BitVec.ofNat 64 (x.sramKiB % 2 ^ 32)
    | none => 0
  | .absent => 0

/-- A vector load outstanding, whose conversions have flags to accrue: SYSR and SYSW of fcsr wait for it, and for a CPYX (R107, R127, R259). -/
def Context.convPending (c : Context) : Option Dest :=
  (c.pend.find? (fun q => match q.what with
    | .value _ => false
    | .held => false
    | .load _ _ _ => false
    | .atomic _ _ _ _ _ _ => false
    | .vload _ _ _ _ => true)).map (·.dst)

/-- That wait. -/
def awaitConv : Act Unit := do
  let s ← get
  match s.cur.convPending with
  | some d => waitFor (.landed d)
  | none => waitIf (s.cur.copyq.any (fun e => e.op = .cpyx)) .copyFlags

/-- SYSR (R155). CYCLE is long-latency. -/
def execSysr (o : SysR) (s : State) : Host.Outcome State Fault Refusal :=
  runAct (do
    let r := sysRegOf o.idx
    raiseIf (!r.presentIn s.cur.kind) Code.illegalOp 0 0
    destReady o.d
    if r = .fcsr then awaitConv
    if r = .cycle then
      awaitPresented 7 s.cur.num 0
      writeSLate o.d 3 8 (s.returned (s.sysValue r))
      modify (fun s => s.capture (s.vfOf s.cur.slot) 7)
    else writeS o.d (s.sysValue r)
    advance) s

/-! ## Writes -/

/-- fcsr (R41): reserved bits and modes 6 and 7 are refused; a SEED of 0 loads 0x9E37_79B9. -/
def fcsrOk (x : Word) : Bool := x.extractLsb' 9 23 = 0 && !x.getLsbD 3 && decide ((x.extractLsb' 0 3).toNat ≤ 5)
def fcsrWrite (x : Word) : Word := if x.extractLsb' 32 32 = 0#32 then (0x9E3779B900000000 : Word) ||| x else x

/-- vshape (R42). -/
def vshapeOk (x : Word) : Bool :=
  let rows := fieldN x 4 0
  let cols := fieldN x 12 5
  let w := fieldN x 15 13
  decide (1 ≤ rows ∧ rows ≤ 16 ∧ 1 ≤ cols ∧ cols ≤ 128 ∧ w < 3 ∧ rows * cols * 2 ^ w ≤ 2048) && x.extractLsb' 16 48 == 0

def raiseReserved (eval : Word) : Act Unit := raise Code.reservedField 0 eval

/-- SYSW of the registers that have no form of their own (R156): vshape, WDOG, EPC and TVEC; the rest is refused as R40 says. -/
def syswPlain (idx : BitVec 12) (x : Word) : Act Unit :=
  match sysRegOf idx with
  | .vshape => if vshapeOk x then modCur (fun c => { c with vshape := x }) else raiseReserved x
  | .wdog => if 1 ≤ x.toNat ∧ x.toNat ≤ 2 ^ 20 then modCur (fun c => { c with wdog := x }) else raiseReserved x
  | .epc => if x.extractLsb' 0 2 = 0#2 then modCur (fun c => { c with epc := x }) else raiseReserved x
  | .tvec => if x.extractLsb' 0 2 = 0#2 then modCur (fun c => { c with tvec := x }) else raiseReserved x
  | .fcsr | .wtro | .wtok | .wrdv | .bankcfg _ | .scopepol | .ctxid | .instid | .vfid | .cycle | .qb _ | .li _ | .ecause | .eval
  | .rcba | .rcbb | .rcbc | .rcbd | .rcbqc | .rcbqb | .rcbu | .rcbs | .srama | .absent => pure ()

/-- A SYSW of vshape waits, as VSHAPE does, for every earlier tile or mask access (R187). -/
def tilesLanded (c : Context) : Bool :=
  c.pend.all (fun q => match q.dst with
    | .tile _ => false
    | .mask _ => false
    | .s _ => true
    | .none => true)

def execSysw (o : SysW) (s : State) : Host.Outcome State Fault Refusal :=
  runAct (do
    let r := sysRegOf o.idx
    raiseIf (!r.presentIn s.cur.kind) Code.illegalOp 0 0
    raiseIf (!r.writable) Code.privilege 0 0
    let x ← readSrc o.a o.qa
    waitIf (r = .vshape && !tilesLanded s.cur) .allLanded
    syswPlain o.idx x
    advance) s

/-- SYSW of fcsr (R41): instructions issued earlier have taken their draws and flags (R107). -/
def execSyswFcsr (o : RA) (s : State) : Host.Outcome State Fault Refusal :=
  runAct (do
    let x ← readSrc o.a o.qa
    awaitConv
    if fcsrOk x then modCur (fun c => { c with fcsr := fcsrWrite x }) else raiseReserved x
    advance) s

/-- The instance owns route r of its group (R169, R307). -/
def State.ownsRoute (s : State) (slot g r : Nat) : Bool :=
  match Tbl.get? s.routes (g * 64 + r) with
  | some x => x.owner = slot
  | none => false

/-- A configured trough has a slot in bank b of group g (R307 check 3): its slots' addresses, from the owner's allotment (R311). -/
def Slot.allotPa (x : Slot) (off : Nat) : Nat :=
  let g := grpOfCore x.ccore
  let base := 0x400000000000 + g * 2 ^ 24
  let span := 1024 * fieldN x.bind 799 768
  if off < span then base + 1024 * fieldN x.bind 753 740 + off
  else
    match ((List.range 16).filter (fun b => x.bind.getLsbD (724 + b)))[(off - span) / 2 ^ 20]? with
    | some b => base + b * 2 ^ 20 + (off - span) % 2 ^ 20
    | none => base

def State.troughInBank (s : State) (g b : Nat) : Bool :=
  s.troughs.any (fun x => x.1 / 1024 = g && x.2.conf &&
    (match Tbl.get? s.slots x.2.owner with
     | some o => (List.range x.2.cap).any (fun i =>
        let lo := o.allotPa (x.2.base + i * x.2.slotBytes)
        let hi := o.allotPa (x.2.base + i * x.2.slotBytes + x.2.slotBytes - 1)
        paKind lo = .sram g b || paKind hi = .sram g b)
     | none => false))

/-- A route has, or is being given, an extension in another bank than b (R307 check 2). -/
def State.extendedElsewhere (s : State) (g route b : Nat) : Bool :=
  (Tbl.get? s.routes (g * 64 + route)).any (fun r => r.ext.any (fun k => k != b)) ||
  s.banks.any (fun k => k.1 / 16 = g && k.1 % 16 ≠ b && k.2.busy && k.2.toMode = 2 && k.2.toRoute = route)

/-- SYSW of BANKCFGn (R307): waits while BUSY, checks, then starts the switch. -/
def execSyswBankcfg (o : SysWN 4) (s : State) : Host.Outcome State Fault Refusal :=
  runAct (do
    raiseIf (s.cur.kind != .cc) Code.illegalOp 0 0
    let x ← readSrc o.a o.qa
    let g := s.cur.grp
    let b := o.n.toNat
    let k := s.bank g b
    waitIf k.busy (.bankIdle g b)
    let mode := fieldN x 1 0
    let route := fieldN x 13 8
    raiseIf (mode == 3 || x.extractLsb' 2 6 != 0 || x.extractLsb' 14 18 != 0 || x.extractLsb' 45 18 != 0) Code.reservedField 0 x
    match s.slotOf s.cur with
    | none => raise Code.permission 2 x
    | some sl =>
      raiseIf (!sl.bind.getLsbD (724 + b)) Code.permission 2 x
      raiseIf (route != 0 && mode != 2) Code.reservedField 0 x
      raiseIf (mode == 2 && !s.ownsRoute s.cur.slot g route) Code.permission 2 x
      raiseIf (mode == 2 && s.extendedElsewhere g route b) Code.reservedField 0 x
      raiseIf (k.mode == 1 && mode != 1 && s.troughInBank g b) Code.permission 2 x
      if mode = k.mode ∧ (mode ≠ 2 ∨ (route = k.route ∧ k.attached)) then pure ()
      else
        modify (fun s =>
          let k' : Bank := { k with busy := true, toMode := mode, toRoute := route, by_ := some s.cur.ref, since := s.cycle, bound := s.cur.wdog.toNat * 1024 }
          { s with banks := Tbl.set s.banks (bankKey g b) k' })
      advance) s

/-- A binding to a route whose endpoint in the binding's direction is this engine's vector stream port (R168, R210). -/
def State.streamEndpoint (s : State) (c : Context) (x : Word) : Bool :=
  match Tbl.get? s.routes (c.grp * 64 + fieldN x 7 0) with
  | some r => decide (fieldN x 7 0 < 64) && r.owner = c.slot && (let e := if x.getLsbD 62 then r.src else r.dst; e.code = 1 && e.unit = c.engine % 4)
  | none => false

/-- SYSW of QBn (R43): reserved fields, a trough outside the window, a route or stream in use. A binding with EN = 0 binds nothing, and its trough
INDEX is not checked: the rule does not say whether it is (assumption 80, DESIGN CHOICE). -/
def execSyswQb (o : SysWN 2) (s : State) : Host.Outcome State Fault Refusal :=
  runAct (do
    raiseIf (s.cur.kind != .ve) Code.illegalOp 0 0
    let x ← readSrc o.a o.qa
    raiseIf (x.extractLsb' 8 52 != 0 || x.getLsbD 61) Code.reservedField 0 x
    if x.getLsbD 63 && !x.getLsbD 60 then
      let _ ← relocate s.cur.wtro (x.extractLsb' 0 8)
    raiseIf (x.getLsbD 63 && x.getLsbD 60 && !s.streamEndpoint s.cur x) Code.permission 2 x
    modCur (fun c => { c with qb := c.qb.set o.n.toNat x o.n.isLt })
    advance) s

end Sys2Proof.Machine
end

