-- ==== Sys2Proof/Machine/Trough.lean ====
section
/-! DEFINITION. Troughs (R44, R165 to R167, R311 to R314). -/
namespace Sys2Proof.Machine

def troughKey (g t : Nat) : Nat := g * 1024 + t

/-- An unconfigured trough of a declaration, as a bind leaves it (R49, R165). -/
def Trough.blank (owner : Nat) (d : TroughDecl) : Trough :=
  ⟨0, d.slots, d.slotBytes, d.dev, false, false, 0, 0, 0, 0, List.replicate d.slots .free, List.replicate d.slots 0, List.replicate d.slots 0, owner, .reset, .reset⟩

def Trough.count (t : Trough) (x : SlotState) : Nat := (t.slots.filter (fun y => y = x)).length
def Trough.slotAt (t : Trough) (i : Nat) : SlotState := t.slots.getD i .free
def Trough.setSlot (t : Trough) (i : Nat) (x : SlotState) : Trough := { t with slots := t.slots.set i x }
/-- Slots head mod C and tail mod C (R165). -/
def Trough.headSlot (t : Trough) : Nat := t.head % t.cap
def Trough.tailSlot (t : Trough) : Nat := t.tail % t.cap
def Trough.scope (t : Trough) : Scope := if t.dev then .dev else .grp

/-- The invariants of R166. -/
def Trough.consistent (t : Trough) : Bool :=
  t.count .free + t.count .filling + t.count .full + t.count .draining == t.cap &&
  (t.head + 2 * t.cap - t.tail) % (2 * t.cap) == t.claimed + t.filled

/-- The transitions of R165 on the descriptor. -/
def Trough.claim (t : Trough) : Trough :=
  { t.setSlot t.headSlot .filling with head := (t.head + 1) % (2 * t.cap), claimed := t.claimed + 1 }
def Trough.fill (t : Trough) (i : Nat) (n : BitVec 32) (cycle : Nat) : Trough :=
  { t.setSlot i .full with counts := t.counts.set i n, filledAt := t.filledAt.set i (cycle + 1), claimed := t.claimed - 1, filled := t.filled + 1 }
def Trough.take (t : Trough) : Trough :=
  { t.setSlot t.tailSlot .draining with tail := (t.tail + 1) % (2 * t.cap), filled := t.filled - 1 }
def Trough.release (t : Trough) (i : Nat) : Trough := t.setSlot i .free

/-- Slot tail may be taken in a cycle: it is FULL, and not only by fills of this very cycle (R166, R213). -/
def Trough.takeable (t : Trough) (cycle : Nat) : Bool :=
  t.slotAt t.tailSlot == .full && (List.range t.cap).any (fun i => t.slotAt i == .full && decide (t.filledAt.getD i 0 ≤ cycle))

/-- tail moves past FREE and DRAINING slots, at most `n` of them (R167). -/
def Trough.skipTail (t : Trough) : Nat → Trough
  | 0 => t
  | n + 1 =>
    if t.slotAt t.tailSlot = .free ∨ t.slotAt t.tailSlot = .draining then
      Trough.skipTail { t with tail := (t.tail + 1) % (2 * t.cap) } n
    else t

/-- TRESYNC (R167). -/
def Trough.resync (t : Trough) : Trough :=
  let t1 := { t with claimed := t.count .filling, filled := t.count .full }
  let t2 := if 0 < t1.claimed + t1.filled then t1.skipTail (t.cap - 1) else t1
  { t2 with head := (t2.tail + t2.claimed + t2.filled) % (2 * t2.cap), inc := false }

/-- A wait that began in this cycle ends in it, and the context may issue again: what it asked for and what it needed fell in one cycle (R166, R315). -/
def State.wakeNow (s : State) (w : WaitCond) : State :=
  let f (c : Context) : Context :=
    if c.phase = .waiting ∧ c.wait.any (fun x => x.cond = w && x.since = s.cycle) then { c with phase := .ready, wait := none, lastIssue := s.cycle } else c
  { s with cur := f s.cur, parked := s.parked.map f }

/-! ## Requests of one cycle (R313) -/

/-- Positions of a trough's numbering: 34, or those of all 32 groups. -/
def Trough.positions (t : Trough) : Nat := if t.dev then 1088 else 34

/-- A context's position: control contexts, then vector contexts by core and slot, then copy contexts by engine and slot. -/
def Trough.position (t : Trough) (c : Context) : Nat :=
  let k := match c.kind with
    | .cc => c.engine % 4
    | .ve => 4 + 4 * (c.engine % 4) + c.engSlot
    | .ce => 20 + 4 * (c.engine % 2) + c.engSlot
    | .he | .se => 0
  (if t.dev then 34 * c.grp else 0) + k

/-- The position of a Hearth edge of a group. -/
def Trough.edgePosition (t : Trough) (g edge : Nat) : Nat := (if t.dev then 34 * g else 0) + 28 + edge

/-- The pointer at its first request of a cycle: it has moved on by one position if two or more requests met in the cycle before. -/
def Ranked.roll (r : Ranked) (size cycle : Nat) : Ranked :=
  if r.cycle = cycle + 1 then r else ⟨if 2 ≤ r.met then (r.ptr + 1) % size else r.ptr, cycle + 1, 0, 0⟩

/-- A position's rank from the pointer on. -/
def Ranked.rank (r : Ranked) (size pos : Nat) : Nat := (pos + size - r.ptr % size) % size

/-- A request of a position may still be served in this cycle: none behind it has been. -/
def Ranked.open_ (r : Ranked) (size pos cycle : Nat) : Bool := decide ((r.roll size cycle).last ≤ (r.roll size cycle).rank size pos)

/-- A request met, and served or not. -/
def Ranked.meet (r : Ranked) (size pos cycle : Nat) (served : Bool) : Ranked :=
  let q := r.roll size cycle
  { q with met := q.met + 1, last := if served then q.rank size pos + 1 else q.last }

/-- A claim, or a take, by the requester at a position. -/
def Trough.claimBy (t : Trough) (pos cycle : Nat) : Trough := { t.claim with claimPtr := t.claimPtr.meet t.positions pos cycle true }
def Trough.takeBy (t : Trough) (pos cycle : Nat) : Trough := { t.take with takePtr := t.takePtr.meet t.positions pos cycle true }
def Trough.mayClaim (t : Trough) (pos cycle : Nat) : Bool := t.claimPtr.open_ t.positions pos cycle
def Trough.mayTake (t : Trough) (pos cycle : Nat) : Bool := t.takePtr.open_ t.positions pos cycle

def State.setTrough (s : State) (k : Nat) (t : Trough) : State := { s with troughs := Tbl.set s.troughs k t }

/-- The trough an instruction names (R48, R311), usable by this context (R312). A trough of another instance is no trough of the window. -/
def troughNamed (i : BitVec 8) : Act (Nat × Trough) := do
  let s ← get
  let n ← relocate s.cur.wtro i
  let g := s.homeGrp s.cur.slot
  match Tbl.get? s.troughs (troughKey g n) with
  | none => raise Code.troughState 0 0
  | some t =>
    raiseIf (!t.dev && s.cur.grp != g) Code.permission 2 (i.setWidth 64)
    pure (troughKey g n, t)

/-- A configured trough whose INC is 0 (R165, R166). -/
def troughReady (i : BitVec 8) : Act (Nat × Trough) := do
  let (k, t) ← troughNamed i
  raiseIf (!t.conf) Code.troughState 0 0
  raiseIf t.inc Code.troughInconsistent 0 0
  pure (k, t)

/-- Every update first checks the invariants; a failed check sets INC and raises TROUGH_INCONSISTENT (R166). -/
def troughUpdate (k : Nat) (t : Trough) (f : Trough → Trough) : Act Unit := do
  if t.consistent then modify (fun s => s.setTrough k (f t))
  else
    modify (fun s => s.setTrough k { t with inc := true })
    raiseKept Code.troughInconsistent 0 0

/-- A slot word: index in [11:0], byte count in [63:32] (R165). -/
def slotWord (i : Nat) (n : BitVec 32) : Word := n ++ BitVec.ofNat 32 i

/-- TCFG (R165). -/
def execTcfg (o : ObjA) (s : State) : Host.Outcome State Fault Refusal :=
  runAct (do
    let x ← readSrc o.a o.qa
    let (k, t) ← troughNamed o.t
    raiseIf (t.slots.any (fun y => y != .free)) Code.troughState 0 0
    let span := match s.slotOf s.cur with
      | some sl => 1024 * sl.sramKiB
      | none => 0
    raiseIf (decide (x.toNat % 32 ≠ 0 ∨ span < x.toNat + t.cap * t.slotBytes)) Code.permission 2 x
    modify (fun s => s.setTrough k { t with
      base := x.toNat, conf := true, inc := false, head := 0, tail := 0, claimed := 0, filled := 0
      counts := t.counts.map (fun _ => 0), claimPtr := .reset, takePtr := .reset })
    advance) s

/-- A claim, or a take, of the current context: in its turn among the requests of the cycle, once the slot is there (R165, R313). -/
def awaitClaim (k : Nat) (t : Trough) : Act Unit := do
  let s ← get
  let p := t.position s.cur
  if t.slotAt t.headSlot != .free then
    modify (fun s => s.setTrough k { t with claimPtr := t.claimPtr.meet t.positions p s.cycle false })
    waitKeep (.troughFree (k / 1024) (k % 1024))
  else waitIf (!t.mayClaim p s.cycle) (.cycleAfter s.cycle)

def awaitTake (k : Nat) (t : Trough) : Act Unit := do
  let s ← get
  let p := t.position s.cur
  if !t.takeable s.cycle then
    modify (fun s => s.setTrough k { t with takePtr := t.takePtr.meet t.positions p s.cycle false })
    waitKeep (.troughFull (k / 1024) (k % 1024))
  else waitIf (!t.mayTake p s.cycle) (.cycleAfter s.cycle)

/-- TCLAIM (R165). -/
def execTclaim (o : ObjD) (s : State) : Host.Outcome State Fault Refusal :=
  runAct (do
    destReady o.d
    let (k, t) ← troughReady o.t
    awaitClaim k t
    let s ← get
    troughUpdate k t (fun t => t.claimBy (t.position s.cur) s.cycle)
    transitionAcquire false
    writeS o.d (BitVec.ofNat 64 t.headSlot)
    advance) s

/-- TFILL (R165). -/
def execTfill (o : ObjA) (s : State) : Host.Outcome State Fault Refusal :=
  runAct (do
    let x ← readSrc o.a o.qa
    let (k, t) ← troughReady o.t
    raiseIf (x.extractLsb' 12 20 != 0) Code.reservedField 0 x
    let i := fieldN x 11 0
    raiseIf (decide (t.cap ≤ i) || t.slotAt i != .filling || decide (t.slotBytes < fieldN x 63 32)) Code.troughState 0 0
    awaitRelease t.scope false
    troughUpdate k t (fun t => t.fill i (x.extractLsb' 32 32) s.cycle)
    advance) s

/-- TTAKE (R165). -/
def execTtake (o : ObjD) (s : State) : Host.Outcome State Fault Refusal :=
  runAct (do
    destReady o.d
    let (k, t) ← troughReady o.t
    awaitTake k t
    troughUpdate k t (fun t => t.takeBy (t.position s.cur) s.cycle)
    transitionAcquire false
    writeS o.d (slotWord t.tailSlot (t.counts.getD t.tailSlot 0))
    advance) s

/-- TRELEASE (R165). -/
def execTrelease (o : ObjA) (s : State) : Host.Outcome State Fault Refusal :=
  runAct (do
    let x ← readSrc o.a o.qa
    let (k, t) ← troughReady o.t
    raiseIf (x.extractLsb' 12 20 != 0) Code.reservedField 0 x
    let i := fieldN x 11 0
    raiseIf (decide (t.cap ≤ i) || t.slotAt i != .draining) Code.troughState 0 0
    awaitRelease t.scope false
    troughUpdate k t (fun t => t.release i)
    modify (fun s => s.wakeNow (.troughFree (k / 1024) (k % 1024)))
    advance) s

/-- TWAITF and TWAITE (R165). -/
def execTwaitf (i : BitVec 8) (s : State) : Host.Outcome State Fault Refusal :=
  runAct (do
    let (k, t) ← troughReady i
    waitIf (!t.takeable s.cycle) (.tailFull (k / 1024) (k % 1024))
    advance) s

def execTwaite (i : BitVec 8) (s : State) : Host.Outcome State Fault Refusal :=
  runAct (do
    let (k, t) ← troughReady i
    waitIf (t.slotAt t.headSlot != .free) (.headFree (k / 1024) (k % 1024))
    advance) s

/-- TSTAT's word (R167). -/
def Trough.stat (t : Trough) : Word :=
  setField (setField (setField (setField (setField (setField 0 63 63 (if t.conf then 1 else 0)) 62 62 (if t.inc then 1 else 0))
    60 48 t.filled) 44 32 t.claimed) 28 16 t.tail) 12 0 t.head

def execTstat (o : ObjD) (s : State) : Host.Outcome State Fault Refusal :=
  runAct (do
    destReady o.d
    let (_, t) ← troughNamed o.t
    writeS o.d t.stat
    advance) s

/-- TRESYNC (R167). -/
def execTresync (i : BitVec 8) (s : State) : Host.Outcome State Fault Refusal :=
  runAct (do
    let (k, t) ← troughNamed i
    raiseIf (!t.conf) Code.troughState 0 0
    modify (fun s => s.setTrough k t.resync)
    advance) s

end Sys2Proof.Machine
end

