-- ==== Sys2Proof/Machine/Route.lean ====
section
/-! DEFINITION. Stream-switch routes and their FIFOs (R168, R169, R315 to R317). -/
namespace Sys2Proof.Machine

/-- Whether an endpoint code and unit are defined, and its directions: source, destination (R168). -/
def endpointDirs (e : Endpoint) : Option (Bool × Bool) :=
  match e.code with
  | 0x01 => if e.unit < 4 then some (true, true) else none
  | 0x02 => if e.unit < 2 then some (true, true) else none
  | 0x10 | 0x11 | 0x12 | 0x13 => if e.unit = 0 then some (false, true) else none
  | 0x14 | 0x15 => if e.unit = 0 then some (true, false) else none
  | _ => none

/-- An endpoint value: CODE [7:0], UNIT [11:8] (R168). -/
def endpointOf (x : Word) : Endpoint := ⟨fieldN x 7 0, fieldN x 11 8⟩

/-- The bind record gives the instance the endpoint's engine or Hearth (R168). -/
def Slot.holdsEndpoint (x : Slot) (g : Nat) (e : Endpoint) : Bool :=
  match e.code with
  | 0x01 => x.cmask.getLsbD (4 * g + e.unit)
  | 0x02 => x.emask.getLsbD (2 * g + e.unit)
  | _ => x.hmask.getLsbD g

/-- Routes an endpoint may carry in one direction (R168). -/
def endpointLimit (e : Endpoint) : Nat := if e.code < 0x10 then 4 else 1

def routeKey (g r : Nat) : Nat := g * 64 + r
def State.routesOfGroup (s : State) (g : Nat) : List (Nat × Route) := s.routes.filter (fun x => x.1 / 64 = g)

/-- A route's FIFO depth: 64 entries, and 4,096 more with an extension (R309, R315). -/
def Route.depth (r : Route) : Nat := if r.ext.isSome then 4160 else 64

/-- SWROUTE (R168). -/
def execSwroute (o : RRR) (s : State) : Host.Outcome State Fault Refusal :=
  runAct (do
    destReady o.d
    let x ← readSrc o.a o.qa
    let y ← readSrc o.b o.qb
    raiseIf (x.extractLsb' 12 52 != 0) Code.reservedField 0 x
    raiseIf (y.extractLsb' 12 52 != 0) Code.reservedField 0 y
    let s ← get
    let a := endpointOf x
    let b := endpointOf y
    raiseIf ((endpointDirs a).all (fun d => !d.1)) Code.reservedField 0 x
    raiseIf ((endpointDirs b).all (fun d => !d.2)) Code.reservedField 0 y
    let g := s.cur.grp
    match s.slotOf s.cur with
    | none => raise Code.permission 2 x
    | some sl =>
      raiseIf (!sl.holdsEndpoint g a) Code.permission 2 x
      raiseIf (!sl.holdsEndpoint g b) Code.permission 2 y
      let all := s.routesOfGroup g
      raiseIf (decide (endpointLimit a ≤ (all.filter (fun r => r.2.src = a)).length)) Code.illegalOp 9 0
      raiseIf (decide (endpointLimit b ≤ (all.filter (fun r => r.2.dst = b)).length)) Code.illegalOp 9 0
      raiseIf (hbound s g a) Code.illegalOp 9 0
      raiseIf (hbound s g b) Code.illegalOp 9 0
      let r ← pickFree ((List.range 64).filter (fun r => (Tbl.get? s.routes (routeKey g r)).isNone))
      match r with
      | none => writeS o.d (BitVec.allOnes 64)
      | some r =>
        modify (fun s => { s with routes := Tbl.set s.routes (routeKey g r) ⟨s.cur.slot, a, b, [], none, 0, none⟩ })
        writeS o.d (BitVec.ofNat 64 r)
      advance) s
where
  /-- A Hearth edge that HBIND has bound to a trough (R244). -/
  hbound (s : State) (g : Nat) (e : Endpoint) : Bool :=
    decide (0x10 ≤ e.code) && ((Tbl.get? s.hearths g).any (fun h => (Tbl.get? h.binds (e.code - 0x10)).isSome))

/-- Every loop whose source is a route of the group is unbound (R169). -/
def State.unbindRoute (s : State) (g r : Nat) : State :=
  { s with rates := s.rates.filter (fun x => !(x.1 / 32 = g && x.2.route && x.2.src = r)) }

/-- EN is cleared in every QB register of the instance that binds the route (R169). -/
def clearQb (r : Nat) (c : Context) : Context :=
  { c with qb := c.qb.map (fun q => if q.getLsbD 60 ∧ fieldN q 7 0 = r then q &&& 0x7FFFFFFFFFFFFFFF else q) }

/-- A route freed: its loops, its QB bindings; its extension bank stays in FIFO mode with no route attached (R169, R309). -/
def State.freeRoute (s : State) (g r : Nat) : State :=
  match Tbl.get? s.routes (routeKey g r) with
  | none => s
  | some x =>
    let s1 := (s.unbindRoute g r)
    let s2 := { s1 with
      routes := Tbl.del s1.routes (routeKey g r)
      cur := if s1.cur.slot = x.owner ∧ s1.cur.grp = g then clearQb r s1.cur else s1.cur
      parked := s1.parked.map (fun c => if c.slot = x.owner ∧ c.grp = g then clearQb r c else c) }
    match x.ext with
    | some b => { s2 with banks := Tbl.set s2.banks (bankKey g b) { s2.bank g b with attached := false } }
    | none => s2

/-- SWDROP (R169). -/
def execSwdrop (o : RA) (s : State) : Host.Outcome State Fault Refusal :=
  runAct (do
    let x ← readSrc o.a o.qa
    let g := s.cur.grp
    raiseIf (decide (64 ≤ x.toNat) || !s.ownsRoute s.cur.slot g x.toNat) Code.permission 2 x
    waitIf (match Tbl.get? s.routes (routeKey g x.toNat) with
      | some r => !r.entries.isEmpty || r.partway.isSome
      | none => false) (.routeEmpty g x.toNat)
    modify (fun s => s.freeRoute g x.toNat)
    advance) s

/-! ## FIFO moves (R315, R316) -/

/-- A context's issue weight: the least its active loops give it, else 16 (R173). -/
def State.issueWeight (s : State) (c : Context) : Nat :=
  let ws := s.rates.filterMap (fun x =>
    if x.2.set && x.2.owner = c.slot then
      if x.2.prod = c.num then some x.2.wp else if x.2.cons = c.num then some x.2.wc else none
    else none)
  ws.foldl min (ws.headD 16)

/-- The counter after an entry is served: refilled by the weight while it is below 16, then 16 taken (R317). -/
def Route.served (r : Route) (w : Nat) : Route := { r with counter := r.counter + (16 - r.counter + w - 1) / w * w - 16 }

/-- The counters of an engine, by its number in `Loc` (R317, R333). -/
def State.arb (s : State) (eng : Nat) : Arb := (Tbl.get? s.arbs (eng - 128)).getD ⟨[], 0, [], 63⟩

/-- The stream port of the current context has served a route (R317). -/
def State.portServed (s : State) (k : Nat) : State :=
  let eng := (s.locOf s.cur).eng
  { s with arbs := Tbl.set s.arbs (eng - 128) { s.arb eng with lastRoute := k } }

/-- An entry pushed in this cycle by a context or a Hearth; at a vector port the current context produces it. -/
def State.pushRoute (s : State) (by_ : CtxRef) (k : Nat) (bs : List Byte) (unitEnd : Bool) : State :=
  match Tbl.get? s.routes k with
  | none => s
  | some r =>
    let r1 := if r.src.code = 1 then r.served (s.issueWeight s.cur) else r
    let s1 := if r.src.code = 1 then s.portServed k else s
    { s1 with routes := Tbl.set s.routes k { r1 with entries := r.entries ++ [⟨bs, unitEnd, s.cycle⟩], partway := if unitEnd then none else some by_ } }

/-- The oldest entry, if it was pushed in an earlier cycle (R315). -/
def State.routeHead (s : State) (k : Nat) : Option RouteEntry :=
  match Tbl.get? s.routes k with
  | none => none
  | some r => (r.entries.head?).filter (fun e => decide (e.pushed < s.cycle))

def State.popRoute (s : State) (k : Nat) : State :=
  match Tbl.get? s.routes k with
  | none => s
  | some r => ({ s with routes := Tbl.set s.routes k { r with entries := r.entries.drop 1 } } : State).wakeNow (.routeRoom (k / 64) (k % 64))

/-- Room for one entry of a producer: no other has pushed part of a unit (R315, R316). -/
def State.routeHasRoom (s : State) (by_ : CtxRef) (k : Nat) : Bool :=
  match Tbl.get? s.routes k with
  | none => false
  | some r => decide (r.entries.length < r.depth) && r.partway.all (fun p => p = by_)

end Sys2Proof.Machine
end

