-- ==== Sys2Proof/Machine/Special.lean ====
section
/-! DEFINITION. The special functions of R191: exact where the value is rational, else an interior point of the interval that holds
the value, 256 bits below the binary point, which rounds as the value does in every mode (assumption 14). -/
namespace Sys2Proof.Machine

/-- Fraction bits of the fixed-point numbers below. -/
def fxBits : Nat := 256
def fxOne : Nat := 2 ^ fxBits
def fxMul (x y : Nat) : Nat := x * y / fxOne

/-- Σ z^(2k+1) / (2k+1) from term k on: the area hyperbolic tangent. -/
def atanhFrom (z2 : Nat) : Nat → Nat → Nat → Nat
  | 0, _, _ => 0
  | n + 1, k, t => t / (2 * k + 1) + atanhFrom z2 n (k + 1) (fxMul t z2)

/-- ln y for y = a / b in 1 to 2. -/
def fxLn (a b : Nat) : Nat :=
  let z := (a - b) * fxOne / (a + b)
  2 * atanhFrom (fxMul z z) 170 0 z

def fxLn2 : Nat := fxLn 2 1

/-- Σ x^k / k! from term k on, for x in 0 to 1. -/
def expFrom (x : Nat) : Nat → Nat → Nat → Nat
  | 0, _, _ => 0
  | n + 1, k, t => t + expFrom x n (k + 1) (fxMul t x / (k + 1))

def fxExp (x : Nat) : Nat := expFrom x 80 0 fxOne

/-- An interior point just above x × 2^−256. -/
def above (x : Nat) (e : Int) : FVal := .num (2 * x + 1) (e - fxBits - 1)

/-- A value so large, or so small, that it rounds as any value beyond the formats' range does (R106, R108). -/
def hugeVal (neg : Bool) : FVal := .num (if neg then -3 else 3) 5000
def tinyVal (neg : Bool) : FVal := .num (if neg then -3 else 3) (-5000)

/-- e^x for x = n × 2^e ≥ 0, as mantissa in fixed point and exponent: x = j ln 2 + r. -/
def fxExpOf (n : Nat) (e : Int) : Nat × Nat :=
  let x := if 0 ≤ e then n * 2 ^ e.toNat * fxOne else n * fxOne / 2 ^ (-e).toNat
  (fxExp (x % fxLn2), x / fxLn2)

/-- floor(log2 |x|). -/
def magn (m e : Int) : Int := e + ilog m

/-- 2^a (R191). -/
def fExp2 (a : FVal) : FVal × Flags :=
  match a with
  | .nan _ => (.nan false, a.sigFlag)
  | .zero _ => (.num 1 0, 0)
  | .inf neg => (if neg then .zero false else .inf false, 0)
  | .num m e =>
    if 12 ≤ magn m e then (if m < 0 then tinyVal false else hugeVal false, 0)
    else
      let (lo, r, k) := scaleTo m e 0
      if r = 0 then (.num 1 lo, 0)
      else (above (fxExp (fxMul (r * fxOne / 2 ^ k) fxLn2)) lo, 0)

/-- log2 a (R191). -/
def fLog2 (a : FVal) : FVal × Flags :=
  match a with
  | .nan _ => (.nan false, a.sigFlag)
  | .zero _ => (.inf true, flDZ)
  | .inf neg => if neg then (.nan false, flNV) else (.inf false, 0)
  | .num m e =>
    if m < 0 then (.nan false, flNV)
    else
      let l := ilog m
      let k : Int := e + l
      if m = 2 ^ l then (FVal.ofDyadic k 0, 0)
      else
        let f := fxLn m.toNat (2 ^ l) * fxOne / fxLn2
        (.num (2 * (k * fxOne + f) + 1) (-(fxBits : Int) - 1), 0)

/-- 1 / a (R191). -/
def fRcp (a : FVal) : FVal × Flags :=
  match a with
  | .nan _ => (.nan false, a.sigFlag)
  | .zero neg => (.inf neg, flDZ)
  | .inf neg => (.zero neg, 0)
  | .num m e =>
    let n := m.natAbs
    let q := fxOne / n
    let sg : Int := if m < 0 then -1 else 1
    if q * n = fxOne then (.num (sg * q) (-(fxBits : Int) - e), 0)
    else (.num (sg * (2 * q + 1)) (-(fxBits : Int) - 1 - e), 0)

/-- Integer square root by bits from 2^k down. -/
def isqrtFrom (n : Nat) : Nat → Nat → Nat
  | 0, acc => if (acc + 1) * (acc + 1) ≤ n then acc + 1 else acc
  | k + 1, acc => isqrtFrom n k (if (acc + 2 ^ (k + 1)) * (acc + 2 ^ (k + 1)) ≤ n then acc + 2 ^ (k + 1) else acc)

/-- 1 / √a (R191). -/
def fRsqrt (a : FVal) : FVal × Flags :=
  match a with
  | .nan _ => (.nan false, a.sigFlag)
  | .zero neg => (.inf neg, flDZ)
  | .inf neg => if neg then (.nan false, flNV) else (.zero false, 0)
  | .num m e =>
    if m < 0 then (.nan false, flNV)
    else
      let n := if e % 2 = 0 then m.toNat else 2 * m.toNat
      let h : Int := if e % 2 = 0 then e / 2 else (e - 1) / 2
      let q := isqrtFrom (2 ^ (2 * fxBits) / n) 257 0
      if q * q * n = 2 ^ (2 * fxBits) then (.num q (-(fxBits : Int) - h), 0)
      else (.num (2 * q + 1) (-(fxBits : Int) - 1 - h), 0)

/-- tanh a = 1 − 2 / (e^2a + 1) (R191). -/
def fTanh (a : FVal) : FVal × Flags :=
  match a with
  | .nan _ => (.nan false, a.sigFlag)
  | .zero neg => (.zero neg, 0)
  | .inf neg => (.num (if neg then -1 else 1) 0, 0)
  | .num m e =>
    let sg : Int := if m < 0 then -1 else 1
    if 5 ≤ magn m e then (.num (sg * (2 ^ 64 - 1)) (-64), 0)
    else if magn m e < -40 then (.num (m * 2 ^ 64 - sg) (e - 64), 0)
    else
      let (t, j) := fxExpOf m.natAbs (e + 1)
      let d := t * 2 ^ j + fxOne
      (.num (sg * (2 * (fxOne - 2 * fxOne * fxOne / d : Nat) - 1)) (-(fxBits : Int) - 1), 0)

/-- 1 / (1 + e^−a) (R191). -/
def fSigm (a : FVal) : FVal × Flags :=
  match a with
  | .nan _ => (.nan false, a.sigFlag)
  | .zero _ => (.num 1 (-1), 0)
  | .inf neg => (if neg then .zero false else .num 1 0, 0)
  | .num m e =>
    if 8 ≤ magn m e then (if m < 0 then tinyVal false else .num (2 ^ 64 - 1) (-64), 0)
    else
      let (t, j) := fxExpOf m.natAbs e
      let d := t * 2 ^ j + fxOne
      if m < 0 then (.num (2 * (fxOne * 2 ^ 512 * fxOne / (d * fxOne) : Nat) + 1) (-513), 0)
      else (.num (2 * (t * 2 ^ j * fxOne / d : Nat) + 1) (-(fxBits : Int) - 1), 0)

end Sys2Proof.Machine
end

