-- ==== Sys2Proof/Machine/Vector.lean ====
section
/-! DEFINITION. The vector element instructions (R184 to R204): shapes, masks and the tile scoreboard, floating and integer element
operations, comparisons, reductions, conversions, rearrangements, and the address slots. -/
namespace Sys2Proof.Machine

/-! ## Tiles (R42, R184) -/

/-- The shape: rows, columns and element width in bytes. -/
structure Shape where
  rows : Nat
  cols : Nat
  w : Nat
  deriving DecidableEq, Repr

def Context.shape (c : Context) : Shape := ⟨fieldN c.vshape 4 0, fieldN c.vshape 12 5, 2 ^ fieldN c.vshape 15 13⟩
def Shape.size (h : Shape) : Nat := h.rows * h.cols
/-- Element positions in element order; position k is row k / COLS, column k mod COLS. -/
def Shape.poss (h : Shape) : List Nat := List.range h.size

def Context.tile (c : Context) (n : BitVec 4) : Tile := c.v[n.toNat]'n.isLt
def Context.setTile (c : Context) (n : BitVec 4) (t : Tile) : Context := { c with v := c.v.set n.toNat t n.isLt }
def Context.mask (c : Context) (n : BitVec 3) : Mask := c.m[n.toNat]'n.isLt
def Context.setMask (c : Context) (n : BitVec 3) (t : Mask) : Context := { c with m := c.m.set n.toNat t n.isLt }

/-- Element k of a tile of w-byte elements. -/
def elemAt (t : Tile) (w k : Nat) : Nat := (t >>> (8 * w * k)).toNat % 2 ^ (8 * w)
def putElem (t : Tile) (w k v : Nat) : Tile := setField t (8 * w * k + (8 * w - 1)) (8 * w * k) v

/-- The mask that MK names. -/
def mkMask (msk : BitVec 4) : BitVec 3 := (msk - 1).setWidth 3
/-- Bit 128·r + c of position k. -/
def maskBit (h : Shape) (k : Nat) : Nat := 128 * (k / h.cols) + k % h.cols
/-- Active(MK, r, c). -/
def Context.active (c : Context) (msk : BitVec 4) (k : Nat) : Bool :=
  msk = 0 || (c.mask (mkMask msk)).getLsbD (maskBit c.shape k)
/-- The active positions in element order. -/
def Context.actives (c : Context) (msk : BitVec 4) : List Nat := c.shape.poss.filter (c.active msk)

/-- The writing loop of R184 over positions `ks`: active elements take their result, inactive ones follow MZ. -/
def writeElems (w : Nat) (act : Nat → Bool) (mz : Bool) (f : Nat → REnv → Nat × REnv) (ks : List Nat) (old : Tile) (r : REnv) : Tile × REnv :=
  ks.foldl (fun acc k =>
    if act k then
      let x := f k acc.2
      (putElem acc.1 w k x.1, x.2)
    else if mz then (putElem acc.1 w k 0, acc.2)
    else acc) (old, r)

/-! ## The tile scoreboard (R186) -/

def maskUse (msk : BitVec 4) : List Dest := if msk = 0 then [] else [.mask (mkMask msk)]

/-- Wait until none of these tiles and masks is busy. -/
def awaitTiles : List Dest → Act Unit
  | [] => pure ()
  | d :: rest => do
    let s ← get
    waitIf (s.cur.pend.any (fun q => q.dst = d)) (.landed d)
    awaitTiles rest

/-- A tile or mask written now and busy until T + max(L, A) (R80, R186). -/
def occupy (d : Dest) (cls own : Nat) : Act Unit := do
  let s ← get
  pendResult d (s.latency cls own) .held

/-- Width in bytes of a floating TY and of an integer TY (R67). -/
def floatW (ty : BitVec 3) : Nat := (fmtOfTy ty.toNat).width / 8
def intW (ty : BitVec 3) : Nat :=
  match ty.toNat % 4 with
  | 0 => 4
  | 1 => 2
  | _ => 1

/-- The width rule of R67 and R185. -/
def checkWidth (w : Nat) : Act Unit := do
  let s ← get
  raiseIf (s.cur.shape.w != w) Code.illegalOp 3 0

/-- An instruction that writes tile vd under the mask from values `f` gives per position and fcsr. -/
def elemForm (cls own w : Nat) (vd msk : BitVec 4) (mz : Bool) (uses : List Dest) (f : Context → Nat → REnv → Nat × REnv) : Act Unit := do
  checkWidth w
  awaitTiles (.tile vd :: uses ++ maskUse msk)
  modCur (fun c =>
    let x := writeElems w (c.active msk) mz (f c) c.shape.poss (c.tile vd) (envOf c.fcsr)
    { c.setTile vd x.1 with fcsr := putEnv c.fcsr x.2 })
  occupy (.tile vd) cls own
  advance

/-- An instruction that writes tile vd as a whole, reading no rounding state. -/
def tileForm (cls own w : Nat) (vd msk : BitVec 4) (uses : List Dest) (f : Context → Tile) : Act Unit := do
  checkWidth w
  awaitTiles (.tile vd :: uses ++ maskUse msk)
  modCur (fun c => c.setTile vd (f c))
  occupy (.tile vd) cls own
  advance

/-! ## Floating element operations (R189 to R191) -/

/-- RoundFmt of a result whose flags of the operation are known; in E4M3 an infinite result is the canonical NaN with OF and NX (R189). -/
def roundElem (f : Fmt) (x : FVal × Flags) (r : REnv) : Nat × REnv :=
  match x.1 with
  | .inf _ => if f.e4m3 then (f.nan, (r.draw).raise (x.2 ||| flOF ||| flNX)) else roundFmt f false x.1 (r.raise x.2)
  | .nan _ => roundFmt f false (.nan false) (r.raise x.2)
  | .zero _ => roundFmt f false x.1 (r.raise x.2)
  | .num _ _ => roundFmt f false x.1 (r.raise x.2)

/-- A value of the format itself, moved without rounding, with the flags of the operation (R119). -/
def exactElem (f : Fmt) (x : FVal × Flags) (r : REnv) : Nat × REnv := ((roundFmt f false (match x.1 with
  | .nan _ => .nan false
  | .inf n => .inf n
  | .zero n => .zero n
  | .num m e => .num m e) rneEnv).1, r.raise x.2)

/-- The value of element k of a tile. -/
def Context.fval (c : Context) (f : Fmt) (n : BitVec 4) (k : Nat) : FVal := f.decode (elemAt (c.tile n) (f.width / 8) k)

/-- VADD to VFNMA: rounded once (R189); `g` takes the mode, a, b and d. -/
def floatForm (g : Nat → FVal → FVal → FVal → FVal × Flags) (o : VV) : Act Unit :=
  let f := fmtOfTy o.ty.toNat
  elemForm 4 4 (floatW o.ty) o.vd o.msk o.mz [.tile o.va, .tile o.vb]
    (fun c k r => roundElem f (g r.mode (c.fval f o.va k) (c.fval f o.vb k) (c.fval f o.vd k)) r)

/-- VMIN, VMAX, VMINP, VMAXP (R119). -/
def minMaxForm (isMax prop : Bool) (o : VV) : Act Unit :=
  let f := fmtOfTy o.ty.toNat
  elemForm 4 4 (floatW o.ty) o.vd o.msk o.mz [.tile o.va, .tile o.vb]
    (fun c k r => exactElem f (fMinMax isMax prop (c.fval f o.va k) (c.fval f o.vb k)) r)

/-- VABS and VNEG: on the bits alone (R190). -/
def signForm (g : Nat → Nat → Nat) (o : VU) : Act Unit :=
  let w := floatW o.ty
  elemForm 4 4 w o.vd o.msk o.mz [.tile o.va] (fun c k r => (g (2 ^ (8 * w - 1)) (elemAt (c.tile o.va) w k), r))

/-- The special functions (R191). -/
def specialForm (g : FVal → FVal × Flags) (o : VU) : Act Unit :=
  let f := fmtOfTy o.ty.toNat
  elemForm 6 12 (floatW o.ty) o.vd o.msk o.mz [.tile o.va] (fun c k r => roundElem f (g (c.fval f o.va k)) r)

/-! ## Reductions (R124, R196) -/

/-- One step of a reduction over the active elements in element order: `acc` holds each line's value so far. -/
def reduceStep (f : Fmt) (comb : Nat → FVal → FVal → FVal × Flags) (rounds : Bool) (line : Nat) (x : FVal)
    (acc : Tbl FVal × REnv) : Tbl FVal × REnv :=
  match Tbl.get? acc.1 line with
  | none => (Tbl.set acc.1 line x, acc.2)
  | some y =>
    let z := comb acc.2.mode y x
    if rounds then
      let q := roundElem f z acc.2
      (Tbl.set acc.1 line (f.decode q.1), q.2)
    else (Tbl.set acc.1 line z.1, acc.2.raise z.2)

/-- A reduction: `col` sums columns, `emptyV` is the value of a line with no active element. -/
def reduceForm (comb : Nat → FVal → FVal → FVal × Flags) (rounds col : Bool) (emptyV : FVal) (o : VU) : Act Unit := do
  let f := fmtOfTy o.ty.toNat
  let w := floatW o.ty
  checkWidth w
  awaitTiles (.tile o.vd :: .tile o.va :: maskUse o.msk)
  modCur (fun c =>
    let h := c.shape
    let line (k : Nat) : Nat := if col then k % h.cols else k / h.cols
    let red := (c.actives o.msk).foldl (fun acc k => reduceStep f comb rounds (line k) (c.fval f o.va k) acc) ([], envOf c.fcsr)
    let first (k : Nat) : Bool := if col then k < h.cols else k % h.cols = 0
    let x := writeElems w first o.mz (fun k r =>
      let v := (Tbl.get? red.1 (line k)).getD emptyV
      exactElem f (v, v.sigFlag) r) h.poss (c.tile o.vd) red.2
    { c.setTile o.vd x.1 with fcsr := putEnv c.fcsr x.2 })
  occupy (.tile o.vd) 7 10
  advance

/-! ## Integer element operations (R192) -/

/-- A w-bit pattern as a signed integer. -/
def sgnOf (bits v : Nat) : Int := if 2 ^ (bits - 1) ≤ v % 2 ^ bits then (v % 2 ^ bits : Int) - 2 ^ bits else (v % 2 ^ bits : Nat)
def ofInt (bits : Nat) (x : Int) : Nat := (x % 2 ^ bits).toNat

/-- Major 0x41: `g` takes the width in bits, a and b. -/
def intForm (g : Nat → Nat → Nat → Nat) (o : VV) : Act Unit :=
  let w := intW o.ty
  elemForm 5 2 w o.vd o.msk o.mz [.tile o.va, .tile o.vb]
    (fun c k r => (g (8 * w) (elemAt (c.tile o.va) w k) (elemAt (c.tile o.vb) w k) % 2 ^ (8 * w), r))

/-! ## Comparison, selection and masks (R193 to R195) -/

/-- A mask written at the positions of the shape (R193). -/
def writeMask (h : Shape) (act : Nat → Bool) (mz : Bool) (f : Nat → Bool × Flags) (old : Mask) (fl : Flags) : Mask × Flags :=
  h.poss.foldl (fun acc k =>
    let b := maskBit h k
    if act k then
      let x := f k
      (setField acc.1 b b (if x.1 then 1 else 0), acc.2 ||| x.2)
    else if mz then (setField acc.1 b b 0, acc.2)
    else acc) (old, fl)

/-- VCMP: `g` gives the bit and the flags raised at a position. -/
def cmpForm (cls own w : Nat) (g : Context → Nat → Bool × Flags) (o : VV) : Act Unit := do
  checkWidth w
  let md : BitVec 3 := o.vd.setWidth 3
  awaitTiles (.mask md :: .tile o.va :: .tile o.vb :: maskUse o.msk)
  modCur (fun c =>
    let x := writeMask c.shape (c.active o.msk) o.mz (g c) (c.mask md) 0
    { c.setMask md x.1 with fcsr := putEnv c.fcsr { envOf c.fcsr with flags := x.2 } })
  occupy (.mask md) cls own
  advance

/-- Floating comparison: `t` of the order, false for a NaN unless `ne`; an ordered relation sets NV for any NaN, the others for a signalling one. -/
def cmpFloat (t : Ordering → Bool) (ordered ne : Bool) (o : VV) : Act Unit :=
  let f := fmtOfTy o.ty.toNat
  cmpForm 4 4 (floatW o.ty) (fun c k =>
    let a := c.fval f o.va k
    let b := c.fval f o.vb k
    match fCmp a b with
    | some q => (t q, 0)
    | none => (ne, if ordered then flNV else a.sigFlag ||| b.sigFlag)) o

/-- Integer comparison, signed for i types (TY 0 to 2), unsigned for n types. -/
def cmpInt (t : Ordering → Bool) (o : VV) : Act Unit :=
  let w := intW o.ty
  let v (x : Nat) : Int := if o.ty.toNat < 4 then sgnOf (8 * w) x else x
  cmpForm 5 2 w (fun c k =>
    let a := v (elemAt (c.tile o.va) w k)
    let b := v (elemAt (c.tile o.vb) w k)
    (t (if a < b then .lt else if b < a then .gt else .eq), 0)) o

/-- MLOG: all 2,048 bits (R194). -/
def mlogForm (g : Mask → Mask → Mask) (o : VMask) : Act Unit := do
  let md : BitVec 3 := o.vd.setWidth 3
  let ma : BitVec 3 := o.va.setWidth 3
  let mb : BitVec 3 := o.vb.setWidth 3
  awaitTiles [.mask md, .mask ma, .mask mb]
  modCur (fun c => c.setMask md (g (c.mask ma) (c.mask mb)))
  occupy (.mask md) 5 2
  advance

/-! ## Conversion (R96, R110, R111, R197, R198) -/

/-- Width and value of a source type of VCVT; an integer source is exact. -/
def srcW (t : BitVec 4) : Nat :=
  match t.toNat with
  | 0 | 8 | 12 => 4
  | 1 | 2 | 9 | 13 => 2
  | _ => 1

def srcVal (t : BitVec 4) (v : Nat) : FVal :=
  if t.toNat ≤ 4 then (fmtOfTy t.toNat).decode v
  else FVal.ofDyadic (if t.toNat < 12 then sgnOf (8 * srcW t) v else v) 0

/-- VCVT: each active element from source type vb to `dw` bytes by `g`. -/
def cvtForm (dw : Nat) (g : Nat → REnv → Nat × REnv) (o : VV) : Act Unit := do
  let sw := srcW o.vb
  checkWidth (max sw dw)
  awaitTiles (.tile o.vd :: .tile o.va :: maskUse o.msk)
  modCur (fun c =>
    let x := writeElems dw (c.active o.msk) o.mz (fun k r => g (elemAt (c.tile o.va) sw k) r) c.shape.poss (c.tile o.vd) (envOf c.fcsr)
    { c.setTile o.vd x.1 with fcsr := putEnv c.fcsr x.2 })
  occupy (.tile o.vd) 8 6
  advance

/-- To a floating TY: equal types copy, a signalling NaN becoming the canonical NaN with NV (R197). -/
def cvtFloat (sat : Bool) (o : VV) : Act Unit :=
  let f := fmtOfTy o.ty.toNat
  cvtForm (floatW o.ty) (fun v r =>
    if o.vb.toNat = o.ty.toNat then
      match f.decode v with
      | .nan true => (f.nan, r.raise flNV)
      | .nan false => (v, r)
      | .inf _ => (v, r)
      | .zero _ => (v, r)
      | .num _ _ => (v, r)
    else roundFmt f sat (srcVal o.vb v) r) o

/-- To an integer TY (R111). -/
def cvtInt (o : VV) : Act Unit :=
  let w := intW o.ty
  let lo : Int := if o.ty.toNat < 4 then -(2 ^ (8 * w - 1)) else 0
  let hi : Int := if o.ty.toNat < 4 then 2 ^ (8 * w - 1) - 1 else 2 ^ (8 * w) - 1
  cvtForm w (fun v r =>
    let x := toIntSat (srcVal o.vb v) lo hi r
    (ofInt (8 * w) x.1, x.2)) o

/-- The positions of a row cut into blocks of B columns (R198). -/
def blocksOf (h : Shape) (b : Nat) : List (List Nat) :=
  (List.range h.rows).flatMap (fun r =>
    (List.range ((h.cols + b - 1) / b)).map (fun j =>
      (List.range (min b (h.cols - j * b))).map (fun i => r * h.cols + j * b + i)))

/-- One block of VQNT: its active elements quantised and written back. An inactive position counts as +0 in the choice of E, which +0 never raises. -/
def quantBlock (f : Fmt) (m : Nat) (c : Context) (o : VV) (acc : Tile × REnv) (ks : List Nat) : Tile × REnv :=
  let act := ks.filter (c.active o.msk)
  let (e, ms, r) := quantise m (act.map (c.fval f o.va)) acc.2
  let t := (act.zip ms).foldl (fun t (k, x) => putElem t (f.width / 8) k (roundFmt f false (bfpValue m e x) rneEnv).1) acc.1
  let t' := if o.mz then (ks.filter (fun k => !c.active o.msk k)).foldl (fun t k => putElem t (f.width / 8) k 0) t else t
  (t', r)

/-- VQNT (R198). -/
def quantForm (b : Nat) (o : VV) : Act Unit := do
  let f := fmtOfTy o.ty.toNat
  checkWidth (floatW o.ty)
  awaitTiles (.tile o.vd :: .tile o.va :: maskUse o.msk)
  modCur (fun c =>
    let x := (blocksOf c.shape b).foldl (quantBlock f o.vb.toNat c o) (c.tile o.vd, envOf c.fcsr)
    { c.setTile o.vd x.1 with fcsr := putEnv c.fcsr x.2 })
  occupy (.tile o.vd) 8 6
  advance

/-! ## Address slots (R38, R39, R204) -/

/-- Whether a modifier may be written (R39). -/
def modOk (x : Word) : Bool :=
  let mode := fieldN x 63 62
  let len := fieldN x 61 40
  let step := fieldN x 31 0
  fieldN x 39 32 = 0 && (mode = 0 || len != 0) &&
  (!(mode = 1 || mode = 3) || (len &&& (len - 1) = 0 && decide (32 ≤ len))) &&
  (mode != 3 || step = 1 || step = 2 || step = 4 || step = 8)

/-- BitRev_n. -/
def bitRev : Nat → Nat → Nat
  | 0, _ => 0
  | n + 1, x => x % 2 * 2 ^ n + bitRev n (x / 2)

/-- The post-increment of R38 on an address `a` with modifier `x` and circular base `b`. -/
def postInc (a x b : Word) : Word :=
  let len := fieldN x 61 40
  let step : Word := (x.extractLsb' 0 32).signExtend 64
  let lo : Word := BitVec.ofNat 64 (len - 1)
  match fieldN x 63 62 with
  | 0 => a + step
  | 1 => (a &&& ~~~lo) ||| ((a + step) &&& lo)
  | 2 => b + BitVec.ofInt 64 (((a.toNat : Int) - b.toNat + step.toInt) % len)
  | _ =>
    let st := step.toNat
    let n := (len / st).log2
    let i := (a &&& lo).toNat / st
    (a &&& ~~~lo) ||| BitVec.ofNat 64 (st * bitRev n ((bitRev n i + 1) % 2 ^ n))

/-- The slot's post-increment (R205). -/
def Context.postIncrement (c : Context) (n : BitVec 3) : Context :=
  { c with a := c.a.set n.toNat (postInc (c.a[n.toNat]'n.isLt) (c.am[n.toNat]'n.isLt) (c.cb[n.toNat]'n.isLt)) n.isLt }

/-! ## The instructions -/

def execVadd (o : VV) (s : State) : Host.Outcome State Fault Refusal := runAct (floatForm (fun m a b _ => fAdd m a b) o) s
def execVsub (o : VV) (s : State) : Host.Outcome State Fault Refusal := runAct (floatForm (fun m a b _ => fAdd m a b.neg) o) s
def execVmul (o : VV) (s : State) : Host.Outcome State Fault Refusal := runAct (floatForm (fun _ a b _ => fMul a b) o) s
def execVfma (o : VV) (s : State) : Host.Outcome State Fault Refusal := runAct (floatForm (fun m a b x => fFma m a b x) o) s
def execVfms (o : VV) (s : State) : Host.Outcome State Fault Refusal := runAct (floatForm (fun m a b x => fFma m a b x.neg) o) s
def execVfnma (o : VV) (s : State) : Host.Outcome State Fault Refusal := runAct (floatForm (fun m a b x => fFma m a.neg b x) o) s
def execVmin (o : VV) (s : State) : Host.Outcome State Fault Refusal := runAct (minMaxForm false false o) s
def execVmax (o : VV) (s : State) : Host.Outcome State Fault Refusal := runAct (minMaxForm true false o) s
def execVminp (o : VV) (s : State) : Host.Outcome State Fault Refusal := runAct (minMaxForm false true o) s
def execVmaxp (o : VV) (s : State) : Host.Outcome State Fault Refusal := runAct (minMaxForm true true o) s
def execVabs (o : VU) (s : State) : Host.Outcome State Fault Refusal := runAct (signForm (fun sign x => x % sign) o) s
def execVneg (o : VU) (s : State) : Host.Outcome State Fault Refusal := runAct (signForm (fun sign x => x ^^^ sign) o) s
def execVexp2 (o : VU) (s : State) : Host.Outcome State Fault Refusal := runAct (specialForm fExp2 o) s
def execVlog2 (o : VU) (s : State) : Host.Outcome State Fault Refusal := runAct (specialForm fLog2 o) s
def execVrcp (o : VU) (s : State) : Host.Outcome State Fault Refusal := runAct (specialForm fRcp o) s
def execVrsqrt (o : VU) (s : State) : Host.Outcome State Fault Refusal := runAct (specialForm fRsqrt o) s
def execVtanh (o : VU) (s : State) : Host.Outcome State Fault Refusal := runAct (specialForm fTanh o) s
def execVsigm (o : VU) (s : State) : Host.Outcome State Fault Refusal := runAct (specialForm fSigm o) s
def execVrsum (o : VU) (s : State) : Host.Outcome State Fault Refusal := runAct (reduceForm fAdd true false (.zero false) o) s
def execVrmax (o : VU) (s : State) : Host.Outcome State Fault Refusal := runAct (reduceForm (fun _ => fMinMax true false) false false (.nan false) o) s
def execVrmin (o : VU) (s : State) : Host.Outcome State Fault Refusal := runAct (reduceForm (fun _ => fMinMax false false) false false (.nan false) o) s
def execVcsum (o : VU) (s : State) : Host.Outcome State Fault Refusal := runAct (reduceForm fAdd true true (.zero false) o) s
def execViadd (o : VV) (s : State) : Host.Outcome State Fault Refusal := runAct (intForm (fun _ a b => a + b) o) s
def execVisub (o : VV) (s : State) : Host.Outcome State Fault Refusal := runAct (intForm (fun n a b => a + (2 ^ n - b)) o) s
def execVimul (o : VV) (s : State) : Host.Outcome State Fault Refusal := runAct (intForm (fun _ a b => a * b) o) s
def execVand (o : VV) (s : State) : Host.Outcome State Fault Refusal := runAct (intForm (fun _ a b => a &&& b) o) s
def execVor (o : VV) (s : State) : Host.Outcome State Fault Refusal := runAct (intForm (fun _ a b => a ||| b) o) s
def execVxor (o : VV) (s : State) : Host.Outcome State Fault Refusal := runAct (intForm (fun _ a b => a ^^^ b) o) s
def execVshl (o : VV) (s : State) : Host.Outcome State Fault Refusal := runAct (intForm (fun n a b => a <<< (b % n)) o) s
def execVshr (o : VV) (s : State) : Host.Outcome State Fault Refusal := runAct (intForm (fun n a b => a >>> (b % n)) o) s
def execVsra (o : VV) (s : State) : Host.Outcome State Fault Refusal := runAct (intForm (fun n a b => ofInt n (sgnOf n a / 2 ^ (b % n))) o) s
def execVcmpEq (o : VV) (s : State) : Host.Outcome State Fault Refusal := runAct (cmpFloat (fun q => q = .eq) false false o) s
def execVcmpNe (o : VV) (s : State) : Host.Outcome State Fault Refusal := runAct (cmpFloat (fun q => q ≠ .eq) false true o) s
def execVcmpLt (o : VV) (s : State) : Host.Outcome State Fault Refusal := runAct (cmpFloat (fun q => q = .lt) true false o) s
def execVcmpLe (o : VV) (s : State) : Host.Outcome State Fault Refusal := runAct (cmpFloat (fun q => q ≠ .gt) true false o) s
def execVcmpGt (o : VV) (s : State) : Host.Outcome State Fault Refusal := runAct (cmpFloat (fun q => q = .gt) true false o) s
def execVcmpGe (o : VV) (s : State) : Host.Outcome State Fault Refusal := runAct (cmpFloat (fun q => q ≠ .lt) true false o) s
def execVcmpEqInt (o : VV) (s : State) : Host.Outcome State Fault Refusal := runAct (cmpInt (fun q => q = .eq) o) s
def execVcmpNeInt (o : VV) (s : State) : Host.Outcome State Fault Refusal := runAct (cmpInt (fun q => q ≠ .eq) o) s
def execVcmpLtInt (o : VV) (s : State) : Host.Outcome State Fault Refusal := runAct (cmpInt (fun q => q = .lt) o) s
def execVcmpLeInt (o : VV) (s : State) : Host.Outcome State Fault Refusal := runAct (cmpInt (fun q => q ≠ .gt) o) s
def execVcmpGtInt (o : VV) (s : State) : Host.Outcome State Fault Refusal := runAct (cmpInt (fun q => q = .gt) o) s
def execVcmpGeInt (o : VV) (s : State) : Host.Outcome State Fault Refusal := runAct (cmpInt (fun q => q ≠ .lt) o) s

/-- VSEL: every position of the shape (R194). R79 lists it in no latency class, nor VTRN, VIOTA, VROT and VBCAST: the model takes class vint for all
of them (assumption 80, DESIGN CHOICE). -/
def execVsel (o : VVnz) (s : State) : Host.Outcome State Fault Refusal :=
  runAct (
    let w := floatW o.ty
    tileForm 5 2 w o.vd o.msk [.tile o.va, .tile o.vb] (fun c =>
      (writeElems w (fun _ => true) false (fun k r => (elemAt (c.tile (if c.active o.msk k then o.va else o.vb)) w k, r)) c.shape.poss
        (c.tile o.vd) rneEnv).1)) s

def execMlogAnd (o : VMask) (s : State) : Host.Outcome State Fault Refusal := runAct (mlogForm (fun a b => a &&& b) o) s
def execMlogOr (o : VMask) (s : State) : Host.Outcome State Fault Refusal := runAct (mlogForm (fun a b => a ||| b) o) s
def execMlogXor (o : VMask) (s : State) : Host.Outcome State Fault Refusal := runAct (mlogForm (fun a b => a ^^^ b) o) s
def execMlogAndn (o : VMask) (s : State) : Host.Outcome State Fault Refusal := runAct (mlogForm (fun a b => a &&& ~~~b) o) s

/-- A count written to s register N, in the latency class of its instruction (R34, R186). -/
def writeCount (n : BitVec 5) (cls own k : Nat) : Act Unit := writeSLate n cls own (BitVec.ofNat 64 k)

/-- VCOMPRESS (R199). -/
def execVcompress (o : VVnz) (s : State) : Host.Outcome State Fault Refusal :=
  runAct (do
    let w := floatW o.ty
    checkWidth w
    awaitTiles (.tile o.vd :: .tile o.va :: maskUse o.msk)
    destReady (o.vb.setWidth 5)
    let s ← get
    let t := (s.cur.actives o.msk).map (elemAt (s.cur.tile o.va) w)
    modCur (fun c => c.setTile o.vd
      (writeElems w (fun _ => true) false (fun k r => (t.getD k 0, r)) c.shape.poss (c.tile o.vd) rneEnv).1)
    occupy (.tile o.vd) 8 6
    writeCount (o.vb.setWidth 5) 8 6 t.length
    advance) s

/-- VEXPAND (R200). -/
def execVexpand (o : VV) (s : State) : Host.Outcome State Fault Refusal :=
  runAct (do
    let w := floatW o.ty
    checkWidth w
    awaitTiles (.tile o.vd :: .tile o.va :: maskUse o.msk)
    destReady (o.vb.setWidth 5)
    let s ← get
    let ks := s.cur.actives o.msk
    let src := s.cur.tile o.va
    modCur (fun c =>
      let t := (writeElems w (c.active o.msk) o.mz (fun _ r => (0, r)) c.shape.poss (c.tile o.vd) rneEnv).1
      c.setTile o.vd (ks.zipIdx.foldl (fun t (k, i) => putElem t w k (elemAt src w i)) t))
    occupy (.tile o.vd) 8 6
    writeCount (o.vb.setWidth 5) 8 6 ks.length
    advance) s

/-- VTRN (R201): positions beyond the square are not written. Its latency class is VSEL's. -/
def execVtrn (o : VU) (s : State) : Host.Outcome State Fault Refusal :=
  runAct (
    let w := floatW o.ty
    tileForm 5 2 w o.vd o.msk [.tile o.va] (fun c =>
      let h := c.shape
      let lim := min h.rows h.cols
      (writeElems w (c.active o.msk) o.mz (fun k r => (elemAt (c.tile o.va) w (k % h.cols * h.cols + k / h.cols), r))
        (h.poss.filter (fun k => k / h.cols < lim && k % h.cols < lim)) (c.tile o.vd) rneEnv).1)) s

/-- VIOTA (R201). Its latency class is VSEL's. -/
def execViota (o : VDst) (s : State) : Host.Outcome State Fault Refusal :=
  runAct (
    let w := intW o.ty
    elemForm 5 2 w o.vd o.msk o.mz [] (fun _ k r => (k % 2 ^ (8 * w), r))) s

/-- VROT (R201). Its latency class is VSEL's. -/
def execVrot (o : VS) (s : State) : Host.Outcome State Fault Refusal :=
  runAct (do
    let x ← readSrc o.sb o.qb
    let w := floatW o.ty
    elemForm 5 2 w o.vd o.msk o.mz [.tile o.va] (fun c k r =>
      let h := c.shape
      let j : Nat := (((k % h.cols : Nat) : Int) - x.toInt) % h.cols |>.toNat
      (elemAt (c.tile o.va) w (k / h.cols * h.cols + j), r))) s

/-- VMOVS (R203). -/
def execVmovs (o : VMov) (s : State) : Host.Outcome State Fault Refusal :=
  runAct (do
    let w := intW o.ty
    destReady o.sb
    checkWidth w
    raiseIf (decide (s.cur.shape.size ≤ o.n.toNat)) Code.illegalOp 11 0
    awaitTiles [.tile o.vt]
    let v := elemAt (s.cur.tile o.vt) w o.n.toNat
    writeSLate o.sb 5 2 (if o.ty.toNat < 4 then BitVec.ofInt 64 (sgnOf (8 * w) v) else BitVec.ofNat 64 v)
    advance) s

/-- MPOP (R195). -/
def execMpop (o : VMpop) (s : State) : Host.Outcome State Fault Refusal :=
  runAct (do
    destReady o.sb
    awaitTiles [.mask o.m]
    let h := s.cur.shape
    writeCount o.sb 5 2 (h.poss.filter (fun k => (s.cur.mask o.m).getLsbD (maskBit h k))).length
    advance) s


def execVcvt (o : VV) (s : State) : Host.Outcome State Fault Refusal := runAct (cvtFloat false o) s
def execVcvtSat (o : VV) (s : State) : Host.Outcome State Fault Refusal := runAct (cvtFloat true o) s
def execVcvtToInt (o : VV) (s : State) : Host.Outcome State Fault Refusal := runAct (cvtInt o) s
def execVqntBlk16 (o : VV) (s : State) : Host.Outcome State Fault Refusal := runAct (quantForm 16 o) s
def execVqntBlk32 (o : VV) (s : State) : Host.Outcome State Fault Refusal := runAct (quantForm 32 o) s

/-- VSHAPE (R42, R187). -/
def execVshape (o : VSb) (s : State) : Host.Outcome State Fault Refusal :=
  runAct (do
    let x ← readSrc o.sb o.qb
    raiseIf (!vshapeOk x) Code.reservedField 0 x
    waitIf (!tilesLanded s.cur) .allLanded
    modCur (fun c => { c with vshape := x })
    advance) s

/-- VSETRM (R188). -/
def execVsetrm (o : VSb) (s : State) : Host.Outcome State Fault Refusal :=
  runAct (do
    let x ← readSrc o.sb o.qb
    raiseIf (decide (6 ≤ x.toNat)) Code.reservedField 0 x
    modCur (fun c => { c with fcsr := (c.fcsr &&& ~~~7#64) ||| x })
    advance) s

/-- AMOD, AMOV and AADD (R204). -/
def execAmod (o : VSlot) (s : State) : Host.Outcome State Fault Refusal :=
  runAct (do
    let x ← readSrc o.sb o.qb
    raiseIf (!modOk x) Code.reservedField 0 x
    modCur (fun c => { c with
      am := c.am.set o.n.toNat x o.n.isLt
      cb := c.cb.set o.n.toNat (c.a[o.n.toNat]'o.n.isLt) o.n.isLt })
    advance) s

def execAmov (o : VSlot) (s : State) : Host.Outcome State Fault Refusal :=
  runAct (do
    let x ← readSrc o.sb o.qb
    modCur (fun c => { c with a := c.a.set o.n.toNat x o.n.isLt, cb := c.cb.set o.n.toNat x o.n.isLt })
    advance) s

def execAadd (o : VSlot) (s : State) : Host.Outcome State Fault Refusal :=
  runAct (do
    let x ← readSrc o.sb o.qb
    modCur (fun c => { c with a := c.a.set o.n.toNat (c.a[o.n.toNat]'o.n.isLt + x) o.n.isLt })
    advance) s

end Sys2Proof.Machine
end

