-- ==== Sys2Proof/Machine/Stream.lean ====
section
/-! DEFINITION. Units through troughs and routes (R43, R210 to R213, R315, R316): the stream registers, VPOP, VPUSH, VBCAST, VLDT and VSTT. -/
namespace Sys2Proof.Machine

/-- Stops that keep what the instruction has done: a stream instruction keeps its completed rows and its mark (R213). -/
def keepStops {α : Type} (a : Act α) : Act α := fun s =>
  match a s with
  | .error (.wait c none) => .error (.wait c (some s))
  | .error (.raise f) => .error (.raiseKept f s)
  | r => r

/-- What a stream register is bound to: a trough, or a route of the group, by key. -/
inductive StreamObj where
  | trough (k : Nat)
  | route (k : Nat)
  deriving DecidableEq, Repr

/-- The object of q(n), used as a source or a destination (R43, R48). -/
def streamOf (n : BitVec 5) (push : Bool) : Act StreamObj := do
  let s ← get
  let q := s.cur.qb[n.toNat % 4]'(Nat.mod_lt _ (by decide))
  raiseIf (!q.getLsbD 63 || q.getLsbD 62 != push) Code.illegalOp 0 0
  if q.getLsbD 60 then
    let k := routeKey s.cur.grp (fieldN q 7 0)
    raiseIf (Tbl.get? s.routes k).isNone Code.illegalOp 0 0
    pure (.route k)
  else
    let (k, _) ← troughReady (q.extractLsb' 0 8)
    pure (.trough k)

/-! ## Slot bytes (R311, R312) -/

def scratchPage (pa : Nat) : PageInfo := ⟨pa, .rc, .coh, 0, false, false, none⟩

/-- A run of the owner's allotment as pieces of scratchpad (R311). -/
def State.slotPieces (s : State) (owner off n : Nat) : List Piece :=
  match Tbl.get? s.slots owner with
  | none => []
  | some x => (sectorCuts off (n / 32 + 2) n).map (fun (o, k) => ⟨x.allotPa o, k, scratchPage (x.allotPa o)⟩)

/-- Bytes of an allotment as an engine that is no context sees them. -/
def State.slotBytes (s : State) (loc : Loc) (ps : List Piece) : List Byte := ps.flatMap (fun p => bytesFrom (s.viewByte loc) p.pa p.len)

/-- Slot bytes in a bank that switches, or that is no scratchpad (R308): what to wait for, and whether they may be accessed. -/
def State.slotBank (s : State) (ps : List Piece) : Option WaitCond × Bool :=
  (ps.findSome? (fun p => (s.bankCheck p.pa).1), ps.all (fun p => (s.bankCheck p.pa).2))

/-- The check of R308 for an instruction's slot bytes, which have no virtual address. -/
def checkSlot (ps : List Piece) : Act Unit := ps.forM (fun p => checkBank p.pa 0)

/-- Stores that stand before a write of some pieces in coherence order and keep it from a scope, and how far each must be (R281). -/
def State.ahead (s : State) (loc : Loc) (ps : List Piece) (sc : Scope) : List (Nat × Scope) :=
  (s.coh.filter (fun q => ps.any (fun p => !State.inOrder [q] loc p.pa p.len sc))).map (fun q => (q.id, Scope.max sc (dist q.loc loc)))

/-- The wait for those stores. -/
def awaitOrder (ps : List Piece) (sc : Scope) : Act Unit := do
  let s ← get
  let l := s.ahead (s.locOf s.cur) ps sc
  if l.isEmpty then pure () else waitKeep (.performed (l.map (·.1)) (l.foldl (fun m x => Scope.max m x.2) sc))

/-- Bytes written through pieces and performed at a scope (R293). -/
def State.writePieces (s : State) (by_ : CtxRef) (loc : Loc) (sc : Scope) : List Piece → List Byte → State
  | [], _ => s
  | p :: rest, bs => State.writePieces (s.writeThrough by_ loc p.page p.pa (bs.take p.len) sc) by_ loc sc rest (bs.drop p.len)

/-! ## One unit -/

/-- The trough of a key; the meanings have looked it up already. -/
def troughAt (k : Nat) : Act Trough := do
  let s ← get
  match Tbl.get? s.troughs k with
  | some t => do
    raiseIf t.inc Code.troughInconsistent 0 0
    pure t
  | none => raise Code.troughState 0 0

/-- A slot taken, read and released (R165, R210). -/
def takeSlot (k : Nat) : Act (List Byte) := do
  let t ← troughAt k
  awaitTake k t
  let s ← get
  awaitRelease t.scope false
  let i := t.tailSlot
  let n := (t.counts.getD i 0).toNat
  let ps := s.slotPieces t.owner (t.base + i * t.slotBytes) n
  checkSlot ps
  troughUpdate k t (fun t => t.takeBy (t.position s.cur) s.cycle)
  transitionAcquire false
  let s ← get
  let (s1, bs) := s.readPieces s.cur s.nextId (ps.map (fun p => (p, none)))
  set s1
  let t1 ← troughAt k
  troughUpdate k t1 (fun t => t.release i)
  modify (fun s => (s.meter s.cur.slot 6 n).wakeNow (.troughFree (k / 1024) (k % 1024)))
  pure bs

/-- A slot claimed, written and filled (R165, R210). -/
def putSlot (k : Nat) (bs : List Byte) : Act Unit := do
  let t ← troughAt k
  awaitClaim k t
  awaitRelease t.scope false
  let i := t.headSlot
  let s ← get
  let ps := s.slotPieces t.owner (t.base + i * t.slotBytes) bs.length
  checkSlot ps
  awaitOrder ps t.scope
  troughUpdate k t (fun t => t.claimBy (t.position s.cur) s.cycle)
  transitionAcquire false
  modify (fun s => s.writePieces s.cur.ref (s.locOf s.cur) t.scope ps bs)
  let t1 ← troughAt k
  troughUpdate k t1 (fun t => t.fill i (BitVec.ofNat 32 bs.length) s.cycle)

/-- The oldest unit of a FIFO, if all its entries were pushed in earlier cycles: its bytes and entries (R315). -/
def unitOf (cycle : Nat) : List RouteEntry → Option (List Byte × Nat)
  | [] => none
  | e :: rest =>
    if cycle ≤ e.pushed then none
    else if e.unitEnd then some (e.bytes, 1)
    else
      match unitOf cycle rest with
      | some (bs, n) => some (e.bytes ++ bs, n + 1)
      | none => none

def State.routeUnit (s : State) (k : Nat) : Option (List Byte × Nat) := (Tbl.get? s.routes k).bind (fun r => unitOf s.cycle r.entries)

/-- A whole unit popped (R210). -/
def popUnit (k : Nat) : Act (List Byte) := do
  let s ← get
  match s.routeUnit k with
  | none => waitFor (.routeData (k / 64) (k % 64))
  | some (bs, n) =>
    modify (fun s => (List.range n).foldl (fun t _ => t.popRoute k) s)
    pure bs

def takeUnit (o : StreamObj) : Act (List Byte) :=
  match o with
  | .trough k => takeSlot k
  | .route k => popUnit k

/-- Bytes cut into entries of at most 256 (R210). -/
def entriesOf : Nat → List Byte → List (List Byte)
  | 0, _ => []
  | n + 1, bs => if bs.length ≤ 256 then [bs] else bs.take 256 :: entriesOf n (bs.drop 256)

/-! ## Rows with a mark (R213, R316) -/

def Context.rowMark (c : Context) : Nat × Nat := ((c.mark.find? (fun x => x.1 = c.pc)).map (·.2)).getD (0, 0)
def Context.setRowMark (c : Context) (m : Option (Nat × Nat)) : Context :=
  { c with mark := c.mark.filter (fun x => x.1 ≠ c.pc) ++ (match m with
      | some (r, e) => [(c.pc, r, e)]
      | none => []) }

/-- The entries of a unit pushed one by one, from the marked one on. -/
def pushEntries (k row : Nat) : List (List Byte) → Nat → Act Unit
  | [], _ => pure ()
  | bs :: rest, i => do
    let s ← get
    if i < s.cur.rowMark.2 then pushEntries k row rest (i + 1)
    else
      waitIf (!s.routeHasRoom s.cur.ref k) (.routeRoom (k / 64) (k % 64))
      modify (fun s => (s.pushRoute s.cur.ref k bs rest.isEmpty).setCur (fun c => c.setRowMark (some (row, i + 1))))
      keepStops (pushEntries k row rest (i + 1))

def pushUnit (o : StreamObj) (row : Nat) (bs : List Byte) : Act Unit :=
  match o with
  | .trough k => putSlot k bs
  | .route k => pushEntries k row (entriesOf 3 bs) 0

/-- The rows of a stream instruction from the mark on, each kept once done. -/
def rowsFrom (f : Nat → Act Unit) : List Nat → Act Unit
  | [] => pure ()
  | r :: rest => do
    let s ← get
    if r < s.cur.rowMark.1 then rowsFrom f rest
    else
      keepStops (f r)
      modCur (fun c => c.setRowMark (some (r + 1, 0)))
      keepStops (rowsFrom f rest)

/-- Positions of row r. -/
def Shape.row (h : Shape) (r : Nat) : List Nat := (List.range h.cols).map (fun c => r * h.cols + c)

/-- VPOP (R211). R79 gives it no latency class, and its tile is not busy afterwards (assumption 80, DESIGN CHOICE). -/
def execVpop (o : VPopF) (s : State) : Host.Outcome State Fault Refusal :=
  runAct (do
    let w := floatW o.ty
    checkWidth w
    let q ← streamOf o.sb false
    awaitTiles (.tile o.vd :: maskUse o.msk)
    let h := s.cur.shape
    rowsFrom (fun r => do
      let s ← get
      let bs ← if (h.row r).any (s.cur.active o.msk) then takeUnit q else pure []
      modCur (fun c => c.setTile o.vd (writeElems w (c.active o.msk) o.mz
        (fun k e => (leNat ((bs.drop (k % h.cols * w)).take w), e)) (h.row r) (c.tile o.vd) rneEnv).1)) (List.range h.rows)
    modCur (fun c => c.setRowMark none)
    advance) s

/-- The bytes of positions `ks`, inactive elements as zero bytes. -/
def Context.elemBytes (c : Context) (w : Nat) (v msk : BitVec 4) (ks : List Nat) : List Byte :=
  ks.flatMap (fun k => natBytes (if c.active msk k then elemAt (c.tile v) w k else 0) w)

/-- VPUSH (R211). -/
def execVpush (o : VPushF) (s : State) : Host.Outcome State Fault Refusal :=
  runAct (do
    let w := floatW o.ty
    checkWidth w
    let q ← streamOf o.sb true
    awaitTiles (.tile o.va :: maskUse o.msk)
    let h := s.cur.shape
    match q with
    | .trough k => do
      let t ← troughAt k
      raiseIf (decide (t.slotBytes < h.cols * w)) Code.troughState 0 0
    | .route _ => pure ()
    rowsFrom (fun r => do
      let s ← get
      if (h.row r).any (s.cur.active o.msk) then pushUnit q r (s.cur.elemBytes w o.va o.msk (h.row r)) else pure ()) (List.range h.rows)
    modCur (fun c => c.setRowMark none)
    advance) s

/-- VBCAST (R202): from an s register, or the first element of one unit. Its latency class is VSEL's. -/
def execVbcast (o : VS) (s : State) : Host.Outcome State Fault Refusal :=
  runAct (
    let w := floatW o.ty
    if o.va = 0 then do
      let x ← readSrc o.sb o.qb
      elemForm 5 2 w o.vd o.msk o.mz [] (fun _ _ r => (x.toNat % 2 ^ (8 * w), r))
    else do
      checkWidth w
      let q ← streamOf o.sb false
      awaitTiles (.tile o.vd :: maskUse o.msk)
      let bs ← takeUnit q
      elemForm 5 2 w o.vd o.msk o.mz [] (fun _ _ r => (leNat (bs.take w), r))) s

/-- VLDT (R212). -/
def execVldt (o : VTr) (s : State) : Host.Outcome State Fault Refusal :=
  runAct (do
    let w := floatW o.ty
    checkWidth w
    let (k, _) ← troughReady o.t
    awaitTiles (.tile o.vd :: maskUse o.msk)
    let bs ← takeSlot k
    modCur (fun c => c.setTile o.vd (writeElems w (c.active o.msk) o.mz
      (fun k e => (leNat ((bs.drop (k * w)).take w), e)) c.shape.poss (c.tile o.vd) rneEnv).1)
    occupy (.tile o.vd) 9 8
    advance) s

/-- VSTT (R212). -/
def execVstt (o : VTrS) (s : State) : Host.Outcome State Fault Refusal :=
  runAct (do
    let w := floatW o.ty
    checkWidth w
    let (_, t) ← troughNamed o.t
    raiseIf (decide (t.slotBytes < s.cur.shape.size * w)) Code.troughState 0 0
    let (k, _) ← troughReady o.t
    awaitTiles (.tile o.vd :: maskUse o.msk)
    putSlot k (s.cur.elemBytes w o.vd o.msk s.cur.shape.poss)
    advance) s

end Sys2Proof.Machine
end

