-- ==== Sys2Proof/Machine/HearthCell.lean ====
section
/-! DEFINITION. The Hearth's geometry and arithmetic: sheets and their times (R217, R218, R238), units of the edges (R216), stash
encodings (R221), and what one wave does at one cell (R120 to R123, R126, R223 to R226, R233, R241). -/
namespace Sys2Proof.Machine

/-! ## Sheets (R218, R238) -/

/-- Group of the lead of the sheet a Hearth belongs to, or its own. -/
def State.leadOf (s : State) (g : Nat) : Nat :=
  match (s.hearth g).sheet with
  | some (lead, _, _) => lead
  | none => g

/-- Height and width of the sheet a group leads. -/
def State.shapeOf (s : State) (g : Nat) : Nat × Nat :=
  match (s.hearth g).sheet with
  | some (lead, h, w) => if lead = g then (h, w) else (1, 1)
  | none => (1, 1)

def State.members (s : State) (g : Nat) : List Nat := s.sheetOf g

/-- The state with every Hearth of a list changed. -/
def State.updHearths (s : State) (grps : List Nat) (f : Hearth → Hearth) : State :=
  grps.foldl (fun t g => t.setHearth g (f (t.hearth g))) s

/-- A sheet: lead group, tile-rows and tile-columns. -/
structure Sheet where
  lead : Nat
  h : Nat
  w : Nat
  deriving DecidableEq, Repr

def State.sheetAt (s : State) (g : Nat) : Sheet := ⟨g, (s.shapeOf g).1, (s.shapeOf g).2⟩

def Sheet.rows (k : Sheet) : Nat := 64 * k.h
def Sheet.cols (k : Sheet) : Nat := 1024 * k.w
/-- The member that holds global cell (I, J). -/
def Sheet.member (k : Sheet) (i j : Nat) : Nat := k.lead + 4 * (i / 64) + j / 1024
def Sheet.westOf (k : Sheet) (r : Nat) : Nat := k.lead + 4 * r
def Sheet.eastOf (k : Sheet) (r : Nat) : Nat := k.lead + 4 * r + (k.w - 1)
def Sheet.northOf (k : Sheet) (c : Nat) : Nat := k.lead + c
def Sheet.southOf (k : Sheet) (c : Nat) : Nat := k.lead + 4 * (k.h - 1) + c

/-- Whether the die bridge lies between two tile-rows of the sheet: it lies between tile-rows 3 and 4 of the device (R2, R218). -/
def Sheet.bridge (k : Sheet) (r r' : Nat) : Nat := if k.lead / 4 + r < 4 ∧ 4 ≤ k.lead / 4 + r' then 1 else 0

/-! ## Event times (R217, R218), counted from the admission -/

/-- A west wave reaches (I, J). -/
def Sheet.westTime (k : Sheet) (i j : Nat) : Nat := i + j + i / 64 + j / 1024 + 7 * k.bridge 0 (i / 64)
/-- A G wave reaches (I, J). -/
def Sheet.southTime (k : Sheet) (i j : Nat) : Nat :=
  (k.cols - 1 - j) + (k.rows - 1 - i) + (k.h - 1 - i / 64) + (k.w - 1 - j / 1024) + 7 * k.bridge (i / 64) (k.h - 1)
/-- y_J leaves the south edge. -/
def Sheet.yTime (k : Sheet) (j : Nat) : Nat := k.rows + j + (k.h - 1) + j / 1024 + 7 * k.bridge 0 (k.h - 1)
/-- dx_I leaves the west edge. -/
def Sheet.dxTime (k : Sheet) (i : Nat) : Nat :=
  k.cols + k.rows - 1 - i + (k.h - 1 - i / 64) + (k.w - 1) + 7 * k.bridge (i / 64) (k.h - 1)
/-- Element J of export unit I leaves the south edge (R217). -/
def Sheet.exTime (k : Sheet) (i j : Nat) : Nat := k.yTime j + i

def WaveKind.isSouth : WaveKind → Bool
  | .g => true
  | .a | .s | .u | .ux | .hwset | .hfill => false

/-- U-class: U and HWSET (R219, R227). -/
def WaveKind.isU : WaveKind → Bool
  | .u | .hwset => true
  | .a | .s | .g | .ux | .hfill => false

/-- Waves that write the stash (R223, R224, R243). -/
def Wave.stashes (w : Wave) : Bool :=
  match w.kind with
  | .a => !w.opt.ns
  | .s | .hfill => true
  | .g | .u | .ux | .hwset => false

/-- The array cycle in which a wave reaches a cell. -/
def Wave.cellTime (w : Wave) (k : Sheet) (i j : Nat) : Nat := w.start + (if w.kind.isSouth then k.southTime i j else k.westTime i j)

/-- The array cycle of a wave's last event (R220). -/
def Wave.lastTime (w : Wave) (k : Sheet) : Nat :=
  match w.kind with
  | .a => w.start + k.yTime (k.cols - 1)
  | .g => w.start + k.dxTime 0
  | .s | .hfill => w.start + k.westTime (k.rows - 1) (k.cols - 1)
  | .u | .hwset => w.start + k.westTime (k.rows - 1) (k.cols - 1) + 2
  | .ux => w.start + k.exTime (k.rows - 1) (k.cols - 1)

/-- In flight in array cycle `c` (R220, R300). -/
def Wave.inFlight (w : Wave) (k : Sheet) (c : Nat) : Bool := decide (c ≤ w.lastTime k)

/-- Whether the wave has passed a cell. -/
def Wave.hasPassed (w : Wave) (k : Sheet) (i j : Nat) : Bool :=
  if w.kind.isSouth then decide (k.cols - 1 - j < w.passed.getD i 0) else decide (j < w.passed.getD i 0)

/-! ## Configuration (R221) and units (R216) -/

def cfgCfmt (x : Word) : Nat := fieldN x 15 12
def cfgXfmt (x : Word) : Nat := fieldN x 11 8
def cfgGfmt (x : Word) : Nat := fieldN x 7 4
def cfgYfmt (x : Word) : Nat := fieldN x 31 28
def cfgDxfmt (x : Word) : Nat := fieldN x 27 24
def cfgB (x : Word) : Nat := if x.getLsbD 16 then 32 else 16
def cfgOb (x : Word) : Nat := if x.getLsbD 23 then 32 else 16

/-- L of a compute format (R214). -/
def lanesOf (cfmt : Nat) : Nat := if 6 ≤ cfmt then 16 / (cfmt - 4) else if 4 ≤ cfmt then 2 else 1

/-- Bytes of n elements in an FMT with blocks of B (R117, R216). -/
def fmtUnit (fmt n b : Nat) : Nat := if 6 ≤ fmt then n * (fmt - 4) / 8 + n / b else n * (fmtOfTy (fmt - 1)).width / 8

/-- Unit bytes of an edge under a configuration (R216). -/
def edgeBytes (x : Word) (edge : Nat) : Nat :=
  match edge with
  | 0 => fmtUnit (cfgXfmt x) 64 (cfgB x)
  | 1 => 4096
  | 2 => fmtUnit (cfgGfmt x) 1024 (cfgB x)
  | 3 => 256
  | 4 => fmtUnit (cfgYfmt x) 1024 (cfgOb x)
  | _ => fmtUnit (cfgDxfmt x) 64 (cfgOb x)

/-- n elements of w bytes each. -/
def cutElems (w : Nat) : Nat → List Byte → List Nat
  | 0, _ => []
  | n + 1, bs => leNat (bs.take w) :: cutElems w n (bs.drop w)

/-- A unit's elements and block exponents (R216). -/
def unitElems (fmt n b : Nat) (bs : List Byte) : List Nat × List Nat :=
  if 6 ≤ fmt then
    let m := fmt - 4
    let plane := leNat (bs.take (n * m / 8))
    ((List.range n).map (fun k => plane >>> (m * k) % 2 ^ m), cutElems 1 (n / b) (bs.drop (n * m / 8)))
  else (cutElems ((fmtOfTy (fmt - 1)).width / 8) n bs, [])

/-- The value of an element of a format: an encoding, or a mantissa under its exponent (R104, R113). -/
def elemVal (fmt raw e : Nat) : FVal := if 6 ≤ fmt then bfpValue (fmt - 4) e (sgnOf (fmt - 4) raw) else (fmtOfTy (fmt - 1)).decode raw

/-! ## Cells -/

def Hearth.cell (h : Hearth) (i j : Nat) : Cell := (Tbl.get? h.cells (1024 * i + j)).getD Cell.reset
def Hearth.setCell (h : Hearth) (i j : Nat) (c : Cell) : Hearth :=
  { h with cells := if c = Cell.reset then Tbl.del h.cells (1024 * i + j) else Tbl.set h.cells (1024 * i + j) c }

def Hearth.exp (t : Tbl Nat) (b i j : Nat) : Nat := (Tbl.get? t (1024 * (i / b) + j)).getD 0

/-- Value of c or cp at a cell (R215). -/
def Hearth.cVal (h : Hearth) (i j : Nat) : FVal := elemVal (cfgCfmt h.cfg) (h.cell i j).c.toNat (Hearth.exp h.cExp (cfgB h.cfg) i j)
def Hearth.cpVal (h : Hearth) (i j : Nat) : FVal := elemVal (cfgCfmt h.cfg) (h.cell i j).cp.toNat (Hearth.exp h.cpExp (cfgB h.cfg) i j)

/-- Flags as HSTAT orders them: NX, UF, OF, NV (R236). -/
def hstatFlags (f : Flags) : BitVec 12 := (f.extractLsb' 0 3).setWidth 12 ||| ((f.extractLsb' 4 1).setWidth 12 <<< 3)
/-- Flags set in group n: 0 south, 1 west, 2 cell. -/
def Hearth.accrue (h : Hearth) (n : Nat) (f : Flags) : Hearth := { h with hstat := h.hstat ||| (hstatFlags f <<< (4 * n)) }

/-- An FP32 result in RNE, its flags joined to those of the operation. -/
def rne32 (x : FVal × Flags) : Nat × Flags := let r := roundFmt .f32 false x.1 rneEnv; (r.1, x.2 ||| r.2.flags)
def val32 (n : Nat) : FVal := Fmt.decode .f32 n

/-! ## The stash (R221) -/

def Hearth.stashWord (h : Hearth) (t i : Nat) : BitVec 16 := (Tbl.get? h.stash (64 * t + i)).getD 0
def Hearth.setStash (h : Hearth) (t i : Nat) (x : BitVec 16) : Hearth :=
  { h with stash := if x = 0 then Tbl.del h.stash (64 * t + i) else Tbl.set h.stash (64 * t + i) x }

/-- StashEnc (R221): BF16, or an E4M3 pair with hi in the high byte (assumption 16). -/
def stashEnc (pair : Bool) (x : FVal) : BitVec 16 × Flags :=
  if pair then
    let hi := roundFmt .fE4M3 true x rneEnv
    let d := fAdd 0 x (Fmt.decode .fE4M3 hi.1).neg
    let lo := roundFmt .fE4M3 true d.1 rneEnv
    (BitVec.ofNat 16 (hi.1 * 256 + lo.1), hi.2.flags ||| d.2 ||| lo.2.flags)
  else
    let r := roundFmt .bf16 false x rneEnv
    (BitVec.ofNat 16 r.1, r.2.flags)

/-- StashDec (R221). -/
def stashDec (pair : Bool) (x : BitVec 16) : FVal :=
  if pair then (fAdd 0 (Fmt.decode .fE4M3 (x.toNat / 256)) (Fmt.decode .fE4M3 (x.toNat % 256))).1 else Fmt.decode .bf16 x.toNat

/-- A stash word written at a cell, with the flags of its encoding in the cell group (R236). -/
def Hearth.stashAt (h : Hearth) (t i : Nat) (x : FVal) : Hearth :=
  let r := stashEnc (h.cfg.getLsbD 17) x
  (h.setStash t i r.1).accrue 2 r.2

/-! ## The compute copy (R123, R221) -/

/-- c of a 16-bit or FP8 tile from w: RoundFmt in RNE with the saturating form, in each of these formats (R109, R123). -/
def roundC (cfmt : Nat) (w : BitVec 32) : Nat × Flags :=
  let f := fmtOfTy (cfmt - 1)
  let r := roundFmt f true (val32 w.toNat) rneEnv
  let mag := r.1 % 2 ^ (f.ew + f.mw)
  if !f.fp8 && mag = f.inf then (r.1 - mag + f.max, r.2.flags ||| flNX) else (r.1, r.2.flags)

/-- The rows of block b. -/
def blockRows (b n : Nat) : List Nat := (List.range n).map (fun k => b * n + k)

/-- A column segment of a BFP tile quantised from its w (R114, R123). -/
def Hearth.quantSeg (h : Hearth) (b j : Nat) : Hearth :=
  let m := cfgCfmt h.cfg - 4
  let rows := blockRows b (cfgB h.cfg)
  let (e, ms, r) := quantise m (rows.map (fun i => val32 (h.cell i j).w.toNat)) rneEnv
  let h1 := (rows.zip ms).foldl (fun h (i, x) => h.setCell i j { h.cell i j with c := BitVec.ofNat 16 (ofInt m x) }) h
  ({ h1 with cExp := if e = 0 then Tbl.del h1.cExp (1024 * b + j) else Tbl.set h1.cExp (1024 * b + j) e } : Hearth).accrue 2 r.flags

/-- c set from w at a cell: at once, or in a BFP tile for the whole segment at its last row (R123, R226). -/
def Hearth.copyW (h : Hearth) (i j : Nat) : Hearth :=
  let f := cfgCfmt h.cfg
  let b := cfgB h.cfg
  if 6 ≤ f then (if i % b = b - 1 then h.quantSeg (i / b) j else h)
  else
    let r := roundC f (h.cell i j).w
    (h.setCell i j { h.cell i j with c := BitVec.ofNat 16 r.1 }).accrue 2 r.2

/-- cp ← c at a cell; in a BFP tile the segment's exponent goes with its first row. -/
def Hearth.keepC (h : Hearth) (i j : Nat) : Hearth :=
  let b := cfgB h.cfg
  let h1 := h.setCell i j { h.cell i j with cp := (h.cell i j).c }
  if 6 ≤ cfgCfmt h.cfg ∧ i % b = 0 then
    let e := Hearth.exp h.cExp b i j
    { h1 with cpExp := if e = 0 then Tbl.del h1.cpExp (1024 * (i / b) + j) else Tbl.set h1.cpExp (1024 * (i / b) + j) e }
  else h1

/-! ## One wave at one cell -/

/-- The scale of R126 for order n. -/
def hadScale (n : Nat) : FVal := if n = 16 then .num 1 (-2) else if n = 64 then .num 1 (-3) else val32 0x3E3504F3

def Wave.sum (w : Wave) (k : Nat) : Nat := (Tbl.get? w.sums k).getD 0
def Wave.setSum (w : Wave) (k v : Nat) : Wave := { w with sums := if v = 0 then Tbl.del w.sums k else Tbl.set w.sums k v }
def Wave.elem (w : Wave) (fmt b k : Nat) : FVal := elemVal fmt (w.elems.getD k 0) (w.exps.getD (k / b) 0)

/-- c × x added to a column's sum with one RNE rounding (R120). -/
def mac (c x : FVal) (acc : Nat) : Nat × Flags := rne32 (fFma 0 c x (val32 acc))

/-- An A wave's sum at a cell (R120, R121, R126, R223). -/
def waveA (h : Hearth) (w : Wave) (gi gj i j : Nat) : Hearth × Wave :=
  let b := cfgB h.cfg
  let x := w.elem (cfgXfmt h.cfg) b gi
  if w.opt.rot then
    if w.opt.rb * h.hord ≤ gi ∧ gi < w.opt.rb * h.hord + h.hord ∧ gj < h.hord then
      let sgn := ((Tbl.get? h.signs i).getD 0).getLsbD j
      let r := mac (if sgn then (hadScale h.hord).neg else hadScale h.hord) x (w.sum gj)
      (h.accrue 0 r.2, w.setSum gj r.1)
    else (h, w)
  else if 6 ≤ cfgCfmt h.cfg then
    let m := cfgCfmt h.cfg - 4
    let prod := sgnOf m (h.cell i j).c.toNat * sgnOf m (w.elems.getD gi 0)
    let part := (if i % b = 0 then 0 else (Tbl.get? w.parts gj).getD 0) + prod
    if i % b = b - 1 then
      let ec := Hearth.exp h.cExp b i j
      let ex := w.exps.getD (gi / b) 0
      let w1 := { w with parts := Tbl.del w.parts gj }
      if ec = 255 ∨ ex = 255 then (h, w1.setSum gj (Fmt.nan .f32))
      else
        let r := rne32 (fAdd 0 (val32 (w.sum gj)) (FVal.ofDyadic part ((ec : Int) + ex - 254 - 2 * (m - 2))))
        (h.accrue 0 r.2, w1.setSum gj r.1)
    else (h, { w with parts := Tbl.set w.parts gj part })
  else
    let r := mac (h.cVal i j) x (w.sum gj)
    (h.accrue 0 r.2, w.setSum gj r.1)

/-- A G wave at a cell (R122, R225, R228). -/
def waveG (h : Hearth) (w : Wave) (gi gj i j : Nat) : Hearth × Wave :=
  let c := h.cell i j
  let dy := w.elem (cfgGfmt h.cfg) (cfgB h.cfg) gj
  let wv := if c.v = w.stamp then h.cVal i j else h.cpVal i j
  let r := mac wv dy (w.sum gi)
  let w1 := w.setSum gi r.1
  let h1 := h.accrue 1 r.2
  if w.opt.dx then (h1, w1)
  else
    let x := stashDec (h.cfg.getLsbD 17) (h.stashWord (w.tag.toNat % 16) i)
    let q := mac x dy c.g.toNat
    ((h1.setCell i j { c with g := BitVec.ofNat 32 q.1 }).accrue 2 q.2, w1)

/-- A U wave at a cell (R123, R226). -/
def waveU (h : Hearth) (w : Wave) (i j : Nat) : Hearth :=
  let c := h.cell i j
  let eta := val32 (w.hk.getD 0 0).toNat
  let beta := val32 (w.hk.getD 1 0).toNat
  let lam := val32 (w.hk.getD 2 0).toNat
  let m := rne32 (fFma 0 beta (val32 c.m.toNat) (val32 c.g.toNat))
  let t := rne32 (fFma 0 lam (val32 c.w.toNat) (val32 m.1))
  let x := rne32 (fFma 0 eta.neg (val32 t.1) (val32 c.w.toNat))
  let h1 := (h.keepC i j).accrue 2 (m.2 ||| t.2 ||| x.2)
  let c1 := h1.cell i j
  (h1.setCell i j { c1 with m := BitVec.ofNat 32 m.1, w := BitVec.ofNat 32 x.1, g := 0, v := c1.v + 1 }).copyW i j

/-- An HWSET wave at a cell (R241). -/
def waveSet (h : Hearth) (v : Nat) (i j : Nat) : Hearth :=
  let h1 := h.keepC i j
  let c1 := h1.cell i j
  (h1.setCell i j { c1 with w := BitVec.ofNat 32 v, v := c1.v + 1 }).copyW i j

/-- What a wave does at global cell (gi, gj), which is cell (i, j) of the member h. -/
def waveCell (cols : Nat) (h : Hearth) (w : Wave) (gi gj : Nat) : Hearth × Wave :=
  let i := gi % 64
  let j := gj % 1024
  let t := w.tag.toNat % 16
  match w.kind with
  | .a =>
    let h1 := if w.opt.ns then h else h.stashAt t i (w.elem (cfgXfmt h.cfg) (cfgB h.cfg) gi)
    waveA h1 w gi gj i j
  | .s => (h.stashAt t i (w.elem (cfgXfmt h.cfg) (cfgB h.cfg) gi), w)
  | .hfill =>
    let x := BitVec.ofNat 16 (w.image.getD gi 0)
    ((h.setStash t i x).accrue 2 (stashEnc (h.cfg.getLsbD 17) (stashDec (h.cfg.getLsbD 17) x)).2, w)
  | .g => waveG h w gi gj i j
  | .u => (waveU h w i j, w)
  | .ux => (h.setCell i j { h.cell i j with g := 0 }, w.setSum (gi * cols + gj) (h.cell i j).g.toNat)
  | .hwset => (waveSet h (w.image.getD (gi * cols + gj) 0) i j, w)

end Sys2Proof.Machine
end

