-- ==== Sys2Proof/Machine/HearthArray.lean ====
section
/-! DEFINITION. The Hearth as it runs: peels and their admission tests (R219, R227 to R231, R300), cell events (R217, R218, R233), the stash
scoreboard (R230), edges and drain converters (R216, R217, R235, R244), and the array cycle. -/
namespace Sys2Proof.Machine

/-! ## Edges -/

/-- The route of an edge of a group's Hearth (R168, R244): endpoint codes 0x10 to 0x15 are edges 0 to 5. -/
def State.edgeRoute (s : State) (g edge : Nat) : Option Nat :=
  ((s.routesOfGroup g).find? (fun r => (if edge < 4 then r.2.dst else r.2.src) = (⟨0x10 + edge, 0⟩ : Endpoint))).map (·.1)

def State.edgeTrough (s : State) (g edge : Nat) : Option Nat := Tbl.get? (s.hearth g).binds edge

def State.edgeBound (s : State) (g edge : Nat) : Bool := (s.edgeRoute g edge).isSome || (s.edgeTrough g edge).isSome

def Hearth.buf (h : Hearth) (edge : Nat) : List (List Byte) := (Tbl.get? h.bufs edge).getD []

/-- Units a peel buffer holds per edge (assumption 17). -/
def bufDepth : Nat := 8

def heLoc (s : State) (slot g : Nat) : Loc := ⟨320 + g, g, s.vfOf slot⟩

/-- What a group's Hearth is called as the producer of a route. -/
def edgeRef (g : Nat) : CtxRef := ⟨2 ^ 24, 64 + g⟩

/-- A trough that an edge may move now: configured, consistent (R165, R166). -/
def Trough.usable (t : Trough) : Bool := t.conf && !t.inc

/-- EDGE_UNIT_TAKE's effect (R216, R244): one unit from the edge's binding into the peel buffer. -/
def State.edgeTake (s : State) (g edge : Nat) : State :=
  let h := s.hearth g
  if h.frozen || decide (4 ≤ edge) || decide (bufDepth ≤ (h.buf edge).length) then s
  else
    let put (t : State) (bs : List Byte) : State := t.setHearth g { t.hearth g with bufs := Tbl.set (t.hearth g).bufs edge ((t.hearth g).buf edge ++ [bs]) }
    match s.edgeRoute g edge with
    | some k =>
      match s.routeUnit k with
      | some (bs, n) => put ((List.range n).foldl (fun t _ => t.popRoute k) s) bs
      | none => s
    | none =>
      match (s.edgeTrough g edge).bind (fun k => (Tbl.get? s.troughs k).map (fun t => (k, t))) with
      | none => s
      | some (k, t) =>
        let i := t.tailSlot
        let p := t.edgePosition g edge
        let ps := s.slotPieces t.owner (t.base + i * t.slotBytes) (t.counts.getD i 0).toNat
        if !t.usable then s
        else if !t.takeable s.cycle then s.setTrough k { t with takePtr := t.takePtr.meet t.positions p s.cycle false }
        else if !t.mayTake p s.cycle || s.slotBank ps ≠ (none, true) then s
        else if !t.consistent then s.setTrough k { t with inc := true }
        else put ((s.setTrough k ((t.takeBy p s.cycle).release i)).wakeNow (.troughFree (k / 1024) (k % 1024))) (s.slotBytes (heLoc s t.owner g) ps)

/-- EDGE_UNIT_TAKE (R216, R244). -/
def execEdgeUnitTake (g edge : Nat) (s : State) : Host.Outcome State Fault Refusal := .next (s.edgeTake g edge)

/-! ## The drain converters (R235) -/

/-- Values rounded into a format one by one. -/
def roundAll (f : Fmt) (sat : Bool) : List Nat → REnv → List Nat × REnv
  | [], r => ([], r)
  | v :: vs, r =>
    let (y, r1) := roundFmt f sat (val32 v) r
    let (ys, r2) := roundAll f sat vs r1
    (y :: ys, r2)

/-- Blocks of ob consecutive values quantised: mantissa bits and exponents. -/
def quantAll (m ob : Nat) : Nat → List Nat → REnv → List Int × List Nat × REnv
  | 0, _, r => ([], [], r)
  | n + 1, vs, r =>
    let (e, ms, r1) := quantise m ((vs.take ob).map val32) r
    let (ms', es, r2) := quantAll m ob n (vs.drop ob) r1
    (ms ++ ms', e :: es, r2)

/-- The unit a converter forms of FP32 sums (R235). -/
def convUnit (fmt ob : Nat) (sat : Bool) (vals : List Nat) (r : REnv) : List Byte × REnv :=
  if fmt = 1 then (vals.flatMap (fun v => natBytes v 4), r)
  else if 6 ≤ fmt then
    let m := fmt - 4
    let (ms, es, r1) := quantAll m ob (vals.length / ob) vals r
    let bits := (ms.zipIdx).foldl (fun acc (x, i) => acc + ofInt m x * 2 ^ (m * i)) 0
    (natBytes bits (vals.length * m / 8) ++ es.map (BitVec.ofNat 8), r1)
  else
    let f := fmtOfTy (fmt - 1)
    let (ys, r1) := roundAll f sat vals r
    (ys.flatMap (fun y => natBytes y (f.width / 8)), r1)

/-- An output unit of a wave: its number within the wave, the member it leaves at, whether at the south edge, and the array cycle (after
the admission) in which its last element leaves (R217, R218). -/
structure OutUnit where
  key : Nat
  grp : Nat
  south : Bool
  due : Nat
  deriving DecidableEq, Repr

def Wave.units (w : Wave) (k : Sheet) : List OutUnit :=
  match w.kind with
  | .a => (List.range k.w).map (fun c => ⟨c, k.southOf c, true, w.start + k.yTime (1024 * c + 1023)⟩)
  | .g => (List.range k.h).map (fun r => ⟨r, k.westOf r, false, w.start + k.dxTime (64 * r)⟩)
  | .ux => (List.range k.rows).flatMap (fun i => (List.range k.w).map (fun c => ⟨i * k.w + c, k.southOf c, true, w.start + k.exTime i (1024 * c + 1023)⟩))
  | .s | .u | .hwset | .hfill => []

/-- The sums of a unit in ascending index. -/
def Wave.unitSums (w : Wave) (k : Sheet) (u : OutUnit) : List Nat :=
  match w.kind with
  | .g => (List.range 64).map (fun i => w.sum (64 * u.key + i))
  | .ux => (List.range 1024).map (fun j => w.sum (u.key / k.w * k.cols + 1024 * (u.key % k.w) + j))
  | .a | .s | .u | .hwset | .hfill => (List.range 1024).map (fun j => w.sum (1024 * u.key + j))

/-- Units due by array cycle c and not yet left. -/
def Wave.dueUnits (w : Wave) (k : Sheet) (c : Nat) : List OutUnit := (w.units k).filter (fun u => decide (u.due ≤ c) && !w.left.contains u.key)

def State.setWave (s : State) (g : Nat) (w : Wave) : State :=
  s.setHearth g { s.hearth g with waves := (s.hearth g).waves.map (fun x => if x.num = w.num then w else x) }

def State.wave? (s : State) (g num : Nat) : Option Wave := (s.hearth g).waves.find? (fun w => w.num = num)

/-- A unit formed and queued; an edge with no binding discards it (R235, R244). -/
def State.formUnit (s : State) (g : Nat) (num : Nat) (u : OutUnit) : State :=
  match s.wave? g num with
  | none => s
  | some w =>
    let k := s.sheetAt g
    let h := s.hearth u.grp
    let x := h.cfg
    let vals := w.unitSums k u
    let raw := w.kind == .ux
    let (bs, r) :=
      if u.south then convUnit (if raw then 1 else cfgYfmt x) (cfgOb x) (x.getLsbD 33) vals ⟨fieldN x 39 37, h.sseed, 0⟩
      else convUnit (cfgDxfmt x) (cfgOb x) (x.getLsbD 32) vals ⟨fieldN x 36 34, h.wseed, 0⟩
    let h1 := if u.south then { h with sseed := r.seed }.accrue 0 r.flags else { h with wseed := r.seed }.accrue 1 r.flags
    let h2 := if !s.edgeBound u.grp (if u.south then 4 else 5) then h1
      else if u.south then { h1 with outS := h1.outS ++ [bs] } else { h1 with outW := h1.outW ++ [bs] }
    (s.setHearth u.grp h2).setWave g { w with left := w.left ++ [u.key] }

/-- The clock enable is dropped: a bound output edge has more units due in this array cycle than its converter's queue of 8 can take (R217). -/
def State.arrayStall (s : State) (g : Nat) : Bool :=
  let k := s.sheetAt g
  let due := (s.hearth g).waves.flatMap (fun w => w.dueUnits k (s.hearth g).acyc)
  (s.members g).any (fun m => [true, false].any (fun south =>
    let n := (due.filter (fun u => u.grp = m && u.south = south)).length
    let q := if south then (s.hearth m).outS else (s.hearth m).outW
    s.edgeBound m (if south then 4 else 5) && decide (0 < n) && decide (8 < q.length + n)))

/-- Every unit due in this array cycle, in admission order, lanes ascending (R235). -/
def State.formDue (s : State) (g : Nat) : State :=
  (s.hearth g).waves.foldl (fun t w => ((t.wave? g w.num).map (fun x => x.dueUnits (t.sheetAt g) (t.hearth g).acyc)).getD [] |>.foldl
    (fun t u => t.formUnit g w.num u) t) s

/-- Entries of the first queued unit pushed into a route while there is room. -/
def State.pushEntriesOut (s : State) (g k : Nat) : List (List Byte) → Nat → Nat → State × Nat
  | [], _, n => (s, n)
  | b :: rest, skip, n =>
    if 0 < skip then State.pushEntriesOut s g k rest (skip - 1) n
    else if s.routeHasRoom (edgeRef g) k then State.pushEntriesOut (s.pushRoute (edgeRef g) k b rest.isEmpty) g k rest 0 (n + 1)
    else (s, n)

/-- The first queued unit of a converter pushed through the edge's binding (R235, R244). -/
def State.converterPush (s : State) (g : Nat) (south : Bool) : State :=
  let h := s.hearth g
  let edge := if south then 4 else 5
  let q := if south then h.outS else h.outW
  let drop1 (t : State) : State :=
    t.setHearth g (if south then { t.hearth g with outS := (t.hearth g).outS.drop 1, sentS := 0 } else { t.hearth g with outW := (t.hearth g).outW.drop 1, sentW := 0 })
  match q with
  | [] => s
  | bs :: _ =>
    if h.frozen then s
    else
      match s.edgeRoute g edge with
      | some k =>
        let es := entriesOf (bs.length / 256 + 1) bs
        let (t, n) := s.pushEntriesOut g k es (if south then h.sentS else h.sentW) (if south then h.sentS else h.sentW)
        if es.length ≤ n then drop1 t
        else t.setHearth g (if south then { t.hearth g with sentS := n } else { t.hearth g with sentW := n })
      | none =>
        match (s.edgeTrough g edge).bind (fun k => (Tbl.get? s.troughs k).map (fun t => (k, t))) with
        | none => drop1 s
        | some (k, t) =>
          let i := t.headSlot
          let p := t.edgePosition g edge
          let ps := s.slotPieces t.owner (t.base + i * t.slotBytes) bs.length
          if !t.usable then s
          else if t.slotAt i != .free then s.setTrough k { t with claimPtr := t.claimPtr.meet t.positions p s.cycle false }
          else if !t.mayClaim p s.cycle || s.slotBank ps ≠ (none, true) || !(s.ahead (heLoc s t.owner g) ps t.scope).isEmpty then s
          else if !t.consistent then s.setTrough k { t with inc := true }
          else drop1 ((s.writePieces ⟨t.owner, 0⟩ (heLoc s t.owner g) t.scope ps bs).setTrough k ((t.claimBy p s.cycle).fill i (BitVec.ofNat 32 bs.length) s.cycle))

/-- CONVERTER_PUSH (R217, R235): units due are formed where the queue has room for them, then the first queued unit is pushed. -/
def execConverterPush (g : Nat) (south : Bool) (s : State) : Host.Outcome State Fault Refusal :=
  let lead := s.leadOf g
  let s1 := if (s.hearth lead).frozen || s.arrayStall lead then s else s.formDue lead
  .next (s1.converterPush g south)

/-! ## Cell events -/

/-- The next column of a row that a wave reaches. -/
def Wave.nextCol (w : Wave) (k : Sheet) (i : Nat) : Option Nat :=
  let p := w.passed.getD i 0
  if p < k.cols then some (if w.kind.isSouth then k.cols - 1 - p else p) else none

/-- The wave's work at a cell, and the cell passed. -/
def State.cellEvent (s : State) (g num i j : Nat) : State :=
  match s.wave? g num with
  | none => s
  | some w =>
    let k := s.sheetAt g
    let m := k.member i j
    let (h1, w1) := waveCell k.cols (s.hearth m) w i j
    (s.setHearth m h1).setWave g { w1 with passed := w1.passed.set i (w1.passed.getD i 0 + 1) }

/-- The order of two waves at one cell: by cycle, a G wave before a U wave's effect, then by admission (R225, R233). -/
def Wave.before (w x : Wave) (k : Sheet) (i j : Nat) : Bool :=
  let rank (w : Wave) : Nat := if w.kind.isSouth then 0 else 1
  let a := w.cellTime k i j
  let b := x.cellTime k i j
  decide (a < b) || (a == b && (decide (rank w < rank x) || (rank w == rank x && decide (w.num < x.num))))

/-- Whether a wave's work at a cell may be done now: the cell is the next of its row, its cycle has come, the sum has come from the north,
and every wave due there before has passed. -/
def State.cellReady (s : State) (g : Nat) (w : Wave) (i j : Nat) : Bool :=
  let k := s.sheetAt g
  decide (i < k.rows) && w.nextCol k i == some j && decide (w.cellTime k i j ≤ (s.hearth g).acyc) &&
  (w.kind != .a || i == 0 || decide (j < w.passed.getD (i - 1) 0)) &&
  (s.hearth g).waves.all (fun x => x.num = w.num || !x.before w k i j || x.hasPassed k i j)

/-- WAVE_AT_CELL (R217, R223 to R226, R233). -/
def execWaveAtCell (g w i j : Nat) (s : State) : Host.Outcome State Fault Refusal :=
  match s.wave? g w with
  | none => .next s
  | some x => .next (if !(s.hearth g).frozen && !s.arrayStall g && s.cellReady g x i j then s.cellEvent g w i j else s)

/-- A wave's cells due by this array cycle. -/
def State.rowsDue (s : State) (g num : Nat) : List Nat → State
  | [] => s
  | i :: rest =>
    match s.wave? g num with
    | none => s
    | some w =>
      match w.nextCol (s.sheetAt g) i with
      | none => State.rowsDue s g num rest
      | some j =>
        if w.cellTime (s.sheetAt g) i j ≤ (s.hearth g).acyc then State.rowsDue (s.cellEvent g num i j) g num rest
        else State.rowsDue s g num rest

/-- Every cell event due in this array cycle: at one cell a G wave before a west wave, then in admission order. -/
def State.cellsDue (s : State) (g : Nat) : State :=
  let ws := (s.hearth g).waves
  ((ws.filter (fun w => w.kind.isSouth)) ++ (ws.filter (fun w => !w.kind.isSouth))).foldl
    (fun t w => t.rowsDue g w.num (List.range (s.sheetAt g).rows)) s

/-! ## The stash scoreboard (R230) -/

def Hearth.slotRec (h : Hearth) (t : Nat) : StashRec := h.recs[t % 16]'(Nat.mod_lt _ (by decide))
def Hearth.setRec (h : Hearth) (t : Nat) (r : StashRec) : Hearth := { h with recs := h.recs.set (t % 16) r (Nat.mod_lt _ (by decide)) }

/-- A record's state as a peel sees it: a change made in this array cycle shows in the next one (R300). -/
def StashRec.seen (r : StashRec) (acyc : Nat) : StashState :=
  if r.at_ = acyc + 1 then (match r.st with
    | .valid => .writing
    | .free => .reading
    | .writing => .writing
    | .reading => .reading)
  else r.st

def Hearth.slotState (h : Hearth) (t : Nat) : StashState := (h.slotRec t).seen h.acyc

/-- A slot's record in every member. -/
def State.setRecs (s : State) (g t : Nat) (f : StashRec → StashRec) : State := s.updHearths (s.members g) (fun h => h.setRec t (f (h.slotRec t)))

def Wave.slot (w : Wave) : Nat := w.tag.toNat % 16

/-- The array cycle in which a stashing wave has passed the last cell (R230). -/
def Wave.stashTime (w : Wave) (k : Sheet) : Nat := w.start + k.westTime (k.rows - 1) (k.cols - 1) + 1

/-- WRITING becomes VALID once the slot's wave has passed the last cell (R230). -/
def State.stashValid (s : State) (g t : Nat) : State :=
  let h := s.hearth g
  let r := h.slotRec t
  let k := s.sheetAt g
  if r.st = .writing ∧ h.waves.any (fun w => w.stashes && decide (w.slot = t % 16) && decide (w.tag = r.tag) && decide (w.stashTime k ≤ h.acyc) &&
      w.hasPassed k (k.rows - 1) (k.cols - 1)) then
    s.setRecs g t (fun r => { r with st := .valid, at_ := h.acyc + 1 })
  else s

/-- READING becomes FREE once the slot's G wave's dx_0 has left (R230). -/
def State.stashFree (s : State) (g t : Nat) : State :=
  let h := s.hearth g
  let r := h.slotRec t
  let k := s.sheetAt g
  if r.st = .reading ∧ h.waves.any (fun w => w.kind = .g && !w.opt.dx && decide (w.slot = t % 16) && decide (w.start + k.dxTime 0 ≤ h.acyc) && w.left.contains 0) then
    s.setRecs g t (fun r => { r with st := .free, at_ := h.acyc + 1 })
  else s

/-- STASH_VALID and STASH_FREE (R230). -/
def execStashValid (g t : Nat) (s : State) : Host.Outcome State Fault Refusal := .next (if (s.hearth g).frozen then s else s.stashValid g t)
def execStashFree (g t : Nat) (s : State) : Host.Outcome State Fault Refusal := .next (if (s.hearth g).frozen then s else s.stashFree g t)

/-! ## Admission (R219, R222, R227 to R231, R300) -/

def State.uInFlight (s : State) (g : Nat) : Nat := ((s.hearth g).waves.filter (fun w => w.kind.isU && w.inFlight (s.sheetAt g) (s.hearth g).acyc)).length
def State.gWaves (s : State) (g : Nat) : List Wave := (s.hearth g).waves.filter (fun w => w.kind = .g && w.inFlight (s.sheetAt g) (s.hearth g).acyc)
def Hearth.strict (h : Hearth) : Bool := !h.cfg.getLsbD 19

/-- Tag of the next wave of a queued instruction, and of all it still carries (R222). -/
def PeelOp.tag (o : PeelOp) : BitVec 16 := o.base + BitVec.ofNat 16 o.k
def PeelOp.carries (o : PeelOp) (t : BitVec 16) : Bool :=
  match o.kind with
  | .u | .ux | .hwset => false
  | .a | .s | .g | .hfill => (List.range (o.n - o.k)).any (fun i => o.tag + BitVec.ofNat 16 i = t)

/-- A queued instruction names a stash slot by one of the tags it still carries. -/
def PeelOp.names (o : PeelOp) (t : Nat) : Bool :=
  match o.kind with
  | .u | .ux | .hwset => false
  | .a | .s | .g | .hfill => (List.range (o.n - o.k)).any (fun i => (o.tag + BitVec.ofNat 16 i).toNat % 16 = t % 16)

def PeelOp.stashes (o : PeelOp) : Bool :=
  match o.kind with
  | .a => !o.opt.ns
  | .s | .hfill => true
  | .g | .u | .ux | .hwset => false

/-- A peel fault (R228, R231). -/
def FaultRec.peel (f : FaultRec) : Bool := f.code == Code.hearthVersionLost || f.code == Code.hearthStashInvalid || (f.code == Code.watchdog && f.detail == 4)

/-- The peel faults held by the Hearth's contexts (R232). -/
def State.peelHeld (s : State) (g : Nat) : Nat :=
  ((s.cur :: s.parked).filter (fun c => c.kind = .he && s.leadOf c.engine = g)).foldl (fun n c => max n (c.faults.filter FaultRec.peel).length) 0

def State.peelFault (s : State) (by_ : CtxRef) (code detail : BitVec 8) (edge : Nat) (tag : BitVec 16) : State :=
  s.setCtx by_ (fun c => { c with faults := c.faults ++ [⟨code, detail, BitVec.ofNat 64 (edge * 65536 + tag.toNat), false⟩] })

/-- All the input units of the head wave have arrived (R216). -/
def State.unitsIn (s : State) (g : Nat) (o : PeelOp) : Bool :=
  let k := s.sheetAt g
  let has (m e : Nat) : Bool := !((s.hearth m).buf e).isEmpty
  match o.kind with
  | .a => (List.range k.h).all (fun r => has (k.westOf r) 0) && (!o.opt.seed || (List.range k.w).all (fun c => has (k.northOf c) 1))
  | .s => (List.range k.h).all (fun r => has (k.westOf r) 0)
  | .g => (List.range k.w).all (fun c => has (k.southOf c) 2) && (!o.opt.seed || (List.range k.h).all (fun r => has (k.eastOf r) 3))
  | .u | .ux | .hwset | .hfill => true

/-- The west head's test (R228, R229, R231). -/
def State.westTest (s : State) (g : Nat) (o : PeelOp) : Verdict :=
  let h := s.hearth g
  match o.kind with
  | .u | .hwset =>
    if (if h.strict then (s.gWaves g).isEmpty else (s.gWaves g).all (fun w => w.stamp = h.vw)) then .enter else .hold
  | .ux => .enter
  | .hfill =>
    if h.slotState o.tag.toNat ≠ .free then .hold
    else if (h.vw - o.ver).toNat ≤ 1 then .enter
    else .discard Code.hearthVersionLost false
  | .a | .s | .g =>
    if o.stashes ∧ h.slotState o.tag.toNat ≠ .free then .hold
    else if s.unitsIn g o then .enter else .hold

/-- The south head's test (R228, R229, R231). -/
def State.southTest (s : State) (g : Nat) (o : PeelOp) : Verdict :=
  let h := s.hearth g
  let r := h.slotRec o.tag.toNat
  let st := h.slotState o.tag.toNat
  if (if h.strict then 1 else 2) ≤ s.uInFlight g then .hold
  else if !s.unitsIn g o then .hold
  else if o.opt.dx then .enter
  else if st = .valid ∧ r.tag = o.tag then
    (if (h.vw - r.ver).toNat ≤ 1 then .enter else .discard Code.hearthVersionLost true)
  else if h.cfg.getLsbD 18 ∧ ¬((st = .valid ∨ st = .writing) ∧ r.tag = o.tag) ∧ h.west.all (fun q => !q.carries o.tag) then
    .discard Code.hearthStashInvalid false
  else .hold

/-- The stamp a G wave would take (R227). -/
def State.gStamp (s : State) (g : Nat) (o : PeelOp) : BitVec 8 :=
  if o.opt.dx then (s.hearth g).vw - BitVec.ofNat 8 (s.uInFlight g) else ((s.hearth g).slotRec o.tag.toNat).ver

/-- A U-class head and a G head that may not both be admitted in this cycle (R229). -/
def State.clash (s : State) (g : Nat) (u o : PeelOp) : Bool :=
  u.kind.isU && ((s.hearth g).strict || decide (0 < s.uInFlight g) || s.gStamp g o != (s.hearth g).vw)

/-- Neither peel admits: frozen, the clock enable dropped, 16 peel faults held (R217, R232, R246). -/
def State.peelsIdle (s : State) (g : Nat) : Bool := (s.hearth g).frozen || s.arrayStall g || decide (16 ≤ s.peelHeld g)

/-- What the west peel does now. -/
def State.westVerdict (s : State) (g : Nat) : Verdict :=
  let h := s.hearth g
  match h.west with
  | [] => .hold
  | o :: _ =>
    if s.peelsIdle g || decide (h.acyc < h.nextWest) then .hold
    else
      match s.westTest g o with
      | .enter =>
        match h.south with
        | [] => .enter
        | q :: _ =>
          if decide (h.nextSouth ≤ h.acyc) && s.southTest g q == .enter && s.clash g o q && decide (q.seq < o.seq) then .hold else .enter
      | .hold => .hold
      | .discard c f => .discard c f

/-- What the south peel does now. -/
def State.southVerdict (s : State) (g : Nat) : Verdict :=
  let h := s.hearth g
  match h.south with
  | [] => .hold
  | o :: _ =>
    if s.peelsIdle g || decide (h.acyc < h.nextSouth) then .hold
    else
      match s.southTest g o with
      | .enter =>
        match h.west with
        | [] => .enter
        | q :: _ =>
          if decide (h.nextWest ≤ h.acyc) && s.westTest g q == .enter && s.clash g q o && decide (q.seq < o.seq) then .hold else .enter
      | .hold => .hold
      | .discard c f => .discard c f

/-- One unit taken from a peel buffer. -/
def State.takeBuf (s : State) (m edge : Nat) : State × List Byte :=
  let h := s.hearth m
  (s.setHearth m { h with bufs := (match (h.buf edge).drop 1 with
      | [] => Tbl.del h.bufs edge
      | l => Tbl.set h.bufs edge l) }, (h.buf edge).headD [])

/-- One unit taken from each of several members. -/
def State.takeBufs (s : State) (edge : Nat) : List Nat → State × List (List Byte)
  | [] => (s, [])
  | m :: rest =>
    let (s1, b) := s.takeBuf m edge
    let (s2, bs) := State.takeBufs s1 edge rest
    (s2, b :: bs)

/-- The head instruction has one wave less to come. -/
def PeelOp.next : List PeelOp → List PeelOp
  | [] => []
  | o :: rest => if o.k + 1 < o.n then { o with k := o.k + 1 } :: rest else rest

def seedSums (bs : List (List Byte)) (n : Nat) : Tbl Nat :=
  (((bs.flatMap (cutElems 4 n)).zipIdx).filter (fun x => x.1 != 0)).map (fun x => (x.2, x.1))

/-- One west wave admitted (R219, R226, R227, R230). -/
def State.admitWest (s : State) (g : Nat) (o : PeelOp) : State :=
  let k := s.sheetAt g
  let h := s.hearth g
  let wantsX := o.kind == .a || o.kind == .s
  let (s1, xs) := if wantsX then s.takeBufs 0 ((List.range k.h).map k.westOf) else (s, [])
  let (s2, seeds) := if o.kind == .a && o.opt.seed then s1.takeBufs 1 ((List.range k.w).map k.northOf) else (s1, [])
  let parts := xs.map (unitElems (cfgXfmt h.cfg) 64 (cfgB h.cfg))
  let stamp := if o.kind == .hfill then o.ver else h.vw
  let wave : Wave :=
    { num := s2.nextId, kind := o.kind, start := h.acyc, tag := o.tag, stamp := stamp, opt := o.opt
      elems := parts.flatMap (·.1), exps := parts.flatMap (·.2), hk := [h.hk[0], h.hk[1], h.hk[2]], image := o.image
      passed := List.replicate k.rows 0, sums := seedSums seeds 1024, parts := [], left := [], by_ := o.by_ }
  let gap := if o.kind.isU then (if 6 ≤ cfgCfmt h.cfg then cfgB h.cfg + 2 else 3) else if o.kind == .ux then 64 else 1
  let s3 : State := { s2 with nextId := s2.nextId + 1 }
  let s4 := s3.setHearth g { s3.hearth g with
    waves := (s3.hearth g).waves ++ [wave], west := PeelOp.next (s3.hearth g).west, nextWest := h.acyc + gap, headWest := none }
  let s5 := if o.kind.isU then s4.updHearths (s4.members g) (fun x => { x with vw := x.vw + 1 }) else s4
  if o.stashes then s5.setRecs g o.tag.toNat (fun _ => ⟨o.tag, stamp, .writing, 0⟩) else s5

/-- One G wave admitted (R227, R230). -/
def State.admitSouth (s : State) (g : Nat) (o : PeelOp) : State :=
  let k := s.sheetAt g
  let h := s.hearth g
  let stamp := s.gStamp g o
  let (s1, ys) := s.takeBufs 2 ((List.range k.w).map k.southOf)
  let (s2, seeds) := if o.opt.seed then s1.takeBufs 3 ((List.range k.h).map k.eastOf) else (s1, [])
  let parts := ys.map (unitElems (cfgGfmt h.cfg) 1024 (cfgB h.cfg))
  let wave : Wave :=
    { num := s2.nextId, kind := .g, start := h.acyc, tag := o.tag, stamp := stamp, opt := o.opt
      elems := parts.flatMap (·.1), exps := parts.flatMap (·.2), hk := [], image := []
      passed := List.replicate k.rows 0, sums := seedSums seeds 64, parts := [], left := [], by_ := o.by_ }
  let s3 : State := { s2 with nextId := s2.nextId + 1 }
  let s4 := s3.setHearth g { s3.hearth g with
    waves := (s3.hearth g).waves ++ [wave], south := PeelOp.next (s3.hearth g).south, nextSouth := h.acyc + 1, headSouth := none }
  if o.opt.dx then s4 else s4.setRecs g o.tag.toNat (fun r => { r with st := .reading })

/-- A head wave discarded: its units taken and dropped, its slot freed where the rule says so, the peel fault raised (R228, R231, R243). -/
def State.discardHead (s : State) (g : Nat) (o : PeelOp) (west : Bool) (code : BitVec 8) (free : Bool) : State :=
  let k := s.sheetAt g
  let s1 := if west then s else (s.takeBufs 2 ((List.range k.w).map k.southOf)).1
  let s2 := if !west && o.opt.seed then (s1.takeBufs 3 ((List.range k.h).map k.eastOf)).1 else s1
  let s3 := if free then s2.setRecs g o.tag.toNat (fun r => { r with st := .free }) else s2
  let h := s3.hearth g
  let s4 := s3.setHearth g (if west then { h with west := PeelOp.next h.west, nextWest := h.acyc + 1, headWest := none }
    else { h with south := PeelOp.next h.south, nextSouth := h.acyc + 1, headSouth := none })
  s4.peelFault o.by_ code (BitVec.ofNat 8 (o.tag.toNat % 16)) (if west then 0 else 2) o.tag

/-- The further lanes of one admission: waves of the same instruction whose conditions hold too (R214). -/
def State.moreLanes (s : State) (g : Nat) (west : Bool) (seq : Nat) : Nat → State
  | 0 => s
  | n + 1 =>
    let h := s.hearth g
    match (if west then h.west else h.south) with
    | [] => s
    | o :: _ =>
      if o.seq = seq ∧ (if west then s.westTest g o else s.southTest g o) = .enter then
        State.moreLanes (if west then s.admitWest g o else s.admitSouth g o) g west seq n
      else s

/-- What the peels do in this array cycle, fixed from the state in which the first of them moves (R219, R229, R300). -/
def State.peelPlan (s : State) (g : Nat) : Verdict × Verdict :=
  match (s.hearth g).plan with
  | some (c, w, v) => if c = (s.hearth g).acyc then (w, v) else (s.westVerdict g, s.southVerdict g)
  | none => (s.westVerdict g, s.southVerdict g)

/-- A peel's move in this array cycle (R219, R300). -/
def State.waveAdmit (s0 : State) (g : Nat) (west : Bool) : State :=
  let plan := s0.peelPlan g
  let h0 := s0.hearth g
  let s := if s0.peelsIdle g then s0 else s0.setHearth g { h0 with plan := some (h0.acyc, plan.1, plan.2) }
  let h := s.hearth g
  let lanes := lanesOf (cfgCfmt h.cfg) - 1
  match (if west then h.west else h.south) with
  | [] => s
  | o :: _ =>
    match (if s.peelsIdle g || decide (h.acyc < if west then h.nextWest else h.nextSouth) then .hold else if west then plan.1 else plan.2) with
    | .hold => s
    | .discard c f => s.discardHead g o west c f
    | .enter =>
      let s1 := if west then s.admitWest g o else s.admitSouth g o
      match o.kind with
      | .a | .s | .g => s1.moreLanes g west o.seq lanes
      | .u | .ux | .hwset | .hfill => s1

/-- WAVE_ADMIT (R300). -/
def execWaveAdmit (g : Nat) (west : Bool) (s : State) : Host.Outcome State Fault Refusal := .next (s.waveAdmit g west)

/-- A head wave that has waited for WDOG × 1,024 array cycles raises WATCHDOG with detail 4 and its count restarts (R231). -/
def State.peelWatchdog (s : State) (g : Nat) (west : Bool) : State :=
  let h := s.hearth g
  match (if west then h.west else h.south), (if west then h.headWest else h.headSouth) with
  | o :: _, some t =>
    let bound := ((s.ctx? o.by_).map (fun c => c.wdog.toNat)).getD 4096 * 1024
    if decide (t + bound ≤ h.acyc) && !h.frozen && decide (s.peelHeld g < 16) then
      (s.setHearth g (if west then { h with headWest := some h.acyc } else { h with headSouth := some h.acyc })).peelFault o.by_ Code.watchdog 4
        (if west then 0 else 2) o.tag
    else s
  | _, _ => s

/-- PEEL_WATCHDOG (R231). -/
def execPeelWatchdog (g : Nat) (west : Bool) (s : State) : Host.Outcome State Fault Refusal := .next (s.peelWatchdog g west)

/-! ## The array cycle -/

/-- What ends with this array cycle: stash transitions, waves past their last event, heads that begin to wait. -/
def State.endArrayCycle (s : State) (g : Nat) : State :=
  let s1 := (List.range 16).foldl (fun t i => (t.stashValid g i).stashFree g i) s
  let k := s1.sheetAt g
  let h := s1.hearth g
  let head (l : List PeelOp) (t : Option Nat) : Option Nat := if l.isEmpty then none else some (t.getD h.acyc)
  s1.setHearth g { h with
    waves := h.waves.filter (fun w => decide (h.acyc < w.lastTime k) || (w.stashes && decide (h.acyc < w.stashTime k)))
    headWest := head h.west h.headWest
    headSouth := head h.south h.headSouth
    acyc := h.acyc + 1 }

/-- One cycle of the array's clock (R217): everything due happens, unless the clock enable is dropped or the Hearth is frozen. -/
def State.arrayCycle (s : State) (g : Nat) : State :=
  if (s.hearth g).frozen || s.arrayStall g then s else ((s.cellsDue g).formDue g).endArrayCycle g

/-- The Hearth or sheet is quiescent (R220). -/
def State.isQuiet (s : State) (g : Nat) : Bool :=
  let h := s.hearth g
  h.waves.all (fun w => !w.inFlight (s.sheetAt g) h.acyc) && h.west.isEmpty && h.south.isEmpty &&
  (s.members g).all (fun m => (s.hearth m).outS.isEmpty && (s.hearth m).outW.isEmpty) &&
  decide (s.peelHeld g = 0) && !h.frozen

/-- A slot is neither WRITING nor named by a queued or in-flight G wave (R234, R243). -/
def State.slotIdle (s : State) (g t : Nat) : Bool :=
  let h := s.hearth g
  let r := h.slotRec t
  r.st != .writing && r.st != .reading && h.south.all (fun o => o.opt.dx || !o.names t) &&
  (s.gWaves g).all (fun w => w.opt.dx || decide (w.slot ≠ t % 16))

end Sys2Proof.Machine
end

