-- ==== Sys2Proof/Machine/VecMem.lean ====
section
/-! DEFINITION. Vector loads and stores (R115 to R118, R205 to R209, R359): element addresses, the checks of R206, formatted pages,
element replay, and the landing of a vector load. -/
namespace Sys2Proof.Machine

/-! ## Formatted pages (R115 to R118) -/

/-- Whether a FMT is a BFP format, and its mantissa width. -/
def isBfp (fmt : BitVec 4) : Bool := decide (6 ≤ fmt.toNat)
def bfpM (fmt : BitVec 4) : Nat := fmt.toNat - 4
/-- Elements per block, mantissa bytes per block, blocks per frame, exponent plane offset (R117). -/
def bfpB (blk : Bool) : Nat := if blk then 32 else 16
def bfpBytes (fmt : BitVec 4) (blk : Bool) : Nat := bfpB blk * bfpM fmt / 8
def bfpNb (fmt : BitVec 4) (blk : Bool) : Nat := 32 * (2048 / (bfpBytes fmt blk + 1))
def bfpX (fmt : BitVec 4) (blk : Bool) : Nat := bfpNb fmt blk * bfpBytes fmt blk

/-- Bytes per element of a page that is not BFP (R205); a raw page takes the tile's width. -/
def fmtBytes (fmt : BitVec 4) (w : Nat) : Nat := if fmt = 0 then w else (fmtOfTy (fmt.toNat - 1)).width / 8

/-- The value a raw page element has: an encoding, or mantissa field + 256 × exponent of a BFP page. -/
def rawVal (fmt : BitVec 4) (raw : Nat) : FVal :=
  if isBfp fmt then bfpValue (bfpM fmt) (raw / 256) (sgnOf (bfpM fmt) (raw % 256))
  else (fmtOfTy (fmt.toNat - 1)).decode raw

/-- Whether elements move as bits: a raw page, or one of the element type itself (R116). -/
def movesBits (fmt : BitVec 4) (ty : BitVec 3) : Bool := fmt = 0 || fmt.toNat = ty.toNat + 1

/-- One loaded element as the tile holds it (R116). -/
def convIn (k : Conv) (raw : Nat) (r : REnv) : Nat × REnv :=
  if movesBits k.fmt k.ty then (raw % 2 ^ (8 * k.w), r) else roundFmt (fmtOfTy k.ty.toNat) true (rawVal k.fmt raw) r

/-- Elements into a tile in element order. -/
def loadElems (k : Conv) : List (Nat × Nat) → Tile → REnv → Tile × REnv
  | [], t, r => (t, r)
  | (pos, raw) :: rest, t, r =>
    let x := convIn k raw r
    loadElems k rest (putElem t k.w pos x.1) x.2

/-- One stored element as the page holds it, a page that is not BFP (R116). -/
def convOut (fmt : BitVec 4) (ty : BitVec 3) (v : Nat) (r : REnv) : Nat × REnv :=
  if movesBits fmt ty then (v, r) else roundFmt (fmtOfTy (fmt.toNat - 1)) true ((fmtOfTy ty.toNat).decode v) r

/-! ## Element addresses (R205, R208) -/

/-- An element of a vector access: position, address, bytes, and on a BFP page the mantissa's bit, the block's exponent address and
the element's place in its block. -/
structure VElem where
  pos : Nat
  va : Nat
  len : Nat
  bit : Nat
  exp : Option Nat
  inBlk : Nat
  misaligned : Bool
  beyond : Bool
  deriving DecidableEq, Repr

/-- Element i counted from address `base` (R205, R117, R118). -/
def vElem (p : PageInfo) (w pos base i : Nat) : VElem :=
  if isBfp p.fmt then
    let fb := base / 65536 * 65536
    let b := bfpBytes p.fmt p.blk
    let nb := bfpNb p.fmt p.blk
    let n := (base - fb) / b * bfpB p.blk + i
    let m := bfpM p.fmt
    { pos := pos, va := fb + n * m / 8, len := (n * m % 8 + m + 7) / 8, bit := n * m % 8
      exp := some (fb + bfpX p.fmt p.blk + n / bfpB p.blk), inBlk := n % bfpB p.blk
      misaligned := (base - fb) % b ≠ 0 || decide (nb ≤ (base - fb) / b), beyond := decide (nb ≤ n / bfpB p.blk) }
  else
    let e := fmtBytes p.fmt w
    { pos := pos, va := (base + i * e) % 2 ^ 64, len := e, bit := 0, exp := none, inBlk := 0, misaligned := base % e ≠ 0, beyond := false }

/-- The addressing of the six forms. -/
inductive VMode where
  | contiguous | strided (off : BitVec 9) | indexed (vi : BitVec 4)
  deriving DecidableEq, Repr

/-- Base and element count of position k. -/
def vBase (c : Context) (md : VMode) (a : Word) (k : Nat) : Nat × Nat :=
  match md with
  | .contiguous => (a.toNat, k)
  | .strided off => ((a + 32 * BitVec.ofNat 64 (k / c.shape.cols) * off.signExtend 64).toNat, k % c.shape.cols)
  | .indexed vi => (a.toNat, elemAt (c.tile vi) c.shape.w k)

/-- Pages touched, first addresses in element order. -/
def firstPages (es : List VElem) : List (Nat × Nat) :=
  es.foldl (fun acc e => if acc.any (fun x => x.1 = e.va / 65536) then acc else acc ++ [(e.va / 65536, e.va)]) []

/-- Elements cut into runs of B. -/
def runsOf (b : Nat) : Nat → List VElem → List (List VElem)
  | 0, _ => []
  | n + 1, es => if es.isEmpty then [] else es.take b :: runsOf b n (es.drop b)

/-- The blocks of a BFP store in element order. -/
def blockElems (p : PageInfo) (es : List VElem) : List (List VElem) := runsOf (bfpB p.blk) es.length es

/-- A run is one block, whole (R118). -/
def wholeBlock (p : PageInfo) (es : List VElem) : Bool :=
  es.map (·.inBlk) == List.range (bfpB p.blk) && es.all (fun e => e.exp = (es.headD e).exp)

/-- The lowest element of a block that a store does not cover whole with active elements (R118). -/
def partialBlock (p : PageInfo) (es : List VElem) : Option VElem :=
  ((blockElems p es).find? (fun b => !wholeBlock p b)).bind List.head?

/-! ## Pieces and values -/

/-- The bytes of an element on its page, cut at sectors, and the exponent byte last. -/
def elemPieces (info : PageInfo) (e : VElem) : List Piece :=
  let base := info.pa / 65536 * 65536
  let at_ (va len : Nat) : Piece := { pa := base + va % 65536, len := len, page := { info with pa := base + va % 65536 } }
  (sectorCuts e.va 4 e.len).map (fun (a, n) => at_ a n) ++ (match e.exp with
    | some x => [at_ x 1]
    | none => [])

/-- The raw value of an element from its bytes. -/
def rawOf (fmt : BitVec 4) (bit : Nat) (bs : List Byte) : Nat :=
  if isBfp fmt then leNat bs.dropLast >>> bit % 2 ^ bfpM fmt + 256 * (bs.getLastD 0).toNat else leNat bs

/-- The block an element lies in, by the address of its exponent. -/
def ElemAccess.block (e : ElemAccess) : Nat := (e.pieces.getLast?.map (·.pa)).getD 0

/-- The single-copy-atomic units of a load: each element, or on a BFP page the elements of one block (R118, R207). -/
def loadUnits (fmt : BitVec 4) (es : List ElemAccess) : List (List ElemAccess) :=
  if isBfp fmt then (distinct (es.map ElemAccess.block)).map (fun k => es.filter (fun e => e.block = k)) else es.map (fun e => [e])

/-- The raw values of the elements of a unit, from its bytes. -/
def unitValues (fmt : BitVec 4) : List ElemAccess → List Byte → List (Nat × Nat)
  | [], _ => []
  | e :: rest, bs =>
    let n := (e.pieces.map (·.len)).sum
    (e.pos, rawOf fmt e.bit (bs.take n)) :: unitValues fmt rest (bs.drop n)

/-- Merging done elements in position order. -/
def addDone (done new : List (Nat × Nat)) : List (Nat × Nat) := new.foldl (fun t x => Tbl.set t x.1 x.2) done

/-- Elements read now, unit by unit: their raw values in position order. -/
def State.readElems (s : State) (c : Context) (before : Nat) (fmt : BitVec 4) (es : List ElemAccess) : State × List (Nat × Nat) :=
  (loadUnits fmt es).foldl (fun acc u =>
    let r := acc.1.readUnit c before (u.flatMap (·.pieces))
    (r.1, addDone acc.2 (unitValues fmt u r.2))) (s, [])

/-- A vector load lands: the tile is written whole, its flags accrue (R127, R206); the context's later releases publish what it has seen (R290). -/
def State.landVector (s : State) (c : Context) (q : Pend) (base : Tile) (got : List (Nat × Nat)) (elems : List ElemAccess) (k : Conv) : State :=
  let (s1, raws) := s.readElems c q.id k.fmt elems
  let (t, r) := loadElems k (addDone got raws) base ⟨k.mode, k.seed, 0⟩
  let s2 := (s1.meterPieces c (elems.flatMap (·.pieces))).learn c q.id
  s2.setCtx c.ref (fun c =>
    let c1 := { c with pend := c.pend.filter (fun x => x.id ≠ q.id), fcsr := putEnv c.fcsr { envOf c.fcsr with flags := r.flags } }
    match q.dst with
    | .tile n => c1.setTile n t
    | .s _ => c1
    | .mask _ => c1
    | .none => c1)

/-- Two elements read a common byte. -/
def ElemAccess.meets (a b : ElemAccess) : Bool :=
  a.pieces.any (fun p => b.pieces.any (fun q => decide (p.pa < q.pa + q.len) && decide (q.pa < p.pa + p.len)))

/-- Piece or element number k of a pending load performed by itself, before the load lands (R143, R207, R287, R289): not of an acquire, nor before an
earlier element to a common byte or to an SO page. -/
def State.landPiece (s : State) (r : CtxRef) (id k : Nat) : State :=
  match s.ctx? r with
  | none => s
  | some c =>
    match c.pend.find? (fun q => q.id = id) with
    | none => s
    | some q =>
      let put (t : State) (w : Result) : State :=
        t.setCtx r (fun c => { c with pend := c.pend.map (fun x => if x.id = id then { x with what := w } else x) })
      match q.what with
      | .load ps signed none =>
        (match ps[k]? with
         | some (p, none) =>
           if s.mayRead c id [p] then
             let (s1, bs) := s.readUnit c id [p]
             put (s1.learn c id) (.load (ps.set k (p, some bs)) signed none)
           else s
         | some (_, some _) => s
         | none => s)
      | .vload base got es conv =>
        (match es[k]? with
         | none => s
         | some e =>
           let us := es.filter (fun x => x.pos = e.pos || (isBfp conv.fmt && x.block = e.block))
           let earlier := (es.take k).filter (fun x => !us.contains x)
           let ps := us.flatMap (·.pieces)
           if s.mayRead c id ps && earlier.all (fun x => !us.any x.meets && !(e.pieces.any (fun p => p.page.ord == .so))) then
             let (s1, raws) := s.readElems c id conv.fmt us
             put ((s1.meterPieces c ps).learn c id) (.vload base (addDone got raws) (es.filter (fun x => !us.contains x)) conv)
           else s)
      | .load _ _ (some _) => s
      | .value _ => s
      | .held => s
      | .atomic _ _ _ _ _ _ => s

/-- A whole BFP block stored: mantissas as one bit string, the exponent, one single-copy-atomic unit (R118). -/
def holdBlock (info : PageInfo) (blk : List VElem) (e : Nat) (ms : List Int) : Act Unit := do
  match blk with
  | [] => pure ()
  | e0 :: _ =>
    let base := info.pa / 65536 * 65536
    let m := bfpM info.fmt
    let n := bfpBytes info.fmt info.blk
    let bits := (ms.zipIdx).foldl (fun acc (x, i) => acc + ofInt m x * 2 ^ (m * i)) 0
    let bs := natBytes bits n
    let cuts := sectorCuts e0.va 4 n
    let at_ (va len : Nat) : Piece := { pa := base + va % 65536, len := len, page := { info with pa := base + va % 65536 } }
    let _ ← holdUnit (BitVec.ofNat 64 e0.va) none none (cuts.map (fun (a, k) => (at_ a k, (bs.drop (a - e0.va)).take k)) ++ (match e0.exp with
      | some x => [(at_ x 1, [BitVec.ofNat 8 e])]
      | none => []))

/-! ## The access -/

/-- Two elements share a byte. -/
def VElem.meets (a b : VElem) : Bool :=
  (decide (a.va < b.va + b.len) && decide (b.va < a.va + a.len)) || (a.exp.isSome && a.exp = b.exp)

/-- Elements that may be performed now: on a translated page, sharing no byte with an earlier element that may not, and behind none such on an SO
page (R207, R359). -/
def readyElems (hit so : VElem → Bool) : List VElem → List VElem → List VElem
  | _, [] => []
  | blocked, e :: rest =>
    if hit e && !blocked.any (VElem.meets e) && (blocked.isEmpty || !so e) then e :: readyElems hit so blocked rest else readyElems hit so (e :: blocked) rest

/-- The context's staging for the current instruction. -/
def Context.staged (c : Context) : Option (List (Nat × Nat)) := (c.staging.find? (fun x => x.1 = c.pc)).map (·.2)
def Context.setStaged (c : Context) (l : Option (List (Nat × Nat))) : Context :=
  { c with staging := c.staging.filter (fun x => x.1 ≠ c.pc) ++ (match l with
      | some l => [(c.pc, l)]
      | none => []) }

/-- Values to store per element, in element order, and the rounding state after them; on a BFP page per block: exponent and mantissas. -/
def storeValues (c : Context) (fmt : BitVec 4) (ty : BitVec 3) (vd : BitVec 4) (es : List VElem) : List (Nat × Nat) × REnv :=
  es.foldl (fun acc e =>
    let x := convOut fmt ty (elemAt (c.tile vd) (floatW ty) e.pos) acc.2
    (acc.1 ++ [(e.pos, x.1)], x.2)) ([], envOf c.fcsr)

def storeBlocks (c : Context) (p : PageInfo) (ty : BitVec 3) (vd : BitVec 4) (bs : List (List VElem)) : List (List VElem × Nat × List Int) × REnv :=
  bs.foldl (fun acc b =>
    let (e, ms, r) := quantise (bfpM p.fmt) (b.map (fun g => (fmtOfTy ty.toNat).decode (elemAt (c.tile vd) (floatW ty) g.pos))) acc.2
    (acc.1 ++ [(b, e, ms)], r)) ([], envOf c.fcsr)

/-- A page of the access: number, first address, attributes, and its translation. -/
structure VPage where
  num : Nat
  va : Nat
  page : PageInfo
  x : Xl PageInfo
  deriving DecidableEq, Repr

def pageOfElem (ps : List VPage) (e : VElem) : Option PageInfo :=
  match ps.find? (fun p => p.num = e.va / 65536) with
  | some p => match p.x with
    | .ok i => some i
    | .fault _ _ => none
    | .miss _ _ => none
  | none => none

/-- Checks 2, 3 and the translation of every page (R206). -/
def vPages (p0 : PageInfo) (rights : BitVec 3) (es : List VElem) : Act (List VPage) := do
  let vf ← curVf
  let firsts ← (firstPages es).mapM (fun (n, va) => do
    let s ← get
    let (_, e1) ← xl (stage1 s vf (BitVec.ofNat 64 va) rights) (BitVec.ofNat 64 va)
    pure (n, va, pageOf e1))
  match firsts.find? (fun (_, _, p) => p.ord != p0.ord || p.cohr != p0.cohr || p.fmt != p0.fmt || p.blk != p0.blk) with
  | some (_, va, _) => raise Code.attrSplit 0 (BitVec.ofNat 64 va)
  | none =>
    let s ← get
    pure (firsts.map (fun (n, va, p) => ⟨n, va, p, translateFull s vf (BitVec.ofNat 64 va) rights⟩))

/-- Check 6 for the pages that hit; one that fails after a GRANT is delivered as a denial is, and what was staged is dropped (R206, R209). -/
def vBanks (ps : List VPage) : Act Unit :=
  ps.forM (fun p => match p.x with
    | .ok i => do
      let s ← get
      if s.cur.staged.isSome && s.bankCheck i.pa = (none, false) then
        modCur (fun c => c.setStaged none)
        raiseKept Code.permission 2 (BitVec.ofNat 64 p.va)
      else checkBank i.pa (BitVec.ofNat 64 p.va)
    | .fault _ _ => pure ()
    | .miss _ _ => pure ())

/-- Misses: PERMISSION at the lowest element of a denied page, else requests for every missing page and the wait (R209, R357). -/
def vMisses (ps : List VPage) : Act Unit := do
  let s ← get
  let miss := ps.filterMap (fun p => match p.x with
    | .miss ipa r => some (p.va, ipa, r)
    | .ok _ => none
    | .fault _ _ => none)
  match miss.find? (fun (_, ipa, _) => s.cur.denied.contains ipa) with
  | some (va, _, _) =>
    modCur (fun c => ({ c with denied := c.denied.filter (fun p => !miss.any (fun m => m.2.1 = p)) } : Context).setStaged none)
    raiseKept Code.permission 1 (BitVec.ofNat 64 va)
  | none =>
    let vf ← curVf
    modify (fun s => miss.foldl (fun t (_, ipa, r) => t.joinRequest vf t.cur.ref ipa r) s)
    waitKeep (.pageReply (miss.map (fun m => m.2.1)))

/-- An element as the access that it is. -/
def VElem.access (ps : List VPage) (e : VElem) : ElemAccess := ⟨e.pos, (pageOfElem ps e).elim [] (fun i => elemPieces i e), e.bit⟩

/-- Remote elements of a load, one after another as their responses come (R377); one on an SO page after every earlier element (R207). -/
def vRemote (fmt : BitVec 4) (ps : List VPage) (es : List VElem) : List VElem → List (Nat × Nat) → Act (List (Nat × Nat))
  | [], done => pure done
  | e :: rest, done => do
    match pageOfElem ps e with
    | none => vRemote fmt ps es rest done
    | some i =>
      if i.remote.isNone || done.any (fun x => x.1 = e.pos) then vRemote fmt ps es rest done
      else
        modCur (fun c => c.setStaged (some done))
        let before := es.takeWhile (fun x => x.pos ≠ e.pos)
        if i.ord == .so && before.any (fun x => !done.any (fun d => d.1 = x.pos)) then waitKeep .allLanded
        let parts ← remotePieces (BitVec.ofNat 64 e.va) (elemPieces i e)
        vRemote fmt ps es rest (addDone done [(e.pos, rawOf fmt e.bit (parts.flatMap (fun x => x.2.getD [])))])

/-- The result of a vector load: the tile before with MZ applied, busy until it lands (R205, R206). -/
def vLoadIssue (vd msk : BitVec 4) (mz : Bool) (ty : BitVec 3) (fmt : BitVec 4) (got : List (Nat × Nat)) (elems : List ElemAccess) : Act Unit := do
  let id ← freshId
  modify (fun s =>
    let c := s.cur
    let w := c.shape.w
    let base := (writeElems w (fun _ => false) mz (fun _ r => (0, r)) (c.shape.poss.filter (fun k => !c.active msk k)) (c.tile vd) rneEnv).1
    let n := if movesBits fmt ty then 0 else got.length + elems.length
    let seed' := if fieldN c.fcsr 2 0 = 5 then (List.range n).foldl (fun z _ => nextSeed z) (c.fcsr.extractLsb' 32 32) else c.fcsr.extractLsb' 32 32
    s.setCur (fun c => ({ c with
      pend := c.pend ++ [⟨id, .tile vd, s.cycle + s.latency 9 8, .vload base got elems ⟨fmt, ty, w, fieldN c.fcsr 2 0, c.fcsr.extractLsb' 32 32⟩, none⟩]
      fcsr := seed' ++ c.fcsr.extractLsb' 0 32 } : Context).setStaged none))

/-- What every form does last: the slot's post-increment and the next word. -/
def vDone (as : BitVec 3) (pi : Bool) : Act Unit := do
  modCur (fun c => if pi then c.postIncrement as else c)
  endAccess
  advance

/-- The access of a load after its checks: with a page missing or remote, the elements that can be read are read and kept (R209, R359). -/
def vLoad (vd msk : BitVec 4) (mz : Bool) (ty : BitVec 3) (fmt : BitVec 4) (ps : List VPage) (es : List VElem) : Act Unit := do
  let s ← get
  let done := s.cur.staged.getD []
  let near (e : VElem) : Bool := (pageOfElem ps e).any (fun i => i.remote.isNone)
  if es.all near then
    vLoadIssue vd msk mz ty fmt done ((es.filter (fun e => !done.any (fun x => x.1 = e.pos))).map (VElem.access ps))
  else
    let left := es.filter (fun e => !done.any (fun x => x.1 = e.pos))
    let ok (e : VElem) : Bool := near e && s.mayRead s.cur s.nextId (e.access ps).pieces
    let acc := (readyElems ok (fun e => (pageOfElem ps e).any (fun i => i.ord == .so)) [] left).map (VElem.access ps)
    let (s1, raws) := s.readElems s.cur s.nextId fmt acc
    set (s1.meterPieces s.cur (acc.flatMap (·.pieces)))
    let done1 := addDone done raws
    modCur (fun c => { c.setStaged (some done1) with past := c.past.or (some ⟨c.pc, none, [], s.cycle, []⟩) })
    if es.any (fun e => (pageOfElem ps e).isNone) then vMisses ps
    else
      let done2 ← vRemote fmt ps es es done1
      vLoadIssue vd msk mz ty fmt done2 ((es.filter (fun e => !done2.any (fun x => x.1 = e.pos))).map (VElem.access ps))

/-- Records made from number `n` on share one request per sector (R147, R206). -/
def State.shareRequests (s : State) (n : Nat) : State :=
  { s with hold := s.hold.map (fun r =>
      if n ≤ r.id then { r with req := ((s.hold.find? (fun q => decide (n ≤ q.id) && q.pa / 32 = r.pa / 32)).map (·.req)).getD r.req } else r) }

/-- The stores of elements that are performed now, one unit for each element or block. -/
def vStoreNow (p : PageInfo) (ps : List VPage) (vals : List (Nat × Nat)) (blocks : List (List VElem × Nat × List Int)) (now : List VElem) : Act Unit := do
  let n := (← get).nextId
  if isBfp p.fmt then
    blocks.forM (fun b => match b.1 with
      | [] => pure ()
      | e :: _ => if now.any (fun x => x.pos = e.pos) then (match pageOfElem ps e with
          | some i => holdBlock i b.1 b.2.1 b.2.2
          | none => pure ()) else pure ())
  else
    now.forM (fun e => match pageOfElem ps e with
      | some i => do
        let _ ← holdUnit (BitVec.ofNat 64 e.va) none none ((elemPieces i e).map (fun q => (q, natBytes ((Tbl.get? vals e.pos).getD 0) e.len)))
        pure ()
      | none => pure ())
  modify (fun s => s.shareRequests n)

/-- The access of a store after its checks; `scatter` performs nothing until every element has translated (R209). -/
def vStore (scatter : Bool) (vd : BitVec 4) (ty : BitVec 3) (p : PageInfo) (ps : List VPage) (es : List VElem) : Act Unit := do
  let s ← get
  let done := s.cur.staged.getD []
  let (vals, r1) := if isBfp p.fmt then ([], envOf s.cur.fcsr) else storeValues s.cur p.fmt ty vd es
  let (blocks, r2) := if isBfp p.fmt then storeBlocks s.cur p ty vd (blockElems p es) else ([], envOf s.cur.fcsr)
  let missing := es.any (fun e => (pageOfElem ps e).isNone)
  let left := es.filter (fun e => !done.any (fun x => x.1 = e.pos))
  left.forM (fun e => match pageOfElem ps e with
    | some i => if i.remote.isSome then (do let _ ← remoteTarget (i.pa / 65536 * 65536 + e.va % 65536) e.len true (BitVec.ofNat 64 e.va); pure ()) else pure ()
    | none => pure ())
  if missing && scatter then vMisses ps
  else
    let now := readyElems (fun e => (pageOfElem ps e).isSome) (fun e => (pageOfElem ps e).any (fun i => i.ord == .so)) [] left
    vStoreNow p ps vals blocks now
    if missing then
      modCur (fun c => c.setStaged (some (addDone done (now.map (fun e => (e.pos, 0))))))
      vMisses ps
    else
      modCur (fun c => ({ c with fcsr := putEnv c.fcsr (if isBfp p.fmt then r2 else r1) } : Context).setStaged none)

/-- The elements check 1 sees where the page of A has no stage-1 translation: its format is then unknown, and A is held to the tile's
width (assumption 26). -/
def unmappedElems (x : Xl (Nat × Word)) (elems : PageInfo → List VElem) : List VElem :=
  match x with
  | .fault _ _ => elems (pageOf 0)
  | .ok _ => []
  | .miss _ _ => []

/-- Check 1 of R206. -/
def raiseMisaligned (es : List VElem) : Act Unit :=
  match es.find? (·.misaligned) with
  | some e => raise Code.misaligned 0 (BitVec.ofNat 64 e.va)
  | none => pure ()

/-- VLD, VST, VLDS, VSTS, VGATH and VSCAT (R205 to R209). -/
def vmemForm (load scatter : Bool) (md : VMode) (disp : BitVec 9) (vd msk : BitVec 4) (mz : Bool) (ty : BitVec 3) (as : BitVec 3) (pi : Bool) : Act Unit := do
  checkWidth (floatW ty)
  awaitTiles (.tile vd :: (match md with
    | .contiguous => []
    | .strided _ => []
    | .indexed vi => [.tile vi]) ++ maskUse msk)
  awaitAcquire
  let s ← get
  let c := s.cur
  let a := c.a[as.toNat]'as.isLt + 32 * disp.signExtend 64
  let acts := c.actives msk
  let rights : BitVec 3 := if load then 1 else 2
  if acts.isEmpty then
    if load then vLoadIssue vd msk mz ty 0 [] []
    vDone as pi
  else
    let vf ← curVf
    let elems := fun (p : PageInfo) => acts.map (fun k => let b := vBase c md a k; vElem p c.shape.w k b.1 b.2)
    raiseMisaligned (unmappedElems (stage1 s vf a 0) elems)
    let (_, e1) ← xl (stage1 s vf a 0) a
    let p0 := pageOf e1
    let es := elems p0
    match es.find? (·.misaligned) with
    | some e => raise Code.misaligned 0 (BitVec.ofNat 64 e.va)
    | none =>
      let ps ← vPages p0 rights es
      match es.find? (·.beyond) with
      | some e => raise Code.formatMismatch 0 (BitVec.ofNat 64 e.va)
      | none =>
        let bad := if load || !isBfp p0.fmt then none else if scatter then es.head? else partialBlock p0 es
        match bad with
        | some e => raise Code.blockPartial 0 (BitVec.ofNat 64 e.va)
        | none =>
          vBanks ps
          let s ← get
          if s.cur.staged.isNone then awaitRequestSlots (BitVec.ofNat 64 ((es.head?.map (·.va)).getD a.toNat))
          match ps.find? (fun p => match p.x with
            | .fault _ _ => true
            | .ok _ => false
            | .miss _ _ => false) with
          | some p => match p.x with
            | .fault cd dt => raise cd dt (BitVec.ofNat 64 p.va)
            | .ok _ => pure ()
            | .miss _ _ => pure ()
          | none => pure ()
          if load then vLoad vd msk mz ty p0.fmt ps es else vStore scatter vd ty p0 ps es
          vDone as pi

def execVld (o : VA) (s : State) : Host.Outcome State Fault Refusal :=
  runAct (vmemForm true false .contiguous o.off o.vd o.msk o.mz o.ty o.as o.pi) s
def execVst (o : VA) (s : State) : Host.Outcome State Fault Refusal :=
  runAct (vmemForm false false .contiguous o.off o.vd o.msk o.mz o.ty o.as o.pi) s
def execVlds (o : VA) (s : State) : Host.Outcome State Fault Refusal :=
  runAct (vmemForm true false (.strided o.off) 0 o.vd o.msk o.mz o.ty o.as o.pi) s
def execVsts (o : VA) (s : State) : Host.Outcome State Fault Refusal :=
  runAct (vmemForm false false (.strided o.off) 0 o.vd o.msk o.mz o.ty o.as o.pi) s
def execVgath (o : VAIdx) (s : State) : Host.Outcome State Fault Refusal :=
  runAct (vmemForm true false (.indexed o.vi) 0 o.vd o.msk o.mz o.ty o.as o.pi) s
def execVscat (o : VAIdx) (s : State) : Host.Outcome State Fault Refusal :=
  runAct (vmemForm false true (.indexed o.vi) 0 o.vd o.msk o.mz o.ty o.as o.pi) s

end Sys2Proof.Machine
end

