-- ==== Sys2Proof/Machine/Hearth.lean ====
section
/-! DEFINITION. The HE-private instructions (R221 to R249). -/
namespace Sys2Proof.Machine

/-! ## The common frame -/

/-- Sectors of an image read ahead belong to one try of the instruction: they are given up when it completes or raises (R358). -/
def Context.endStage (c : Context) : Context := c.setStaged none

/-- Stops that keep what the instruction has done; a fault gives up what it has read ahead. -/
def heStops (a : Act Unit) : Act Unit := fun s =>
  match a s with
  | .error (.wait c none) => .error (.wait c (some s))
  | .error (.raise f) => .error (.raiseKept f (s.setCur Context.endStage))
  | .error (.raiseKept f s1) => .error (.raiseKept f (s1.setCur Context.endStage))
  | r => r

/-- A HE-private instruction: the lease check, the body, and completion (R164). What waits inside the body starts again at the body. -/
def heForm (body : Nat → Act Unit) : Act Unit := do
  hearthAccess
  heStops (do
    let s ← get
    body (s.leadOf s.cur.engine)
    modCur (fun c => { c.endStage with heAt := none })
    advance)

/-- ILLEGAL_OP with detail 12 on a frozen Hearth (R246). -/
def notFrozen (g : Nat) : Act Unit := do
  let s ← get
  raiseIf (s.hearth g).frozen Code.illegalOp 12 0

/-- The wait for quiescence (R220). -/
def awaitQuiet (g : Nat) : Act Unit := do
  notFrozen g
  let s ← get
  waitIf (!s.isQuiet g) (.quiescent g)

/-- Wait until quiescent or frozen (R240, R248). -/
def awaitQuietOrFrozen (g : Nat) : Act Unit := do
  let s ← get
  waitIf (!(s.isQuiet g || (s.hearth g).frozen)) (.quiescent g)

def modHearths (g : Nat) (f : Hearth → Hearth) : Act Unit := modify (fun s => s.updHearths (s.members g) f)

/-! ## Admission (R222) -/

/-- An instruction queued at its peel, eight deep (R222). -/
def queuePeel (g : Nat) (kind : WaveKind) (n : Nat) (base : BitVec 16) (opt : WaveOpt) (image : List Nat) (ver : BitVec 8) : Act Unit := do
  let s ← get
  let west := !kind.isSouth
  let q := if west then (s.hearth g).west else (s.hearth g).south
  waitIf (decide (8 ≤ q.length)) (.peelRoom g west)
  let id ← freshId
  modify (fun s =>
    let op : PeelOp := ⟨kind, n, base, opt, 0, id, s.cur.ref, image, ver⟩
    s.setHearth g (if west then { s.hearth g with west := (s.hearth g).west ++ [op] } else { s.hearth g with south := (s.hearth g).south ++ [op] }))

def noOpt : WaveOpt := ⟨false, false, false, 0, false⟩

/-- HADMIT of a group of waves (R222). -/
def admitForm (kind : WaveKind) (opt : WaveOpt) (sa sb : BitVec 5) (qa qb : Bool) (g : Nat) : Act Unit := do
  let x ← readSrc sa qa
  let y ← readSrc sb qb
  notFrozen g
  raiseIf (y.extractLsb' 16 48 != 0 || (opt.rot && !opt.ns)) Code.reservedField 0 y
  raiseIf (decide (x.toNat % 16 ≠ 0 ∨ x.toNat < 16 ∨ 512 < x.toNat)) Code.hearthShape 0 x
  let s ← get
  raiseIf (decide (64 ≤ opt.rb * (s.hearth g).hord)) Code.hearthShape 0 0
  queuePeel g kind x.toNat (y.extractLsb' 0 16) opt [] 0

def execHadmitA (o : HAdmA) (s : State) : Host.Outcome State Fault Refusal :=
  runAct (heForm (admitForm .a ⟨o.ns, o.seed, o.rot, o.rb.toNat, false⟩ o.sa o.sb o.qa o.qb)) s
def execHadmitS (o : H2) (s : State) : Host.Outcome State Fault Refusal := runAct (heForm (admitForm .s noOpt o.sa o.sb o.qa o.qb)) s
def execHadmitG (o : HAdmG) (s : State) : Host.Outcome State Fault Refusal :=
  runAct (heForm (admitForm .g ⟨false, o.seed, false, 0, o.dx⟩ o.sa o.sb o.qa o.qb)) s
def execHadmitU (x : Bool) (s : State) : Host.Outcome State Fault Refusal :=
  runAct (heForm (fun g => do
    notFrozen g
    queuePeel g (if x then .ux else .u) 1 0 noOpt [] 0)) s

/-! ## The stash -/

/-- HDROP (R234). -/
def execHdrop (o : H1) (s : State) : Host.Outcome State Fault Refusal :=
  runAct (heForm (fun g => do
    let x ← readSrc o.sa o.qa
    notFrozen g
    raiseIf (x.extractLsb' 16 48 != 0) Code.reservedField 0 x
    let s ← get
    let picked := (List.range 16).filter (fun t => x.getLsbD t)
    let ready := picked.filter (fun t => s.slotIdle g t)
    modify (fun s => ready.foldl (fun t i => t.setRecs g i (fun r => { r with st := .free })) s)
    match picked.filter (fun t => !s.slotIdle g t) with
    | [] => pure ()
    | t :: _ => waitKeep (.stashIdle g t))) s

/-! ## Memory images (R206, R239) -/

/-- The pages of a run of bytes: first address and length on each. -/
def pageRuns : Nat → Nat → Nat → List (Nat × Nat)
  | 0, _, _ => []
  | _, _, 0 => []
  | fuel + 1, va, n =>
    let k := min n (65536 - va % 65536)
    (va, k) :: pageRuns fuel (va + k) (n - k)

/-- The checks of R206, items 1 to 3 and 6 to 8, over a whole image: its runs with their translations. A miss waits; a remote page raises
ATOMIC_ATTR (R377). -/
def heSpan (x : Word) (n align : Nat) (rights : BitVec 3) (fmts : List Nat) : Act (List (Nat × Nat × PageInfo)) := do
  raiseIf (decide (x.toNat % align ≠ 0)) Code.misaligned 0 x
  let vf ← curVf
  let runs := pageRuns (n / 65536 + 2) x.toNat n
  let firsts ← runs.mapM (fun (va, _) => do
    let s ← get
    let (_, e1) ← xl (stage1 s vf (BitVec.ofNat 64 va) rights) (BitVec.ofNat 64 va)
    pure (va, pageOf e1))
  let p0 := (firsts.headD (0, pageOf 0)).2
  match firsts.find? (fun (_, p) => p.ord != p0.ord || p.cohr != p0.cohr || p.fmt != p0.fmt || p.blk != p0.blk) with
  | some (va, _) => raise Code.attrSplit 0 (BitVec.ofNat 64 va)
  | none => pure ()
  raiseIf (!fmts.contains p0.fmt.toNat) Code.formatMismatch 0 x
  let s ← get
  let ps : List VPage := firsts.map (fun (va, p) => ⟨va / 65536, va, p, translateFull s vf (BitVec.ofNat 64 va) rights⟩)
  vBanks ps
  awaitRequestSlots x
  match ps.find? (fun p => match p.x with
    | .fault _ _ => true
    | .ok _ => false
    | .miss _ _ => false) with
  | some p => match p.x with
    | .fault c d => raise c d (BitVec.ofNat 64 p.va)
    | .ok _ => pure ()
    | .miss _ _ => pure ()
  | none => pure ()
  if ps.any (fun p => match p.x with
    | .miss _ _ => true
    | .ok _ => false
    | .fault _ _ => false) then vMisses ps
  let got := (runs.zip ps).filterMap (fun ((va, k), p) => match p.x with
    | .ok i => some (va, k, i)
    | .miss _ _ => none
    | .fault _ _ => none)
  match got.find? (fun r => r.2.2.remote.isSome) with
  | some r => raise Code.atomicAttr 0 (BitVec.ofNat 64 r.1)
  | none => pure got

/-- The sectors of an image's runs. -/
def heSectors (rs : List (Nat × Nat × PageInfo)) : List Piece :=
  rs.flatMap (fun r => (sectorCuts r.2.2.pa (r.2.1 / 32 + 2) r.2.1).map (fun (a, n) => ⟨a, n, { r.2.2 with pa := a }⟩))

/-- Sectors read one by one, but for those that have been read ahead, each under its number (R289). -/
def State.readSectors (s : State) (c : Context) : List (Piece × Nat) → State × List Byte
  | [] => (s, [])
  | (p, k) :: rest =>
    match Tbl.get? (c.staged.getD []) k with
    | some v =>
      let (s1, more) := State.readSectors s c rest
      (s1, natBytes v p.len ++ more)
    | none =>
      let (s1, bs) := s.readUnit c s.nextId [p]
      let (s2, more) := State.readSectors s1 c rest
      (s2, bs ++ more)

/-- The bytes of an image, each sector by itself, counted (R183, R289). -/
def heRead (rs : List (Nat × Nat × PageInfo)) : Act (List Byte) := do
  let s ← get
  let (s1, bs) := s.readSectors s.cur (heSectors rs).zipIdx
  set (rs.foldl (fun t r => t.meterBytes t.cur.slot false r.2.2.pa r.2.1) s1)
  pure bs

/-- The context's earlier accesses have been performed at dev (R239). -/
def awaitOwn : Act Unit := do
  let s ← get
  let ids := s.ownUnperformed s.cur true .dev
  if ids.isEmpty then pure () else waitFor (.performed ids .dev)

/-- The context's accesses that are performed before it writes some pieces: its own to their bytes (R148), and on an SO page every earlier SO
access (R288). -/
def State.heBefore (s : State) (ps : List Piece) : List Nat :=
  let c := s.cur
  (s.hold.filter (fun r => r.owned c.ref && ps.any (fun p => decide (r.pa < p.pa + p.len) && decide (p.pa < r.pa + r.bytes.length)))).map (·.id) ++
  (c.pend.filter (fun q => q.pieces.any (fun x => ps.any (fun p => decide (x.pa < p.pa + p.len) && decide (p.pa < x.pa + x.len))))).map (·.id)

/-- What a write of an image waits for: an acquire outstanding, earlier accesses, and stores before it in coherence order (R144, R148, R281, R288). -/
def heOrder (rs : List (Nat × Nat × PageInfo)) : Act Unit := do
  awaitAcquire
  let s ← get
  let ps := heSectors rs
  let ids := s.heBefore ps
  if ids.isEmpty then
    let so := if ps.any (fun p => p.page.ord == .so) then s.soIds s.cur else []
    if so.isEmpty then awaitOrder ps .dev else waitFor (.performed so .dev)
  else waitFor (.performed ids .eng)

/-- An image written and performed at dev (R239, R246). -/
def heWrite : List (Nat × Nat × PageInfo) → List Byte → Act Unit
  | [], _ => pure ()
  | r :: rest, bs => do
    modify (fun s => s.writeThrough s.cur.ref (s.locOf s.cur) r.2.2 r.2.2.pa (bs.take r.2.1) .dev)
    heWrite rest (bs.drop r.2.1)

/-! ## Configuration (R221) -/

/-- The configurations HCFG refuses with RESERVED_FIELD (R221). -/
def cfgBad (x : Word) : Bool :=
  let cf := cfgCfmt x
  let fits (f : Nat) : Bool := if cf ≤ 3 then f = 2 || f = 3 else if cf ≤ 5 then f = 4 || f = 5 else f = cf
  x.extractLsb' 40 24 != 0 || x.extractLsb' 20 3 != 0 || x.extractLsb' 0 4 != 0 ||
  decide (6 ≤ fieldN x 39 37) || decide (6 ≤ fieldN x 36 34) ||
  decide (cfgYfmt x = 0 ∨ 13 ≤ cfgYfmt x) || decide (cfgDxfmt x = 0 ∨ 13 ≤ cfgDxfmt x) ||
  decide (cf < 2 ∨ 13 ≤ cf) || !fits (cfgXfmt x) || !fits (cfgGfmt x) || (x.getLsbD 19 && decide (6 ≤ cf))

/-- Every listed cell changed. -/
def Hearth.mapCells (h : Hearth) (f : Cell → Cell) : Hearth :=
  { h with cells := (h.cells.map (fun x => (x.1, f x.2))).filter (fun x => x.2 != Cell.reset) }

/-- Every cell's c set from its w, and cp ← c (R221, R239). -/
def Hearth.recopy (h : Hearth) : Hearth :=
  if 6 ≤ cfgCfmt h.cfg then
    let segs : List (Nat × Nat) := (h.cells.map (fun x => (x.1 / 1024 / cfgB h.cfg, x.1 % 1024))).dedup
    let h1 := segs.foldl (fun (t : Hearth) x => t.quantSeg x.1 x.2) { h with cExp := [] }
    { h1.mapCells (fun c => { c with cp := c.c }) with cpExp := h1.cExp }
  else
    let fl := h.cells.foldl (fun a x => a ||| (roundC (cfgCfmt h.cfg) x.2.w).2) 0
    let h1 := h.mapCells (fun c => let r := BitVec.ofNat 16 (roundC (cfgCfmt h.cfg) c.w).1; { c with c := r, cp := r })
    ({ h1 with cExp := [], cpExp := [] } : Hearth).accrue 2 fl

/-- A trough bound by HBIND whose slots are smaller than the edge's units under a configuration (R221, R244). -/
def State.slotsTooSmall (s : State) (m : Nat) (x : Word) : Bool :=
  (s.hearth m).binds.any (fun b => match Tbl.get? s.troughs b.2 with
    | some t => decide (t.slotBytes < edgeBytes x b.1)
    | none => false)

def orSeed (x : BitVec 32) : BitVec 32 := if x = 0 then 0x9E3779B9 else x

/-- HCFG (R221). -/
def execHcfg (o : H2) (s : State) : Host.Outcome State Fault Refusal :=
  runAct (heForm (fun g => do
    let x ← readSrc o.sa o.qa
    let y ← readSrc o.sb o.qb
    awaitQuiet g
    raiseIf (cfgBad x) Code.reservedField 0 x
    let s ← get
    raiseIf ((s.members g).any (fun m => s.slotsTooSmall m x)) Code.hearthShape 0 x
    modHearths g (fun h =>
      let redo := cfgCfmt h.cfg != cfgCfmt x || h.cfg.getLsbD 16 != x.getLsbD 16
      let h1 := { h with cfg := x, sseed := orSeed (y.extractLsb' 0 32), wseed := orSeed (y.extractLsb' 32 32) }
      if redo then h1.recopy else h1))) s

/-! ## Moving cell state (R239 to R243) -/

/-- A field set in the cells of one member from values in row order, from cell number k on. -/
def mergeCells (f : Cell → Nat → Cell) : Nat → Tbl Cell → List Nat → Tbl Cell
  | _, _, [] => []
  | k, cells, v :: vs =>
    match cells with
    | (k', c) :: rest =>
      if k' = k then (let c' := f c v; if c' = Cell.reset then mergeCells f (k + 1) rest vs else (k, c') :: mergeCells f (k + 1) rest vs)
      else (let c' := f Cell.reset v; if c' = Cell.reset then mergeCells f (k + 1) ((k', c) :: rest) vs else (k, c') :: mergeCells f (k + 1) ((k', c) :: rest) vs)
    | [] => (let c' := f Cell.reset v; if c' = Cell.reset then mergeCells f (k + 1) [] vs else (k, c') :: mergeCells f (k + 1) [] vs)

/-- The values of member (r, c) of a sheet out of an image in row-major order of global cells (R239). -/
def memberVals (k : Sheet) (r c : Nat) (vals : List Nat) : List Nat :=
  (List.range 64).flatMap (fun i => (vals.drop ((64 * r + i) * k.cols + 1024 * c)).take 1024)

/-- Members of a sheet with their tile-row and tile-column. -/
def Sheet.tiles (k : Sheet) : List (Nat × Nat × Nat) :=
  (List.range k.h).flatMap (fun r => (List.range k.w).map (fun c => (k.lead + 4 * r + c, r, c)))

def setField32 (f : Nat) (c : Cell) (v : Nat) : Cell :=
  match f with
  | 0 => { c with w := BitVec.ofNat 32 v }
  | 1 => { c with m := BitVec.ofNat 32 v }
  | _ => { c with g := BitVec.ofNat 32 v }

def getField32 (f : Nat) (c : Cell) : BitVec 32 :=
  match f with
  | 0 => c.w
  | 1 => c.m
  | _ => c.g

/-- Bytes of a whole image (R239). -/
def Sheet.imageBytes (k : Sheet) : Nat := 4 * k.rows * k.cols

/-- HLOAD (R239). -/
def execHload (o : H1F) (s : State) : Host.Outcome State Fault Refusal :=
  runAct (heForm (fun g => do
    let x ← readSrc o.sa o.qa
    awaitQuiet g
    let k := (← get).sheetAt g
    let rs ← heSpan x k.imageBytes 64 1 [0, 1]
    awaitOwn
    let bs ← heRead rs
    let vals := cutElems 4 (k.rows * k.cols) bs
    modify (fun s => k.tiles.foldl (fun t (m, r, c) =>
      let h := { t.hearth m with cells := mergeCells (setField32 o.f.toNat) 0 (t.hearth m).cells (memberVals k r c vals) }
      t.setHearth m (if o.f = 0 then h.recopy else h)) s))) s

/-- HSTORE (R239). -/
def execHstore (o : H1F) (s : State) : Host.Outcome State Fault Refusal :=
  runAct (heForm (fun g => do
    let x ← readSrc o.sa o.qa
    awaitQuiet g
    let s ← get
    let k := s.sheetAt g
    let rs ← heSpan x k.imageBytes 64 2 [0, 1]
    heOrder rs
    heWrite rs ((List.range k.rows).flatMap (fun i => (List.range k.cols).flatMap (fun j =>
      natBytes (getField32 o.f.toNat ((s.hearth (k.member i j)).cell (i % 64) (j % 1024))).toNat 4))))) s

/-- HZERO's effect on one member (R240). -/
def Hearth.zero (h0 : Hearth) (opt : BitVec 5) : Hearth :=
  let h1 := h0.mapCells (fun c => { c with
    g := if opt.getLsbD 0 then 0 else c.g, m := if opt.getLsbD 1 then 0 else c.m, w := if opt.getLsbD 3 then 0 else c.w
    c := if opt.getLsbD 3 then 0 else c.c, cp := if opt.getLsbD 3 then 0 else c.cp, v := if opt.getLsbD 4 then 0 else c.v })
  let h2 := if opt.getLsbD 2 then { h1 with stash := [], recs := Vector.replicate 16 StashRec.reset } else h1
  let h3 := if opt.getLsbD 3 then { h2 with cExp := [], cpExp := [] } else h2
  if opt.getLsbD 4 then { h3 with vw := 0 } else h3

/-- The end of a freeze by the full HZERO: frozen waves and queues discarded (R240). -/
def Hearth.dropWaves (h : Hearth) : Hearth :=
  { h with frozen := false, waves := [], west := [], south := [], bufs := [], outS := [], outW := [], sentS := 0, sentW := 0
           headWest := none, headSouth := none, plan := none }

/-- HZERO (R240). -/
def execHzero (opt : BitVec 5) (s : State) : Host.Outcome State Fault Refusal :=
  runAct (heForm (fun g => do
    let s ← get
    let frozen := (s.hearth g).frozen
    raiseIf (frozen && opt != 31) Code.illegalOp 12 0
    awaitQuietOrFrozen g
    modHearths g (fun h => if frozen then (h.zero opt).dropWaves else h.zero opt))) s

/-- HWSET (R241). -/
def execHwset (o : H1) (s : State) : Host.Outcome State Fault Refusal :=
  runAct (heForm (fun g => do
    let x ← readSrc o.sa o.qa
    notFrozen g
    let k := (← get).sheetAt g
    let rs ← heSpan x k.imageBytes 64 1 [0, 1]
    awaitOwn
    let bs ← heRead rs
    queuePeel g .hwset 1 0 noOpt (cutElems 4 (k.rows * k.cols) bs) 0)) s

/-- HSETK (R242). -/
def execHsetk (o : H1F) (s : State) : Host.Outcome State Fault Refusal :=
  runAct (heForm (fun g => do
    let x ← readSrc o.sa o.qa
    notFrozen g
    raiseIf (x.extractLsb' 32 32 != 0) Code.reservedField 0 x
    modHearths g (fun h => { h with hk := h.hk.set o.f.toNat (x.extractLsb' 0 32) o.f.isLt }))) s

/-- HSPILL (R243). -/
def execHspill (o : H2) (s : State) : Host.Outcome State Fault Refusal :=
  runAct (heForm (fun g => do
    let x ← readSrc o.sa o.qa
    let y ← readSrc o.sb o.qb
    notFrozen g
    raiseIf (y.extractLsb' 4 60 != 0) Code.reservedField 0 y
    let t := y.toNat
    let rs ← heSpan x 256 256 2 [0]
    let s ← get
    waitIf (!s.slotIdle g t) (.stashIdle g t)
    let h := s.hearth g
    let r := h.slotRec t
    raiseIf (r.st == .free) Code.hearthStashInvalid (BitVec.ofNat 8 t) 0
    heOrder rs
    let info := r.tag.toNat + 65536 * r.ver.toNat + (if h.cfg.getLsbD 17 then 2 ^ 24 else 0)
    heWrite rs ((List.range 64).flatMap (fun i => natBytes (h.stashWord t i).toNat 2) ++ natBytes info 8 ++ List.replicate 120 0)
    modify (fun s => s.setRecs g t (fun r => { r with st := .free })))) s

/-- The stash words of an HFILL wave: the record's for the lead's rows; for further rows of a sheet the spec gives none (assumption 18). -/
def fillWords (words : List Nat) : Nat → Act (List Nat)
  | 0 => pure words
  | n + 1 => do
    let w ← freshFree
    fillWords (words ++ [w.toNat % 65536]) n

/-- HFILL (R243). -/
def execHfill (o : H1) (s : State) : Host.Outcome State Fault Refusal :=
  runAct (heForm (fun g => do
    let x ← readSrc o.sa o.qa
    notFrozen g
    let rs ← heSpan x 256 256 1 [0]
    awaitOwn
    let bs ← heRead rs
    let info := leNat ((bs.drop 128).take 8)
    let s ← get
    let h := s.hearth g
    raiseIf (decide (2 ^ 25 ≤ info) || (bs.drop 136).any (fun b => b != 0) || (decide (info / 2 ^ 24 % 2 = 1) != h.cfg.getLsbD 17)) Code.reservedField 0 x
    let words ← fillWords (cutElems 2 64 bs) ((s.sheetAt g).rows - 64)
    queuePeel g .hfill 1 (BitVec.ofNat 16 info) noOpt words (BitVec.ofNat 8 (info / 65536)))) s

/-! ## Hadamard, sheets, bindings, draining -/

/-- Bit j of row i of H_n (R126). -/
def hadBit (i j : Nat) : Bool := ((List.range 6).filter (fun k => (i &&& j).testBit k)).length % 2 == 1

/-- h_ij for order n (R237). -/
def hadSigns (n : Nat) : Tbl (BitVec 1024) :=
  ((List.range 64).map (fun i => (i, (List.range n).foldl (fun (r : BitVec 1024) j => if hadBit (i % n) j then r ||| (1#1024 <<< j) else r) 0))).filter (fun x => x.2 != 0)

/-- HHAD (R237). -/
def execHhad (n : BitVec 2) (s : State) : Host.Outcome State Fault Refusal :=
  runAct (heForm (fun g => do
    awaitQuiet g
    let k := 16 * 2 ^ n.toNat
    modHearths g (fun h => { h with hord := k, signs := hadSigns k }))) s

/-- HMESH (R238). -/
def execHmesh (o : H1) (s : State) : Host.Outcome State Fault Refusal :=
  runAct (heForm (fun g => do
    let x ← readSrc o.sa o.qa
    notFrozen g
    raiseIf (x.extractLsb' 5 59 != 0) Code.reservedField 0 x
    let s ← get
    if x = 0 then
      awaitQuiet g
      modify (fun s => s.updHearths (s.members g) (fun h => { h with sheet := none }))
    else
      let hh := fieldN x 4 2 + 1
      let ww := fieldN x 1 0 + 1
      let ms := sheetMembers g hh ww
      raiseIf (decide (7 < g / 4 + (hh - 1)) || decide (3 < g % 4 + (ww - 1)) ||
        ms.any (fun m => (s.hearth m).sheet.any (fun k => k.1 != g))) Code.hearthShape 0 x
      raiseIf (ms.any (fun m => (s.slotOf s.cur).all (fun sl => !sl.hmask.getLsbD m))) Code.permission 2 x
      raiseIf (!s.holdsLease s.cur.slot ms) Code.leaseLost 0 0
      awaitQuiet g
      match ms.find? (fun m => !s.isQuiet m) with
      | some m => waitFor (.quiescent m)
      | none =>
        let l := s.hearth g
        modify (fun s => (s.updHearths (s.members g) (fun h => { h with sheet := none })).updHearths ms (fun h => { h with
          sheet := some (g, hh, ww), cfg := l.cfg, hk := l.hk, vw := l.vw, hord := l.hord, signs := l.signs })))) s

/-- HBIND (R244). The trough is one of the instance's, whose descriptor lives in the group of its control context (R311); a grp-scope trough serves
only its own group's Hearths (R312, assumption 19). -/
def execHbind (o : H1) (s : State) : Host.Outcome State Fault Refusal :=
  runAct (heForm (fun g => do
    let x ← readSrc o.sa o.qa
    let edge := fieldN x 2 0
    raiseIf (x.extractLsb' 24 39 != 0 || x.extractLsb' 13 3 != 0 || x.extractLsb' 3 5 != 0 || decide (5 < edge)) Code.reservedField 0 x
    awaitQuiet g
    let s ← get
    let k := s.sheetAt g
    let n := fieldN x 12 8
    let m := g + 4 * (n / 4) + n % 4
    raiseIf ((s.edgeRoute m edge).isSome) Code.illegalOp 9 0
    raiseIf (decide (k.h ≤ n / 4 ∨ k.w ≤ n % 4)) Code.hearthShape 0 x
    if x.getLsbD 63 then
      modify (fun s => s.setHearth m { s.hearth m with binds := Tbl.del (s.hearth m).binds edge })
    else
      let i ← relocate s.cur.wtro (x.extractLsb' 16 8)
      let key := troughKey (s.homeGrp s.cur.slot) i
      match Tbl.get? s.troughs key with
      | none => raise Code.troughState 0 0
      | some t =>
        raiseIf (!t.dev && m != s.homeGrp s.cur.slot) Code.permission 2 (x.extractLsb' 16 8 |>.setWidth 64)
        raiseIf (decide (t.slotBytes < edgeBytes (s.hearth m).cfg edge)) Code.hearthShape 0 x
        modify (fun s => s.setHearth m { s.hearth m with binds := Tbl.set (s.hearth m).binds edge key }))) s

/-- HDRAIN (R245). -/
def execHdrain (s : State) : Host.Outcome State Fault Refusal := runAct (heForm awaitQuiet) s

/-! ## HVER (R236) -/

def StashState.code : StashState → Nat
  | .free => 0
  | .writing => 1
  | .valid => 2
  | .reading => 3

/-- The value a selector chooses (R236). -/
def State.hver (s : State) (g y : Nat) : Word :=
  let h := s.hearth g
  let k := s.sheetAt g
  let fl := h.waves.filter (fun w => w.inFlight k h.acyc)
  let b (x : Bool) : Nat := if x then 1 else 0
  if y = 0 then
    BitVec.ofNat 64 (h.vw.toNat + 2 ^ 8 * min 255 (fl.filter (fun w => !w.kind.isSouth)).length + 2 ^ 16 * min 255 (fl.filter (fun w => w.kind.isSouth)).length +
      2 ^ 24 * h.west.length + 2 ^ 28 * h.south.length + 2 ^ 32 * b h.frozen + 2 ^ 33 * b (s.isQuiet g) + 2 ^ 34 * b (fl.any (fun w => w.kind.isU)) +
      2 ^ 35 * b (h.sheet.any (fun x => x.1 = g)) + 2 ^ 36 * lanesOf (cfgCfmt h.cfg))
  else if y = 1 then BitVec.ofNat 64 ((List.range 16).foldl (fun n t => n + (h.slotRec t).st.code * 4 ^ t) 0)
  else if y < 16 then h.hstat.setWidth 64
  else
    let r := h.slotRec (y - 16)
    BitVec.ofNat 64 (r.tag.toNat + 2 ^ 16 * r.ver.toNat + 2 ^ 24 * r.st.code + 2 ^ 26 * b (h.south.any (fun o => !o.opt.dx && o.names (y - 16))))

/-- HVER (R236). It executes on a frozen Hearth and lands 16 cycles after issue. -/
def execHver (o : HVerF) (s : State) : Host.Outcome State Fault Refusal :=
  runAct (heForm (fun g => do
    destReady o.sa
    let y ← readSrc o.sb o.qb
    raiseIf (!(y = 0 || y = 1 || y = 4 || y = 5 || (decide (16 ≤ y.toNat) && decide (y.toNat ≤ 31)))) Code.reservedField 0 y
    let s ← get
    let v := s.hver g y.toNat
    if y = 5 then modify (fun s => s.setHearth g { s.hearth g with hstat := 0 })
    if o.sa = 0 then pure ()
    else
      pendResult (.s o.sa) 16 (.value v)
      modCur (fun c => c.empty o.sa))) s

/-! ## Freeze and thaw (R246 to R248) -/

/-- One step of CRC-32 (ISO-HDLC): reflected polynomial 0xEDB88320. -/
def crcBits : Nat → BitVec 32 → BitVec 32
  | 0, c => c
  | n + 1, c => crcBits n (if c.getLsbD 0 then (c >>> 1) ^^^ 0xEDB88320 else c >>> 1)

def crc32 (bs : List Byte) : BitVec 32 := ~~~(bs.foldl (fun (c : BitVec 32) b => crcBits 8 (c ^^^ b.setWidth 32)) (BitVec.allOnes 32))

/-- Bytes of an image of one member (R246). -/
def freezeBytes : Nat := 3 * 2 ^ 20

def hordCode (n : Nat) : Nat := if n = 16 then 0 else if n = 32 then 1 else 2

/-- The 512-bit header with CRC as given (R247). -/
def freezeHeader (k : Sheet) (h : Hearth) (member crc : Nat) : BitVec 512 :=
  let f (b : BitVec 512) (lo v : Nat) : BitVec 512 := b ||| (BitVec.ofNat 512 v <<< lo)
  let hk := h.hk[0].toNat + 2 ^ 32 * h.hk[1].toNat + 2 ^ 64 * h.hk[2].toNat + 2 ^ 96 * h.hk[3].toNat
  f (f (f (f (f (f (f (f (f (f (f (f (f 0 0 0x5A524648) 32 1) 48 member) 56 (k.h * k.w)) 64 h.cfg.toNat) 128 h.sseed.toNat) 160 h.wseed.toNat)
    232 h.vw.toNat) 240 (hordCode h.hord)) 248 (4 * (k.h - 1) + (k.w - 1))) 288 crc) 320 hk) 448 h.hstat.toNat

/-- The image of one member with CRC as given (R247); its undocumented parts are the free bytes of freeze `num`. -/
def freezeImage (k : Sheet) (h : Hearth) (member num crc : Nat) : List Byte :=
  natBytes (freezeHeader k h member crc).toNat 4096 ++
  (List.range 64).flatMap (fun i => (List.range 16).flatMap (fun t => natBytes (h.stashWord t i).toNat 2)) ++
  (List.range 64).flatMap (fun i => natBytes ((Tbl.get? h.signs i).getD 0).toNat 128) ++
  (List.range 4096).map (fun n => BitVec.ofNat 8 ((Tbl.get? h.cExp n).getD 0)) ++
  (List.range 4096).map (fun n => BitVec.ofNat 8 ((Tbl.get? h.cpExp n).getD 0)) ++
  (List.range 43008).map (fun n => Config.freezeByte num (member * 2 ^ 22 + 0x5800 + n)) ++
  (List.range 64).flatMap (fun i => (List.range 1024).flatMap (fun j =>
    let c := h.cell i j
    natBytes c.w.toNat 4 ++ natBytes c.m.toNat 4 ++ natBytes c.g.toNat 4 ++ natBytes c.c.toNat 2 ++ natBytes c.cp.toNat 2 ++ [c.v])) ++
  (List.range 1966080).map (fun n => Config.freezeByte num (member * 2 ^ 22 + 0x120000 + n))

/-- Every member's image (R246, R247). -/
def State.freezeImages (s : State) (g num : Nat) : List Byte :=
  let k := s.sheetAt g
  k.tiles.flatMap (fun (m, r, c) =>
    let img := freezeImage k (s.hearth m) (4 * r + c) num
    img (crc32 (img 0)).toNat)

/-- The freeze itself: peels, array clock and converters of every member stop; what the images hold is kept (R246, assumption 30). -/
def State.freeze (s : State) (g : Nat) : State × List Byte :=
  let num := s.nextId
  let bs := s.freezeImages g num
  (({ s with nextId := num + 1, freezes := s.freezes ++ [⟨num, (s.members g).map s.hearth⟩] } : State).updHearths (s.members g)
    (fun h => { h with frozen := true }), bs)

/-- HFREEZE (R246). -/
def execHfreeze (o : H1) (s : State) : Host.Outcome State Fault Refusal :=
  runAct (heForm (fun g => do
    let x ← readSrc o.sa o.qa
    notFrozen g
    let k := (← get).sheetAt g
    let rs ← heSpan x (freezeBytes * (k.h * k.w)) 4096 2 [0]
    heOrder rs
    let s ← get
    let (s', bs) := s.freeze g
    set s'
    heWrite rs bs)) s

/-- An image's bytes cut out. -/
def cut (bs : List Byte) (off n : Nat) : List Byte := (bs.drop off).take n

/-- The member record of the freeze whose undocumented bytes an image carries, if the image is one the machine wrote (assumption 30). -/
def freezeFind (fs : List FreezeRec) (member pos : Nat) (bs : List Byte) : Option Hearth :=
  (fs.reverse.find? (fun f =>
    cut bs 0x5800 43008 = (List.range 43008).map (fun n => Config.freezeByte f.num (member * 2 ^ 22 + 0x5800 + n)) ∧
    cut bs 0x120000 1966080 = (List.range 1966080).map (fun n => Config.freezeByte f.num (member * 2 ^ 22 + 0x120000 + n)))).bind (fun f => f.members[pos]?)

/-- An image that HTHAW refuses (R248). -/
def thawBad (k : Sheet) (bs : List Byte) : Bool :=
  let hd : BitVec 512 := BitVec.ofNat 512 (leNat (bs.take 64))
  decide (fieldN hd 31 0 ≠ 0x5A524648 ∨ fieldN hd 47 32 ≠ 1 ∨ fieldN hd 63 56 ≠ k.h * k.w ∨ fieldN hd 255 248 ≠ 4 * (k.h - 1) + (k.w - 1)) ||
  crc32 (bs.take 36 ++ [0, 0, 0, 0] ++ bs.drop 40) != hd.extractLsb' 288 32

def sparseN (l : List Nat) : Tbl Nat := ((l.zipIdx).filter (fun x => x.1 != 0)).map (fun x => (x.2, x.1))

/-- One member loaded from its image; edge bindings, sheet and lease are the target's (R248). -/
def thawMember (s : State) (old : Hearth) (member pos : Nat) (bs : List Byte) : Hearth :=
  let hd : BitVec 512 := BitVec.ofNat 512 (leNat (bs.take 64))
  let hid := (freezeFind s.freezes member pos bs).getD Hearth.reset
  let stash := (List.range 16).flatMap (fun t => (List.range 64).map (fun i => leNat (cut bs (0x1000 + 32 * i + 2 * t) 2)))
  let cells := (List.range 65536).map (fun n =>
    let r := cut bs (0x10000 + 17 * n) 17
    (n, (⟨BitVec.ofNat 32 (leNat (r.take 4)), BitVec.ofNat 16 (leNat (cut r 12 2)), BitVec.ofNat 16 (leNat (cut r 14 2)),
      BitVec.ofNat 32 (leNat (cut r 8 4)), BitVec.ofNat 32 (leNat (cut r 4 4)), r.getD 16 0⟩ : Cell)))
  let retarget (o : PeelOp) : PeelOp := { o with by_ := s.cur.ref }
  { old with
    frozen := false
    cells := cells.filter (fun x => x.2 != Cell.reset)
    stash := (sparseN stash).map (fun x => (x.1, BitVec.ofNat 16 x.2))
    recs := hid.recs
    signs := ((List.range 64).map (fun i => (i, BitVec.ofNat 1024 (leNat (cut bs (0x1800 + 128 * i) 128))))).filter (fun x => x.2 != 0)
    cExp := sparseN ((cut bs 0x3800 4096).map BitVec.toNat)
    cpExp := sparseN ((cut bs 0x4800 4096).map BitVec.toNat)
    hord := 16 * 2 ^ fieldN hd 247 240
    hk := #v[hd.extractLsb' 320 32, hd.extractLsb' 352 32, hd.extractLsb' 384 32, hd.extractLsb' 416 32]
    hstat := hd.extractLsb' 448 12
    cfg := hd.extractLsb' 64 64
    vw := hd.extractLsb' 232 8
    sseed := hd.extractLsb' 128 32
    wseed := hd.extractLsb' 160 32
    west := hid.west.map retarget
    south := hid.south.map retarget
    bufs := hid.bufs
    waves := hid.waves.map (fun w => { w with by_ := s.cur.ref })
    outS := hid.outS
    outW := hid.outW
    sentS := hid.sentS
    sentW := hid.sentW
    acyc := hid.acyc
    nextWest := hid.nextWest
    nextSouth := hid.nextSouth
    headWest := hid.headWest
    headSouth := hid.headSouth
    plan := none }

/-- Every member loaded from its image (R248). -/
def State.thaw (s : State) (g : Nat) (bs : List Byte) : State :=
  let k := s.sheetAt g
  (k.tiles.zipIdx).foldl (fun t ((m, r, c), pos) => t.setHearth m (thawMember s (t.hearth m) (4 * r + c) pos (cut bs (freezeBytes * pos) freezeBytes))) s

/-- HTHAW (R248). -/
def execHthaw (o : H1) (s : State) : Host.Outcome State Fault Refusal :=
  runAct (heForm (fun g => do
    let x ← readSrc o.sa o.qa
    awaitQuietOrFrozen g
    let k := (← get).sheetAt g
    let rs ← heSpan x (freezeBytes * (k.h * k.w)) 4096 1 [0]
    awaitOwn
    let bs ← heRead rs
    raiseIf ((List.range (k.h * k.w)).any (fun p => thawBad k (cut bs (freezeBytes * p) freezeBytes))) Code.reservedField 0 x
    modify (fun s => s.thaw g bs))) s

/-! ## One sector of an image read ahead (R289) -/

/-- The image that an instruction reads: its address, bytes, alignment and formats, if the Hearth is as the instruction needs it. -/
def State.heSource (s : State) (i : Instr) : Option (Word × Nat × Nat × List Nat) :=
  let g := s.leadOf s.cur.engine
  let k := s.sheetAt g
  let quiet := s.isQuiet g
  let frozen := (s.hearth g).frozen
  match i with
  | .hload o => if quiet && s.cur.isFull o.sa then some (s.cur.getS o.sa, k.imageBytes, 64, [0, 1]) else none
  | .hwset o => if !frozen && s.cur.isFull o.sa then some (s.cur.getS o.sa, k.imageBytes, 64, [0, 1]) else none
  | .hfill o => if !frozen && s.cur.isFull o.sa then some (s.cur.getS o.sa, 256, 256, [0]) else none
  | .hthaw o => if (quiet || frozen) && s.cur.isFull o.sa then some (s.cur.getS o.sa, freezeBytes * (k.h * k.w), 4096, [0]) else none
  | _ => none

/-- Sector k of the image that the current context's instruction reads, if it may be read now. -/
def State.hePiece (s : State) (i : Instr) (k : Nat) : State :=
  if s.cur.kind ≠ .he || (s.cur.phase ≠ .ready && s.cur.phase ≠ .waiting) || s.cur.leasePassed || (s.hearth s.cur.engine).holder ≠ some s.cur.slot ||
      !(s.ownUnperformed s.cur true .dev).isEmpty || (Tbl.get? (s.cur.staged.getD []) k).isSome then s
  else
    match s.heSource i with
    | none => s
    | some (x, n, align, fmts) =>
      match heSpan x n align 1 fmts s with
      | .error _ => s
      | .ok (rs, _) =>
        match (heSectors rs)[k]? with
        | none => s
        | some p =>
          let (s1, bs) := s.readUnit s.cur s.nextId [p]
          s1.setCur (fun c => c.setStaged (some (Tbl.set (c.staged.getD []) k (leNat bs))))

end Sys2Proof.Machine
end

