-- ==== Sys2Proof/Machine/Launch.lean ====
section
/-! DEFINITION. Launch records (R17 to R21, R178). -/
namespace Sys2Proof.Machine

/-- Fields of a launch record (R19). -/
def lrState (r : BitVec 1024) : Nat := fieldN r 33 32
def lrSeq (r : BitVec 1024) : Nat := fieldN r 15 0
def lrImage (r : BitVec 1024) : Nat := fieldN r 191 160
def lrEntry (r : BitVec 1024) : Nat := fieldN r 159 128
def lrCompl (r : BitVec 1024) : Word := r.extractLsb' 704 64
def lrCond (r : BitVec 1024) : Word := r.extractLsb' 256 64
def lrArg (r : BitVec 1024) (k : Nat) : Word := r.extractLsb' (320 + 64 * k) 64

/-- A new record of a region's pool: the Reset column of R19 and RCBX (R18). -/
def lrReset (rcb : Nat) : BitVec 1024 := setField (setField 0 199 192 1) 31 16 rcb

/-- Record n of a region's pool. -/
def RcbNode.lrec (n : RcbNode) (rcb i : Nat) : BitVec 1024 := (Tbl.get? n.pool i).getD (lrReset rcb)

/-- The counts an image declares: troughs, token queues, rendezvous points (R76). -/
def Image.counts (i : Image) : Nat × Nat × Nat := (fieldN i.header 111 96, fieldN i.header 127 112, fieldN i.header 143 136)

/-- A record's demands with the budget each is held against, in ascending OVR bit (R13, R17, R20). -/
def State.demands (s : State) (r : BitVec 1024) : List (RcbField × Nat) :=
  let (tr, tk, rv) := match Tbl.get? s.images (lrImage r) with
    | some i => i.counts
    | none => (0, 0, 0)
  [(.coresb, fieldN r 199 192), (.cengb, fieldN r 207 200), (.hearthb, fieldN r 215 208), (.sramb, fieldN r 255 224),
   (.trob, tr), (.tokb, tk), (.rdvb, rv), (.stepb, fieldN r 223 216)]

/-- The OVR bit of the lowest-numbered budget the demand exceeds, if any (R17, R23). -/
def State.overDemand (s : State) (rcb : Nat) (r : BitVec 1024) : Option Nat :=
  ((s.demands r).find? (fun d => decide (s.eff rcb d.1 < d.2))).map (fun d => d.1.ovr)

/-- A record of a pool replaced. -/
def State.setLrec (s : State) (rcb i : Nat) (r : BitVec 1024) : State :=
  match Tbl.get? s.rcbs rcb with
  | none => s
  | some n => { s with rcbs := Tbl.set s.rcbs rcb { n with pool := Tbl.set n.pool i r } }

/-- Arming (R21): the status LARM and LREC_ARM report, 0 armed, 1 busy, 3 refused. -/
def State.arm (s : State) (rcb i : Nat) : State × Nat :=
  match Tbl.get? s.rcbs rcb with
  | none => (s, 1)
  | some n =>
    let r := n.lrec rcb i
    if lrState r ≠ 0 then (s, 1)
    else if (s.overDemand rcb r).isSome then (s, 3)
    else
      let r' := setField (setField r 33 32 1) 15 0 ((lrSeq r + 1) % 2 ^ 16)
      ((({ s with rcbs := Tbl.set s.rcbs rcb { n with pool := Tbl.set n.pool i r', armedAt := Tbl.set n.armedAt i s.cycle, condWait := Tbl.del n.condWait i } } : State).capture n.vf 1), 0)

/-- The region and record a selector names (R178). -/
def lrecNamed (x : Word) (fields : Bool) : Act (Nat × RcbNode × Nat) := do
  let s ← get
  raiseIf (if fields then x.extractLsb' 19 45 != 0 || x.extractLsb' 16 3 == 7 else x.extractLsb' 16 48 != 0) Code.reservedField 0 x
  match (s.slotOf s.cur).bind (fun sl => (Tbl.get? s.rcbs sl.rcbx).map (fun n => (sl.rcbx, n))) with
  | none => raise Code.permission 2 (BitVec.ofNat 64 (fieldN x 15 0))
  | some (rcb, n) =>
    raiseIf (decide (n.poolSize ≤ fieldN x 15 0)) Code.permission 2 (BitVec.ofNat 64 (fieldN x 15 0))
    pure (rcb, n, fieldN x 15 0)

/-- LPATCH (R21, R178). -/
def execLpatch (o : RRR) (s : State) : Host.Outcome State Fault Refusal :=
  runAct (do
    destReady o.d
    let x ← readSrc o.a o.qa
    let y ← readSrc o.b o.qb
    let (rcb, n, i) ← lrecNamed x true
    let f := fieldN x 18 16
    raiseIf (f == 6 && y.extractLsb' 0 3 != 0) Code.reservedField 0 y
    awaitRelease .dev true
    let r := n.lrec rcb i
    let lo := if f = 6 then 256 else 320 + 64 * f
    if lrState r ≠ 0 then writeS o.d 1
    else if r.getLsbD (56 + f) = false then writeS o.d 2
    else
      modify (fun s => s.setLrec rcb i (setField r (lo + 63) lo y.toNat))
      writeS o.d 0
    advance) s

/-- LARM (R21, R178). -/
def execLarm (o : RRD) (s : State) : Host.Outcome State Fault Refusal :=
  runAct (do
    destReady o.d
    let x ← readSrc o.a o.qa
    let (rcb, _, i) ← lrecNamed x false
    awaitRelease .dev true
    let s ← get
    if (s.arm rcb i).2 = 0 then awaitPresented 1 rcb i
    let (s', st) := s.arm rcb i
    set s'
    writeS o.d (BitVec.ofNat 64 st)
    advance) s

/-- LQUERY (R178): an acquire load at dev of the record's first word. -/
def execLquery (o : RRD) (s : State) : Host.Outcome State Fault Refusal :=
  runAct (do
    destReady o.d
    let x ← readSrc o.a o.qa
    let (rcb, n, i) ← lrecNamed x false
    awaitAcquire
    modify (fun s => s.orderPoint s.cur true)
    writeS o.d ((n.lrec rcb i).extractLsb' 0 64)
    advance) s

end Sys2Proof.Machine
end

