-- ==== Sys2Proof/Machine/Poison.lean ====
section
/-! DEFINITION. Poisoned sectors and what an access that finds one does (R366 to R368). -/
namespace Sys2Proof.Machine

/-- Whether a run of bytes within one sector is marked (R367). -/
def State.poisoned (s : State) (pa : Nat) : Bool := s.poison.contains (pa / 32 * 32)

/-- Whether a stage-2 table maps a device address (R368). -/
def tableMaps (s : State) (pa : Nat) : Nat → Nat → Nat → Bool
  | 0, _, _ => false
  | fuel + 1, level, tbl =>
    (List.range (if level = 3 then 32 else 512)).any (fun i =>
      match pteKind true level (s.pte (tbl + 8 * i)) with
      | .invalid => false
      | .malformed => false
      | .badFmt => false
      | .table a => tableMaps s pa fuel (level + 1) a
      | .leaf oa => decide (oa ≤ pa) && decide (pa < oa + leafSize level))

/-- An entry whose instance is bound and not being killed. -/
def Slot.bound (x : Slot) : Bool := decide (2 ≤ x.state) && decide (x.state ≤ 5)

/-- The banks and the byte range of an instance's allotment hold an address of a group's SRAM (R311). -/
def Slot.holdsSram (x : Slot) (pa : Nat) : Bool :=
  match paKind pa with
  | .sram g b =>
    decide (g = grpOfCore x.ccore) && (x.bind.getLsbD (724 + b) ||
      (let off := (pa - 0x400000000000) % 2 ^ 24
       decide (1024 * fieldN x.bind 753 740 ≤ off) && decide (off < 1024 * (fieldN x.bind 753 740 + fieldN x.bind 799 768))))
  | .hbm => false
  | .remote => false
  | .hole => false

/-- The bound instances that a marked sector is attributed to (R368). -/
def State.attributedTo (s : State) (pa : Nat) : List Nat :=
  (s.slots.filter (fun x => x.2.bound && (match paKind pa with
    | .hbm => match (Tbl.get? s.vfs x.2.vf).bind (·.s2root) with
      | some root => tableMaps s pa 4 0 root
      | none => false
    | .sram _ _ => x.2.holdsSram pa
    | .remote => false
    | .hole => false))).map (·.1)

/-- Instances marked for the containment of R346. -/
def State.markContained (s : State) (slots : List Nat) : State :=
  slots.foldl (fun t k =>
    match Tbl.get? t.slots k with
    | some x => if x.kill.isNone then { t with slots := Tbl.set t.slots k { x with kill := some .rollback } } else t
    | none => t) s

/-- An access has found a marked sector: it is attributed, also to the accessing instance, which has it translated (R368). -/
def State.attribute (s : State) (pa : Nat) (by_ : CtxRef) : State :=
  s.markContained (s.attributedTo pa ++ [by_.slot])

end Sys2Proof.Machine
end

