-- ==== Sys2Proof/Machine/CopyRun.lean ====
section
/-! DEFINITION. How a queued copy runs (R250 to R266): page rules, elements, faults, the Winze rounds (R320 to R324), and the moves
COPY_BEGIN, COPY_COMPLETE, CONTRIBUTION_ARRIVAL, REFUSED_RETRY and CREDE_ARRIVAL. -/
namespace Sys2Proof.Machine

/-! ## Entries of the queue -/

/-- A copy-queue entry replaced, by its number. -/
def Context.setCopy (c : Context) (e : CopyEntry) : Context := { c with copyq := c.copyq.map (fun x => if x.id = e.id then e else x) }

/-- Room for a further held asynchronous fault (R363). -/
def Context.faultRoom (c : Context) : Bool := decide (c.faults.length < 16)

/-- A CPYT ends early: a filling one fills its slot with 0xFFFF_FFFF, a draining one releases it (R254). -/
def State.copyTroughEnd (s : State) (e : CopyEntry) : State :=
  match e.slotIx, Tbl.get? s.troughs e.trough with
  | some i, some t =>
    if !t.consistent then s.setTrough e.trough { t with inc := true }
    else s.setTrough e.trough (if e.y.getLsbD 8 then t.release i else t.fill i 0xFFFFFFFF s.cycle)
  | _, _ => s

/-- A fault found in a running copy: it ends, with the flags of the elements it has performed, every later one is cancelled, and the fault is held
for delivery (R254, R259, R361). -/
def State.copyFault (s : State) (r : CtxRef) (id : Nat) (code : BitVec 8) (eval : Word) : State :=
  match s.ctx? r with
  | none => s
  | some c =>
    match c.copyq.find? (fun e => e.id = id) with
    | none => s
    | some e =>
      if !c.faultRoom then s
      else
        let n := (c.copyq.filter (fun x => decide (id < x.id) && x.op.isCopy)).length
        (s.copyTroughEnd e).setCtx r (fun c => { c with
          copyq := c.copyq.filter (fun x => decide (x.id < id)), copyDenied := []
          fcsr := putEnv c.fcsr { envOf c.fcsr with flags := e.flags }
          faults := c.faults ++ [⟨code, 0x80 ||| BitVec.ofNat 8 n, eval, false⟩] })

/-! ## One side of an element (R260, R264) -/

/-- What a side answers: its translation, a stage-2 miss, a fault, nothing yet, a marked sector, or an address that does not exist. -/
inductive Side where
  | ok (p : PageInfo) | miss (ipa : Nat) (rights : BitVec 3) | fail (code detail : BitVec 8) | stay | marked (pa : Nat) | hole (pa : Nat)
  deriving DecidableEq, Repr

/-- Two pages differ in ORD, COHR, FMT or BLK (R260); the BLK of raw bytes means nothing (R142). -/
def PageInfo.differs (p q : PageInfo) (raw : Bool) : Bool := p.ord != q.ord || p.cohr != q.cohr || p.fmt != q.fmt || (!raw && p.blk != q.blk)

/-- A page rule of R260: BFP frames only where `frames` says so, else elements of the page's width (`width` 0: any). -/
def pageRule (frames : Bool) (width : Nat) (p : PageInfo) : Option (BitVec 8) :=
  if isBfp p.fmt then (if frames then none else some Code.blockPartial)
  else if p.fmt ≠ 0 ∧ width ≠ 0 ∧ fmtBytes p.fmt width ≠ width then some Code.formatMismatch
  else none

/-- The destination of a contribution (R264, R377). -/
def credDest (bf : Bool) (p : PageInfo) : Option (BitVec 8) :=
  if p.remote.isSome then some Code.atomicAttr
  else if paKind p.pa ≠ .hbm then some Code.permission
  else if p.cohr ≠ .coh then some Code.atomicAttr
  else if p.fmt ≠ 0 ∧ p.fmt ≠ (if bf then 2 else 1) then some Code.formatMismatch
  else none

/-- What is asked of one side of an element: rights, whole frames, width, and for a contribution's destination its type. A `raw` side has no element format: its pages are raw (R116, R142). -/
structure SideRule where
  rights : BitVec 3
  frames : Bool
  width : Nat
  cred : Option Bool
  raw : Bool
  deriving DecidableEq, Repr

/-- One side of an element: both stages, R260's rules against the first page of the side (as stage 1 gives it), R264's for a contribution's
destination, banks and marks. The first page is answered beside it. -/
def State.copySide (s : State) (vf : Nat) (k : SideRule) (first : Option PageInfo) (va : Nat) : Side × Option PageInfo :=
  match stage1 s vf (BitVec.ofNat 64 va) k.rights with
  | .fault c d => (.fail c d, first)
  | .miss p r => (.miss p r, first)
  | .ok (ipa, e1) =>
    let p := pageOf e1
    let f := first.or (some p)
    let rule := if k.cred.isSome then none else if f.any (fun q => p.differs q k.raw) then some Code.attrSplit
      else if k.raw then (if p.fmt ≠ 0 then some Code.formatMismatch else none) else pageRule k.frames k.width p
    (match rule with
     | some c => .fail c 0
     | none =>
       match stage2 s vf ipa k.rights with
       | .fault c d => .fail c d
       | .miss p r => .miss p r
       | .ok (pa, e2) =>
         let i := combine e1 pa e2
         match k.cred.bind (fun bf => credDest bf i) with
         | some c => .fail c (if c = Code.permission then 2 else 0)
         | none =>
           if paKind pa = .hole then .hole pa
           else
             match s.bankCheck pa with
             | (some _, _) => .stay
             | (none, false) => .fail Code.permission 2
             | (none, true) => if s.poisoned pa then .marked pa else .ok i, f)

/-! ## Conversion (R259) -/

def seedAfter (z : BitVec 32) : Nat → BitVec 32
  | 0 => z
  | n + 1 => nextSeed (seedAfter z n)

/-- CPYX of one element: a conversion, also between like types (R104, R109); the value written and its flags. Element k takes the k-th draw. -/
def copyConv (e : CopyEntry) (k v : Nat) : Nat × BitVec 5 :=
  let x := roundFmt (fmtOfTy (tplXd e.tpl - 1)) (tplXsat e.tpl) ((fmtOfTy (tplXs e.tpl - 1)).decode v) ⟨e.rm, seedAfter e.seed k, 0⟩
  (x.1, x.2.flags)

/-! ## Elements -/

/-- Widths of the two sides. -/
def CopyEntry.srcWidth (e : CopyEntry) : Nat :=
  match e.op with
  | .cpy | .cpyx | .cpyt | .cgath | .cscat | .cred _ _ => tplEs e.tpl
  | .czero | .crede | .cfence => 0

def CopyEntry.dstWidth (e : CopyEntry) : Nat :=
  match e.op with
  | .cpy | .cpyt | .cgath | .cscat => tplEs e.tpl
  | .cpyx => xWidth (tplXd e.tpl)
  | .cred _ _ | .czero | .crede | .cfence => 0

/-- Whether the element at an address may stand on a BFP page (R260, R263): CPY in runs of whole frames, CZERO in whole frames. -/
def CopyEntry.framesAt (e : CopyEntry) (va x0 : Nat) : Bool :=
  match e.op with
  | .cpy => tplOob e.tpl = 0 && decide (va % 65536 = x0) && decide (tplN0 e.tpl * tplEs e.tpl % 65536 = 0)
  | .czero => decide (e.x.toNat ≤ va / 65536 * 65536) && decide (va / 65536 * 65536 + 65536 ≤ e.x.toNat + e.y.toNat)
  | .cpyx | .cpyt | .cgath | .cscat | .cred _ _ | .crede | .cfence => false

/-- The offset within its frame that element k has if its run begins at a frame base. -/
def CopyEntry.runOff (e : CopyEntry) (k : Nat) : Nat := k % tplN0 e.tpl * tplEs e.tpl % 65536

def CopyEntry.srcRule (e : CopyEntry) (x : CopyElem) (va : Nat) : SideRule := ⟨1, e.framesAt va (e.runOff x.k), e.srcWidth, none, false⟩
def CopyEntry.dstRule (e : CopyEntry) (x : CopyElem) (va : Nat) : SideRule :=
  match e.op with
  | .cred bf _ => ⟨3, false, 0, some bf, false⟩
  | .cpy | .cpyx | .cpyt | .cgath | .cscat | .czero | .crede | .cfence => ⟨2, e.framesAt va (e.runOff x.k), e.dstWidth, none, false⟩

/-- The zero tail of a BFP frame: it reads as zero, and writes to it are discarded (R117). -/
def PageInfo.zeroTail (p : PageInfo) (va : Nat) : Bool := isBfp p.fmt && decide (bfpX p.fmt p.blk + bfpNb p.fmt p.blk ≤ va % 65536)

/-- What one element did. -/
inductive ElemRes where
  | done (s : State) (e : CopyEntry) | miss (ipa : Nat) (rights : BitVec 3) | fail (code : BitVec 8) (va : Nat) | stay
  | asked (s : State) (e : CopyEntry) | marked (pa : Nat) | hole (pa : Nat)

/-- A side that cannot be accessed now, as what becomes of its element. -/
def Side.bad (o : Side) (denied : List Nat) (va : Nat) : Option ElemRes :=
  match o with
  | .ok _ => none
  | .miss p r => some (if denied.contains p then .fail Code.permission va else .miss p r)
  | .fail c _ => some (.fail c va)
  | .stay => some .stay
  | .marked pa => some (.marked pa)
  | .hole pa => some (.hole pa)

def Side.page (o : Side) : Option PageInfo :=
  match o with
  | .ok p => some p
  | .miss _ _ => none
  | .fail _ _ => none
  | .stay => none
  | .marked _ => none
  | .hole _ => none

/-- The bytes of a source: a remote page's once the response has come (R377). `inl` gives the bytes. -/
def State.copyRead (s : State) (c : Context) (e : CopyEntry) (key va n : Nat) (p : PageInfo) : (State × List Byte) ⊕ ElemRes :=
  if p.zeroTail va then .inl (s, List.replicate n 0)
  else if p.remote.isSome then
    match e.answers.find? (fun a => a.1 = key) with
    | some (_, some bs) => .inl (s, bs)
    | some (_, none) => .inr (.fail Code.permission va)
    | none =>
      if e.asked.any (fun a => a.1 = key) || !(s.remoteBlockers c p p.pa n).1.isEmpty then .inr .stay
      else
        match Tbl.get? s.rwins (p.pa / 2 ^ 36 % 2048) with
        | none => .inr (.fail Code.permission va)
        | some w =>
          if w.len < p.pa % 2 ^ 36 + n ∨ w.r = false then .inr (.fail Code.permission va)
          else .inr (.asked (s.sendRead w (p.pa % 2 ^ 36) n c.ref (BitVec.ofNat 64 va)) { e with asked := e.asked ++ [(key, s.nextId)] })
  else .inl (s.readUnit c s.nextId [⟨p.pa, n, p⟩])

/-- A write of the copy enters the hold buffer; it carries the copy's number (R149, R251). -/
def State.holdCopy (s : State) (c : Context) (e : CopyEntry) (va : Nat) (ps : List Piece) (bs : List Byte) : State :=
  (ps.foldl (fun (acc : State × List Byte) p =>
    let t := acc.1
    let r : StoreRec := { StoreRec.new t.nextId c.ref (t.locOf c) p.pa (acc.2.take p.len) p.page with
      also := [(c.ref, e.id)], copy := true, va := BitVec.ofNat 64 va }
    ({ t with nextId := t.nextId + 1, hold := t.hold ++ [r] }, acc.2.drop p.len)) (s, bs)).1

/-- The write of an element (R117, R251, R377). -/
def State.copyWrite (s : State) (c : Context) (e : CopyEntry) (va : Nat) (p : PageInfo) (bs : List Byte) : ElemRes :=
  if p.zeroTail va then .done s e
  else
    let ok : Bool := match p.remote with
      | none => true
      | some i => (Tbl.get? s.rwins i).any (fun w => w.w && decide (p.pa % 2 ^ 36 + bs.length ≤ w.len))
    if ok then .done (s.holdCopy c e va [⟨p.pa, bs.length, p⟩] bs) e else .fail Code.permission va

/-- The bytes of the slot a CPYT holds that an element moves (R262, R311). -/
def State.copySlot (s : State) (e : CopyEntry) (x : CopyElem) : List Piece :=
  match Tbl.get? s.troughs e.trough, e.slotIx with
  | some t, some i => s.slotPieces t.owner (t.base + i * t.slotBytes + x.slotOff) x.n
  | _, _ => []

/-- A contribution put in its place in element order (R264). -/
def insertContrib (x : Contrib) : List Contrib → List Contrib
  | [] => [x]
  | y :: rest => if x.k < y.k then x :: y :: rest else y :: insertContrib x rest

/-- What element x writes where, once its source is read. -/
def State.copyPut (s : State) (c : Context) (e : CopyEntry) (x : CopyElem) (d : Option PageInfo) (bs : List Byte) : ElemRes :=
  let va := x.dst.getD 0
  match e.op, d with
  | .cpyt, none => .done (s.holdCopy c e (x.src.getD 0) (s.copySlot e x) bs) e
  | .cred _ _, some p => .done s { e with contribs := insertContrib ⟨x.k, stackOf p.pa, BitVec.ofNat 64 va, p.pa, p.ckpt, leNat bs⟩ e.contribs }
  | .cpyx, some p =>
    let (v, fl) := copyConv e x.k (leNat bs)
    s.copyWrite c { e with flags := e.flags ||| fl } va p (natBytes v x.w)
  | _, some p => s.copyWrite c e va p bs
  | _, none => .done s e

/-- An own access to a run is still outstanding, or, on an SO page, an earlier SO access is not performed at dev (R251, R288). -/
def State.copyBusy (s : State) (c : Context) (firstLeft : Bool) (p : PageInfo) (n : Nat) : Bool :=
  s.olderPending c.ref s.nextId p.pa n || (p.ord == .so && (!firstLeft || s.soBefore c.ref s.nextId s.nextId))

/-- One element, if it can be moved now. `firstLeft`: no earlier element is left. -/
def State.copyElem (s : State) (c : Context) (e0 : CopyEntry) (firstLeft : Bool) (x : CopyElem) : ElemRes × CopyEntry :=
  let vf := s.vfOf c.slot
  let src := x.src.map (fun va => s.copySide vf (e0.srcRule x va) e0.sp va)
  let dst := x.dst.map (fun va => s.copySide vf (e0.dstRule x va) e0.dp va)
  let e : CopyEntry := { e0 with sp := (src.map (·.2)).getD e0.sp, dp := (dst.map (·.2)).getD e0.dp }
  let slot := if e.op = .cpyt then s.copySlot e x else []
  match src.bind (fun o => o.1.bad c.copyDenied (x.src.getD 0)), dst.bind (fun o => o.1.bad c.copyDenied (x.dst.getD 0)) with
  | some r, _ => (r, e)
  | none, some r => (r, e)
  | none, none =>
    let ps := src.bind (fun o => o.1.page)
    let pd := dst.bind (fun o => o.1.page)
    let busy (o : Option PageInfo) (n : Nat) : Bool := o.any (fun p => s.copyBusy c firstLeft p n)
    if busy ps x.n || busy pd x.w || (s.slotBank slot).1.isSome then (.stay, e)
    else if !(s.slotBank slot).2 then (.fail Code.permission (x.src.or x.dst |>.getD 0), e)
    else
      let bytes : (State × List Byte) ⊕ ElemRes :=
        match ps with
        | some p => s.copyRead c e x.k (x.src.getD 0) x.n p
        | none => if e.op = .cpyt then .inl (s.readPieces c s.nextId (slot.map (fun p => (p, none)))) else .inl (s, List.replicate x.w 0)
      match bytes with
      | .inr r => (match r with
        | .asked s1 e1 => (.asked s1 e1, e1)
        | r => (r, e))
      | .inl (s1, bs) =>
        let s2 := match ps with
          | some p => s1.meterBytes c.slot false p.pa x.n
          | none => s1
        (s2.copyPut c e x pd bs, e)

/-- An element left behind keeps a later one that shares a byte with it waiting (R251, R261). -/
def CopyElem.before (a b : CopyElem) : Bool :=
  let meet (p : Option Nat) (m : Nat) (q : Option Nat) (n : Nat) : Bool :=
    match p, q with
    | some u, some v => decide (u < v + n) && decide (v < u + m)
    | _, _ => false
  meet a.dst a.w b.dst b.w || meet a.dst a.w b.src b.n || meet a.src a.n b.dst b.w

/-- How far a run of elements came: the state and entry, elements kept back, pages missing, whether one moved, and what ended it. -/
structure RunAcc where
  s : State
  e : CopyEntry
  left : List CopyElem
  miss : List (Nat × BitVec 3)
  some_ : Bool
  stop : Option ElemRes

/-- The elements in element order, each performed if it can be (R255, R261); `ahead` are earlier ones that are not of this run. -/
def copyRunFrom (c : Context) (ahead : List CopyElem) (a : RunAcc) : List CopyElem → RunAcc
  | [] => a
  | x :: rest =>
    if ahead.any (fun y => y.before x) || a.left.any (fun y => y.before x) then copyRunFrom c ahead { a with left := a.left ++ [x] } rest
    else
      let (r, e) := a.s.copyElem c a.e (a.left.isEmpty && ahead.isEmpty) x
      let b := { a with e := e }
      match r with
      | .done s e => copyRunFrom c ahead { b with s := s, e := e, some_ := true } rest
      | .asked s e => copyRunFrom c ahead { b with s := s, e := e, left := b.left ++ [x], some_ := true } rest
      | .miss p q => copyRunFrom c ahead { b with left := b.left ++ [x], miss := if b.miss.contains (p, q) then b.miss else b.miss ++ [(p, q)] } rest
      | .stay => copyRunFrom c ahead { b with left := b.left ++ [x] } rest
      | .fail code va => { b with stop := some (.fail code va) }
      | .marked pa => { b with stop := some (.marked pa) }
      | .hole pa => { b with stop := some (.hole pa) }

/-- An outcome of a move that writes no register. -/
abbrev Moved := Host.Outcome State Fault Refusal

/-- What a run comes to: the entry with what is left, page requests, a fault (R254, R255, R358). -/
def State.copySettle (s : State) (r : CtxRef) (a : RunAcc) : Moved :=
  let miss := a.miss.map (·.1)
  let e : CopyEntry := { a.e with
    left := a.left, missing := miss
    since := if miss.isEmpty then none else if miss = a.e.missing then some (a.e.since.getD s.cycle) else some s.cycle }
  let s1 := a.miss.foldl (fun t (p, q) => t.joinRequest (s.vfOf r.slot) r p q) (a.s.setCtx r (fun c => c.setCopy e))
  match a.stop with
  | none => .next s1
  | some (.fail code va) => .next (s1.copyFault r e.id code (BitVec.ofNat 64 va))
  | some (.marked pa) => .next (s1.attribute pa r)
  | some (.hole pa) => .fault (.noSuchAddress pa)
  | some (.done _ _) => .next s1
  | some (.miss _ _) => .next s1
  | some .stay => .next s1
  | some (.asked _ _) => .next s1

/-! ## Requests (R250, R255, R259) -/

/-- Elements that earlier copies of the queue have kept back. -/
def Context.leftBefore (c : Context) (e : CopyEntry) : List CopyElem := (c.copyq.filter (fun x => decide (x.id < e.id))).flatMap (·.left)

/-- The index of the next row of a gather or scatter, read as the copy runs: its elements come next (R259). Keys of these reads start at 2^40. -/
def State.copyRow (s : State) (c : Context) (e : CopyEntry) : ElemRes :=
  let va := (e.list + BitVec.ofNat 64 (4 * e.rows)).toNat
  let me : CopyElem := ⟨2 ^ 40 + e.rows, some va, none, 0, 4, 4⟩
  let back := c.leftBefore e ++ e.left
  if back.any (fun y => y.before me) then .stay
  else
    match (s.copySide (s.vfOf c.slot) ⟨1, false, 4, none, false⟩ none va).1 with
    | .ok p =>
      if s.copyBusy c back.isEmpty p 4 then .stay
      else
        match s.copyRead c e me.k va 4 p with
        | .inl (s1, bs) =>
          let l := rowElems e.tpl (e.op == CopyOp.cscat) e.x e.y e.rows (leNat bs) e.next
          .done s1 { e with rows := e.rows + 1, next := e.next + l.length, todo := e.todo ++ l }
        | .inr r => r
    | .miss p r => if c.copyDenied.contains p then .fail Code.permission va else .miss p r
    | .fail code _ => .fail code va
    | .stay => .stay
    | .marked pa => .marked pa
    | .hole pa => .hole pa

/-- The sector an element's request goes to. -/
def CopyElem.sector (x : CopyElem) : Option Nat := (x.src.or x.dst).map (· / 32)

/-- Elements of one stretch of 4,096 source bytes (R255), those written where nothing is read: the number after the stretch that element k lies in. -/
def CopyElem.stretchEnd (x : CopyElem) : Nat :=
  let m := if x.n = 0 then x.w else x.n
  (x.k * m / 4096 + 1) * 4096 / max m 1

/-- The elements of the next request, those of one sector within a stretch, and the rest. -/
def CopyEntry.nextGroup (e : CopyEntry) : List CopyElem × List CopyElem × Nat :=
  match e.todo with
  | [] => ([], [], e.upto)
  | x :: _ =>
    let lim := max e.upto x.stretchEnd
    let g := e.todo.takeWhile (fun y => y.sector = x.sector && decide (y.k < lim))
    (g, e.todo.drop g.length, lim)

/-- One request of a begun copy: what was kept back tries again, then, where `fresh` says so, the next row is listed or the next elements move. -/
def State.copyStep (s : State) (r : CtxRef) (id : Nat) (retry fresh : Bool) : Moved :=
  match s.ctx? r with
  | none => .next s
  | some c =>
    match c.copyq.find? (fun e => e.id = id) with
    | none => .next s
    | some e =>
      let ahead := c.leftBefore e
      let a0 : RunAcc := ⟨s, { e with left := [] }, [], [], false, none⟩
      let a1 : RunAcc := if retry then copyRunFrom c ahead a0 e.left else { a0 with left := e.left }
      if a1.stop.isSome || !fresh then s.copySettle r a1
      else if e.todo.isEmpty && e.moreRows then
        match a1.s.copyRow c { a1.e with left := a1.left } with
        | .done s1 e1 => s.copySettle r { a1 with s := s1, e := e1, some_ := true }
        | .asked s1 e1 => s.copySettle r { a1 with s := s1, e := e1 }
        | .miss p q => s.copySettle r { a1 with miss := if a1.miss.contains (p, q) then a1.miss else a1.miss ++ [(p, q)] }
        | .stay => s.copySettle r a1
        | .fail code va => s.copySettle r { a1 with stop := some (.fail code va) }
        | .marked pa => s.copySettle r { a1 with stop := some (.marked pa) }
        | .hole pa => s.copySettle r { a1 with stop := some (.hole pa) }
      else
        let (g, rest, lim) := a1.e.nextGroup
        s.copySettle r (copyRunFrom c ahead { a1 with e := { a1.e with todo := rest, upto := lim } } g)

/-- One element by itself, of a stretch begun (R251, R289): every earlier element that is not moved stands before it. -/
def State.copyPiece (s : State) (r : CtxRef) (id k : Nat) : Moved :=
  match s.ctx? r with
  | none => .next s
  | some c =>
    match c.copyq.find? (fun e => e.id = id) with
    | none => .next s
    | some e =>
      let all := e.left ++ e.todo
      match all.find? (fun x => x.k = k) with
      | none => .next s
      | some x =>
        if !e.begun || decide (e.upto ≤ k) then .next s
        else
          let ahead := c.leftBefore e ++ all.filter (fun y => decide (y.k < k))
          let a := copyRunFrom c ahead ⟨s, { e with left := [] }, [], [], false, none⟩ [x]
          s.copySettle r { a with
            e := { a.e with todo := e.todo.filter (fun y => y.k ≠ k) }
            left := e.left.filter (fun y => decide (y.k < k)) ++ a.left ++ e.left.filter (fun y => decide (k < y.k)) }

/-! ## Beginning a copy -/

/-- A CPYT begins: the slot at head claimed, or the slot at tail taken, an acquire of the context (R262, R293). `none`: it waits. -/
def State.copyTake (s : State) (r : CtxRef) (e : CopyEntry) : State × Option CopyEntry :=
  match Tbl.get? s.troughs e.trough, s.ctx? r with
  | some t, some c =>
    let drain := e.y.getLsbD 8
    let took (t' : Trough) (i : Nat) : State × Option CopyEntry :=
      ((s.setTrough e.trough t').orderPoint c false, some { e with begun := true, since := none, slotIx := some i })
    let p := t.position c
    if t.inc then (s.copyFault r e.id Code.troughInconsistent 0, none)
    else if (if drain then !t.takeable s.cycle else t.slotAt t.headSlot != .free) then
      let t1 := if drain then { t with takePtr := t.takePtr.meet t.positions p s.cycle false } else { t with claimPtr := t.claimPtr.meet t.positions p s.cycle false }
      ((s.setTrough e.trough t1).setCtx r (fun c => c.setCopy { e with since := some (e.since.getD s.cycle) }), none)
    else if !(if drain then t.mayTake p s.cycle else t.mayClaim p s.cycle) then (s, none)
    else if !t.consistent then ((s.setTrough e.trough { t with inc := true }).copyFault r e.id Code.troughInconsistent 0, none)
    else if drain then took (t.takeBy p s.cycle) t.tailSlot
    else took (t.claimBy p s.cycle) t.headSlot
  | _, _ => (s, none)

/-- A copy may begin: with RL = 1 once every earlier access of the context, and what it has seen, is performed at its scope (R251, R290). -/
def State.mayBegin (s : State) (e : CopyEntry) : Bool :=
  e.op = .cfence || (match e.rel with
    | some sc => e.ids.all (fun i => s.performedAt i sc)
    | none => true)

/-- The next copy of a context begins, or makes its next request, if one of the engine's 512 slots is free; what earlier ones have kept back tries again
(R250, R255). -/
def State.copyBegin (s : State) (r : CtxRef) : Moved :=
  match s.ctx? r with
  | none => .next s
  | some c =>
    if c.phase = .stopped || c.phase = .joined || !c.faultRoom || !s.running r.slot || decide (s.slotsOf c ≤ s.outstanding c) then .next s
    else
      match c.copyq.dropWhile CopyEntry.issued with
      | [] => match c.copyq.find? (fun e => !e.left.isEmpty) with
        | some e => s.copyStep r e.id true false
        | none => .next s
      | e :: _ =>
        match c.copyq.find? (fun x => decide (x.id < e.id) && x.left.any (fun y => x.answers.any (fun a => a.1 = y.k))) with
        | some x => s.copyStep r x.id true false
        | none =>
          if e.begun then s.copyStep r e.id true true
          else if !s.mayBegin e then .next s
          else
            match e.op with
            | .cfence => .next s
            | .crede => .next (s.setCtx r (fun c => c.setCopy { e with begun := true, creding := List.range 8 }))
            | .cpyt =>
              match s.copyTake r e with
              | (s1, none) => .next s1
              | (s1, some e1) => (s1.setCtx r (fun c => c.setCopy e1)).copyStep r e.id true true
            | .cgath | .cscat | .cpy | .cpyx | .czero | .cred _ _ => (s.setCtx r (fun c => c.setCopy { e with begun := true })).copyStep r e.id true true

def execCopyBegin (c : CtxRef) (s : State) : Host.Outcome State Fault Refusal := s.copyBegin c

/-- The stretch that a copy has begun is moved as far as it can be, before its context stops (R255, R337). -/
def State.copyFinish (s : State) (r : CtxRef) : Nat → Moved
  | 0 => .next s
  | n + 1 =>
    match (s.ctx? r).bind (fun c => c.copyq.find? (fun e => e.begun && e.todo.any (fun x => decide (x.k < e.upto)))) with
    | none => .next s
    | some e =>
      match s.copyStep r e.id false true with
      | .next t => State.copyFinish t r n
      | .fault f => .fault f
      | .refused f => .refused f

/-! ## Completing a copy -/

/-- What an entry still waits for is done (R250, R253, R262, R266). `first`: no entry stands before it. -/
def State.copyDone (s : State) (first : Bool) (e : CopyEntry) : Bool :=
  match e.op with
  | .cfence => first && e.ids.all (fun i => s.performedAt i (e.rel.getD .dev))
  | .cpyt =>
    let sc := ((Tbl.get? s.troughs e.trough).map Trough.scope).getD .dev
    e.moved && s.storesAt e.id .dev && e.tids.all (fun i => s.performedAt i sc)
  | .cpy | .cpyx | .cgath | .cscat | .czero | .cred _ _ | .crede => e.moved && e.closing.isEmpty && s.storesAt e.id .dev

/-- The transition that completes a CPYT (R262); `none`: the invariants of R166 fail. -/
def Trough.copyEnd (t : Trough) (e : CopyEntry) (cycle : Nat) : Option Trough :=
  if !t.consistent then none
  else
    match e.slotIx with
    | none => some t
    | some i =>
      if e.y.getLsbD 8 then some (t.release i)
      else some (t.fill i (BitVec.ofNat 32 (((tplCoords e.tpl).filter (tplIn e.tpl)).length * tplEs e.tpl)) cycle)

/-- The first copy of the queue that is done leaves it: CPYT's transition, flags, SCOPE_DEMOTED (R250, R259, R262, R145). -/
def State.copyComplete (s : State) (r : CtxRef) : State :=
  match s.ctx? r with
  | none => s
  | some c =>
    match (c.copyq.zipIdx).find? (fun (e, i) => s.copyDone (i = 0) e) with
    | none => s
    | some (e, _) =>
      let fin (t : State) : State :=
        let t1 := t.setCtx r (fun c => { c with
          copyq := c.copyq.filter (fun x => x.id ≠ e.id)
          fcsr := putEnv c.fcsr { envOf c.fcsr with flags := e.flags } })
        if e.note then t1.post r ⟨Code.scopeDemoted, 0, if e.op = .cfence then 0 else e.x, true⟩ else t1
      match e.op with
      | .cpyt =>
        match Tbl.get? s.troughs e.trough with
        | none => fin s
        | some t =>
          match t.copyEnd e s.cycle with
          | some t' => (fin (s.setTrough e.trough t')).wakeNow (.troughFree (e.trough / 1024) (e.trough % 1024))
          | none => (s.setTrough e.trough { t with inc := true }).copyFault r e.id Code.troughInconsistent 0
      | .cpy | .cpyx | .cgath | .cscat | .czero | .cred _ _ | .crede | .cfence => fin s

def execCopyComplete (c : CtxRef) (s : State) : Host.Outcome State Fault Refusal := .next (s.copyComplete c)

/-! ## The Winze (R264 to R266, R320 to R324) -/

/-- Where a stack's Winze stands; no engine shares its place. -/
def winzeLoc (stack vf : Nat) : Loc := ⟨354 + stack, 32 + stack, vf⟩

/-- Records made from number `n` on carry a copy's number (R250). -/
def State.tagFrom (s : State) (n : Nat) (x : CtxRef × Nat) : State :=
  { s with coh := s.coh.map (fun r => if n ≤ r.id then { r with also := x :: r.also } else r) }

/-- A Winze recalls the line from every L1: dirty sectors are written back, copies dropped (R320). -/
def State.recallLine (s : State) (pa : Nat) : State :=
  let s1 := (s.l1.filter (fun x => x.pa / 64 = pa / 64 && x.dirty)).foldl (fun t x => t.writeback x) s
  { s1 with l1 := s1.l1.filter (fun x => x.pa / 64 ≠ pa / 64) }

/-- An addition may be made: no L1 holds the line dirty, and what stands before it is performed at dev (R281, R320). -/
def State.winzeReady (s : State) (vf pa n : Nat) : Bool :=
  s.poisoned pa || (s.l1.all (fun x => x.pa / 64 ≠ pa / 64 || !x.dirty) && State.inOrder s.coh (winzeLoc (stackOf pa) vf) pa n .dev)

/-- One addition: the current value read, the contribution added in RNE, the result written and performed at `sc` (R125, R320). A marked sector is
never read: it is attributed (R367, R368). -/
def State.winzeAdd (s : State) (by_ : CtxRef) (bf ckpt : Bool) (pa value : Nat) (sc : Scope) : State :=
  if s.poisoned pa then s.attribute pa by_
  else
    let s1 := s.recallLine pa
    let n := if bf then 2 else 4
    let old := leNat (bytesFrom s1.lastByte pa n)
    s1.writeThrough by_ (winzeLoc (stackOf pa) (s.vfOf by_.slot)) ⟨pa, .rc, .coh, 0, false, ckpt, none⟩ pa
      (natBytes (addRne (if bf then .bf16 else .f32) old value) n) sc

/-- The same, in no stated order among issuers (R404 kind 6). -/
def State.winzeAddFree (s : State) (by_ : CtxRef) (bf ckpt : Bool) (pa value : Nat) (sc : Scope) : State :=
  (s.winzeAdd by_ bf ckpt pa value sc).capture (s.vfOf by_.slot) 6

/-- The open round of a number at a stack. -/
def State.round? (s : State) (stack vf num : Nat) : Option Round := s.rounds.find? (fun r => r.stack = stack && r.vf = vf && r.num = num)
def State.setRound (s : State) (r : Round) : State :=
  { s with rounds := r :: s.rounds.filter (fun q => !(q.stack = r.stack && q.vf = r.vf && q.num = r.num)) }
def State.dropRound (s : State) (r : Round) : State :=
  { s with rounds := s.rounds.filter (fun q => !(q.stack = r.stack && q.vf = r.vf && q.num = r.num)) }

/-- A round opens while the VF has fewer than 16 open at the Winze (R265). -/
def State.openRound (s : State) (stack vf num nim1 : Nat) : Option Round :=
  match s.round? stack vf num with
  | some r => some r
  | none =>
    if (s.rounds.filter (fun r => r.stack = stack && r.vf = vf)).length < 16 then some ⟨stack, vf, num, nim1, [], false, [], (0, 0)⟩ else none

/-- An issuer's contribution or CREDE may still be handled in this cycle: none of a higher one has been (R324). -/
def Round.mayHandle (r : Round) (i cycle : Nat) : Bool := decide (r.turn.1 ≠ cycle + 1) || decide (r.turn.2 ≤ i)
def Round.handled (r : Round) (i cycle : Nat) : Round := { r with turn := (cycle + 1, i) }

/-- L: the lowest issuer whose CREDE has not arrived (R321). -/
def Round.lowest (r : Round) : Nat := ((List.range (r.nim1 + 1)).find? (fun i => !r.closed.contains i)).getD (r.nim1 + 1)

/-- The next contribution of a context for a stack, with its copy: its streams are served in queue and element order, an element kept back with
those behind it (R264). -/
def Context.nextContrib (c : Context) (stack : Nat) : Option (CopyEntry × Contrib) :=
  c.copyq.findSome? (fun e => (e.contribs.find? (fun x => x.stack = stack && (e.left ++ e.todo).all (fun y => decide (x.k < y.k)))).map (fun x => (e, x)))

/-- A context's copies go on: it has not stopped, and its instance is not being killed or rolled back (R323, R337). -/
def State.copyLive (s : State) (c : Context) : Bool :=
  c.phase != .stopped && c.phase != .joined && (Tbl.get? s.slots c.slot).any (fun x => (x.state = 2 || x.state = 3) && !x.rolling)

/-- The contribution has been accepted: it leaves its copy, and a refusal standing for the stack ends. -/
def CopyEntry.accepted (e : CopyEntry) (x : Contrib) : CopyEntry :=
  { e with contribs := e.contribs.erase x, refused := e.refused.filter (fun p => p.1 ≠ x.stack) }

/-- An own store to the contribution's bytes is still on its way: it is performed first (R251). -/
def State.ownStoreBefore (s : State) (r : CtxRef) (x : Contrib) (n : Nat) : Bool :=
  s.hold.any (fun q => q.owned r && decide (q.pa < x.pa + n) && decide (x.pa < q.pa + q.bytes.length))

/-- A contribution arrives (R264, R265, R321, R322). -/
def State.contribute (s : State) (stack : Nat) (r : CtxRef) (e : CopyEntry) (x : Contrib) : State :=
  let take (t : State) : State := t.setCtx r (fun c => c.setCopy (e.accepted x))
  match e.op with
  | .cred bf det =>
    let vf := s.vfOf r.slot
    let n := if bf then 2 else 4
    if s.ownStoreBefore r x n then s
    else if !det then (if !s.presents vf 6 (x.pa / 32) r.num then s else if s.winzeReady vf x.pa n then ((take s).winzeAddFree r bf x.ckpt x.pa x.value .dev).tagFrom s.nextId (r, e.id) else s.recallLine x.pa)
    else
      let i := tplIdx e.tpl
      match s.openRound stack vf (tplRound e.tpl) (tplNim1 e.tpl) with
      | none => s
      | some q0 =>
        let q := q0.handled i s.cycle
        if !q0.mayHandle i s.cycle then s
        else if q.nim1 ≠ tplNim1 e.tpl then s.copyFault r e.id Code.reservedField x.va
        else if q.closed.contains i then s.copyFault r e.id Code.illegalOp x.va
        else if i = q.lowest then
          (if s.winzeReady vf x.pa n then (((take s).setRound q).winzeAdd r bf x.ckpt x.pa x.value .dev).tagFrom s.nextId (r, e.id)
           else (s.setRound q).recallLine x.pa)
        else if !q.serial && decide (q.held.length < 16) then
          (take s).setRound { q with held := q.held ++ [⟨i, r, x.pa, bf, x.ckpt, x.value⟩] }
        else
          (s.setRound { q with serial := true }).setCtx r (fun c => c.setCopy
            { e with refused := e.refused.filter (fun p => p.1 ≠ stack) ++ [(stack, s.cycle)] })
  | .cpy | .cpyx | .cpyt | .cgath | .cscat | .czero | .crede | .cfence => s

/-- CONTRIBUTION_ARRIVAL: the next contribution of a stream that is not refused (R321). -/
def execContributionArrival (stack : Nat) (c : CtxRef) (s : State) : Host.Outcome State Fault Refusal :=
  .next (match ((s.ctx? c).filter s.copyLive).bind (fun x => x.nextContrib stack) with
    | some (e, x) => if e.refused.any (fun p => p.1 = stack) then s else s.contribute stack c e x
    | none => s)

/-- REFUSED_RETRY: a refused stream tries again every 64 cycles (R321, R323). -/
def execRefusedRetry (stack : Nat) (c : CtxRef) (s : State) : Host.Outcome State Fault Refusal :=
  .next (match ((s.ctx? c).filter s.copyLive).bind (fun x => x.nextContrib stack) with
    | some (e, x) => if e.refused.any (fun p => p.1 = stack && decide (p.2 + 64 ≤ s.cycle)) then s.contribute stack c e x else s
    | none => s)

/-- The held contributions of one issuer added in arrival order (R321). -/
def State.releaseHeld (s : State) (q : Round) (i : Nat) : State :=
  (q.held.filter (fun h => h.idx = i)).foldl (fun t h => t.winzeAdd h.by_ h.bf h.ckpt h.pa h.value .dev) s

/-- The round is closed at this Winze: no issuer waits for it any more (R266). -/
def State.closeRound (s : State) (q : Round) : State :=
  let f (vf : Nat) (c : Context) : Context :=
    if vf = q.vf then
      { c with copyq := c.copyq.map (fun e =>
          if e.op = .crede ∧ fieldN e.x 7 0 = q.num then { e with closing := e.closing.filter (fun k => k ≠ q.stack) } else e) }
    else c
  { s.dropRound q with cur := f (s.vfOf s.cur.slot) s.cur, parked := s.parked.map (fun c => f (s.vfOf c.slot) c) }

/-- A CREDE closes its issuer: held contributions of each issuer that becomes the lowest open one are added (R321); the round closes
once every issuer has (R266). -/
def State.credeAt (s : State) (q : Round) (i : Nat) : State :=
  let old := q.lowest
  let q1 := { q with closed := q.closed ++ [i] }
  let new := q1.lowest
  let s1 := ((List.range (q.nim1 + 1)).filter (fun j => decide (old < j) && decide (j ≤ new))).foldl (fun t j => t.releaseHeld q1 j) s
  let held := q1.held.filter (fun h => !(decide (old < h.idx) && decide (h.idx ≤ new)))
  let q2 := { q1 with held := held, serial := q1.serial && !held.isEmpty }
  if q2.nim1 < new then s1.closeRound q2 else s1.setRound q2

/-- Held contributions that a CREDE of issuer i sets free and that cannot be added yet (R321). -/
def State.credeWaits (s : State) (q : Round) (i : Nat) : List Held :=
  let new := { q with closed := q.closed ++ [i] }.lowest
  (q.held.filter (fun h => decide (q.lowest < h.idx) && decide (h.idx ≤ new))).filter (fun h => !s.winzeReady q.vf h.pa (if h.bf then 2 else 4))

/-- Contributions that stand before a CREDE in its context's queue are still to come to a stack: a sender's commands are served in order (R319). -/
def State.contribsBefore (s : State) (r : CtxRef) (e : CopyEntry) (stack : Nat) : Bool :=
  (s.ctx? r).any (fun c => c.copyq.any (fun x => decide (x.id < e.id) &&
    (x.contribs.any (fun y => y.stack = stack) || (match x.op with
      | .cred _ _ => !x.left.isEmpty || !x.todo.isEmpty
      | .cpy | .cpyx | .cpyt | .cgath | .cscat | .czero | .crede | .cfence => false))))

/-- CREDE_ARRIVAL (R265, R266, R321): it is handled once what it sets free can be added. -/
def execCredeArrival (stack : Nat) (c : CtxRef) (s : State) : Host.Outcome State Fault Refusal :=
  .next (match ((s.ctx? c).filter s.copyLive).bind (fun x => x.copyq.find? (fun e => e.op = .crede && e.creding.contains stack)) with
    | none => s
    | some e =>
      let vf := s.vfOf c.slot
      let nim1 := fieldN e.x 21 16
      match (if s.contribsBefore c e stack then none else s.openRound stack vf (fieldN e.x 7 0) nim1) with
      | none => s
      | some q0 =>
        let q := q0.handled (fieldN e.x 13 8) s.cycle
        if !q0.mayHandle (fieldN e.x 13 8) s.cycle then s
        else if q.nim1 ≠ nim1 then s.copyFault c e.id Code.reservedField 0
        else if q.closed.contains (fieldN e.x 13 8) then s.copyFault c e.id Code.illegalOp 0
        else if !(s.credeWaits q (fieldN e.x 13 8)).isEmpty then (s.credeWaits q (fieldN e.x 13 8)).foldl (fun t h => t.recallLine h.pa) s
        else (s.setCtx c (fun x => x.setCopy { e with creding := e.creding.filter (fun k => k ≠ stack), closing := e.closing ++ [stack] })).credeAt
          q (fieldN e.x 13 8))

end Sys2Proof.Machine
end

