-- ==== Sys2Proof/Machine/Fetch.lean ====
section
/-! DEFINITION. Code sections and the bytes a fetch reads (R30, R56, R76): an address is a byte offset from CODEOFF. -/
namespace Sys2Proof.Machine

/-- An aligned word of n bytes at `pc` lies in a section of the kind (R56). -/
def Image.inKind (i : Image) (k : Kind) (pc n : Nat) : Bool :=
  i.secs.any (fun x => x.kind = k && decide (x.off ≤ pc) && decide (pc + n ≤ x.off + x.len))

/-- Bytes of the code at `pc`. -/
def Image.codeAt (i : Image) (pc n : Nat) : List Byte := (i.code.drop pc).take n

/-- The image of an instance. -/
def State.imageOf (s : State) (slot : Nat) : Option Image := (Tbl.get? s.slots slot).bind (fun x => Tbl.get? s.images x.image)

/-- The bytes of the word at a PC, if it lies in a section of the kind (R56, R267). -/
def State.fetch (s : State) (slot : Nat) (k : Kind) (pc : Word) : Option (List Byte) :=
  let n := if k = .se then 8 else 4
  match s.imageOf slot with
  | none => none
  | some i => if i.inKind k pc.toNat n then some (i.codeAt pc.toNat n) else none

end Sys2Proof.Machine
end

