-- ==== Sys2Proof/Machine/StepEngine.lean ====
section
/-! DEFINITION. Token queues (R45, R179), step contexts (R180, R181, R267 to R277) and their messages (R375, R378, R389). -/
namespace Sys2Proof.Machine

/-! ## Token queues -/

def State.token (s : State) (q : Nat) : TokenQ := (Tbl.get? s.tokens q).getD ⟨0, 0, 0⟩

/-- n added to a queue, saturating; TOKEN_SATURATED goes to `r` with the queue's index (R45, R179). -/
def State.tokenAdd (s : State) (q n : Nat) (r : CtxRef) (idx : Nat) : State :=
  let t := s.token q
  if t.count.toNat + n ≤ 65535 then { s with tokens := Tbl.set s.tokens q { t with count := BitVec.ofNat 16 (t.count.toNat + n), used := s.cycle + 1 } }
  else ({ s with tokens := Tbl.set s.tokens q { t with count := 65535, used := s.cycle + 1 } } : State).post r ⟨Code.tokenSaturated, 0, BitVec.ofNat 64 idx, true⟩

/-! ## Step contexts -/

def State.setStep (s : State) (h : Nat) (f : StepCtx → StepCtx) : State :=
  match Tbl.get? s.steps h with
  | none => s
  | some c => { s with steps := Tbl.set s.steps h (f c) }

/-- An armed step of a context, by age. -/
def StepCtx.armed (c : StepCtx) (age : Nat) : Option Armed := c.store.find? (fun a => a.age = age)
def StepCtx.setArmed (c : StepCtx) (a : Armed) : StepCtx := { c with store := c.store.map (fun x => if x.age = a.age then a else x) }
def StepCtx.drop (c : StepCtx) (age : Nat) : StepCtx := { c with store := c.store.filter (fun x => x.age ≠ age) }

/-- Under what name a step context waits on a page request, and where its accesses stand. -/
def stepRef (slot h : Nat) : CtxRef := ⟨slot, 2 ^ 20 + h⟩
def stepLoc (h vf : Nat) : Loc := ⟨352 + h / 32, 40 + h / 32, vf⟩

/-- A step context stops on a fault: its other steps are cancelled without posting, CWAIT reports it (R181, R276). -/
def State.stepStop (s : State) (h : Nat) (code detail : BitVec 8) : State :=
  s.setStep h (fun c => { c with status := some ((detail.setWidth 64 <<< 8) ||| code.setWidth 64), store := [] })

/-- How a step's work ends short: it waits (with what it keeps), the context stops, an address does not exist. -/
inductive StepHalt where
  | wait (s : State)
  | stop (code detail : BitVec 8)
  | hole (pa : Nat)

abbrev StepAct (α : Type) : Type := StateT State (Except StepHalt) α

def stepHalt {α : Type} (x : StepHalt) : StepAct α := fun _ => .error x
def stepFail {α : Type} (code detail : BitVec 8) : StepAct α := stepHalt (.stop code detail)
def stepWait {α : Type} : StepAct α := fun s => .error (.wait s)

/-- The outcome of a step's work. -/
def runStep (h : Nat) (a : StepAct Unit) (s : State) : Moved :=
  match a s with
  | .ok (_, s') => .next s'
  | .error (.wait s') => .next s'
  | .error (.stop code detail) => .next (s.stepStop h code detail)
  | .error (.hole pa) => .fault (.noSuchAddress pa)

/-- A running step context. -/
def stepGet (h : Nat) : StepAct StepCtx := fun s =>
  match Tbl.get? s.steps h with
  | some c => if c.status.isNone then .ok (c, s) else .error (.wait s)
  | none => .error (.wait s)

/-! ## Its accesses (R272) -/

/-- What is asked of a buffer whose bytes have no element format (R116), and of an RRS's, whose pages are those of a CRED's destination (R272). -/
def rawSide (rights : BitVec 3) : SideRule := ⟨rights, false, 0, none, true⟩
def rrsSide (rights : BitVec 3) (bf : Bool) : SideRule := ⟨rights, false, 0, some bf, false⟩

/-- One sector of a buffer: translation, page rules, banks, marks; a denied page stops the context (R357). Its page, and the first one of its buffer. -/
def stepSector (h : Nat) (k : SideRule) (first : Option PageInfo) (va : Nat) : StepAct (PageInfo × Option PageInfo) := do
  let c ← stepGet h
  let s ← get
  let (o, f) := s.copySide (s.vfOf c.slot) k first va
  match o with
  | .ok p => pure (p, f)
  | .miss p r =>
    if c.denied.contains p then stepFail Code.permission 1
    else
      modify (fun s => s.joinRequest (s.vfOf c.slot) (stepRef c.slot h) p r)
      stepWait
  | .fail code detail => stepFail code detail
  | .stay => stepWait
  | .marked pa =>
    modify (fun s => s.attribute pa c.starter)
    stepWait
  | .hole pa => stepHalt (.hole pa)

/-- The sectors of a buffer, all on pages of the same attributes. -/
def stepPieces (h : Nat) (k : SideRule) : Option PageInfo → List (Nat × Nat) → StepAct (List (Nat × Piece))
  | _, [] => pure []
  | first, (va, n) :: rest => do
    let (p, f) ← stepSector h k first (va % 2 ^ 64)
    let more ← stepPieces h k f rest
    pure ((va, (⟨p.pa, n, p⟩ : Piece)) :: more)

/-- The sectors of n bytes at `va`. -/
def stepSpan (h : Nat) (k : SideRule) (va : Word) (n : Nat) : StepAct (List (Nat × Piece)) := stepPieces h k none (sectorCuts va.toNat (n / 32 + 2) n)

/-- The same, of this device alone: tables, and what a die's SIT serves (R269, R378). -/
def stepLocal (h : Nat) (va : Word) (n : Nat) : StepAct (List (Nat × Piece)) := do
  let ps ← stepSpan h (rawSide 1) va n
  if ps.any (fun x => x.2.page.remote.isSome) then stepFail Code.permission 2 else pure ps

/-- The bytes of local sectors as the step engine sees them, counted (R183). -/
def stepLoad (h : Nat) (ps : List (Nat × Piece)) : StepAct (List Byte) := do
  let c ← stepGet h
  let s ← get
  let loc := stepLoc h (s.vfOf c.slot)
  set (ps.foldl (fun t (_, p) => t.meterBytes c.slot false p.pa p.len) s)
  pure (ps.flatMap (fun (_, p) => bytesFrom (s.viewByte loc) p.pa p.len))

/-- A write of a step to a remote page stays within its window (R377). -/
def State.remoteFits (s : State) (p : Piece) : Bool :=
  match p.page.remote with
  | none => true
  | some i => (Tbl.get? s.rwins i).any (fun w => w.w && decide (p.pa % 2 ^ 36 + p.len ≤ w.len))

/-- Bytes written to sectors, each a store of the step engine in the hold buffer (R275, R296, R377): their numbers. -/
def stepStore (h : Nat) : List (Nat × Piece) → List Byte → StepAct (List Nat)
  | [], _ => pure []
  | (va, p) :: rest, bs => do
    let c ← stepGet h
    let s ← get
    if s.remoteFits p then
      let r : StoreRec := { StoreRec.new s.nextId (stepRef c.slot h) (stepLoc h (s.vfOf c.slot)) p.pa (bs.take p.len) p.page with va := BitVec.ofNat 64 va }
      set ({ s with nextId := s.nextId + 1, hold := s.hold ++ [r] } : State)
      let more ← stepStore h rest (bs.drop p.len)
      pure (s.nextId :: more)
    else stepFail Code.permission 2

/-- Bytes of a table of the step program (R269): raw pages of this device. -/
def stepTable (h : Nat) (va : Word) (n : Nat) : StepAct Nat := do
  let ps ← stepLocal h va n
  let bs ← stepLoad h ps
  pure (leNat bs)

/-! ## The header and the entries (R269, R270) -/

def stepProgramFault {α : Type} (detail : BitVec 8) : StepAct α := stepFail Code.stepProgram detail

/-- The header is read at start; the peer registers start at RANK (R267, R269). -/
def stepHeader (h : Nat) : StepAct Unit := do
  let c ← stepGet h
  if c.ready then pure ()
  else
    let n ← stepTable h c.table 64
    let b : BitVec 512 := BitVec.ofNat 512 n
    if fieldN b 511 201 ≠ 0 ∨ fieldN b 191 128 ≠ 0 ∨ fieldN b 63 32 ≠ 0 ∨ fieldN b 31 16 ≤ fieldN b 15 0 ∨ 256 < fieldN b 200 192 then
      stepProgramFault 7
    else
      modify (fun s => s.setStep h (fun c => { c with
        ready := true, rank := fieldN b 15 0, size := fieldN b 31 16, ndesc := fieldN b 200 192, peertab := b.extractLsb' 64 64
        pe := List.replicate 4 (fieldN b 15 0) }))

/-- Entry X (R270). -/
def stepEntry (h : Nat) (x : BitVec 8) : StepAct (BitVec 256) := do
  let c ← stepGet h
  if c.ndesc ≤ x.toNat then stepProgramFault 7
  else
    let n ← stepTable h (c.table + 64 + 32 * x.setWidth 64) 32
    let b : BitVec 256 := BitVec.ofNat 256 n
    if fieldN b 199 196 ≠ 0 ∨ (b.getLsbD 194 = true ∧ fieldN b 215 202 ≠ 0) ∨ (b.getLsbD 195 = true ∧ fieldN b 231 218 ≠ 0) then stepProgramFault 7
    else pure b

def StepCtx.lc (c : StepCtx) (i : Nat) : Nat := ((c.loops[i]?).map (·.index)).getD 0

/-- An address of an entry: base + 32 × LSTR × lc (R270). -/
def entryAddr (c : StepCtx) (b : BitVec 256) (lo : Nat) : Word :=
  b.extractLsb' lo 64 + BitVec.ofInt 64 (32 * (b.extractLsb' 160 24).toInt * c.lc (fieldN b 193 192))

/-- A peer of an entry: its rank (R270); at or above SIZE it stops the context with detail 6. -/
def stepPeer (c : StepCtx) (b : BitVec 256) (hi lo flag : Nat) : StepAct Nat :=
  let v := fieldN b hi lo
  let r := if b.getLsbD flag then c.pe.getD v 0 else v
  if c.size ≤ r then stepProgramFault 6 else pure r

/-- The endpoint of a rank (R269, R372). -/
def stepEndpoint (h : Nat) (r : Nat) : StepAct Word := do
  let c ← stepGet h
  let n ← stepTable h (c.peertab + 8 * BitVec.ofNat 64 r) 8
  pure (BitVec.ofNat 64 n)

/-- The next match number with a rank: `side` 0 counts sends, 1 receives (R274). -/
def stepMatch (h r side : Nat) (tag : BitVec 8) : StepAct Nat := do
  let c ← stepGet h
  let k := (2 * r + side) * 256 + tag.toNat
  let n := (Tbl.get? c.matched k).getD 0 + 1
  modify (fun s => s.setStep h (fun c => { c with matched := Tbl.set c.matched k n }))
  pure n

/-! ## Arming (R267) -/

/-- A physical token queue (R48). -/
def stepQueue (c : StepCtx) (i : BitVec 8) : StepAct Nat :=
  if i.toNat < fieldN c.wtok 40 32 then pure (fieldN c.wtok 15 0 + i.toNat) else stepFail Code.windowBounds 0

/-- The input queues a word names, in order. -/
def StepF.inputs (o : StepF) : List (BitVec 8) := [o.in0, o.in1, o.in2, o.in3].take o.nin.toNat

def stepCapture (c : StepCtx) : List (BitVec 8) → StepAct (List (Nat × BitVec 16))
  | [] => pure []
  | i :: rest => do
    let q ← stepQueue c i
    let s ← get
    let more ← stepCapture c rest
    pure ((q, (s.token q).gen) :: more)

/-- Whether a step's word names an entry, takes LBUF, and sends or receives (R272). -/
def StepOp.described : StepOp → Bool
  | .send | .recv | .rrs | .copy | .sitadv | .sitret | .kout => true
  | .wait | .done => false

def StepOp.buffered : StepOp → Bool
  | .send | .recv | .rrs | .copy | .sitadv => true
  | .sitret | .kout | .wait | .done => false

/-- The buffers a step names (R277). -/
def Armed.buffers (a : Armed) : List (Word × Nat) :=
  if a.len = 0 then []
  else
    match a.op with
    | .send | .recv | .rrs => [(a.lbuf, a.len)]
    | .copy => [(a.lbuf, a.len), (a.xbuf, a.len)]
    | .wait | .sitadv | .sitret | .kout | .done => []

/-- What an entry gives a step (R270, R274). -/
def stepDescribe (h : Nat) (a : Armed) (x : BitVec 8) : StepAct Armed := do
  if !a.op.described then pure a
  else
    let b ← stepEntry h x
    let c ← stepGet h
    let len := fieldN b 159 128
    let tag := b.extractLsb' 184 8
    let a1 := { a with
      lbuf := entryAddr c b 0, xbuf := entryAddr c b 64, len := len, tag := tag, blkg := b.extractLsb' 248 8
      blkid := b.extractLsb' 232 16 + BitVec.ofNat 16 (c.lc (fieldN b 193 192)) }
    if a.op = .kout ∧ (len = 0 ∨ 65535 < len) then stepProgramFault 7
    else if a.op.buffered = true ∧ (a1.lbuf.toNat % 32 ≠ 0 ∨ (a.op = .copy ∧ a1.xbuf.toNat % 32 ≠ 0)) then stepFail Code.misaligned 0
    else
      match a.op with
      | .send =>
        let r ← stepPeer c b 215 200 194
        let ep ← stepEndpoint h r
        let n ← stepMatch h r 0 tag
        pure { a1 with peerA := ep, matchA := n }
      | .recv =>
        let r ← stepPeer c b 215 200 194
        let ep ← stepEndpoint h r
        let n ← stepMatch h r 1 tag
        pure { a1 with peerA := ep, matchA := n }
      | .rrs =>
        let r ← stepPeer c b 215 200 194
        let ep ← stepEndpoint h r
        if a.fl.getLsbD 1 then
          let n ← stepMatch h r 1 tag
          pure { a1 with peerA := ep, matchA := n }
        else
          let r2 ← stepPeer c b 231 216 195
          let ep2 ← stepEndpoint h r2
          let n ← stepMatch h r 1 tag
          let n2 ← stepMatch h r2 0 tag
          pure { a1 with peerA := ep, matchA := n, peerB := ep2, matchB := n2 }
      | .copy | .sitadv | .sitret | .kout | .wait | .done => pure a1

/-! ## Messages of a step (R373, R375) -/

/-- A message with a header and no payload. -/
def plainMsg (dest src : Word) (off : BitVec 32) (tag : BitVec 8) (mseq : BitVec 24) (type : Nat) (psn : BitVec 32) : Msg :=
  { header := mkHeader dest src 0 0 false off 0 tag mseq 0 type, comps := [], rma := 0, payload := [], psn := psn, adit := 0 }

def State.cgrpOf (s : State) (vf : Nat) : BitVec 8 := BitVec.ofNat 8 ((((Tbl.get? s.vfs vf).map (·.cgrp.toNat)).getD 0))

/-- One DATA packet queued at the egress, kept until it is acknowledged (R375, R382), its bytes counted (R183). -/
def State.sendData (s : State) (h age slot vf : Nat) (a : Armed) (dest : Word) (mseq : Nat) (code : Bool) (off : Nat) (bs : List Byte) : State :=
  let psn := s.fabric.nextPsn
  let m : Msg :=
    { header := mkHeader dest (s.endpoint vf) a.blkid a.blkg code (BitVec.ofNat 32 off) bs.length a.tag (BitVec.ofNat 24 mseq) (s.cgrpOf vf) MsgType.data
      comps := [], rma := 0, payload := bs, psn := psn, adit := 0 }
  ({ s with fabric := { s.fabric with
      nextPsn := psn + 1, egress := s.fabric.egress ++ [⟨m, false⟩], unacked := s.fabric.unacked ++ [⟨psn, m, h, age⟩] } } : State).meter slot 8 bs.length

/-- Offsets of the packets of a message of `len` bytes (R375). -/
def packetOffs (len : Nat) : List Nat := if len = 0 then [0] else (List.range ((len + 4095) / 4096)).map (fun i => 4096 * i)

/-- The bytes of LBUF, remote sectors once their responses have come (R377). -/
def stepFetch (h : Nat) (a : Armed) : List (Nat × Piece) → StepAct (List Byte)
  | [] => pure []
  | (va, p) :: rest => do
    if p.page.remote.isSome then
      match a.answers.find? (fun x => x.1 = va) with
      | some (_, some bs) =>
        let more ← stepFetch h a rest
        pure (bs ++ more)
      | some (_, none) => stepFail Code.permission 1
      | none =>
        let s ← get
        if a.asked.any (fun x => x.1 = va) then stepWait
        else
          match p.page.remote.bind (fun i => Tbl.get? s.rwins i) with
          | none => stepFail Code.permission 2
          | some w =>
            if w.len < p.pa % 2 ^ 36 + p.len ∨ w.r = false then stepFail Code.permission 2
            else
              let c ← stepGet h
              set ((s.sendRead w (p.pa % 2 ^ 36) p.len (stepRef c.slot h) (BitVec.ofNat 64 va)).setStep h
                (fun c => c.setArmed { a with asked := a.asked ++ [(va, s.nextId)] }))
              stepWait
    else
      let bs ← stepLoad h [(va, p)]
      let more ← stepFetch h a rest
      pure (bs ++ more)

/-! ## Named buffers (R277, R296) -/

/-- The physical runs of n bytes at an address, sector by sector, as far as they translate now. -/
def State.bufferRuns (s : State) (vf : Nat) (b : Word × Nat) : List (Nat × Nat) :=
  (sectorCuts b.1.toNat (b.2 / 32 + 2) b.2).filterMap (fun (a, n) =>
    match translateFull s vf (BitVec.ofNat 64 a) 0 with
    | .ok i => some (i.pa, n)
    | .fault _ _ => none
    | .miss _ _ => none)

/-- A step's read of a buffer is an acquire at fab by its context (R296): every store to a named buffer that its dev-scope chain has brought into
sight, and every remote one its starter made before CSTART, is performed at fab before bytes leave. -/
def State.buffersReady (s : State) (c : StepCtx) : Bool :=
  let runs := c.named.flatMap (s.bufferRuns (s.vfOf c.slot))
  let hit (r : StoreRec) : Bool := runs.any (fun x => decide (x.1 < r.pa + r.bytes.length) && decide (r.pa < x.1 + x.2))
  s.coh.all (fun r => !psAtLeast r.ps .dev || psAtLeast r.ps .fab || !hit r) &&
  s.hold.all (fun r => !(r.owned c.starter && decide (r.id < c.since) && r.page.remote.isSome && hit r))

/-- Whether the receive that a send is matched with takes coded data (R275): its step's flag on this device, the peer's answer elsewhere (assumption 76). -/
def State.receiverCodes (s : State) (src dest : Word) (tag : BitVec 8) (mseq : Nat) : Bool :=
  if epDev dest = s.devaddr then
    s.steps.any (fun x => s.vfOf x.2.slot = epVf dest && x.2.store.any (fun a => a.op = .recv && a.peerA = src && a.tag = tag && a.matchA = mseq && a.fl.getLsbD 0))
  else Config.peerCode dest tag mseq

/-- The send of a step, once its clear-to-send is held: its packets in ascending OFF, coded only as R275 allows (R375). -/
def stepTransmit (h : Nat) (a : Armed) (dest : Word) (mseq : Nat) (code : Bool) : StepAct Unit := do
  let c ← stepGet h
  let s ← get
  let vf := s.vfOf c.slot
  let code := code && decide (a.len ≤ 4096) && s.receiverCodes (s.endpoint vf) dest a.tag mseq
  let held (m : Msg) : Bool := epVf m.dest = vf && m.src = dest && m.tag = a.tag && m.mseq = BitVec.ofNat 24 mseq
  if s.fabric.ctsHeld.any held && s.buffersReady c then
    let ps ← stepSpan h (if a.op = .rrs then rrsSide 1 (a.fl.getLsbD 0) else rawSide 1) a.lbuf a.len
    let bs ← stepFetch h a ps
    modify (fun s =>
      let s1 := { s with fabric := { s.fabric with ctsHeld := s.fabric.ctsHeld.eraseP held } }
      let s2 := (packetOffs a.len).foldl (fun t o => t.sendData h a.age c.slot vf a dest mseq code o ((bs.drop o).take 4096)) s1
      s2.setStep h (fun c => c.setArmed { a with sent := true }))
  else pure ()

/-! ## The SIT (R275, R378, R389) -/

def SitEntry.key (e : SitEntry) : Nat × BitVec 16 × BitVec 8 := (e.vf, e.blkid, e.blkg)

/-- The entry of a key in a die's SIT. -/
def State.sitFind (s : State) (die vf : Nat) (blkid : BitVec 16) (blkg : BitVec 8) : Option SitEntry :=
  s.fabric.sit.find? (fun e => e.die = die && e.vf = vf && e.blkid = blkid && e.blkg = blkg)

/-- Decode-buffer packets that refer to an entry: REFS of R378. -/
def State.sitRefs (s : State) (e : SitEntry) : Nat :=
  (s.fabric.decoding.filter (fun b => decide (s.cycle < b.until_) && b.keys.contains e.key)).length

/-- A SIT summary record: the advertiser's endpoint, BLKID, BLKG, CGRP, LEN (R378). -/
def siaPayload (ep : Word) (e : SitEntry) : List Byte :=
  natBytes ep.toNat 8 ++ natBytes e.blkid.toNat 2 ++ [e.blkg, e.cgrp] ++ natBytes e.len 4

def State.siaMsg (s : State) (dest : BitVec 32) (e : SitEntry) (type : Nat) (psn : BitVec 32) : Msg :=
  { header := mkHeader (0#24 ++ dest ++ 0xFF#8) (s.endpoint e.vf) 0 0 false 0 16 0 0 0 type
    comps := [], rma := 0, payload := siaPayload (s.endpoint e.vf) e, psn := psn, adit := 0 }

/-- The switch enters an advertisement into its summary, or drops it when 8,192 are held (R378). -/
def State.enterSia (s : State) (r : SiaRec) : State :=
  if s.fabric.summary.length < 8192 then { s with fabric := { s.fabric with summary := s.fabric.summary ++ [r] } } else s
def State.removeSia (s : State) (r : SiaRec) : State := { s with fabric := { s.fabric with summary := s.fabric.summary.erase r } }

/-- An SIA or SIW to every distinct device, the own switch's applied at once and acknowledged as it is sent (R378, R389). -/
def State.advertise (s : State) (h age : Nat) (e : SitEntry) (enter : Bool) (devs : List (BitVec 32)) : State :=
  devs.foldl (fun t d =>
    let r : SiaRec := ⟨t.endpoint e.vf, e.blkid, e.blkg, e.cgrp, BitVec.ofNat 32 e.len⟩
    if d = t.devaddr then (if enter then t.enterSia r else t.removeSia r)
    else
      let psn := t.fabric.nextPsn
      let m := t.siaMsg d e (if enter then MsgType.sia else MsgType.siw) psn
      ({ t with fabric := { t.fabric with
          nextPsn := psn + 1
          unacked := t.fabric.unacked ++ [⟨psn, m, if enter then h else 64, age⟩] } } : State).send m) s

/-- The devices of the peer table, each once. -/
def stepDevices (h : Nat) : List Nat → StepAct (List (BitVec 32))
  | [] => pure []
  | r :: rest => do
    let ep ← stepEndpoint h r
    let more ← stepDevices h rest
    pure (if more.contains (epDev ep) then more else epDev ep :: more)

/-- SITADV installs its entry while there is room: the key is free, 4,096 in the die, 512 of the instance (R275, R378). -/
def stepAdvertise (h : Nat) (a : Armed) : StepAct Unit := do
  let c ← stepGet h
  let s ← get
  let vf := s.vfOf c.slot
  let room := (s.sitFind c.die vf a.blkid a.blkg).isNone && decide ((s.fabric.sit.filter (fun e => e.die = c.die)).length < 4096) &&
    decide ((s.fabric.sit.filter (fun e => e.inst = c.slot)).length < 512)
  if room then
    let _ ← stepLocal h a.lbuf a.len
    let devs ← stepDevices h (List.range c.size)
    let e : SitEntry := ⟨c.die, a.lbuf, a.len, a.blkid, a.blkg, vf, c.slot, s.cgrpOf vf, devs, false⟩
    modify (fun s => (({ s with fabric := { s.fabric with sit := s.fabric.sit ++ [e] } } : State).advertise h a.age e true devs).setStep h
      (fun c => c.setArmed { a with started := true }))
  else pure ()

/-- An entry is marked RETIRING and withdrawn (R275, R378). -/
def State.sitRetire (s : State) (e : SitEntry) : State :=
  if e.retiring then s
  else
    ({ s with fabric := { s.fabric with sit := s.fabric.sit.map (fun x => if x = e then { x with retiring := true } else x) } } : State).advertise 64 0 e false e.devs

/-- SIT_ENTRY_REMOVE: a RETIRING entry goes once its references have drained (R275, R381). -/
def execSitEntryRemove (die vf : Nat) (blkid : BitVec 16) (blkg : BitVec 8) (s : State) : Host.Outcome State Fault Refusal :=
  .next (match s.sitFind die vf blkid blkg with
    | some e => if e.retiring && s.sitRefs e = 0 then { s with fabric := { s.fabric with sit := s.fabric.sit.erase e } } else s
    | none => s)

/-! ## What a fired step does (R272) -/

/-- b_i = b_(i − d) from d on: the bytes a copy moves when its destination lies d above its source (R261). -/
def propagate (d : Nat) (orig : List Byte) : List Byte :=
  (List.range orig.length).map (fun i => orig.getD (i % d) 0)

/-- The zero tails of BFP frames among a copy's sectors: read as zero, and not written (R117). -/
def zeroTails : List (Nat × Piece) → List Byte → List Byte
  | [], _ => []
  | (va, p) :: rest, bs =>
    ((bs.take p.len).zipIdx.map (fun x => if p.page.zeroTail (va + x.2) then 0 else x.1)) ++ zeroTails rest (bs.drop p.len)

/-- The part of a sector before the zero tail of its frame. -/
def cutTail (x : Nat × Piece) : Nat × Piece := (x.1, { x.2 with len := ((List.range x.2.len).filter (fun i => !x.2.page.zeroTail (x.1 + i))).length })

/-- A copy's sectors without the zero tails, with the bytes each takes. -/
def dropTails : List (Nat × Piece) → List Byte → List (Nat × Piece) × List Byte
  | [], _ => ([], [])
  | x :: rest, bs =>
    let (ps, more) := dropTails rest (bs.drop x.2.len)
    let y := cutTail x
    if y.2.len = 0 then (ps, more) else (y :: ps, bs.take y.2.len ++ more)

/-- COPY: as CPY with OOB = 0 and ES = 0 (R272): one run of elements. -/
def stepCopy (h : Nat) (a : Armed) : StepAct Unit := do
  let c ← stepGet h
  let s ← get
  if s.buffersReady c then
    let frames (base : Word) : Bool := base.toNat % 65536 = 0 && a.len % 65536 = 0
    let src ← stepSpan h ⟨1, frames a.lbuf, 1, none, false⟩ a.lbuf a.len
    let dst ← stepSpan h ⟨2, frames a.xbuf, 1, none, false⟩ a.xbuf a.len
    let bs ← stepFetch h a src
    let d := (a.xbuf - a.lbuf).toNat
    let bs1 := zeroTails src bs
    let (ps, out) := dropTails dst (if 0 < d ∧ d < a.len then propagate d bs1 else bs1)
    let ids ← stepStore h ps out
    modify (fun s => s.setStep h (fun c => c.setArmed { a with started := true, ids := ids }))
  else pure ()

/-- Packets a receive still lacks. -/
def Armed.missing (a : Armed) : Bool := (packetOffs a.len).any (fun o => !a.got.contains o)

/-- Acknowledgements that are due leave (R375 step 4). -/
def State.payOwed (s : State) (h age : Nat) : State :=
  match (Tbl.get? s.steps h).bind (fun c => c.armed age) with
  | none => s
  | some a =>
    let due (o : List Nat × Msg) : Bool := o.1.all (fun i => s.performedAt i .dev)
    (a.owed.filter due).foldl (fun t o => t.send o.2) (s.setStep h (fun c => c.setArmed { a with owed := a.owed.filter (fun o => !due o) }))

/-- The part of a fired step's work that it can do now. -/
def stepWork (h age : Nat) : StepAct Unit := do
  modify (fun s => s.payOwed h age)
  let c ← stepGet h
  match c.armed age with
  | none => pure ()
  | some a =>
    if !a.fired then pure ()
    else
      let s ← get
      match a.op with
      | .send => if a.sent then pure () else stepTransmit h a a.peerA a.matchA (a.fl.getLsbD 0)
      | .recv | .rrs =>
        if !a.started then
          set ((s.send (plainMsg a.peerA (s.endpoint (s.vfOf c.slot)) 0 a.tag (BitVec.ofNat 24 a.matchA) MsgType.cts 0)).setStep h
            (fun c => c.setArmed { a with started := true }))
        else if a.op = .rrs ∧ a.fl.getLsbD 1 = false ∧ a.sent = false ∧ a.missing = false then stepTransmit h a a.peerB a.matchB false
        else pure ()
      | .copy => if a.started then pure () else stepCopy h a
      | .sitadv => if a.started then pure () else stepAdvertise h a
      | .sitret =>
        if a.started then pure ()
        else
          let s1 := match s.sitFind c.die (s.vfOf c.slot) a.blkid a.blkg with
            | some e => s.sitRetire e
            | none => s
          set (s1.setStep h (fun c => c.setArmed { a with started := true }))
      | .wait | .kout | .done => pure ()

/-- A fired step is complete (R272). -/
def State.stepDone (s : State) (h : Nat) (c : StepCtx) (a : Armed) : Bool :=
  let acked := !s.fabric.unacked.any (fun t => t.handle = h && t.age = a.age)
  let put := a.ids.all (fun i => s.performedAt i .fab)
  a.fired && (match a.op with
    | .send => a.sent && acked
    | .recv => a.started && !a.missing && put
    | .rrs => a.started && !a.missing && put && (a.fl.getLsbD 1 || (a.sent && acked))
    | .copy => a.started && put
    | .sitadv => a.started && acked
    | .sitret => a.started && !(match s.sitFind c.die (s.vfOf c.slot) a.blkid a.blkg with
      | some e => e.retiring
      | none => false)
    | .wait | .kout => true
    | .done => decide (c.store.length = 1))

/-! ## Firing, completion, cancellation (R268) -/

/-- Tokens of a queue that older armed steps still need. -/
def State.reservedTokens (s : State) (q age : Nat) : Nat :=
  s.steps.foldl (fun n x => x.2.store.foldl (fun n a =>
    if !a.fired && decide (a.age < age) then n + (a.ins.filter (fun i => i.1 = q)).length else n) n) 0

/-- An armed step and, in turn, every step of the context that waits on its OUT are cancelled (R268). -/
def State.cancelStep (s : State) (h : Nat) : Nat → Nat → State
  | 0, _ => s
  | fuel + 1, age =>
    match Tbl.get? s.steps h with
    | none => s
    | some c =>
      match c.armed age with
      | none => s
      | some a =>
        if a.fired then s
        else
          let idx := match a.out with
            | some (_, i) => i
            | none => 0
          let s1 := (s.setStep h (fun c => c.drop age)).post c.starter ⟨Code.tokenCancelled, idx, a.pc, true⟩
          match a.out with
          | none => s1
          | some (q, _) =>
            ((c.store.filter (fun x => x.age ≠ age && !x.fired && x.ins.any (fun i => i.1 = q))).map (·.age)).foldl (fun t g => State.cancelStep t h fuel g) s1

/-- Whether an input's generation has changed since arming. -/
def State.staleStep (s : State) (a : Armed) : Bool := a.ins.any (fun i => (s.token i.1).gen ≠ i.2)

/-- Every armed step that captured an older generation is cancelled (R45, R268). -/
def State.cancelStale (s : State) : State :=
  (s.steps.flatMap (fun x => (x.2.store.filter (fun a => !a.fired && s.staleStep a)).map (fun a => (x.1, a.age)))).foldl
    (fun t (h, g) => t.cancelStep h 17 g) s

/-- Whether a step may fire: n_q tokens beyond what older steps need, and the generation it captured (R268). -/
def State.mayFire (s : State) (a : Armed) : Bool :=
  a.ins.all (fun i => decide ((a.ins.filter (fun j => j.1 = i.1)).length + s.reservedTokens i.1 a.age ≤ (s.token i.1).count.toNat))

/-- The tokens a step takes in one update. -/
def State.takeTokens (s : State) (a : Armed) : State :=
  a.ins.foldl (fun t i => { t with tokens := Tbl.set t.tokens i.1 { t.token i.1 with count := (t.token i.1).count - 1, used := s.cycle + 1 } }) s

/-- A step fires, or is cancelled (R268); then it does what it can at once. -/
def State.fireStep (s : State) (h age : Nat) : Moved :=
  match (Tbl.get? s.steps h).bind (fun c => if c.status.isNone && s.running c.slot then c.armed age else none) with
  | none => .next s
  | some a =>
    if a.fired then .next s
    else if s.staleStep a then .next (s.cancelStep h 17 age)
    else if s.mayFire a then runStep h (stepWork h age) ((s.takeTokens a).setStep h (fun c => c.setArmed { a with fired := true }))
    else .next s

def execStepFire (h age : Nat) (s : State) : Host.Outcome State Fault Refusal := s.fireStep h age

/-- A step leaves the store: its token, LEN of KOUT or one; the step of DONE ends the context with status 0 (R267, R268, R272). -/
def State.finishStep (s : State) (h : Nat) (c : StepCtx) (a : Armed) : State :=
  let s1 := s.setStep h (fun c => c.drop a.age)
  let s2 := match a.out with
    | some (q, i) => s1.tokenAdd q (if a.op = .kout then a.len else 1) c.starter i.toNat
    | none => s1
  if a.op = .done then s2.setStep h (fun c => { c with status := some 0 }) else s2

/-- STEP_COMPLETE: the step's work goes on, and it completes if that is all of it. -/
def execStepComplete (h age : Nat) (s : State) : Host.Outcome State Fault Refusal :=
  match runStep h (stepWork h age) s with
  | .fault f => .fault f
  | .refused r => .refused r
  | .next s1 =>
    .next (match Tbl.get? s1.steps h with
      | some c => match c.armed age with
        | some a => if c.status.isNone && s1.stepDone h c a then s1.finishStep h c a else s1
        | none => s1
      | none => s1)

/-- STEP_WATCHDOG (R276). -/
def execStepWatchdog (h : Nat) (s : State) : Host.Outcome State Fault Refusal :=
  .next (match Tbl.get? s.steps h with
    | some c =>
      if c.status.isNone && s.running c.slot && c.store.any (fun a => !a.fired && decide (a.armedAt + c.wdog * 1024 ≤ s.cycle)) then s.stepStop h Code.watchdog 5 else s
    | none => s)

/-! ## Step words (R267, R271 to R273) -/

/-- Steps armed in one cycle have their ages by ascending handle: one that comes late in a cycle arms in the next (R268). -/
def State.armTurn (s : State) (h : Nat) : Bool := s.steps.all (fun x => decide (x.1 ≤ h) || x.2.store.all (fun a => a.armedAt ≠ s.cycle))

/-- The sequencer handles a word: the header has been read, and no DONE is armed, after which it handles none (R267). -/
def stepBegin (h : Nat) : StepAct Unit := do
  stepHeader h
  let c ← stepGet h
  let s ← get
  if c.store.any (fun a => a.op = .done) || !s.running c.slot then stepWait else pure ()

/-- Arming: inputs and their generations, the entry resolved, then the next word; a step with no input fires at once (R267, R268). -/
def armStep (op : StepOp) (o : StepF) (s : State) : Moved :=
  let h := s.curStep
  let r := runStep h (do
    stepBegin h
    let c ← stepGet h
    let s1 ← get
    if 16 ≤ c.store.length || !s1.armTurn h then stepWait
    else
      let ins ← stepCapture c (StepF.inputs o)
      let out ← if o.fl.getLsbD 3 then (do
          let q ← stepQueue c o.out
          pure (some (q, o.out)))
        else pure none
      let s0 ← get
      let a ← stepDescribe h ⟨s0.nextAge, op, c.pc, o.fl.extractLsb' 0 3, ins, out, 0, 0, 0, 0, 0, 0, 0, 0, 0, 0, s0.cycle, false, [], false, false, [], [], [], []⟩ o.x
      modify (fun s => ({ s with nextAge := s.nextAge + 1 } : State).setStep h (fun c => { c with
        store := c.store ++ [a], pc := c.pc + 8, named := c.named ++ a.buffers.filter (fun b => !c.named.contains b) }))) s
  if o.nin = 0 then
    match r with
    | .next s1 => if s1.nextAge = s.nextAge then .next s1 else s1.fireStep h s.nextAge
    | .fault f => .fault f
    | .refused x => .refused x
  else r

def execSend (o : StepF) (s : State) : Host.Outcome State Fault Refusal := armStep .send o s
def execRecv (o : StepF) (s : State) : Host.Outcome State Fault Refusal := armStep .recv o s
def execRrs (o : StepF) (s : State) : Host.Outcome State Fault Refusal := armStep .rrs o s
def execCopy (o : StepF) (s : State) : Host.Outcome State Fault Refusal := armStep .copy o s
def execWait (o : StepF) (s : State) : Host.Outcome State Fault Refusal := armStep .wait o s
def execSitadv (o : StepF) (s : State) : Host.Outcome State Fault Refusal := armStep .sitadv o s
def execSitret (o : StepF) (s : State) : Host.Outcome State Fault Refusal := armStep .sitret o s
def execKout (o : StepF) (s : State) : Host.Outcome State Fault Refusal := armStep .kout o s
def execDone (o : StepF) (s : State) : Host.Outcome State Fault Refusal := armStep .done o s

def setLoop (c : StepCtx) (i : Nat) (l : StepLoop) : StepCtx := { c with loops := c.loops.set i l }

/-- The word after the first LOOPE on counter i at or past `pc`; past the code where there is none (R273). -/
def skipLoop (img : Image) (i : Nat) : Nat → Nat → Nat
  | 0, pc => pc
  | n + 1, pc =>
    match decodeStep (stepOfBytes (img.codeAt pc 8)) with
    | .ok (.loope o) => if o.fl.toNat % 4 = i then pc + 8 else skipLoop img i n (pc + 8)
    | _ => skipLoop img i n (pc + 8)

/-- LOOPB (R273). -/
def execLoopb (o : StepF) (s : State) : Host.Outcome State Fault Refusal :=
  let h := s.curStep
  runStep h (do
    stepBegin h
    let b ← stepEntry h o.x
    let c ← stepGet h
    let s ← get
    let i := o.fl.toNat % 4
    let n := fieldN b 159 128
    if n = 0 then
      let pc := match s.imageOf c.slot with
        | some img => skipLoop img i (img.code.length / 8 + 1) (c.pc.toNat + 8)
        | none => c.pc.toNat + 8
      modify (fun s => s.setStep h (fun c => { setLoop c i ⟨0, 0, c.pc + 8, false⟩ with pc := BitVec.ofNat 64 pc }))
    else modify (fun s => s.setStep h (fun c => { setLoop c i ⟨n, 0, c.pc + 8, true⟩ with pc := c.pc + 8 }))) s

/-- LOOPE (R273). -/
def execLoope (o : StepF) (s : State) : Host.Outcome State Fault Refusal :=
  let h := s.curStep
  runStep h (do
    stepBegin h
    let c ← stepGet h
    let i := o.fl.toNat % 4
    match c.loops[i]? with
    | none => stepProgramFault 8
    | some l =>
      if !l.active then stepProgramFault 8
      else if l.index + 1 < l.count then
        modify (fun s => s.setStep h (fun c => { setLoop c i { l with index := l.index + 1 } with pc := l.start }))
      else modify (fun s => s.setStep h (fun c => { setLoop c i { l with index := l.index + 1, active := false } with pc := c.pc + 8 }))) s

/-- RANK op k (R273). -/
def peerResult (op rank k size : Nat) : Option Nat :=
  match op with
  | 0 => some ((rank + k) % size)
  | 1 => some (((rank : Int) - k) % size).toNat
  | 2 => let r := rank ^^^ k
    if size ≤ r then none else some r
  | _ => some (rank * k % size)

/-- PEER (R273). -/
def execPeer (o : StepF) (s : State) : Host.Outcome State Fault Refusal :=
  let h := s.curStep
  runStep h (do
    stepBegin h
    let c ← stepGet h
    let k := if o.fl.getLsbD 2 then c.lc (fieldN o.x 5 4) + fieldN o.x 3 0 else fieldN o.x 5 0
    match peerResult (fieldN o.x 7 6) c.rank k c.size with
    | none => stepProgramFault 6
    | some r => modify (fun s => s.setStep h (fun c => { c with pe := c.pe.set (o.fl.toNat % 4) r, pc := c.pc + 8 }))) s

/-! ## The control core's side (R179 to R181) -/

def tokenNamed (k : BitVec 8) : Act Nat := do
  let s ← get
  relocate s.cur.wtok k

/-- KPOST (R179). -/
def execKpost (o : ObjA) (s : State) : Host.Outcome State Fault Refusal :=
  runAct (do
    let x ← readSrc o.a o.qa
    let q ← tokenNamed o.t
    awaitRelease .dev false
    modify (fun s => s.tokenAdd q x.toNat s.cur.ref o.t.toNat)
    advance) s

/-- KRESET (R179): it goes before every other update of the queue in its cycle, so that one that comes after others is made in the next. -/
def execKreset (k : BitVec 8) (s : State) : Host.Outcome State Fault Refusal :=
  runAct (do
    let q ← tokenNamed k
    let s ← get
    waitIf (decide (s.cycle < (s.token q).used)) (.cycleAfter s.cycle)
    modify (fun s => ({ s with tokens := Tbl.set s.tokens q ⟨0, (s.token q).gen + 1, (s.token q).used⟩ } : State).cancelStale)
    advance) s

/-- KREAD (R179). -/
def execKread (o : ObjD) (s : State) : Host.Outcome State Fault Refusal :=
  runAct (do
    destReady o.d
    let q ← tokenNamed o.t
    let s ← get
    awaitPresented 7 s.cur.num 0
    writeSLate o.d 3 8 (s.returned (0#32 ++ (s.token q).gen ++ (s.token q).count))
    modify (fun s => s.capture (s.vfOf s.cur.slot) 7)
    advance) s

/-- Die of a group (R2). -/
def dieOf (g : Nat) : Nat := g / 16

/-- CSTART (R180). The handle is one of the free ones of the die. -/
def execCstart (o : RRR) (s : State) : Host.Outcome State Fault Refusal :=
  runAct (do
    destReady o.d
    let x ← readSrc o.a o.qa
    let y ← readSrc o.b o.qb
    raiseIf (decide (x.toNat % 8 ≠ 0)) Code.misaligned 0 x
    raiseIf (decide (y.toNat % 64 ≠ 0)) Code.misaligned 0 y
    let s ← get
    raiseIf ((s.fetch s.cur.slot .se x).isNone) Code.illegalOp 2 x
    let die := dieOf s.cur.grp
    let free := ((List.range 32).map (fun i => 32 * die + i)).filter (fun h => (Tbl.get? s.steps h).isNone)
    waitIf (decide (s.effOf s.cur .stepb ≤ (s.steps.filter (fun c => c.2.slot = s.cur.slot)).length) || free.isEmpty) .stepSlot
    awaitPublished .dev (fun s i => !s.isRemoteStore i)
    match (← pickFree free) with
    | none => waitFor .stepSlot
    | some h =>
      let s ← get
      let c : StepCtx :=
        ⟨s.cur.slot, s.cur.ref, die, x, List.replicate 4 ⟨0, 0, 0, false⟩, [0, 0, 0, 0], [], 0, 0, 0, 0, y, s.cur.wtok, s.cur.wdog.toNat, [], false, [], none, [], s.nextId⟩
      set ({ s with steps := Tbl.set s.steps h c } : State)
      writeS o.d (BitVec.ofNat 64 h)
      advance) s

/-- The end of CWAIT is an acquire of a context for the buffers a collective names, and for no others (R181, R285, R297): older values of their bytes
are out of reach, and clean PRIV sectors of theirs are read anew. -/
def State.orderBuffers (s : State) (c : Context) (bufs : List (Word × Nat)) : State :=
  let runs := bufs.flatMap (s.bufferRuns (s.vfOf c.slot))
  let s1 := runs.foldl (fun t x => t.renew [c.ref] x.1 x.2) s
  { s1 with l1 := s1.l1.filter (fun x => !(c.core? = some x.core && !x.dirty && runs.any (fun r => decide (r.1 < x.pa + 32) && decide (x.pa < r.1 + r.2)))) }

/-- CWAIT in a control context (R181). -/
def execCwait (o : RRD) (s : State) : Host.Outcome State Fault Refusal :=
  runAct (do
    destReady o.d
    let x ← readSrc o.a o.qa
    let s ← get
    match Tbl.get? s.steps x.toNat with
    | none => raise Code.permission 2 x
    | some c =>
      raiseIf (c.slot != s.cur.slot) Code.permission 2 x
      match c.status with
      | none => waitFor (.stepEnd x.toNat)
      | some st =>
        modify (fun s => ({ s with steps := Tbl.del s.steps x.toNat } : State).orderBuffers s.cur c.named)
        writeS o.d st
        advance) s

end Sys2Proof.Machine
end

