-- ==== Sys2Proof/Machine/Dortas.lean ====
section
/-! DEFINITION. What Dortas does to an instance's objects (R23, R28, R158, R342, R343): completion records, the fault report, charging,
release, retirement, and quiescing. -/
namespace Sys2Proof.Machine

/-! ## The fault report (R410) -/

/-- A scope of the report lets go of its oldest record beyond 126 and counts it; `dev` is the device's scope, else the VF's. -/
def Dortas.trim (d : Dortas) (dev : Bool) (vf : Nat) : Dortas :=
  let inIt (x : FaultItem × Bool × Bool) : Bool := if dev then x.2.1 else x.2.2 && x.1.vf = vf
  let key := if dev then 0xFF else vf
  if (d.items.filter inIt).length ≤ 126 then d
  else
    match d.items.findIdx? inIt with
    | none => d
    | some n => { d with
        items := (d.items.modify n (fun x => if dev then (x.1, false, x.2.2) else (x.1, x.2.1, false))).filter (fun x => x.2.1 || x.2.2)
        droppedItems := Tbl.set d.droppedItems key ((Tbl.get? d.droppedItems key).getD 0 + 1) }

/-- A record for the reports of the device and of its VF. -/
def State.report (s : State) (i : FaultItem) : State :=
  let d := { s.dortas with items := s.dortas.items ++ [(i, true, i.vf != 0xFF)] }
  { s with dortas := (d.trim true i.vf).trim false i.vf }

/-! ## Completion records (R23) -/

/-- Under what name Dortas waits on a page for an instance, and for a record of a pool. -/
def complRef (slot : Nat) : CtxRef := ⟨slot, 2 ^ 22⟩
def recRef (rcb i : Nat) : CtxRef := ⟨2 ^ 22 + rcb, i⟩

/-- Where Dortas' accesses stand. -/
def dortasLoc (vf : Nat) : Loc := ⟨363, 64, vf⟩

/-- The 32 bytes of a completion record (R23). -/
def complBytes (status detail seq ctx bind now : Nat) : List Byte :=
  natBytes status 2 ++ natBytes detail 2 ++ natBytes seq 2 ++ natBytes ctx 2 ++ natBytes bind 8 ++ natBytes now 8 ++ List.replicate 8 0

/-- What writing a completion record comes to: it is written or dropped, or a page is awaited, or the address does not exist. -/
inductive Compl where
  | past (s : State) | waits (s : State) (ipa : Nat) | hole (pa : Nat)

/-- A DENY that stands for Dortas' access is used up. -/
def State.takeDenied (s : State) (w : CtxRef) : State :=
  { s with dortas := { s.dortas with denied := s.dortas.denied.filter (fun x => x.1 ≠ w) } }

/-- The completion record of a launch, written with a release at dev; a failed translation is reported (R23). -/
def State.writeCompl (s : State) (w : CtxRef) (vf slot : Nat) (compl : Word) (bytes : List Byte) : Compl :=
  let failed (t : State) : Compl := .past (t.report ⟨3, vf, slot % 65536, 0, compl, 0, 0⟩)
  if compl = 0 then .past s
  else
    match translateFull s vf compl 2 with
    | .fault _ _ => failed s
    | .miss p r =>
      if s.dortas.denied.contains (w, p) then failed (s.takeDenied w) else .waits (s.joinRequest vf w p r) p
    | .ok i =>
      match paKind i.pa with
      | .hole => .hole i.pa
      | .remote => failed s
      | .hbm => .past (s.writeThrough w (dortasLoc vf) i i.pa bytes .dev)
      | .sram _ _ => if (s.bankCheck i.pa).2 then .past (s.writeThrough w (dortasLoc vf) i i.pa bytes .dev) else failed s

/-! ## Charging (R328) -/

/-- Engines an entry holds: cores, copy engines, Hearths, step contexts. -/
def Slot.engines (x : Slot) : Nat :=
  popOf x.cmask + popOf x.emask + popOf x.hmask + fieldN x.bind 692 685
where
  popOf {w : Nat} (m : BitVec w) : Nat := ((List.range w).filter (fun i => m.getLsbD i)).length

/-- VT raised on the path from a region up to the tenant node: engine-µs × 256 / SHARE, a SHARE of 0 counted as 1; SHARE as it is in force (R16). -/
def chargePath (t : Tbl RcbNode) (cost : Nat) : Nat → Nat → Tbl RcbNode
  | 0, _ => t
  | k + 1, n =>
    match Tbl.get? t n with
    | none => t
    | some x =>
      if x.level = 0 then t
      else chargePath (Tbl.set t n { x with vt := x.vt + cost / (1900 * max 1 x.share) }) cost k x.parent

/-- An entry without engines: its control core's bit is in CMASK while it has any (R325). -/
def Slot.vacant (x : Slot) : Bool := x.cmask == 0

/-- An entry charged since its last charge. -/
def State.chargeSlot (s : State) (k : Nat) : State :=
  match Tbl.get? s.slots k with
  | none => s
  | some x =>
    if 2 ≤ x.state ∧ x.state ≤ 6 ∧ x.vacant = false then
      { s with
        rcbs := chargePath s.rcbs (x.engines * (s.cycle - x.chargedAt) * 256) 7 x.rcbx
        slots := Tbl.set s.slots k { x with chargedAt := s.cycle } }
    else s

/-- SHARE and PCLASS in force become what the tree gives (R16). -/
def State.takeShares (s : State) : State :=
  { s with rcbs := s.rcbs.map (fun (k, x) => (k, { x with share := s.eff k .share, pclass := s.eff k .pclass })) }

/-- A charge: every entry, every 100 µs and at each retirement, yield and stop; the queues' virtual times are updated by it, and a changed SHARE
or PCLASS takes effect (R16, R328; assumption 77). -/
def State.chargeAll (s : State) : State := (s.slots.foldl (fun t x => t.chargeSlot x.1) s).takeShares

/-! ## Letting go of objects -/

/-- Every lease of the instance released and its requests withdrawn; each Hearth passes to its next waiter (R28, R163). -/
def State.releaseLeases (s : State) (slot : Nat) : State :=
  let own := (s.hearths.filter (fun h => h.2.holder = some slot)).map (·.1)
  (({ s with leaseQ := s.leaseQ.filter (fun r => r.slot ≠ slot) } : State).dropLease own).grantLeases

/-- Its HBIND bindings removed (R28, R341). -/
def State.unbindEdges (s : State) (slot : Nat) : State :=
  { s with hearths := s.hearths.map (fun h => (h.1, { h.2 with
      binds := h.2.binds.filter (fun b => !((Tbl.get? s.troughs b.2).any (fun t => t.owner = slot))) })) }

/-- Its routes freed and its HBIND bindings removed (R28). -/
def State.releaseRoutes (s : State) (slot : Nat) : State :=
  ((s.routes.filter (fun r => r.2.owner = slot)).foldl (fun t r => t.freeRoute (r.1 / 64) (r.1 % 64)) s).unbindEdges slot

/-- Its loops unbound. -/
def State.releaseRates (s : State) (slot : Nat) : State := { s with rates := s.rates.filter (fun x => x.2.owner ≠ slot) }

/-- Its waiters leave the page-request queues (R360). -/
def State.leaveRequests (s : State) (p : CtxRef → Bool) : State :=
  { s with vfs := s.vfs.map (fun v => (v.1, { v.2 with reqs := v.2.reqs.map (fun q => { q with waiters := q.waiters.filter (fun w => !p w) }) })) }

/-- The contexts of an instance gone. -/
def State.dropContexts (s : State) (slot : Nat) : State :=
  { s with
    cur := if s.cur.slot = slot ∧ s.cur.phase ≠ .joined then { Context.blank with slot := slot } else s.cur
    parked := s.parked.filter (fun c => c.slot ≠ slot) }

/-- The objects of the physical windows of an instance: token queues and rendezvous points. -/
def State.windowsOf (s : State) (slot : Nat) (x : Slot) : (Nat → Bool) × (Nat → Bool) :=
  let (_, tk, rv) := match s.imageOf slot with
    | some i => i.counts
    | none => (0, 0, 0)
  let t0 := fieldN x.bind 713 701
  let r0 := rdvKey (grpOfCore x.ccore) (fieldN x.bind 700 693)
  (fun q => decide (t0 ≤ q) && decide (q < t0 + tk), fun r => decide (r0 ≤ r) && decide (r < r0 + rv))

/-- The masks and the byte range of an entry that holds no engine. -/
def Slot.vacate (x : Slot) : Slot :=
  { x with bind := setField (setField (setField (setField (setField x.bind 1023 896 0) 895 832 0) 831 800 0) 739 724 0) 799 768 0 }

/-- A retiring entry past step 3 of R28. -/
def Slot.gone (x : Slot) : Bool := x.state = 2 && x.vacant

/-- Engines, windows and allotments go free (R28 step 3). The entry's use is subtracted when it becomes FREE (R327), so that its record is kept. -/
def State.freeHeld (s : State) (slot : Nat) : State :=
  match Tbl.get? s.slots slot with
  | none => s
  | some x =>
    if x.gone then s
    else
      let (inTok, inRdv) := s.windowsOf slot x
      { s with
        troughs := s.troughs.filter (fun t => t.2.owner ≠ slot)
        tokens := s.tokens.filter (fun t => !inTok t.1)
        rdvs := s.rdvs.filter (fun r => !inRdv r.1)
        steps := s.steps.filter (fun c => c.2.slot ≠ slot)
        slots := Tbl.set s.slots slot { x.vacate with held := some x.bind } }

/-- A name of an entry's context no longer names it. -/
def away (slot : Nat) (r : CtxRef) : CtxRef := if r.slot = slot then ⟨2 ^ 24, 0⟩ else r

def Release.away (slot : Nat) (x : Release) : Release := { x with by_ := Machine.away slot x.by_ }

/-- Stores that an entry's index names are no longer its own. -/
def State.disown (s : State) (slot : Nat) : State :=
  let own (l : List (CtxRef × Nat)) : List (CtxRef × Nat) := l.map (fun x => (away slot x.1, x.2))
  let f (r : StoreRec) : StoreRec := { r with by_ := away slot r.by_, also := own r.also, rels := r.rels.map (Release.away slot) }
  { s with
    hold := s.hold.map f
    coh := s.coh.map f
    l1 := s.l1.map (fun x => { x with by_ := away slot x.by_, stores := own x.stores, rels := x.rels.map (Release.away slot) })
    olds := s.olds.filter (fun o => o.by_.slot ≠ slot) }

/-- The entry becomes FREE: with what it held go its undo log and its save area. -/
def State.freeEntry (s : State) (slot : Nat) : State :=
  let s1 := (s.freeHeld slot).disown slot
  (({ s1 with
    undo := s1.undo.filter (fun u => u.slot ≠ slot)
    saved := s1.saved.filter (fun h => h.1 / 64 ≠ slot)
    slots := Tbl.del s1.slots slot } : State).leaveRequests (fun w => w.slot = slot)).dropContexts slot

/-- A VF under destruction is gone once its last instance is (R385). -/
def State.endVf (s : State) (vf : Nat) : State :=
  match s.dortas.destroying.find? (fun d => d.1 = vf) with
  | none => s
  | some (_, m) =>
    if s.slots.any (fun x => x.2.vf = vf && x.2.state != 0 && x.2.state != 7) then s
    else
      ({ s with
        vfs := Tbl.del s.vfs vf
        images := s.images.filter (fun i => i.2.vf ≠ vf)
        rcbs := s.rcbs.filter (fun n => n.2.level = 0 || n.2.vf ≠ vf)
        assay := Tbl.del s.assay vf
        lostEvents := Tbl.del s.lostEvents vf
        replays := Tbl.del s.replays vf
        replayHeld := s.replayHeld.filter (fun m => epVf m.dest ≠ vf)
        dortas := { s.dortas with destroying := s.dortas.destroying.filter (fun d => d.1 ≠ vf), captures := Tbl.del s.dortas.captures vf } } : State).send m

/-- The launch record of an instance returns to IDLE (R21). -/
def State.idleRecord (s : State) (x : Slot) : State :=
  match Tbl.get? s.rcbs x.rcbx with
  | none => s
  | some n => s.setLrec x.rcbx x.lrec (setField (n.lrec x.rcbx x.lrec) 33 32 0)

def State.complOf (s : State) (x : Slot) : Word :=
  match Tbl.get? s.rcbs x.rcbx with
  | none => 0
  | some n => lrCompl (n.lrec x.rcbx x.lrec)

/-- The instance's SIT entries withdrawn (R28, R378). -/
def State.retireSit (s : State) (slot : Nat) : State :=
  (s.fabric.sit.filter (fun e => e.inst = slot)).foldl State.sitRetire s

def State.sitLeft (s : State) (slot : Nat) : Bool := s.fabric.sit.any (fun e => e.inst = slot)

/-! ## Retirement (R28) -/

/-- Steps 1 to 3 of R28, but for the references that have to drain. -/
def State.letGo (s : State) (slot : Nat) : State :=
  ((((s.releaseLeases slot).releaseRoutes slot).releaseRates slot).freeHeld slot).retireSit slot

/-- Steps 4 and 5 of R28. -/
def State.completeRetire (s : State) (slot : Nat) (x : Slot) (h : Nat) : Compl :=
  match s.writeCompl (complRef slot) x.vf slot (s.complOf x) (complBytes 0 h x.seq 0 x.bindCycle s.cycle) with
  | .past s1 => .past (((s1.idleRecord x).freeEntry slot).endVf x.vf)
  | .waits s1 p => .waits s1 p
  | .hole pa => .hole pa

/-- The control context's instance retires with a halt code. -/
def retire (h : BitVec 16) : Act Unit := do
  let s ← get
  let slot := s.cur.slot
  match Tbl.get? s.slots slot with
  | none => modCur (fun c => { c with phase := .joined })
  | some x =>
    modify (fun s => ((s.setCur (fun c => { c with halting := some h })).chargeAll).letGo slot)
    let s ← get
    if s.sitLeft slot then waitKeep .sitDrained
    match s.completeRetire slot x h.toNat with
    | .past s1 => set s1
    | .waits s1 p => fun _ => .error (.wait (.complReply p) (some s1))
    | .hole pa => Act.stop (.fault (.noSuchAddress pa))

/-! ## The state that a suspension or a rollback leaves (R158) -/

/-- Every byte of an allotment's banks and range reads as zero. -/
def zeroAllot (x : Slot) (m : Memory) : Memory := m.filter (fun c => !x.holdsSram c.1)

/-- Scratchpad and FIFO allotment zeroed: settled bytes, and whatever is still in flight for them. -/
def State.zeroSram (s : State) (x : Slot) : State :=
  { s with mem := zeroAllot x s.mem, hold := s.hold.filter (fun r => !x.holdsSram r.pa), coh := s.coh.filter (fun r => !x.holdsSram r.pa) }

/-- A trough with every slot FREE and its counters 0 (R158). -/
def Trough.clear (t : Trough) : Trough :=
  { t with
    inc := false, head := 0, tail := 0, claimed := 0, filled := 0, slots := t.slots.map (fun _ => .free), counts := t.counts.map (fun _ => 0)
    filledAt := t.filledAt.map (fun _ => 0), claimPtr := .reset, takePtr := .reset }

/-- Leased Hearths at their reset values (R158, R215); the lease and the bindings of other instances stay as they are. -/
def State.resetHearths (s : State) (slot : Nat) : State :=
  { s with hearths := s.hearths.map (fun h => (h.1, if h.2.holder = some slot then { Hearth.reset with
      holder := h.2.holder, leaseGrps := h.2.leaseGrps, sheet := h.2.sheet, binds := h.2.binds, acyc := h.2.acyc } else h.2)) }

/-- The shared state of an instance as R158's table leaves it. -/
def State.resetShared (s : State) (slot : Nat) : State :=
  match Tbl.get? s.slots slot with
  | none => s
  | some x =>
    let (_, inRdv) := s.windowsOf slot x
    let s1 := ((((s.zeroSram x).resetHearths slot).releaseLeases slot).releaseRoutes slot).releaseRates slot
    { s1 with
      troughs := s1.troughs.map (fun t => (t.1, if t.2.owner = slot then t.2.clear else t.2))
      rdvs := s1.rdvs.map (fun r => (r.1, if inRdv r.1 then { r.2 with exp := 0, arr := 0 } else r.2)) }

/-! ## Quiescing (R342, R346) -/

/-- A held store of a quiesced instance: performed if nothing stands against it, else discarded (R342). -/
def State.flushStore (s : State) (r : StoreRec) : State :=
  if s.mayLeave r && !s.poisoned r.pa then s.leaveHold r.id else { s with hold := s.hold.filter (fun q => q.id ≠ r.id) }

/-- The instance's own stores, in order; its dirty sectors written back, those of CKPT pages discarded in a rollback. -/
def State.flush (s : State) (slot : Nat) (rollback : Bool) : State :=
  let s1 := (s.hold.filter (fun r => r.by_.slot = slot)).foldl State.flushStore s
  let own (x : L1Sector) : Bool := x.dirty && x.stores.any (fun y => y.1.slot = slot)
  let s2 := if rollback then { s1 with l1 := s1.l1.filter (fun x => !(own x && x.ckpt)) } else s1
  (s2.l1.filter own).foldl (fun t x => t.writeback x) s2

/-- The full HZERO of a Hearth as Dortas makes it (R240). -/
def Hearth.clearAll (h : Hearth) : Hearth := (h.zero 31).dropWaves

/-- Rounds of a VF in which the instance stands: its held contributions are discarded, a round no live issuer of the VF remains for is dropped. -/
def State.dropContribs (s : State) (slot vf : Nat) : State :=
  let others := s.slots.any (fun x => x.1 ≠ slot && x.2.vf = vf && x.2.bound)
  { s with rounds := (s.rounds.map (fun r => { r with held := r.held.filter (fun h => h.by_.slot ≠ slot) })).filter (fun r => r.vf ≠ vf || others) }

/-- The packets of the instance still at an egress are discarded, with their claim to an acknowledgement (R342). -/
def State.dropPackets (s : State) (slot : Nat) : State :=
  let own (t : TxRec) : Bool := match Tbl.get? s.steps t.handle with
    | some c => c.slot = slot
    | none => false
  let psns := (s.fabric.unacked.filter own).map (·.psn)
  let stuck := (s.fabric.egress.filter (fun q => psns.contains q.msg.psn && epDev q.msg.src = s.devaddr)).map (·.msg.psn)
  { s with fabric := { s.fabric with
      egress := s.fabric.egress.filter (fun q => !(stuck.contains q.msg.psn && epDev q.msg.src = s.devaddr))
      unacked := s.fabric.unacked.filter (fun t => !(own t && stuck.contains t.psn)) } }

/-- Sends of the instance that wait for an acknowledgement. -/
def State.unackedOf (s : State) (slot : Nat) : Bool :=
  s.fabric.unacked.any (fun t => match Tbl.get? s.steps t.handle with
    | some c => c.slot = slot
    | none => false)

/-- Step 1 and the first part of step 2 of R342: contexts stop, loads and copies are dropped, step contexts cancelled, Hearths cleared. What the
entry holds stays its own until its completion record is written (R343). -/
def State.quiesce (s : State) (slot : Nat) (rollback : Bool) : State :=
  match Tbl.get? s.slots slot with
  | none => s
  | some x =>
    let s1 := (s.flush slot rollback).dropContexts slot
    let own := (s1.hearths.filter (fun h => h.2.holder = some slot)).map (·.1)
    let s2 : State := { s1 with
      hearths := s1.hearths.map (fun h => (h.1, if own.contains h.1 then h.2.clearAll else h.2))
      steps := s1.steps.map (fun c => (c.1, if c.2.slot = slot then { c.2 with store := [], status := some (c.2.status.getD 0) } else c.2))
      leaseQ := s1.leaseQ.filter (fun r => r.slot ≠ slot)
      saved := s1.saved.filter (fun h => h.1 / 64 ≠ slot) }
    (((s2.dropContribs slot x.vf).dropPackets slot).leaveRequests (fun w => w.slot = slot)).retireSit slot

end Sys2Proof.Machine
end

