-- ==== Sys2Proof/Machine/Rate.lean ====
section
/-! DEFINITION. The Proofer's loops (R170 to R175, R318). -/
namespace Sys2Proof.Machine

def rateKey (g l : Nat) : Nat := g * 32 + l

/-- Fields of a parameter record (R171). -/
def rpIMAX (p : BitVec 128) : Nat := fieldN p 126 112
def rpPHOFF (p : BitVec 128) : Nat := fieldN p 111 96
def rpWC0 (p : BitVec 128) : Nat := fieldN p 95 88
def rpWP0 (p : BitVec 128) : Nat := fieldN p 87 80
def rpWMAX (p : BitVec 128) : Nat := fieldN p 79 72
def rpWMIN (p : BitVec 128) : Nat := fieldN p 71 64
def rpSP (p : BitVec 128) : Nat := fieldN p 63 47
def rpPK (p : BitVec 128) : Nat := fieldN p 43 40
def rpKI (p : BitVec 128) : Nat := fieldN p 39 36
def rpKP (p : BitVec 128) : Nat := fieldN p 35 32
def rpP (p : BitVec 128) : Nat := 256 * 2 ^ rpPK p

/-- A malformed record (R171), `cap` being the source's capacity. -/
def rateMalformed (p : BitVec 128) (cap : Nat) : Bool :=
  decide (8 < rpPK p) || p.getLsbD 127 || fieldN p 46 44 != 0 || fieldN p 31 0 != 0 ||
  decide (rpWMIN p = 0 ∨ rpWMAX p < rpWMIN p ∨ rpWP0 p < rpWMIN p ∨ rpWMAX p < rpWP0 p ∨ rpWC0 p < rpWMIN p ∨ rpWMAX p < rpWC0 p ∨
    rpP p ≤ rpPHOFF p ∨ 16 * cap < rpSP p)

/-! ## Stability (R175) -/

/-- An edge of the coupling graph: producer, consumer and parameters. -/
structure RateEdge where
  prod : Nat
  cons : Nat
  param : BitVec 128
  deriving DecidableEq, Repr

/-- 2^14 times the sum of 2^−KP over a context's loops with KP ≠ 15. -/
def kpSum (es : List RateEdge) (c : Nat) : Nat :=
  ((es.filter (fun e => (e.prod = c || e.cons = c) && rpKP e.param != 15)).map (fun e => 2 ^ (14 - rpKP e.param))).sum

/-- Whether joining the edges one after another never joins a component to itself: labels are lists of context numbers. -/
def forest : List (Nat × Nat) → List (List Nat) → Bool
  | [], _ => true
  | (a, b) :: rest, comps =>
    let ca := (comps.find? (fun l => l.contains a)).getD [a]
    let cb := (comps.find? (fun l => l.contains b)).getD [b]
    if ca.contains b then false
    else forest rest ((ca ++ cb) :: comps.filter (fun l => !l.contains a && !l.contains b))

/-- Rule 3 for two loops that share a context. -/
def periodsOk (p q : BitVec 128) : Bool :=
  if rpP p = rpP q then rpPHOFF p = rpPHOFF q + rpP p / 2 || rpPHOFF q = rpPHOFF p + rpP p / 2
  else decide (4 * rpP p ≤ rpP q ∨ 4 * rpP q ≤ rpP p)

def sharesContext (a b : RateEdge) : Bool := a.prod = b.prod || a.prod = b.cons || a.cons = b.prod || a.cons = b.cons

/-- The first stability rule broken, 1 to 3 (R175). -/
def unstable (es : List RateEdge) : Option Nat :=
  if es.any (fun e => decide (2 ^ 13 < kpSum es e.prod) || decide (2 ^ 13 < kpSum es e.cons)) then some 1
  else if !forest ((es.filter (fun e => rpKI e.param != 15)).map (fun e => (e.prod, e.cons))) [] then some 2
  else if es.tails.any (fun l => match l with
    | [] => false
    | e :: rest => rest.any (fun f => sharesContext e f && !periodsOk e.param f.param)) then some 3
  else none

/-- The active loops of an instance but one, as edges. -/
def State.activeEdges (s : State) (slot key : Nat) : List RateEdge :=
  (s.rates.filter (fun x => x.1 ≠ key && x.2.owner = slot && x.2.set)).map (fun x => ⟨x.2.prod, x.2.cons, x.2.param⟩)

/-! ## Sources -/

/-- The capacity of a source: C for a trough, 64 for a route (R171). -/
def State.rateCap (s : State) (l : RateLoop) (g : Nat) : Nat :=
  if l.route then 64
  else
    match Tbl.get? s.troughs (troughKey g l.src) with
    | some t => t.cap
    | none => 0

/-- Occupancy, and whether the source is full or empty (R165, R318, R349). -/
def State.rateOcc (s : State) (l : RateLoop) (g : Nat) : Nat × Bool :=
  if l.route then
    let n := match Tbl.get? s.routes (routeKey g l.src) with
      | some r => r.entries.length
      | none => 0
    (min n 64, decide (64 ≤ n ∨ n = 0))
  else
    match Tbl.get? s.troughs (troughKey g l.src) with
    | some t => (t.claimed + t.filled, t.slots[t.head % t.cap]? != some .free || t.slots[t.tail % t.cap]? != some .full)
    | none => (0, true)

/-! ## The instructions -/

/-- The loop named, with PERMISSION for one that another instance holds (R170). -/
def rateNamed (l : BitVec 8) : Act (Nat × Option RateLoop) := do
  let s ← get
  let k := rateKey s.cur.grp l.toNat
  match Tbl.get? s.rates k with
  | none => pure (k, none)
  | some r =>
    raiseIf (r.owner != s.cur.slot) Code.permission 2 (l.setWidth 64)
    pure (k, some r)

/-- A number names a live context of the instance that is no step context (R170). -/
def State.liveCtx (s : State) (slot n : Nat) : Bool := (s.ctxsOf slot).any (fun c => c.num = n)

/-- RATE.BIND (R170). -/
def execRateBind (o : ObjA) (s : State) : Host.Outcome State Fault Refusal :=
  runAct (do
    let x ← readSrc o.a o.qa
    let (k, old) ← rateNamed o.t
    raiseIf (x.extractLsb' 48 15 != 0 || x.extractLsb' 9 7 != 0 || (x.getLsbD 63 && x.extractLsb' 0 48 != 0)) Code.reservedField 0 x
    if x.getLsbD 63 then
      modify (fun s => { s with rates := Tbl.del s.rates k })
      advance
    else
      let prod := fieldN x 31 16
      let cons := fieldN x 47 32
      let route := x.getLsbD 8
      let src ← if route then pure (fieldN x 7 0) else relocate s.cur.wtro (x.extractLsb' 0 8)
      raiseIf (!s.liveCtx s.cur.slot prod || !s.liveCtx s.cur.slot cons || prod == cons) Code.permission 2 x
      raiseIf (route && !s.ownsRoute s.cur.slot s.cur.grp src) Code.permission 2 x
      let base : RateLoop := ⟨s.cur.slot, s.cur.num, prod, cons, route, src, false, 0, 0, 0, 16, 16, 0, false, false, none, [], 0, 0, false⟩
      let new : RateLoop := match old with
        | some r => { r with ctx := s.cur.num, prod := prod, cons := cons, route := route, src := src, a := 0, z := 0, resuming := r.set }
        | none => base
      match (if new.set then unstable (⟨prod, cons, new.param⟩ :: s.activeEdges s.cur.slot k) else none) with
      | some n => raise Code.rateUnstable (BitVec.ofNat 8 n) 0
      | none =>
        raiseIf (new.set && decide (16 * s.rateCap new s.cur.grp < rpSP new.param)) Code.reservedField 0 0
        modify (fun s => { s with rates := Tbl.set s.rates k new })
        advance) s

/-- A load of n bytes performed at issue, as an acquire at a scope (R171, R257, R286): the context waits until the store it reads is performed
there, for its own earlier accesses to those bytes, for its earlier SO accesses on an SO page, and for the answers of a remote page. -/
def acquireLoad (va : Word) (n : Nat) (sc : Scope) : Act (List Byte) := do
  let pieces ← scalarAccess none va n 1
  awaitAcquire
  let parts ← remotePieces va pieces
  let s ← get
  let near := pieces.filter (fun p => p.page.remote.isNone)
  let bad (r : StoreRec) : Bool := near.any (fun p => p.range.any r.covers) && (r.owned s.cur.ref || s.sees s.cur r) && !psAtLeast r.ps sc
  let dirty := if sc = .eng then [] else (near.filter (fun p => p.page.inL1)).filterMap (fun p => s.cur.core?.bind (fun k => s.l1Find k p.pa))
  let ids := ((s.hold ++ s.coh).filter bad).map (·.id) ++ dirty.flatMap (fun x => x.stores.map (·.2))
  if !ids.isEmpty then waitKeep (.performed ids sc)
  if near.any (fun p => s.olderPending s.cur.ref s.nextId p.pa p.len) || !s.mayFill s.cur near then waitKeep .allLanded
  if near.any (fun p => p.page.ord == .so) && s.soBefore s.cur.ref s.nextId s.nextId then waitKeep (.performed (s.soIds s.cur) .dev)
  let (s', bs) := (s.orderPoint s.cur true).readPieces s.cur s.nextId parts
  set s'
  endAccess
  pure bs

/-- RATE.SET (R171, R350). -/
def execRateSet (o : ObjA) (s : State) : Host.Outcome State Fault Refusal :=
  runAct (do
    let x ← readSrc o.a o.qa
    let (k, old) ← rateNamed o.t
    match old with
    | none => raise Code.permission 2 (o.t.setWidth 64)
    | some r =>
      raiseIf (decide (x.toNat % 16 ≠ 0)) Code.misaligned 0 x
      let bs ← acquireLoad x 16 .eng
      let p : BitVec 128 := BitVec.ofNat 128 (leNat bs)
      raiseIf (rateMalformed p (s.rateCap r s.cur.grp)) Code.reservedField 0 0
      match unstable (⟨r.prod, r.cons, p⟩ :: s.activeEdges s.cur.slot k) with
      | some n => raise Code.rateUnstable (BitVec.ofNat 8 n) 0
      | none =>
        let r' : RateLoop := { r with
          set := true, param := p, i := 0, e := 0, pcnt := 0, hold := false, frozen := false, sign := none, history := []
          wp := rpWP0 p, wc := rpWC0 p, a := 0, z := 0, resuming := true }
        modify (fun s => { s with rates := Tbl.set s.rates k r' })
        advance) s

/-- Entering HOLD (R174). -/
def RateLoop.enterHold (r : RateLoop) : RateLoop :=
  { r with hold := true, i := 0, wp := if r.set then rpWP0 r.param else r.wp, wc := if r.set then rpWC0 r.param else r.wc }

/-- RATE.HOLD (R174). -/
def execRateHold (o : ObjA) (s : State) : Host.Outcome State Fault Refusal :=
  runAct (do
    let x ← readSrc o.a o.qa
    let (k, old) ← rateNamed o.t
    raiseIf (x.extractLsb' 1 63 != 0) Code.reservedField 0 x
    match old with
    | none => raise Code.permission 2 (o.t.setWidth 64)
    | some r =>
      let r' := if x.getLsbD 0 then r.enterHold else { r with hold := false, i := 0, sign := none, history := [] }
      modify (fun s => { s with rates := Tbl.set s.rates k r' })
      advance) s

/-- The word RATE.READ writes (R174). -/
def RateLoop.word (r : RateLoop) : Word :=
  let b (x : Bool) : Nat := if x then 1 else 0
  setField (setField (setField (setField (setField (setField (setField (setField (setField 0 63 40 (r.e % 2 ^ 24).toNat)
    39 24 (r.i % 2 ^ 16).toNat) 23 16 r.wp) 15 8 r.wc) 7 4 r.pcnt) 3 3 (b r.hold)) 2 2 (b r.frozen)) 1 1 (b r.set)) 0 0 1

def execRateRead (o : ObjD) (s : State) : Host.Outcome State Fault Refusal :=
  runAct (do
    destReady o.d
    let (_, old) ← rateNamed o.t
    writeS o.d (match old with
      | some r => r.word
      | none => 0)
    advance) s

/-! ## Measuring and periods (R172, R174) -/

/-- The loops of a context that joins are unbound (R170). -/
def State.unbindCtx (s : State) (slot n : Nat) : State :=
  { s with rates := s.rates.filter (fun x => !(x.2.owner = slot && (x.2.prod = n || x.2.cons = n))) }

/-- One cycle of measurement of an active loop: the occupancy joins A, a full or empty source counts in Z. -/
def State.measure (s : State) : State :=
  { s with rates := s.rates.map (fun x =>
      if x.2.set && !x.2.resuming && s.running x.2.owner then
        let (n, edge) := s.rateOcc x.2 (x.1 / 32)
        (x.1, { x.2 with a := x.2.a + n, z := x.2.z + (if edge then 1 else 0) })
      else x) }

/-- An arithmetic shift of a signed number. -/
def asr (x : Int) (k : Nat) : Int := x / 2 ^ k

/-- The computation at a period boundary (R172): the loop after it, and whether it entered HOLD by oscillation (R174). -/
def RateLoop.period (r : RateLoop) : RateLoop × Bool :=
  let p := r.param
  let e : Int := (16 * r.a / rpP p : Nat) - (rpSP p : Int)
  let act := decide (r.z ≤ rpP p / 2) && !r.hold
  let lim : Int := rpIMAX p
  let i := if act then max (-lim) (min lim (r.i + e)) else r.i
  let u := (if rpKP p = 15 then 0 else asr e (rpKP p)) + (if rpKI p = 15 then 0 else asr i (rpKI p))
  let clamp (w : Int) : Nat := (max (rpWMIN p : Int) (min (rpWMAX p : Int) w)).toNat
  let sgn := if e = 0 then r.sign else some (decide (e < 0))
  let changed := match r.sign, sgn with
    | some a, some b => a != b
    | some _, none => false
    | none, some _ => false
    | none, none => false
  let hist := (changed :: r.history).take 16
  let r1 : RateLoop := { r with
    i := i, e := e, a := 0, z := 0, pcnt := (r.pcnt + 1) % 16, frozen := !act, sign := sgn, history := hist
    wp := if r.hold then r.wp else clamp ((rpWP0 p : Int) - u)
    wc := if r.hold then r.wc else clamp ((rpWC0 p : Int) + u) }
  if !r.hold && decide (12 ≤ (hist.filter id).length) then (r1.enterHold, true) else (r1, false)

/-- PROOFER_PERIOD (R172): the boundary of loop l of group g, in a cycle with CYCLE mod P = PHOFF; under replay, in the next such cycle once the
capture presents it, with the recorded weights and I (R405). -/
def execProoferPeriod (g l : Nat) (s : State) : Host.Outcome State Fault Refusal :=
  match Tbl.get? s.rates (rateKey g l) with
  | none => .next s
  | some r =>
    if r.set ∧ s.running r.owner = true ∧ s.cycle % rpP r.param = rpPHOFF r.param then
      if r.resuming then .next { s with rates := Tbl.set s.rates (rateKey g l) { r with resuming := false, a := 0, z := 0 } }
      else if !s.presents (s.vfOf r.owner) 4 (rateKey g l) 0 then .next s
      else
        let (r0, held) := r.period
        let vf := s.vfOf r.owner
        let r' : RateLoop := { r0 with
          wp := ((s.recorded vf 0).map Int.toNat).getD r0.wp, wc := ((s.recorded vf 1).map Int.toNat).getD r0.wc, i := (s.recorded vf 2).getD r0.i }
        let s' := ({ s with rates := Tbl.set s.rates (rateKey g l) r' } : State).capture vf 4
        .next (if held then s'.post ⟨r.owner, r.ctx⟩ ⟨Code.rateHold, 0, BitVec.ofNat 64 l, true⟩ else s')
    else .next s

end Sys2Proof.Machine
end

