-- ==== Sys2Proof/Machine/Control.lean ====
section
/-! DEFINITION. Forking, halting, yielding, checkpoints and Assay reads (R28, R154, R157 to R160, R182, R183). -/
namespace Sys2Proof.Machine

/-! ## FORK (R159) -/

/-- The kind a fork descriptor names. -/
def forkKind (n : Nat) : Option Kind :=
  match n with
  | 1 => some .ve
  | 2 => some .ce
  | 3 => some .he
  | _ => none

/-- The engine a fork descriptor names, counted in bind-record order (R325). -/
def Slot.engineAt (x : Slot) (k : Kind) (n : Nat) : Option Nat :=
  match k with
  | .ve => nthSetBit x.cmask n
  | .ce => nthSetBit x.emask n
  | .he => nthSetBit x.hmask n
  | .cc => none
  | .se => none

/-- An entry holds a vector or copy engine. -/
def Slot.holdsEngine (x : Slot) (k : Kind) (e : Nat) : Bool :=
  match k with
  | .ve => x.cmask.getLsbD e
  | .ce => x.emask.getLsbD e
  | .he => x.hmask.getLsbD e
  | .cc => false
  | .se => false

/-- The live contexts on an engine, but for those of an entry whose engines have been taken back. -/
def State.onEngine (s : State) (k : Kind) (e : Nat) : List Context :=
  (s.cur :: s.parked).filter (fun c => c.kind = k && c.engine = e && c.phase ≠ .joined && !(Tbl.get? s.slots c.slot).any Slot.vacant)

/-- The slots of an engine in use, and the other sharers that hold none (R332). -/
def State.engineUse (s : State) (slot : Nat) (k : Kind) (e : Nat) : Nat × Nat × Nat :=
  let on := s.onEngine k e
  let needy := s.slots.filter (fun x => x.1 ≠ slot && decide (2 ≤ x.2.state) && decide (x.2.state ≤ 6) && x.2.holdsEngine k e && on.all (fun c => c.slot ≠ x.1))
  (on.length, (on.filter (fun c => c.slot = slot)).length, needy.length)

/-- A slot is free for a further context of the instance: four on a vector or copy engine, one for each sharer that holds none kept back; one
for each lease (R159, R332). -/
def State.forkRoom (s : State) (slot : Nat) (k : Kind) (e : Nat) : Bool :=
  match k with
  | .he => (s.ctxsOf slot).all (fun c => !(c.kind = .he && (s.hearth e).leaseGrps.contains c.engine))
  | .ve | .ce =>
    let (used, own, needy) := s.engineUse slot k e
    decide (used < 4) && (own = 0 || decide (needy < 4 - used))
  | .cc => false
  | .se => false

/-- The lowest context number from 1 to 65,535 that no live context of the instance has. -/
def State.freeNum (s : State) (slot : Nat) : Option Nat :=
  let l := s.ctxsOf slot
  (List.range (l.length + 1)).findSome? (fun i => if i + 1 ≤ 65535 ∧ l.all (fun c => c.num ≠ i + 1) then some (i + 1) else none)

/-- The lowest slot of the engine that no context has. -/
def State.freeEngSlot (s : State) (k : Kind) (e : Nat) : Nat :=
  let l := s.onEngine k e
  ((List.range 5).find? (fun i => l.all (fun c => c.engSlot ≠ i))).getD 0

/-- A context joins the machine; a joined current context makes room. -/
def State.addContext (s : State) (c : Context) : State :=
  if s.cur.phase = .joined then { s with cur := c } else { s with parked := s.parked ++ [c] }

/-- The child of a FORK: the state of R29 but for what FORK sets. -/
def forkChild (p : Context) (k : Kind) (e sl n : Nat) (t arg : Word) (jrdv cycle : Nat) : Context :=
  { Context.blank with
    slot := p.slot, num := n, kind := k, engine := e, engSlot := sl, phase := .ready, pc := t, s := Context.blank.s.set 1 arg
    wtro := p.wtro, wtok := p.wtok, wrdv := p.wrdv, jrdv := jrdv, lastIssue := cycle }

def execFork (o : RRR) (s : State) : Host.Outcome State Fault Refusal :=
  runAct (do
    let t ← readSrc o.a o.qa
    let desc ← readSrc o.b o.qb
    let arg ← readSrc o.d false
    let s ← get
    match forkKind (fieldN desc 2 0) with
    | none => raise Code.reservedField 0 desc
    | some k =>
      raiseIf (desc.extractLsb' 24 40 != 0 || desc.extractLsb' 16 4 != 0 || desc.extractLsb' 3 5 != 0) Code.reservedField 0 desc
      let slot := s.cur.slot
      match (s.slotOf s.cur).bind (fun x => x.engineAt k (fieldN desc 15 8)) with
      | none => raise Code.permission 2 desc
      | some e =>
        raiseIf (t.extractLsb' 0 2 != 0) Code.misaligned 0 t
        raiseIf ((s.fetch slot k t).isNone) Code.illegalOp 2 t
        let (g, r) ← rdvOf ((desc.extractLsb' 20 4).setWidth 8)
        raiseIf (k == .he && (s.hearth e).holder != some slot) Code.leaseLost 0 0
        raiseIf ((s.rdv g r).exp == 65535) Code.illegalOp 8 0
        waitIf (!s.forkRoom slot k e || (s.freeNum slot).isNone) (.contextSlot k e)
        awaitRelease .dev true
        rdvTurn g r
        let s ← get
        let n := (s.freeNum slot).getD 0
        let p := s.rdv g r
        let c := forkChild s.cur k e (s.freeEngSlot k e) n t arg r s.cycle
        set (((s.setRdv g r s.cur.num { p with exp := p.exp + 1 }).addContext c).orderPoint c true)
        writeS o.d (BitVec.ofNat 64 n)
        advance) s

/-! ## ERET.HALT (R154, R160) -/

/-- Live contexts of the instance besides its control context. -/
def State.children (s : State) (slot : Nat) : Bool := (s.ctxsOf slot).any (fun c => c.num ≠ 0)

/-- The wait of the kinds that have work of their own (R154 step 2). -/
def awaitOwnWork : Act Unit := do
  let s ← get
  match s.cur.kind with
  | .he => waitIf (!s.isQuiet (s.leadOf s.cur.engine)) (.joinQuiet (s.leadOf s.cur.engine))
  | .ce => waitIf (!s.cur.copyq.isEmpty) .copyEmpty
  | .cc => pure ()
  | .ve => pure ()
  | .se => pure ()

def execEretHalt (o : RA) (s : State) : Host.Outcome State Fault Refusal :=
  runAct (do
    raiseIf s.cur.hd Code.illegalOp 6 0
    let h ← readSrc o.a o.qa
    awaitLanded
    awaitPerformed .dev
    awaitOwnWork
    let s ← get
    if s.cur.num = 0 then
      waitIf (s.children s.cur.slot) .children
      retire (h.extractLsb' 0 16)
    else
      rdvTurn (s.homeGrp s.cur.slot) s.cur.jrdv
      modify (fun s => ((s.unbindCtx s.cur.slot s.cur.num).finalArrival (s.homeGrp s.cur.slot) s.cur.jrdv s.cur.num).setCur (fun c => { c with phase := .joined }))) s

/-! ## YIELD and CHKPT (R157, R182) -/

/-- The waits of YIELD's step 1. -/
def awaitBoundary : Act Unit := do
  let s ← get
  waitIf (s.children s.cur.slot) .children
  awaitLanded
  awaitPerformed .dev

/-- YIELD: the offer to Dortas stands until YIELD_DECISION answers it. -/
def execYield (s : State) : Host.Outcome State Fault Refusal :=
  runAct (do
    raiseIf (s.cur.kind != .cc) Code.privilege 0 0
    raiseIf s.cur.hd Code.illegalOp 6 0
    awaitBoundary
    let s ← get
    let slot := s.cur.slot
    match Tbl.get? s.slots slot with
    | none => waitFor .yieldReply
    | some x =>
      if !s.cur.yielding then
        set (({ s with slots := Tbl.set s.slots slot { x with offer := some s.cycle } } : State).setCur (fun c => { c with yielding := true }))
      waitKeep .yieldReply) s

/-- What CHKPT records (R182). -/
def checkpointOf (c : Context) (d : BitVec 5) : Checkpoint :=
  ⟨c.pc + 4, c.s, c.p, c.loops, c.hd, c.fcsr, c.epc, c.tvec, c.wdog, d, true, 0⟩

def execChkpt (d : BitVec 5) (s : State) : Host.Outcome State Fault Refusal :=
  runAct (do
    destReady d
    awaitBoundary
    let s ← get
    let slot := s.cur.slot
    waitIf (s.steps.any (fun c => c.2.slot = slot && c.2.status.isNone)) .stepsStopped
    match Tbl.get? s.slots slot with
    | none => writeS d 1
    | some x =>
      if s.eff x.rcbx .undob = 0 then writeS d 1
      else
        set ({ s with
          slots := Tbl.set s.slots slot { x with ckpt := some (checkpointOf s.cur d) }
          undo := s.undo.filter (fun u => u.slot ≠ slot) } : State)
        writeS d 0
    advance) s

/-! ## ASSAYR (R183) -/

/-- The energy estimate: the counters weighed, held at 2^64 − 1 (R398). -/
def AssayVf.energy (a : AssayVf) : Nat :=
  min ((a.ctr.zipIdx).foldl (fun n (c, k) => n + c * Config.energyCoeff k) 0) (2 ^ 64 - 1)

def AssayVf.counter (a : AssayVf) (k : Nat) : Nat := if k = 10 then a.energy else a.ctr.getD k 0

def State.assayOf (s : State) (vf : Nat) : AssayVf := (Tbl.get? s.assay vf).getD AssayVf.reset

def execAssayr (o : RRD) (s : State) : Host.Outcome State Fault Refusal :=
  runAct (do
    destReady o.d
    let x ← readSrc o.a o.qa
    raiseIf (decide (10 < x.toNat)) Code.reservedField 0 x
    let vf ← curVf
    let s ← get
    awaitPresented 7 s.cur.num 0
    writeSLate o.d 3 8 (s.returned (BitVec.ofNat 64 ((s.assayOf vf).counter x.toNat)))
    modify (fun s => s.capture vf 7)
    advance) s

end Sys2Proof.Machine
end

