-- ==== Sys2Proof/Machine/Schedule.lean ====
section
/-! DEFINITION. What Dortas binds and where (R325 to R336): demands and budgets, placement, choice, bind records, submission, slices, quotas. -/
namespace Sys2Proof.Machine

/-! ## Fields of a record's demand (R19, R20) -/

/-- A launch record as Dortas looks at it: its region, number and bits, its VF, the image's declarations. -/
structure Want where
  rcb : Nat
  i : Nat
  bits : BitVec 1024
  vf : Nat
  image : Image
  armedAt : Nat
  deriving DecidableEq, Repr

def Want.cores (w : Want) : Nat := fieldN w.bits 199 192
def Want.cengs (w : Want) : Nat := fieldN w.bits 207 200
def Want.hearths (w : Want) : Nat := fieldN w.bits 215 208
def Want.sram (w : Want) : Nat := fieldN w.bits 255 224
def Want.steps (w : Want) : Nat := fieldN w.bits 223 216

/-! ## What entries hold -/

/-- Entries in states 2 to 6 hold what their masks and windows name (R327). -/
def Slot.holding (x : Slot) : Bool := decide (2 ≤ x.state) && decide (x.state ≤ 6)

/-- The image's declared counts of an entry. -/
def State.declared (s : State) (x : Slot) : Nat × Nat × Nat :=
  match Tbl.get? s.images x.image with
  | some i => i.counts
  | none => (0, 0, 0)

/-- An entry's use of a budget field (R327 check 3); a retiring entry's is subtracted when it becomes FREE. -/
def State.usedBy (s : State) (x0 : Slot) (f : RcbField) : Nat :=
  let x : Slot := if x0.gone then { x0 with bind := x0.held.getD x0.bind } else x0
  let (tr, tk, rv) := s.declared x
  let pop {w : Nat} (m : BitVec w) : Nat := Slot.engines.popOf m
  if f = .coresb then pop x.cmask
  else if f = .cengb then pop x.emask
  else if f = .hearthb then pop x.hmask
  else if f = .sramb then x.sramKiB
  else if f = .trob then tr
  else if f = .tokb then tk
  else if f = .rdvb then rv
  else if f = .stepb then fieldN x.bind 692 685
  else 0

/-- The nodes from a region up to the root. -/
def pathOf (t : Tbl RcbNode) : Nat → Nat → List Nat
  | 0, _ => []
  | k + 1, n =>
    match Tbl.get? t n with
    | none => []
    | some x => if x.level = 0 then [n] else n :: pathOf t k x.parent

def State.path (s : State) (n : Nat) : List Nat := pathOf s.rcbs 7 n

/-- Use of a field by the holding entries of a node's subtree, entry `but` left out. -/
def State.useAt (s : State) (n : Nat) (but : Option Nat) (f : RcbField) : Nat :=
  ((s.slots.filter (fun x => x.2.holding && some x.1 != but && (s.path x.2.rcbx).contains n)).map (fun x => s.usedBy x.2 f)).sum

/-- R327 check 3 for a demand. -/
def State.inBudget (s : State) (rcb : Nat) (but : Option Nat) (need : List (RcbField × Nat)) : Bool :=
  (s.path rcb).all (fun n => need.all (fun d => decide (s.useAt n but d.1 + d.2 ≤ s.eff n d.1)))

/-- A quota stands exhausted on the path (R336). -/
def State.exhausted (s : State) (rcb : Nat) : Bool :=
  (s.path rcb).any (fun n => match Tbl.get? s.rcbs n with
    | some x => x.exhCyc || x.exhByt
    | none => false)

/-- No SHARE of 0 in force on the path (R16, R51, R329). -/
def State.sharing (s : State) (rcb : Nat) : Bool := (s.path rcb).all (fun n => ((Tbl.get? s.rcbs n).map (·.share)).getD 0 != 0)

/-! ## Placement (R331, R332) -/

/-- Manhattan distance of two groups in the mesh of eight rows of four, plus 7 over the dies. -/
def meshCost (g h : Nat) : Nat :=
  let d (a b : Nat) : Nat := (a - b) + (b - a)
  d (g / 4) (h / 4) + d (g % 4) (h % 4) + (if g / 16 = h / 16 then 0 else 7)

/-- The least of a list by cost; the first of equals. -/
def leastBy (f : Nat → Nat) (l : List Nat) : Option Nat :=
  l.foldl (fun b x => match b with
    | none => some x
    | some y => if f x < f y then some x else some y) none

/-- The n least of a list by cost, if it has so many. -/
def nearest (f : Nat → Nat) : Nat → List Nat → Option (List Nat)
  | 0, _ => some []
  | n + 1, l =>
    match leastBy f l with
    | none => none
    | some x => (nearest f n (l.filter (· ≠ x))).map (fun r => x :: r)

/-- Entries that hold an engine, entry `but` left out. -/
def State.holders (s : State) (but : Option Nat) (k : Kind) (e : Nat) : List Slot :=
  (s.slots.filter (fun x => x.2.holding && some x.1 != but && x.2.holdsEngine k e)).map (·.2)

/-- The soft bit of an entry for vector or copy engines. -/
def Slot.soft (x : Slot) (k : Kind) : Bool := if k = .ce then x.bind.getLsbD 676 else x.bind.getLsbD 675

/-- An engine may be held, hard or soft (R327 check 2, R332). -/
def State.engineFree (s : State) (but : Option Nat) (k : Kind) (e vf : Nat) (soft : Bool) : Bool :=
  let hs := s.holders but k e
  if soft then decide (hs.length < 4) && hs.all (fun x => x.soft k && x.vf != vf) else hs.isEmpty

/-- A core's control core is free. -/
def State.ccoreFree (s : State) (but : Option Nat) (c : Nat) : Bool :=
  s.slots.all (fun x => !(x.2.holding && !x.2.vacant && some x.1 != but && x.2.ccore = c))

/-- The rectangles of n Hearths (R331): within a tile-row, or whole tile-rows. -/
def rectangles (n : Nat) : List (List Nat) :=
  if n = 0 then [[]]
  else if n ≤ 4 then (List.range 8).flatMap (fun r => (List.range (5 - n)).map (fun c => (List.range n).map (fun i => 4 * r + c + i)))
  else (List.range (9 - n / 4)).map (fun r => (List.range n).map (fun i => 4 * r + i))

/-- The cheapest rectangle that no other VF holds a Hearth of. -/
def State.placeHearths (s : State) (but : Option Nat) (vf n g : Nat) : Option (List Nat) :=
  let ok := (rectangles n).filter (fun l => l.all (fun h => (s.holders but .he h).all (fun x => x.vf = vf)))
  let cost (l : List Nat) : Nat := (l.map (meshCost g)).sum
  ok.foldl (fun b l => match b with
    | none => some l
    | some m => if cost l < cost m then some l else some m) none

/-- The lowest place for n within a limit beside what is used. -/
def firstFit (used : List (Nat × Nat)) (n limit : Nat) : Option Nat :=
  let ok (b : Nat) : Bool := decide (b + n ≤ limit) && (n = 0 || used.all (fun (lo, k) => k = 0 || decide (b + n ≤ lo ∨ lo + k ≤ b)))
  leastBy id ((0 :: used.map (fun (lo, k) => lo + k)).filter ok)

/-- Entries with windows: those in states 2 to 6, but for one that retires and has let its windows go. -/
def Slot.windowed (x : Slot) : Bool := x.holding && !x.gone

/-- Entries whose control context stands in a group. -/
def State.inGroup (s : State) (but : Option Nat) (g : Nat) : List Slot :=
  (s.slots.filter (fun x => x.2.windowed && some x.1 != but && grpOfCore x.2.ccore = g)).map (·.2)

/-- Where an instance is put. -/
structure Place where
  cost : Nat
  ccore : Nat
  cores : List Nat
  cengs : List Nat
  hearths : List Nat
  sbase : Nat
  skib : Nat
  banks : List Nat
  tro : Nat
  tok : Nat
  rdv : Nat
  softv : Bool
  softc : Bool
  deriving DecidableEq, Repr

/-- KiB ranges used in a group: byte ranges and whole banks. -/
def sramRanges (l : List Slot) : List (Nat × Nat) :=
  l.flatMap (fun x => (fieldN x.bind 753 740, fieldN x.bind 799 768) ::
    ((List.range 16).filter (fun b => x.bind.getLsbD (724 + b))).map (fun b => (1024 * b, 1024)))

/-- Scratchpad, windows and slot records of an instance in the control context's group (R311, R327 check 4): whole banks for each full 1,024 KiB. -/
def State.placeMemory (s : State) (but : Option Nat) (w : Want) (g : Nat) : Option (Nat × Nat × List Nat × Nat × Nat × Nat) :=
  let l := s.inGroup but g
  let all := (s.slots.filter (fun x => x.2.windowed && some x.1 != but)).map (·.2)
  let (nt, nk, nr) := w.image.counts
  let rem := w.sram % 1024
  let caps := (w.image.troughs.map (·.slots)).sum
  let used := ((s.troughs.filter (fun t => t.1 / 1024 = g && some t.2.owner != but)).map (fun t => t.2.cap)).sum
  match firstFit (sramRanges l) rem 16384, firstFit (l.map (fun x => (fieldN x.bind 723 714, (s.declared x).1))) nt 1024,
    firstFit (all.map (fun x => (fieldN x.bind 713 701, (s.declared x).2.1))) nk 8192,
    firstFit (l.map (fun x => (fieldN x.bind 700 693, (s.declared x).2.2))) nr 256 with
  | some sb, some tb, some kb, some rb =>
    let full := (List.range 16).filter (fun b => ((sb, rem) :: sramRanges l).all (fun (lo, k) => k = 0 || decide (1024 * b + 1024 ≤ lo ∨ lo + k ≤ 1024 * b)))
    if full.length < w.sram / 1024 || decide (16384 < used + caps) then none
    else some (sb, rem, full.take (w.sram / 1024), tb, kb, rb)
  | _, _, _, _ => none

/-- A placement around one control core. -/
def State.placeAt (s : State) (but : Option Nat) (w : Want) (sv sc : Bool) (c : Nat) : Option Place :=
  let g := grpOfCore c
  if !(s.ccoreFree but c && s.engineFree but .ve c w.vf sv) then none
  else
    match nearest (fun k => meshCost g (grpOfCore k)) (w.cores - 1) ((List.range 128).filter (fun k => k ≠ c && s.engineFree but .ve k w.vf sv)),
      nearest (fun k => meshCost g (grpOfCopy k)) w.cengs ((List.range 64).filter (fun k => s.engineFree but .ce k w.vf sc)),
      s.placeHearths but w.vf w.hearths g, s.placeMemory but w g with
    | some cs, some es, some hs, some (sb, rem, banks, tb, kb, rb) =>
      let cost := (cs.map (fun k => meshCost g (grpOfCore k))).sum + (es.map (fun k => meshCost g (grpOfCopy k))).sum + (hs.map (meshCost g)).sum
      some ⟨cost, c, c :: cs, es, hs, sb, rem, banks, tb, kb, rb, sv, sc⟩
    | _, _, _, _ => none

/-- The cheapest placement, ties to the lowest CCORE. -/
def State.placeBest (s : State) (but : Option Nat) (w : Want) (sv sc : Bool) : Option Place :=
  ((List.range 128).filterMap (s.placeAt but w sv sc)).foldl (fun b p => match b with
    | none => some p
    | some q => if p.cost < q.cost then some p else some q) none

/-- Hard engines wherever they do, soft ones where the tenant node allows them (R332). -/
def State.place? (s : State) (but : Option Nat) (w : Want) : Option Place :=
  let tn := ((Tbl.get? s.rcbs (1 + w.vf)).map (·.bits)).getD 0
  let v := tn.getLsbD 128
  let c := tn.getLsbD 129
  (s.placeBest but w false false).or
    (((if v then s.placeBest but w true false else none).or (if c then s.placeBest but w false true else none)).or
      (if v && c then s.placeBest but w true true else none))

/-! ## Choosing (R328, R329) -/

/-- A bind record of a launch record is submitted and not yet checked (R326). -/
def State.submitted (s : State) (rcb i : Nat) : Bool := s.slots.any (fun x => x.2.state = 1 && x.2.rcbx = rcb && x.2.lrec = i)

/-- The ARMED records of every region, in ascending region and number, but for those submitted. A record that was armed without ever having been
written names no loaded image (IMAGE 0): it is never chosen and stays ARMED (assumption 78, DESIGN CHOICE). -/
def State.armed (s : State) : List Want :=
  s.rcbs.flatMap (fun (k, n) => (n.pool.filter (fun r => lrState r.2 = 1 && !s.submitted k r.1)).filterMap (fun (i, r) =>
    (Tbl.get? s.images (lrImage r)).map (fun im => ⟨k, i, r, n.vf, im, (Tbl.get? n.armedAt i).getD 0⟩)))

/-- A replayed capture presents the move of a record to BOUND, or holds none of this arming (R405). -/
def State.mayBind (s : State) (w : Want) : Bool :=
  let names (e : Captured) : Bool := e.kind = 1 && e.a = w.rcb && e.b = w.i && e.vals.getD 0 (lrSeq w.bits) = (lrSeq w.bits : Int)
  (Tbl.get? s.replays w.vf).all (fun r => !r.stopped && (r.events.head?.any names || !r.events.any names))

/-- A record that Dortas may consider: SHAREs, quotas, no page of its own awaited, its VF not being destroyed (R22, R51, R336, R385). -/
def State.considered (s : State) (w : Want) : Bool :=
  s.dortas.destroying.all (fun d => d.1 ≠ w.vf) &&
  s.sharing w.rcb && !s.exhausted w.rcb && s.mayBind w && s.vfs.all (fun v => v.2.reqs.all (fun q => !q.waiters.contains (recRef w.rcb w.i)))

/-- An eligible record: its demand would pass R327 now, and a slot-table entry is free. -/
def State.eligible (s : State) (w : Want) : Bool :=
  s.considered w && s.inBudget w.rcb none (s.demands w.bits) && (s.place? none w).isSome && decide (s.slots.length < 2048)

/-- Cycles for which a record's condition read has waited on page requests (R22, R51). -/
def State.condWaited (s : State) (rcb i : Nat) : Nat :=
  match (Tbl.get? s.rcbs rcb).bind (fun n => Tbl.get? n.condWait i) with
  | some (n, some t) => n + (s.cycle - t)
  | some (n, none) => n
  | none => 0

/-- Armed longer than half its region's BINDMAX, the times of R51 not counted (R329, R51). -/
def State.late (s : State) (w : Want) : Bool :=
  let t0 := (s.path w.rcb).foldl (fun m n => max m (((Tbl.get? s.rcbs n).map (·.since)).getD 0)) w.armedAt
  decide (s.eff w.rcb .bindmax * 950 + s.condWaited w.rcb w.i < s.cycle - t0)

/-- A condition read begins to wait, or its wait ends with the reply. -/
def State.condWaits (s : State) (rcb i : Nat) : State :=
  match Tbl.get? s.rcbs rcb with
  | none => s
  | some n =>
    let (k, t) := (Tbl.get? n.condWait i).getD (0, none)
    { s with rcbs := Tbl.set s.rcbs rcb { n with condWait := Tbl.set n.condWait i (k, some (t.getD s.cycle)) } }

def State.condReplied (s : State) (rcb i : Nat) : State :=
  match Tbl.get? s.rcbs rcb with
  | none => s
  | some n =>
    match Tbl.get? n.condWait i with
    | some (k, some t) => { s with rcbs := Tbl.set s.rcbs rcb { n with condWait := Tbl.set n.condWait i (k + (s.cycle - t), none) } }
    | some (_, none) => s
    | none => s

def earliest (l : List Want) : Option Want :=
  l.foldl (fun b w => match b with
    | none => some w
    | some v => if w.armedAt < v.armedAt then some w else some v) none

/-- Whether node a comes before node b: higher PCLASS in force, then smaller VT, then lower index. -/
def State.nodeBefore (s : State) (a b : Nat) : Bool :=
  let vt (n : Nat) : Nat := ((Tbl.get? s.rcbs n).map (·.vt)).getD 0
  let pc (n : Nat) : Nat := ((Tbl.get? s.rcbs n).map (·.pclass)).getD 0
  decide (pc b < pc a) || (pc a == pc b && (decide (vt a < vt b) || (vt a == vt b && decide (a < b))))

/-- The walk of Choose() from a node down (R329). -/
def State.chooseFrom (s : State) (el : List Want) : Nat → Nat → Option Want
  | 0, n => earliest (el.filter (fun w => w.rcb = n))
  | k + 1, n =>
    let own := el.filter (fun w => w.rcb = n)
    let kids := (s.rcbs.filter (fun x => x.2.level ≠ 0 && x.2.parent = n && el.any (fun w => (s.path w.rcb).contains x.1))).map (·.1)
    let opts := if own.isEmpty then kids else n :: kids
    match opts.foldl (fun b x => match b with
        | none => some x
        | some y => if s.nodeBefore x y then some x else some y) none with
    | none => none
    | some x => if x = n then earliest own else State.chooseFrom s el k x

/-- Choose(): the late record armed earliest, whether or not it could be bound now, else the walk over the eligible records. -/
def State.choose (s : State) (el : List Want) : Option Want :=
  (earliest (s.armed.filter (fun w => s.considered w && s.late w))).or (s.chooseFrom el 6 0)

/-- Nodes whose subtree has gained eligible work, or whose SHARE is no longer 0, catch up with their siblings (R328). -/
def State.catchUp (s : State) (el : List Want) : State :=
  let isEl (n : Nat) : Bool := el.any (fun w => (s.path w.rcb).contains n)
  { s with rcbs := s.rcbs.map (fun (k, x) =>
      let e := isEl k
      let sh := x.share != 0
      let sib := (s.rcbs.filter (fun y => y.1 ≠ k && y.2.level ≠ 0 && y.2.parent = x.parent && isEl y.1)).map (fun y => y.2.vt)
      let vt := if x.level ≠ 0 ∧ ((e && !x.elig) || (sh && !x.shared)) then
          (match leastBy id sib with
           | some m => max x.vt m
           | none => x.vt)
        else x.vt
      (k, { x with vt := vt, elig := e, shared := sh, since := if sh && !x.shared then s.cycle else x.since })) }

/-! ## Binding (R21, R22, R325) -/

def maskOf (w : Nat) (l : List Nat) : BitVec w := l.foldl (fun m i => m ||| (1 <<< i)) 0

/-- An entry at its reset values: FREE, EW 1 (R325). An entry that is not listed is FREE. -/
def entryReset : BitVec 1024 := setField 0 684 677 1

/-- The bind record Dortas writes to entry k, STATE SUBMIT. -/
def bindRecord (w : Want) (p : Place) (ew k : Nat) : BitVec 1024 :=
  let f (b : BitVec 1024) (x : Nat × Nat × Nat) : BitVec 1024 := setField b x.1 x.2.1 x.2.2
  [(1023, 896, (maskOf 128 p.cores).toNat), (895, 832, (maskOf 64 p.cengs).toNat), (831, 800, (maskOf 32 p.hearths).toNat), (799, 768, p.skib),
   (753, 740, p.sbase), (739, 724, (maskOf 16 p.banks).toNat), (723, 714, p.tro), (713, 701, p.tok), (700, 693, p.rdv), (692, 685, w.steps),
   (684, 677, ew), (676, 676, if p.softc then 1 else 0), (675, 675, if p.softv then 1 else 0), (674, 668, p.ccore), (511, 448, 65536 * Config.saveArea k),
   (127, 120, w.vf), (119, 104, w.rcb), (103, 88, w.i), (87, 72, lrSeq w.bits), (2, 0, 1)].foldl f entryReset

def newSlot (bind : BitVec 1024) (image cycle : Nat) : Slot :=
  ⟨bind, image, cycle, cycle, cycle, none, none, [], none, [], false, [], false, none, false, none⟩

/-- The record's bind record written to a free entry, whichever Dortas takes (R325); the launch record is BOUND once it is accepted (R21, R327). -/
def State.bindRecordOf (s : State) (w : Want) (p : Place) : State :=
  let free := (List.range 2048).filter (fun k => (Tbl.get? s.slots k).isNone)
  let ew := ((Tbl.get? s.rcbs (1 + w.vf)).map (fun n => fieldN n.bits 143 136)).getD 1
  match free[(Config.freeWord s.free).toNat % free.length]? with
  | none => s
  | some k =>
    { s with free := s.free + 1, slots := Tbl.set s.slots k (newSlot (bindRecord w p ew k) (lrImage w.bits) s.cycle) }

/-- A record leaves ARMED without a bind, its completion record written first (R21). -/
def State.finishRecord (s : State) (w : Want) (status detail : Nat) : Moved :=
  match s.writeCompl (recRef w.rcb w.i) w.vf 0 (lrCompl w.bits) (complBytes status detail (lrSeq w.bits) 0 0 s.cycle) with
  | .past s1 => .next (s1.setLrec w.rcb w.i (setField w.bits 33 32 0))
  | .waits s1 _ => .next s1
  | .hole pa => .fault (.noSuchAddress pa)

/-- The condition read of R22, and what follows. -/
def State.bindWant (s : State) (w : Want) (p : Place) : Moved :=
  let va := lrCond w.bits
  if va = 0 then .next (s.bindRecordOf w p)
  else
    match translateFull s w.vf va 1 with
    | .fault c d => s.finishRecord w 5 (c.toNat + 256 * d.toNat)
    | .miss ipa r =>
      let me := recRef w.rcb w.i
      if s.dortas.denied.contains (me, ipa) then (s.takeDenied me).finishRecord w 5 (Code.permission.toNat + 256)
      else .next ((s.joinRequest w.vf me ipa r).condWaits w.rcb w.i)
    | .ok i =>
      if paKind i.pa = .hole then .fault (.noSuchAddress i.pa)
      else if i.remote.isSome || !(s.bankCheck i.pa).2 then s.finishRecord w 5 (Code.permission.toNat + 512)
      else if s.poisoned i.pa then .next (s.markContained (s.attributedTo i.pa))
      else if bytesFrom s.devByte i.pa 8 = List.replicate 8 0 then s.finishRecord w 1 0
      else .next (s.bindRecordOf w p)

/-- Engines reclaimed for a late record that finds no place: the instance of lowest PCLASS, then largest VT, whose slice has expired is asked (R330). -/
def State.sliceOver (s : State) (x : Slot) : Bool := decide (x.sliceStart + s.eff x.rcbx .slice * 1900 ≤ s.cycle)

def State.askYield (s : State) : State :=
  if s.slots.any (fun x => x.2.yieldAsked.isSome) then s
  else
    let cand := (s.slots.filter (fun x => x.2.state = 2 && !x.2.gone && s.sliceOver x.2)).map (·.1)
    let rcb (k : Nat) : Nat := ((Tbl.get? s.slots k).map (·.rcbx)).getD 0
    match cand.foldl (fun b k => match b with
        | none => some k
        | some j => if s.nodeBefore (rcb j) (rcb k) then some k else some j) none with
    | none => s
    | some k =>
      match Tbl.get? s.slots k with
      | some x => { s with slots := Tbl.set s.slots k { x with yieldAsked := some s.cycle } }
      | none => s

/-- ARMED records whose demand exceeds their region's budget are refused (R17), one after another. -/
def State.refuseOver (s : State) : List Want → Moved
  | [] => .next s
  | w :: rest =>
    match s.overDemand w.rcb w.bits with
    | none => State.refuseOver s rest
    | some b =>
      match s.finishRecord w 4 b with
      | .next s1 => State.refuseOver s1 rest
      | .fault f => .fault f
      | .refused r => .refused r

/-- The chosen record bound, skipped or failed; its nodes have eligible work no longer unless others have (R328). -/
def State.bindChosen (s : State) (el : List Want) (w : Want) (p : Place) : Moved :=
  match s.bindWant w p with
  | .next t => .next (t.catchUp (el.erase w))
  | .fault f => .fault f
  | .refused r => .refused r

/-- BIND_DECISION: rejected entries cleared, over-demanding records refused, then one record chosen and bound, skipped or failed; for a late one
that cannot pass R327 engines are reclaimed (R17, R21, R329, R330). While a bind record is being checked no other is written (assumption 49). -/
def execBindDecision (s : State) : Host.Outcome State Fault Refusal :=
  let s0 := { s with slots := s.slots.filter (fun x => x.2.state ≠ 7) }
  match s0.refuseOver (s0.armed.filter s0.considered) with
  | .fault f => .fault f
  | .refused r => .refused r
  | .next s1 =>
    let el := s1.armed.filter s1.eligible
    let s2 := s1.catchUp el
    if s2.slots.any (fun x => x.2.state = 1) then .next s2
    else
      match s2.choose el with
      | none => .next s2
      | some w =>
        match (if el.contains w then s2.place? none w else none) with
        | some p => s2.bindChosen el w p
        | none => .next s2.askYield

/-! ## Submission (R327) -/

/-- The reserved bits of a bind record (R325). -/
def bindReserved (b : BitVec 1024) : Bool := fieldN b 767 754 != 0 || fieldN b 667 512 != 0 || fieldN b 383 128 != 0 || fieldN b 63 3 != 0

/-- Whether two sorted KiB ranges meet. -/
def rangesMeet (l m : List (Nat × Nat)) : Bool :=
  l.any (fun (a, n) => m.any (fun (b, k) => n ≠ 0 && k ≠ 0 && decide (a < b + k) && decide (b < a + n)))

/-- The number of the first check of R327 that fails. -/
def State.rejects (s : State) (k : Nat) (x : Slot) : Option Nat :=
  let others := s.inGroup (some k) (grpOfCore x.ccore)
  let (nt, nk, nr) := s.declared x
  let caps : Nat := match Tbl.get? s.images x.image with
    | some i => (i.troughs.map (·.slots)).sum
    | none => 0
  let used : Nat := ((s.troughs.filter (fun t => t.1 / 1024 = grpOfCore x.ccore && t.2.owner ≠ k)).map (fun t => t.2.cap)).sum
  let shareBad : Bool := !s.ccoreFree (some k) x.ccore ||
    (List.range 32).any (fun h => x.hmask.getLsbD h && (s.holders (some k) .he h).any (fun y => y.vf ≠ x.vf)) ||
    (List.range 128).any (fun c => x.cmask.getLsbD c && !s.engineFree (some k) .ve c x.vf (x.soft .ve)) ||
    (List.range 64).any (fun c => x.emask.getLsbD c && !s.engineFree (some k) .ce c x.vf (x.soft .ce))
  let need := [RcbField.coresb, .cengb, .hearthb, .sramb, .trob, .tokb, .rdvb, .stepb].map (fun f => (f, s.usedBy x f))
  if !x.cmask.getLsbD x.ccore || bindReserved x.bind || fieldN x.bind 684 677 = 0 then some 1
  else if shareBad then some 2
  else if !s.inBudget x.rcbx (some k) need then some 3
  else if rangesMeet (sramRanges [x]) (sramRanges others) || decide (1024 < fieldN x.bind 723 714 + nt) || decide (8192 < fieldN x.bind 713 701 + nk) ||
    decide (256 < fieldN x.bind 700 693 + nr) || decide (16384 < used + caps) then some 4
  else none

/-- The banks of an allotment become scratchpad and read zero (R305, R307). -/
def State.openBanks (s : State) (x : Slot) : State :=
  let g := grpOfCore x.ccore
  let lo := fieldN x.bind 753 740
  let n := fieldN x.bind 799 768
  let banks := (List.range 16).filter (fun b => x.bind.getLsbD (724 + b) || (n ≠ 0 && decide (1024 * b < lo + n) && decide (lo < 1024 * b + 1024)))
  let s1 := banks.foldl (fun t b =>
    let k := t.bank g b
    { t with banks := Tbl.set t.banks (bankKey g b) { k with mode := 1, route := 0, attached := false, busy := false, by_ := none } }) s
  s1.zeroSram x

/-- Every object of the windows in its known state (R49), and the troughs as the image declares them (R311). -/
def State.openWindows (s : State) (k : Nat) (x : Slot) : State :=
  let (inTok, inRdv) := s.windowsOf k x
  let decls := match Tbl.get? s.images x.image with
    | some i => i.troughs
    | none => []
  let s1 := { s with tokens := s.tokens.filter (fun t => !inTok t.1), rdvs := s.rdvs.filter (fun r => !inRdv r.1) }
  (decls.zipIdx).foldl (fun t (d, i) => t.setTrough (troughKey (grpOfCore x.ccore) (fieldN x.bind 723 714 + i)) (Trough.blank k d)) s1

/-- The window registers of an instance's contexts (R47). -/
def windowReg (base count : Nat) : Word := BitVec.ofNat 64 (base + 2 ^ 32 * count)

def State.withWindows (s : State) (x : Slot) (c : Context) : Context :=
  let (nt, nk, nr) := s.declared x
  { c with wtro := windowReg (fieldN x.bind 723 714) nt, wtok := windowReg (fieldN x.bind 713 701) nk, wrdv := windowReg (fieldN x.bind 700 693) nr }

/-- The control context of a bind (R29). -/
def State.controlOf (s : State) (k : Nat) (x : Slot) : Context :=
  let r := ((Tbl.get? s.rcbs x.rcbx).map (fun n => n.lrec x.rcbx x.lrec)).getD 0
  let hdr := ((Tbl.get? s.images x.image).map (·.header)).getD 0
  let entry := if lrEntry r = 0 then fieldN hdr 95 64 else lrEntry r
  let regs := (List.range 6).foldl (fun (v : Vector Word 32) i => v.setIfInBounds (i + 1) (lrArg r i)) Context.blank.s
  s.withWindows x { Context.blank with
    slot := k, num := 0, kind := .cc, engine := x.ccore, phase := .ready, pc := BitVec.ofNat 64 (4 * entry)
    s := regs.setIfInBounds 7 (BitVec.ofNat 64 x.lrec), lastIssue := s.cycle }

/-- Hearths that no other entry holds return to their reset values (R215, R249). -/
def State.openHearths (s : State) (k : Nat) (x : Slot) : State :=
  { s with hearths := s.hearths.filter (fun h => !(x.hmask.getLsbD h.1 && (s.holders (some k) .he h.1).isEmpty)) }

/-- The launch record of an entry is BOUND (R21). -/
def State.boundRecord (s : State) (x : Slot) : State :=
  match Tbl.get? s.rcbs x.rcbx with
  | none => s
  | some n => (s.setLrec x.rcbx x.lrec (setField (n.lrec x.rcbx x.lrec) 33 32 2)).capture x.vf 1

/-- The starting round-robin positions of an engine at a bind (R404 kind 3): as they stand, or those of the replayed capture (R405). -/
def State.seedEngine (s : State) (vf eng : Nat) : State :=
  let a := (Tbl.get? s.arbs (eng - 128)).getD ⟨[], 0, [], 63⟩
  let s1 : State := match (Tbl.get? s.replays vf).bind (fun r => r.events.head?) with
    | some e =>
      if e.kind = 3 ∧ e.a = eng then
        { s with arbs := Tbl.set s.arbs (eng - 128) { a with lastVf := (e.vals.getD 0 0).toNat, lastCtx := Tbl.set a.lastCtx vf (e.vals.getD 1 0).toNat } }
      else s
    | none => s
  s1.capture vf 3

/-- The vector and copy engines of an entry, as `Loc` numbers them. -/
def Slot.shareable (x : Slot) : List Nat :=
  ((List.range 128).filter (fun c => x.cmask.getLsbD c)).map (128 + ·) ++ ((List.range 64).filter (fun e => x.emask.getLsbD e)).map (256 + ·)

/-- An accepted entry: its Hearths, banks and windows in their known state, its launch record BOUND, its control context started, for which the
bind is an acquire at dev (R21, R49, R215, R293). -/
def State.startEntry (s : State) (slot : Nat) (x : Slot) : State :=
  let y := { x.setState 2 with bind := setField (x.setState 2).bind 447 384 s.cycle, bindCycle := s.cycle, sliceStart := s.cycle, chargedAt := s.cycle }
  let s1 := (({ s with slots := Tbl.set s.slots slot y } : State).openHearths slot y).openBanks y
  let s2 := y.shareable.foldl (fun t e => t.seedEngine y.vf e) ((s1.openWindows slot y).boundRecord y)
  let c := s2.controlOf slot y
  (s2.addContext c).orderPoint c true

/-- A kill begun by Dortas (R342): every state but FREE; a second request and a retiring instance are left alone (R343). -/
def State.writeKilling (s : State) (k : Nat) (c : KillCause) : State :=
  match Tbl.get? s.slots k with
  | some x =>
    if 2 ≤ x.state ∧ x.state ≤ 5 ∧ !(s.ctxsOf k).any (fun c => c.halting.isSome) then
      { s with slots := Tbl.set s.slots k { x.setState 6 with kill := some c, offer := none, yieldAsked := none } }
    else s
  | none => s

/-- SLOT_SUBMIT: the checks, and the start of the instance. A rejected record stays ARMED (R327). -/
def execSlotSubmit (slot : Nat) (s : State) : Host.Outcome State Fault Refusal :=
  .next (match Tbl.get? s.slots slot with
    | none => s
    | some x =>
      if x.state ≠ 1 ∨ s.presents x.vf 1 x.rcbx x.lrec = false then s
      else
        match s.rejects slot x with
        | some n => ({ s with slots := Tbl.set s.slots slot { x.setState 7 with bind := setField (x.setState 7).bind 71 64 n } } : State).endVf x.vf
        | none =>
          let t := s.startEntry slot x
          if s.dortas.destroying.any (fun d => d.1 = x.vf) then t.writeKilling slot (.reason 0x0100) else t)

/-! ## Charging, slices, quotas (R328, R330, R335, R336) -/

def execVtCharge (s : State) : Host.Outcome State Fault Refusal := .next s.chargeAll

/-- STOPPING written to a running entry (R326, R337); a retiring instance is past it (R347). -/
def State.writeStopping (s : State) (k : Nat) : State :=
  match Tbl.get? s.slots k with
  | some x => if x.state = 2 ∧ !(s.ctxsOf k).any (fun c => c.halting.isSome) then { s with slots := Tbl.set s.slots k (x.setState 3) } else s
  | none => s

/-- RECLAIM_TIMEOUT: 1,000 µs without the yield asked for. -/
def execReclaimTimeout (s : State) : Host.Outcome State Fault Refusal :=
  .next ((s.slots.filter (fun x => x.2.yieldAsked.any (fun t => decide (t + 1900000 ≤ s.cycle)))).foldl (fun t x => t.writeStopping x.1) s)

/-- The instances of a node's subtree in states 2 to 5. -/
def State.instancesOf (s : State) (rcb : Nat) : List Nat := (s.slots.filter (fun x => x.2.bound && (s.path x.2.rcbx).contains rcb)).map (·.1)

/-- QUOTA of an exhausted quota delivered once to a control context, if it has room for it; what has no room is held back (R336, R363). -/
def State.quotaFault (s : State) (rcb : Nat) (bytes : Bool) (k : Nat) : State :=
  match Tbl.get? s.slots k, s.ctx? ⟨k, 0⟩ with
  | some x, some c =>
    if x.state = 2 ∧ x.quotaAt.all (fun q => q.1 ≠ rcb || q.2.1 ≠ bytes) ∧ c.faultRoom then
      ({ s with slots := Tbl.set s.slots k { x with quotaAt := x.quotaAt ++ [(rcb, bytes, s.cycle)] } } : State).setCtx ⟨k, 0⟩
        (fun c => { c with faults := c.faults ++ [⟨Code.quota, if bytes then 2 else 1, 0, false⟩] })
    else s
  | _, _ => s

/-- A node's quotas are restored: their exhaustion no longer stands against any instance (R336). -/
def State.quotaRestored (s : State) (rcb : Nat) : State :=
  { s with slots := s.slots.map (fun x => (x.1, { x.2 with quotaAt := x.2.quotaAt.filter (fun q => q.1 ≠ rcb) })) }

/-- QUOTA_EXHAUSTED. -/
def execQuotaExhausted (rcb : Nat) (bytes : Bool) (s : State) : Host.Outcome State Fault Refusal :=
  .next (match Tbl.get? s.rcbs rcb with
    | none => s
    | some n =>
      let f := if bytes then RcbField.qbytes else RcbField.qcyc
      if n.ovrBit f.ovr && n.get f != 0 && decide (n.get f ≤ (if bytes then n.bytUse else n.cycUse)) then
        let n' := if bytes then { n with exhByt := true } else { n with exhCyc := true }
        let s1 := { s with rcbs := Tbl.set s.rcbs rcb n' }
        if s.eff rcb .qpol = 0 then
          (s1.instancesOf rcb).foldl (fun t k => match Tbl.get? t.slots k with
            | some x => if x.state = 2 then ({ t with slots := Tbl.set t.slots k { x with quotaStop := true } } : State).writeStopping k else t
            | none => t) s1
        else (s1.instancesOf rcb).foldl (fun t k => t.quotaFault rcb bytes k) s1
      else s)

/-- QUOTA_KILL_TIMEOUT. -/
def execQuotaKillTimeout (slot : Nat) (s : State) : Host.Outcome State Fault Refusal :=
  .next (match Tbl.get? s.slots slot with
    | some x => if x.quotaAt.any (fun q => decide (q.2.2 + 3800000 ≤ s.cycle)) then s.writeKilling slot (.reason 0x0400) else s
    | none => s)

/-! ## YIELD_DECISION (R157, R335) -/

/-- A place uses an engine of an entry. -/
def Place.uses (p : Place) (x : Slot) : Bool :=
  p.cores.any (fun c => x.cmask.getLsbD c) || p.cengs.any (fun e => x.emask.getLsbD e) || p.hearths.any (fun h => x.hmask.getLsbD h)

/-- Another record wants an engine of the instance: if the instance held none it would be eligible, and its place would use one (R335). -/
def State.wanted (s : State) (k : Nat) (x : Slot) : Bool :=
  s.armed.any (fun w => s.considered w && s.inBudget w.rcb (some k) (s.demands w.bits) && (s.place? (some k) w).any (fun p => p.uses x))

/-- The YIELD completes in the control context. -/
def State.yieldDone (s : State) (k : Nat) : State :=
  s.setCtx ⟨k, 0⟩ (fun c => { c.nextSeq with phase := .ready, wait := none, yielding := false })

/-- YIELD_DECISION: the engines are returned, or reclaimed and the instance suspended (R157, R158). When they are reclaimed R335 says (assumption
79); a suspended instance goes through STOPPING to STOPPED (R326). -/
def execYieldDecision (slot : Nat) (s : State) : Host.Outcome State Fault Refusal :=
  .next (match Tbl.get? s.slots slot with
    | none => s
    | some x =>
      if x.offer.isNone ∨ x.state ≠ 2 then s
      else
        let take := x.yieldAsked.isSome || (s.sliceOver x && s.wanted slot x)
        let s1 := (State.chargeAll { s with slots := Tbl.set s.slots slot { x with offer := none, yieldAsked := none } }).yieldDone slot
        if !take then s1
        else
          let s2 := s1.resetShared slot
          match Tbl.get? s2.slots slot with
          | none => s2
          | some y =>
            ({ s2 with slots := Tbl.set s2.slots slot { y.setState 3 with suspended := true } } : State).setCtx ⟨slot, 0⟩
              (fun c => { c with phase := .stopped }))

end Sys2Proof.Machine
end

