-- ==== Sys2Proof/Machine/Preempt.lean ====
section
/-! DEFINITION. Hard pre-emption and restore (R337 to R341), the kill sequence (R342, R343), checkpoints rolled back (R344 to R347), and
scrubbing (R366 to R368). -/
namespace Sys2Proof.Machine

def State.setSlot (s : State) (k : Nat) (x : Slot) : State := { s with slots := Tbl.set s.slots k x }

/-! ## Stopping (R337, R338) -/

/-- Key of a saved Hearth. -/
def saveKey (slot g : Nat) : Nat := slot * 64 + g

/-- The groups whose Hearth an instance holds by lease. -/
def State.leased (s : State) (slot : Nat) : List Nat := (s.hearths.filter (fun h => h.2.holder = some slot)).map (·.1)

/-- The leases of an instance as a stop records them. -/
def State.leaseRecords (s : State) (slot : Nat) : List SavedLease :=
  (s.leased slot).filterMap (fun g =>
    let h := s.hearth g
    if h.leaseGrps.head? = some g then some ⟨h.leaseGrps, h.sheet.isSome && decide (1 < h.leaseGrps.length)⟩ else none)

/-- HARD_PREEMPT: the request reaches the engines. Each held Hearth is saved as it stands and its clock enable drops. -/
def execHardPreempt (slot : Nat) (s : State) : Host.Outcome State Fault Refusal :=
  .next (match Tbl.get? s.slots slot with
    | none => s
    | some x =>
      if x.state ≠ 3 then s
      else
        let fresh := (s.leased slot).filter (fun g => (Tbl.get? s.saved (saveKey slot g)).isNone)
        { s with
          saved := fresh.foldl (fun t g => Tbl.set t (saveKey slot g) (s.hearth g)) s.saved
          hearths := s.hearths.map (fun h => (h.1, if fresh.contains h.1 then { h.2 with frozen := true } else h.2)) })

/-- Nothing of a context is on its way: its results have landed and its stores have left the hold buffer. -/
def State.settled (s : State) (c : Context) : Bool :=
  c.pend.isEmpty && s.hold.all (fun r => r.by_ ≠ c.ref || r.page.remote.isSome)

/-- The s register a scalar load writes. -/
def loadDest (i : Instr) : Option (BitVec 5) :=
  match i with
  | .ldSigned o => some o.d
  | .ldUnsigned o => some o.d
  | .ldaSigned o => some o.d
  | .ldaUnsigned o => some o.d
  | _ => none

/-- The destination of a scalar load that waits on a stage-2 page request: the load is cancelled and issues again on restore (R36). -/
def State.cancelled (s : State) (c : Context) : Option (BitVec 5) :=
  match c.wait with
  | some ⟨.pageReply _, _, _⟩ => ((s.fetch c.slot c.kind c.pc).bind (decodeBytes c.kind)).bind (fun r => match r.1 with
    | .ok i => loadDest i
    | .error _ => none)
  | _ => none

/-- A context as its stop leaves it (R36, R53, R338). -/
def State.stopped (s : State) (c : Context) : Context :=
  let c1 : Context := { c with phase := .stopped, wait := none, yielding := false, heAt := none, past := none }
  match s.cancelled c with
  | some d => c1.empty d
  | none => c1

/-- The copies of a context are at a stop: nothing of a stretch begun is left to move, and each contribution read has been accepted or stands
behind a refused one (R323, R337). -/
def Context.copiesStopped (c : Context) : Bool :=
  c.copyq.all (fun e => e.todo.all (fun x => decide (e.upto ≤ x.k)) && e.contribs.all (fun x => e.refused.any (fun p => p.1 = x.stack)))

/-- CONTEXT_STOP: at a loop-iteration boundary or at its wait, with everything issued complete; a running copy first moves the rest of its
4,096-byte stretch (R255, R337). An offer to Dortas is withdrawn (R347). -/
def execContextStop (c : CtxRef) (s : State) : Host.Outcome State Fault Refusal :=
  match Tbl.get? s.slots c.slot, s.ctx? c with
  | some x, some k =>
    let atStop : Bool := match k.phase with
      | .waiting => true
      | .ready => k.sinceBoundary = 0
      | .stopped => false
      | .joined => false
    if x.state ≠ 3 ∨ atStop = false then .next s
    else if !k.copiesStopped then s.copyFinish c 4096
    else .next (if s.settled k then ((s.leaveRequests (fun w => w = c)).setSlot c.slot { x with offer := none }).setCtx c s.stopped else s)
  | _, _ => .next s

/-- The tenant's counters on the engines of an entry are discarded (R338). -/
def State.dropCounters (s : State) (x : Slot) : State :=
  { s with arbs := s.arbs.map (fun (k, a) => (k, if x.shareable.contains (k + 128) then { a with dt := Tbl.del a.dt x.vf } else a)) }

/-- An entry whose engines Dortas takes back while it is STOPPED; its allotment stays its own (R330, R338). -/
def Slot.giveEngines (x : Slot) : Slot :=
  { x with bind := setField (setField (setField x.bind 1023 896 0) 895 832 0) 831 800 0, held := some x.bind }

/-- The entry once it is STOPPED: a suspended instance keeps no engine, and one that has been asked to yield loses them (R158, R330). -/
def Slot.afterSave (x : Slot) (recs : List SavedLease) : Slot :=
  let y := { x.setState 4 with leases := recs, yieldAsked := none }
  if x.suspended then y.vacate else if x.yieldAsked.isSome then y.giveEngines else y

/-- SAVE_COMPLETE: every engine state is saved; leases are recorded, each Hearth cleared and passed on, STOPPED written (R338). What the save area
holds stays in the contexts, `saved` and the step contexts themselves (assumption 53). -/
def execSaveComplete (slot : Nat) (s : State) : Host.Outcome State Fault Refusal :=
  .next (match Tbl.get? s.slots slot with
    | none => s
    | some x =>
      let own := s.leased slot
      if x.state = 3 ∧ (s.ctxsOf slot).all (fun c => c.phase = .stopped) ∧ own.all (fun g => (Tbl.get? s.saved (saveKey slot g)).isSome) then
        let s1 := (s.l1.filter (fun y => y.dirty && y.stores.any (fun z => z.1.slot = slot))).foldl (fun t y => t.writeback y) s.chargeAll
        let recs := s.leaseRecords slot
        let s2 : State := { s1 with
          hearths := s1.hearths.map (fun h => (h.1, if own.contains h.1 then h.2.clearAll else h.2))
          rates := s1.rates.map (fun r => (r.1, if r.2.owner = slot then { r.2 with a := 0, z := 0, resuming := true } else r.2)) }
        let s3 := ((s2.unbindEdges slot).releaseLeases slot).dropCounters x
        (match Tbl.get? s3.slots slot with
         | some y => s3.setSlot slot (y.afterSave recs)
         | none => s3)
      else s)

/-! ## Restoring (R341) -/

/-- Descriptors and rendezvous points moved to the new group and bases. -/
def State.moveWindows (s : State) (slot : Nat) (old new : Slot) : State :=
  let (_, inRdv) := s.windowsOf slot old
  let tk (k : Nat) : Nat := troughKey (grpOfCore new.ccore) (k % 1024 - fieldN old.bind 723 714 + fieldN new.bind 723 714)
  let rk (k : Nat) : Nat := rdvKey (grpOfCore new.ccore) (k % 256 - fieldN old.bind 700 693 + fieldN new.bind 700 693)
  let tro := s.troughs.filter (fun t => t.2.owner = slot)
  let rdv := s.rdvs.filter (fun r => inRdv r.1)
  { s with
    troughs := tro.foldl (fun t (k, v) => Tbl.set t (tk k) v) (s.troughs.filter (fun t => t.2.owner ≠ slot))
    rdvs := rdv.foldl (fun t (k, v) => Tbl.set t (rk k) v) (s.rdvs.filter (fun r => !inRdv r.1)) }

/-- The record of a bound instance as Dortas looks at it. -/
def State.wantOf (s : State) (x : Slot) : Option Want :=
  match Tbl.get? s.rcbs x.rcbx, Tbl.get? s.images x.image with
  | some n, some i => some ⟨x.rcbx, x.lrec, n.lrec x.rcbx x.lrec, x.vf, i, 0⟩
  | _, _ => none

/-- An instance suspended by YIELD gets engines again (R158): the token window stays, the others may move. -/
def State.replace (s : State) (slot : Nat) (x : Slot) (w : Want) (p : Place) : State :=
  let keep := [(684, 677), (511, 448), (103, 88), (87, 72), (713, 701)]
  let b := keep.foldl (fun b (hi, lo) => setField b hi lo (fieldN x.bind hi lo)) (bindRecord w p 1 slot)
  let y : Slot := { x with bind := setField b 2 0 5, suspended := false }
  let s1 := (((s.moveWindows slot x y).setSlot slot y).openHearths slot y).openBanks y
  s1.setCtx ⟨slot, 0⟩ (fun c => s1.withWindows y { c with engine := y.ccore })

/-! ### Engines for a stopped entry that has lost its own (R341 step 1) -/

/-- An entry has an engine in a group. -/
def Slot.inGrp (x : Slot) (g : Nat) : Bool :=
  (List.range 4).any (fun i => x.cmask.getLsbD (4 * g + i)) || (List.range 2).any (fun i => x.emask.getLsbD (2 * g + i)) || x.hmask.getLsbD g

/-- The engines of an entry in group g are to be had in group h. The control context's group stays, and with it routes, windows and allotment. -/
def State.grpFits (s : State) (slot : Nat) (x : Slot) (g h : Nat) : Bool :=
  let home := grpOfCore x.ccore
  (if g = home then h = home && s.ccoreFree (some slot) x.ccore else h ≠ home) &&
  (List.range 4).all (fun i => !x.cmask.getLsbD (4 * g + i) || s.engineFree (some slot) .ve (4 * h + i) x.vf (x.soft .ve)) &&
  (List.range 2).all (fun i => !x.emask.getLsbD (2 * g + i) || s.engineFree (some slot) .ce (2 * h + i) x.vf (x.soft .ce)) &&
  (!x.hmask.getLsbD g || (s.holders (some slot) .he h).all (fun y => y.vf = x.vf))

/-- Each group of a list moved to the lowest that fits, in rising order, so that bind-record order stays. -/
def State.mapGrps (s : State) (slot : Nat) (x : Slot) (lo : Nat) : List Nat → Option (Tbl Nat)
  | [] => some []
  | g :: rest =>
    match (List.range 32).find? (fun h => decide (lo ≤ h) && s.grpFits slot x g h) with
    | none => none
    | some h => (State.mapGrps s slot x (h + 1) rest).map (fun m => (g, h) :: m)

/-- Where the groups of an entry go: where they were, else wherever they fit with the Hearths in a rectangle again. -/
def State.findGrps (s : State) (slot : Nat) (x : Slot) : Option (Tbl Nat) :=
  let gs := (List.range 32).filter x.inGrp
  if gs.all (fun g => s.grpFits slot x g g) then some (gs.map (fun g => (g, g)))
  else
    (s.mapGrps slot x 0 gs).filter (fun m =>
      let hs := (m.filter (fun p => x.hmask.getLsbD p.1)).map (·.2)
      (rectangles hs.length).contains hs)

def grpTo (m : Tbl Nat) (g : Nat) : Nat := (Tbl.get? m g).getD g

/-- The masks of an entry after its groups have moved. -/
def Slot.moveGrps (x : Slot) (m : Tbl Nat) : Slot :=
  let cs := ((List.range 128).filter (fun c => x.cmask.getLsbD c)).map (fun c => 4 * grpTo m (c / 4) + c % 4)
  let es := ((List.range 64).filter (fun e => x.emask.getLsbD e)).map (fun e => 2 * grpTo m (e / 2) + e % 2)
  let hs := ((List.range 32).filter (fun h => x.hmask.getLsbD h)).map (grpTo m)
  { x with
    bind := setField (setField (setField x.bind 1023 896 (maskOf 128 cs).toNat) 895 832 (maskOf 64 es).toNat) 831 800 (maskOf 32 hs).toNat
    leases := x.leases.map (fun l => { l with grps := l.grps.map (grpTo m) }) }

/-- A stopped context on its engine of the new groups, in a slot that none of another entry has. -/
def State.moveCtx (s : State) (m : Tbl Nat) (c : Context) : Context :=
  let e := match c.kind with
    | .cc => c.engine
    | .ve => 4 * grpTo m (c.engine / 4) + c.engine % 4
    | .ce => 2 * grpTo m (c.engine / 2) + c.engine % 2
    | .he => grpTo m c.engine
    | .se => c.engine
  let free := (List.range 5).filter (fun i => (s.onEngine c.kind e).all (fun d => d.engSlot ≠ i))
  let before := (s.ctxsOf c.slot).filter (fun d => d.kind = c.kind && d.engine = c.engine && decide (d.engSlot < c.engSlot))
  { c with engine := e, engSlot := free.getD before.length 0 }

/-- A saved Hearth in its new group. -/
def Hearth.moveGrps (h : Hearth) (m : Tbl Nat) : Hearth :=
  { h with leaseGrps := h.leaseGrps.map (grpTo m), sheet := h.sheet.map (fun (g, a, b) => (grpTo m g, a, b)) }

/-- A stopped entry gets engines again: the state, and the entry in it. -/
def State.giveBack (s : State) (slot : Nat) (x : Slot) : Option State :=
  match x.held with
  | none => some s
  | some b =>
    let y : Slot := { x with
      bind := setField (setField (setField x.bind 1023 896 (fieldN b 1023 896)) 895 832 (fieldN b 895 832)) 831 800 (fieldN b 831 800), held := none }
    let need := [RcbField.coresb, .cengb, .hearthb, .sramb, .trob, .tokb, .rdvb, .stepb].map (fun f => (f, s.usedBy y f))
    if !s.inBudget x.rcbx (some slot) need || s.slots.any (fun z => z.2.state = 1) then none
    else
      (s.findGrps slot y).map (fun m =>
        let f (c : Context) : Context := if c.slot = slot ∧ c.phase ≠ .joined then s.moveCtx m c else c
        ({ s with
          cur := f s.cur
          parked := s.parked.map f
          saved := s.saved.foldl (fun t (k, h) => if k / 64 = slot then Tbl.set t (saveKey slot (grpTo m (k % 64))) (h.moveGrps m) else Tbl.set t k h) [] } : State).setSlot
            slot (y.moveGrps m))

/-- RESTORING written to a stopped entry, a suspended instance placed, every recorded lease asked for. -/
def State.restoreSlot (s : State) (slot : Nat) : State :=
  match Tbl.get? s.slots slot with
  | none => s
  | some x =>
    if (x.state ≠ 4 ∧ x.state ≠ 5) ∨ x.rolling ∨ s.exhausted x.rcbx then s
    else if x.suspended then
        match s.wantOf x with
        | none => s
        | some w =>
          match (if s.inBudget x.rcbx (some slot) (s.demands w.bits) && s.slots.all (fun z => z.2.state ≠ 1) then s.place? (some slot) w else none) with
          | none => s
          | some p => s.replace slot x w p
    else
      match s.giveBack slot x with
      | none => s
      | some t =>
        match Tbl.get? t.slots slot with
        | none => s
        | some y =>
          let asks := y.leases.filter (fun l => !t.holdsLease slot l.grps && !t.requested slot l.grps)
          (asks.foldl (fun u l => u.askLease slot l.grps false) (t.setSlot slot (y.setState 5))).grantLeases

/-- RESTORE. -/
def execRestore (slot : Nat) (s : State) : Host.Outcome State Fault Refusal := .next (s.restoreSlot slot)

/-- A saved Hearth thawed in its place: the lease and the bindings are the target's, the clock enable is as it was before the stop (R248). -/
def thawSaved (now old : Hearth) : Hearth :=
  { old with holder := now.holder, leaseGrps := now.leaseGrps, runStart := now.runStart, runCount := now.runCount }

/-- RESTORE_RUNNING: with every lease held the Hearths are thawed, RUNNING is written, and every sequencer resumes. A load that the stop cancelled
is the context's next instruction, and it empties its destination anew (R36). -/
def execRestoreRunning (slot : Nat) (s : State) : Host.Outcome State Fault Refusal :=
  .next (match Tbl.get? s.slots slot with
    | none => s
    | some x =>
      if x.state = 5 ∧ x.rolling = false ∧ x.leases.all (fun l => s.holdsLease slot l.grps) then
        let mine := s.saved.filter (fun h => h.1 / 64 = slot)
        let s1 := mine.foldl (fun t (k, h) => t.setHearth (k % 64) (thawSaved (t.hearth (k % 64)) h)) s
        let up (c : Context) : Context :=
          if c.slot = slot ∧ c.phase = .stopped then
            { c with phase := .ready, wait := none, dc := 0, lastIssue := s.cycle, full := BitVec.allOnes 32 } else c
        { s1 with
          saved := s1.saved.filter (fun h => h.1 / 64 ≠ slot)
          cur := up s1.cur
          parked := s1.parked.map up
          slots := Tbl.set s1.slots slot { x.setState 2 with
            bind := setField (x.setState 2).bind 447 384 s.cycle, sliceStart := s.cycle, chargedAt := s.cycle, leases := [], quotaStop := false } }
      else s)

/-! ## Killing (R342, R343) -/

/-- The escalated fault in the report (R365). -/
def State.reportFault (s : State) (slot : Nat) (x : Slot) : State :=
  match x.kill with
  | some (.fault f ctx epc) =>
    let d := s.dortas
    ({ s with dortas := { d with escalated := Tbl.set d.escalated x.vf ((Tbl.get? d.escalated x.vf).getD 0 + 1) } } : State).report
      ⟨1, x.vf, slot, ctx, epc, f.ecause, f.eval⟩
  | some (.reason _) => s
  | some .rollback => s
  | none => s

/-- A drain marker for each stack, behind every access numbered so far (R342). -/
def State.newMarkers (s : State) : List (Nat × Nat) := (List.range 8).map (fun k => (k, s.nextId))

/-- KILL_SEQUENCE: quiesce, flush, and queue the drain markers. -/
def execKillSequence (slot : Nat) (s : State) : Host.Outcome State Fault Refusal :=
  .next (match Tbl.get? s.slots slot with
    | none => s
    | some x =>
      if x.state ≠ 6 ∨ (x.rolling ∧ x.kill ≠ some .rollback) then s
      else
        let s1 := (s.chargeAll.reportFault slot x).quiesce slot false
        match Tbl.get? s1.slots slot with
        | some y => s1.setSlot slot { y with markers := s1.newMarkers, rolling := true, kill := some ((y.kill.filter (· ≠ .rollback)).getD (.reason 0x0300)) }
        | none => s1)

/-- What a VF had queued at a stack before access number `n` has been performed (R342). -/
def State.drained (s : State) (vf stack n : Nat) : Bool :=
  s.coh.all (fun r => r.loc.vf ≠ vf || decide (n ≤ r.id) || stackOf r.pa ≠ stack || psAtLeast r.ps .dev)

/-- Status and detail of a killed instance's completion record (R23, R342). -/
def KillCause.status (k : Option KillCause) : Nat × Nat × Nat :=
  match k with
  | some (.fault f ctx _) => (3, f.code.toNat + 256 * f.detail.toNat, ctx)
  | some (.reason r) => (2, r, 0)
  | some .rollback => (2, 0x0300, 0)
  | none => (2, 0, 0)

/-- Step 4 of R342, once every marker has completed: the completion record is written, then what the entry held is given up, and the entry is FREE. -/
def State.completeKill (s : State) (slot : Nat) (y : Slot) : Moved :=
  if y.state ≠ 6 ∨ !y.markers.isEmpty ∨ s.sitLeft slot ∨ s.unackedOf slot then .next s
  else
    let (st, detail, ctx) := KillCause.status y.kill
    match s.writeCompl (complRef slot) y.vf slot (s.complOf y) (complBytes st detail y.seq ctx y.bindCycle s.cycle) with
    | .past s1 => .next ((((s1.chargeAll.letGo slot).idleRecord y).freeEntry slot).endVf y.vf)
    | .waits s1 _ => .next s1
    | .hole pa => .fault (.noSuchAddress pa)

/-- DRAIN_MARKER_COMPLETE: the marker of a stack completes; after the last one the kill does, once nothing it waits for stands (R342). -/
def execDrainMarkerComplete (slot stack : Nat) (s : State) : Host.Outcome State Fault Refusal :=
  match Tbl.get? s.slots slot with
  | none => .next s
  | some x =>
    if x.rolling = false ∨ x.markers.any (fun m => m.1 = stack && !s.drained x.vf stack m.2) then .next s
    else
      let y := { x with markers := x.markers.filter (fun m => m.1 ≠ stack) }
      (s.setSlot slot y).completeKill slot y

/-! ## Rollback (R15, R346, R347) -/

/-- The domain node of a region: the nearest at or above it whose own FDOM and OVR bit 2 are 1 (R15). -/
def State.domainOf (s : State) (rcb : Nat) : Option Nat :=
  (s.path rcb).find? (fun n => match Tbl.get? s.rcbs n with
    | some x => x.get .fdom = 1 && x.ovrBit 2
    | none => false)

/-- An old sector written back by a Winze; the mark of a damaged one goes (R346, R368). -/
def State.undoSector (s : State) (u : UndoRec) : State :=
  let s1 := s.recallLine u.pa
  ({ s1 with poison := s1.poison.filter (· ≠ u.pa) } : State).writeThrough ⟨2 ^ 24, 0⟩ (winzeLoc u.stack (s.vfOf u.slot))
    ⟨u.pa, .rc, .coh, 0, false, false, none⟩ u.pa u.old .dev

/-- Undo records in descending sequence. -/
def insertUndo (u : UndoRec) : List UndoRec → List UndoRec
  | [] => [u]
  | v :: rest => if v.seq < u.seq then u :: v :: rest else v :: insertUndo u rest

/-- The control context of a checkpoint (R182, R346). -/
def Checkpoint.context (k : Checkpoint) (slot engine cycle : Nat) (ph : Phase) : Context :=
  { Context.blank with
    slot := slot, num := 0, kind := .cc, engine := engine, phase := ph, pc := k.pc, s := k.s, p := k.p, loops := k.loops, hd := k.hd
    fcsr := k.fcsr, epc := k.epc, tvec := k.tvec, wdog := k.wdog, lastIssue := cycle }

/-- An instance of a rolled-back domain restarts from its checkpoint, or is killed (R346). -/
def State.restart (s : State) (slot : Nat) : State :=
  match Tbl.get? s.slots slot with
  | none => s
  | some x =>
    let dead (t : State) : State :=
      t.setSlot slot { x.setState 6 with kill := some (.reason 0x0300), rolling := false, markers := [] }
    match x.ckpt with
    | none => dead s
    | some k =>
      if !k.valid || decide (2 ≤ k.rollbacks) then dead s
      else
        let s1 := s.resetShared slot
        let y := { x with ckpt := some { k with rollbacks := k.rollbacks + 1 }, kill := none, rolling := false, leases := [], offer := none, yieldAsked := none }
        let c := (k.context slot x.ccore s.cycle (if x.state = 2 then .ready else .stopped)).putS k.dest 2
        let s2 := s1.setSlot slot y
        let s3 : State := { s2 with undo := s2.undo.filter (fun u => u.slot ≠ slot), steps := s2.steps.filter (fun c => c.2.slot ≠ slot) }
        s3.addContext (s3.withWindows y c)

/-- ROLLBACK of a domain: every instance quiesced and its markers queued; once all have drained, the logs are replayed and each instance
restarts or is killed. -/
def execRollback (rcb : Nat) (s : State) : Host.Outcome State Fault Refusal :=
  .next (
    let dom := (s.slots.filter (fun x => x.2.bound && (s.path x.2.rcbx).contains rcb)).map (·.1)
    let at_ (k : Nat) (p : Slot → Bool) : Bool := (Tbl.get? s.slots k).any p
    let struck := dom.any (fun k => at_ k (fun x => x.kill = some .rollback && s.domainOf x.rcbx = some rcb))
    if !struck then s
    else if dom.any (fun k => at_ k (fun x => !x.rolling)) then
      (dom.filter (fun k => at_ k (fun x => !x.rolling))).foldl (fun t k =>
        let t1 := t.quiesce k true
        match Tbl.get? t1.slots k with
        | some y => t1.setSlot k { y with markers := t1.newMarkers, rolling := true, kill := some .rollback }
        | none => t1) s
    else if dom.any (fun k => at_ k (fun x => !x.markers.isEmpty) || s.sitLeft k || s.unackedOf k) then s
    else
      let logs := (s.undo.filter (fun u => dom.contains u.slot)).foldl (fun l u => insertUndo u l) []
      dom.foldl State.restart (logs.foldl State.undoSector s))

/-! ## Scrubbing and marks (R366 to R368) -/

/-- An uncorrectable error in what the engines hold for an instance (R314, R368): it is attributed to the instance, which issues nothing more. -/
def State.strike (s : State) (slot : Nat) : State := if (Tbl.get? s.slots slot).any Slot.bound then s.markContained [slot] else s

/-- An uncorrectable error in a trough's counters: they read as nothing the invariants allow until TRESYNC makes them anew (R314, assumption 2). -/
def State.strikeCounter (s : State) (k : Nat) : State :=
  match Tbl.get? s.troughs k with
  | none => s
  | some t => ({ s with free := s.free + 1 } : State).setTrough k { t with claimed := 2 * t.cap + 1 + (Config.freeWord s.free).toNat }

/-- The address of a scrubbed sector. -/
def scrubPa (u : ScrubUnit) (sector : Nat) : Nat :=
  match u with
  | .stack _ => 32 * sector
  | .group g => 0x400000000000 + g * 2 ^ 24 + 32 * (sector % 2 ^ 19)

/-- The sector belongs to the unit. -/
def scrubOk (u : ScrubUnit) (sector : Nat) : Bool :=
  match u with
  | .stack n => paKind (32 * sector) == .hbm && stackOf (32 * sector) = n
  | .group g => decide (g < 32)

/-- A sector marked; with no instance to attribute it to, an HBM4 sector is reported (R368). -/
def State.mark (s : State) (pa : Nat) : State :=
  let s1 := if s.poison.contains pa then s else { s with poison := s.poison ++ [pa] }
  let l := s.attributedTo pa
  if l.isEmpty then (if paKind pa = .hbm then s1.report ⟨2, 0xFF, 0, 0, BitVec.ofNat 64 pa, 0, 0⟩ else s1)
  else s1.markContained l

/-- SCRUB: clean and corrected sectors hold what they held. -/
def execScrub (u : ScrubUnit) (sector : Nat) (f : ScrubFinding) (s : State) : Host.Outcome State Fault Refusal :=
  .next (match f with
    | .clean => s
    | .correctable => s
    | .uncorrectable => if scrubOk u sector then s.mark (scrubPa u sector) else s)

end Sys2Proof.Machine
end

