-- ==== Sys2Proof/Machine/Fabric.lean ====
section
/-! DEFINITION. The fabric (R371 to R382, R387, R409): arriving messages, forwarding, coded multicast, and remote memory. -/
namespace Sys2Proof.Machine

/-! ## Form and place of a message (R372, R373) -/

/-- A message that is malformed, or is not of the type its arrival names. -/
def badMsg (type : Nat) (m : Msg) : Bool :=
  m.type != type || fieldN m.header 103 97 != 0 || decide (4096 < m.len) || m.payload.length != m.len ||
  (if type = MsgType.coded then !((m.ncomp == 2 || m.ncomp == 3) && m.comps.length == m.ncomp) else m.ncomp != 0 || !m.comps.isEmpty)

/-- Discarded and counted (R372, R410). -/
def State.discard (s : State) : State := { s with dortas := { s.dortas with packets := s.dortas.packets + 1 } }

def State.isLocal (s : State) (ep : Word) : Bool := epDev ep = s.devaddr

/-- A message that waits in the device and is tried again. -/
def State.holdMsg (s : State) (m : Msg) : State := { s with replayHeld := s.replayHeld ++ [m] }

/-- What an accepted packet does, once a replay presents it (R404 kind 2, R405). -/
def State.accept (s : State) (m : Msg) (f : State → State) : State :=
  if s.presents (epVf m.dest) 2 m.psn.toNat m.src.toNat then (f s).capture (epVf m.dest) 2 else s.holdMsg m

/-- The transport's answer to a packet: an ACK, or a DNAK with its reason. -/
def answer (m : Msg) (type : Nat) (reason : BitVec 32) : Msg := plainMsg m.src m.dest reason m.tag m.mseq type m.psn

/-- A packet that no one expects: acknowledged so that it is not sent again, and counted (R372). -/
def State.unexpected (s : State) (m : Msg) : State := (s.send (answer m MsgType.ack 0)).discard

/-! ## Forwarding (R374) -/

/-- The prefix of a route entry matches an address. -/
def FabRoute.matches_ (r : FabRoute) (a : BitVec 32) : Bool := (a >>> (32 - r.len)) == (r.value >>> (32 - r.len))

/-- The entry of longest prefix. -/
def State.routeFor (s : State) (a : BitVec 32) : Option FabRoute :=
  (s.fabric.routes.map (·.2)).foldl (fun b r =>
    if r.matches_ a then (match b with
      | none => some r
      | some q => if q.len < r.len then some r else some q)
    else b) none

def aditsOf (m : BitVec 16) : List Nat := (List.range 16).filter (fun i => m.getLsbD i)

/-- Ordered delivery takes the set's lowest Adit (R371, R374). -/
def ordered (type : Nat) : Bool := [MsgType.cts, MsgType.sia, MsgType.siw, MsgType.cmd, MsgType.cmdResp, MsgType.preq, MsgType.preqReply].contains type

/-- A packet leaves by an Adit of its route: the lowest, or whichever the spraying takes. With no route, one of this device leaves all the
same and one in transit is discarded (assumption 58). -/
def State.emit (s : State) (m : Msg) : State :=
  match s.routeFor (epDev m.dest) with
  | none => if epDev m.src = s.devaddr then s.send m else s.discard
  | some r =>
    let l := aditsOf r.adits
    match (if ordered m.type then l.head? else l[(Config.freeWord s.free).toNat % l.length]?) with
    | none => s.discard
    | some j => ({ s with free := s.free + 1 } : State).send { m with adit := j }

/-- An unordered packet in transit waits at its egress; an ordered one passes on. -/
def State.transit (s : State) (m : Msg) : State :=
  if m.type = MsgType.data then { s with fabric := { s.fabric with egress := s.fabric.egress ++ [⟨m, false⟩] } } else s.emit m

/-! ## Clear-to-send and data (R375, R376) -/

/-- CTS: held for its send; beyond the step engines' 2 × 1,024 it is refused at the transport and sent again. -/
def execCts (m : Msg) (s : State) : Host.Outcome State Fault Refusal :=
  .next (
    if badMsg MsgType.cts m then s.discard
    else if !s.isLocal m.dest then s.transit m
    else if (Tbl.get? s.vfs (epVf m.dest)).isNone then s.unexpected m
    else if s.fabric.ctsHeld.length < 2048 then s.accept m (fun s => { s with fabric := { s.fabric with ctsHeld := s.fabric.ctsHeld ++ [m] } })
    else s)

/-- The fired receive a DATA packet is for: handle and step. -/
def State.receiverOf (s : State) (m : Msg) : Option (Nat × Armed) :=
  s.steps.findSome? (fun (h, c) =>
    if s.vfOf c.slot = epVf m.dest ∧ c.status.isNone then
      (c.store.find? (fun a => (a.op = .recv || a.op = .rrs) && a.started && a.peerA = m.src && a.tag = m.tag && BitVec.ofNat 24 a.matchA = m.mseq)).map (fun a => (h, a))
    else none)

/-- A DATA packet's OFF and LEN fit its receive (R375). -/
def Armed.wellFormed (a : Armed) (off len : Nat) : Bool :=
  if a.len = 0 then off = 0 && len = 0 else off % 4096 = 0 && decide (off < a.len) && len = min 4096 (a.len - off)

/-- Each element added once at its Winze (R272, R376). -/
def rrsAdd (h : Nat) (bf : Bool) : List (Nat × Piece) → List Byte → StepAct Unit
  | [], _ => pure ()
  | (_, p) :: rest, bs => do
    let c ← stepGet h
    let n := if bf then 2 else 4
    modify (fun s => (List.range (p.len / n)).foldl (fun t i =>
      t.winzeAddFree (stepRef c.slot h) bf p.page.ckpt (p.pa + n * i) (leNat ((bs.drop (n * i)).take n)) .dev) s)
    rrsAdd h bf rest (bs.drop p.len)

/-- The additions of a payload wait until each line is clear of the L1s and of what stands before them (R281, R320), and for a replay (R405). -/
def rrsReady (h : Nat) (ps : List (Nat × Piece)) : StepAct Unit := do
  let c ← stepGet h
  let s ← get
  let vf := s.vfOf c.slot
  let bad := ps.filter (fun x => !s.winzeReady vf x.2.pa x.2.len)
  let shown : Bool := match ps with
    | [] => true
    | (_, p) :: _ => s.presents vf 6 (p.pa / 32) (stepRef c.slot h).num
  if bad.isEmpty && shown then pure ()
  else
    modify (fun s => bad.foldl (fun t x => t.recallLine x.2.pa) s)
    stepWait

/-- The payload of a receive written or added, noted and acknowledged (R375 step 4). -/
def takeData (h age : Nat) (m : Msg) : StepAct Unit := do
  let c ← stepGet h
  match c.armed age with
  | none => pure ()
  | some a =>
    let va := a.lbuf + BitVec.ofNat 64 m.off
    let ids ← if a.op = .rrs then (do
        let bf := a.fl.getLsbD 0
        let ps ← stepSpan h (rrsSide 3 bf) va m.len
        rrsReady h ps
        let s0 ← get
        rrsAdd h bf ps m.payload
        let s1 ← get
        pure ((s1.coh.filter (fun r => decide (s0.nextId ≤ r.id))).map (·.id)))
      else (do
        let ps ← stepSpan h (rawSide 2) va m.len
        stepStore h ps m.payload)
    modify (fun s =>
      let s1 := (({ s with fabric := { s.fabric with accepted := s.fabric.accepted ++ [(m.src, m.psn)] } } : State).meter c.slot 9 m.len).capture (epVf m.dest) 2
      (s1.setStep h (fun c => c.setArmed { a with
        got := a.got ++ [m.off], ids := a.ids ++ ids, owed := a.owed ++ [(ids, answer m MsgType.ack 0)] })).payOwed h age)

/-- What becomes of a payload: it is taken, waits, or stops the receiving context, which acknowledges it all the same (R376). -/
def State.takePayload (s : State) (h age : Nat) (m : Msg) : Moved :=
  match takeData h age m s with
  | .ok (_, t) => .next t
  | .error (.wait t) => .next (t.holdMsg m)
  | .error (.stop code detail) => .next ((s.send (answer m MsgType.ack 0)).stepStop h code detail)
  | .error (.hole pa) => .fault (.noSuchAddress pa)

/-- A DATA packet for a VF of this device. -/
def State.deliverData (s : State) (m : Msg) : Moved :=
  let ack := answer m MsgType.ack 0
  if s.fabric.accepted.contains (m.src, m.psn) then .next (s.send ack)
  else
    match s.receiverOf m with
    | none =>
      .next (if s.steps.any (fun c => s.vfOf c.2.slot = epVf m.dest && c.2.status.isSome) then s.send ack else s.unexpected m)
    | some (h, a) =>
      if !a.wellFormed m.off m.len then .next ((s.send ack).stepStop h Code.stepProgram 5)
      else if a.got.contains m.off then .next (s.send ack)
      else if !s.presents (epVf m.dest) 2 m.psn.toNat m.src.toNat then .next (s.holdMsg m)
      else s.takePayload h a.age m

def execData (m : Msg) (s : State) : Host.Outcome State Fault Refusal :=
  if badMsg MsgType.data m then .next s.discard
  else if s.isLocal m.dest then s.deliverData m
  else .next (s.transit m)

/-! ## Acknowledgement and retransmission (R382) -/

/-- The record of a sent message that an answer names. -/
def State.sentAs (s : State) (m : Msg) : Option TxRec := s.fabric.unacked.find? (fun t => t.psn = m.psn && epDev t.msg.dest = epDev m.src)

def execAck (m : Msg) (s : State) : Host.Outcome State Fault Refusal :=
  .next (
    if badMsg MsgType.ack m then s.discard
    else if !s.isLocal m.dest then s.transit m
    else
      match s.sentAs m with
      | some t => s.accept m (fun s => { s with fabric := { s.fabric with unacked := s.fabric.unacked.erase t } })
      | none => s)

/-- A payload sent again, uncoded and never coded on its way (R379, R382). -/
def State.resend (s : State) (t : TxRec) : State :=
  if t.msg.type = MsgType.data then
    { s with fabric := { s.fabric with egress := s.fabric.egress ++ [⟨{ t.msg with header := setField t.msg.header 96 96 0 }, true⟩] } }
  else s.send t.msg

def execDnak (m : Msg) (s : State) : Host.Outcome State Fault Refusal :=
  .next (
    if badMsg MsgType.dnak m then s.discard
    else if !s.isLocal m.dest then s.transit m
    else
      match s.sentAs m with
      | some t => s.accept m (fun s => s.resend t)
      | none => s)

/-- RETRANSMIT_TIMEOUT of a sequence number that awaits its acknowledgement. -/
def execRetransmitTimeout (psn : Nat) (s : State) : Host.Outcome State Fault Refusal :=
  .next (match s.fabric.unacked.find? (fun t => t.psn.toNat = psn) with
    | some t => s.resend t
    | none => s)

/-! ## Side information (R378, R389) -/

/-- The summary record of an SIA or SIW. -/
def siaRec (m : Msg) : SiaRec :=
  ⟨BitVec.ofNat 64 (leNat (m.payload.take 8)), BitVec.ofNat 16 (leNat ((m.payload.drop 8).take 2)), m.payload.getD 10 0, m.payload.getD 11 0,
   BitVec.ofNat 32 (leNat ((m.payload.drop 12).take 4))⟩

/-- Entered, dropped or withdrawn, then acknowledged. -/
def State.sideInfo (s : State) (type : Nat) (f : State → SiaRec → State) (m : Msg) : State :=
  if badMsg type m || m.len != 16 then s.discard
  else if !s.isLocal m.dest then s.transit m
  else (f s (siaRec m)).send (answer m MsgType.ack 0)

def execSia (m : Msg) (s : State) : Host.Outcome State Fault Refusal := .next (s.sideInfo MsgType.sia State.enterSia m)
def execSiw (m : Msg) (s : State) : Host.Outcome State Fault Refusal := .next (s.sideInfo MsgType.siw State.removeSia m)

/-! ## Coded multicast (R379 to R381) -/

/-- The bytes of a SIT buffer, from a die's entry, as loads at dev scope; `none` where they do not translate at once or may not be read. -/
def State.sitBytes (s : State) (e : SitEntry) (off n : Nat) : Option (List Byte) :=
  ((sectorCuts (e.buf.toNat + off) (n / 32 + 2) n).mapM (fun (va, k) =>
    match translateFull s e.vf (BitVec.ofNat 64 va) 1 with
    | .ok i => if i.remote.isSome || paKind i.pa == PaKind.hole || !(s.bankCheck i.pa).2 || s.poisoned i.pa then none else some (bytesFrom s.devByte i.pa k)
    | .fault _ _ => none
    | .miss _ _ => none)).map List.flatten

/-- The blocks of the other components, if every lookup of R381 succeeds. -/
def State.sideBlocks (s : State) (die vf len : Nat) : List Comp → Option (List (List Byte × (Nat × BitVec 16 × BitVec 8)))
  | [] => some []
  | k :: rest =>
    match s.sitFind die vf k.blkid k.blkg with
    | none => none
    | some e =>
      if e.retiring || decide (e.len < k.off.toNat + len) then none
      else
        match s.sitBytes e k.off.toNat len, State.sideBlocks s die vf len rest with
        | some bs, some more => some ((bs, e.key) :: more)
        | _, _ => none

def xorBytes (a b : List Byte) : List Byte := List.zipWith (· ^^^ ·) a b

/-- The DATA packet that a component stands for. -/
def compMsg (m : Msg) (a : Comp) (payload : List Byte) : Msg :=
  { header := mkHeader a.dest a.src a.blkid a.blkg false a.off m.len a.tag a.mseq (BitVec.ofNat 8 m.cgrp) MsgType.data
    comps := [], rma := 0, payload := payload, psn := a.psn, adit := m.adit }

/-- One local component decoded on its own (R381). -/
def State.decode (s : State) (m : Msg) (a : Comp) : Moved :=
  let d := compMsg m a m.payload
  let nak (reason : BitVec 32) : Msg := answer d MsgType.dnak reason
  if s.fabric.accepted.contains (d.src, d.psn) then .next (s.send (answer d MsgType.ack 0))
  else
    match s.receiverOf d with
    | none => .next (s.unexpected d)
    | some (h, r) =>
      match Tbl.get? s.steps h with
      | none => .next (s.unexpected d)
      | some c =>
        if 256 ≤ (s.fabric.decoding.filter (fun b => b.adit = m.adit && decide (s.cycle < b.until_))).length then
          .next ((s.send (nak 1)).post c.starter ⟨Code.bufferFallback, 0, BitVec.ofNat 64 m.adit, true⟩)
        else
          match s.sideBlocks c.die (epVf a.dest) m.len (m.comps.filter (· ≠ a)) with
          | none =>
            let s1 := s.send (nak 0)
            .next (if r.op = .recv ∧ r.fl.getLsbD 1 = true then s1.stepStop h Code.sitDecode 0
              else s1.post c.starter ⟨Code.decodeFallback, 0, a.blkid.setWidth 64, true⟩)
          | some bl =>
            let till := s.cycle + (Config.freeWord s.free).toNat % 65
            ({ s with
              free := s.free + 1
              fabric := { s.fabric with
                decoding := s.fabric.decoding.filter (fun b => decide (s.cycle < b.until_)) ++ [⟨m.adit, till, bl.map (·.2)⟩] } } : State).deliverData
              { d with payload := bl.foldl (fun x b => xorBytes x b.1) m.payload }

/-- The local components one after another. -/
def State.decodeAll (s : State) (m : Msg) : List Comp → Moved
  | [] => .next s
  | a :: rest =>
    match s.decode m a with
    | .next s1 => State.decodeAll s1 m rest
    | .fault f => .fault f
    | .refused r => .refused r

/-- A CODED packet goes on unchanged to every further Adit that its other destinations need. -/
def State.passCoded (s : State) (m : Msg) : State :=
  let outs := (m.comps.filter (fun k => !s.isLocal k.dest)).filterMap (fun k => (s.routeFor (epDev k.dest)).bind (fun r => (aditsOf r.adits).head?))
  let l := (outs.filter (fun j => j ≠ m.adit)).foldl (fun acc j => if acc.contains j then acc else acc ++ [j]) []
  l.foldl (fun t j => t.send { m with adit := j }) s

def execCoded (m : Msg) (s : State) : Host.Outcome State Fault Refusal :=
  if badMsg MsgType.coded m then .next s.discard
  else (s.passCoded m).decodeAll m (m.comps.filter (fun k => s.isLocal k.dest))

/-- The Adits of a packet's route, the one a coded copy takes being the lowest. -/
def State.codedAdit (s : State) (m : Msg) : Option Nat := (s.routeFor (epDev m.dest)).bind (fun r => (aditsOf r.adits).head?)

/-- Whether a set of queued packets may be combined (R379). -/
def State.mayCode (s : State) (ps : List Queued) : Bool :=
  let ok (q : Queued) : Bool := !q.retrans && q.msg.type == MsgType.data && q.msg.code && q.msg.cgrp != 0 && decide (1 ≤ q.msg.len) &&
    !s.isLocal q.msg.dest && (s.codedAdit q.msg).any Config.directAdit
  match ps with
  | [] => false
  | p :: _ =>
    ps.all ok && ps.all (fun q => q.msg.cgrp = p.msg.cgrp && q.msg.len = p.msg.len && epVf q.msg.dest = epVf p.msg.dest) && s.fabric.cgrps.contains p.msg.cgrp &&
    (ps.zipIdx).all (fun (a, i) => (ps.zipIdx).all (fun (b, j) => i == j ||
      (a.msg.dest != b.msg.dest && s.fabric.summary.any (fun r => r.ep = a.msg.dest && r.blkid = b.msg.blkid && r.blkg = b.msg.blkg &&
        decide (b.msg.off + b.msg.len ≤ r.len.toNat)))))

/-- The set the switch takes: the highest degree, then the oldest partner. -/
def State.codeSet (s : State) (p : Queued) (rest : List Queued) : Option (List Queued) :=
  let pairs := (rest.zipIdx).flatMap (fun (a, i) => (rest.drop (i + 1)).map (fun b => [p, a, b]))
  (pairs.find? s.mayCode).or ((rest.map (fun a => [p, a])).find? s.mayCode)

def compOf (m : Msg) : Comp := ⟨m.dest, m.src, BitVec.ofNat 32 m.off, m.blkid, m.blkg, m.tag, m.mseq, m.psn⟩

def insertComp (c : Comp) : List Comp → List Comp
  | [] => [c]
  | d :: rest => if c.dest.toNat ≤ d.dest.toNat then c :: d :: rest else d :: insertComp c rest

/-- The CODED packet of a set (R373, R379). -/
def codedMsg (src : Word) (ps : List Queued) : Msg :=
  let ms := ps.map (·.msg)
  let p := ms.headD ⟨0, [], 0, [], 0, 0⟩
  let h := mkHeader 0 src 0 0 false 0 p.len 0 0 (BitVec.ofNat 8 p.cgrp) MsgType.coded
  { header := setField h 50 48 ps.length, comps := ms.foldl (fun l m => insertComp (compOf m) l) []
    rma := 0, payload := (ms.drop 1).foldl (fun x m => xorBytes x m.payload) p.payload, psn := 0, adit := 0 }

/-- CODED_FORM: the packet at the head of an Adit's egress combined with partners queued behind it. -/
def execCodedForm (adit : Nat) (s : State) : Host.Outcome State Fault Refusal :=
  .next (
    match s.fabric.egress.find? (fun q => s.codedAdit q.msg = some adit) with
    | none => s
    | some p =>
      match s.codeSet p (s.fabric.egress.erase p) with
      | none => s
      | some ps =>
        let outs := (ps.filterMap (fun q => s.codedAdit q.msg)).foldl (fun acc j => if acc.contains j then acc else acc ++ [j]) []
        let m := codedMsg (s.endpoint 0xFF) ps
        outs.foldl (fun t j => t.send { m with adit := j })
          { s with fabric := { s.fabric with egress := s.fabric.egress.filter (fun q => !ps.contains q) } })

/-- PACKET_FORWARD: a queued packet leaves its egress, or is delivered on this device; any other passes through. -/
def execPacketForward (m : Msg) (s : State) : Host.Outcome State Fault Refusal :=
  match s.fabric.egress.find? (fun q => q.msg = m) with
  | some q =>
    let s1 := { s with fabric := { s.fabric with egress := s.fabric.egress.erase q } }
    if s.isLocal m.dest || (s.routeFor (epDev m.dest)).any (·.local_) then s1.deliverData m else .next (s1.emit m)
  | none => .next (if s.isLocal m.dest then s else s.transit m)

/-! ## Remote memory access (R377, R387, R409) -/

def rmaOffset (m : Msg) : Nat := fieldN m.rma 127 64
def rmaRid (m : Msg) : Nat := fieldN m.rma 47 32
def rmaLen (m : Msg) : Nat := fieldN m.rma 31 19
def rmaKind (m : Msg) : Nat := fieldN m.rma 18 16
def rmaStatus (m : Msg) : Nat := fieldN m.rma 15 8
def rmaWindow (m : Msg) : Nat := fieldN m.rma 3 0

/-- Malformed RMA records (R409). -/
def badRma (write : Bool) (m : Msg) : Bool :=
  fieldN m.rma 63 48 != 0 || fieldN m.rma 7 4 != 0 || decide ((if write then 2 else 1) < rmaKind m) || (write && rmaLen m != m.len) || decide (4096 < rmaLen m)

/-- The response that echoes a request's record. -/
def State.rmaAnswer (s : State) (m : Msg) (status : Nat) (bs : List Byte) : State :=
  s.send { header := mkHeader m.src m.dest 0 0 false 0 bs.length 0 0 0 MsgType.rmaResp, comps := []
           rma := setField m.rma 15 8 status, payload := bs, psn := 0, adit := 0 }

/-- The IPA of a request: within a window for the host, the record's OFFSET for another G7 (assumption 12). -/
def State.rmaIpa (s : State) (m : Msg) (write : Bool) : Option Nat :=
  if s.boot.mgmt.contains m.src then
    ((Tbl.get? s.vfs (epVf m.dest)).bind (fun v => Tbl.get? v.rma (rmaWindow m))).bind (fun w =>
      if rmaOffset m + rmaLen m ≤ w.len ∧ (if write then w.w else w.r) = true then some (w.base + rmaOffset m) else none)
  else some (rmaOffset m)

/-- Under what name a remote device's access waits on a page of a VF. -/
def rmaRef (vf : Nat) : CtxRef := ⟨2 ^ 23 + vf, 0⟩

/-- How the sectors of a request translate. -/
inductive RmaSpan where
  | ok (l : List (Nat × Nat)) | unmapped | miss (ipa : Nat)

/-- Stage 2 of every sector of a request (R387). -/
def State.rmaSpan (s : State) (vf : Nat) (rights : BitVec 3) : List (Nat × Nat) → RmaSpan
  | [] => .ok []
  | (ipa, n) :: rest =>
    match stage2 s vf ipa rights with
    | .fault _ _ => .unmapped
    | .miss p _ => .miss p
    | .ok (pa, _) =>
      if (match paKind pa with
        | .hbm => false
        | .sram _ _ => !(s.bankCheck pa).2
        | .remote => true
        | .hole => true) then .unmapped
      else
        match State.rmaSpan s vf rights rest with
        | .ok l => .ok ((pa, n) :: l)
        | .unmapped => .unmapped
        | .miss p => .miss p

/-- Copies of a sector in the Adits' window read buffers are dropped (R284, R299). -/
def State.dropWindows (s : State) (pa : Nat) : State :=
  { s with fabric := { s.fabric with winBufs := s.fabric.winBufs.filter (fun b => b.pa ≠ pa / 32 * 32) } }

/-- One sector of a host's write, performed at every scope in one move: a whole sector clears a mark, part of a marked one is not performed and is
attributed (R299, R368, R387). -/
def State.hostWrite (s : State) (pa : Nat) (bs : List Byte) : State :=
  if s.poisoned pa then
    if bs.length = 32 then (({ s with poison := s.poison.filter (· ≠ pa) } : State).settle pa bs).dropWindows pa
    else s.markContained (s.attributedTo pa)
  else (s.settle pa bs).dropWindows pa

/-- Where the contexts of other G7s stand, seen from this one (R278). -/
def peerLoc (vf : Nat) : Loc := ⟨364, 65, vf⟩

/-- One sector of another G7's write, performed at grp, dev and fab in one move (R284). -/
def State.peerWrite (s : State) (vf pa : Nat) (bs : List Byte) : State :=
  if s.poisoned pa then s.markContained (s.attributedTo pa)
  else s.writeThrough ⟨2 ^ 24, 1⟩ (peerLoc vf) ⟨pa, .rc, .coh, 0, false, false, none⟩ pa bs .fab

/-- That move may be made: what stands before the bytes is visible as far (R281). -/
def State.peerReady (s : State) (vf : Nat) (l : List (Nat × Nat)) : Bool := l.all (fun x => State.inOrder s.coh (peerLoc vf) x.1 x.2 .fab)

def State.rmaWriteAll (s : State) (host : Bool) (vf : Nat) : List (Nat × Nat) → List Byte → State
  | [], _ => s
  | (pa, n) :: rest, bs => State.rmaWriteAll (if host then s.hostWrite pa (bs.take n) else s.peerWrite vf pa (bs.take n)) host vf rest (bs.drop n)

/-- What a request that misses comes to: NOTMAPPED for the host; for another G7 a page request of the VF, which
the request waits for, and DENIED once it is refused (R377, R387). -/
def State.rmaMiss (s : State) (m : Msg) (ipa : Nat) (rights : BitVec 3) (reply : Bool) : State :=
  let vf := epVf m.dest
  if s.boot.mgmt.contains m.src then (if reply then s.rmaAnswer m 3 [] else s)
  else if s.dortas.denied.contains (rmaRef vf, ipa) then
    let s1 := { s with dortas := { s.dortas with denied := s.dortas.denied.filter (fun d => d ≠ (rmaRef vf, ipa)) } }
    if reply then s1.rmaAnswer m 1 [] else s1
  else
    ({ s with fabric := { s.fabric with rmaHeld := if s.fabric.rmaHeld.contains m then s.fabric.rmaHeld else s.fabric.rmaHeld ++ [m] } } : State).joinRequest
      vf (rmaRef vf) ipa rights

def execRmaWr (m : Msg) (s : State) : Host.Outcome State Fault Refusal :=
  .next (
    if badMsg MsgType.rmaWr m || badRma true m then s.discard
    else if !s.isLocal m.dest then s.transit m
    else if (Tbl.get? s.vfs (epVf m.dest)).isNone then s.unexpected m
    else
      let reply := rmaKind m != 0
      let fail (t : State) : State := if reply then t.rmaAnswer m 3 [] else t
      match s.rmaIpa m true with
      | none => fail s
      | some ipa =>
        match s.rmaSpan (epVf m.dest) 2 (sectorCuts ipa (m.len / 32 + 2) m.len) with
        | .unmapped => fail s
        | .miss p => s.rmaMiss m p 2 reply
        | .ok l =>
          let host := s.boot.mgmt.contains m.src
          if !host && !s.peerReady (epVf m.dest) l then s.holdMsg m
          else
            s.accept m (fun s =>
              let s1 := s.rmaWriteAll host (epVf m.dest) l m.payload
              if reply then s1.rmaAnswer m 0 [] else s1))

/-- A sector of a WINDOW read: a copy at most 65,536 cycles old where the buffer answers, else the home's (R299). -/
def State.windowRead (s : State) (vf pa n : Nat) : State × List Byte :=
  let base := pa / 32 * 32
  let fresh (b : WinBuf) : Bool := b.vf = vf && b.pa = base && decide (s.cycle ≤ b.since + 65536)
  let s1 := { s with free := s.free + 1 }
  match (if (Config.freeWord s.free).getLsbD 0 then s.fabric.winBufs.find? fresh else none) with
  | some b => (s1, (b.bytes.drop (pa - base)).take n)
  | none =>
    let b : WinBuf := ⟨vf, base, bytesFrom s.devByte base 32, s.cycle⟩
    ({ s1 with fabric := { s.fabric with winBufs := b :: s.fabric.winBufs.filter (fun x => !(x.vf = vf && x.pa = base)) } }, (b.bytes.drop (pa - base)).take n)

/-- The host's reads, DIRECT ones at the home; another G7 sees what is performed at fab (R279, R299). -/
def State.rmaReadAll (s : State) (host window : Bool) (vf : Nat) : List (Nat × Nat) → State × List Byte
  | [] => (s, [])
  | (pa, n) :: rest =>
    let (s1, bs) := if !host then (s, bytesFrom (s.viewByte (peerLoc vf)) pa n) else if window then s.windowRead vf pa n else (s, bytesFrom s.devByte pa n)
    let (s2, more) := State.rmaReadAll s1 host window vf rest
    (s2, bs ++ more)

def execRmaRd (m : Msg) (s : State) : Host.Outcome State Fault Refusal :=
  .next (
    if badMsg MsgType.rmaRd m || badRma false m then s.discard
    else if !s.isLocal m.dest then s.transit m
    else if (Tbl.get? s.vfs (epVf m.dest)).isNone then s.unexpected m
    else
      match s.rmaIpa m false with
      | none => s.rmaAnswer m 3 []
      | some ipa =>
        match s.rmaSpan (epVf m.dest) 1 (sectorCuts ipa (rmaLen m / 32 + 2) (rmaLen m)) with
        | .unmapped => s.rmaAnswer m 3 []
        | .miss p => s.rmaMiss m p 1 true
        | .ok l =>
          match l.find? (fun x => s.poisoned x.1) with
          | some (pa, _) => (s.markContained (s.attributedTo pa)).rmaAnswer m 3 []
          | none =>
            s.accept m (fun s =>
              let (s1, bs) := s.rmaReadAll (s.boot.mgmt.contains m.src) (rmaKind m == 1) (epVf m.dest) l
              s1.rmaAnswer m 0 bs))

/-! ## Responses to this device's accesses (R284, R377) -/

/-- The answer to a read, given to whoever asked: a waiting context, a copy, a step. -/
def State.readAnswer (s : State) (r : RemoteReq) (a : Option (List Byte)) : State :=
  if 2 ^ 20 ≤ r.by_.num then
    let h := r.by_.num - 2 ^ 20
    s.setStep h (fun c => { c with store := c.store.map (fun x => match x.asked.find? (fun q => q.2 = r.rid) with
      | some (va, _) => { x with answers := x.answers ++ [(va, a)] }
      | none => x) })
  else s.setCtx r.by_ (fun c => { c with
    remoteLd := match c.remoteLd with
      | some (va, id, none) => if id = r.rid then some (va, id, some a) else c.remoteLd
      | some (_, _, some _) => c.remoteLd
      | none => none
    copyq := c.copyq.map (fun e => match e.asked.find? (fun q => q.2 = r.rid) with
      | some (key, _) => { e with answers := e.answers ++ [(key, a)] }
      | none => e) })

/-- A denied store: an asynchronous PERMISSION with detail 1, if the issuer has room for it; a copy's ends the copy, a step's its context (R363, R377).
`none`: there is no room, and the sector request stays outstanding. -/
def State.storeDenied (s : State) (r : RemoteReq) (id pa : Nat) : Option State :=
  let gone (t : State) : State := { t with hold := t.hold.filter (fun q => !(q.id = id && q.pa = pa)) }
  let named (n : Nat) : Bool := s.hold.any (fun q => q.id = id && q.pa = pa && q.also.any (fun x => x.2 = n))
  if 2 ^ 20 ≤ r.by_.num then some (gone (s.stepStop (r.by_.num - 2 ^ 20) Code.permission 1))
  else
    match s.ctx? r.by_ with
    | none => some (gone s)
    | some c =>
      if !c.faultRoom then none
      else
        match c.copyq.find? (fun e => named e.id) with
        | some e => some (gone (s.copyFault r.by_ e.id Code.permission r.va))
        | none => some ((gone s).setCtx r.by_ (fun c => { c with faults := c.faults ++ [⟨Code.permission, 1, r.va, false⟩] }))

def execRmaResp (m : Msg) (s : State) : Host.Outcome State Fault Refusal :=
  .next (
    if badMsg MsgType.rmaResp m then s.discard
    else if !s.isLocal m.dest then s.transit m
    else
      match s.remotes.find? (fun r => r.rid % 65536 = rmaRid m) with
      | none => s
      | some r =>
        s.accept m (fun s =>
          let s1 : State := { s with remotes := s.remotes.filter (fun q => q.rid ≠ r.rid) }
          match r.store with
          | none => s1.readAnswer r (if rmaStatus m = 0 then some m.payload else none)
          | some (id, pa) => if rmaStatus m = 0 then s1.remoteDone id pa else (s1.storeDenied r id pa).getD s))

end Sys2Proof.Machine
end

