-- ==== Sys2Proof/Machine/Loader.lean ====
section
/-! DEFINITION. The loader (R49, R76, R77, R348): a program image read from bytes, or rejected. -/
namespace Sys2Proof.Machine

/-- A little-endian field of n bytes. -/
def fieldAt (bs : List Byte) (off n : Nat) : Nat := leNat ((bs.drop off).take n)

/-- The engine kind of a section entry or of an ENGM bit (R76). -/
def kindOfCode (n : Nat) : Option Kind :=
  match n with
  | 0 => some .cc
  | 1 => some .ve
  | 2 => some .he
  | 3 => some .ce
  | 4 => some .se
  | _ => none

/-- The ENGM bit of a kind (R76). -/
def engmBit (k : Kind) : Nat :=
  match k with
  | .cc => 0
  | .ve => 1
  | .he => 2
  | .ce => 3
  | .se => 4

/-- The checks of the header (R49, R77). No rule bounds NTRO, NTOK or NRDV, and a count above R47's passes as it stands (assumption 80, DESIGN
CHOICE). -/
def headerOk (h : BitVec 1024) : Bool :=
  fieldN h 31 0 == 0x4D49424D && fieldN h 47 32 == 1 && fieldN h 1023 640 == 0 && fieldN h 135 128 == 0 && fieldN h 63 53 == 0 &&
  (List.range 16).all (fun c => let v := fieldN h (199 + 8 * c) (192 + 8 * c); if c < 10 then decide (v ≤ 64) else v == 0) &&
  h.getLsbD 48 && decide (fieldN h 191 160 ≤ 15200) && decide (fieldN h 159 144 ≤ 32)

/-- One section entry of 16 bytes. -/
def sectionAt (bs : List Byte) (at_ : Nat) : Option Section_ :=
  let e : BitVec 128 := BitVec.ofNat 128 (fieldAt bs at_ 16)
  match kindOfCode (fieldN e 98 96) with
  | none => none
  | some k =>
    let n := fieldN e 95 64
    if fieldN e 127 99 ≠ 0 ∨ n % (if k = .se then 8 else 4) ≠ 0 then none else some ⟨fieldN e 63 0, n, k⟩

/-- The section table at CODEOFF. -/
def sectionsAt (bs : List Byte) (codeoff : Nat) : Option (List Section_) :=
  if fieldAt bs (codeoff + 2) 14 ≠ 0 then none
  else (List.range (fieldAt bs codeoff 2)).mapM (fun i => sectionAt bs (codeoff + 16 + 16 * i))

/-- Sections lie within CODELEN, overlap neither each other nor the table, and are of declared kinds. -/
def sectionsOk (h : BitVec 1024) (secs : List Section_) : Bool :=
  secs.all (fun x => decide (16 + 16 * secs.length ≤ x.off) && decide (x.off + x.len ≤ fieldN h 447 384) && h.getLsbD (48 + engmBit x.kind)) &&
  secs.tails.all (fun l => match l with
    | [] => true
    | x :: rest => rest.all (fun y => decide (x.off + x.len ≤ y.off ∨ y.off + y.len ≤ x.off)))

/-- A word lies in a section of one of the kinds. -/
def inKinds (secs : List Section_) (ks : List Kind) (pc : Nat) : Bool :=
  secs.any (fun x => ks.contains x.kind && decide (x.off ≤ pc) && decide (pc + 4 ≤ x.off + x.len))

def troughDeclAt (bs : List Byte) (at_ : Nat) : Option TroughDecl :=
  let e : BitVec 64 := BitVec.ofNat 64 (fieldAt bs at_ 8)
  if fieldN e 15 14 ≠ 0 ∨ fieldN e 63 32 ≠ 0 then none else some ⟨fieldN e 12 0, e.getLsbD 13, 32 * fieldN e 31 16⟩

/-- A loop entry of 32 bytes; the reserved bits of its record are those of R171, and the reserved PK 9 to 15 is rejected with them (assumption 62,
DEDUCED). -/
def rateDeclAt (bs : List Byte) (at_ : Nat) : Option RateDecl :=
  let p : BitVec 128 := BitVec.ofNat 128 (fieldAt bs at_ 16)
  let b (i n : Nat) : Nat := fieldAt bs (at_ + i) n
  if p.getLsbD 127 || fieldN p 46 44 != 0 || fieldN p 31 0 != 0 || decide (8 < rpPK p) || decide (32 ≤ b 16 1) || decide (2 ≤ b 17 1) || b 19 5 != 0 ||
    (b 17 1 == 1 && b 18 1 != 0) then none
  else some ⟨p, b 16 1, b 17 1 == 1, b 18 1, 4 * b 24 4, 4 * b 28 4⟩

/-- The checks of the loop entries (R77), and the coupling graph they declare (R175, R348). -/
def ratesOk (h : BitVec 1024) (secs : List Section_) (rs : List RateDecl) : Bool :=
  rs.all (fun r => (r.route || decide (r.src < fieldN h 111 96)) && inKinds secs [.ve, .ce, .he] r.prod && inKinds secs [.ve, .ce, .he] r.cons) &&
  rs.tails.all (fun l => match l with
    | [] => true
    | r :: rest => rest.all (fun q => q.loop != r.loop)) &&
  (unstable (rs.map (fun r => ⟨r.prod, r.cons, r.record⟩))).isNone

/-- The words that may not end a loop body: those that transfer control (R140). -/
def Instr.transfers (i : Instr) : Bool :=
  match i with
  | .beq _ | .bne _ | .blt _ | .bge _ | .bltn _ | .bgen _ | .bp _ | .jal _ | .jr _ => true
  | .loop _ | .loopi _ | .lbrk _ => true
  | .eret | .eretHalt _ | .trap _ | .yield => true
  | _ => false

/-- The instruction at an offset of a code section, if its word is one. -/
def instrAt (code : List Byte) (k : Kind) (pc : Nat) : Option Instr :=
  match (code.drop pc).take 4 with
  | [b0, b1, b2, b3] => (decodeWord k (wordOfBytes b0 b1 b2 b3)).toOption
  | _ => none

/-- The bodies of the loops of a section, each by its LOOP word, first and last body address (R136). -/
def loopBodies (code : List Byte) (x : Section_) : List (Nat × Nat × Nat) :=
  if x.kind = .se then []
  else (List.range (x.len / 4)).filterMap (fun i =>
    let pc := x.off + 4 * i
    match instrAt code x.kind pc with
    | some (.loop o) => some (pc, pc + 4, pc + 4 * o.endw.toNat)
    | some (.loopi o) => some (pc, pc + 4, pc + 4 * o.endw.toNat)
    | _ => none)

/-- Static loop nesting of at most six (R49), and the conditions on every loop word (R140): its body lies in one section and in every body that
contains the word, and ends on no word that transfers control. -/
def nestingOk (code : List Byte) (secs : List Section_) : Bool :=
  secs.all (fun x =>
    let bs := loopBodies code x
    bs.all (fun b =>
      let outer := bs.filter (fun c => decide (c.2.1 ≤ b.1) && decide (b.1 ≤ c.2.2))
      decide (outer.length + 1 ≤ 6) && decide (b.2.2 + 4 ≤ x.off + x.len) && outer.all (fun c => decide (b.2.2 ≤ c.2.2)) &&
      !(instrAt code x.kind b.2.2).any Instr.transfers))

/-- The image in the bytes, if no loader check fails. -/
def loadImage (vf : Nat) (bs : List Byte) : Option Image :=
  let h : BitVec 1024 := BitVec.ofNat 1024 (fieldAt bs 0 128)
  let codeoff := fieldN h 383 320
  let codelen := fieldN h 447 384
  let decl := fieldN h 639 576
  let ntro := fieldN h 111 96
  let nrate := fieldN h 159 144
  if bs.length < 128 || !headerOk h || decide (bs.length < codeoff + codelen) || decide (bs.length < decl + 8 * ntro + 32 * nrate) || decide (codelen < 16) then none
  else
    match sectionsAt bs codeoff, (List.range ntro).mapM (fun i => troughDeclAt bs (decl + 8 * i)),
      (List.range nrate).mapM (fun i => rateDeclAt bs (decl + 8 * ntro + 32 * i)) with
    | some secs, some tr, some rs =>
      let code := (bs.drop codeoff).take codelen
      if sectionsOk h secs && inKinds secs [.cc] (4 * fieldN h 95 64) && ratesOk h secs rs && nestingOk code secs then some ⟨vf, h, secs, code, tr, rs⟩
      else none
    | _, _, _ => none

end Sys2Proof.Machine
end

