-- ==== Sys2Proof/Machine/Host.lean ====
section
/-! DEFINITION. Host commands (R383 to R388, R399 to R401, R410) and page replies (R357, R369, R370, R386). -/
namespace Sys2Proof.Machine

/-! ## The form of a command and of its response (R383, R384) -/

namespace Status
abbrev done : Nat := 0
abbrev refused : Nat := 1
abbrev malformed : Nat := 2
abbrev notMapped : Nat := 3
abbrev busy : Nat := 4
end Status

end Sys2Proof.Machine

namespace Sys2Proof
def Cmd.op (c : Cmd) : Nat := Machine.fieldN c.record 15 0
def Cmd.vf (c : Cmd) : Nat := Machine.fieldN c.record 47 40
def Cmd.num (c : Cmd) (i : Nat) : Nat := (c.words.getD i 0).toNat
/-- A record operand of n words from word i on, its first word lowest. -/
def Cmd.recordAt (c : Cmd) (i n : Nat) : Nat := Machine.leNat (((c.words.drop i).take n).flatMap (fun w => Machine.natBytes w.toNat 8))
/-- Non-zero reserved fields, a STATUS, another OP, a short list, or bits beyond an operand (R384, R385); `narrow` gives operands narrower than a word. -/
def Cmd.bad (c : Cmd) (op n : Nat) (narrow : List (Nat × Nat)) : Bool :=
  Machine.fieldN c.record 63 48 != 0 || Machine.fieldN c.record 39 32 != 0 || Machine.fieldN c.record 31 16 != 0 || c.op != op || decide (c.words.length < n) ||
  narrow.any (fun (i, w) => decide (2 ^ w ≤ c.num i))

end Sys2Proof

namespace Sys2Proof.Machine

/-- CMD_RESP: the record with its STATUS, then the results. -/
def State.cmdResp (s : State) (c : Cmd) (status : Nat) (bs : List Byte) : Msg :=
  { header := mkHeader c.src (s.endpoint 0xFF) 0 0 false 0 (16 + bs.length) 0 0 0 MsgType.cmdResp
    comps := [], rma := 0, payload :=
      natBytes (setField (c.record &&& 0xFFFFFFFFFFFFFFFF0000FF00FFFFFFFF) 31 16 status).toNat 16 ++ bs, psn := 0, adit := 0 }

def wordBytes (ws : List Nat) : List Byte := ws.flatMap (fun w => natBytes w 8)

def State.respond (s : State) (c : Cmd) (status : Nat) (ws : List Nat) : State := s.send (s.cmdResp c status (wordBytes ws))

/-- What a command's VF field may name: a VF that exists, the device as well, or anything. -/
inductive CmdOn where
  | vf | either | any
  deriving DecidableEq, Repr

def State.cmdOn (s : State) (c : Cmd) : CmdOn → Bool
  | .vf => (Tbl.get? s.vfs c.vf).isSome
  | .either => c.vf == 0xFF || (Tbl.get? s.vfs c.vf).isSome
  | .any => true

/-- A command as Dortas takes it (R383, R385, R394, R402): BUSY until bring-up is complete, discarded from an endpoint that is none of management. -/
def State.command (s : State) (c : Cmd) (op n : Nat) (narrow : List (Nat × Nat)) (on : CmdOn) (f : State → State) : State :=
  match s.boot.phase with
  | .off => s
  | .released => s.respond c Status.busy []
  | .recovery => s.respond c Status.busy []
  | .up =>
    if !s.boot.mgmt.contains c.src then s.discard
    else if c.bad op n narrow then s.respond c Status.malformed []
    else if !s.cmdOn c on then s.respond c Status.notMapped []
    else f s

/-- REFUSED where a rule forbids the change, else the change and DONE. -/
def State.change (s : State) (c : Cmd) (ok : Bool) (f : State → State) : State :=
  if ok then (f s).respond c Status.done [] else s.respond c Status.refused []

/-! ## VFs (R11, R15, R351, R383) -/

/-- The capture table entry of a VF in the provisioning record (R404, R407). -/
def provCapture (prov : List Byte) (vf : Nat) : Option Capture :=
  let e : BitVec 128 := BitVec.ofNat 128 (fieldAt prov (144 + 16 * vf) 16)
  if e.getLsbD 96 then some ⟨fieldN e 63 0, fieldN e 95 64, 0, false⟩ else none

/-- A node's record at its reset values (R12). -/
def nodeReset (self parent level vf : Nat) : BitVec 512 :=
  [(223, 208, 1024), (143, 136, 1), (107, 88, 2000), (87, 68, 10000), (55, 48, 1), (47, 40, vf), (34, 32, level), (31, 16, parent), (15, 0, self)].foldl
    (fun b (hi, lo, v) => setField b hi lo v) 0

def newNode (bits : BitVec 512) (pool : Nat) : RcbNode := ⟨bits, 0, 0, 0, pool, [], [], false, false, false, true, 0, 0, [], 0⟩

/-- A node put into the tree; SHARE and PCLASS are in force as the tree gives them (R16). -/
def State.addNode (s : State) (n : Nat) (x : RcbNode) : State :=
  let t : State := { s with rcbs := Tbl.set s.rcbs n x }
  { s with rcbs := Tbl.set s.rcbs n { x with share := t.eff n .share, pclass := t.eff n .pclass } }

/-- The tenant node: FDOM and OVR bit 2 set (R15). -/
def tenantBits (vf : Nat) : BitVec 512 := setField (setField (nodeReset (1 + vf) 0 1 vf) 35 35 1) 110 110 1

def execVfCreate (c : Cmd) (s : State) : Host.Outcome State Fault Refusal :=
  .next (s.command c 0x0001 3 [(0, 8), (1, 16)] .any (fun s =>
    if 192 ≤ c.vf then s.respond c Status.notMapped []
    else if (Tbl.get? s.vfs c.vf).isSome ∨ 4096 < c.num 2 then s.respond c Status.refused []
    else
      let caps := match (if s.boot.mgmt.isEmpty then none else provCapture s.boot.prov c.vf) with
        | some k => Tbl.set s.dortas.captures c.vf k
        | none => s.dortas.captures
      (({ s with
        vfs := Tbl.set s.vfs c.vf ⟨BitVec.ofNat 64 (c.num 0), c.num 1, c.src, none, none, [], 0, [], []⟩
        dortas := { s.dortas with captures := caps } } : State).addNode (1 + c.vf) (newNode (tenantBits c.vf) (c.num 2))).respond c Status.done [1 + c.vf]))

/-- VF_DESTROY: every instance is killed; an entry whose bind record is still being checked is once it has been (R326, R385). -/
def execVfDestroy (c : Cmd) (s : State) : Host.Outcome State Fault Refusal :=
  .next (s.command c 0x0002 0 [] .vf (fun s =>
    if s.dortas.destroying.any (fun d => d.1 = c.vf) then s.respond c Status.busy []
    else
      let s1 : State := { s with
        dortas := { s.dortas with destroying := s.dortas.destroying ++ [(c.vf, s.cmdResp c Status.done [])] }
        slots := s.slots.filter (fun x => !(x.2.vf = c.vf && x.2.state = 7)) }
      ((s1.slots.filter (fun x => x.2.vf = c.vf)).foldl (fun t x => t.writeKilling x.1 (.reason 0x0100)) s1).endVf c.vf))

/-- A VF's entry changed. -/
def State.modVf (s : State) (vf : Nat) (f : Vf → Vf) : State :=
  match Tbl.get? s.vfs vf with
  | some v => { s with vfs := Tbl.set s.vfs vf (f v) }
  | none => s

def execS1root (c : Cmd) (s : State) : Host.Outcome State Fault Refusal :=
  .next (s.command c 0x0010 1 [] .vf (fun s =>
    s.change c (c.num 0 % 4096 == 0) (fun s => s.modVf c.vf (fun v => { v with s1root := some (c.num 0) }))))

def execS2root (c : Cmd) (s : State) : Host.Outcome State Fault Refusal :=
  .next (s.command c 0x0011 1 [] .vf (fun s =>
    s.change c (c.num 0 % 4096 == 0) (fun s => s.modVf c.vf (fun v => { v with s2root := some (c.num 0) }))))

/-- Accesses of a VF that are translated and not yet performed at dev or landed (R355). -/
def State.accessesOf (s : State) (vf : Nat) : List Nat :=
  ((s.hold ++ s.coh).filter (fun r => r.loc.vf = vf && !psAtLeast r.ps .dev)).map (·.id) ++
  ((s.cur :: s.parked).filter (fun k => s.vfOf k.slot = vf)).flatMap (fun k => (k.pend.filter Pend.isAccess).map (·.id))

def execInval (c : Cmd) (s : State) : Host.Outcome State Fault Refusal :=
  .next (s.command c 0x0012 3 [] .vf (fun s =>
    if (c.num 0 = 1 ∨ c.num 0 = 2) ∧ c.num 1 % 65536 = 0 ∧ c.num 2 % 65536 = 0 then
      { s with dortas := { s.dortas with invals := s.dortas.invals ++ [⟨c.vf, s.accessesOf c.vf, s.cmdResp c Status.done []⟩] } }
    else s.respond c Status.refused []))

/-- INVAL_COMPLETE: a VF's oldest invalidation whose accesses have been performed is answered (R355). -/
def execInvalComplete (vf : Nat) (s : State) : Host.Outcome State Fault Refusal :=
  .next (match s.dortas.invals.find? (fun i => i.vf = vf && i.ids.all (fun k => s.performedAt k .dev)) with
    | none => s
    | some i => ({ s with dortas := { s.dortas with invals := s.dortas.invals.erase i } } : State).send i.resp)

/-! ## Images (R385) -/

def execImgLoad (c : Cmd) (s : State) : Host.Outcome State Fault Refusal :=
  .next (s.command c 0x0020 2 [] .vf (fun s =>
    match (if c.num 0 + c.num 1 ≤ 2 ^ 48 then s.rmaSpan c.vf 0 (sectorCuts (c.num 0) (c.num 1 / 32 + 2) (c.num 1)) else .unmapped) with
    | .unmapped => s.respond c Status.notMapped []
    | .miss _ => s.respond c Status.notMapped []
    | .ok l =>
      match l.find? (fun x => s.poisoned x.1) with
      | some (pa, _) => (s.markContained (s.attributedTo pa)).respond c Status.notMapped []
      | none =>
        match loadImage c.vf (l.flatMap (fun (pa, n) => bytesFrom s.devByte pa n)) with
        | none => s.respond c Status.refused [0]
        | some i =>
          let h := (Tbl.lowestFree s.images (1 + (Config.freeWord s.free).toNat % 2 ^ 31) (s.images.length + 1)).getD 1
          ({ s with free := s.free + 1, images := Tbl.set s.images h i } : State).respond c Status.done [h]))

/-! ## Region control blocks (R11 to R16, R330) -/

/-- Reserved bits of a command's record (R12, R13). -/
def rcbReserved (b : BitVec 512) : Bool :=
  fieldN b 207 192 != 0 || fieldN b 135 130 != 0 || b.getLsbD 127 || fieldN b 67 58 != 0 || b.getLsbD 39

/-- A budget value stands within another; a quota of 0 is larger than every other value (R14). -/
def budgetLe (f : RcbField) (a b : Nat) : Bool :=
  if f = .qcyc ∨ f = .qbytes then b == 0 || (a != 0 && decide (a ≤ b)) else decide (a ≤ b)

def budgetFields : List RcbField :=
  [.coresb, .cengb, .hearthb, .sramb, .outreq, .trob, .tokb, .rdvb, .stepb, .qcyc, .qbytes, .undob]

/-- A node against its parent: R14, and R330's margin of BINDMAX over SLICE. -/
def State.nodeOk (s : State) (n : Nat) : Bool :=
  match Tbl.get? s.rcbs n with
  | none => true
  | some x => x.level == 0 || (budgetFields.all (fun f => budgetLe f (s.eff n f) (s.eff x.parent f)) && decide (s.eff n .slice + 2000 ≤ s.eff n .bindmax))

/-- Every node of a subtree. -/
def State.subtreeOk (s : State) (n : Nat) : Bool := s.rcbs.all (fun x => !(s.path x.1).contains n || s.nodeOk x.1)

/-- What a command may not write into a record, whatever the tree (R12, R15). -/
def recordOk (b : BitVec 512) : Bool :=
  fieldN b 143 136 != 0 && decide (1 ≤ fieldN b 223 208) && decide (fieldN b 223 208 ≤ 1024) && (fieldN b 34 32 != 1 || (b.getLsbD 35 && b.getLsbD 110))

/-- A record with the fields that Dortas sets. -/
def withOwn (b : BitVec 512) (self parent level vf : Nat) : BitVec 512 :=
  setField (setField (setField (setField b 47 40 vf) 34 32 level) 31 16 parent) 15 0 self

def execRcbWrite (c : Cmd) (s : State) : Host.Outcome State Fault Refusal :=
  .next (s.command c 0x0021 9 [] .either (fun s =>
    let b : BitVec 512 := BitVec.ofNat 512 (c.recordAt 1 8)
    if rcbReserved b then s.respond c Status.malformed []
    else
      match Tbl.get? s.rcbs (c.num 0) with
      | none => s.respond c Status.refused []
      | some x =>
        let bits := withOwn b (c.num 0) x.parent x.level x.vf
        let x' : RcbNode := { x with
          bits := bits, cycUse := 0, bytUse := 0, exhCyc := false, exhByt := false
          since := if x.exhCyc || x.exhByt then s.cycle else x.since }
        let t : State := { s with rcbs := Tbl.set s.rcbs (c.num 0) x' }
        if x.level ≠ 0 ∧ x.vf = c.vf ∧ recordOk bits ∧ t.subtreeOk (c.num 0) then (t.quotaRestored (c.num 0)).respond c Status.done []
        else s.respond c Status.refused []))

def execRcbCreate (c : Cmd) (s : State) : Host.Outcome State Fault Refusal :=
  .next (s.command c 0x0023 11 [] .either (fun s =>
    let b : BitVec 512 := BitVec.ofNat 512 (c.recordAt 3 8)
    let n := c.num 0
    if rcbReserved b then s.respond c Status.malformed []
    else
      match Tbl.get? s.rcbs (c.num 1) with
      | none => s.respond c Status.refused []
      | some p =>
        let bits := withOwn b n (c.num 1) (p.level + 1) p.vf
        let t := s.addNode n (newNode bits (c.num 2))
        if 193 ≤ n ∧ n ≤ 16383 ∧ (Tbl.get? s.rcbs n).isNone ∧ p.vf = c.vf ∧ 1 ≤ p.level ∧ p.level ≤ 4 ∧ c.num 2 ≤ 4096 ∧ recordOk bits ∧ t.nodeOk n then
          t.respond c Status.done []
        else s.respond c Status.refused []))

def execRcbDelete (c : Cmd) (s : State) : Host.Outcome State Fault Refusal :=
  .next (s.command c 0x0024 1 [] .either (fun s =>
    let n := c.num 0
    s.change c (match Tbl.get? s.rcbs n with
      | none => false
      | some x => decide (193 ≤ n) && x.vf == c.vf && s.rcbs.all (fun y => y.2.level == 0 || y.2.parent != n) &&
        s.slots.all (fun y => y.2.rcbx != n || y.2.state == 0) && x.pool.all (fun r => lrState r.2 == 0))
      (fun s => { s with rcbs := Tbl.del s.rcbs n })))

/-! ## Launch records (R18 to R21) -/

/-- Reserved bits of a launch record (R19). -/
def lrReserved (r : BitVec 1024) : Bool := fieldN r 1023 768 != 0 || fieldN r 127 64 != 0 || fieldN r 55 34 != 0 || r.getLsbD 63

/-- The checks of R20 on the record itself, of DCORE (R19), and of DHEARTH (R331). -/
def State.lrecOk (s : State) (vf rcb : Nat) (r : BitVec 1024) : Bool :=
  match Tbl.get? s.images (lrImage r) with
  | none => false
  | some i =>
    let d := fieldN r 215 208
    i.vf == vf && (s.overDemand rcb r).isNone && (lrEntry r == 0 || i.inKind .cc (4 * lrEntry r) 4) && (lrCompl r).toNat % 32 == 0 &&
    (lrCond r).toNat % 8 == 0 && decide (1 ≤ fieldN r 199 192) && (decide (d ≤ 4) || (d % 4 == 0 && decide (d ≤ 32)))

/-- The record a command names: its region is the VF's own and its number lies in the pool. -/
def State.lrecOf (s : State) (c : Cmd) : Option (RcbNode × BitVec 1024) :=
  match Tbl.get? s.rcbs (c.num 0) with
  | none => none
  | some n => if n.vf = c.vf ∧ c.num 1 < n.poolSize then some (n, n.lrec (c.num 0) (c.num 1)) else none

def execLrecWrite (c : Cmd) (s : State) : Host.Outcome State Fault Refusal :=
  .next (s.command c 0x0022 18 [] .either (fun s =>
    let r : BitVec 1024 := BitVec.ofNat 1024 (c.recordAt 2 16)
    if lrReserved r then s.respond c Status.malformed []
    else
      match s.lrecOf c with
      | none => s.respond c Status.refused []
      | some (_, old) =>
        let new := setField (setField (setField r 33 32 0) 31 16 (c.num 0)) 15 0 (lrSeq old)
        s.change c (lrState old == 0 && s.lrecOk c.vf (c.num 0) new) (fun s => s.setLrec (c.num 0) (c.num 1) new)))

/-- The arming that a replayed capture has not come to yet (R405). -/
def State.armHeld (s : State) (c : Cmd) : Bool :=
  (s.lrecOf c).isSome && (s.arm (c.num 0) (c.num 1)).2 == 0 && !s.presents c.vf 1 (c.num 0) (c.num 1)

def execLrecArm (c : Cmd) (s : State) : Host.Outcome State Fault Refusal :=
  .next (s.command c 0x0025 2 [] .either (fun s =>
    match s.lrecOf c with
    | none => s.respond c Status.refused []
    | some _ =>
      let (t, st) := s.arm (c.num 0) (c.num 1)
      t.respond c Status.done [st]))

/-! ## Slot-table entries (R326, R337, R341, R342) -/

/-- An entry of the VF, but a free or rejected one. -/
def State.entryOf (s : State) (c : Cmd) : Option Slot :=
  (Tbl.get? s.slots (c.num 0)).filter (fun x => x.vf = c.vf && x.state ≠ 0 && x.state ≠ 7)

def execKill (c : Cmd) (s : State) : Host.Outcome State Fault Refusal :=
  .next (s.command c 0x0030 1 [] .either (fun s =>
    match s.entryOf c with
    | none => s.respond c Status.refused []
    | some x => if x.state = 1 then s.respond c Status.busy [] else (s.writeKilling (c.num 0) (.reason 0x0100)).respond c Status.done []))

def execPreempt (c : Cmd) (s : State) : Host.Outcome State Fault Refusal :=
  .next (s.command c 0x0031 1 [] .either (fun s =>
    match s.entryOf c with
    | none => s.respond c Status.refused []
    | some x =>
      if x.state = 2 then (s.writeStopping (c.num 0)).respond c Status.done []
      else if x.state = 4 then s.respond c Status.refused []
      else s.respond c Status.busy []))

def execResume (c : Cmd) (s : State) : Host.Outcome State Fault Refusal :=
  .next (s.command c 0x0032 1 [] .either (fun s =>
    match s.entryOf c with
    | none => s.respond c Status.refused []
    | some x =>
      if x.state = 2 ∨ (x.state = 4 ∧ s.exhausted x.rcbx) then s.respond c Status.refused []
      else if x.state = 4 then
        let t := s.restoreSlot (c.num 0)
        if (Tbl.get? t.slots (c.num 0)).any (fun y => y.state = 5) then t.respond c Status.done [] else s.respond c Status.busy []
      else s.respond c Status.busy []))

/-! ## Windows, routes, groups, keys (R371, R374, R377, R379, R387) -/

def execRwinSet (c : Cmd) (s : State) : Host.Outcome State Fault Refusal :=
  .next (s.command c 0x0040 5 [(1, 40), (4, 2)] .either (fun s =>
    s.change c (decide (c.num 0 < 2048) && c.num 2 % 65536 == 0) (fun s =>
      { s with rwins := Tbl.set s.rwins (c.num 0) ⟨BitVec.ofNat 64 (c.num 1), c.num 2, c.num 3, c.num 4 % 2 == 1, decide (2 ≤ c.num 4)⟩ })))

def execRmawinSet (c : Cmd) (s : State) : Host.Outcome State Fault Refusal :=
  .next (s.command c 0x0041 4 [(3, 2)] .vf (fun s =>
    s.change c (decide (c.num 0 < 16)) (fun s => s.modVf c.vf (fun v => { v with
      rma := Tbl.set v.rma (c.num 0) ⟨c.num 1, c.num 2, c.num 3 % 2 == 1, decide (2 ≤ c.num 3)⟩ }))))

def execRouteSet (c : Cmd) (s : State) : Host.Outcome State Fault Refusal :=
  .next (s.command c 0x0042 3 [(1, 38), (2, 17)] .either (fun s =>
    let n := c.num 1 / 2 ^ 32
    s.change c (decide (c.num 0 < 4096) && decide (n ≤ 32)) (fun s =>
      { s with fabric := { s.fabric with
          routes := Tbl.set s.fabric.routes (c.num 0) ⟨BitVec.ofNat 32 (c.num 1), n, BitVec.ofNat 16 (c.num 2), decide (2 ^ 16 ≤ c.num 2)⟩ } })))

def execCgrpEn (c : Cmd) (s : State) : Host.Outcome State Fault Refusal :=
  .next (s.command c 0x0043 2 [(0, 8), (1, 1)] .either (fun s =>
    s.change c true (fun s =>
      let rest := s.fabric.cgrps.filter (· ≠ c.num 0)
      { s with fabric := { s.fabric with cgrps := if c.num 1 = 1 then rest ++ [c.num 0] else rest } })))

def execKeySet (c : Cmd) (s : State) : Host.Outcome State Fault Refusal :=
  .next (s.command c 0x0044 1 [] .vf (fun s =>
    s.change c true (fun s => s.modVf c.vf (fun v => { v with keys := if v.keys.contains (c.words.getD 0 0) then v.keys else v.keys ++ [c.words.getD 0 0] }))))

/-! ## Assay reports (R399 to R401) -/

/-- Bytes of a digest. -/
def digestBytes (d : BitVec 256) : List Byte := natBytes d.toNat 32

/-- DEVID (R396). -/
def devid : List Byte := (digestBytes (Config.sha3 Config.identityKey)).take 8

/-- The 88 bytes at offset 72: the counters of a VF, or for the device the anti-rollback counters, the accepted VERSIONs and the provisioning
record's digest (R400). -/
def State.reportCounters (s : State) (vf : Nat) : List Byte :=
  if vf = 0xFF then
    wordBytes ([1, 2, 3].map (fun k => (Tbl.get? s.boot.fuses k).getD 0)) ++ wordBytes ([1, 2, 3].map (fun k => ((Tbl.get? s.boot.accepted k).getD (0, 0)).1)) ++
      digestBytes (Config.sha3 s.boot.prov) ++ List.replicate 8 0
  else wordBytes ((List.range 11).map (s.assayOf vf).counter)

/-- The report (R400); the Assay's time is a free value. -/
def State.assayReport (s : State) (vf : Nat) (nonce : List Byte) (reset : Bool) : List Byte :=
  let a := s.assayOf vf
  let b (x : Bool) : Nat := if x then 1 else 0
  let body := natBytes 0x50415341 4 ++ natBytes vf 1 ++ natBytes (b (vf != 0xFF && a.lost) + 2 * b reset) 1 ++ natBytes 0 2 ++ devid ++ natBytes s.boot.seq 8 ++
    natBytes (Config.freeWord s.free).toNat 8 ++ natBytes (if vf = 0xFF then 0 else a.resets) 8 ++ nonce ++ s.reportCounters vf ++ List.replicate 32 0
  let d := Config.sha3 body
  body ++ digestBytes d ++ (List.range 2420).map (Config.mldsaSign d)

/-- A report made: SEQ rises, LOST has been told, and an accepted RESET takes the reported counts off (R399, R401). -/
def State.reported (s : State) (vf : Nat) (reset : Bool) : State :=
  let s1 : State := { s with free := s.free + 1, boot := { s.boot with seq := s.boot.seq + 1 } }
  if vf = 0xFF then s1
  else
    let a := s.assayOf vf
    let a1 : AssayVf := { a with lost := false, lastSeq := s.boot.seq }
    { s1 with assay := Tbl.set s.assay vf (if reset then { a1 with ctr := List.replicate 10 0, resets := a1.resets + 1 } else a1) }

/-- The operator's public key in the accepted provisioning record (R407). -/
def provKey (prov : List Byte) : List Byte := (prov.drop 3216).take 1312

/-- A RESET block that the Assay may apply (R401). -/
def State.resetOk (s : State) (vf seq : Nat) (sig : List Byte) : Bool :=
  let a := s.assayOf vf
  vf != 0xFF && a.lastSeq != 0 && a.lastSeq == seq &&
  Config.mldsaVerify (provKey s.boot.prov) (Config.sha3 (devid ++ natBytes vf 1 ++ natBytes seq 8 ++ [0x61, 0x73, 0x73, 0x61, 0x79, 0x2D, 0x72, 0x65, 0x73, 0x65, 0x74])) sig

def execAssayRead (c : Cmd) (s : State) : Host.Outcome State Fault Refusal :=
  .next (s.command c 0x0050 0 [] .either (fun s =>
    let n := c.words.length
    let bytes := c.words.flatMap (fun w => natBytes w.toNat 8)
    let answerWith (reset : Bool) : State :=
      (s.reported c.vf reset).send (s.cmdResp c Status.done
        (s.assayReport c.vf (if n = 0 then List.replicate 32 0 else bytes.take 32) reset ++ List.replicate 4 0))
    if (n ≠ 0 ∧ n < 4) ∨ (4 < n ∧ n < 308) ∨ (4 < n ∧ (bytes.drop 2460).take 4 ≠ List.replicate 4 0) then s.respond c Status.malformed []
    else if n ≤ 4 then answerWith false
    else if s.slots.any (fun x => x.2.vf = c.vf && decide (2 ≤ x.2.state) && decide (x.2.state ≤ 6)) then s.respond c Status.busy []
    else if s.resetOk c.vf (c.num 4) ((bytes.drop 40).take 2420) then answerWith true
    else s.respond c Status.refused []))

/-! ## The fault report (R410) -/

/-- A count of a scope: the VF's own, or the sum over the device. -/
def scopeSum (t : Tbl Nat) (vf : Nat) : Nat := if vf = 0xFF then (t.map (·.2)).sum else (Tbl.get? t vf).getD 0
def scopeClear (t : Tbl Nat) (vf : Nat) : Tbl Nat := if vf = 0xFF then [] else Tbl.del t vf

def FaultItem.words (i : FaultItem) : List Nat :=
  [i.kind + 2 ^ 8 * i.vf + 2 ^ 16 * i.slot + 2 ^ 32 * i.ctx, i.w1.toNat, i.w2.toNat, i.w3.toNat]

def execFaultReport (c : Cmd) (s : State) : Host.Outcome State Fault Refusal :=
  .next (s.command c 0x0051 0 [] .either (fun s =>
    let d := s.dortas
    let mine (x : FaultItem × Bool × Bool) : Bool := if c.vf = 0xFF then x.2.1 else x.2.2 && x.1.vf = c.vf
    let l := d.items.filter mine
    let t : State := { s with
      lostEvents := scopeClear s.lostEvents c.vf
      dortas := { d with
        escalated := scopeClear d.escalated c.vf, replies := scopeClear d.replies c.vf, droppedItems := Tbl.del d.droppedItems c.vf
        packets := if c.vf = 0xFF then 0 else d.packets, items := d.items.filter (fun x => !mine x) } }
    t.respond c Status.done ([scopeSum d.escalated c.vf, scopeSum s.lostEvents c.vf, if c.vf = 0xFF then d.packets else 0, scopeSum d.replies c.vf,
      (Tbl.get? d.droppedItems c.vf).getD 0, l.length] ++ l.flatMap (fun x => x.1.words))))

/-! ## Page replies (R357, R369, R370, R386) -/

/-- A reply reaches one waiter: a GRANT restarts its watchdog, a DENY is noted for the access that waits. -/
def State.replyTo (s : State) (ipa : Nat) (deny : Bool) (w : CtxRef) : State :=
  if 2 ^ 22 ≤ w.slot ∨ w.num = 2 ^ 22 then
    let t := if 2 ^ 22 ≤ w.slot ∧ w.slot < 2 ^ 23 then s.condReplied (w.slot - 2 ^ 22) w.num else s
    if deny then { t with dortas := { t.dortas with denied := t.dortas.denied ++ [(w, ipa)] } } else t
  else if 2 ^ 20 ≤ w.num then (if deny then s.setStep (w.num - 2 ^ 20) (fun c => { c with denied := c.denied ++ [ipa] }) else s)
  else s.setCtx w (fun c =>
    let own := c.wait.any (fun x => match x.cond with
      | .pageReply ps => ps.contains ipa
      | _ => false)
    let copies := c.copyq.any (fun e => e.missing.contains ipa)
    if deny then { c with
      denied := if own then c.denied ++ [ipa] else c.denied
      copyDenied := if copies then c.copyDenied ++ [ipa] else c.copyDenied }
    else { c with
      wait := if own then c.wait.map (fun x => { x with since := s.cycle }) else c.wait
      copyq := c.copyq.map (fun e => if e.missing.contains ipa then { e with since := e.since.map (fun _ => s.cycle) } else e) })

/-- Requests of other devices held for a VF arrive again. -/
def State.againRma (s : State) (vf : Nat) : State :=
  let (again, rest) := s.fabric.rmaHeld.partition (fun m => epVf m.dest = vf)
  { s with
    fabric := { s.fabric with rmaHeld := rest }
    agenda := s.agenda ++ again.map Move.arrive }

/-- The entry of a VF's queue that a reply's id and page name. -/
def State.requestOf (s : State) (vf id ipa : Nat) : Option PageReq :=
  (Tbl.get? s.vfs vf).bind (fun v => v.reqs.find? (fun q => q.id.toNat = id && q.ipa = ipa))

/-- The reply that a replayed capture has not come to yet (R405). -/
def State.replyHeld (s : State) (vf id ipa : Nat) (deny : Bool) : Bool :=
  (s.requestOf vf id ipa).isSome && !s.presents vf 5 id (if deny then 1 else 0)

/-- A PREQ_REPLY: applied to the entry its id and page name, or discarded and counted. -/
def State.pageReply (s : State) (vf id ipa : Nat) (deny : Bool) : State :=
  match s.requestOf vf id ipa with
  | none => { s with dortas := { s.dortas with replies := Tbl.set s.dortas.replies vf ((Tbl.get? s.dortas.replies vf).getD 0 + 1) } }
  | some q =>
    let s1 := (s.modVf vf (fun v => { v with reqs := v.reqs.filter (fun x => x.id ≠ q.id) })).capture vf 5
    let s2 := q.waiters.foldl (fun t w => t.replyTo ipa deny w) s1
    if q.waiters.contains (rmaRef vf) then s2.againRma vf else s2

def execPageGrant (vf id ipa : Nat) (s : State) : Host.Outcome State Fault Refusal := .next (s.pageReply vf id ipa false)
def execPageDeny (vf id ipa : Nat) (s : State) : Host.Outcome State Fault Refusal := .next (s.pageReply vf id ipa true)

end Sys2Proof.Machine
end

