-- ==== Sys2Proof/Machine/Boot.lean ====
section
/-! DEFINITION. Power-on and bring-up (R393 to R397, R402, R407), the Assay's non-volatile copies (R398), and throttling (R403). -/
namespace Sys2Proof.Machine

/-! ## Firmware images (R393, R394) -/

def zeros (l : List Byte) : Bool := l.all (· == 0)

/-- Whether Bygrim accepts an image of a KIND: its VERSION and MINVER (R394). -/
def acceptImage (kind blown : Nat) (bs : List Byte) : Option (Nat × Nat) :=
  let n := fieldAt bs 16 8
  let minver := fieldAt bs 12 4
  let key := (bs.drop 56).take 1312
  if decide (4096 + n ≤ bs.length) && fieldAt bs 0 4 == 0x57464756 && fieldAt bs 4 2 == kind && fieldAt bs 6 2 == 0 && zeros ((bs.drop 3788).take 308) &&
    Config.sha3 key == Config.romDigest && Config.mldsaVerify key (Config.sha3 (bs.take 56)) ((bs.drop 1368).take 2420) &&
    digestBytes (Config.sha3 ((bs.drop 4096).take n)) == (bs.drop 24).take 32 && decide (minver ≤ 64) && decide (blown ≤ minver) then
    some (fieldAt bs 8 4, minver)
  else none

/-- Slot A of a KIND, then slot B. -/
def Boot.acceptKind (b : Boot) (kind : Nat) : Option (Nat × Nat) :=
  let blown := (Tbl.get? b.fuses kind).getD 0
  [2 * kind, 2 * kind + 1].findSome? (fun i => (Tbl.get? b.flash i).bind (acceptImage kind blown))

/-! ## The provisioning record (R397, R407) -/

/-- The management endpoints of an accepted record; none if the record fails. -/
def provEndpoints (bs : List Byte) : List Word :=
  let n := fieldAt bs 4 2
  let key := provKey bs
  if fieldAt bs 0 4 == 0x56525056 && fieldAt bs 6 10 == 0 && decide (1 ≤ n) && decide (n ≤ 16) && Config.sha3 key == Config.operatorDigest &&
    Config.mldsaVerify key (Config.sha3 (bs.take 4528)) ((bs.drop 4528).take 2420) then
    (List.range n).map (fun i => BitVec.ofNat 64 (fieldAt bs (16 + 8 * i) 8))
  else []

/-! ## Power-on -/

/-- What a loss of supply leaves of the Assay: the last copy, and LOST (R398). -/
def AssayVf.resume (a : AssayVf) : AssayVf := { a with ctr := a.kept, lost := true }

/-- POWER_ON: everything is at its reset value but the flash, the fuses, the Assay's store and SEQ, and the device's address; then Bygrim
accepts one image of each KIND, or the device comes up in recovery mode. -/
def execPowerOn (s : State) : Host.Outcome State Fault Refusal :=
  .next (
    let b := s.boot
    let base : State := { State.reset with
      devaddr := s.devaddr, assay := s.assay.map (fun a => (a.1, a.2.resume)), free := s.free, nextId := s.nextId }
    match b.acceptKind 1, b.acceptKind 2, b.acceptKind 3 with
    | some x, some y, some z =>
      { base with boot := { b with phase := .released, accepted := [(1, x), (2, y), (3, z)], mgmt := provEndpoints b.prov } }
    | _, _, _ => { base with boot := { b with phase := .recovery, accepted := [], mgmt := [] } })

/-- BRINGUP_COMPLETE: HBM4 is zeroed, every bank in cache mode, and the fuses follow the accepted images (R395, R402). -/
def execBringupComplete (s : State) : Host.Outcome State Fault Refusal :=
  .next (
    if s.boot.phase = .released then
      { s with
        mem := [], banks := []
        boot := { s.boot with
          phase := .up
          fuses := s.boot.accepted.foldl (fun t (k, v) => Tbl.set t k (max ((Tbl.get? t k).getD 0) v.2)) s.boot.fuses } }
    else s)

/-- The Assay copies its counters to its own store (R398). -/
def State.saveAssay (s : State) : State := { s with assay := s.assay.map (fun a => (a.1, { a.2 with kept := a.2.ctr })) }

def execSupplyFailWarning (s : State) : Host.Outcome State Fault Refusal := .next s.saveAssay
def execAssaySaveTick (s : State) : Host.Outcome State Fault Refusal := .next s.saveAssay

/-- THROTTLE: the groups whose clock enable is dropped from now on (R403). -/
def execThrottle (groups : BitVec 32) (s : State) : Host.Outcome State Fault Refusal := .next { s with throttled := groups }

end Sys2Proof.Machine
end

