-- ==== Sys2Proof/Machine/Branch.lean ====
section
/-! DEFINITION. Branches, jumps and hardware loops (R133 to R141). -/
namespace Sys2Proof.Machine

def execBeq (o : Br) (s : State) : Host.Outcome State Fault Refusal := runAct (brForm (fun x y => x == y) o) s
def execBne (o : Br) (s : State) : Host.Outcome State Fault Refusal := runAct (brForm (fun x y => x != y) o) s
def execBlt (o : Br) (s : State) : Host.Outcome State Fault Refusal := runAct (brForm (fun x y => x.slt y) o) s
def execBge (o : Br) (s : State) : Host.Outcome State Fault Refusal := runAct (brForm (fun x y => !x.slt y) o) s
def execBltn (o : Br) (s : State) : Host.Outcome State Fault Refusal := runAct (brForm (fun x y => x.ult y) o) s
def execBgen (o : Br) (s : State) : Host.Outcome State Fault Refusal := runAct (brForm (fun x y => !x.ult y) o) s

/-- BP (R133). -/
def execBp (o : BrP) (s : State) : Host.Outcome State Fault Refusal :=
  runAct (if s.cur.getP o.p then transfer (s.cur.pc + 4 * o.off.signExtend 64) else advance) s

/-- JAL (R134). -/
def execJal (o : Jmp) (s : State) : Host.Outcome State Fault Refusal :=
  runAct (do
    destReady o.d
    writeS o.d (s.cur.pc + 4)
    transfer (s.cur.pc + 4 * o.off.signExtend 64)) s

/-- JR (R134): the source is read before the link is written. -/
def execJr (o : Imm) (s : State) : Host.Outcome State Fault Refusal :=
  runAct (do
    destReady o.d
    let x ← readSrc o.a o.qa
    let t := x + 4 * o.imm.signExtend 64
    raiseIf (t.extractLsb' 0 2 != 0) Code.misaligned 0 t
    writeS o.d (s.cur.pc + 4)
    transfer t) s

/-- LOOP and LOOPI (R136): `n` trips of a body that ends `endw` words after the loop word. -/
def loopForm (n : Nat) (endw : BitVec 12) (stg : BitVec 2) : Act Unit := do
  let s ← get
  let l := s.cur.pc
  let stop := l + 4 * endw.setWidth 64
  if n = 0 then
    match s.cur.innermost with
    | some e =>
      if e.stop = stop then modCur (fun c => c.loopBack (stop + 4))
      else modCur (fun c => { c with pc := stop + 4 })
    | none => modCur (fun c => { c with pc := stop + 4, sinceBoundary := 0 })
  else
    raiseIf (decide (6 ≤ s.cur.loops.length)) Code.illegalOp 1 0
    modCur (fun c =>
      { c with loops := ⟨n + stg.toNat, 0, l + 4, stop, stg.toNat, c.hd⟩ :: c.loops, pc := l + 4 })

def execLoop (o : LoopReg) (s : State) : Host.Outcome State Fault Refusal :=
  runAct (do
    let x ← readSrc o.s o.q
    loopForm x.toNat o.endw o.stg) s

def execLoopi (o : LoopImm) (s : State) : Host.Outcome State Fault Refusal :=
  runAct (loopForm o.n.toNat o.endw o.stg) s

/-- LBRK (R139): as if the innermost loop had completed its final iteration. -/
def execLbrk (p : BitVec 5) (s : State) : Host.Outcome State Fault Refusal :=
  runAct (
    if s.cur.getP p then
      match s.cur.innermost with
      | none => raise Code.illegalOp 7 0
      | some e =>
        modCur (fun c =>
          let c' := { c with loops := { e with index := e.count } :: c.loops.drop 1 }
          let c'' := c'.loopBack (e.stop + 4)
          { c'' with loops := popOutside c.hd c''.pc c''.loops })
    else advance) s

end Sys2Proof.Machine
end

