-- ==== Sys2Proof/Machine/Copy.lean ====
section
/-! DEFINITION. The copy instructions (R250 to R266): issue checks and the queue, CTPL, CWAIT and CFENCE. -/
namespace Sys2Proof.Machine

/-- An entry with nothing done. -/
def CopyEntry.blank (op : CopyOp) (x y : Word) (tpl : Template) (pc : Word) : CopyEntry :=
  { id := 0, op := op, x := x, y := y, list := 0, tpl := tpl, rel := none, rm := 0, seed := 0, pc := pc, begun := false, todo := [], left := []
    upto := 0, rows := 0, next := 0, sp := none, dp := none, ids := [], tids := [], contribs := [], refused := [], creding := [], closing := []
    trough := 0, slotIx := none, missing := [], asked := [], answers := [], flags := 0, since := none, note := false }

/-- The entry joins the queue, waiting while it holds 16 (R250). -/
def enqueueCopy (e : CopyEntry) : Act Unit := do
  let s ← get
  waitIf (decide (16 ≤ s.cur.copyq.length)) .copyRoom
  let id ← freshId
  modCur (fun c => { c with copyq := c.copyq ++ [{ e with id := id }] })
  advance

/-- ScopeOf(SC) of a copy with RL = 1: its scope, and whether it was demoted (R145, R251). -/
def copyScope (rl : Bool) (sc : BitVec 3) : Act (Option Scope × Bool) := do
  if rl then
    let (x, d) ← scopeOf sc
    pure (some x, d)
  else pure (none, false)

/-- A base that is not aligned to its side's element size (R260). -/
def copyAligned (x : Word) (n : Nat) : Act Unit := raiseIf (decide (x.toNat % n ≠ 0)) Code.misaligned 0 x

/-- The operands and template of a copy, with its release scope and what it publishes (R251, R290). -/
def copyOperands (o : Cpy) : Act (Word × Word × CopyEntry) := do
  let x ← readSrc o.sa false
  let y ← readSrc o.sb false
  let (rel, note) ← copyScope o.rl o.sc
  awaitAcquire
  let s ← get
  let e := CopyEntry.blank .cpy x y (s.cur.ct[o.ct.toNat]'o.ct.isLt) s.cur.pc
  pure (x, y, { e with rel := rel, note := note, ids := (rel.map (fun sc => s.releaseDeps s.cur true sc)).getD [] })

def execCpy (o : Cpy) (s : State) : Host.Outcome State Fault Refusal :=
  runAct (do
    let (x, y, e) ← copyOperands o
    copyAligned x (tplEs e.tpl)
    copyAligned y (tplEs e.tpl)
    enqueueCopy { e with todo := copyElems e.tpl x y (tplEs e.tpl) }) s

/-- CPYX (R259, R260): it takes one draw for each in-bounds element at issue. -/
def execCpyx (o : Cpy) (s : State) : Host.Outcome State Fault Refusal :=
  runAct (do
    let (x, y, e) ← copyOperands o
    copyAligned x (tplEs e.tpl)
    let wd := xWidth (tplXd e.tpl)
    if tplXd e.tpl ≠ 0 then copyAligned y wd
    raiseIf (decide (tplXs e.tpl = 0 ∨ tplXd e.tpl = 0 ∨ tplEs e.tpl ≠ xWidth (tplXs e.tpl) ∨ tplDS1 e.tpl % wd ≠ 0 ∨ tplDS2 e.tpl % wd ≠ 0))
      Code.reservedField 0 0
    let s ← get
    let r := envOf s.cur.fcsr
    let todo := copyElems e.tpl x y wd
    enqueueCopy { e with op := .cpyx, todo := todo, rm := r.mode, seed := r.seed }
    if r.mode = 5 then modCur (fun c => { c with fcsr := seedAfter r.seed todo.length ++ c.fcsr.extractLsb' 0 32 })) s

/-- CPYT (R262); its fill or release publishes what came before it, but for UO pages (R293, R294). -/
def execCpyt (o : Cpy) (s : State) : Host.Outcome State Fault Refusal :=
  runAct (do
    let (x, y, e) ← copyOperands o
    copyAligned x (tplEs e.tpl)
    raiseIf (y.extractLsb' 9 55 != 0) Code.reservedField 0 y
    let (k, t) ← troughReady (y.extractLsb' 0 8)
    raiseIf (decide (t.slotBytes < tplN0 e.tpl * tplN1 e.tpl * tplN2 e.tpl * tplEs e.tpl)) Code.troughState 0 0
    let s ← get
    enqueueCopy { e with
      op := .cpyt, trough := k, tids := (s.releaseDeps s.cur true t.scope).filter (fun i => !s.isUo s.cur i), todo := troughElems e.tpl x (y.getLsbD 8) }) s

/-- CGATH and CSCAT: the record at y is read at issue; its D and index list stand in the entry (R259, R260). -/
def listForm (op : CopyOp) (bad : Nat) (o : Cpy) : Act Unit := do
  let (x, y, e) ← copyOperands o
  copyAligned x (tplEs e.tpl)
  copyAligned y 8
  let bs ← acquireLoad y 16 .eng
  let d : Word := BitVec.ofNat 64 (leNat (bs.take 8))
  let list : Word := BitVec.ofNat 64 (leNat (bs.drop 8))
  copyAligned d (tplEs e.tpl)
  copyAligned list 4
  raiseIf (decide (tplOob e.tpl = bad)) Code.reservedField 0 0
  enqueueCopy { e with op := op, y := d, list := list }

def execCgath (o : Cpy) (s : State) : Host.Outcome State Fault Refusal := runAct (listForm .cgath 2 o) s
def execCscat (o : Cpy) (s : State) : Host.Outcome State Fault Refusal := runAct (listForm .cscat 1 o) s

/-- CZERO (R263). -/
def execCzero (o : CZeroF) (s : State) : Host.Outcome State Fault Refusal :=
  runAct (do
    let (x, y, e) ← copyOperands ⟨o.sa, o.sb, 0, o.rl, o.sc⟩
    copyAligned x 32
    copyAligned y 32
    enqueueCopy { e with op := .czero, tpl := 0, todo := zeroElems x y }) s

/-- CRED (R264). -/
def credForm (bf det : Bool) (o : Cpy) : Act Unit := do
  let (x, y, e) ← copyOperands o
  raiseIf (decide (tplEs e.tpl ≠ if bf then 2 else 4)) Code.reservedField 0 0
  copyAligned x (tplEs e.tpl)
  copyAligned y (tplEs e.tpl)
  enqueueCopy { e with op := .cred bf det, todo := copyElems e.tpl x y (tplEs e.tpl) }

def execCredF32 (o : Cpy) (s : State) : Host.Outcome State Fault Refusal := runAct (credForm false false o) s
def execCredBf16 (o : Cpy) (s : State) : Host.Outcome State Fault Refusal := runAct (credForm true false o) s
def execCredF32Det (o : Cpy) (s : State) : Host.Outcome State Fault Refusal := runAct (credForm false true o) s
def execCredBf16Det (o : Cpy) (s : State) : Host.Outcome State Fault Refusal := runAct (credForm true true o) s

/-- CREDE (R266). -/
def execCrede (sa : BitVec 5) (s : State) : Host.Outcome State Fault Refusal :=
  runAct (do
    let x ← readSrc sa false
    raiseIf (fieldN x 63 22 != 0 || fieldN x 15 14 != 0 || decide (fieldN x 21 16 < fieldN x 13 8)) Code.reservedField 0 x
    let s ← get
    enqueueCopy (CopyEntry.blank .crede x 0 0 s.cur.pc)) s

/-- CFENCE (R253, R290): it completes once every copy before it has, and the accesses before it and what its context has seen are performed. -/
def execCfence (sc : BitVec 3) (s : State) : Host.Outcome State Fault Refusal :=
  runAct (do
    let (x, note) ← copyScope true sc
    awaitAcquire
    let s ← get
    enqueueCopy { CopyEntry.blank .cfence 0 0 0 s.cur.pc with rel := x, note := note, ids := s.releaseDeps s.cur true (x.getD .dev) }) s

/-- Incomplete copies of the queue (R252). -/
def Context.copies (c : Context) : Nat := (c.copyq.filter (fun e => e.op.isCopy)).length

/-- CWAIT in a copy context (R252). -/
def execCwaitCopy (sa : BitVec 5) (s : State) : Host.Outcome State Fault Refusal :=
  runAct (do
    let x ← readSrc sa false
    let s ← get
    waitIf (decide (x.toNat < s.cur.copies)) (.copiesLeft x.toNat)
    modify (fun s => s.orderPoint s.cur true)
    advance) s

/-- Word k of a template replaced where the mask asks for it (R257). -/
def tplMerge (t : Template) (mask : Word) (bs : List Byte) : Template :=
  (List.range 8).foldl (fun acc k => if mask.getLsbD k then setField acc (64 * k + 63) (64 * k) (leNat ((bs.drop (8 * k)).take 8)) else acc) t

/-- CTPL (R257). -/
def execCtpl (o : CTplF) (s : State) : Host.Outcome State Fault Refusal :=
  runAct (do
    let x ← readSrc o.sa false
    let y ← readSrc o.sb false
    raiseIf (y.extractLsb' 8 56 != 0) Code.reservedField 0 y
    copyAligned x 64
    let bs ← acquireLoad x 64 .eng
    let s ← get
    let t := tplMerge (s.cur.ct[o.ct.toNat]'o.ct.isLt) y bs
    raiseIf (!tplOk t) Code.reservedField 0 0
    modCur (fun c => { c with ct := c.ct.set o.ct.toNat t o.ct.isLt })
    advance) s

end Sys2Proof.Machine
end

