-- ==== Sys2Proof/Machine/Events.lean ====
section
/-! DEFINITION. The machine's own moves: accesses performed (R80, R279 to R284), bank switches (R307), waits that end (R52), watchdogs (R52, R78,
R358), and deliveries (R363, R364). -/
namespace Sys2Proof.Machine

/-! ## Results, and words that are no instruction -/

/-- RESULT_LANDS: result n of a context, once it may (R80). One that finds a marked sector performs nothing (R368). -/
def execResultLands (r : CtxRef) (n : Nat) (s : State) : Host.Outcome State Fault Refusal :=
  .next (match s.ctx? r with
    | none => s
    | some c =>
      match c.pend.find? (fun q => q.id = n) with
      | none => s
      | some q =>
        if !s.mayLand c q then s
        else
          match q.pieces.find? (fun p => s.poisoned p.pa) with
          | some p => s.attribute p.pa r
          | none =>
            match q.what with
            | .vload base got elems k => s.landVector c q base got elems k
            | .value _ => s.landScalar c q
            | .held => s.landScalar c q
            | .load _ _ _ => s.landScalar c q
            | .atomic _ _ _ _ _ _ => s.landScalar c q)

/-- UNALLOCATED_ENCODING (R70, R71, R83). -/
def execUnallocatedEncoding (e : DecodeErr) (w : Word) (s : State) : Host.Outcome State Fault Refusal :=
  match e with
  | .illegal d => runAct (raise Code.illegalOp d w) s
  | .reserved => runAct (raise Code.reservedField 0 w) s
  | .stepProgram d => .next (s.stepStop s.curStep Code.stepProgram d)

/-! ## Stores (R281 to R284) -/

/-- HOLD_BUFFER_LEAVE: a store is performed at eng, a remote one is sent; one to a marked sector is not performed (R367, R368, R377). -/
def execHoldBufferLeave (id : Nat) (s : State) : Host.Outcome State Fault Refusal :=
  .next (match s.hold.find? (fun r => r.id = id) with
    | none => s
    | some r =>
      let rs := s.hold.filter (fun q => q.id = id)
      if r.page.remote.isSome then s.sendUnit id
      else
        match rs.find? (fun q => s.poisoned q.pa) with
        | some q => if rs.all s.mayLeave then (({ s with hold := s.hold.filter (fun q => q.id ≠ id) } : State).attribute q.pa q.by_) else s
        | none => s.leaveHold id)

/-- Two held records in one run of bytes as one record, the second's bytes over the first's. -/
def StoreRec.join (a b : StoreRec) : Option StoreRec :=
  if a.pa ≤ b.pa + b.bytes.length ∧ b.pa ≤ a.pa + a.bytes.length then
    let lo := min a.pa b.pa
    let n := max (a.pa + a.bytes.length) (b.pa + b.bytes.length) - lo
    some { b with
      pa := lo, bytes := (List.range n).map (fun i => if b.covers (lo + i) then b.byteAt (lo + i) else a.byteAt (lo + i))
      also := a.also ++ (a.by_, a.id) :: b.also, rels := a.rels ++ b.rels, copy := a.copy && b.copy }
  else none

/-- Two held stores of one context to one sector of an RC or UO page, neither of them sent, with nothing of the context between them on the first
one's bytes (R148, R282). The records of the first are bytes that go with the second from now on; those of a remote store form one run. -/
def State.mayMerge (s : State) (a b : StoreRec) : Bool :=
  let plain (r : StoreRec) : Bool := r.page.ord != .so && !r.sent
  let between (i : Nat) : Bool := decide (a.id < i) && decide (i < b.id)
  let first := s.hold.filter (fun q => q.id = a.id)
  plain a && plain b && decide (a.id < b.id) && a.by_ = b.by_ && a.pa / 32 = b.pa / 32 &&
  first.all (fun q => !(s.hold.any (fun x => x.by_ = a.by_ && between x.id && x.overlaps q))) &&
  (match s.ctx? a.by_ with
   | none => true
   | some c => c.pend.all (fun p => !between p.id || p.pieces.all (fun x => first.all (fun q => decide (q.pa + q.bytes.length ≤ x.pa ∨ x.pa + x.len ≤ q.pa))))) &&
  (b.page.remote.isNone || (decide (first.length = 1) && (a.join b).isSome))

/-- Every record of store a goes with store b. -/
def State.mergeStores (s : State) (a b : StoreRec) : State :=
  match (if b.page.remote.isSome then a.join b else none) with
  | some q => { s with hold := (s.hold.filter (fun r => r.id ≠ a.id)).map (fun r => if r.id = b.id && r.pa = b.pa then q else r) }
  | none => { s with hold := s.hold.map (fun r => if r.id = a.id then { r with id := b.id, also := (r.by_, a.id) :: r.also } else r) }

/-- STORE_MERGE: the first store becomes part of the second, whose bytes win; they move as one from now on, as the later one. -/
def execStoreMerge (first second : Nat) (s : State) : Host.Outcome State Fault Refusal :=
  .next (match s.hold.find? (fun r => r.id = first) with
    | none => s
    | some a =>
      match s.hold.find? (fun r => r.id = second && r.pa / 32 = a.pa / 32) with
      | none => s
      | some b => if s.mayMerge a b then s.mergeStores a b else s)

/-- SECTOR_WRITEBACK: a dirty sector is written back whole; a clean one is evicted (R283, R301). -/
def execSectorWriteback (core sector : Nat) (s : State) : Host.Outcome State Fault Refusal :=
  .next (match s.l1Find core (32 * sector) with
    | none => s
    | some x =>
      if !x.dirty then s.l1Drop core x.pa
      else if s.poisoned x.pa then (s.l1Drop core x.pa).attribute x.pa x.by_
      else if s.mayWriteBack x then s.writeback x
      else s)

/-- STORE_SCOPE_RISE: one stage after another up to `sc`; at sys the copies that the Adits hold are dropped (R284, R299). -/
def execStoreScopeRise (id : Nat) (sc : Scope) (s : State) : Host.Outcome State Fault Refusal :=
  .next (
    let rs := s.coh.filter (fun r => r.id = id)
    let t := ([Scope.grp, .dev, .fab, .sys].filter (fun x => decide (Scope.rank x ≤ Scope.rank sc))).foldl (fun t x => t.rise id x) s
    if t.coh.any (fun r => r.id = id) then t else rs.foldl (fun t r => t.dropWindows r.pa) t)

/-! ## Bank switches (R307, R309) -/

/-- An address lies in a bank. -/
def inBank (g b pa : Nat) : Bool := paKind pa == .sram g b

/-- The extension of a bank that leaves FIFO mode is empty. -/
def State.extEmpty (s : State) (g b : Nat) : Bool := s.routes.all (fun r => r.1 / 64 ≠ g || r.2.ext != some b || decide (r.2.entries.length ≤ 64))

/-- The work of a switch may end: accesses issued before it have completed, and an extension is empty. -/
def State.switchReady (s : State) (g b : Nat) : Bool :=
  s.extEmpty g b && s.hold.all (fun r => !inBank g b r.pa) && (s.cur :: s.parked).all (fun c => c.pend.all (fun q => q.pieces.all (fun p => !inBank g b p.pa)))

/-- BANK_SWITCH_DONE. -/
def execBankSwitchDone (g b : Nat) (s : State) : Host.Outcome State Fault Refusal :=
  .next (
    let k := s.bank g b
    if !k.busy || !s.switchReady g b then s
    else
      let new : Bank := { k with
        mode := k.toMode, route := k.toRoute, busy := false, by_ := none
        attached := k.toMode = 2 && (Tbl.get? s.routes (routeKey g k.toRoute)).isSome }
      let routes := s.routes.map (fun r =>
        if r.1 / 64 ≠ g then r
        else if new.attached && r.1 % 64 = k.toRoute then (r.1, { r.2 with ext := some b })
        else if r.2.ext = some b then (r.1, { r.2 with ext := none })
        else r)
      let t := { s with banks := Tbl.set s.banks (bankKey g b) new, routes := routes }
      if (k.mode = 0 ∧ k.toMode ≠ 0) ∨ (k.mode = 1 ∧ k.toMode = 2) ∨ (k.mode = 2 ∧ k.toMode = 1) then
        { t with mem := t.mem.filter (fun c => !inBank g b c.1), coh := t.coh.filter (fun r => !inBank g b r.pa) }
      else t)

/-! ## Waits (R27, R52) -/

/-- Slots that claims, or takes, of this cycle find one after another in ring order. -/
def Trough.freeRun (t : Trough) : Nat := ((List.range t.cap).takeWhile (fun i => t.slotAt ((t.head + i) % t.cap) == .free)).length
def Trough.fullRun (t : Trough) (cycle : Nat) : Nat :=
  if t.takeable cycle then ((List.range t.cap).takeWhile (fun i => t.slotAt ((t.tail + i) % t.cap) == .full)).length else 0

/-- Positions whose claim, or take, of a trough waits: contexts, and copies to and from troughs. -/
def State.troughWaiters (s : State) (k : Nat) (t : Trough) (take : Bool) : List Nat :=
  let mine (c : Context) : Bool := c.phase = .waiting && s.running c.slot && c.wait.any (fun w => w.cond =
    (if take then .troughFull (k / 1024) (k % 1024) else .troughFree (k / 1024) (k % 1024)))
  let copies (c : Context) : Bool := s.running c.slot && c.copyq.any (fun e => e.op = .cpyt && e.trough = k && !e.begun && e.since.isSome && e.y.getLsbD 8 = take)
  ((s.cur :: s.parked).filter (fun c => mine c || copies c)).map t.position

/-- How many of them are served before a position (R313). -/
def State.waitersAhead (s : State) (k : Nat) (t : Trough) (take : Bool) (pos : Nat) : Nat :=
  let p := (if take then t.takePtr else t.claimPtr).roll t.positions s.cycle
  ((s.troughWaiters k t take).filter (fun x => decide (p.rank t.positions x < p.rank t.positions pos))).length

/-- Whether the condition of a context's wait holds. -/
def State.waitHolds (s : State) (c : Context) : WaitCond → Bool
  | .full n => c.isFull n
  | .landed d => c.pend.all (fun q => q.dst ≠ d)
  | .allLanded => c.pend.isEmpty
  | .performed ids sc => ids.all (fun i => s.performedAt i sc)
  | .noAcquire => !c.pend.any Pend.isAcquire
  | .requestSlot => decide (s.outstanding c < s.slotsOf c)
  | .pageReply pages => match Tbl.get? s.vfs (s.vfOf c.slot) with
    | some v => pages.any (fun p => v.reqs.all (fun q => q.ipa ≠ p || !q.waiters.contains c.ref) && (decide (v.reqs.length < 256) || v.reqs.any (fun q => q.ipa = p)))
    | none => true
  | .troughFree g t => (Tbl.get? s.troughs (troughKey g t)).all (fun x => x.inc || decide (s.waitersAhead (troughKey g t) x false (x.position c) < x.freeRun))
  | .troughFull g t => (Tbl.get? s.troughs (troughKey g t)).all (fun x =>
      x.inc || decide (s.waitersAhead (troughKey g t) x true (x.position c) < x.fullRun s.cycle))
  | .headFree g t => (Tbl.get? s.troughs (troughKey g t)).all (fun x => x.inc || x.slotAt x.headSlot == .free)
  | .tailFull g t => (Tbl.get? s.troughs (troughKey g t)).all (fun x => x.inc || x.takeable s.cycle)
  | .phaseNot g r p => (s.rdv g r).phase != p
  | .lease g => (s.hearth g).holder = some c.slot || !s.leaseQ.any (fun r => r.slot = c.slot && r.grps.contains g)
  | .contextSlot k e => s.forkRoom c.slot k e && (s.freeNum c.slot).isSome
  | .stepSlot =>
    decide ((s.steps.filter (fun x => x.2.slot = c.slot)).length < s.effOf c .stepb) &&
    (List.range 32).any (fun i => (Tbl.get? s.steps (32 * dieOf c.grp + i)).isNone)
  | .stepEnd h => (Tbl.get? s.steps h).all (fun x => x.status.isSome)
  | .routeData g r => (s.routeUnit (routeKey g r)).isSome || (Tbl.get? s.routes (routeKey g r)).isNone
  | .routeRoom g r => s.routeHasRoom c.ref (routeKey g r) || (Tbl.get? s.routes (routeKey g r)).isNone
  | .routeEmpty g r => (Tbl.get? s.routes (routeKey g r)).all (fun x => x.entries.isEmpty && x.partway.isNone)
  | .bankIdle g b => !(s.bank g b).busy
  | .children => !s.children c.slot
  | .stepsStopped => s.steps.all (fun x => x.2.slot ≠ c.slot || x.2.status.isSome)
  | .yieldReply => false
  | .quiescent g => s.isQuiet g || (s.hearth g).frozen
  | .joinQuiet g => s.isQuiet g
  | .peelRoom g west => decide ((if west then (s.hearth g).west else (s.hearth g).south).length < 8) || (s.hearth g).frozen
  | .stashIdle g t => s.slotIdle g t || (s.hearth g).frozen
  | .copyEmpty => c.copyq.isEmpty
  | .complReply ipa => match Tbl.get? s.vfs (s.vfOf c.slot) with
    | some v => v.reqs.all (fun q => q.ipa ≠ ipa || !q.waiters.contains (complRef c.slot))
    | none => true
  | .copyRoom => decide (c.copyq.length < 16)
  | .copiesLeft n => decide (c.copies ≤ n)
  | .copyFlags => !c.copyq.any (fun e => e.op = .cpyx)
  | .copyOrder pieces write => !s.copyConflict c pieces write
  | .remote id => c.remoteLd.all (fun r => r.2.1 ≠ id || r.2.2.isSome)
  | .sitDrained => !s.sitLeft c.slot
  | .cycleAfter n => decide (n < s.cycle)
  | .replay kind a b => s.presents (s.vfOf c.slot) kind a b

/-- WAIT_SATISFIED: the context is READY, and its instruction is executed again (R27, R52). -/
def execWaitSatisfied (r : CtxRef) (s : State) : Host.Outcome State Fault Refusal :=
  .next (match s.ctx? r with
    | none => s
    | some c =>
      match c.wait with
      | none => s
      | some w => if c.phase = .waiting ∧ s.running r.slot = true ∧ s.waitHolds c w.cond = true then s.setCtx r (fun c => { c with phase := .ready, wait := none }) else s)

/-! ## Watchdogs (R52, R78, R166, R307, R358) -/

/-- Whether a wait has the bound of R52. A page request has its own watchdog (R358), an answer to YIELD its own time (R157), and the cycle order of
requests ends by itself; retirement (R28), Dortas' completion record (R23) and a replayed capture (R405) are waited for by no context (assumption 64). -/
def WaitCond.bounded : WaitCond → Bool
  | .pageReply _ | .yieldReply | .complReply _ | .sitDrained | .cycleAfter _ | .replay _ _ _ => false
  | .full _ | .landed _ | .allLanded | .performed _ _ | .noAcquire | .requestSlot | .troughFree _ _ | .troughFull _ _ | .phaseNot _ _ _ | .lease _
  | .contextSlot _ _ | .stepSlot | .stepEnd _ | .routeData _ _ | .routeRoom _ _ | .routeEmpty _ _ | .bankIdle _ _ | .children | .stepsStopped
  | .quiescent _ | .peelRoom _ _ | .stashIdle _ _ | .copyEmpty | .copyRoom | .copiesLeft _ | .copyFlags | .remote _ | .copyOrder _ _ | .joinQuiet _
  | .headFree _ _ | .tailFull _ _ => true

/-- The trough a wait is on. -/
def WaitCond.trough : WaitCond → Option Nat
  | .troughFree g t | .troughFull g t | .headFree g t | .tailFull g t => some (troughKey g t)
  | .full _ | .landed _ | .allLanded | .performed _ _ | .noAcquire | .requestSlot | .pageReply _ | .phaseNot _ _ _ | .lease _ | .contextSlot _ _
  | .stepSlot | .stepEnd _ | .routeData _ _ | .routeRoom _ _ | .routeEmpty _ _ | .bankIdle _ _ | .children | .stepsStopped | .yieldReply
  | .quiescent _ | .peelRoom _ _ | .stashIdle _ _ | .copyEmpty | .complReply _ | .copyRoom | .copiesLeft _ | .copyFlags | .copyOrder _ _ | .remote _
  | .sitDrained | .joinQuiet _ | .cycleAfter _ | .replay _ _ _ => none

/-- INC of a trough set (R166). -/
def State.setInc (s : State) (k : Nat) : State :=
  match Tbl.get? s.troughs k with
  | some t => s.setTrough k { t with inc := true }
  | none => s

/-- A context that runs and waits longer than its bound. -/
def State.overdue (s : State) (c : Context) : Option WaitCond :=
  match c.wait with
  | some w => if c.phase = .waiting ∧ s.running c.slot = true ∧ w.since + w.bound ≤ s.cycle ∧ s.waitHolds c w.cond = false then some w.cond else none
  | none => none

/-- A bank switch started by the context still waits for its extension at the bound (R307). -/
def State.lateSwitch (s : State) (c : Context) : Option Nat :=
  (s.banks.find? (fun b => b.2.busy && b.2.by_ = some c.ref && decide (b.2.since + b.2.bound ≤ s.cycle) && !s.extEmpty (b.1 / 16) (b.1 % 16))).map (·.1)

/-- WAIT_WATCHDOG. -/
def execWaitWatchdog (r : CtxRef) (s : State) : Host.Outcome State Fault Refusal :=
  .next (match s.ctx? r with
    | none => s
    | some c =>
      match (s.overdue c).filter WaitCond.bounded with
      | some w =>
        (match w.trough with
         | some k => (s.setInc k).takeFault r ⟨Code.troughInconsistent, 0, 0, false⟩ c.pc
         | none => s.takeFault r ⟨Code.watchdog, 0, 0, false⟩ c.pc)
      | none =>
        match (if c.faultRoom then s.lateSwitch c else none) with
        | some k =>
          ({ s with banks := Tbl.set s.banks k { s.bank (k / 16) (k % 16) with by_ := none } } : State).setCtx r
            (fun c => { c with faults := c.faults ++ [⟨Code.watchdog, 0, 0, false⟩] })
        | none => s)

/-- The image's MAXITER (R76). -/
def State.maxiter (s : State) (slot : Nat) : Nat :=
  match s.imageOf slot with
  | some i => fieldN i.header 191 160
  | none => 15200

/-- MAXITER_WATCHDOG (R78). -/
def execMaxiterWatchdog (r : CtxRef) (s : State) : Host.Outcome State Fault Refusal :=
  .next (match s.ctx? r with
    | none => s
    | some c =>
      if c.phase = .ready ∧ s.running r.slot = true ∧ s.maxiter r.slot < c.sinceBoundary then s.takeFault r ⟨Code.watchdog, 3, 0, false⟩ c.pc else s)

/-- A copy of the context that has waited too long for a trough slot or for a page (R52, R166, R254, R358). -/
def State.overdueCopy (s : State) (c : Context) : Option CopyEntry :=
  c.copyq.find? (fun e => e.since.any (fun t => decide (t + c.wdog.toNat * 1024 ≤ s.cycle)))

/-- PAGE_REQUEST_WATCHDOG: a context's page wait, or a copy's wait, passes the bound; the request stays queued (R358). -/
def execPageRequestWatchdog (r : CtxRef) (s : State) : Host.Outcome State Fault Refusal :=
  .next (match s.ctx? r with
    | none => s
    | some c =>
      match s.overdue c with
      | some (.pageReply _) => s.takeFault r ⟨Code.watchdog, 6, 0, false⟩ c.pc
      | _ =>
        match (if c.faultRoom && s.running r.slot then s.overdueCopy c else none) with
        | none => s
        | some e =>
          if e.missing.isEmpty then (s.setInc e.trough).copyFault r e.id Code.troughInconsistent 0
          else s.copyFault r e.id Code.watchdog 0)

/-! ## Deliveries (R363, R364, R391) -/

/-- A boundary of a context that runs at HD = 0 and is not retiring. -/
def State.atBoundary (s : State) (c : Context) : Bool := !c.hd && s.running c.slot && c.halting.isNone

/-- A standing YIELD offer withdrawn. -/
def State.withdrawOffer (s : State) (c : Context) : State :=
  if c.yielding then
    let s1 : State := match Tbl.get? s.slots c.slot with
      | some x => s.setSlot c.slot { x with offer := none }
      | none => s
    s1.setCtx c.ref (fun c => { c with yielding := false })
  else s

/-- FAULT_DELIVERY: the oldest held asynchronous fault; it also ends a wait (R232, R254, R362). -/
def execFaultDelivery (r : CtxRef) (s : State) : Host.Outcome State Fault Refusal :=
  .next (match s.ctx? r with
    | none => s
    | some c =>
      match c.faults with
      | [] => s
      | f :: rest =>
        if s.atBoundary c ∧ (c.phase = .ready ∨ c.phase = .waiting) then
          ((s.withdrawOffer c).setCtx r (fun c => { c with faults := rest })).takeFault r f c.pc
        else s)

/-- EVENT_DELIVERY: the oldest held event, when no fault is held; never escalated (R363, R364, R391). -/
def execEventDelivery (r : CtxRef) (s : State) : Host.Outcome State Fault Refusal :=
  .next (match s.ctx? r with
    | none => s
    | some c =>
      match c.events with
      | [] => s
      | f :: rest =>
        if s.atBoundary c ∧ c.phase = .ready ∧ c.faults.isEmpty then
          let s1 := s.setCtx r (fun c => { c with events := rest })
          if c.tvec = 0 then { s1 with lostEvents := Tbl.set s1.lostEvents (s1.vfOf r.slot) ((Tbl.get? s1.lostEvents (s1.vfOf r.slot)).getD 0 + 1) }
          else s1.takeFault r f c.pc
        else s)

end Sys2Proof.Machine
end

