-- ==== Sys2Proof/Machine/Dispatch.lean ====
section
/-! DEFINITION. One arm for each constructor of `Instr`. -/
namespace Sys2Proof.Machine

def exec (i : Instr) (s : State) : Host.Outcome State Fault Refusal :=
  match i with
  | .add o => Sys2Proof.Machine.execAdd o s
  | .sub o => Sys2Proof.Machine.execSub o s
  | .mul o => Sys2Proof.Machine.execMul o s
  | .mulh o => Sys2Proof.Machine.execMulh o s
  | .mulhn o => Sys2Proof.Machine.execMulhn o s
  | .div o => Sys2Proof.Machine.execDiv o s
  | .divn o => Sys2Proof.Machine.execDivn o s
  | .rem o => Sys2Proof.Machine.execRem o s
  | .remn o => Sys2Proof.Machine.execRemn o s
  | .and o => Sys2Proof.Machine.execAnd o s
  | .or o => Sys2Proof.Machine.execOr o s
  | .xor o => Sys2Proof.Machine.execXor o s
  | .sll o => Sys2Proof.Machine.execSll o s
  | .srl o => Sys2Proof.Machine.execSrl o s
  | .sra o => Sys2Proof.Machine.execSra o s
  | .min o => Sys2Proof.Machine.execMin o s
  | .max o => Sys2Proof.Machine.execMax o s
  | .minn o => Sys2Proof.Machine.execMinn o s
  | .maxn o => Sys2Proof.Machine.execMaxn o s
  | .slt o => Sys2Proof.Machine.execSlt o s
  | .sltn o => Sys2Proof.Machine.execSltn o s
  | .clz o => Sys2Proof.Machine.execClz o s
  | .popc o => Sys2Proof.Machine.execPopc o s
  | .psetEq o => Sys2Proof.Machine.execPsetEq o s
  | .psetNe o => Sys2Proof.Machine.execPsetNe o s
  | .psetLt o => Sys2Proof.Machine.execPsetLt o s
  | .psetGe o => Sys2Proof.Machine.execPsetGe o s
  | .psetLtn o => Sys2Proof.Machine.execPsetLtn o s
  | .psetGen o => Sys2Proof.Machine.execPsetGen o s
  | .plogAnd o => Sys2Proof.Machine.execPlogAnd o s
  | .plogOr o => Sys2Proof.Machine.execPlogOr o s
  | .plogXor o => Sys2Proof.Machine.execPlogXor o s
  | .plogAndn o => Sys2Proof.Machine.execPlogAndn o s
  | .addi o => Sys2Proof.Machine.execAddi o s
  | .andi o => Sys2Proof.Machine.execAndi o s
  | .ori o => Sys2Proof.Machine.execOri o s
  | .xori o => Sys2Proof.Machine.execXori o s
  | .slli o => Sys2Proof.Machine.execSlli o s
  | .srli o => Sys2Proof.Machine.execSrli o s
  | .srai o => Sys2Proof.Machine.execSrai o s
  | .slti o => Sys2Proof.Machine.execSlti o s
  | .lih o => Sys2Proof.Machine.execLih o s
  | .ldSigned o => Sys2Proof.Machine.execLdSigned o s
  | .ldUnsigned o => Sys2Proof.Machine.execLdUnsigned o s
  | .ldaSigned o => Sys2Proof.Machine.execLdaSigned o s
  | .ldaUnsigned o => Sys2Proof.Machine.execLdaUnsigned o s
  | .st o => Sys2Proof.Machine.execSt o s
  | .stl o => Sys2Proof.Machine.execStl o s
  | .waitf a => Sys2Proof.Machine.execWaitf a s
  | .eret => Sys2Proof.Machine.execEret s
  | .eretHalt o => Sys2Proof.Machine.execEretHalt o s
  | .yield => Sys2Proof.Machine.execYield s
  | .fence sc => Sys2Proof.Machine.execFence sc s
  | .sysr o => Sys2Proof.Machine.execSysr o s
  | .sysw o => Sys2Proof.Machine.execSysw o s
  | .syswFcsr o => Sys2Proof.Machine.execSyswFcsr o s
  | .syswBankcfg o => Sys2Proof.Machine.execSyswBankcfg o s
  | .syswQb o => Sys2Proof.Machine.execSyswQb o s
  | .trap n => Sys2Proof.Machine.execTrap n s
  | .beq o => Sys2Proof.Machine.execBeq o s
  | .bne o => Sys2Proof.Machine.execBne o s
  | .blt o => Sys2Proof.Machine.execBlt o s
  | .bge o => Sys2Proof.Machine.execBge o s
  | .bltn o => Sys2Proof.Machine.execBltn o s
  | .bgen o => Sys2Proof.Machine.execBgen o s
  | .bp o => Sys2Proof.Machine.execBp o s
  | .jal o => Sys2Proof.Machine.execJal o s
  | .jr o => Sys2Proof.Machine.execJr o s
  | .loop o => Sys2Proof.Machine.execLoop o s
  | .loopi o => Sys2Proof.Machine.execLoopi o s
  | .lbrk p => Sys2Proof.Machine.execLbrk p s
  | .fork o => Sys2Proof.Machine.execFork o s
  | .leaseAcq o => Sys2Proof.Machine.execLeaseAcq o s
  | .leaseTry o => Sys2Proof.Machine.execLeaseTry o s
  | .leaseRel o => Sys2Proof.Machine.execLeaseRel o s
  | .swroute o => Sys2Proof.Machine.execSwroute o s
  | .swdrop o => Sys2Proof.Machine.execSwdrop o s
  | .lpatch o => Sys2Proof.Machine.execLpatch o s
  | .larm o => Sys2Proof.Machine.execLarm o s
  | .lquery o => Sys2Proof.Machine.execLquery o s
  | .cstart o => Sys2Proof.Machine.execCstart o s
  | .cwait o => Sys2Proof.Machine.execCwait o s
  | .chkpt d => Sys2Proof.Machine.execChkpt d s
  | .assayr o => Sys2Proof.Machine.execAssayr o s
  | .tcfg o => Sys2Proof.Machine.execTcfg o s
  | .tclaim o => Sys2Proof.Machine.execTclaim o s
  | .tfill o => Sys2Proof.Machine.execTfill o s
  | .ttake o => Sys2Proof.Machine.execTtake o s
  | .trelease o => Sys2Proof.Machine.execTrelease o s
  | .twaitf t => Sys2Proof.Machine.execTwaitf t s
  | .twaite t => Sys2Proof.Machine.execTwaite t s
  | .tstat o => Sys2Proof.Machine.execTstat o s
  | .tresync t => Sys2Proof.Machine.execTresync t s
  | .rdv r => Sys2Proof.Machine.execRdv r s
  | .rdva r => Sys2Proof.Machine.execRdva r s
  | .rdve o => Sys2Proof.Machine.execRdve o s
  | .kpost o => Sys2Proof.Machine.execKpost o s
  | .kreset k => Sys2Proof.Machine.execKreset k s
  | .kread o => Sys2Proof.Machine.execKread o s
  | .rateBind o => Sys2Proof.Machine.execRateBind o s
  | .rateSet o => Sys2Proof.Machine.execRateSet o s
  | .rateHold o => Sys2Proof.Machine.execRateHold o s
  | .rateRead o => Sys2Proof.Machine.execRateRead o s
  | .amoI32 o => Sys2Proof.Machine.execAmoI32 o s
  | .amoI64 o => Sys2Proof.Machine.execAmoI64 o s
  | .amoN32 o => Sys2Proof.Machine.execAmoN32 o s
  | .amoN64 o => Sys2Proof.Machine.execAmoN64 o s
  | .casN32 o => Sys2Proof.Machine.execCasN32 o s
  | .casN64 o => Sys2Proof.Machine.execCasN64 o s
  | .amofF32 o => Sys2Proof.Machine.execAmofF32 o s
  | .amofBf16 o => Sys2Proof.Machine.execAmofBf16 o s
  | .vadd o => Sys2Proof.Machine.execVadd o s
  | .vsub o => Sys2Proof.Machine.execVsub o s
  | .vmul o => Sys2Proof.Machine.execVmul o s
  | .vfma o => Sys2Proof.Machine.execVfma o s
  | .vfms o => Sys2Proof.Machine.execVfms o s
  | .vfnma o => Sys2Proof.Machine.execVfnma o s
  | .vmin o => Sys2Proof.Machine.execVmin o s
  | .vmax o => Sys2Proof.Machine.execVmax o s
  | .vminp o => Sys2Proof.Machine.execVminp o s
  | .vmaxp o => Sys2Proof.Machine.execVmaxp o s
  | .vabs o => Sys2Proof.Machine.execVabs o s
  | .vneg o => Sys2Proof.Machine.execVneg o s
  | .vexp2 o => Sys2Proof.Machine.execVexp2 o s
  | .vlog2 o => Sys2Proof.Machine.execVlog2 o s
  | .vrcp o => Sys2Proof.Machine.execVrcp o s
  | .vrsqrt o => Sys2Proof.Machine.execVrsqrt o s
  | .vtanh o => Sys2Proof.Machine.execVtanh o s
  | .vsigm o => Sys2Proof.Machine.execVsigm o s
  | .vrsum o => Sys2Proof.Machine.execVrsum o s
  | .vrmax o => Sys2Proof.Machine.execVrmax o s
  | .vrmin o => Sys2Proof.Machine.execVrmin o s
  | .vcsum o => Sys2Proof.Machine.execVcsum o s
  | .viadd o => Sys2Proof.Machine.execViadd o s
  | .visub o => Sys2Proof.Machine.execVisub o s
  | .vimul o => Sys2Proof.Machine.execVimul o s
  | .vand o => Sys2Proof.Machine.execVand o s
  | .vor o => Sys2Proof.Machine.execVor o s
  | .vxor o => Sys2Proof.Machine.execVxor o s
  | .vshl o => Sys2Proof.Machine.execVshl o s
  | .vshr o => Sys2Proof.Machine.execVshr o s
  | .vsra o => Sys2Proof.Machine.execVsra o s
  | .vcmpEq o => Sys2Proof.Machine.execVcmpEq o s
  | .vcmpNe o => Sys2Proof.Machine.execVcmpNe o s
  | .vcmpLt o => Sys2Proof.Machine.execVcmpLt o s
  | .vcmpLe o => Sys2Proof.Machine.execVcmpLe o s
  | .vcmpGt o => Sys2Proof.Machine.execVcmpGt o s
  | .vcmpGe o => Sys2Proof.Machine.execVcmpGe o s
  | .vcmpEqInt o => Sys2Proof.Machine.execVcmpEqInt o s
  | .vcmpNeInt o => Sys2Proof.Machine.execVcmpNeInt o s
  | .vcmpLtInt o => Sys2Proof.Machine.execVcmpLtInt o s
  | .vcmpLeInt o => Sys2Proof.Machine.execVcmpLeInt o s
  | .vcmpGtInt o => Sys2Proof.Machine.execVcmpGtInt o s
  | .vcmpGeInt o => Sys2Proof.Machine.execVcmpGeInt o s
  | .vsel o => Sys2Proof.Machine.execVsel o s
  | .mlogAnd o => Sys2Proof.Machine.execMlogAnd o s
  | .mlogOr o => Sys2Proof.Machine.execMlogOr o s
  | .mlogXor o => Sys2Proof.Machine.execMlogXor o s
  | .mlogAndn o => Sys2Proof.Machine.execMlogAndn o s
  | .vcompress o => Sys2Proof.Machine.execVcompress o s
  | .vexpand o => Sys2Proof.Machine.execVexpand o s
  | .vtrn o => Sys2Proof.Machine.execVtrn o s
  | .viota o => Sys2Proof.Machine.execViota o s
  | .vcvt o => Sys2Proof.Machine.execVcvt o s
  | .vcvtSat o => Sys2Proof.Machine.execVcvtSat o s
  | .vcvtToInt o => Sys2Proof.Machine.execVcvtToInt o s
  | .vqntBlk16 o => Sys2Proof.Machine.execVqntBlk16 o s
  | .vqntBlk32 o => Sys2Proof.Machine.execVqntBlk32 o s
  | .vbcast o => Sys2Proof.Machine.execVbcast o s
  | .vmovs o => Sys2Proof.Machine.execVmovs o s
  | .vpop o => Sys2Proof.Machine.execVpop o s
  | .vpush o => Sys2Proof.Machine.execVpush o s
  | .vrot o => Sys2Proof.Machine.execVrot o s
  | .vshape o => Sys2Proof.Machine.execVshape o s
  | .vsetrm o => Sys2Proof.Machine.execVsetrm o s
  | .amod o => Sys2Proof.Machine.execAmod o s
  | .amov o => Sys2Proof.Machine.execAmov o s
  | .aadd o => Sys2Proof.Machine.execAadd o s
  | .mpop o => Sys2Proof.Machine.execMpop o s
  | .vld o => Sys2Proof.Machine.execVld o s
  | .vst o => Sys2Proof.Machine.execVst o s
  | .vlds o => Sys2Proof.Machine.execVlds o s
  | .vsts o => Sys2Proof.Machine.execVsts o s
  | .vgath o => Sys2Proof.Machine.execVgath o s
  | .vscat o => Sys2Proof.Machine.execVscat o s
  | .vldt o => Sys2Proof.Machine.execVldt o s
  | .vstt o => Sys2Proof.Machine.execVstt o s
  | .hadmitA o => Sys2Proof.Machine.execHadmitA o s
  | .hadmitS o => Sys2Proof.Machine.execHadmitS o s
  | .hadmitG o => Sys2Proof.Machine.execHadmitG o s
  | .hadmitU x => Sys2Proof.Machine.execHadmitU x s
  | .hdrop o => Sys2Proof.Machine.execHdrop o s
  | .hload o => Sys2Proof.Machine.execHload o s
  | .hstore o => Sys2Proof.Machine.execHstore o s
  | .hspill o => Sys2Proof.Machine.execHspill o s
  | .hfill o => Sys2Proof.Machine.execHfill o s
  | .hwset o => Sys2Proof.Machine.execHwset o s
  | .hzero opt => Sys2Proof.Machine.execHzero opt s
  | .hhad n => Sys2Proof.Machine.execHhad n s
  | .hsetk o => Sys2Proof.Machine.execHsetk o s
  | .hmesh o => Sys2Proof.Machine.execHmesh o s
  | .hcfg o => Sys2Proof.Machine.execHcfg o s
  | .hbind o => Sys2Proof.Machine.execHbind o s
  | .hver o => Sys2Proof.Machine.execHver o s
  | .hfreeze o => Sys2Proof.Machine.execHfreeze o s
  | .hthaw o => Sys2Proof.Machine.execHthaw o s
  | .hdrain => Sys2Proof.Machine.execHdrain s
  | .ctpl o => Sys2Proof.Machine.execCtpl o s
  | .cpy o => Sys2Proof.Machine.execCpy o s
  | .cpyx o => Sys2Proof.Machine.execCpyx o s
  | .cpyt o => Sys2Proof.Machine.execCpyt o s
  | .cgath o => Sys2Proof.Machine.execCgath o s
  | .cscat o => Sys2Proof.Machine.execCscat o s
  | .czero o => Sys2Proof.Machine.execCzero o s
  | .cwaitCopy sa => Sys2Proof.Machine.execCwaitCopy sa s
  | .cfence sc => Sys2Proof.Machine.execCfence sc s
  | .credF32 o => Sys2Proof.Machine.execCredF32 o s
  | .credBf16 o => Sys2Proof.Machine.execCredBf16 o s
  | .credF32Det o => Sys2Proof.Machine.execCredF32Det o s
  | .credBf16Det o => Sys2Proof.Machine.execCredBf16Det o s
  | .crede sa => Sys2Proof.Machine.execCrede sa s
  | .send o => Sys2Proof.Machine.execSend o s
  | .recv o => Sys2Proof.Machine.execRecv o s
  | .rrs o => Sys2Proof.Machine.execRrs o s
  | .copy o => Sys2Proof.Machine.execCopy o s
  | .wait o => Sys2Proof.Machine.execWait o s
  | .loopb o => Sys2Proof.Machine.execLoopb o s
  | .loope o => Sys2Proof.Machine.execLoope o s
  | .peer o => Sys2Proof.Machine.execPeer o s
  | .sitadv o => Sys2Proof.Machine.execSitadv o s
  | .sitret o => Sys2Proof.Machine.execSitret o s
  | .kout o => Sys2Proof.Machine.execKout o s
  | .done o => Sys2Proof.Machine.execDone o s
  | .stepFire h age => Sys2Proof.Machine.execStepFire h age s
  | .stepComplete h age => Sys2Proof.Machine.execStepComplete h age s
  | .stepWatchdog h => Sys2Proof.Machine.execStepWatchdog h s
  | .waitSatisfied c => Sys2Proof.Machine.execWaitSatisfied c s
  | .waitWatchdog c => Sys2Proof.Machine.execWaitWatchdog c s
  | .maxiterWatchdog c => Sys2Proof.Machine.execMaxiterWatchdog c s
  | .pageRequestWatchdog c => Sys2Proof.Machine.execPageRequestWatchdog c s
  | .pageGrant vf id ipa => Sys2Proof.Machine.execPageGrant vf id ipa s
  | .pageDeny vf id ipa => Sys2Proof.Machine.execPageDeny vf id ipa s
  | .faultDelivery c => Sys2Proof.Machine.execFaultDelivery c s
  | .eventDelivery c => Sys2Proof.Machine.execEventDelivery c s
  | .leaseRunEnd g => Sys2Proof.Machine.execLeaseRunEnd g s
  | .prooferPeriod g l => Sys2Proof.Machine.execProoferPeriod g l s
  | .yieldDecision slot => Sys2Proof.Machine.execYieldDecision slot s
  | .vtCharge => Sys2Proof.Machine.execVtCharge s
  | .bindDecision => Sys2Proof.Machine.execBindDecision s
  | .slotSubmit slot => Sys2Proof.Machine.execSlotSubmit slot s
  | .reclaimTimeout => Sys2Proof.Machine.execReclaimTimeout s
  | .quotaExhausted rcb bytes => Sys2Proof.Machine.execQuotaExhausted rcb bytes s
  | .quotaKillTimeout slot => Sys2Proof.Machine.execQuotaKillTimeout slot s
  | .hardPreempt slot => Sys2Proof.Machine.execHardPreempt slot s
  | .contextStop c => Sys2Proof.Machine.execContextStop c s
  | .saveComplete slot => Sys2Proof.Machine.execSaveComplete slot s
  | .restore slot => Sys2Proof.Machine.execRestore slot s
  | .restoreRunning slot => Sys2Proof.Machine.execRestoreRunning slot s
  | .killSequence slot => Sys2Proof.Machine.execKillSequence slot s
  | .drainMarkerComplete slot stack => Sys2Proof.Machine.execDrainMarkerComplete slot stack s
  | .rollback rcb => Sys2Proof.Machine.execRollback rcb s
  | .scrub u sector f => Sys2Proof.Machine.execScrub u sector f s
  | .waveAdmit g west => Sys2Proof.Machine.execWaveAdmit g west s
  | .peelWatchdog g west => Sys2Proof.Machine.execPeelWatchdog g west s
  | .waveAtCell g w r c => Sys2Proof.Machine.execWaveAtCell g w r c s
  | .stashValid g t => Sys2Proof.Machine.execStashValid g t s
  | .stashFree g t => Sys2Proof.Machine.execStashFree g t s
  | .edgeUnitTake g edge => Sys2Proof.Machine.execEdgeUnitTake g edge s
  | .converterPush g south => Sys2Proof.Machine.execConverterPush g south s
  | .copyBegin c => Sys2Proof.Machine.execCopyBegin c s
  | .copyComplete c => Sys2Proof.Machine.execCopyComplete c s
  | .contributionArrival stack c => Sys2Proof.Machine.execContributionArrival stack c s
  | .credeArrival stack c => Sys2Proof.Machine.execCredeArrival stack c s
  | .refusedRetry stack c => Sys2Proof.Machine.execRefusedRetry stack c s
  | .holdBufferLeave id => Sys2Proof.Machine.execHoldBufferLeave id s
  | .storeMerge first second => Sys2Proof.Machine.execStoreMerge first second s
  | .sectorWriteback core sector => Sys2Proof.Machine.execSectorWriteback core sector s
  | .storeScopeRise id sc => Sys2Proof.Machine.execStoreScopeRise id sc s
  | .bankSwitchDone g b => Sys2Proof.Machine.execBankSwitchDone g b s
  | .invalComplete vf => Sys2Proof.Machine.execInvalComplete vf s
  | .cts m => Sys2Proof.Machine.execCts m s
  | .data m => Sys2Proof.Machine.execData m s
  | .ack m => Sys2Proof.Machine.execAck m s
  | .coded m => Sys2Proof.Machine.execCoded m s
  | .dnak m => Sys2Proof.Machine.execDnak m s
  | .retransmitTimeout psn => Sys2Proof.Machine.execRetransmitTimeout psn s
  | .sia m => Sys2Proof.Machine.execSia m s
  | .siw m => Sys2Proof.Machine.execSiw m s
  | .sitEntryRemove die vf blkid blkg => Sys2Proof.Machine.execSitEntryRemove die vf blkid blkg s
  | .packetForward m => Sys2Proof.Machine.execPacketForward m s
  | .codedForm adit => Sys2Proof.Machine.execCodedForm adit s
  | .rmaWr m => Sys2Proof.Machine.execRmaWr m s
  | .rmaRd m => Sys2Proof.Machine.execRmaRd m s
  | .rmaResp m => Sys2Proof.Machine.execRmaResp m s
  | .vfCreate c => Sys2Proof.Machine.execVfCreate c s
  | .vfDestroy c => Sys2Proof.Machine.execVfDestroy c s
  | .s1root c => Sys2Proof.Machine.execS1root c s
  | .s2root c => Sys2Proof.Machine.execS2root c s
  | .inval c => Sys2Proof.Machine.execInval c s
  | .imgLoad c => Sys2Proof.Machine.execImgLoad c s
  | .rcbWrite c => Sys2Proof.Machine.execRcbWrite c s
  | .lrecWrite c => Sys2Proof.Machine.execLrecWrite c s
  | .rcbCreate c => Sys2Proof.Machine.execRcbCreate c s
  | .rcbDelete c => Sys2Proof.Machine.execRcbDelete c s
  | .lrecArm c => Sys2Proof.Machine.execLrecArm c s
  | .kill c => Sys2Proof.Machine.execKill c s
  | .preempt c => Sys2Proof.Machine.execPreempt c s
  | .resume c => Sys2Proof.Machine.execResume c s
  | .rwinSet c => Sys2Proof.Machine.execRwinSet c s
  | .rmawinSet c => Sys2Proof.Machine.execRmawinSet c s
  | .routeSet c => Sys2Proof.Machine.execRouteSet c s
  | .cgrpEn c => Sys2Proof.Machine.execCgrpEn c s
  | .keySet c => Sys2Proof.Machine.execKeySet c s
  | .assayRead c => Sys2Proof.Machine.execAssayRead c s
  | .faultReport c => Sys2Proof.Machine.execFaultReport c s
  | .powerOn => Sys2Proof.Machine.execPowerOn s
  | .bringupComplete => Sys2Proof.Machine.execBringupComplete s
  | .supplyFailWarning => Sys2Proof.Machine.execSupplyFailWarning s
  | .assaySaveTick => Sys2Proof.Machine.execAssaySaveTick s
  | .throttle groups => Sys2Proof.Machine.execThrottle groups s
  | .resultLands c n => Sys2Proof.Machine.execResultLands c n s
  | .unallocatedEncoding e w => Sys2Proof.Machine.execUnallocatedEncoding e w s

end Sys2Proof.Machine
end

