-- ==== Sys2Proof/Machine/Sequencer.lean ====
section
/-! DEFINITION. How the machine moves on: a context's next instruction (R56, R70, R71, R363), a step context's next word (R267), time, the moves
that fall due by themselves, and which context issues next (R333). The order in which the model lets due moves happen is assumption 3. -/
namespace Sys2Proof.Machine

/-! ## Contexts that may issue -/

/-- The group of a context has its clock (R403). -/
def State.clocked (s : State) (c : Context) : Bool := !s.throttled.getLsbD c.grp

/-- The replay of a VF has stopped (R405). -/
def State.replayStopped (s : State) (vf : Nat) : Bool := (Tbl.get? s.replays vf).any (·.stopped)

/-- A READY context of a running instance, or of a stopping one that has not reached its boundary (R27, R337), that has not issued in this cycle. An
instance struck by an uncorrectable error issues nothing (R367, R368), and none of a VF whose replay has stopped does (R405). -/
def State.issuable (s : State) (c : Context) : Bool :=
  c.phase == .ready && decide (c.lastIssue ≤ s.cycle) && s.clocked c &&
  (Tbl.get? s.slots c.slot).any (fun x => !x.rolling && x.kill.isNone && !s.replayStopped x.vf &&
    (x.state = 2 || (x.state = 3 && decide (0 < c.sinceBoundary))))

/-- The current context has issued in this cycle; a vector engine's issue is counted (R183, R333). -/
def State.issuing (s : State) : State :=
  let s1 := s.setCur (fun c => { c with lastIssue := s.cycle + 1 })
  if s.cur.kind = .ve then s1.meter s.cur.slot 1 1 else s1

/-- What the current context fetches: the bytes decoded, or none outside its sections (R56). -/
def State.fetched (s : State) : Option (Except DecodeErr Instr) :=
  match s.fetch s.cur.slot s.cur.kind s.cur.pc with
  | none => none
  | some bs => (decodeBytes s.cur.kind bs).map (·.1)

/-- The current context's next move: a held item first, then the watchdog of R78, then the instruction at its PC. -/
def State.issueCur (s : State) : Moved :=
  let c := s.cur
  if s.atBoundary c && !c.faults.isEmpty then execFaultDelivery c.ref s
  else if s.atBoundary c && !c.events.isEmpty then execEventDelivery c.ref s
  else if s.maxiter c.slot < c.sinceBoundary then execMaxiterWatchdog c.ref s
  else
    match s.fetched with
    | some (.ok i) => exec i s.issuing
    | some (.error e) =>
      execUnallocatedEncoding e (BitVec.ofNat 64 (leNat ((s.fetch c.slot c.kind c.pc).getD []))) s.issuing
    | none => runAct (raise Code.illegalOp 2 c.pc) s.issuing

/-! ## Step contexts -/

/-- The word at a step context's PC, decoded and carried out; outside every se section the context stops. -/
def State.stepWord (s : State) (h : Nat) (c : StepCtx) : Moved :=
  match s.fetch c.slot .se c.pc with
  | none => .next (s.stepStop h Code.illegalOp 2)
  | some bs =>
    match decodeStep (stepOfBytes bs) with
    | .ok i => exec i s
    | .error e => execUnallocatedEncoding e 0 s

/-- The next word of a step context (R267), once the header of its table has been read (R270): none once it has ended, its DONE is armed or its
instance does not run. -/
def State.stepIssue (s : State) (h : Nat) : Moved :=
  match Tbl.get? s.steps h with
  | none => .next s
  | some c =>
    if c.status.isSome || !s.running c.slot || c.store.any (fun a => a.op = .done) then .next s
    else
      let s1 := { s with curStep := h }
      if c.ready then s1.stepWord h c
      else
        match runStep h (stepHeader h) s1 with
        | .next s2 =>
          (match (Tbl.get? s2.steps h).filter (fun c => c.ready && c.status.isNone) with
           | some c2 => s2.stepWord h c2
           | none => .next s2)
        | .fault f => .fault f
        | .refused f => .refused f

/-! ## Messages (R373) -/

/-- A host command as a CMD carries it (R384, R385). -/
def cmdOf (m : Msg) : Cmd where
  src := m.src
  record := BitVec.ofNat 128 (fieldAt m.payload 0 16)
  words := (List.range ((m.payload.length - 16) / 8)).map (fun i => BitVec.ofNat 64 (fieldAt m.payload (16 + 8 * i) 8))

/-- A CMD arrives: OP alone names the command, and any other OP is MALFORMED (R373, R385). -/
def State.arriveCmd (s : State) (m : Msg) : Moved :=
  if badMsg MsgType.cmd m || decide (m.payload.length < 16) then .next s.discard
  else if !s.isLocal m.dest then .next (s.transit m)
  else
    let c := cmdOf m
    match c.op with
    | 0x01 => execVfCreate c s
    | 0x02 => execVfDestroy c s
    | 0x10 => execS1root c s
    | 0x11 => execS2root c s
    | 0x12 => execInval c s
    | 0x20 => execImgLoad c s
    | 0x21 => execRcbWrite c s
    | 0x22 => execLrecWrite c s
    | 0x23 => execRcbCreate c s
    | 0x24 => execRcbDelete c s
    | 0x25 => if s.armHeld c then .next (s.holdMsg m) else execLrecArm c s
    | 0x30 => execKill c s
    | 0x31 => execPreempt c s
    | 0x32 => execResume c s
    | 0x40 => execRwinSet c s
    | 0x41 => execRmawinSet c s
    | 0x42 => execRouteSet c s
    | 0x43 => execCgrpEn c s
    | 0x44 => execKeySet c s
    | 0x50 => execAssayRead c s
    | 0x51 => execFaultReport c s
    | n => .next (s.command c (n + 1) 0 [] .any id)

/-- A PREQ_REPLY arrives (R386). -/
def State.arriveReply (s : State) (m : Msg) : Moved :=
  let w := fieldAt m.payload 0 8
  if badMsg MsgType.preqReply m || decide (m.payload.length ≠ 16) || decide (2 ^ 25 ≤ w) then .next s.discard
  else if !s.isLocal m.dest then .next (s.transit m)
  else
    let id := w % 2 ^ 16
    let vf := w / 2 ^ 16 % 2 ^ 8
    let ipa := fieldAt m.payload 8 8
    if s.replyHeld vf id ipa (w / 2 ^ 24 ≠ 0) then .next (s.holdMsg m)
    else if w / 2 ^ 24 = 0 then execPageGrant vf id ipa s
    else execPageDeny vf id ipa s

/-- A message arrives (R373); a response or a page request that comes here is expected by no one (R372). -/
def State.arrive (s : State) (m : Msg) : Moved :=
  if m.type = MsgType.cts then execCts m s
  else if m.type = MsgType.data then execData m s
  else if m.type = MsgType.ack then execAck m s
  else if m.type = MsgType.coded then execCoded m s
  else if m.type = MsgType.dnak then execDnak m s
  else if m.type = MsgType.sia then execSia m s
  else if m.type = MsgType.siw then execSiw m s
  else if m.type = MsgType.rmaWr then execRmaWr m s
  else if m.type = MsgType.rmaRd then execRmaRd m s
  else if m.type = MsgType.rmaResp then execRmaResp m s
  else if m.type = MsgType.cmd then s.arriveCmd m
  else if m.type = MsgType.preqReply then s.arriveReply m
  else if badMsg MsgType.cmdResp m && badMsg MsgType.preq m then .next s.discard
  else .next (if s.isLocal m.dest then s.unexpected m else s.transit m)

/-- Messages that wait arrive again: a replay may have come to them, or what stood before their bytes may be gone (R284, R405). -/
def State.retryHeld (s : State) : Moved :=
  s.replayHeld.foldl (fun o m => match o with
    | .next t => t.arrive m
    | .fault f => .fault f
    | .refused r => .refused r) (.next { s with replayHeld := [] })

/-- The oldest message the device has sent to itself arrives. -/
def State.loopback (s : State) : Moved :=
  match s.out.find? (fun m => m.type ≠ MsgType.coded && s.isLocal m.dest) with
  | none => .next s
  | some m => ({ s with out := s.out.erase m } : State).arrive m

/-! ## Time -/

/-- Every live context. -/
def State.contexts (s : State) : List Context := (s.cur :: s.parked).filter (fun c => c.phase ≠ .joined)

/-- A cycle of one context: outside a wait it counts for R78; in a throttled group its watchdog does not run (R403). -/
def State.tickCtx (s : State) (c : Context) : Context :=
  let stopping := (Tbl.get? s.slots c.slot).any (fun x => x.state = 3)
  if !s.clocked c then { c with wait := c.wait.map (fun w => { w with since := w.since + 1 }) }
  else if c.phase = .ready ∧ !(stopping && c.sinceBoundary = 0) then { c with sinceBoundary := c.sinceBoundary + 1 }
  else c

/-- Counting n of something: no count, no change. -/
def State.meterN (s : State) (slot k n : Nat) : State := if n = 0 then s else s.meter slot k n

/-- Engine-cycles of an instance that runs: control core, copy engines, Hearths, step contexts, where their groups have a clock. A Hearth counts for
every entry that holds it (R336), and once for its VF (R183, R398). -/
def State.tickSlot (s : State) (slot : Nat) (x : Slot) : State :=
  if x.state ≠ 2 ∨ x.vacant = true then s
  else
    let on (g : Nat) : Bool := !s.throttled.getLsbD g
    let hs := (List.range 32).filter (fun h => x.hmask.getLsbD h && !(s.hearth h).frozen && on h)
    let own := hs.filter (fun h => s.slots.all (fun y => decide (slot ≤ y.1) || y.2.state ≠ 2 || y.2.vf ≠ x.vf || !y.2.hmask.getLsbD h))
    let ces := ((List.range 64).filter (fun e => x.emask.getLsbD e && on (grpOfCopy e))).length
    let sts := (s.steps.filter (fun c => c.2.slot = slot && c.2.status.isNone)).length
    let s1 := (((s.meterN slot 0 (if on (grpOfCore x.ccore) then 1 else 0)).meterN slot 2 ces).meterN slot 3 own.length).meterN slot 4 sts
    if hs.isEmpty then s1 else { s1 with rcbs := countUse false hs.length 7 x.rcbx s1.rcbs }

/-- Requests that have waited for a trough since an earlier cycle meet in this one again (R313). -/
def State.meetAgain (s : State) (k : Nat) (t : Trough) : Trough :=
  let again (take : Bool) : Nat := ((s.cur :: s.parked).filter (fun c => (s.troughWaiters k t take).contains (t.position c) &&
    (c.wait.any (fun w => decide (w.since < s.cycle) && w.cond.trough = some k) ||
      c.copyq.any (fun e => e.trough = k && !e.begun && e.since.any (fun n => decide (n < s.cycle)))))).length
  let more (r : Ranked) (n : Nat) : Ranked := if n = 0 then r else (fun q : Ranked => { q with met := q.met + n }) (r.roll t.positions s.cycle)
  { t with claimPtr := more t.claimPtr (again false), takePtr := more t.takePtr (again true) }

/-- One cycle passes. -/
def State.tick (s : State) : State :=
  let s1 := (s.slots.foldl (fun t x => t.tickSlot x.1 x.2) s).measure
  { s1 with
    cur := s1.tickCtx s1.cur, parked := s1.parked.map s1.tickCtx, troughs := s1.troughs.map (fun x => (x.1, s1.meetAgain x.1 x.2)), cycle := s1.cycle + 1 }

/-- n cycles pass and nothing else happens. -/
def State.ticks (s : State) : Nat → State
  | 0 => s
  | n + 1 => State.ticks s.tick n

/-! ## Moves that fall due -/

/-- One move after another, until one has no next state. -/
def sweep {α : Type} (l : List α) (f : α → State → Moved) (s : State) : Moved :=
  l.foldl (fun m a => match m with
    | .next t => f a t
    | .fault x => .fault x
    | .refused x => .refused x) (.next s)

/-- A pass over what a state holds when the pass begins. -/
def pass {α : Type} (l : State → List α) (f : α → State → Moved) (s : State) : Moved := sweep (l s) f s

/-- Engines stop at their boundary before time passes (R337). -/
def stopPasses : List (State → Moved) :=
  [pass (fun s => (s.slots.filter (fun x => x.2.state = 3)).map (·.1)) execHardPreempt,
   pass (fun s => (s.contexts.filter (fun c => (Tbl.get? s.slots c.slot).any (fun x => x.state = 3))).map Context.ref) execContextStop,
   pass (fun s => (s.slots.filter (fun x => x.2.state = 3)).map (·.1)) execSaveComplete]

/-- What somebody waits for: contexts, releases and acquires under way, copies, invalidations. -/
def State.neededIds (s : State) : List Nat :=
  let rels (l : List Release) : List Nat := l.flatMap (·.deps)
  s.hold.flatMap (fun r => rels r.rels) ++ s.coh.flatMap (fun r => rels r.rels) ++ s.dortas.invals.flatMap (·.ids) ++
  (s.cur :: s.parked).flatMap (fun c =>
    (match c.wait with
     | some ⟨.performed ids _, _, _⟩ => ids
     | _ => []) ++
    c.copyq.flatMap (fun e => e.ids ++ e.tids) ++
    c.pend.flatMap (fun q => match q.what with
      | .atomic _ _ _ _ _ l => rels l
      | .value _ => []
      | .held => []
      | .load _ _ _ => []
      | .vload _ _ _ _ => []))

/-- A dirty sector that something waits for is written back: a store it holds is needed at a wider scope or is to an SO page, or a release or an acquire
of the core goes to it (R283, R286, R288, R302). -/
def State.drains (s : State) (needed : List Nat) (x : L1Sector) : Bool :=
  x.dirty && (x.so || x.stores.any (fun y => needed.contains y.2) ||
    s.hold.any (fun r => !r.rels.isEmpty && r.inSector x.pa && s.l1Of r = some x.core) ||
    (s.cur :: s.parked).any (fun c => c.core? = some x.core && c.pend.any (fun q => (q.isAcquire || (match q.what with
      | .atomic _ _ _ _ _ rels => !rels.isEmpty
      | .value _ => false
      | .held => false
      | .load _ _ _ => false
      | .vload _ _ _ _ => false)) && q.pieces.any (fun p => p.pa / 32 = x.pa / 32))))

/-- Results land, stores leave and rise, sectors are written back, banks switch (R80, R282 to R284, R301, R307). -/
def accessPasses : List (State → Moved) :=
  [pass (fun s => s.contexts.flatMap (fun c => c.pend.map (fun q => (c.ref, q.id)))) (fun p => execResultLands p.1 p.2),
   pass (fun s => s.hold.map (·.id)) execHoldBufferLeave,
   pass (fun s => (s.l1.filter (s.drains s.neededIds)).map (fun x => (x.core, x.pa / 32))) (fun p => execSectorWriteback p.1 p.2),
   pass (fun s => s.coh.map (·.id)) (fun i => execStoreScopeRise i .sys),
   pass (fun s => (s.banks.filter (fun b => b.2.busy)).map (·.1)) (fun k => execBankSwitchDone (k / 16) (k % 16)),
   pass (fun s => s.dortas.invals.map (·.vf)) execInvalComplete]

/-- Step contexts and the fabric (R267, R268, R374, R379). -/
def stepPasses : List (State → Moved) :=
  let ages (s : State) : List (Nat × Nat) := s.steps.flatMap (fun c => c.2.store.map (fun a => (c.1, a.age)))
  [pass (fun s => s.steps.map (·.1)) (fun h s => s.stepIssue h), pass ages (fun p => execStepFire p.1 p.2), pass ages (fun p => execStepComplete p.1 p.2),
   pass (fun s => s.steps.map (·.1)) execStepWatchdog,
   pass (fun s => if s.fabric.egress.isEmpty then [] else List.range 16) execCodedForm,
   pass (fun s => s.fabric.egress.map (·.msg)) execPacketForward,
   pass (fun s => s.fabric.sit.filter (·.retiring)) (fun e => execSitEntryRemove e.die e.vf e.blkid e.blkg),
   State.loopback, State.retryHeld]

/-- One array cycle of every Hearth whose group has a clock, and what its edges and peels do (R217, R244, R300). -/
def hearthPasses : List (State → Moved) :=
  let gs (s : State) : List Nat := (s.hearths.filter (fun h => !s.throttled.getLsbD h.1)).map (·.1)
  [pass gs (fun g => pass (fun _ => [0, 1, 2, 3]) (fun e => execEdgeUnitTake g e)),
   pass gs (fun g => pass (fun _ => [true, false]) (fun w => execWaveAdmit g w)),
   pass gs (fun g s => .next (s.arrayCycle g)),
   pass gs (fun g => pass (fun _ => [true, false]) (fun w => execConverterPush g w)),
   pass gs (fun g => pass (fun _ => [true, false]) (fun w => execPeelWatchdog g w)),
   pass gs execLeaseRunEnd,
   pass (fun s => s.rates.map (·.1)) (fun k => execProoferPeriod (k / 32) (k % 32))]

/-- Dortas (R327 to R330, R336, R341, R342, R346): its decisions as soon as there is something to decide. -/
def dortasPasses : List (State → Moved) :=
  let slots (p : Nat → Slot → Bool) (s : State) : List Nat := (s.slots.filter (fun x => p x.1 x.2)).map (·.1)
  [pass (fun s => if s.cycle % 190000 = 0 then [()] else []) (fun _ => execVtCharge),
   pass (fun s => if s.cycle % 1900000000 = 0 then [()] else []) (fun _ => execAssaySaveTick),
   pass (slots (fun _ x => x.offer.isSome)) execYieldDecision,
   pass (fun s => (s.rcbs.filter (fun n => n.2.cycUse ≠ 0 || n.2.bytUse ≠ 0)).flatMap (fun n => [(n.1, false), (n.1, true)])) (fun p => execQuotaExhausted p.1 p.2),
   pass (slots (fun _ x => !x.quotaAt.isEmpty)) execQuotaKillTimeout,
   pass (fun s => if s.slots.any (fun x => x.2.yieldAsked.isSome) then [()] else []) (fun _ => execReclaimTimeout),
   pass (slots (fun _ x => x.state = 1)) execSlotSubmit,
   pass (fun s => if s.armed.isEmpty && s.rcbs.all (fun n => !n.2.elig) && s.slots.all (fun x => x.2.state ≠ 7) then [] else [()]) (fun _ => execBindDecision),
   pass (slots (fun _ x => x.state = 4 && (x.quotaStop || x.suspended || x.held.isSome))) execRestore,
   pass (slots (fun _ x => x.state = 5)) execRestoreRunning,
   pass (slots (fun _ x => x.state = 6 && !x.rolling)) execKillSequence,
   pass (fun s => s.slots.flatMap (fun x => x.2.markers.map (fun m => (x.1, m.1)))) (fun p => execDrainMarkerComplete p.1 p.2),
   pass (slots (fun _ x => x.state = 6 && x.rolling && x.markers.isEmpty)) (fun k => execDrainMarkerComplete k 0),
   pass (fun s => (s.slots.filter (fun x => x.2.kill = some .rollback)).filterMap (fun x => s.domainOf x.2.rcbx)) execRollback]

/-- Waits end and watchdogs run out (R52, R358, R391). -/
def waitPasses : List (State → Moved) :=
  let refs (s : State) : List CtxRef := s.contexts.map Context.ref
  [pass (fun s => (s.contexts.filter (fun c => c.phase = .waiting && !c.faults.isEmpty)).map Context.ref) execFaultDelivery,
   pass refs execWaitSatisfied, pass refs execWaitWatchdog, pass refs execPageRequestWatchdog]

/-- The passes in order. -/
def runPasses (l : List (State → Moved)) (s : State) : Moved := sweep l (fun f => f) s

/-! ## Issue arbitration (R333) -/

/-- Tile rows an instruction of R333's list moves; 1 for every other. -/
def instrRows (rows : Nat) (i : Instr) : Nat :=
  match i with
  | .vld _ => rows
  | .vst _ => rows
  | .vlds _ => rows
  | .vsts _ => rows
  | .vgath _ => rows
  | .vscat _ => rows
  | .vpop _ => rows
  | .vpush _ => rows
  | .vldt _ => rows
  | .vstt _ => rows
  | _ => 1

/-- The cost of a context's head instruction. -/
def State.issueCost (s : State) (c : Context) : Int :=
  match (s.fetch c.slot c.kind c.pc).bind (decodeBytes c.kind) with
  | some (.ok i, _) => instrRows (min 16 (fieldN c.vshape 4 0)) i
  | some (.error _, _) => 1
  | none => 1

/-- Contexts of one engine in slot order. -/
def insertSlot (c : Context) : List Context → List Context
  | [] => [c]
  | d :: rest => if c.engSlot ≤ d.engSlot then c :: d :: rest else d :: insertSlot c rest

def slotOrder (l : List Context) : List Context := l.foldr insertSlot []

/-- The first of a list that meets `p`, beginning after those whose key is at most `last`. -/
def firstAfter {α : Type} (l : List α) (key : α → Nat) (last : Nat) (p : α → Bool) : Option α :=
  (l.find? (fun x => p x && decide (last < key x))).or (l.find? p)

/-- PickContext(t): counters refilled until a ready context affords its head. -/
def State.pickContext (s : State) (cost : Context → Int) (last : Nat) : Nat → List Context → Option (Context × List Context)
  | 0, _ => none
  | n + 1, l =>
    match firstAfter l (·.engSlot) last (fun c => decide (cost c ≤ c.dc)) with
    | some c => some (c, l)
    | none => State.pickContext s cost last n (l.map (fun c => { c with dc := min (c.dc + 4 * s.issueWeight c) (16 + 4 * s.issueWeight c) }))

/-- EW of a tenant's entry on an engine. -/
def State.tenantWeight (s : State) (c : Context) : Int := ((s.slotOf c).map (fun x => (fieldN x.bind 684 677 : Int))).getD 1

/-- Arbitrate() among the tenants, given each one's pick. -/
def State.pickTenant (s : State) (cost : Context → Int) (last : Nat) (picks : List (Nat × Context)) : Nat → Tbl Int → Option (Context × Tbl Int)
  | 0, _ => none
  | n + 1, dt =>
    let d (v : Nat) : Int := (Tbl.get? dt v).getD 0
    match firstAfter picks (·.1) last (fun p => decide (cost p.2 ≤ d p.1)) with
    | some p => some (p.2, dt)
    | none => State.pickTenant s cost last picks n (picks.foldl (fun t p => Tbl.set t p.1 (min (d p.1 + 4 * s.tenantWeight p.2) (16 + 4 * s.tenantWeight p.2))) dt)

/-- A context is served: its tenant and it have paid. -/
def State.paid (s : State) (key : Nat) (a : Arb) (cost : Int) (c : Context) : State :=
  let v := s.vfOf c.slot
  let a' : Arb := { a with dt := Tbl.set a.dt v (max ((Tbl.get? a.dt v).getD 0 - cost) (-16)), lastVf := v, lastCtx := Tbl.set a.lastCtx v c.engSlot }
  ({ s with arbs := Tbl.set s.arbs key a' } : State).setCtx c.ref (fun c => { c with dc := max (c.dc - cost) (-16) })

/-- The choice among the ready contexts of an engine by their counters: the one served, and the state after it has paid. -/
def State.arbitrateBy (s : State) (cost : Context → Int) (eng : Nat) (ready : List Context) : Option (CtxRef × State) :=
  let a := s.arb eng
  let vfs := (ready.map (fun c => s.vfOf c.slot)).foldl (fun l v => if l.contains v then l else l ++ [v]) []
  let order := (List.range 256).filter (fun v => vfs.contains v)
  let picks := order.filterMap (fun v =>
    (s.pickContext cost ((Tbl.get? a.lastCtx v).getD 4) 64 (ready.filter (fun c => s.vfOf c.slot = v))).map (fun r => (v, r)))
  match s.pickTenant cost a.lastVf (picks.map (fun p => (p.1, p.2.1))) 64 a.dt with
  | none => none
  | some (c, dt) =>
    let s1 := (picks.flatMap (fun p => p.2.2)).foldl (fun t d => t.setCtx d.ref (fun e => { e with dc := d.dc })) s
    some (c.ref, s1.paid (eng - 128) { a with dt := dt } (cost c) c)

/-- The route that a context's head would push to, if it may push there now (R315). -/
def State.pushesTo (s : State) (c : Context) : Option Nat :=
  match (s.fetch c.slot c.kind c.pc).bind (decodeBytes c.kind) with
  | some (.ok (.vpush o), _) =>
    let q := c.qb[o.sb.toNat % 4]'(Nat.mod_lt _ (by decide))
    let k := routeKey c.grp (fieldN q 7 0)
    if q.getLsbD 63 && q.getLsbD 62 && q.getLsbD 60 && s.routeHasRoom c.ref k then some k else none
  | _ => none

/-- A source port's choice among ready routes, each with its producer's weight: their counters grow until one has 16 (R317). -/
def portChoice (last : Nat) (ready : List (Nat × Nat)) : Nat → Tbl Route → Option Nat × Tbl Route
  | 0, t => (none, t)
  | n + 1, t =>
    match firstAfter ready (·.1) last (fun x => (Tbl.get? t x.1).any (fun r => decide (16 ≤ r.counter))) with
    | some x => (some x.1, t)
    | none => portChoice last ready n (t.map (fun y => match ready.find? (fun x => x.1 = y.1) with
        | some x => (y.1, { y.2 with counter := y.2.counter + x.2 })
        | none => y))

/-- The contexts of an engine that may be served: where more than one route is ready to push at its stream port, the port's choice alone pushes
(R317). -/
def State.portServes (s : State) (eng : Nat) (ready : List Context) : State × List Context :=
  let pushes := ready.filterMap (fun c => (s.pushesTo c).map (fun k => (k, s.issueWeight c)))
  let routes := (List.range 64).filterMap (fun r => pushes.find? (fun x => x.1 % 64 = r))
  if routes.length ≤ 1 then (s, ready)
  else
    match portChoice (s.arb eng).lastRoute routes 17 s.routes with
    | (some k, t) => ({ s with routes := t }, ready.filter (fun c => (s.pushesTo c).all (fun j => j = k)))
    | (none, _) => (s, ready)

/-- One choice of a vector or copy engine for issue: the oldest of those that have waited 1,024 cycles, else by the counters (R333). -/
def State.arbitrate (s0 : State) (eng : Nat) : State :=
  let (s, ready) := s0.portServes eng (slotOrder ((s0.cur :: s0.parked).filter (fun c => s0.issuable c && (s0.locOf c).eng = eng)))
  match ready.foldl (fun b c => if decide (s.cycle < c.lastIssue + 1024) then b else match b with
      | none => some c
      | some d => if c.lastIssue < d.lastIssue then some c else some d) none with
  | some c => (s.paid (eng - 128) (s.arb eng) (s.issueCost c) c).focus c.ref
  | none =>
    match s.arbitrateBy s.issueCost eng ready with
    | none => s
    | some (r, s1) => s1.focus r

/-- The engine whose contexts have waited longest since one of them issued, among those with a context that may issue. -/
def State.nextEngine (s : State) : Option Context :=
  let live := s.contexts
  let last (c : Context) : Nat := (live.filter (fun d => (s.locOf d).eng = (s.locOf c).eng)).foldl (fun m d => max m d.lastIssue) 0
  (live.filter s.issuable).foldl (fun b c => match b with
    | none => some c
    | some d => if last c < last d then some c else some d) none

/-- The next context that issues becomes the current one. -/
def State.chooseNext (s : State) : State :=
  match s.nextEngine with
  | none => s
  | some c => if c.kind = .ve ∨ c.kind = .ce then s.arbitrate (s.locOf c).eng else s.focus c.ref

/-! ## Requests of copy engines (R334) -/

/-- A context has a copy that would make a request. -/
def Context.requests (c : Context) : Bool := c.kind = .ce && c.copyq.any (fun e => !e.issued && e.op != .cfence || !e.left.isEmpty)

/-- Up to n requests of an engine in this cycle, each a choice among its contexts that make any at a cost of one sector request; a context whose
request has come to nothing is left out. The ageing of R333 never comes to act here, as every ready context is served in a few cycles. -/
def State.copyServe (s : State) (eng : Nat) : Nat → List CtxRef → Moved
  | 0, _ => .next s
  | n + 1, stuck =>
    let ready := slotOrder (s.contexts.filter (fun c => c.requests && (s.locOf c).eng = eng && !stuck.contains c.ref))
    match s.arbitrateBy (fun _ => 1) eng ready with
    | none => .next s
    | some (r, s1) =>
      match s1.copyBegin r with
      | .next s2 =>
        if (s2.ctx? r).map (·.copyq) = (s1.ctx? r).map (·.copyq) then State.copyServe s eng n (r :: stuck) else State.copyServe s2 eng n stuck
      | .fault f => .fault f
      | .refused f => .refused f

/-- The issuer index that a context's next command to a Winze carries (R324). -/
def Context.issuer (c : Context) (stack : Nat) : Nat :=
  match c.nextContrib stack with
  | some (e, _) => tplIdx e.tpl
  | none =>
    match c.copyq.find? (fun e => e.op = .crede && e.creding.contains stack) with
    | some e => fieldN e.x 13 8
    | none => 64

/-- Contexts in ascending issuer index. -/
def insertIssuer (stack : Nat) (c : Context) : List Context → List Context
  | [] => [c]
  | d :: rest => if c.issuer stack ≤ d.issuer stack then c :: d :: rest else d :: insertIssuer stack c rest

/-- What reaches one stack's Winze in a cycle: a command of each context, in ascending issuer index (R324). -/
def winzePass (stack : Nat) (s : State) : Moved :=
  let senders := ((s.contexts.filter (fun c => !c.copyq.isEmpty && decide (c.issuer stack ≤ 63))).foldr (insertIssuer stack) []).map Context.ref
  sweep senders (fun r => fun s => runPasses [execRefusedRetry stack r, execContributionArrival stack r, execCredeArrival stack r] s) s

/-- Copies and Winze (R250, R321, R334). -/
def copyPasses : List (State → Moved) :=
  let engines (s : State) : List Nat := distinct ((s.contexts.filter Context.requests).map (fun c => (s.locOf c).eng))
  let busy (s : State) : List CtxRef := (s.contexts.filter (fun c => !c.copyq.isEmpty)).map Context.ref
  [pass engines (fun e s => s.copyServe e 64 []), pass (fun s => if (busy s).isEmpty then [] else List.range 8) winzePass, pass busy execCopyComplete]

/-! ## Where a replay stops (R405) -/

/-- A VF under replay is at an event that its cut capture does not hold: something waits to be presented. -/
def State.uncovered (s : State) (vf : Nat) : Bool :=
  s.slots.any (fun x => x.2.vf = vf && x.2.state = 1) || s.replayHeld.any (fun m => epVf m.dest = vf) ||
  s.contexts.any (fun c => s.vfOf c.slot = vf &&
    (c.wait.any (fun w => match w.cond with
      | .replay _ _ _ => true
      | _ => false) ||
     c.pend.any (fun q => match q.what with
      | .atomic _ _ _ _ _ _ => decide (q.at_ ≤ s.cycle)
      | .value _ => false
      | .held => false
      | .load _ _ _ => false
      | .vload _ _ _ _ => false) ||
     c.copyq.any (fun e => !e.contribs.isEmpty && (match e.op with
      | .cred _ det => !det
      | .cpy | .cpyx | .cpyt | .cgath | .cscat | .czero | .crede | .cfence => false)))) ||
  s.rates.any (fun x => x.2.set && s.vfOf x.2.owner = vf && s.running x.2.owner && !x.2.resuming && decide (s.cycle % rpP x.2.param = rpPHOFF x.2.param))

/-- Replays whose capture ended with kind 0xFF stop at the first event it does not hold, with a record for the host (assumption 81). -/
def State.stopReplays (s : State) : State :=
  s.replays.foldl (fun t (vf, r) =>
    if r.cut && r.events.isEmpty && !r.stopped && t.uncovered vf then
      ({ t with replays := Tbl.set t.replays vf { r with stopped := true } } : State).report ⟨0xFF, vf, 0, 0, BitVec.ofNat 64 t.cycle, 0, 0⟩
    else t) s

/-! ## The moves -/

/-- A cycle in which no context issues: what is due happens, time passes, and the next context is chosen. -/
def State.passCycle (s : State) : Moved :=
  match runPasses stopPasses s with
  | .fault f => .fault f
  | .refused r => .refused r
  | .next s1 =>
    match runPasses (accessPasses ++ copyPasses ++ stepPasses ++ hearthPasses ++ dortasPasses ++ waitPasses) s1.stopReplays.tick with
    | .fault f => .fault f
    | .refused r => .refused r
    | .next s2 => .next s2.chooseNext

/-- Piece or element k by itself: of the pending load or the copy of that number, or of the image that a Hearth context reads (R143, R207, R251, R289). -/
def State.pieceMove (s : State) (r : CtxRef) (n k : Nat) : Moved :=
  match s.ctx? r with
  | none => .next s
  | some c =>
    if c.pend.any (fun q => q.id = n) then .next (s.landPiece r n k)
    else if c.copyq.any (fun e => e.id = n) then s.copyPiece r n k
    else
      let t := s.focus r
      match t.fetched with
      | some (.ok i) => .next (t.hePiece i k)
      | some (.error _) => .next s
      | none => .next s

/-- One move of the agenda. -/
def State.move (s : State) (m : Move) : Moved :=
  match m with
  | .issue r => if (s.focus r).cur.ref = r ∧ (s.focus r).issuable (s.focus r).cur = true then (s.focus r).issueCur else .next s
  | .stepIssue h => s.stepIssue h
  | .event i => exec i s
  | .arrive m => s.arrive m
  | .arbitrate e => .next (s.arbitrate e)
  | .tick n => .next (s.ticks n)
  | .sample r l => .next (s.sample r l)
  | .forget r gen => .next (s.forget r gen)
  | .piece r n k => s.pieceMove r n k
  | .strike slot => .next (s.strike slot)
  | .strikeCounter k => .next (s.strikeCounter k)
  | .replay vf events cut => .next { s with replays := Tbl.set s.replays vf ⟨events, cut, false⟩ }

/-- The next step: the agenda's move, else the current context's instruction, else a cycle passes. -/
def State.stepMove (s : State) : Moved :=
  match s.agenda with
  | m :: rest => ({ s with agenda := rest } : State).move m
  | [] => if s.issuable s.cur then s.issueCur else s.passCycle

/-! ## A word placed for the next step -/

/-- A header whose only fields are those of a program with no stated latency. -/
def bareHeader : BitVec 1024 := setField 0 191 160 15200

/-- A running instance in slot 0, engines and control core 0, of an image that holds only these bytes, in a section of the kind. -/
def State.withCode (s : State) (k : Kind) (bs : List Byte) : State :=
  { s with
    images := [(1, ⟨0, bareHeader, [⟨0, bs.length, k⟩], bs, [], []⟩)]
    slots := [(0, newSlot (setField (setField (setField (setField (setField 0 1023 896 1) 895 832 1) 831 800 1) 684 677 1) 2 0 2) 1 s.cycle)] }

/-- The context that runs the word: the first of its kind on engine 0. -/
def wordContext (k : Kind) (cycle : Nat) : Context :=
  { Context.blank with slot := 0, num := if k = .cc then 0 else 1, kind := k, phase := .ready, lastIssue := cycle }

/-- The step context that runs a step word, its table header already read. -/
def wordStep : StepCtx := ⟨0, ⟨0, 0⟩, 0, 0, List.replicate 4 ⟨0, 0, 0, false⟩, [0, 0, 0, 0], [], 0, 1, 1, 0, 0, 0, 4096, [], true, [], none, [], 0⟩

/-- The state whose next step fetches and runs the word of an opcode-table row. -/
def State.placeWord (s : State) (nbits w : Nat) : State :=
  match tableKind nbits w with
  | none => { (s.withCode .cc (natBytes w 4)) with cur := wordContext .cc s.cycle, parked := [], agenda := [] }
  | some .se => { (s.withCode .se (natBytes w 8)) with steps := [(0, wordStep)], agenda := [.stepIssue 0] }
  | some k => { (s.withCode k (natBytes w 4)) with cur := wordContext k s.cycle, parked := [], agenda := [] }

end Sys2Proof.Machine
end

