-- ==== Sys2Proof/Machine/Step.lean ====
section
/-! DEFINITION. One step of the machine, and a word placed for the next step to fetch. -/
namespace Sys2Proof.Machine

/-- One step: a move of the agenda, an instruction of the current context, or a cycle that passes. -/
def step (s : State) : Host.Outcome State Fault Refusal := s.stepMove

/-- The machine about to fetch and run one instruction word, given by the bits of its opcode-table row (assumption 1). -/
def State.withFetchWord (s : State) (nbits w : Nat) : State := s.placeWord nbits w

end Sys2Proof.Machine
end

