-- ==== Sys2Proof/Safety.lean ====
section
/-! DEFINITION. What counts as a safe run: every step has a next state, and what the spec says of every state holds: memory in its canonical
form, registers that read as a constant hold it, a loop stack within its six levels (R30, R33, R34, R37). -/
namespace Sys2Proof.Machine

/-- The step has a next state: neither a fault nor a refusal of the model. -/
def State.GoesOn (s : State) : Prop := ∃ t, step s = .next t

/-- `t` is reached from `s` by n steps. -/
def State.Reaches (s : State) : Nat → State → Prop
  | 0, t => s = t
  | n + 1, t => ∃ u, step s = .next u ∧ State.Reaches u n t

/-- A run of n steps is safe: none of them stops. -/
def State.SafeFor (s : State) (n : Nat) : Prop := ∃ t, s.Reaches n t

/-- Settled memory is in its canonical form. -/
def State.MemOk (s : State) : Prop := s.mem.wf = true

/-- What holds of a context's constant registers and of its loop stack: s0 is full (R34), p0 is one (R37), at most six levels (R30). -/
def Context.Ok (c : Context) : Prop := c.full.getLsbD 0 = true ∧ c.p.getLsbD 0 = true ∧ c.loops.length ≤ 6

end Sys2Proof.Machine
end

