-- ==== Sys2Proof/Certificates/Slice0/Obligations.lean ====
section
/-! DEFINITION. The statements for the provers. Each is one proposition about the model, named for what it says. The helper definitions before a
group of them write out the state an instruction leaves or the conditions under which it completes. -/
namespace Sys2Proof.Machine

/-! ## Helper definitions: what an instruction leaves -/

/-- The current context goes on with the next word (R137). -/
def State.goOn (s : State) : State := s.setCur Context.nextSeq
/-- v in register d, then the next word (R82). -/
def State.regDone (s : State) (d : BitVec 5) (v : Word) : State := s.setCur (fun c => (c.putS d v).nextSeq)
/-- b in predicate d, then the next word (R132). -/
def State.predDone (s : State) (d : BitVec 5) (b : Bool) : State := s.setCur (fun c => (c.putP d b).nextSeq)
/-- Control transferred to t (R32, R135). -/
def State.jump (s : State) (t : Word) : State := s.setCur (fun c => c.jumpTo t)
/-- d empty and v outstanding for it at the latency of a class, then the next word; nothing is outstanding for s0 (R34, R79, R80). -/
def State.lateDone (s : State) (d : BitVec 5) (cls own : Nat) (v : Word) : State :=
  if d = 0 then s.goOn
  else
    { (s.setCur (fun c => (({ c with pend := c.pend ++ [⟨s.nextId, .s d, s.cycle + s.latency cls own, .value v, none⟩] } : Context).empty d).nextSeq)) with
      nextId := s.nextId + 1 }

/-- The registers of an instruction are full: it neither waits nor raises REG_EMPTY (R34, R35). -/
def RRR_Ready (o : RRR) (s : State) : Prop := s.cur.isFull o.d = true ∧ s.cur.isFull o.a = true ∧ s.cur.isFull o.b = true
def Imm_Ready (d a : BitVec 5) (s : State) : Prop := s.cur.isFull d = true ∧ s.cur.isFull a = true

/-- Everything but the current context is as it was. -/
def OnlyCur (s t : State) : Prop := { t with cur := s.cur } = s
/-- A context but for its scalar registers, predicates and sequencer is as it was. -/
def OnlyScalar (c d : Context) : Prop :=
  { d with s := c.s, full := c.full, p := c.p, pc := c.pc, loops := c.loops, sinceBoundary := c.sinceBoundary } = c

/-- The one-cycle instructions on scalar registers and predicates, with the register that each writes (R128 to R134). -/
def scalarDest (i : Instr) : Option (Option (BitVec 5)) :=
  match i with
  | .add o | .sub o | .and o | .or o | .xor o | .sll o | .srl o | .sra o | .min o | .max o | .minn o | .maxn o | .slt o | .sltn o => some (some o.d)
  | .clz o | .popc o => some (some o.d)
  | .addi o | .andi o | .ori o | .xori o | .slti o | .lih o => some (some o.d)
  | .slli o | .srli o | .srai o => some (some o.d)
  | .jal o => some (some o.d)
  | .psetEq _ | .psetNe _ | .psetLt _ | .psetGe _ | .psetLtn _ | .psetGen _ => some none
  | .plogAnd _ | .plogOr _ | .plogXor _ | .plogAndn _ => some none
  | .beq _ | .bne _ | .blt _ | .bge _ | .bltn _ | .bgen _ | .bp _ => some none
  | _ => none

end Sys2Proof.Machine

open Sys2Proof Sys2Proof.Machine

/-! ## Integer arithmetic, predicates, branches (R128 to R141) -/

/-- R128: the one-cycle results of major 0x00, and that each of these instructions completes when its registers are full. R128: CLZ and POPC. R128, R129,
R79: products and quotients, outstanding under the latency classes mul and div. -/
def Obligations.IntegerResults : Prop :=
  (∀ (o : RRR) (s : State), RRR_Ready o s →
     let x := s.cur.getS o.a
     let y := s.cur.getS o.b
     let n := y.toNat % 64
     exec (.add o) s = .next (s.regDone o.d (x + y)) ∧
     exec (.sub o) s = .next (s.regDone o.d (x - y)) ∧
     exec (.and o) s = .next (s.regDone o.d (x &&& y)) ∧
     exec (.or o) s = .next (s.regDone o.d (x ||| y)) ∧
     exec (.xor o) s = .next (s.regDone o.d (x ^^^ y)) ∧
     exec (.sll o) s = .next (s.regDone o.d (BitVec.ofNat 64 (x.toNat * 2 ^ n))) ∧
     exec (.srl o) s = .next (s.regDone o.d (BitVec.ofNat 64 (x.toNat / 2 ^ n))) ∧
     exec (.sra o) s = .next (s.regDone o.d (BitVec.ofInt 64 (x.toInt / 2 ^ n))) ∧
     exec (.min o) s = .next (s.regDone o.d (if x.toInt < y.toInt then x else y)) ∧
     exec (.max o) s = .next (s.regDone o.d (if x.toInt < y.toInt then y else x)) ∧
     exec (.minn o) s = .next (s.regDone o.d (if x.toNat < y.toNat then x else y)) ∧
     exec (.maxn o) s = .next (s.regDone o.d (if x.toNat < y.toNat then y else x)) ∧
     exec (.slt o) s = .next (s.regDone o.d (if x.toInt < y.toInt then 1 else 0)) ∧
     exec (.sltn o) s = .next (s.regDone o.d (if x.toNat < y.toNat then 1 else 0))) ∧
  (∀ (o : RRD) (s : State), Imm_Ready o.d o.a s →
     let x := s.cur.getS o.a
     (∃ k : Nat, exec (.clz o) s = .next (s.regDone o.d (BitVec.ofNat 64 k)) ∧ k ≤ 64 ∧ x.toNat < 2 ^ (64 - k) ∧ (k < 64 → 2 ^ (63 - k) ≤ x.toNat)) ∧
     exec (.popc o) s = .next (s.regDone o.d (BitVec.ofNat 64 (((List.range 64).filter (fun i => x.getLsbD i)).length)))) ∧
  (∀ (o : RRR) (s : State), RRR_Ready o s →
     let x := s.cur.getS o.a
     let y := s.cur.getS o.b
     exec (.mul o) s = .next (s.lateDone o.d 0 3 (BitVec.ofInt 64 (x.toInt * y.toInt))) ∧
     exec (.mulh o) s = .next (s.lateDone o.d 0 3 (BitVec.ofInt 64 (x.toInt * y.toInt / 2 ^ 64))) ∧
     exec (.mulhn o) s = .next (s.lateDone o.d 0 3 (BitVec.ofNat 64 (x.toNat * y.toNat / 2 ^ 64))) ∧
     exec (.div o) s = .next (s.lateDone o.d 1 34
       (if y = 0 then BitVec.allOnes 64 else if x.toInt = -2 ^ 63 ∧ y.toInt = -1 then x else BitVec.ofInt 64 (Int.tdiv x.toInt y.toInt))) ∧
     exec (.divn o) s = .next (s.lateDone o.d 1 34 (if y = 0 then BitVec.allOnes 64 else BitVec.ofNat 64 (x.toNat / y.toNat))) ∧
     exec (.rem o) s = .next (s.lateDone o.d 1 34
       (if y = 0 then x else if x.toInt = -2 ^ 63 ∧ y.toInt = -1 then 0 else BitVec.ofInt 64 (x.toInt - y.toInt * Int.tdiv x.toInt y.toInt))) ∧
     exec (.remn o) s = .next (s.lateDone o.d 1 34 (if y = 0 then x else BitVec.ofNat 64 (x.toNat - y.toNat * (x.toNat / y.toNat)))))

/-- R130: the immediate forms. R132, R88: PSET and PLOG. -/
def Obligations.ImmediatesAndPredicates : Prop :=
  ((∀ (o : Imm) (s : State), Imm_Ready o.d o.a s →
     let x := s.cur.getS o.a
     let i := o.imm.signExtend 64
     exec (.addi o) s = .next (s.regDone o.d (x + i)) ∧
     exec (.andi o) s = .next (s.regDone o.d (x &&& i)) ∧
     exec (.ori o) s = .next (s.regDone o.d (x ||| i)) ∧
     exec (.xori o) s = .next (s.regDone o.d (x ^^^ i)) ∧
     exec (.slti o) s = .next (s.regDone o.d (if x.toInt < i.toInt then 1 else 0)) ∧
     exec (.lih o) s = .next (s.regDone o.d (BitVec.ofNat 64 (x.toNat * 2 ^ 14 % 2 ^ 64 + o.imm.toNat)))) ∧
   (∀ (o : ImmSh) (s : State), Imm_Ready o.d o.a s →
     let x := s.cur.getS o.a
     exec (.slli o) s = .next (s.regDone o.d (BitVec.ofNat 64 (x.toNat * 2 ^ o.sh.toNat))) ∧
     exec (.srli o) s = .next (s.regDone o.d (BitVec.ofNat 64 (x.toNat / 2 ^ o.sh.toNat))) ∧
     exec (.srai o) s = .next (s.regDone o.d (BitVec.ofInt 64 (x.toInt / 2 ^ o.sh.toNat))))) ∧
  ((∀ (o : RRR) (s : State), s.cur.isFull o.a = true → s.cur.isFull o.b = true →
     let x := s.cur.getS o.a
     let y := s.cur.getS o.b
     exec (.psetEq o) s = .next (s.predDone o.d (decide (x = y))) ∧
     exec (.psetNe o) s = .next (s.predDone o.d (decide (x ≠ y))) ∧
     exec (.psetLt o) s = .next (s.predDone o.d (decide (x.toInt < y.toInt))) ∧
     exec (.psetGe o) s = .next (s.predDone o.d (decide (y.toInt ≤ x.toInt))) ∧
     exec (.psetLtn o) s = .next (s.predDone o.d (decide (x.toNat < y.toNat))) ∧
     exec (.psetGen o) s = .next (s.predDone o.d (decide (y.toNat ≤ x.toNat)))) ∧
   (∀ (o : PPP) (s : State),
     let a := s.cur.getP o.a
     let b := s.cur.getP o.b
     exec (.plogAnd o) s = .next (s.predDone o.d (decide (a = true ∧ b = true))) ∧
     exec (.plogOr o) s = .next (s.predDone o.d (decide (a = true ∨ b = true))) ∧
     exec (.plogXor o) s = .next (s.predDone o.d (decide (a ≠ b))) ∧
     exec (.plogAndn o) s = .next (s.predDone o.d (decide (a = true ∧ b = false)))))

/-- R133: the conditional branches, taken and not. R134: JAL and JR link and jump; the source of JR is read before the link is written. -/
def Obligations.BranchesAndJumps : Prop :=
  ((∀ (o : Br) (s : State), s.cur.isFull o.a = true → s.cur.isFull o.b = true →
     let x := s.cur.getS o.a
     let y := s.cur.getS o.b
     let t := s.jump (s.cur.pc + 4 * o.off.signExtend 64)
     exec (.beq o) s = .next (if x = y then t else s.goOn) ∧
     exec (.bne o) s = .next (if x ≠ y then t else s.goOn) ∧
     exec (.blt o) s = .next (if x.toInt < y.toInt then t else s.goOn) ∧
     exec (.bge o) s = .next (if y.toInt ≤ x.toInt then t else s.goOn) ∧
     exec (.bltn o) s = .next (if x.toNat < y.toNat then t else s.goOn) ∧
     exec (.bgen o) s = .next (if y.toNat ≤ x.toNat then t else s.goOn)) ∧
   (∀ (o : BrP) (s : State),
     exec (.bp o) s = .next (if s.cur.getP o.p = true then s.jump (s.cur.pc + 4 * o.off.signExtend 64) else s.goOn))) ∧
  ((∀ (o : Jmp) (s : State), s.cur.isFull o.d = true →
     exec (.jal o) s = .next (s.setCur (fun c => (c.putS o.d (c.pc + 4)).jumpTo (c.pc + 4 * o.off.signExtend 64)))) ∧
   (∀ (o : Imm) (s : State), Imm_Ready o.d o.a s →
     let t := s.cur.getS o.a + 4 * o.imm.signExtend 64
     (t.toNat % 4 = 0 → exec (.jr o) s = .next (s.setCur (fun c => (c.putS o.d (c.pc + 4)).jumpTo t))) ∧
     (t.toNat % 4 ≠ 0 → exec (.jr o) s = .next (s.takeFault s.cur.ref ⟨0x05, 0, t, false⟩ s.cur.pc))))

/-- R136, R31: LOOP and LOOPI push an entry, skip the body at zero trips, and raise ILLEGAL_OP with detail 1 with six loops active. R137: what a word at
the end of the innermost loop's body does when its successor is the next word in sequence. R139: LBRK. R135: a transfer pops innermost loops of the
current handler depth whose bodies do not contain the target, and no others. R138, R37: the predicates that a staged loop drives. -/
def Obligations.LoopControl : Prop :=
  (∀ (s : State) (n : Nat) (endw : BitVec 12) (stg : BitVec 2) (i : Instr),
     (∃ o : LoopReg, i = .loop o ∧ s.cur.isFull o.s = true ∧ n = (s.cur.getS o.s).toNat ∧ o.endw = endw ∧ o.stg = stg) ∨
       (∃ o : LoopImm, i = .loopi o ∧ n = o.n.toNat ∧ o.endw = endw ∧ o.stg = stg) →
     let stop := s.cur.pc + 4 * endw.setWidth 64
     (1 ≤ n → s.cur.loops.length ≤ 5 →
       exec i s = .next (s.setCur (fun c => { c with
         loops := ⟨n + stg.toNat, 0, c.pc + 4, stop, stg.toNat, c.hd⟩ :: c.loops, pc := c.pc + 4 }))) ∧
     (1 ≤ n → 6 ≤ s.cur.loops.length → exec i s = .next (s.takeFault s.cur.ref ⟨0x01, 1, 0, false⟩ s.cur.pc)) ∧
     (n = 0 → ∃ t, exec i s = .next t ∧ OnlyCur s t ∧ (∀ e, s.cur.innermost = some e → e.stop ≠ stop → t.cur.loops = s.cur.loops ∧ t.cur.pc = stop + 4) ∧
       (s.cur.innermost = none → t.cur.loops = s.cur.loops ∧ t.cur.pc = stop + 4) ∧
       (∀ e, s.cur.innermost = some e → e.stop = stop → t = s.setCur (fun c => c.loopBack (stop + 4))))) ∧
  (∀ (c : Context) (e : LoopEntry) (rest : List LoopEntry), c.loops = e :: rest → e.depth = c.hd →
     (e.stop ≠ c.pc → c.nextSeq.loops = c.loops ∧ c.nextSeq.pc = c.pc + 4) ∧
     (e.stop = c.pc → e.index + 1 < e.count →
       c.nextSeq.pc = e.start ∧ c.nextSeq.loops = { e with index := e.index + 1 } :: rest ∧ c.nextSeq.sinceBoundary = 0) ∧
     (e.stop = c.pc → e.count ≤ e.index + 1 → (∀ e2 ∈ rest.head?, ¬(e2.depth = c.hd ∧ e2.stop = e.stop)) →
       c.nextSeq.pc = e.stop + 4 ∧ c.nextSeq.loops = rest) ∧
     (∀ e2 rest2, e.stop = c.pc → e.count ≤ e.index + 1 → rest = e2 :: rest2 → e2.depth = c.hd → e2.stop = e.stop → e2.index + 1 < e2.count →
       c.nextSeq.pc = e2.start ∧ c.nextSeq.loops = { e2 with index := e2.index + 1 } :: rest2)) ∧
  (∀ (p : BitVec 5) (s : State),
     (s.cur.getP p = false → exec (.lbrk p) s = .next s.goOn) ∧
     (s.cur.getP p = true → s.cur.innermost = none → exec (.lbrk p) s = .next (s.takeFault s.cur.ref ⟨0x01, 7, 0, false⟩ s.cur.pc)) ∧
     (∀ e rest, s.cur.getP p = true → s.cur.loops = e :: rest → e.depth = s.cur.hd → (∀ e2 ∈ rest.head?, ¬(e2.depth = s.cur.hd ∧ e2.stop = e.stop)) →
       ∃ t, exec (.lbrk p) s = .next t ∧ OnlyCur s t ∧ t.cur.pc = e.stop + 4 ∧ t.cur.loops = popOutside s.cur.hd (e.stop + 4) rest)) ∧
  (∀ (c : Context) (t : Word),
     (c.jumpTo t).pc = t ∧
     ∃ out, c.loops = out ++ (c.jumpTo t).loops ∧
       (∀ e ∈ out, e.depth = c.hd ∧ ¬(e.start.toNat ≤ t.toNat ∧ t.toNat ≤ e.stop.toNat)) ∧
       (∀ e ∈ (c.jumpTo t).loops.head?, e.depth = c.hd → e.start.toNat ≤ t.toNat ∧ t.toNat ≤ e.stop.toNat)) ∧
  (∀ (c : Context) (e : LoopEntry) (k : Nat), (c.activeLoops.find? (fun x => decide (1 ≤ x.stages))) = some e → e.stages ≤ 3 → k ≤ e.stages →
     c.getP (BitVec.ofNat 5 (4 + k)) = decide (k ≤ e.index ∧ e.index - k < e.count - e.stages) ∧
     (∀ b, c.putP (BitVec.ofNat 5 (4 + k)) b = c))

/-- R33, R34, R37, R132: the constant registers. R33, R82: a written register reads back and is full; every other register reads as before. R34: an empty
source of an R-format instruction waits with policy 0 and raises REG_EMPTY with policy 1, and nothing else changes. R35: an instruction whose
destination is empty waits at issue until it is full. -/
def Obligations.RegisterFile : Prop :=
  (∀ (c : Context) (v : Word) (b : Bool),
     c.getS 0 = 0 ∧ c.isFull 0 = true ∧ c.putS 0 v = c ∧ c.getP 0 = true ∧ c.putP 0 b = c) ∧
  (∀ (c : Context) (d : BitVec 5) (v : Word), d ≠ 0 →
     (c.putS d v).getS d = v ∧ (c.putS d v).isFull d = true ∧
     (∀ n, n ≠ d → (c.putS d v).getS n = c.getS n ∧ (c.putS d v).isFull n = c.isFull n)) ∧
  (∀ (o : RRR) (s : State), s.cur.isFull o.d = true → s.cur.isFull o.a = false →
     ∀ i ∈ [Instr.add o, .sub o, .mul o, .mulh o, .mulhn o, .div o, .divn o, .rem o, .remn o, .and o, .or o, .xor o, .sll o, .srl o, .sra o,
       .min o, .max o, .minn o, .maxn o, .slt o, .sltn o],
     (o.qa = false → exec i s = .next (s.setCur (fun c => { c with
       phase := .waiting, wait := some ⟨.full o.a, s.cycle, c.wdog.toNat * 1024⟩ }))) ∧
     (o.qa = true → exec i s = .next (s.takeFault s.cur.ref ⟨0x04, 0, 0, false⟩ s.cur.pc))) ∧
  (∀ (o : RRR) (s : State), s.cur.isFull o.d = false →
     ∀ i ∈ [Instr.add o, .sub o, .mul o, .mulh o, .mulhn o, .div o, .divn o, .rem o, .remn o, .and o, .or o, .xor o, .sll o, .srl o, .sra o,
       .min o, .max o, .minn o, .maxn o, .slt o, .sltn o],
     exec i s = .next (s.setCur (fun c => { c with phase := .waiting, wait := some ⟨.full o.d, s.cycle, c.wdog.toNat * 1024⟩ })))

/-- The frame of the one-cycle scalar instructions, branches and JAL when they do not wait or fault: memory as every party sees it, every other
context and table, the system registers, vector and copy registers and accesses under way are as they were; of the scalar registers only the
named destination changes. -/
def Obligations.ScalarFrame : Prop :=
  ∀ (i : Instr) (d : Option (BitVec 5)) (s t : State), scalarDest i = some d → exec i s = .next t → t.cur.phase = .ready → t.cur.hd = s.cur.hd →
    OnlyCur s t ∧ OnlyScalar s.cur t.cur ∧ (∀ n, some n ≠ d → t.cur.getS n = s.cur.getS n ∧ t.cur.isFull n = s.cur.isFull n) ∧
    (∀ loc pa, t.viewByte loc pa = s.viewByte loc pa)

/-! ## Scalar memory (R142 to R150) -/

namespace Sys2Proof.Machine

/-- ScopeOf (R145): the scope in force, and whether it was demoted. -/
def ScopeIs (s : State) (sc : BitVec 3) (scope : Scope) (demoted : Bool) : Prop :=
  (scopeOfCode sc ≠ .sys ∧ scope = scopeOfCode sc ∧ demoted = false) ∨
  (scopeOfCode sc = .sys ∧ s.scopePol (s.vfOf s.cur.slot) ≠ 1 ∧ scope = .fab ∧ demoted = true)

/-- The scope of an access at this try: what an earlier one settled, else ScopeOf (R145, R146). -/
def ScopeFor (s : State) (sc : BitVec 3) (scope : Scope) (demoted : Bool) : Prop :=
  match s.cur.passed.bind (·.scope) with
  | some r => r = (scope, demoted)
  | none => ScopeIs s sc scope demoted

/-- The checks of R142 pass for n bytes at an address, and give these pieces of memory; `p` is what the access has passed up to stage 2, in this try
or in an earlier one that waited there (R146). -/
def AccessOk (s : State) (scope : Option (Scope × Bool)) (va : Word) (n : Nat) (rights : BitVec 3) (p : Passed) (pieces : List Piece) : Prop :=
  p.pc = s.cur.pc ∧ scalarAccess scope va n rights s = .ok (pieces, s.setCur (fun c => { c with past := some p }))

/-- Every piece is on a page of this device. -/
def LocalPieces (pieces : List Piece) : Prop := ∀ x ∈ pieces, x.page.remote = none

/-- No acquire of the context is outstanding (R144). -/
def NoAcquire (s : State) : Prop := s.cur.pend.any Pend.isAcquire = false

/-- The state after the writebacks of a release at a scope (R283). -/
def State.released (s : State) (sc : Scope) : State :=
  match s.cur.core? with
  | some core => if 1 ≤ Scope.rank sc then s.writebackCore core else s
  | none => s

/-- No sector of the context's core waits to be written back (R283). -/
def NoneDirty (s : State) : Prop := ∀ core, s.cur.core? = some core → s.l1.all (fun x => !(x.core = core && x.dirty)) = true

/-- Nothing a release of the context at a scope would wait for (R290, R283). -/
def NothingOwed (s : State) (sc : Scope) : Prop := s.releaseDeps s.cur true sc = [] ∧ NoneDirty s

/-- A load is outstanding for d and the context goes on; its latency runs from the cycle in which it passed its checks (R34, R80, R142). -/
def State.loading (s : State) (since : Nat) (d : BitVec 5) (pieces : List Piece) (signed : Bool) (acq : Option Scope) (note : Option Word) : State :=
  let what : Result := .load (pieces.map (fun x => (x, none))) signed acq
  { (s.setCur (fun c => ({ (({ c with
      pend := c.pend ++ [⟨s.nextId, if d = 0 then .none else .s d, since + s.latency 2 5, what, note⟩] } : Context).empty d) with past := none } : Context).nextSeq)) with
    nextId := s.nextId + 1 }

/-- The stores of a store's pieces, numbered from `id`, each a sector request of its own (R143, R147, R280). -/
def heldOf (s : State) (va : Word) (rels : List Release) (pair : Nat) : List Piece → List Byte → Nat → List StoreRec
  | [], _, _ => []
  | p :: rest, bs, id =>
    { StoreRec.new id s.cur.ref (s.locOf s.cur) p.pa (bs.take p.len) p.page with rels := rels, req := id + 1, pair := pair, va := va } ::
      heldOf s va rels pair rest (bs.drop p.len) (id + 2)

/-- The stores are in the hold buffer (R280). -/
def State.storing (s : State) (va : Word) (pieces : List Piece) (bs : List Byte) (rels : List Release) : State :=
  { (s.setCur (fun c => { c with past := none })) with
    hold := s.hold ++ heldOf s va rels s.nextId pieces bs s.nextId, nextId := s.nextId + 2 * pieces.length }

/-- Every piece on a remote page lies in a window that allows the write (R377). -/
def RemoteOk (s : State) (pieces : List Piece) : Prop :=
  ∀ p ∈ pieces, p.page.remote.isSome = true → ∃ w, Tbl.get? s.rwins (p.pa / 2 ^ 36 % 2048) = some w ∧ p.pa % 2 ^ 36 + p.len ≤ w.len ∧ w.w = true

/-- A slot for a sector request is free at the port of the context's engine (R147, R303). -/
def SlotFree (s : State) : Prop := s.outstanding s.cur < s.slotsOf s.cur

/-- The address is memory: HBM4, or a bank in scratchpad mode that is not switching (R304, R308). -/
def IsMemory (s : State) (pa : Nat) : Prop :=
  paKind pa = .hbm ∨ ∃ g b, paKind pa = .sram g b ∧ (s.bank g b).busy = false ∧ (s.bank g b).mode = 1

/-- SCOPE_DEMOTED posted to the current context (R145). -/
def State.demoted (s : State) (b : Bool) (v : Word) : State := if b then s.post s.cur.ref ⟨0x23, 0, v, true⟩ else s

end Sys2Proof.Machine

/-- R142, R144: a load of local memory is outstanding once its checks have passed, and completes at issue. R142, R280: a store is in the hold buffer once
its checks have passed; a release, which is aligned and so one piece, writes the core's PRIV sectors back first and carries what it publishes, and the
event of a demoted one (R145). -/
def Obligations.LoadsAndStores : Prop :=
  ((∀ (o : MPlain) (s : State) (p : Passed) (ps : List Piece), s.cur.isFull o.d = true → s.cur.isFull o.base = true → NoAcquire s →
     AccessOk s none (s.cur.getS o.base + o.off.signExtend 64 * (1 <<< o.sz.toNat)) (2 ^ o.sz.toNat) 1 p ps → LocalPieces ps →
     exec (.ldSigned o) s = .next (s.loading p.since o.d ps true none none) ∧
     exec (.ldUnsigned o) s = .next (s.loading p.since o.d ps false none none)) ∧
   (∀ (o : MOrd) (s : State) (p : Passed) (ps : List Piece) (sc : Scope) (dem : Bool), s.cur.isFull o.d = true → s.cur.isFull o.base = true → NoAcquire s →
     let va := s.cur.getS o.base + o.off.signExtend 64 * (1 <<< o.sz.toNat)
     va.toNat % 2 ^ o.sz.toNat = 0 → ScopeFor s o.sc sc dem → AccessOk s (some (sc, dem)) va (2 ^ o.sz.toNat) 1 p ps → LocalPieces ps →
     exec (.ldaSigned o) s = .next (s.loading p.since o.d ps true (some sc) (if dem then some va else none)) ∧
     exec (.ldaUnsigned o) s = .next (s.loading p.since o.d ps false (some sc) (if dem then some va else none)))) ∧
  ((∀ (o : MPlain) (s : State) (p : Passed) (ps : List Piece), s.cur.isFull o.d = true → s.cur.isFull o.base = true → NoAcquire s →
     let va := s.cur.getS o.base + o.off.signExtend 64 * (1 <<< o.sz.toNat)
     AccessOk s none va (2 ^ o.sz.toNat) 2 p ps → RemoteOk s ps →
     exec (.st o) s = .next (s.storing va ps (natBytes (s.cur.getS o.d).toNat (2 ^ o.sz.toNat)) []).goOn) ∧
   (∀ (o : MOrd) (s : State) (p : Passed) (x : Piece) (sc : Scope) (dem : Bool), s.cur.isFull o.d = true → s.cur.isFull o.base = true → NoAcquire s →
     let va := s.cur.getS o.base + o.off.signExtend 64 * (1 <<< o.sz.toNat)
     va.toNat % 2 ^ o.sz.toNat = 0 → ScopeFor s o.sc sc dem → AccessOk s (some (sc, dem)) va (2 ^ o.sz.toNat) 2 p [x] → RemoteOk s [x] →
     let u := s.released sc
     exec (.stl o) s =
       .next (u.storing va [x] (natBytes (s.cur.getS o.d).toNat (2 ^ o.sz.toNat))
         [⟨s.cur.ref, u.nextId, sc, u.releaseDeps u.cur true sc, if dem then some va else none⟩]).goOn))

/-- R148, R142: what a store leaves the context to read: the bytes it stored, little-endian, and every other byte of memory as before. -/
def Obligations.StoreFrame : Prop :=
  ∀ (o : MPlain) (s : State) (p : Passed) (pa : Nat) (info : PageInfo), s.cur.isFull o.d = true → s.cur.isFull o.base = true → NoAcquire s →
    AccessOk s none (s.cur.getS o.base + o.off.signExtend 64 * (1 <<< o.sz.toNat)) (2 ^ o.sz.toNat) 2 p [⟨pa, 2 ^ o.sz.toNat, info⟩] →
    info.remote = none → (∀ r ∈ s.hold, r.id < s.nextId) →
    ∃ t, exec (.st o) s = .next t ∧
      (∀ (old : Option OldCopy) (page : PageInfo) (a : Nat), ¬(pa ≤ a ∧ a < pa + 2 ^ o.sz.toNat) →
        t.loadByte t.cur t.nextId old page a = s.loadByte s.cur s.nextId old page a ∧ (∀ loc, t.viewByte loc a = s.viewByte loc a)) ∧
      (∀ (old : Option OldCopy) (page : PageInfo) (i : Nat), i < 2 ^ o.sz.toNat → t.loadByte t.cur t.nextId old page (pa + i) = (s.cur.getS o.d).extractLsb' (8 * i) 8) ∧
      (∀ n, t.cur.getS n = s.cur.getS n ∧ t.cur.isFull n = s.cur.isFull n) ∧
      t.cur.p = s.cur.p ∧ t.cur.fcsr = s.cur.fcsr ∧ t.cur.epc = s.cur.epc ∧ t.cur.ecause = s.cur.ecause ∧ t.cur.eval = s.cur.eval ∧
      t.cur.v = s.cur.v ∧ t.cur.m = s.cur.m ∧ t.cur.a = s.cur.a ∧ t.parked = s.parked

/-- R149, R150: FENCE with nothing of its scalar and element accesses to wait for, whatever its copies still do, and WAITF of a full register, go on;
FENCE drops the copies that an acquire drops (R285). -/
def Obligations.FenceAndWaitf : Prop :=
  (∀ (c : BitVec 3) (s : State) (sc : Scope) (dem : Bool), ScopeFor s c sc dem → s.releaseDeps s.cur false sc = [] → NoneDirty s →
    s.cur.pend.any Pend.isAccess = false →
    exec (.fence c) s = .next ((s.orderPoint s.cur true).demoted dem 0).goOn) ∧
  (∀ (a : BitVec 5) (s : State), s.cur.isFull a = true → exec (.waitf a) s = .next s.goOn)

/-- R142, R144: LDA, STL and atomics at an address that is not aligned raise MISALIGNED with the address in EVAL. R142, R143, R353: an aligned access
within one raw page that both stages translate, with a slot free and no copy in its way, passes every check and is one piece. R142, R146, R353: a load
or store whose page stage 1 refuses raises that fault, and one of a page that is not raw raises FORMAT_MISMATCH, with the address in EVAL; no byte is
performed. R145: under the policy TRAP, a fence, an ordered access or an ordered atomic at sys raises SCOPE_TRAP before any translation. -/
def Obligations.AccessChecks : Prop :=
  ((∀ (o : MOrd) (s : State), s.cur.isFull o.d = true → s.cur.isFull o.base = true →
     let va := s.cur.getS o.base + o.off.signExtend 64 * (1 <<< o.sz.toNat)
     va.toNat % 2 ^ o.sz.toNat ≠ 0 →
     ∀ i ∈ [Instr.ldaSigned o, .ldaUnsigned o, .stl o], exec i s = .next (s.takeFault s.cur.ref ⟨0x05, 0, va, false⟩ s.cur.pc)) ∧
   (∀ (o : Amo) (s : State), s.cur.isFull o.d = true → s.cur.isFull o.a = true → s.cur.isFull o.b = true →
     let t := s.cur.getS o.a
     (t.toNat % 4 ≠ 0 → ∀ i ∈ [Instr.amoI32 o, .amoN32 o, .amofF32 o], exec i s = .next (s.takeFault s.cur.ref ⟨0x05, 0, t, false⟩ s.cur.pc)) ∧
     (t.toNat % 8 ≠ 0 → ∀ i ∈ [Instr.amoI64 o, .amoN64 o], exec i s = .next (s.takeFault s.cur.ref ⟨0x05, 0, t, false⟩ s.cur.pc)) ∧
     (t.toNat % 2 ≠ 0 → exec (.amofBf16 o) s = .next (s.takeFault s.cur.ref ⟨0x05, 0, t, false⟩ s.cur.pc)))) ∧
  (∀ (s : State) (sc : Option (Scope × Bool)) (va : Word) (k : Nat) (rights : BitVec 3) (ipa : Nat) (e1 : Word) (info : PageInfo), k ≤ 3 →
     va.toNat % 2 ^ k = 0 → s.cur.passed = none → stage1 s (s.vfOf s.cur.slot) va rights = .ok (ipa, e1) → (pageOf e1).fmt = 0 → SlotFree s →
     translateFull s (s.vfOf s.cur.slot) va rights = .ok info → IsMemory s info.pa → s.cur.kind ≠ .ce →
     ∃ p : Passed, p.since = s.cycle ∧ AccessOk s sc va (2 ^ k) rights p [⟨info.pa, 2 ^ k, info⟩]) ∧
  (∀ (o : MPlain) (s : State) (va : Word), s.cur.isFull o.d = true → s.cur.isFull o.base = true →
     va = s.cur.getS o.base + o.off.signExtend 64 * (1 <<< o.sz.toNat) → va.toNat % 2 ^ o.sz.toNat = 0 → s.cur.passed = none →
     (∀ c d, stage1 s (s.vfOf s.cur.slot) va 1 = .fault c d →
       exec (.ldSigned o) s = .next (s.takeFault s.cur.ref ⟨c, d, va, false⟩ s.cur.pc) ∧
       exec (.ldUnsigned o) s = .next (s.takeFault s.cur.ref ⟨c, d, va, false⟩ s.cur.pc)) ∧
     (∀ c d, stage1 s (s.vfOf s.cur.slot) va 2 = .fault c d → exec (.st o) s = .next (s.takeFault s.cur.ref ⟨c, d, va, false⟩ s.cur.pc)) ∧
     (∀ ipa e, stage1 s (s.vfOf s.cur.slot) va 1 = .ok (ipa, e) → (pageOf e).fmt ≠ 0 →
       exec (.ldSigned o) s = .next (s.takeFault s.cur.ref ⟨0x08, 0, va, false⟩ s.cur.pc)) ∧
     (∀ ipa e, stage1 s (s.vfOf s.cur.slot) va 2 = .ok (ipa, e) → (pageOf e).fmt ≠ 0 →
       exec (.st o) s = .next (s.takeFault s.cur.ref ⟨0x08, 0, va, false⟩ s.cur.pc))) ∧
  (∀ (s : State), s.scopePol (s.vfOf s.cur.slot) = 1 → s.cur.passed = none →
     (∀ c, scopeOfCode c = .sys → exec (.fence c) s = .next (s.takeFault s.cur.ref ⟨0x15, 0, 0, false⟩ s.cur.pc)) ∧
     (∀ (o : MOrd), s.cur.isFull o.d = true → s.cur.isFull o.base = true → scopeOfCode o.sc = .sys →
       (s.cur.getS o.base + o.off.signExtend 64 * (1 <<< o.sz.toNat)).toNat % 2 ^ o.sz.toNat = 0 →
       ∀ i ∈ [Instr.ldaSigned o, .ldaUnsigned o, .stl o], exec i s = .next (s.takeFault s.cur.ref ⟨0x15, 0, 0, false⟩ s.cur.pc)) ∧
     (∀ (o : Amo), s.cur.isFull o.d = true → s.cur.isFull o.a = true → s.cur.isFull o.b = true → scopeOfCode o.sc = .sys → o.ord ≠ 0 →
       (s.cur.getS o.a).toNat % 8 = 0 →
       ∀ i ∈ [Instr.amoI32 o, .amoN32 o, .amoI64 o, .amoN64 o, .amofF32 o, .amofBf16 o],
         exec i s = .next (s.takeFault s.cur.ref ⟨0x15, 0, 0, false⟩ s.cur.pc)))

/-! ## Atomics (R176) -/

namespace Sys2Proof.Machine

/-- The conditions under which an atomic of n bytes passes the checks of R176. -/
def AtomicOk (s : State) (t : Word) (n : Nat) (k : AtomKind) (ord : BitVec 2) (sc : BitVec 3) (scope : Scope) (dem : Bool) (info : PageInfo) : Prop :=
  t.toNat % n = 0 ∧ (if ord = 0 then scope = .eng ∧ dem = false else ScopeFor s sc scope dem) ∧
  (match s.cur.passed with
   | some p => ∃ x, p.pages.find? (fun y => y.1 / 2 ^ 16 = t.toNat / 2 ^ 16) = some x ∧
     ∃ pa e2, stage2 s (s.vfOf s.cur.slot) (x.2.1 / 2 ^ 16 * 2 ^ 16 + t.toNat % 2 ^ 16) 3 = .ok (pa, e2) ∧ info = combine x.2.2 pa e2
   | none => (∃ ipa e1, stage1 s (s.vfOf s.cur.slot) t 3 = .ok (ipa, e1) ∧ (pageOf e1).cohr ≠ .rsh ∧ k.fmtOk (pageOf e1).fmt = true) ∧
     SlotFree s ∧ translateFull s (s.vfOf s.cur.slot) t 3 = .ok info) ∧
  info.remote = none ∧ IsMemory s info.pa ∧ NoAcquire s

/-- An atomic is outstanding for d and the context goes on. -/
def State.atomicIssued (s : State) (d : BitVec 5) (t v : Word) (n : Nat) (signed : Bool) (op : AtomOp) (ord : BitVec 2) (scope : Scope) (dem : Bool)
    (info : PageInfo) : State :=
  let isRel := ord = 2 ∨ ord = 3
  let u := if isRel then s.released scope else s
  let what : Result := .atomic ⟨info.pa, n, info⟩ op v signed (if ord = 1 ∨ ord = 3 then some scope else none)
    (if isRel then [⟨s.cur.ref, u.nextId, scope, u.releaseDeps u.cur true scope, none⟩] else [])
  { (u.setCur (fun c => ({ (({ c with
      pend := c.pend ++ [⟨u.nextId, if d = 0 then .none else .s d, u.cycle + 5, what, if dem then some t else none⟩] } : Context).empty d) with
      past := none } : Context).nextSeq)) with
    nextId := u.nextId + 1 }

end Sys2Proof.Machine

/-- R176, R94: an atomic whose checks pass is outstanding, with the operation its op field names and CAS with the comparand of s[d] at issue. R176: the
new value of each integer atomic of n bytes, from the old value and the operand. -/
def Obligations.Atomics : Prop :=
  ((∀ (o : Amo) (s : State) (scope : Scope) (dem : Bool) (info : PageInfo), s.cur.isFull o.d = true → s.cur.isFull o.a = true → s.cur.isFull o.b = true →
     let t := s.cur.getS o.a
     let v := s.cur.getS o.b
     let iop (signed : Bool) : AtomOp := [AtomOp.swap, .add, .and, .or, .xor, if signed then .min else .minn, if signed then .max else .maxn].getD o.op.toNat .swap
     (o.op ≠ 7 → AtomicOk s t 4 .int o.ord o.sc scope dem info →
       exec (.amoI32 o) s = .next (s.atomicIssued o.d t v 4 true (iop true) o.ord scope dem info) ∧
       exec (.amoN32 o) s = .next (s.atomicIssued o.d t v 4 false (iop false) o.ord scope dem info)) ∧
     (o.op ≠ 7 → AtomicOk s t 8 .int o.ord o.sc scope dem info →
       exec (.amoI64 o) s = .next (s.atomicIssued o.d t v 8 false (iop true) o.ord scope dem info) ∧
       exec (.amoN64 o) s = .next (s.atomicIssued o.d t v 8 false (iop false) o.ord scope dem info)) ∧
     (o.op.toNat ≤ 2 → AtomicOk s t 4 .f32 o.ord o.sc scope dem info →
       exec (.amofF32 o) s = .next (s.atomicIssued o.d t v 4 false ([AtomOp.faddF32, .fminF32, .fmaxF32].getD o.op.toNat .swap) o.ord scope dem info)) ∧
     (o.op.toNat ≤ 2 → AtomicOk s t 2 .bf16 o.ord o.sc scope dem info →
       exec (.amofBf16 o) s = .next (s.atomicIssued o.d t v 2 false ([AtomOp.faddBf16, .fminBf16, .fmaxBf16].getD o.op.toNat .swap) o.ord scope dem info))) ∧
   (∀ (o : Cas) (s : State) (scope : Scope) (dem : Bool) (info : PageInfo), s.cur.isFull o.d = true → s.cur.isFull o.a = true → s.cur.isFull o.b = true →
     let t := s.cur.getS o.a
     let v := s.cur.getS o.b
     (AtomicOk s t 4 .int o.ord o.sc scope dem info →
       exec (.casN32 o) s = .next (s.atomicIssued o.d t v 4 false (.cas (s.cur.getS o.d)) o.ord scope dem info)) ∧
     (AtomicOk s t 8 .int o.ord o.sc scope dem info →
       exec (.casN64 o) s = .next (s.atomicIssued o.d t v 8 false (.cas (s.cur.getS o.d)) o.ord scope dem info)))) ∧
  (∀ (n old : Nat) (v c : Word), n = 4 ∨ n = 8 → old < 2 ^ (8 * n) →
     let w := 2 ^ (8 * n)
     let x := v.toNat % w
     let sg (k : Nat) : Int := if k < w / 2 then (k : Int) else (k : Int) - w
     atomNew .swap n old v.toNat = x ∧
     atomNew .add n old v.toNat = (old + v.toNat) % w ∧
     atomNew .and n old v.toNat = Nat.land old x ∧
     atomNew .or n old v.toNat = Nat.lor old x ∧
     atomNew .xor n old v.toNat = Nat.xor old x ∧
     sg (atomNew .min n old v.toNat) = min (sg old) (sg x) ∧
     sg (atomNew .max n old v.toNat) = max (sg old) (sg x) ∧
     atomNew .minn n old v.toNat = min old x ∧
     atomNew .maxn n old v.toNat = max old x ∧
     atomNew (.cas c) n old v.toNat = if old = c.toNat % w then x else old)

/-! ## Traps, returns and system registers (R151 to R156, R40 to R43) -/

/-- R151, R152, R153: a trap delivered to a handler, and the return from it. R151, R365: a fault without a handler, or inside one, stops the context and
starts the kill of its instance with that fault. -/
def Obligations.TrapsAndReturns : Prop :=
  ((∀ (n : BitVec 8) (s : State), s.cur.hd = false → s.cur.tvec ≠ 0 →
     ∃ t, exec (.trap n) s = .next t ∧ OnlyCur s t ∧ t.cur.epc = s.cur.pc + 4 ∧ t.cur.ecause = n.setWidth 64 <<< 8 ∧ t.cur.eval = 0 ∧
       t.cur.hd = true ∧ t.cur.pc = s.cur.tvec ∧ t.cur.phase = .ready ∧ t.cur.wait = none ∧
       (∀ r, t.cur.getS r = s.cur.getS r ∧ t.cur.isFull r = s.cur.isFull r) ∧ t.cur.p = s.cur.p ∧ t.cur.loops = s.cur.loops ∧ t.cur.fcsr = s.cur.fcsr ∧
       t.cur.tvec = s.cur.tvec ∧ (∀ loc pa, t.viewByte loc pa = s.viewByte loc pa)) ∧
   (∀ (s : State), s.cur.hd = true →
     ∃ t, exec .eret s = .next t ∧ OnlyCur s t ∧ t.cur.hd = false ∧ t.cur.pc = s.cur.epc ∧
       (∃ out, s.cur.loops.filter (fun e => !e.depth) = out ++ t.cur.loops ∧ ∀ e ∈ out, ¬(e.start.toNat ≤ s.cur.epc.toNat ∧ s.cur.epc.toNat ≤ e.stop.toNat)) ∧
       (∀ r, t.cur.getS r = s.cur.getS r ∧ t.cur.isFull r = s.cur.isFull r) ∧ t.cur.epc = s.cur.epc ∧ t.cur.ecause = s.cur.ecause ∧ t.cur.eval = s.cur.eval) ∧
   (∀ (s : State), s.cur.hd = false → exec .eret s = .next (s.takeFault s.cur.ref ⟨0x01, 6, 0, false⟩ s.cur.pc))) ∧
  (∀ (s : State) (f : FaultRec) (epc : Word) (x : Slot), s.cur.hd = true ∨ s.cur.tvec = 0 → Tbl.get? s.slots s.cur.slot = some x → x.state = 2 →
     (s.takeFault s.cur.ref f epc).cur.phase = .stopped ∧
     (∃ y, Tbl.get? (s.takeFault s.cur.ref f epc).slots s.cur.slot = some y ∧ y.state = 6 ∧ y.kill = some (.fault f s.cur.num epc)) ∧
     (s.takeFault s.cur.ref f epc).mem = s.mem ∧ (s.takeFault s.cur.ref f epc).parked = s.parked)

/-- R40, R155: SYSR of every register of the table that the context's kind has, CYCLE and fcsr under their waits; CYCLE of a VF under replay is what the
capture recorded (R405). R40, R30: what the indices of the table read. -/
def Obligations.SystemReads : Prop :=
  (∀ (o : SysR) (s : State), s.cur.isFull o.d = true →
     let r := sysRegOf o.idx
     (r.presentIn s.cur.kind = true → r ≠ .fcsr → r ≠ .cycle → exec (.sysr o) s = .next (s.regDone o.d (s.sysValue r))) ∧
     (o.idx = 0x001 → s.cur.kind ≠ .se → s.cur.convPending = none → s.cur.copyq.any (fun e => decide (e.op = .cpyx)) = false →
       exec (.sysr o) s = .next (s.regDone o.d s.cur.fcsr)) ∧
     (o.idx = 0x043 → s.cur.kind ≠ .se → Tbl.get? s.dortas.captures (s.vfOf s.cur.slot) = none → Tbl.get? s.replays (s.vfOf s.cur.slot) = none →
       exec (.sysr o) s = .next (s.lateDone o.d 3 8 (BitVec.ofNat 64 s.cycle))) ∧
     (∀ (r : Replay) (e : Captured) (rest : List Captured), o.idx = 0x043 → s.cur.kind ≠ .se → Tbl.get? s.dortas.captures (s.vfOf s.cur.slot) = none →
       Tbl.get? s.replays (s.vfOf s.cur.slot) = some r → r.events = e :: rest → e.kind = 7 → e.a = s.cur.num → e.b = 0 →
       exec (.sysr o) s = .next (({ s with replays := Tbl.set s.replays (s.vfOf s.cur.slot) { r with events := rest } } : State).lateDone o.d 3 8
         (match e.vals[0]? with
          | some x => BitVec.ofInt 64 x
          | none => BitVec.ofNat 64 s.cycle))) ∧
     (r.presentIn s.cur.kind = false → exec (.sysr o) s = .next (s.takeFault s.cur.ref ⟨0x01, 0, 0, false⟩ s.cur.pc))) ∧
  (∀ (s : State),
     let v (i : BitVec 12) : Word := s.sysValue (sysRegOf i)
     let e (f : RcbField) : Nat := s.effOf s.cur f
     v 0x002 = s.cur.vshape ∧ v 0x010 = s.cur.wtro ∧ v 0x011 = s.cur.wtok ∧ v 0x012 = s.cur.wrdv ∧ v 0x044 = s.cur.wdog ∧
     v 0x070 = s.cur.epc ∧ v 0x071 = s.cur.ecause ∧ v 0x072 = s.cur.eval ∧ v 0x073 = s.cur.tvec ∧
     v 0x030 = BitVec.ofNat 64 (s.scopePol (s.vfOf s.cur.slot)) ∧ (v 0x042).toNat = s.vfOf s.cur.slot % 256 ∧
     (v 0x040).toNat % 2 ^ 16 = s.cur.num % 2 ^ 16 ∧
     (v 0x040).toNat / 2 ^ 16 = (match s.cur.kind with | .cc => 0 | .ve => 1 | .ce => 2 | .he => 3 | .se => 4) ∧
     (∀ k, k ≤ 5 → v (BitVec.ofNat 12 (0x060 + k)) = match s.cur.loops[k]? with | some l => BitVec.ofNat 64 l.index | none => 0) ∧
     (∀ k : Fin 4, v (BitVec.ofNat 12 (0x050 + k.val)) = s.cur.qb[k]) ∧
     (∀ x, s.slotOf s.cur = some x → (v 0x041).toNat = x.lrec % 2 ^ 16 + 2 ^ 16 * (x.seq % 2 ^ 16) + 2 ^ 32 * (x.rcbx % 2 ^ 16)) ∧
     (v 0x080).toNat = e .share % 2 ^ 8 + 2 ^ 8 * (e .pclass % 2 ^ 3) + 2 ^ 11 * (e .fdom % 2) + 2 ^ 12 * (s.scopePol (s.vfOf s.cur.slot) % 2) +
       2 ^ 13 * (e .qpol % 2) + 2 ^ 14 * (e .slice % 2 ^ 20) + 2 ^ 34 * (e .bindmax % 2 ^ 20) ∧
     (v 0x081).toNat = e .coresb % 2 ^ 16 + 2 ^ 16 * (e .cengb % 2 ^ 16) + 2 ^ 32 * (e .hearthb % 2 ^ 16) + 2 ^ 48 * (e .outreq % 2 ^ 16) ∧
     (v 0x082).toNat = e .trob % 2 ^ 16 + 2 ^ 16 * (e .tokb % 2 ^ 16) + 2 ^ 32 * (e .rdvb % 2 ^ 16) + 2 ^ 48 * (e .stepb % 2 ^ 16))

namespace Sys2Proof.Machine

/-- A bank that the current context has begun to switch to a mode without a route; the wait for its extension is bounded by the WDOG of now (R156, R307). -/
def Bank.switching (k : Bank) (s : State) (mode : Nat) : Bank :=
  { k with busy := true, toMode := mode, toRoute := 0, by_ := some s.cur.ref, since := s.cycle, bound := s.cur.wdog.toNat * 1024 }

end Sys2Proof.Machine

/-- R40, R41, R42, R156: SYSW of vshape, WDOG, EPC, TVEC and fcsr writes a value that the register allows, and refuses every other with RESERVED_FIELD; a
read-only register raises PRIVILEGE, and an index that is not the kind's ILLEGAL_OP. R43, R306, R307: SYSW of QBn binds a stream register, and SYSW of
BANKCFGn starts a bank's switch. -/
def Obligations.SystemWrites : Prop :=
  ((∀ (o : SysW) (s : State), s.cur.isFull o.a = true → s.cur.kind ≠ .se →
     let x := s.cur.getS o.a
     let bad := Host.Outcome.next (s.takeFault s.cur.ref ⟨0x02, 0, x, false⟩ s.cur.pc)
     (o.idx = 0x002 → s.cur.kind = .ve → tilesLanded s.cur = true →
       exec (.sysw o) s = if 1 ≤ x.toNat % 32 ∧ x.toNat % 32 ≤ 16 ∧ 1 ≤ x.toNat / 32 % 256 ∧ x.toNat / 32 % 256 ≤ 128 ∧ x.toNat / 2 ^ 13 % 8 < 3 ∧
           x.toNat % 32 * (x.toNat / 32 % 256) * 2 ^ (x.toNat / 2 ^ 13 % 8) ≤ 2048 ∧ x.toNat < 2 ^ 16
         then .next (s.setCur (fun c => ({ c with vshape := x } : Context).nextSeq)) else bad) ∧
     (o.idx = 0x044 → exec (.sysw o) s = if 1 ≤ x.toNat ∧ x.toNat ≤ 2 ^ 20 then .next (s.setCur (fun c => ({ c with wdog := x } : Context).nextSeq)) else bad) ∧
     (o.idx = 0x070 → exec (.sysw o) s = if x.toNat % 4 = 0 then .next (s.setCur (fun c => ({ c with epc := x } : Context).nextSeq)) else bad) ∧
     (o.idx = 0x073 → exec (.sysw o) s = if x.toNat % 4 = 0 then .next (s.setCur (fun c => ({ c with tvec := x } : Context).nextSeq)) else bad)) ∧
   (∀ (o : SysW) (s : State), (sysRegOf o.idx).presentIn s.cur.kind = true → (sysRegOf o.idx).writable = false →
     exec (.sysw o) s = .next (s.takeFault s.cur.ref ⟨0x03, 0, 0, false⟩ s.cur.pc)) ∧
   (∀ (o : SysW) (s : State), (sysRegOf o.idx).presentIn s.cur.kind = false → exec (.sysw o) s = .next (s.takeFault s.cur.ref ⟨0x01, 0, 0, false⟩ s.cur.pc)) ∧
   (∀ (o : RA) (s : State), s.cur.isFull o.a = true → s.cur.convPending = none → s.cur.copyq.any (fun e => decide (e.op = .cpyx)) = false →
     let x := s.cur.getS o.a
     exec (.syswFcsr o) s = if x.toNat / 2 ^ 9 % 2 ^ 23 = 0 ∧ x.toNat / 8 % 2 = 0 ∧ x.toNat % 8 ≤ 5
       then .next (s.setCur (fun c => ({ c with fcsr := if x.toNat / 2 ^ 32 = 0 then BitVec.ofNat 64 (0x9E3779B9 * 2 ^ 32 + x.toNat) else x } : Context).nextSeq))
       else .next (s.takeFault s.cur.ref ⟨0x02, 0, x, false⟩ s.cur.pc))) ∧
  ((∀ (o : SysWN 2) (s : State), s.cur.isFull o.a = true → s.cur.kind = .ve →
     let x := s.cur.getS o.a
     x.toNat / 2 ^ 8 % 2 ^ 52 = 0 → x.getLsbD 61 = false →
     (x.getLsbD 63 = true → x.getLsbD 60 = false → x.toNat % 2 ^ 8 < fieldN s.cur.wtro 40 32) →
     (x.getLsbD 63 = true → x.getLsbD 60 = true → s.streamEndpoint s.cur x = true) →
     exec (.syswQb o) s = .next (s.setCur (fun c => ({ c with qb := c.qb.set o.n.toNat x o.n.isLt } : Context).nextSeq))) ∧
   (∀ (o : SysWN 4) (s : State) (x : Slot), s.cur.isFull o.a = true → s.cur.kind = .cc → s.slotOf s.cur = some x → x.bind.getLsbD (724 + o.n.toNat) = true →
     let v := s.cur.getS o.a
     let k := s.bank s.cur.grp o.n.toNat
     k.busy = false → v.toNat < 2 → k.mode ≠ v.toNat → (k.mode = 1 → s.troughInBank s.cur.grp o.n.toNat = false) →
     exec (.syswBankcfg o) s = .next ({ s with
       banks := Tbl.set s.banks (s.cur.grp * 16 + o.n.toNat) (k.switching s v.toNat) } : State).goOn))

/-! ## Rendezvous points and troughs (R46, R161, R165 to R167) -/

namespace Sys2Proof.Machine

/-- The window of rendezvous points holds the number; `r` is the physical point of group `g` (R48). -/
def RdvNamed (s : State) (i : BitVec 8) (g r : Nat) : Prop :=
  i.toNat < fieldN s.cur.wrdv 40 32 ∧ g = s.homeGrp s.cur.slot ∧ r = fieldN s.cur.wrdv 15 0 + i.toNat

/-- A point after one update (R46). -/
def State.rdvSet (s : State) (g r : Nat) (p : Rdv) : State :=
  let q : Rdv := if p.arr = p.exp ∧ 1 ≤ p.exp then { p with arr := 0, phase := p.phase + 1 } else p
  { s with rdvs := Tbl.set s.rdvs (g * 256 + r) { q with at_ := s.cycle + 1, by_ := s.cur.num } }

/-- No context of a higher number has updated the point in this cycle: the current one has its turn (R46). -/
def RdvTurn (s : State) (p : Rdv) : Prop := ¬(p.at_ = s.cycle + 1 ∧ s.cur.num < p.by_)

/-- A configured, consistent trough that the context may name (R48, R165, R166, R312). -/
def TroughNamed (s : State) (i : BitVec 8) (k : Nat) (t : Trough) : Prop :=
  i.toNat < fieldN s.cur.wtro 40 32 ∧ k = s.homeGrp s.cur.slot * 1024 + (fieldN s.cur.wtro 15 0 + i.toNat) ∧ Tbl.get? s.troughs k = some t ∧
  (t.dev = true ∨ s.cur.grp = s.homeGrp s.cur.slot)

/-- R166's invariants, and a trough that instructions may use. -/
def TroughGood (t : Trough) : Prop := t.conf = true ∧ t.inc = false ∧ t.consistent = true

end Sys2Proof.Machine

/-- R161, R46: RDVA and RDVE update the point, each in its turn among the updates of the cycle; the RDV that completes the phase goes on at once, and every other RDV waits for the phase to pass. -/
def Obligations.Rendezvous : Prop :=
  ∀ (i : BitVec 8) (s : State) (g r : Nat), RdvNamed s i g r →
    let p := s.rdv g r
    (1 ≤ p.exp → NothingOwed s .dev → RdvTurn s p → exec (.rdva i) s = .next (s.rdvSet g r { p with arr := p.arr + 1 }).goOn) ∧
    (1 ≤ p.exp → NothingOwed s .dev → RdvTurn s p → s.cur.arrived = none → p.arr + 1 = p.exp →
      exec (.rdv i) s = .next ((s.rdvSet g r { p with arr := p.arr + 1 }).orderPoint s.cur true).goOn) ∧
    (1 ≤ p.exp → NothingOwed s .dev → RdvTurn s p → s.cur.arrived = none → p.arr + 1 ≠ p.exp →
      exec (.rdv i) s = .next ((s.rdvSet g r { p with arr := p.arr + 1 }).setCur (fun c => { c with
        arrived := some (c.pc, p.phase), phase := .waiting, wait := some ⟨.phaseNot g r p.phase, s.cycle, c.wdog.toNat * 1024⟩ }))) ∧
    (∀ (o : ObjA) , o.t = i → s.cur.isFull o.a = true →
      let e : Int := p.exp + (s.cur.getS o.a).toInt
      (0 ≤ e ∧ e ≤ 65535 ∧ p.arr ≤ e → RdvTurn s p → exec (.rdve o) s = .next (s.rdvSet g r { p with exp := e.toNat }).goOn) ∧
      (¬(0 ≤ e ∧ e ≤ 65535 ∧ p.arr ≤ e) → exec (.rdve o) s = .next (s.takeFault s.cur.ref ⟨0x01, 8, 0, false⟩ s.cur.pc))) ∧
    (1 ≤ p.exp → NothingOwed s .dev → ¬RdvTurn s p → exec (.rdva i) s = .next (s.enterWait (.cycleAfter s.cycle))) ∧
    (p.exp = 0 → exec (.rdva i) s = .next (s.takeFault s.cur.ref ⟨0x01, 8, 0, false⟩ s.cur.pc))

/-- R165, R313: the transitions of a trough's slots; a claim or take comes in its turn among the requests of the cycle, a take of what an earlier cycle
filled (R166), and a claim that met a released slot too early in its cycle goes on in it. R165, R167: TCFG, TSTAT and TRESYNC, and the waits of a
claim and a take. -/
def Obligations.Troughs : Prop :=
  (∀ (s : State) (i : BitVec 8) (k : Nat) (t : Trough), TroughNamed s i k t → TroughGood t →
     let pos := t.position s.cur
     (∀ (o : ObjD), o.t = i → s.cur.isFull o.d = true → t.slotAt (t.head % t.cap) = .free → t.mayClaim pos s.cycle = true →
       exec (.tclaim o) s = .next (((s.setTrough k { t with
         slots := t.slots.set (t.head % t.cap) .filling, head := (t.head + 1) % (2 * t.cap), claimed := t.claimed + 1
         claimPtr := t.claimPtr.meet t.positions pos s.cycle true }).orderPoint s.cur false).regDone
           o.d (BitVec.ofNat 64 (t.head % t.cap)))) ∧
     (∀ (o : ObjD), o.t = i → s.cur.isFull o.d = true → t.takeable s.cycle = true → t.mayTake pos s.cycle = true →
       exec (.ttake o) s = .next (((s.setTrough k { t with
         slots := t.slots.set (t.tail % t.cap) .draining, tail := (t.tail + 1) % (2 * t.cap), filled := t.filled - 1
         takePtr := t.takePtr.meet t.positions pos s.cycle true }).orderPoint s.cur false).regDone
           o.d (t.counts.getD (t.tail % t.cap) 0 ++ BitVec.ofNat 32 (t.tail % t.cap)))) ∧
     (∀ (o : ObjA), o.t = i → s.cur.isFull o.a = true → NothingOwed s (if t.dev then .dev else .grp) →
       let x := s.cur.getS o.a
       let n := x.toNat % 2 ^ 12
       x.toNat / 2 ^ 12 % 2 ^ 20 = 0 → n < t.cap → t.slotAt n = .filling → x.toNat / 2 ^ 32 ≤ t.slotBytes →
       exec (.tfill o) s = .next (s.setTrough k { t with
         slots := t.slots.set n .full, counts := t.counts.set n (BitVec.ofNat 32 (x.toNat / 2 ^ 32)), filledAt := t.filledAt.set n (s.cycle + 1)
         claimed := t.claimed - 1, filled := t.filled + 1 }).goOn) ∧
     (∀ (o : ObjA), o.t = i → s.cur.isFull o.a = true → NothingOwed s (if t.dev then .dev else .grp) →
       let x := s.cur.getS o.a
       let n := x.toNat % 2 ^ 12
       x.toNat / 2 ^ 12 % 2 ^ 20 = 0 → n < t.cap → t.slotAt n = .draining →
       exec (.trelease o) s = .next ((s.setTrough k { t with slots := t.slots.set n .free }).wakeNow (.troughFree (k / 1024) (k % 1024))).goOn) ∧
     (t.takeable s.cycle = true → exec (.twaitf i) s = .next s.goOn) ∧
     (t.slotAt (t.head % t.cap) = .free → exec (.twaite i) s = .next s.goOn) ∧
     (t.takeable s.cycle = true ↔ t.slotAt (t.tail % t.cap) = .full ∧ ∃ n < t.cap, t.slotAt n = .full ∧ t.filledAt.getD n 0 ≤ s.cycle)) ∧
  (∀ (s : State) (i : BitVec 8) (k : Nat) (t : Trough), TroughNamed s i k t →
     (∀ (o : ObjA) (x : Slot), o.t = i → s.cur.isFull o.a = true → s.slotOf s.cur = some x → (∀ y ∈ t.slots, y = .free) →
       (s.cur.getS o.a).toNat % 32 = 0 → (s.cur.getS o.a).toNat + t.cap * t.slotBytes ≤ 1024 * x.sramKiB →
       exec (.tcfg o) s = .next (s.setTrough k { t with
         base := (s.cur.getS o.a).toNat, conf := true, inc := false, head := 0, tail := 0, claimed := 0, filled := 0
         counts := t.counts.map (fun _ => 0), claimPtr := .reset, takePtr := .reset }).goOn) ∧
     (∀ (o : ObjD), o.t = i → s.cur.isFull o.d = true → t.head < 2 ^ 13 → t.tail < 2 ^ 13 → t.claimed < 2 ^ 13 → t.filled < 2 ^ 13 →
       exec (.tstat o) s = .next (s.regDone o.d (BitVec.ofNat 64
         (t.head + 2 ^ 16 * t.tail + 2 ^ 32 * t.claimed + 2 ^ 48 * t.filled + 2 ^ 62 * t.inc.toNat + 2 ^ 63 * t.conf.toNat)))) ∧
     (t.conf = true → exec (.tresync i) s = .next (s.setTrough k t.resync).goOn ∧
       t.resync.claimed = t.count .filling ∧ t.resync.filled = t.count .full ∧ t.resync.inc = false ∧ t.resync.slots = t.slots ∧
       t.resync.head = (t.resync.tail + t.count .filling + t.count .full) % (2 * t.cap)) ∧
     (t.conf = true → t.inc = false → ∀ (o : ObjD), o.t = i → s.cur.isFull o.d = true → t.slotAt (t.head % t.cap) ≠ .free →
       exec (.tclaim o) s = .next ((s.setTrough k { t with
         claimPtr := t.claimPtr.meet t.positions (t.position s.cur) s.cycle false }).enterWait (.troughFree (k / 1024) (k % 1024)))) ∧
     (t.conf = true → t.inc = false → t.consistent = false → ∀ (o : ObjD), o.t = i → s.cur.isFull o.d = true → t.slotAt (t.head % t.cap) = .free →
       t.mayClaim (t.position s.cur) s.cycle = true →
       exec (.tclaim o) s = .next ((s.setTrough k { t with inc := true }).takeFault s.cur.ref ⟨0x0F, 0, 0, false⟩ s.cur.pc)))

/-! ## Routes, leases, Proofer loops (R163, R164, R168 to R174) -/

namespace Sys2Proof.Machine

/-- A lease selector names these Hearths (R163). -/
def LeaseNamed (s : State) (x : Word) (grps : List Nat) : Prop :=
  x.toNat < 2 ^ 9 ∧ ∃ sl g, s.slotOf s.cur = some sl ∧ nthSetBit sl.hmask (x.toNat % 2 ^ 8) = some g ∧
    ((x.getLsbD 8 = false ∧ grps = [g]) ∨ (x.getLsbD 8 = true ∧ ∃ h w, (s.hearth g).sheet = some (g, h, w) ∧ grps = sheetMembers g h w))

/-- No request waits for a lease, and no instance holds any of these Hearths. -/
def LeaseFree (s : State) (grps : List Nat) : Prop := s.leaseQ = [] ∧ ∀ g ∈ grps, (s.hearth g).holder = none

/-- These Hearths are held by the instance under a lease granted in this cycle (R164). -/
def Granted (s t : State) (grps : List Nat) : Prop :=
  ∀ g ∈ grps, (t.hearth g).holder = some s.cur.slot ∧ (t.hearth g).leaseGrps = grps ∧ (t.hearth g).runStart = s.cycle ∧ (t.hearth g).runCount = 0

/-- Loop `l` of the context's group is held by its instance as `r`. -/
def LoopHeld (s : State) (l : BitVec 8) (k : Nat) (r : RateLoop) : Prop :=
  k = s.cur.grp * 32 + l.toNat ∧ Tbl.get? s.rates k = some r ∧ r.owner = s.cur.slot

def State.setRate (s : State) (k : Nat) (r : RateLoop) : State := { s with rates := Tbl.set s.rates k r }

end Sys2Proof.Machine

/-- R168, R169: SWROUTE connects two endpoints by a free route of the group, or writes all ones when there is none; SWDROP frees an empty route that holds
no part of a unit. R163, R164: leases granted at once, held, refused, returned, and renewed at the end of a run that nobody waits for; no run ends for
a holder that Dortas is stopping or killing. -/
def Obligations.RoutesAndLeases : Prop :=
  ((∀ (o : RRR) (s : State) (sl : Slot), RRR_Ready o s → s.slotOf s.cur = some sl →
     let x := s.cur.getS o.a
     let y := s.cur.getS o.b
     let g := s.cur.grp
     let a : Endpoint := ⟨x.toNat % 2 ^ 8, x.toNat / 2 ^ 8 % 2 ^ 4⟩
     let b : Endpoint := ⟨y.toNat % 2 ^ 8, y.toNat / 2 ^ 8 % 2 ^ 4⟩
     x.toNat < 2 ^ 12 → y.toNat < 2 ^ 12 → (endpointDirs a).any (fun d => d.1) = true → (endpointDirs b).any (fun d => d.2) = true →
     sl.holdsEndpoint g a = true → sl.holdsEndpoint g b = true →
     ((s.routesOfGroup g).filter (fun r => r.2.src = a)).length < endpointLimit a →
     ((s.routesOfGroup g).filter (fun r => r.2.dst = b)).length < endpointLimit b →
     execSwroute.hbound s g a = false → execSwroute.hbound s g b = false →
     ((∃ r, r < 64 ∧ Tbl.get? s.routes (g * 64 + r) = none) → ∃ r, r < 64 ∧ Tbl.get? s.routes (g * 64 + r) = none ∧
       exec (.swroute o) s = .next (({ s with
         routes := Tbl.set s.routes (g * 64 + r) ⟨s.cur.slot, a, b, [], none, 0, none⟩, free := s.free + 1 } : State).regDone o.d (BitVec.ofNat 64 r))) ∧
     ((∀ r, r < 64 → Tbl.get? s.routes (g * 64 + r) ≠ none) →
       exec (.swroute o) s = .next (({ s with free := s.free + 1 } : State).regDone o.d (BitVec.allOnes 64)))) ∧
   (∀ (o : RA) (s : State) (r : Route), s.cur.isFull o.a = true →
     let x := (s.cur.getS o.a).toNat
     x < 64 → Tbl.get? s.routes (s.cur.grp * 64 + x) = some r → r.owner = s.cur.slot → r.entries = [] → r.partway = none →
     exec (.swdrop o) s = .next (s.freeRoute s.cur.grp x).goOn ∧
     (s.freeRoute s.cur.grp x).routes = Tbl.del s.routes (s.cur.grp * 64 + x) ∧
     (∀ q ∈ (s.freeRoute s.cur.grp x).rates, ¬(q.1 / 32 = s.cur.grp ∧ q.2.route = true ∧ q.2.src = x)))) ∧
  ((∀ (o : RA) (s : State) (grps : List Nat), s.cur.isFull o.a = true → LeaseNamed s (s.cur.getS o.a) grps → grps ≠ [] →
     (LeaseFree s grps → ∃ t, exec (.leaseAcq o) s = .next t ∧ Granted s t grps ∧ t.leaseQ = [] ∧ t.cur = s.cur.nextSeq) ∧
     (s.holdsLease s.cur.slot grps = true → exec (.leaseAcq o) s = .next s.goOn) ∧
     (s.leaseQ = [] → s.holdsLease s.cur.slot grps = true → (∀ g ∈ grps, g ∈ (s.hearth g).leaseGrps) →
       ∃ t, exec (.leaseRel o) s = .next t ∧ t.cur = s.cur.nextSeq ∧ ∀ g ∈ grps, (t.hearth g).holder = none) ∧
     (s.leaseQ = [] → (∀ g ∈ grps, (s.hearth g).holder ≠ some s.cur.slot) → exec (.leaseRel o) s = .next s.goOn)) ∧
   (∀ (o : RRD) (s : State) (grps : List Nat), Imm_Ready o.d o.a s → LeaseNamed s (s.cur.getS o.a) grps → grps ≠ [] →
     (LeaseFree s grps → ∃ t, exec (.leaseTry o) s = .next t ∧ Granted s t grps ∧ t.cur = (s.cur.putS o.d 1).nextSeq) ∧
     (s.holdsLease s.cur.slot grps = true → exec (.leaseTry o) s = .next (s.regDone o.d 1)) ∧
     ((∃ g ∈ grps, ∃ h, (s.hearth g).holder = some h ∧ h ≠ s.cur.slot) → exec (.leaseTry o) s = .next (s.regDone o.d 0))) ∧
   (∀ (g : Nat) (s : State) (slot : Nat), (s.hearth g).holder = some slot → s.leaseQ = [] → g ∈ (s.hearth g).leaseGrps →
     (64 ≤ (s.hearth g).runCount ∨ (s.hearth g).runStart + 95000 ≤ s.cycle → s.keepsLease slot = false →
       ∃ t, exec (.leaseRunEnd g) s = .next t ∧ (t.hearth g).holder = some slot ∧ (t.hearth g).runStart = s.cycle ∧ (t.hearth g).runCount = 0) ∧
     ((s.hearth g).runCount < 64 → s.cycle < (s.hearth g).runStart + 95000 → exec (.leaseRunEnd g) s = .next s) ∧
     (s.keepsLease slot = true → exec (.leaseRunEnd g) s = .next s)))

/-- R170, R171, R174: binding, unbinding, setting, holding and reading a Proofer loop. R172: the controller's computation at a period boundary, for a loop
that is not in HOLD and does not enter it. -/
def Obligations.Proofers : Prop :=
  ((∀ (o : ObjA) (s : State), s.cur.isFull o.a = true →
     let x := s.cur.getS o.a
     let k := s.cur.grp * 32 + o.t.toNat
     (∀ r, Tbl.get? s.rates k = some r → r.owner = s.cur.slot) →
     (x = 0x8000000000000000#64 → exec (.rateBind o) s = .next ({ s with rates := Tbl.del s.rates k } : State).goOn) ∧
     (Tbl.get? s.rates k = none → x.getLsbD 63 = false → x.toNat / 2 ^ 48 = 0 → x.toNat / 2 ^ 9 % 2 ^ 7 = 0 →
       let prod := x.toNat / 2 ^ 16 % 2 ^ 16
       let cons := x.toNat / 2 ^ 32 % 2 ^ 16
       s.liveCtx s.cur.slot prod = true → s.liveCtx s.cur.slot cons = true → prod ≠ cons →
       (x.getLsbD 8 = true → s.ownsRoute s.cur.slot s.cur.grp (x.toNat % 2 ^ 8) = true) → (x.getLsbD 8 = false → x.toNat % 2 ^ 8 < fieldN s.cur.wtro 40 32) →
       exec (.rateBind o) s = .next (s.setRate k ⟨s.cur.slot, s.cur.num, prod, cons, x.getLsbD 8,
         if x.getLsbD 8 then x.toNat % 2 ^ 8 else fieldN s.cur.wtro 15 0 + x.toNat % 2 ^ 8, false, 0, 0, 0, 16, 16, 0, false, false, none, [], 0, 0, false⟩).goOn)) ∧
   (∀ (o : ObjA) (s u : State) (k : Nat) (r : RateLoop) (bs : List Byte), s.cur.isFull o.a = true → LoopHeld s o.t k r →
     let p : BitVec 128 := BitVec.ofNat 128 (leNat bs)
     (s.cur.getS o.a).toNat % 16 = 0 → acquireLoad (s.cur.getS o.a) 16 .eng s = .ok (bs, u) → rateMalformed p (s.rateCap r s.cur.grp) = false →
     unstable (⟨r.prod, r.cons, p⟩ :: s.activeEdges s.cur.slot k) = none →
     exec (.rateSet o) s = .next (u.setRate k { r with
       set := true, param := p, i := 0, e := 0, pcnt := 0, hold := false, frozen := false, sign := none, history := []
       wp := p.toNat / 2 ^ 80 % 2 ^ 8, wc := p.toNat / 2 ^ 88 % 2 ^ 8, a := 0, z := 0, resuming := true }).goOn) ∧
   (∀ (o : ObjA) (s : State) (k : Nat) (r : RateLoop), s.cur.isFull o.a = true → LoopHeld s o.t k r →
     (s.cur.getS o.a = 1 → r.set = true → exec (.rateHold o) s = .next (s.setRate k { r with
       hold := true, i := 0, wp := r.param.toNat / 2 ^ 80 % 2 ^ 8, wc := r.param.toNat / 2 ^ 88 % 2 ^ 8 }).goOn) ∧
     (s.cur.getS o.a = 0 → exec (.rateHold o) s = .next (s.setRate k { r with hold := false, i := 0, sign := none, history := [] }).goOn)) ∧
   (∀ (o : ObjD) (s : State), s.cur.isFull o.d = true →
     (∀ k r, LoopHeld s o.t k r → exec (.rateRead o) s = .next (s.regDone o.d (BitVec.ofNat 64
       ((r.e % 2 ^ 24).toNat * 2 ^ 40 + (r.i % 2 ^ 16).toNat * 2 ^ 24 + r.wp % 2 ^ 8 * 2 ^ 16 + r.wc % 2 ^ 8 * 2 ^ 8 + r.pcnt % 2 ^ 4 * 2 ^ 4 +
         r.hold.toNat * 8 + r.frozen.toNat * 4 + r.set.toNat * 2 + 1)))) ∧
     (Tbl.get? s.rates (s.cur.grp * 32 + o.t.toNat) = none → exec (.rateRead o) s = .next (s.regDone o.d 0)))) ∧
  (∀ (g l : Nat) (s : State) (r : RateLoop), Tbl.get? s.rates (g * 32 + l) = some r → r.set = true → s.running r.owner = true → r.resuming = false →
     r.hold = false → Tbl.get? s.dortas.captures (s.vfOf r.owner) = none → Tbl.get? s.replays (s.vfOf r.owner) = none →
     let p : Nat := 256 * 2 ^ (r.param.toNat / 2 ^ 40 % 2 ^ 4)
     let f (lo n : Nat) : Int := (r.param.toNat / 2 ^ lo % 2 ^ n : Nat)
     s.cycle % p = r.param.toNat / 2 ^ 96 % 2 ^ 16 →
     let e : Int := 16 * r.a / p - f 47 17
     let i : Int := if r.z ≤ p / 2 then max (-(f 112 15)) (min (f 112 15) (r.i + e)) else r.i
     let u : Int := (if f 32 4 = 15 then 0 else e / 2 ^ (f 32 4).toNat) + (if f 36 4 = 15 then 0 else i / 2 ^ (f 36 4).toNat)
     (r.period).2 = false →
     ∃ t r', exec (.prooferPeriod g l) s = .next t ∧ t = s.setRate (g * 32 + l) r' ∧ r'.e = e ∧ r'.i = i ∧
       (r'.wp : Int) = max (f 64 8) (min (f 72 8) (f 80 8 - u)) ∧ (r'.wc : Int) = max (f 64 8) (min (f 72 8) (f 88 8 + u)) ∧
       r'.a = 0 ∧ r'.z = 0 ∧ r'.frozen = !decide (r.z ≤ p / 2) ∧ r'.pcnt = (r.pcnt + 1) % 16 ∧ r'.hold = false)

/-! ## Launch records, forks, halts, yields, checkpoints, counters (R17 to R21, R154 to R160, R178, R182, R183) -/

namespace Sys2Proof.Machine

/-- The launch record a selector names: region, its node, index (R178). -/
def LrecNamed (s : State) (i : Nat) (rcb : Nat) (n : RcbNode) : Prop :=
  ∃ sl, s.slotOf s.cur = some sl ∧ sl.rcbx = rcb ∧ Tbl.get? s.rcbs rcb = some n ∧ i < n.poolSize

/-- A halting context has nothing left to wait for (R154 step 2). -/
def OwnWorkDone (s : State) : Prop :=
  s.cur.pend = [] ∧ NothingOwed s .dev ∧ (s.cur.kind = .ce → s.cur.copyq = []) ∧ (s.cur.kind = .he → s.isQuiet (s.leadOf s.cur.engine) = true)

end Sys2Proof.Machine

/-- R21, R178: LPATCH, LARM and LQUERY of a record of the region's pool. -/
def Obligations.LaunchRecords : Prop :=
  (∀ (o : RRR) (s : State) (rcb : Nat) (n : RcbNode), RRR_Ready o s →
    let x := (s.cur.getS o.a).toNat
    let y := s.cur.getS o.b
    let f := x / 2 ^ 16
    LrecNamed s (x % 2 ^ 16) rcb n → f ≤ 6 → (f = 6 → y.toNat % 8 = 0) → NothingOwed s .dev →
    let r := n.lrec rcb (x % 2 ^ 16)
    let lo := if f = 6 then 256 else 320 + 64 * f
    (fieldN r 33 32 ≠ 0 → exec (.lpatch o) s = .next (s.regDone o.d 1)) ∧
    (fieldN r 33 32 = 0 → r.getLsbD (56 + f) = false → exec (.lpatch o) s = .next (s.regDone o.d 2)) ∧
    (fieldN r 33 32 = 0 → r.getLsbD (56 + f) = true →
      exec (.lpatch o) s = .next ((s.setLrec rcb (x % 2 ^ 16) (setField r (lo + 63) lo y.toNat)).regDone o.d 0))) ∧
  (∀ (o : RRD) (s : State) (rcb : Nat) (n : RcbNode), Imm_Ready o.d o.a s →
    let x := (s.cur.getS o.a).toNat
    x < 2 ^ 16 → LrecNamed s x rcb n → NothingOwed s .dev → Tbl.get? s.dortas.captures n.vf = none →
    Tbl.get? s.replays n.vf = none → Tbl.get? s.replays (s.vfOf s.cur.slot) = none →
    let r := n.lrec rcb x
    (fieldN r 33 32 ≠ 0 → exec (.larm o) s = .next (s.regDone o.d 1)) ∧
    (fieldN r 33 32 = 0 → s.overDemand rcb r ≠ none → exec (.larm o) s = .next (s.regDone o.d 3)) ∧
    (fieldN r 33 32 = 0 → s.overDemand rcb r = none →
      exec (.larm o) s = .next (({ s with rcbs := Tbl.set s.rcbs rcb { n with
        pool := Tbl.set n.pool x (setField (setField r 33 32 1) 15 0 ((fieldN r 15 0 + 1) % 2 ^ 16)), armedAt := Tbl.set n.armedAt x s.cycle
        condWait := Tbl.del n.condWait x } } : State).regDone o.d 0))) ∧
  (∀ (o : RRD) (s : State) (rcb : Nat) (n : RcbNode), Imm_Ready o.d o.a s →
    let x := (s.cur.getS o.a).toNat
    x < 2 ^ 16 → LrecNamed s x rcb n → NoAcquire s →
    exec (.lquery o) s = .next ((s.orderPoint s.cur true).regDone o.d ((n.lrec rcb x).extractLsb' 0 64)))

/-- R159, R29: FORK starts a child context with the state of a new context, its argument in s1 and a number that no live context has. R29: the registers a
context starts with, but for those its start sets. R154, R160, R28: ERET.HALT of a forked context makes its final arrival and joins; that of a control
context with no child left retires the instance, its completion record, if any, written first. -/
def Obligations.ForkAndHalt : Prop :=
  (∀ (o : RRR) (s : State) (sl : Slot) (k : Kind) (e g r n : Nat), RRR_Ready o s → s.slotOf s.cur = some sl → s.cur.phase ≠ .joined →
     let t := s.cur.getS o.a
     let desc := (s.cur.getS o.b).toNat
     desc / 2 ^ 24 = 0 → desc / 2 ^ 16 % 2 ^ 4 = 0 → desc / 2 ^ 3 % 2 ^ 5 = 0 →
     ((desc % 8 = 1 ∧ k = .ve ∧ nthSetBit sl.cmask (desc / 2 ^ 8 % 2 ^ 8) = some e) ∨ (desc % 8 = 2 ∧ k = .ce ∧ nthSetBit sl.emask (desc / 2 ^ 8 % 2 ^ 8) = some e) ∨
       (desc % 8 = 3 ∧ k = .he ∧ nthSetBit sl.hmask (desc / 2 ^ 8 % 2 ^ 8) = some e)) →
     t.toNat % 4 = 0 → s.fetch s.cur.slot k t ≠ none → RdvNamed s (BitVec.ofNat 8 (desc / 2 ^ 20 % 2 ^ 4)) g r →
     (k = .he → (s.hearth e).holder = some s.cur.slot) → (s.rdv g r).exp ≠ 65535 → s.forkRoom s.cur.slot k e = true → s.freeNum s.cur.slot = some n →
     NothingOwed s .dev → RdvTurn s (s.rdv g r) →
     let p := s.rdv g r
     let child : Context := { Context.blank with
       slot := s.cur.slot, num := n, kind := k, engine := e, engSlot := s.freeEngSlot k e, phase := .ready, pc := t
       s := Context.blank.s.set 1 (s.cur.getS o.d), wtro := s.cur.wtro, wtok := s.cur.wtok, wrdv := s.cur.wrdv, jrdv := r, lastIssue := s.cycle }
     exec (.fork o) s =
       .next ((({ s.rdvSet g r { p with exp := p.exp + 1 } with parked := s.parked ++ [child] } : State).orderPoint child true).regDone o.d (BitVec.ofNat 64 n)) ∧
     1 ≤ n ∧ (∀ c ∈ s.ctxsOf s.cur.slot, c.num ≠ n) ∧ (∀ m, 1 ≤ m → m < n → ∃ c ∈ s.ctxsOf s.cur.slot, c.num = m)) ∧
  (let c := Context.blank
   (∀ n, c.getS n = 0 ∧ c.isFull n = true) ∧ (∀ n : BitVec 5, n.toNat < 8 → c.getP n = decide (n = 0)) ∧ c.loops = [] ∧ c.fcsr = 0x9E3779B900000000 ∧
   (∀ n : Fin 8, c.a[n] = 0 ∧ c.am[n] = 0 ∧ c.cb[n] = 0 ∧ c.m[n] = 0) ∧ (∀ n : Fin 16, c.v[n] = 0) ∧ (∀ n : Fin 4, c.qb[n] = 0) ∧ c.vshape = 0x2810 ∧
   c.epc = 0 ∧ c.ecause = 0 ∧ c.eval = 0 ∧ c.tvec = 0 ∧ c.hd = false ∧ c.wdog = 4096) ∧
  ((∀ (o : RA) (s : State), s.cur.hd = false → s.cur.isFull o.a = true → OwnWorkDone s → s.cur.num ≠ 0 →
     RdvTurn s (s.rdv (s.homeGrp s.cur.slot) s.cur.jrdv) →
     ∃ t, exec (.eretHalt o) s = .next t ∧ t.cur = { s.cur with phase := .joined } ∧
       t.rdvs = (s.rdvSet (s.homeGrp s.cur.slot) s.cur.jrdv
         { s.rdv (s.homeGrp s.cur.slot) s.cur.jrdv with exp := (s.rdv (s.homeGrp s.cur.slot) s.cur.jrdv).exp - 1 }).rdvs ∧
       t.rates = s.rates.filter (fun x => !(x.2.owner = s.cur.slot && (x.2.prod = s.cur.num || x.2.cons = s.cur.num))) ∧ t.parked = s.parked ∧ t.mem = s.mem) ∧
   (∀ (o : RA) (s : State) (x : Slot) (n : RcbNode), s.cur.hd = false → s.cur.isFull o.a = true → OwnWorkDone s → s.cur.num = 0 →
     s.children s.cur.slot = false → Tbl.get? s.slots s.cur.slot = some x → x.vacant = false → Tbl.get? s.rcbs x.rcbx = some n → lrCompl (n.lrec x.rcbx x.lrec) = 0 →
     s.sitLeft s.cur.slot = false → s.routes = [] → s.hearths = [] → s.leaseQ = [] → (s.slots.map Prod.fst).Nodup →
     ∃ t, exec (.eretHalt o) s = .next t ∧ Tbl.get? t.slots s.cur.slot = none ∧ (∀ c ∈ t.parked, c.slot ≠ s.cur.slot) ∧
       (∀ q ∈ t.troughs, q.2.owner ≠ s.cur.slot) ∧ (∀ q ∈ t.rates, q.2.owner ≠ s.cur.slot) ∧ (∀ q ∈ t.steps, q.2.slot ≠ s.cur.slot)) ∧
   (∀ (o : RA) (s : State), s.cur.hd = true → exec (.eretHalt o) s = .next (s.takeFault s.cur.ref ⟨0x01, 6, 0, false⟩ s.cur.pc)))

/-- R157, R182: YIELD makes its offer to Dortas and waits for the answer; CHKPT records the boundary, or writes 1 without an undo budget. R183: ASSAYR
reads the calling VF's counter; a selector above 10 raises RESERVED_FIELD. -/
def Obligations.YieldCheckpointAssay : Prop :=
  ((∀ (s : State) (x : Slot), s.cur.kind = .cc → s.cur.hd = false → s.children s.cur.slot = false → s.cur.pend = [] → NothingOwed s .dev →
     Tbl.get? s.slots s.cur.slot = some x → s.cur.yielding = false →
     exec .yield s = .next (({ s with slots := Tbl.set s.slots s.cur.slot { x with offer := some s.cycle } } : State).setCur (fun c => { c with
       yielding := true, phase := .waiting, wait := some ⟨.yieldReply, s.cycle, c.wdog.toNat * 1024⟩ }))) ∧
   (∀ (s : State), s.cur.kind ≠ .cc → exec .yield s = .next (s.takeFault s.cur.ref ⟨0x03, 0, 0, false⟩ s.cur.pc)) ∧
   (∀ (d : BitVec 5) (s : State) (x : Slot), s.cur.isFull d = true → s.children s.cur.slot = false → s.cur.pend = [] → NothingOwed s .dev →
     s.steps.any (fun c => c.2.slot = s.cur.slot && c.2.status.isNone) = false → Tbl.get? s.slots s.cur.slot = some x →
     (s.eff x.rcbx .undob = 0 → exec (.chkpt d) s = .next (s.regDone d 1)) ∧
     (s.eff x.rcbx .undob ≠ 0 → exec (.chkpt d) s = .next (({ s with
       slots := Tbl.set s.slots s.cur.slot { x with ckpt := some ⟨s.cur.pc + 4, s.cur.s, s.cur.p, s.cur.loops, s.cur.hd, s.cur.fcsr, s.cur.epc, s.cur.tvec,
         s.cur.wdog, d, true, 0⟩ }
       undo := s.undo.filter (fun u => decide (u.slot ≠ s.cur.slot)) } : State).regDone d 0)))) ∧
  (∀ (o : RRD) (s : State), Imm_Ready o.d o.a s → Tbl.get? s.replays (s.vfOf s.cur.slot) = none →
     let x := (s.cur.getS o.a).toNat
     let v := s.vfOf s.cur.slot
     (10 < x → exec (.assayr o) s = .next (s.takeFault s.cur.ref ⟨0x02, 0, s.cur.getS o.a, false⟩ s.cur.pc)) ∧
     (x < 10 → Tbl.get? s.dortas.captures v = none → exec (.assayr o) s = .next (s.lateDone o.d 3 8 (BitVec.ofNat 64 ((s.assayOf v).ctr.getD x 0)))) ∧
     (x = 10 → Tbl.get? s.dortas.captures v = none → exec (.assayr o) s = .next (s.lateDone o.d 3 8 (BitVec.ofNat 64 (s.assayOf v).energy))))

/-! ## Number formats and rounding (R102 to R119, R189, R191) -/

namespace Sys2Proof.Machine

/-- The rational number a finite value is; a `num` with mantissa 0 is no value. -/
def FVal.rat : FVal → Option ℚ
  | .nan _ => none
  | .inf _ => none
  | .zero _ => some 0
  | .num m e => if m = 0 then none else some ((m : ℚ) * (2 : ℚ) ^ e)

end Sys2Proof.Machine

/-- R106: how x = m × 2^e becomes a count of 2^q in each rounding mode, and when that is inexact. R102 to R104, R119: an encoding that is no NaN survives
a decode and an exact encode in every mode without a flag, and every NaN becomes the canonical one, with NV if it is signalling. R189, R104, R119,
R124: the exact results before rounding: sums, products and fused forms of finite operands, the order, and the special operands. R191: the special
operands of the six special functions. -/
def Obligations.RoundingAndArithmetic : Prop :=
  (∀ (m e q : Int) (d : BitVec 32),
     let x : ℚ := (m : ℚ) * (2 : ℚ) ^ e / (2 : ℚ) ^ q
     let y (mode : Nat) : Int := (roundAt m e q mode d).1
     (∀ mode, mode ≤ 5 → (roundAt m e q mode d).2 = decide ((⌊x⌋ : ℚ) ≠ x) ∧ (((y mode : Int) : ℚ) = x ∨ y mode = ⌊x⌋ ∨ y mode = ⌊x⌋ + 1)) ∧
     |((y 0 : Int) : ℚ) - x| ≤ 1 / 2 ∧ (|((y 0 : Int) : ℚ) - x| = 1 / 2 → y 0 % 2 = 0) ∧
     |((y 4 : Int) : ℚ) - x| ≤ 1 / 2 ∧ (|((y 4 : Int) : ℚ) - x| = 1 / 2 → |x| ≤ |((y 4 : Int) : ℚ)|) ∧
     |((y 1 : Int) : ℚ)| ≤ |x| ∧ y 2 = ⌊x⌋ ∧ y 3 = ⌈x⌉ ∧
     (y 5 = if (d.toNat : ℚ) / 2 ^ 32 < x - ⌊x⌋ then ⌊x⌋ + 1 else ⌊x⌋)) ∧
  (∀ (f : Fmt) (b : Nat) (sat : Bool) (r : REnv), f ∈ [Fmt.f32, .bf16, .f16, .fE4M3, .fE5M2] → b < 2 ^ f.width →
     (∀ q, f.decode b ≠ .inf q) →
     ((f.decode b).isNan = false → roundFmt f sat (f.decode b) r = (b, r.draw)) ∧
     ((f.decode b).isNan = true → roundFmt f sat (f.decode b) r = (f.nan, { r.draw with flags := r.flags ||| (f.decode b).sigFlag }))) ∧
  ((∀ (mode : Nat) (a b c : FVal) (x y z : ℚ), a.rat = some x → b.rat = some y → c.rat = some z →
     (fAdd mode a b).1.rat = some (x + y) ∧ (fAdd mode a b).2 = 0 ∧ (fMul a b).1.rat = some (x * y) ∧ (fMul a b).2 = 0 ∧
     (fFma mode a b c).1.rat = some (x * y + z) ∧ (fFma mode a b c).2 = 0 ∧ a.neg.rat = some (-x) ∧
     fCmp a b = some (if x < y then .lt else if y < x then .gt else .eq)) ∧
   (∀ (mode : Nat) (a : FVal) (n n' : Bool) (q : Bool),
     fAdd mode (.inf n) (.inf n') = (if n = n' then (.inf n, 0) else (.nan false, 16)) ∧
     fMul (.inf n) (.zero n') = (.nan false, 16) ∧ fMul (.zero n) (.inf n') = (.nan false, 16) ∧
     (fAdd mode a (.nan q)).1 = .nan false ∧ (fAdd mode (.nan q) a).1 = .nan false ∧ (fMul a (.nan q)).1 = .nan false ∧ (fMul (.nan q) a).1 = .nan false ∧
     fAdd mode (.zero n) (.zero n') = (.zero (if n = n' then n else decide (mode = 2)), 0) ∧
     fCmp a (.nan q) = none ∧ fCmp (.nan q) a = none)) ∧
  (let row (f : FVal → FVal × Flags) : List (FVal × Flags) := [f (.zero false), f (.zero true), f (.inf false), f (.inf true), f (.nan false)]
   let one : FVal := .num 1 0
   let nan : FVal := .nan false
   row fExp2 = [(one, 0), (one, 0), (.inf false, 0), (.zero false, 0), (nan, 0)] ∧
   row fLog2 = [(.inf true, 8), (.inf true, 8), (.inf false, 0), (nan, 16), (nan, 0)] ∧
   row fRcp = [(.inf false, 8), (.inf true, 8), (.zero false, 0), (.zero true, 0), (nan, 0)] ∧
   row fRsqrt = [(.inf false, 8), (.inf true, 8), (.zero false, 0), (nan, 16), (nan, 0)] ∧
   row fTanh = [(.zero false, 0), (.zero true, 0), (one, 0), (.num (-1) 0, 0), (nan, 0)] ∧
   row fSigm = [(.num 1 (-1), 0), (.num 1 (-1), 0), (one, 0), (.zero false, 0), (nan, 0)] ∧
   (∀ (m e : Int), m < 0 → fLog2 (.num m e) = (nan, 16) ∧ fRsqrt (.num m e) = (nan, 16)) ∧
   (∀ (k : Nat) (e : Int), fLog2 (.num (2 ^ k) e) = (FVal.ofDyadic (e + k) 0, 0)) ∧
   (∀ f ∈ [fExp2, fLog2, fRcp, fRsqrt, fTanh, fSigm], f (.nan true) = (nan, 16)))

/-! ## Vector instructions (R184 to R213) -/

namespace Sys2Proof.Machine

/-- No result is outstanding for these tiles and masks (R186). -/
def TilesFree (s : State) (ds : List Dest) : Prop := ∀ d ∈ ds, ∀ q ∈ s.cur.pend, q.dst ≠ d

/-- The shape has elements of w bytes and fits the tile (R42, R67), and the tiles and the mask named are not busy (R186). -/
def ElemReady (s : State) (w : Nat) (msk : BitVec 4) (ds : List Dest) : Prop :=
  s.cur.shape.w = w ∧ 1 ≤ s.cur.shape.cols ∧ s.cur.shape.size * w ≤ 2048 ∧ TilesFree s (ds ++ maskUse msk)

/-- A tile or mask written at issue and busy under a latency class, then the next word (R80, R186). -/
def State.busyDone (s : State) (d : Dest) (cls own : Nat) (f : Context → Context) : State :=
  { (s.setCur (fun c => ({ f c with pend := (f c).pend ++ [⟨s.nextId, d, s.cycle + s.latency cls own, .held, none⟩] } : Context).nextSeq)) with
    nextId := s.nextId + 1 }

/-- What the writing loop of R184 leaves in tile vd: `val k` at the active positions, inactive ones kept or zero under MZ, no bit outside the shape. -/
def ElemResult (s : State) (w : Nat) (msk : BitVec 4) (mz : Bool) (vd : BitVec 4) (t : Tile) (val : Nat → Nat) : Prop :=
  (∀ k, k < s.cur.shape.size →
    elemAt t w k = if s.cur.active msk k = true then val k % 2 ^ (8 * w) else if mz then 0 else elemAt (s.cur.tile vd) w k) ∧
  (∀ b, 8 * w * s.cur.shape.size ≤ b → t.getLsbD b = (s.cur.tile vd).getLsbD b)

/-- The rounding mode, and the stochastic state after j draws (R106, R107). -/
def State.rmode (s : State) : Nat := s.cur.fcsr.toNat % 8
def State.seedAt (s : State) (j : Nat) : BitVec 32 := if s.rmode = 5 then nextSeed^[j] (s.cur.fcsr.extractLsb' 32 32) else s.cur.fcsr.extractLsb' 32 32
/-- The rounding environment of active position k: the draws of the active positions before it are taken. -/
def State.envAt (s : State) (msk : BitVec 4) (k : Nat) : REnv := ⟨s.rmode, s.seedAt ((s.cur.actives msk).filter (fun j => decide (j < k))).length, 0⟩
/-- The flags of the active positions together (R127). -/
def State.orFlags (s : State) (msk : BitVec 4) (g : Nat → Flags) : Flags := (s.cur.actives msk).foldl (fun a k => a ||| g k) 0
/-- fcsr after so many draws and these flags (R41). -/
def State.fcsrAfter (s : State) (draws : Nat) (fl : Flags) : Word := putEnv s.cur.fcsr ⟨s.rmode, s.seedAt draws, fl⟩

/-- The signed number of a pattern of so many bits. -/
def signedOf (bits v : Nat) : Int := if v < 2 ^ (bits - 1) then (v : Int) else (v : Int) - 2 ^ bits

end Sys2Proof.Machine

/-- R189, R184, R107, R127: the rounded element operations and special functions: each active element is the exact result rounded once with its own draw,
fcsr takes the flags of all of them and the draws. R119, R190, R192, R194, R201: the element operations that round nothing. -/
def Obligations.VectorElements : Prop :=
  ((∀ (o : VV) (s : State), ElemReady s (floatW o.ty) o.msk [.tile o.vd, .tile o.va, .tile o.vb] →
     let f := fmtOfTy o.ty.toNat
     let a (k : Nat) : FVal := f.decode (elemAt (s.cur.tile o.va) (floatW o.ty) k)
     let b (k : Nat) : FVal := f.decode (elemAt (s.cur.tile o.vb) (floatW o.ty) k)
     let d (k : Nat) : FVal := f.decode (elemAt (s.cur.tile o.vd) (floatW o.ty) k)
     let m := s.rmode
     ∀ x ∈ [(Instr.vadd o, fun k => fAdd m (a k) (b k)), (.vsub o, fun k => fAdd m (a k) (b k).neg), (.vmul o, fun k => fMul (a k) (b k)),
       (.vfma o, fun k => fFma m (a k) (b k) (d k)), (.vfms o, fun k => fFma m (a k) (b k) (d k).neg), (.vfnma o, fun k => fFma m (a k).neg (b k) (d k))],
     ∃ t : Tile,
       exec x.1 s = .next (s.busyDone (.tile o.vd) 4 4 (fun c => { c.setTile o.vd t with
         fcsr := s.fcsrAfter (s.cur.actives o.msk).length (s.orFlags o.msk (fun k => (roundElem f (x.2 k) (s.envAt o.msk k)).2.flags)) })) ∧
       ElemResult s (floatW o.ty) o.msk o.mz o.vd t (fun k => (roundElem f (x.2 k) (s.envAt o.msk k)).1)) ∧
   (∀ (o : VU) (s : State), ElemReady s (floatW o.ty) o.msk [.tile o.vd, .tile o.va] →
     let f := fmtOfTy o.ty.toNat
     let a (k : Nat) : FVal := f.decode (elemAt (s.cur.tile o.va) (floatW o.ty) k)
     ∀ x ∈ [(Instr.vexp2 o, fExp2), (.vlog2 o, fLog2), (.vrcp o, fRcp), (.vrsqrt o, fRsqrt), (.vtanh o, fTanh), (.vsigm o, fSigm)],
     ∃ t : Tile,
       exec x.1 s = .next (s.busyDone (.tile o.vd) 6 12 (fun c => { c.setTile o.vd t with
         fcsr := s.fcsrAfter (s.cur.actives o.msk).length (s.orFlags o.msk (fun k => (roundElem f (x.2 (a k)) (s.envAt o.msk k)).2.flags)) })) ∧
       ElemResult s (floatW o.ty) o.msk o.mz o.vd t (fun k => (roundElem f (x.2 (a k)) (s.envAt o.msk k)).1))) ∧
  ((∀ (o : VV) (s : State), ElemReady s (floatW o.ty) o.msk [.tile o.vd, .tile o.va, .tile o.vb] →
     let f := fmtOfTy o.ty.toNat
     let x (k : Nat) : Nat := elemAt (s.cur.tile o.va) (floatW o.ty) k
     let y (k : Nat) : Nat := elemAt (s.cur.tile o.vb) (floatW o.ty) k
     ∀ q ∈ [(Instr.vmin o, false, false), (.vmax o, true, false), (.vminp o, false, true), (.vmaxp o, true, true)],
     ∃ t : Tile,
       exec q.1 s = .next (s.busyDone (.tile o.vd) 4 4 (fun c => { c.setTile o.vd t with
         fcsr := s.fcsrAfter 0 (s.orFlags o.msk (fun k => (f.decode (x k)).sigFlag ||| (f.decode (y k)).sigFlag)) })) ∧
       ElemResult s (floatW o.ty) o.msk o.mz o.vd t (fun k =>
         let a := f.decode (x k)
         let b := f.decode (y k)
         if a.isNan = true ∧ (b.isNan = true ∨ q.2.2 = true) then f.nan
         else if a.isNan = true then y k
         else if b.isNan = true then (if q.2.2 = true then f.nan else x k)
         else if q.2.1 = true then (if fBelow a b = true then y k else x k)
         else (if fBelow b a = true then y k else x k))) ∧
   (∀ (o : VU) (s : State), ElemReady s (floatW o.ty) o.msk [.tile o.vd, .tile o.va] →
     let w := floatW o.ty
     let sign := 2 ^ (8 * w - 1)
     ∀ q ∈ [(Instr.vabs o, fun x => x % sign), (.vneg o, fun x => if x < sign then x + sign else x - sign)],
     ∃ t : Tile, exec q.1 s = .next (s.busyDone (.tile o.vd) 4 4 (fun c => c.setTile o.vd t)) ∧
       ElemResult s w o.msk o.mz o.vd t (fun k => q.2 (elemAt (s.cur.tile o.va) w k))) ∧
   (∀ (o : VV) (s : State), ElemReady s (intW o.ty) o.msk [.tile o.vd, .tile o.va, .tile o.vb] →
     let w := intW o.ty
     let n := 8 * w
     ∀ q ∈ [(Instr.viadd o, fun x y => x + y), (.visub o, fun x y => x + (2 ^ n - y)), (.vimul o, fun x y => x * y), (.vand o, Nat.land), (.vor o, Nat.lor),
       (.vxor o, Nat.xor), (.vshl o, fun x y => x * 2 ^ (y % n)), (.vshr o, fun x y => x / 2 ^ (y % n)),
       (.vsra o, fun x y => (signedOf n x / 2 ^ (y % n) % 2 ^ n).toNat)],
     ∃ t : Tile, exec q.1 s = .next (s.busyDone (.tile o.vd) 5 2 (fun c => c.setTile o.vd t)) ∧
       ElemResult s w o.msk o.mz o.vd t (fun k => q.2 (elemAt (s.cur.tile o.va) w k) (elemAt (s.cur.tile o.vb) w k))) ∧
   (∀ (o : VVnz) (s : State), ElemReady s (floatW o.ty) o.msk [.tile o.vd, .tile o.va, .tile o.vb] →
     ∃ t : Tile, exec (.vsel o) s = .next (s.busyDone (.tile o.vd) 5 2 (fun c => c.setTile o.vd t)) ∧
       ElemResult s (floatW o.ty) 0 false o.vd t (fun k =>
         elemAt (s.cur.tile (if s.cur.active o.msk k = true then o.va else o.vb)) (floatW o.ty) k)) ∧
   (∀ (o : VDst) (s : State), ElemReady s (intW o.ty) o.msk [.tile o.vd] →
     ∃ t : Tile, exec (.viota o) s = .next (s.busyDone (.tile o.vd) 5 2 (fun c => c.setTile o.vd t)) ∧
       ElemResult s (intW o.ty) o.msk o.mz o.vd t (fun k => k)) ∧
   (∀ (o : VS) (s : State), s.cur.isFull o.sb = true → ElemReady s (floatW o.ty) o.msk [.tile o.vd, .tile o.va] →
     let cols := s.cur.shape.cols
     ∃ t : Tile, exec (.vrot o) s = .next (s.busyDone (.tile o.vd) 5 2 (fun c => c.setTile o.vd t)) ∧
       ElemResult s (floatW o.ty) o.msk o.mz o.vd t (fun k =>
         elemAt (s.cur.tile o.va) (floatW o.ty) (k / cols * cols + ((((k % cols : Nat) : Int) - (s.cur.getS o.sb).toInt % cols) % cols).toNat))) ∧
   (∀ (o : VS) (s : State), o.va = 0 → s.cur.isFull o.sb = true → ElemReady s (floatW o.ty) o.msk [.tile o.vd] →
     ∃ t : Tile, exec (.vbcast o) s = .next (s.busyDone (.tile o.vd) 5 2 (fun c => c.setTile o.vd t)) ∧
       ElemResult s (floatW o.ty) o.msk o.mz o.vd t (fun _ => (s.cur.getS o.sb).toNat)) ∧
   (∀ (o : VU) (s : State), ElemReady s (floatW o.ty) o.msk [.tile o.vd, .tile o.va] →
     let h := s.cur.shape
     let sq (k : Nat) : Prop := k / h.cols < min h.rows h.cols ∧ k % h.cols < min h.rows h.cols
     ∃ t : Tile, exec (.vtrn o) s = .next (s.busyDone (.tile o.vd) 5 2 (fun c => c.setTile o.vd t)) ∧
       (∀ k, k < h.size → sq k → elemAt t (floatW o.ty) k =
         if s.cur.active o.msk k = true then elemAt (s.cur.tile o.va) (floatW o.ty) (k % h.cols * h.cols + k / h.cols)
         else if o.mz then 0 else elemAt (s.cur.tile o.vd) (floatW o.ty) k) ∧
       (∀ k, k < h.size → ¬ sq k → elemAt t (floatW o.ty) k = elemAt (s.cur.tile o.vd) (floatW o.ty) k)))

namespace Sys2Proof.Machine

/-- R124, without stochastic rounding: the elements of a line added one after another, each sum rounded. -/
def lineSum (f : Fmt) (mode : Nat) : List FVal → FVal
  | [] => .zero false
  | x :: rest => rest.foldl (fun acc y => f.decode (roundElem f (fAdd mode acc y) ⟨mode, 0, 0⟩).1) x

/-- The maximum or minimum of a line, a NaN for an empty one (R196). -/
def lineBest (isMax : Bool) : List FVal → FVal
  | [] => .nan false
  | x :: rest => rest.foldl (fun acc y => (fMinMax isMax false acc y).1) x

/-- A tile written and a count outstanding for a scalar register, then the next word (R199, R200). -/
def State.countDone (s : State) (vd : BitVec 4) (t : Tile) (n : BitVec 5) (k : Nat) : State :=
  let at_ := s.cycle + s.latency 8 6
  if n = 0 then s.busyDone (.tile vd) 8 6 (fun c => c.setTile vd t)
  else { (s.setCur (fun c => (({ c.setTile vd t with
    pend := c.pend ++ [⟨s.nextId, .tile vd, at_, .held, none⟩, ⟨s.nextId + 1, .s n, at_, .value (BitVec.ofNat 64 k), none⟩] } : Context).empty n).nextSeq)) with
    nextId := s.nextId + 2 }

end Sys2Proof.Machine

/-- R193, R194, R195, R203: comparisons into masks, mask logic, the count of a mask and the move of an element to a scalar register. R196, R199, R200:
reductions, compression and expansion. -/
def Obligations.MasksAndReductions : Prop :=
  ((∀ (o : VV) (s : State),
     let md : BitVec 3 := o.vd.setWidth 3
     let bits (m : Mask) (g : Nat → Bool) : Prop :=
       (∀ k, k < s.cur.shape.size → m.getLsbD (128 * (k / s.cur.shape.cols) + k % s.cur.shape.cols) =
         if s.cur.active o.msk k = true then g k
         else if o.mz then false else (s.cur.mask md).getLsbD (128 * (k / s.cur.shape.cols) + k % s.cur.shape.cols)) ∧
       (∀ b, (∀ k, k < s.cur.shape.size → b ≠ 128 * (k / s.cur.shape.cols) + k % s.cur.shape.cols) → m.getLsbD b = (s.cur.mask md).getLsbD b)
     s.cur.shape.rows ≤ 16 → s.cur.shape.cols ≤ 128 →
     (ElemReady s (floatW o.ty) o.msk [.mask md, .tile o.va, .tile o.vb] →
       let f := fmtOfTy o.ty.toNat
       let a (k : Nat) : FVal := f.decode (elemAt (s.cur.tile o.va) (floatW o.ty) k)
       let b (k : Nat) : FVal := f.decode (elemAt (s.cur.tile o.vb) (floatW o.ty) k)
       let nan (k : Nat) : Bool := (a k).isNan || (b k).isNan
       let sig (k : Nat) : Flags := (a k).sigFlag ||| (b k).sigFlag
       let c (k : Nat) (l : List Ordering) : Bool := (fCmp (a k) (b k)).any (fun q => decide (q ∈ l))
       let nv (k : Nat) : Flags := if nan k then 16 else 0
       ∀ x ∈ [(Instr.vcmpEq o, (fun k => c k [.eq]), sig), (.vcmpNe o, (fun k => !c k [.eq]), sig), (.vcmpLt o, (fun k => c k [.lt]), nv),
         (.vcmpLe o, (fun k => c k [.lt, .eq]), nv), (.vcmpGt o, (fun k => c k [.gt]), nv), (.vcmpGe o, (fun k => c k [.gt, .eq]), nv)],
       ∃ m : Mask, exec x.1 s = .next (s.busyDone (.mask md) 4 4 (fun c => { c.setMask md m with fcsr := s.fcsrAfter 0 (s.orFlags o.msk x.2.2) })) ∧
         bits m x.2.1) ∧
     (ElemReady s (intW o.ty) o.msk [.mask md, .tile o.va, .tile o.vb] →
       let v (n : Nat) : Int := if o.ty.toNat < 4 then signedOf (8 * intW o.ty) n else n
       let a (k : Nat) : Int := v (elemAt (s.cur.tile o.va) (intW o.ty) k)
       let b (k : Nat) : Int := v (elemAt (s.cur.tile o.vb) (intW o.ty) k)
       ∀ x ∈ [(Instr.vcmpEqInt o, fun k => decide (a k = b k)), (.vcmpNeInt o, fun k => decide (a k ≠ b k)), (.vcmpLtInt o, fun k => decide (a k < b k)),
         (.vcmpLeInt o, fun k => decide (a k ≤ b k)), (.vcmpGtInt o, fun k => decide (b k < a k)), (.vcmpGeInt o, fun k => decide (b k ≤ a k))],
       ∃ m : Mask, exec x.1 s = .next (s.busyDone (.mask md) 5 2 (fun c => c.setMask md m)) ∧ bits m x.2)) ∧
   (∀ (o : VMask) (s : State),
     let md : BitVec 3 := o.vd.setWidth 3
     let x := s.cur.mask (o.va.setWidth 3)
     let y := s.cur.mask (o.vb.setWidth 3)
     TilesFree s [.mask md, .mask (o.va.setWidth 3), .mask (o.vb.setWidth 3)] →
     exec (.mlogAnd o) s = .next (s.busyDone (.mask md) 5 2 (fun c => c.setMask md (x &&& y))) ∧
     exec (.mlogOr o) s = .next (s.busyDone (.mask md) 5 2 (fun c => c.setMask md (x ||| y))) ∧
     exec (.mlogXor o) s = .next (s.busyDone (.mask md) 5 2 (fun c => c.setMask md (x ^^^ y))) ∧
     exec (.mlogAndn o) s = .next (s.busyDone (.mask md) 5 2 (fun c => c.setMask md (x &&& ~~~y)))) ∧
   (∀ (o : VMpop) (s : State), s.cur.isFull o.sb = true → TilesFree s [.mask o.m] →
     exec (.mpop o) s = .next (s.lateDone o.sb 5 2 (BitVec.ofNat 64 (((List.range s.cur.shape.size).filter
       (fun k => (s.cur.mask o.m).getLsbD (128 * (k / s.cur.shape.cols) + k % s.cur.shape.cols))).length)))) ∧
   (∀ (o : VMov) (s : State), s.cur.isFull o.sb = true → s.cur.shape.w = intW o.ty → TilesFree s [.tile o.vt] →
     let v := elemAt (s.cur.tile o.vt) (intW o.ty) o.n.toNat
     (o.n.toNat < s.cur.shape.size → exec (.vmovs o) s = .next (s.lateDone o.sb 5 2
       (if o.ty.toNat < 4 then BitVec.ofInt 64 (signedOf (8 * intW o.ty) v) else BitVec.ofNat 64 v))) ∧
     (s.cur.shape.size ≤ o.n.toNat → exec (.vmovs o) s = .next (s.takeFault s.cur.ref ⟨0x01, 11, 0, false⟩ s.cur.pc)))) ∧
  ((∀ (o : VU) (s : State), ElemReady s (floatW o.ty) o.msk [.tile o.vd, .tile o.va] →
     let f := fmtOfTy o.ty.toNat
     let w := floatW o.ty
     let h := s.cur.shape
     let line (col : Bool) (j : Nat) : List FVal :=
       ((s.cur.actives o.msk).filter (fun k => decide ((if col then k % h.cols else k / h.cols) = j))).map (fun k => f.decode (elemAt (s.cur.tile o.va) w k))
     ∀ x ∈ [(Instr.vrsum o, false, lineSum f s.rmode), (.vcsum o, true, lineSum f s.rmode), (.vrmax o, false, lineBest true), (.vrmin o, false, lineBest false)],
     ∃ (t : Tile) (fcsr : Word), exec x.1 s = .next (s.busyDone (.tile o.vd) 7 10 (fun c => { c.setTile o.vd t with fcsr := fcsr })) ∧
       (∀ k, k < h.size → ¬(if x.2.1 = true then k < h.cols else k % h.cols = 0) → elemAt t w k = if o.mz then 0 else elemAt (s.cur.tile o.vd) w k) ∧
       (∀ k, k < h.size → (if x.2.1 = true then k < h.cols else k % h.cols = 0) → s.rmode ≤ 4 →
         elemAt t w k = (roundFmt f false (x.2.2 (line x.2.1 (if x.2.1 = true then k else k / h.cols))) rneEnv).1) ∧
       (∀ b, 8 * w * h.size ≤ b → t.getLsbD b = (s.cur.tile o.vd).getLsbD b)) ∧
   (∀ (o : VVnz) (s : State), s.cur.isFull (o.vb.setWidth 5) = true → ElemReady s (floatW o.ty) o.msk [.tile o.vd, .tile o.va] →
     let w := floatW o.ty
     let acts := s.cur.actives o.msk
     ∃ t : Tile, exec (.vcompress o) s = .next (s.countDone o.vd t (o.vb.setWidth 5) acts.length) ∧
       ElemResult s w 0 false o.vd t (fun k => match acts[k]? with | some j => elemAt (s.cur.tile o.va) w j | none => 0)) ∧
   (∀ (o : VV) (s : State), s.cur.isFull (o.vb.setWidth 5) = true → ElemReady s (floatW o.ty) o.msk [.tile o.vd, .tile o.va] →
     let w := floatW o.ty
     let acts := s.cur.actives o.msk
     ∃ t : Tile, exec (.vexpand o) s = .next (s.countDone o.vd t (o.vb.setWidth 5) acts.length) ∧
       ElemResult s w o.msk o.mz o.vd t (fun k => elemAt (s.cur.tile o.va) w (acts.filter (fun j => decide (j < k))).length)))

/-- R197, R198, R109 to R111: conversions between types, and quantisation to a block grid. R114: the shared exponent of a block of finite values is the
least that holds them all, or 253, and each mantissa is its value rounded and clipped. -/
def Obligations.ConversionsAndBlocks : Prop :=
  ((∀ (o : VV) (s : State) (sat : Bool) (i : Instr), (i = .vcvt o ∧ sat = false) ∨ (i = .vcvtSat o ∧ sat = true) →
     s.cur.shape.w = max (srcW o.vb) (floatW o.ty) → s.cur.shape.size * max (srcW o.vb) (floatW o.ty) ≤ 2048 →
     TilesFree s ([.tile o.vd, .tile o.va] ++ maskUse o.msk) →
     let f := fmtOfTy o.ty.toNat
     let x (k : Nat) : Nat := elemAt (s.cur.tile o.va) (srcW o.vb) k
     let q (k : Nat) : Nat × REnv := roundFmt f sat (srcVal o.vb (x k)) (s.envAt o.msk k)
     (o.vb.toNat ≠ o.ty.toNat → ∃ t : Tile,
       exec i s = .next (s.busyDone (.tile o.vd) 8 6 (fun c => { c.setTile o.vd t with
         fcsr := s.fcsrAfter (s.cur.actives o.msk).length (s.orFlags o.msk (fun k => (q k).2.flags)) })) ∧
       ElemResult s (floatW o.ty) o.msk o.mz o.vd t (fun k => (q k).1)) ∧
     (o.vb.toNat = o.ty.toNat → ∃ t : Tile,
       exec i s = .next (s.busyDone (.tile o.vd) 8 6 (fun c => { c.setTile o.vd t with
         fcsr := s.fcsrAfter 0 (s.orFlags o.msk (fun k => (f.decode (x k)).sigFlag)) })) ∧
       ElemResult s (floatW o.ty) o.msk o.mz o.vd t (fun k => if f.decode (x k) = .nan true then f.nan else x k))) ∧
   (∀ (o : VV) (s : State), s.cur.shape.w = max (srcW o.vb) (intW o.ty) → s.cur.shape.size * max (srcW o.vb) (intW o.ty) ≤ 2048 →
     TilesFree s ([.tile o.vd, .tile o.va] ++ maskUse o.msk) →
     let n := 8 * intW o.ty
     let lo : Int := if o.ty.toNat < 4 then -(2 ^ (n - 1)) else 0
     let hi : Int := if o.ty.toNat < 4 then 2 ^ (n - 1) - 1 else 2 ^ n - 1
     let q (k : Nat) : Int × REnv := toIntSat (srcVal o.vb (elemAt (s.cur.tile o.va) (srcW o.vb) k)) lo hi (s.envAt o.msk k)
     ∃ t : Tile,
       exec (.vcvtToInt o) s = .next (s.busyDone (.tile o.vd) 8 6 (fun c => { c.setTile o.vd t with
         fcsr := s.fcsrAfter (s.cur.actives o.msk).length (s.orFlags o.msk (fun k => (q k).2.flags)) })) ∧
       ElemResult s (intW o.ty) o.msk o.mz o.vd t (fun k => ((q k).1 % 2 ^ n).toNat)) ∧
   (∀ (o : VV) (s : State) (b : Nat) (i : Instr), (i = .vqntBlk16 o ∧ b = 16) ∨ (i = .vqntBlk32 o ∧ b = 32) →
     ElemReady s (floatW o.ty) o.msk [.tile o.vd, .tile o.va] →
     let f := fmtOfTy o.ty.toNat
     let h := s.cur.shape
     ∃ (t : Tile) (fcsr : Word), exec i s = .next (s.busyDone (.tile o.vd) 8 6 (fun c => { c.setTile o.vd t with fcsr := fcsr })) ∧
       (s.rmode ≤ 4 → ElemResult s (floatW o.ty) o.msk o.mz o.vd t (fun k =>
         let blk := (s.cur.actives o.msk).filter (fun j => decide (j / h.cols = k / h.cols ∧ j % h.cols / b = k % h.cols / b))
         let q := quantise o.vb.toNat (blk.map (fun j => f.decode (elemAt (s.cur.tile o.va) (floatW o.ty) j))) ⟨s.rmode, 0, 0⟩
         (roundFmt f false (bfpValue o.vb.toNat q.1 (q.2.1.getD (blk.filter (fun j => decide (j < k))).length 0)) rneEnv).1)))) ∧
  (∀ (m : Nat) (xs : List FVal) (ys : List ℚ) (r : REnv), 2 ≤ m → m ≤ 11 → xs.map FVal.rat = ys.map some →
     let q := quantise m xs r
     let step (e : Nat) : ℚ := (2 : ℚ) ^ ((e : Int) - 127 - (m - 2))
     let fits (e : Nat) : Prop := ∀ y ∈ ys, -(2 : ℚ) ^ (m - 1) * step e ≤ y ∧ y ≤ ((2 : ℚ) ^ (m - 1) - 1) * step e
     q.1 ≤ 253 ∧ (q.1 < 253 → fits q.1) ∧ (∀ e, e < q.1 → ¬ fits e) ∧ q.2.1.length = xs.length ∧
     (∀ z ∈ q.2.1, -(2 : Int) ^ (m - 1) ≤ z ∧ z ≤ 2 ^ (m - 1) - 1) ∧
     (r.mode = 0 → q.1 < 253 → ∀ p ∈ q.2.1.zip ys, |(p.1 : ℚ) * step q.1 - p.2| ≤ step q.1 / 2))

/-- R187, R188, R204, R38, R39: the shape, the rounding mode and the address slots. -/
def Obligations.VectorControl : Prop :=
  (∀ (o : VSb) (s : State), s.cur.isFull o.sb = true →
    let x := (s.cur.getS o.sb).toNat
    (tilesLanded s.cur = true → 1 ≤ x % 32 → x % 32 ≤ 16 → 1 ≤ x / 32 % 256 → x / 32 % 256 ≤ 128 → x / 2 ^ 13 % 8 < 3 →
      x % 32 * (x / 32 % 256) * 2 ^ (x / 2 ^ 13 % 8) ≤ 2048 → x < 2 ^ 16 →
      exec (.vshape o) s = .next (s.setCur (fun c => ({ c with vshape := s.cur.getS o.sb } : Context).nextSeq))) ∧
    (x ≤ 5 → ∃ t, exec (.vsetrm o) s = .next t ∧ t = s.setCur (fun c => ({ c with fcsr := t.cur.fcsr } : Context).nextSeq) ∧
      t.cur.fcsr.toNat = s.cur.fcsr.toNat / 8 * 8 + x) ∧
    (6 ≤ x → exec (.vsetrm o) s = .next (s.takeFault s.cur.ref ⟨0x02, 0, s.cur.getS o.sb, false⟩ s.cur.pc))) ∧
  (∀ (o : VSlot) (s : State), s.cur.isFull o.sb = true →
    let x := s.cur.getS o.sb
    let a : Word := s.cur.a[o.n.toNat]'o.n.isLt
    let len := x.toNat / 2 ^ 40 % 2 ^ 22
    let mode := x.toNat / 2 ^ 62
    (x.toNat / 2 ^ 32 % 2 ^ 8 = 0 → (1 ≤ mode → 1 ≤ len) → (mode = 1 ∨ mode = 3 → (∃ k, len = 2 ^ k) ∧ 32 ≤ len) →
      (mode = 3 → x.toNat % 2 ^ 32 ∈ [1, 2, 4, 8]) →
      exec (.amod o) s = .next (s.setCur (fun c => ({ c with am := c.am.set o.n.toNat x o.n.isLt, cb := c.cb.set o.n.toNat a o.n.isLt } : Context).nextSeq))) ∧
    exec (.amov o) s = .next (s.setCur (fun c => ({ c with a := c.a.set o.n.toNat x o.n.isLt, cb := c.cb.set o.n.toNat x o.n.isLt } : Context).nextSeq)) ∧
    exec (.aadd o) s = .next (s.setCur (fun c => ({ c with a := c.a.set o.n.toNat (a + x) o.n.isLt } : Context).nextSeq))) ∧
  (∀ (a x b : Word),
    let len := x.toNat / 2 ^ 40 % 2 ^ 22
    let step := (x.setWidth 32).signExtend 64
    (x.toNat / 2 ^ 62 = 0 → postInc a x b = a + step) ∧
    (x.toNat / 2 ^ 62 = 1 → ∀ k, len = 2 ^ k → (postInc a x b).toNat = a.toNat / len * len + (a + step).toNat % len) ∧
    (x.toNat / 2 ^ 62 = 2 → 1 ≤ len → postInc a x b = b + BitVec.ofInt 64 (((a.toNat : Int) - b.toNat + step.toInt) % len)))

namespace Sys2Proof.Machine

/-- Stream register n is bound in the direction to a route of the engine's group, and the instruction has no row mark (R43, R213). -/
def StreamRoute (s : State) (n : BitVec 5) (push : Bool) (k : Nat) (r : Route) : Prop :=
  ∃ q : Word, s.cur.qb[n.toNat % 4]? = some q ∧ q.getLsbD 63 = true ∧ q.getLsbD 62 = push ∧ q.getLsbD 60 = true ∧ k = s.cur.grp * 64 + q.toNat % 256 ∧
    Tbl.get? s.routes k = some r ∧ ∀ m ∈ s.cur.mark, m.1 ≠ s.cur.pc

/-- Entries that make one unit, all pushed in earlier cycles (R210, R315). -/
def IsUnit (cycle : Nat) (u : List RouteEntry) : Prop :=
  (∀ e ∈ u, e.pushed < cycle) ∧ (∀ e ∈ u.dropLast, e.unitEnd = false) ∧ ∃ e, u.getLast? = some e ∧ e.unitEnd = true
def unitBytes (u : List RouteEntry) : List Byte := u.flatMap (fun e => e.bytes)

/-- The rows that have an active position. -/
def State.activeRows (s : State) (msk : BitVec 4) : List Nat :=
  (List.range s.cur.shape.rows).filter (fun r => (List.range s.cur.shape.cols).any (fun c => s.cur.active msk (r * s.cur.shape.cols + c)))

/-- The bytes of positions of a tile, inactive ones as zero bytes. -/
def State.sentBytes (s : State) (w : Nat) (v msk : BitVec 4) (ks : List Nat) : List Byte :=
  ks.flatMap (fun k => natBytes (if s.cur.active msk k = true then elemAt (s.cur.tile v) w k else 0) w)

/-- A row's bytes as the entries of one unit, 256 bytes at most in each (R210). -/
def rowEntries (cycle : Nat) (bs : List Byte) : List RouteEntry :=
  if bs.length ≤ 256 then [⟨bs, true, cycle⟩] else [⟨bs.take 256, false, cycle⟩, ⟨bs.drop 256, true, cycle⟩]

end Sys2Proof.Machine

/-- R202, R210, R211, R315, R316: VPOP takes one unit of a route for each row with an active position, VPUSH sends one, and VBCAST spreads the first
element of one; while another producer has pushed part of a unit, VPUSH waits. R212, R165, R313: VLDT moves a slot into a tile and frees the slot;
VSTT moves a tile into a slot and fills it, its bytes performed at the trough's scope. -/
def Obligations.VectorStreams : Prop :=
  ((∀ (o : VPopF) (s : State) (k : Nat) (r : Route) (us : List (List RouteEntry)) (rest : List RouteEntry), ElemReady s (floatW o.ty) o.msk [.tile o.vd] →
     StreamRoute s o.sb false k r → (∀ u ∈ us, IsUnit s.cycle u) → r.entries = us.flatten ++ rest → us.length = (s.activeRows o.msk).length →
     let w := floatW o.ty
     let cols := s.cur.shape.cols
     let u := if s.activeRows o.msk = [] then s else s.wakeNow (.routeRoom (k / 64) (k % 64))
     ∃ (t : State) (tile : Tile), exec (.vpop o) s = .next t ∧ Tbl.get? t.routes k = some { r with entries := rest } ∧
       t.cur = (u.cur.setTile o.vd tile).nextSeq ∧ t.hold = s.hold ∧ t.mem = s.mem ∧ t.parked = u.parked ∧
       ElemResult s w o.msk o.mz o.vd tile (fun k =>
         let u := us.getD ((s.activeRows o.msk).filter (fun j => decide (j < k / cols))).length []
         leNat (((unitBytes u).drop (k % cols * w)).take w))) ∧
   (∀ (o : VPushF) (s : State) (k : Nat) (r : Route), ElemReady s (floatW o.ty) o.msk [.tile o.va] → StreamRoute s o.sb true k r →
     s.cur.shape.cols * floatW o.ty ≤ 512 → (∀ p, r.partway = some p → p = s.cur.ref) →
     let w := floatW o.ty
     let cols := s.cur.shape.cols
     let sent := (s.activeRows o.msk).flatMap (fun j => rowEntries s.cycle (s.sentBytes w o.va o.msk ((List.range cols).map (fun c => j * cols + c))))
     r.entries.length + sent.length ≤ (if r.ext.isSome then 4160 else 64) →
     ∃ (t : State) (r' : Route), exec (.vpush o) s = .next t ∧ Tbl.get? t.routes k = some r' ∧ r'.entries = r.entries ++ sent ∧
       r'.src = r.src ∧ r'.dst = r.dst ∧ r'.owner = r.owner ∧ (s.activeRows o.msk ≠ [] → r'.partway = none) ∧ t.cur = s.cur.nextSeq ∧ t.hold = s.hold ∧ t.mem = s.mem ∧ t.parked = s.parked) ∧
   (∀ (o : VPushF) (s : State) (k : Nat) (r : Route) (p : CtxRef), ElemReady s (floatW o.ty) o.msk [.tile o.va] → StreamRoute s o.sb true k r →
     r.partway = some p → p ≠ s.cur.ref → (s.activeRows o.msk).head? = some 0 →
     exec (.vpush o) s = .next (s.enterWait (.routeRoom (k / 64) (k % 64)))) ∧
   (∀ (o : VS) (s : State) (k : Nat) (r : Route) (u rest : List RouteEntry), o.va = 1 → ElemReady s (floatW o.ty) o.msk [.tile o.vd] →
     StreamRoute s o.sb false k r → IsUnit s.cycle u → r.entries = u ++ rest →
     ∃ (t : State) (tile : Tile), exec (.vbcast o) s = .next t ∧ Tbl.get? t.routes k = some { r with entries := rest } ∧
       t.cur = ((s.wakeNow (.routeRoom (k / 64) (k % 64))).busyDone (.tile o.vd) 5 2 (fun c => c.setTile o.vd tile)).cur ∧
       ElemResult s (floatW o.ty) o.msk o.mz o.vd tile (fun _ => leNat ((unitBytes u).take (floatW o.ty))))) ∧
  (∀ (s : State) (i : BitVec 8) (k : Nat) (t : Trough) (x : Slot), TroughNamed s i k t → TroughGood t → Tbl.get? s.slots t.owner = some x →
     t.slots.length = t.cap → t.counts.length = t.cap → t.head < 2 * t.cap → t.tail < 2 * t.cap → NothingOwed s (if t.dev then .dev else .grp) →
     let pos := t.position s.cur
     (∀ (o : VTr), o.t = i → ElemReady s (floatW o.ty) o.msk [.tile o.vd] → t.takeable s.cycle = true → t.mayTake pos s.cycle = true → 1 ≤ t.filled →
       let n := t.tail % t.cap
       let ps := s.slotPieces t.owner (t.base + n * t.slotBytes) (t.counts.getD n 0).toNat
       (∀ p ∈ ps, IsMemory s p.pa) →
       let bs := ps.flatMap (fun p => p.range.map (s.loadByte s.cur s.nextId none p.page))
       ∃ (u : State) (tile : Tile), exec (.vldt o) s = .next u ∧
         u.cur = ((s.wakeNow (.troughFree (k / 1024) (k % 1024))).busyDone (.tile o.vd) 9 8 (fun c => c.setTile o.vd tile)).cur ∧
         Tbl.get? u.troughs k = some { t with
           slots := (t.slots.set n .draining).set n .free, tail := (t.tail + 1) % (2 * t.cap), filled := t.filled - 1
           takePtr := t.takePtr.meet t.positions pos s.cycle true } ∧
         ElemResult s (floatW o.ty) o.msk o.mz o.vd tile (fun j => leNat ((bs.drop (j * floatW o.ty)).take (floatW o.ty)))) ∧
     (∀ (o : VTrS), o.t = i → ElemReady s (floatW o.ty) o.msk [.tile o.vd] → s.cur.shape.size * floatW o.ty ≤ t.slotBytes →
       t.slotAt (t.head % t.cap) = .free → t.mayClaim pos s.cycle = true → t.claimed + t.filled < t.cap →
       let n := t.head % t.cap
       let ps := s.slotPieces t.owner (t.base + n * t.slotBytes) (s.cur.shape.size * floatW o.ty)
       (∀ p ∈ ps, IsMemory s p.pa) → s.ahead (s.locOf s.cur) ps t.scope = [] →
       let w := s.writePieces s.cur.ref (s.locOf s.cur) t.scope ps (s.sentBytes (floatW o.ty) o.vd o.msk (List.range s.cur.shape.size))
       ∃ u : State, exec (.vstt o) s = .next u ∧ u.cur = s.cur.nextSeq ∧ u.coh = w.coh ∧ u.mem = s.mem ∧ u.hold = s.hold ∧
         Tbl.get? u.troughs k = some { t with
           slots := (t.slots.set n .filling).set n .full, counts := t.counts.set n (BitVec.ofNat 32 (s.cur.shape.size * floatW o.ty))
           filledAt := t.filledAt.set n (s.cycle + 1), head := (t.head + 1) % (2 * t.cap), filled := t.filled + 1
           claimPtr := t.claimPtr.meet t.positions pos s.cycle true }))

namespace Sys2Proof.Machine

/-- The elements that a vector access touches, in element order (R205, R208). -/
def vecElems (s : State) (md : VMode) (msk : BitVec 4) (a : Word) (p0 : PageInfo) : List VElem :=
  (s.cur.actives msk).map (fun k => vElem p0 s.cur.shape.w k (vBase s.cur md a k).1 (vBase s.cur md a k).2)

/-- The checks of R206 pass and every page is there: `p0` is the page of A, `info` gives the translation of a page's first address. -/
def VecAccess (s : State) (rights : BitVec 3) (a : Word) (p0 : PageInfo) (es : List VElem) (info : Nat → PageInfo) : Prop :=
  (∃ ipa e1, stage1 s (s.vfOf s.cur.slot) a 0 = .ok (ipa, e1) ∧ pageOf e1 = p0) ∧ (∀ e ∈ es, e.misaligned = false ∧ e.beyond = false) ∧
  (∀ x ∈ firstPages es,
    (∃ ipa e1, stage1 s (s.vfOf s.cur.slot) (BitVec.ofNat 64 x.2) rights = .ok (ipa, e1) ∧
      (pageOf e1).ord = p0.ord ∧ (pageOf e1).cohr = p0.cohr ∧ (pageOf e1).fmt = p0.fmt ∧ (pageOf e1).blk = p0.blk) ∧
    translateFull s (s.vfOf s.cur.slot) (BitVec.ofNat 64 x.2) rights = .ok (info x.1) ∧ IsMemory s (info x.1).pa ∧ (info x.1).remote = none) ∧
  SlotFree s ∧ NoAcquire s ∧ ∀ x ∈ s.cur.staging, x.1 ≠ s.cur.pc

/-- What a vector access leaves of the context: the post-increment made, nothing of the access kept (R205, R146). -/
def Context.accessed (c : Context) (as : BitVec 3) (pi : Bool) : Context := ({ (if pi then c.postIncrement as else c) with past := none } : Context).nextSeq

/-- A vector load is outstanding for its tile and the context goes on (R205, R206). -/
def State.vecLoaded (s : State) (vd : BitVec 4) (ty : BitVec 3) (fmt : BitVec 4) (base : Tile) (els : List ElemAccess) (as : BitVec 3) (pi : Bool) : State :=
  let c : Context := { s.cur with
    pend := s.cur.pend ++ [⟨s.nextId, .tile vd, s.cycle + s.latency 9 8, .vload base [] els ⟨fmt, ty, s.cur.shape.w, s.rmode, s.cur.fcsr.extractLsb' 32 32⟩, none⟩]
    fcsr := s.seedAt (if movesBits fmt ty then 0 else els.length) ++ s.cur.fcsr.extractLsb' 0 32 }
  { s with cur := c.accessed as pi, nextId := s.nextId + 1 }

/-- The stores are in the hold buffer, in element order, those of one sector as one request (R206), and the context goes on (R205, R207). -/
def State.vecStored (s : State) (recs : List StoreRec) (n : Nat) (fcsr : Word) (as : BitVec 3) (pi : Bool) : State :=
  let c : Context := { s.cur with fcsr := fcsr }
  State.shareRequests { s with cur := c.accessed as pi, hold := s.hold ++ recs, nextId := s.nextId + n } s.nextId

end Sys2Proof.Machine

/-- R205, R206, R208: a vector load whose checks pass is outstanding for its tile, with the bytes of every active element to read as it lands; the slot's
post-increment is applied once. R205, R207, R208, R116: a vector store whose checks pass places each active element, converted to the page's format,
in the hold buffer in element order. -/
def Obligations.VectorMemory : Prop :=
  (∀ (s : State) (i : Instr) (md : VMode) (vd msk : BitVec 4) (mz pi : Bool) (ty as : BitVec 3) (a : Word),
     (∃ o : VA, o.vd = vd ∧ o.msk = msk ∧ o.mz = mz ∧ o.pi = pi ∧ o.ty = ty ∧ o.as = as ∧
       ((i = .vld o ∧ md = .contiguous ∧ a = s.cur.a[as.toNat]'as.isLt + 32 * o.off.signExtend 64) ∨
         (i = .vlds o ∧ md = .strided o.off ∧ a = s.cur.a[as.toNat]'as.isLt))) ∨
       (∃ o : VAIdx, o.vd = vd ∧ o.msk = msk ∧ o.mz = mz ∧ o.pi = pi ∧ o.ty = ty ∧ o.as = as ∧ i = .vgath o ∧ md = .indexed o.vi ∧
         TilesFree s [.tile o.vi] ∧ a = s.cur.a[as.toNat]'as.isLt) →
     ElemReady s (floatW ty) msk [.tile vd] →
     ∃ base : Tile,
       (∀ k, k < s.cur.shape.size → elemAt base (floatW ty) k =
         if mz = true ∧ s.cur.active msk k = false then 0 else elemAt (s.cur.tile vd) (floatW ty) k) ∧
       (∀ b, 8 * floatW ty * s.cur.shape.size ≤ b → base.getLsbD b = (s.cur.tile vd).getLsbD b) ∧
       (s.cur.actives msk = [] → NoAcquire s → (∀ x ∈ s.cur.staging, x.1 ≠ s.cur.pc) → exec i s = .next (s.vecLoaded vd ty 0 base [] as pi)) ∧
       (∀ (p0 : PageInfo) (info : Nat → PageInfo), s.cur.actives msk ≠ [] → VecAccess s 1 a p0 (vecElems s md msk a p0) info →
         exec i s = .next (s.vecLoaded vd ty p0.fmt base
           ((vecElems s md msk a p0).map (fun e => ⟨e.pos, elemPieces (info (e.va / 65536)) e, e.bit⟩)) as pi))) ∧
  (∀ (s : State) (i : Instr) (md : VMode) (vd msk : BitVec 4) (pi : Bool) (ty as : BitVec 3) (a : Word),
     (∃ o : VA, o.vd = vd ∧ o.msk = msk ∧ o.pi = pi ∧ o.ty = ty ∧ o.as = as ∧
       ((i = .vst o ∧ md = .contiguous ∧ a = s.cur.a[as.toNat]'as.isLt + 32 * o.off.signExtend 64) ∨
         (i = .vsts o ∧ md = .strided o.off ∧ a = s.cur.a[as.toNat]'as.isLt))) ∨
       (∃ o : VAIdx, o.vd = vd ∧ o.msk = msk ∧ o.pi = pi ∧ o.ty = ty ∧ o.as = as ∧ i = .vscat o ∧ md = .indexed o.vi ∧
         TilesFree s [.tile o.vi] ∧ a = s.cur.a[as.toNat]'as.isLt) →
     ElemReady s (floatW ty) msk [.tile vd] →
     (s.cur.actives msk = [] → NoAcquire s → exec i s = .next { s with cur := s.cur.accessed as pi }) ∧
     (∀ (p0 : PageInfo) (info : Nat → PageInfo), s.cur.actives msk ≠ [] → p0.fmt.toNat < 6 → VecAccess s 2 a p0 (vecElems s md msk a p0) info →
       let es := vecElems s md msk a p0
       let out (e : VElem) : Nat × REnv := convOut p0.fmt ty (elemAt (s.cur.tile vd) (floatW ty) e.pos) (s.envAt msk e.pos)
       let pa (e : VElem) : Nat := (info (e.va / 65536)).pa / 65536 * 65536 + e.va % 65536
       exec i s = .next (s.vecStored
         (es.zipIdx.map (fun x => { StoreRec.new (s.nextId + 2 * x.2) s.cur.ref (s.locOf s.cur) (pa x.1) (natBytes (out x.1).1 x.1.len)
           { info (x.1.va / 65536) with pa := pa x.1 } with req := s.nextId + 2 * x.2 + 1, va := BitVec.ofNat 64 x.1.va })) (2 * es.length)
         (s.fcsrAfter (if movesBits p0.fmt ty then 0 else es.length) (es.foldl (fun acc e => acc ||| (out e).2.flags) 0)) as pi)) ∧
     (∀ (p0 : PageInfo) (info : Nat → PageInfo), s.cur.actives msk ≠ [] → 6 ≤ p0.fmt.toNat → (∀ vi, md ≠ .indexed vi) →
       VecAccess s 2 a p0 (vecElems s md msk a p0) info → partialBlock p0 (vecElems s md msk a p0) = none →
       ∃ (recs : List StoreRec) (n : Nat) (fcsr : Word), exec i s = .next (s.vecStored recs n fcsr as pi) ∧
         (∀ r ∈ recs, r.by_ = s.cur.ref ∧ r.ps = none ∧ ∃ e ∈ vecElems s md msk a p0, r.pa / 65536 = (info (e.va / 65536)).pa / 65536)))

/-! ## Tokens and step contexts (R179 to R181, R267 to R276) -/

namespace Sys2Proof.Machine

/-- The window of token queues holds the number; `q` is the physical queue (R48). -/
def TokenNamed (s : State) (i : BitVec 8) (q : Nat) : Prop := i.toNat < fieldN s.cur.wtok 40 32 ∧ q = fieldN s.cur.wtok 15 0 + i.toNat

def State.setToken (s : State) (q : Nat) (t : TokenQ) : State := { s with tokens := Tbl.set s.tokens q t }

/-- The step context whose word runs: it handles words, its table header is read, and its next arming has an age of its own (R267). -/
def StepAt (s : State) (c : StepCtx) : Prop :=
  Tbl.get? s.steps s.curStep = some c ∧ c.status = none ∧ c.ready = true ∧ (∀ a ∈ c.store, a.op ≠ .done ∧ a.age < s.nextAge) ∧ s.running c.slot = true

/-- The queue that a step context names by a number (R48). -/
def stepQ (c : StepCtx) (i : BitVec 8) : Nat := fieldN c.wtok 15 0 + i.toNat
def stepIns (o : StepF) : List (BitVec 8) := [o.in0, o.in1, o.in2, o.in3].take o.nin.toNat
def StepNames (c : StepCtx) (o : StepF) : Prop :=
  (∀ i ∈ stepIns o, i.toNat < fieldN c.wtok 40 32) ∧ (o.fl.getLsbD 3 = true → o.out.toNat < fieldN c.wtok 40 32)

/-- The step that a word arms, before its entry is resolved (R267). -/
def armedOf (s : State) (c : StepCtx) (op : StepOp) (o : StepF) (fired : Bool) : Armed :=
  { age := s.nextAge, op := op, pc := c.pc, fl := o.fl.extractLsb' 0 3, ins := (stepIns o).map (fun i => (stepQ c i, (s.token (stepQ c i)).gen))
    out := if o.fl.getLsbD 3 then some (stepQ c o.out, o.out) else none
    lbuf := 0, xbuf := 0, len := 0, blkid := 0, blkg := 0, tag := 0, peerA := 0, peerB := 0, matchA := 0, matchB := 0, armedAt := s.cycle, fired := fired
    got := [], sent := false, started := false, ids := [], asked := [], answers := [], owed := [] }

/-- What an entry resolves to: addresses, length, tag and block from the loop counter LC (R270). -/
def resolved (c : StepCtx) (a : Armed) (b : BitVec 256) : Armed :=
  let lc := c.lc (fieldN b 193 192)
  let off := BitVec.ofInt 64 (32 * (b.extractLsb' 160 24).toInt * lc)
  { a with
    lbuf := b.extractLsb' 0 64 + off, xbuf := b.extractLsb' 64 64 + off, len := fieldN b 159 128, tag := b.extractLsb' 184 8, blkg := b.extractLsb' 248 8
    blkid := b.extractLsb' 232 16 + BitVec.ofNat 16 lc }

/-- A peer that an entry gives is a rank below SIZE: itself, or what a peer register holds (R270). -/
def PeerIs (c : StepCtx) (b : BitVec 256) (hi lo flag r : Nat) : Prop := r = (if b.getLsbD flag then c.pe.getD (fieldN b hi lo) 0 else fieldN b hi lo) ∧ r < c.size

end Sys2Proof.Machine

/-- R45, R179, R180, R181, R297: posting, resetting and reading a token queue, a reset in the cycle of another update of the queue being made in the next
one; starting a step context, and waiting for its end, which orders the buffers that its steps named. R267, R268, R270, R274: a step word arms its
step: its queues with their generations, its entry resolved, its peers and match numbers; WAIT and DONE without an input fire as they are armed. No
context of a higher handle has armed a step in the cycle. -/
def Obligations.StepWords : Prop :=
  ((∀ (o : ObjA) (s : State) (q : Nat), s.cur.isFull o.a = true → TokenNamed s o.t q → NothingOwed s .dev →
     let x := (s.cur.getS o.a).toNat
     let t := s.token q
     (t.count.toNat + x ≤ 65535 → exec (.kpost o) s = .next (s.setToken q ⟨BitVec.ofNat 16 (t.count.toNat + x), t.gen, s.cycle + 1⟩).goOn) ∧
     (65535 < t.count.toNat + x →
       exec (.kpost o) s = .next ((s.setToken q ⟨65535, t.gen, s.cycle + 1⟩).post s.cur.ref ⟨0x20, 0, BitVec.ofNat 64 o.t.toNat, true⟩).goOn)) ∧
   (∀ (k : BitVec 8) (s : State) (q : Nat), TokenNamed s k q →
     ((s.token q).used ≤ s.cycle → (∀ c ∈ s.steps, ∀ a ∈ c.2.store, a.fired = true ∨ s.staleStep a = false ∧ ∀ i ∈ a.ins, i.1 ≠ q) →
       exec (.kreset k) s = .next (s.setToken q ⟨0, (s.token q).gen + 1, (s.token q).used⟩).goOn) ∧
     (s.cycle < (s.token q).used → exec (.kreset k) s = .next (s.enterWait (.cycleAfter s.cycle)))) ∧
   (∀ (o : ObjD) (s : State) (q : Nat), s.cur.isFull o.d = true → TokenNamed s o.t q → Tbl.get? s.dortas.captures (s.vfOf s.cur.slot) = none →
     Tbl.get? s.replays (s.vfOf s.cur.slot) = none →
     exec (.kread o) s = .next (s.lateDone o.d 3 8 (BitVec.ofNat 64 ((s.token q).count.toNat + 2 ^ 16 * (s.token q).gen.toNat)))) ∧
   (∀ (o : RRR) (s : State), RRR_Ready o s →
     let x := s.cur.getS o.a
     let y := s.cur.getS o.b
     let die := s.cur.grp / 16
     (x.toNat % 8 ≠ 0 → exec (.cstart o) s = .next (s.takeFault s.cur.ref ⟨0x05, 0, x, false⟩ s.cur.pc)) ∧
     (x.toNat % 8 = 0 → y.toNat % 64 ≠ 0 → exec (.cstart o) s = .next (s.takeFault s.cur.ref ⟨0x05, 0, y, false⟩ s.cur.pc)) ∧
     (x.toNat % 8 = 0 → y.toNat % 64 = 0 → s.fetch s.cur.slot .se x ≠ none → (s.steps.filter (fun c => c.2.slot = s.cur.slot)).length < s.effOf s.cur .stepb →
       (∃ k, k < 32 ∧ Tbl.get? s.steps (32 * die + k) = none) → NothingOwed s .dev →
       ∃ h c, h / 32 = die ∧ Tbl.get? s.steps h = none ∧
         exec (.cstart o) s = .next (({ s with free := s.free + 1, steps := Tbl.set s.steps h c } : State).regDone o.d (BitVec.ofNat 64 h)) ∧
         c.slot = s.cur.slot ∧ c.starter = s.cur.ref ∧ c.die = die ∧ c.pc = x ∧ c.table = y ∧ c.store = [] ∧ c.status = none ∧ c.wtok = s.cur.wtok ∧ c.named = [] ∧ c.since = s.nextId ∧
         (∀ k, k < 4 → c.lc k = 0))) ∧
   (∀ (o : RRD) (s : State) (c : StepCtx), Imm_Ready o.d o.a s → Tbl.get? s.steps (s.cur.getS o.a).toNat = some c → c.slot = s.cur.slot →
     (∀ w, c.status = some w →
       exec (.cwait o) s = .next ((({ s with steps := Tbl.del s.steps (s.cur.getS o.a).toNat } : State).orderBuffers s.cur c.named).regDone o.d w)) ∧
     (c.status = none → exec (.cwait o) s = .next (s.enterWait (.stepEnd (s.cur.getS o.a).toNat))))) ∧
  (∀ (o : StepF) (s : State) (c : StepCtx), StepAt s c → c.store.length ≤ 15 → StepNames c o →
     (∀ x ∈ s.steps, x.1 ≤ s.curStep ∨ ∀ a ∈ x.2.store, a.armedAt ≠ s.cycle) →
     let h := s.curStep
     let armed (op : StepOp) (t : State) (a : Armed) : Prop :=
       t.nextAge = s.nextAge + 1 ∧ t.tokens = s.tokens ∧ t.mem = s.mem ∧ t.cur = s.cur ∧ a.op = op ∧
         ∃ c', Tbl.get? t.steps h = some c' ∧ c'.store = c.store ++ [a] ∧ c'.pc = c.pc + 8 ∧ c'.loops = c.loops ∧ c'.pe = c.pe
     (∀ x ∈ [(Instr.wait o, StepOp.wait), (.done o, .done)], ∃ t, exec x.1 s = .next t ∧ armed x.2 t (armedOf s c x.2 o (decide (o.nin = 0)))) ∧
     (∀ (b : BitVec 256) (s1 : State), o.nin ≠ 0 → stepEntry h o.x s = .ok (b, s1) →
       let a (op : StepOp) : Armed := resolved c (armedOf s c op o false) b
       (∃ t, exec (.sitret o) s = .next t ∧ armed .sitret t (a .sitret)) ∧
       (1 ≤ fieldN b 159 128 → fieldN b 159 128 ≤ 65535 → ∃ t, exec (.kout o) s = .next t ∧ armed .kout t (a .kout)) ∧
       ((a .copy).lbuf.toNat % 32 = 0 → (a .copy).xbuf.toNat % 32 = 0 → ∃ t, exec (.copy o) s = .next t ∧ armed .copy t (a .copy)) ∧
       ((a .sitadv).lbuf.toNat % 32 = 0 → ∃ t, exec (.sitadv o) s = .next t ∧ armed .sitadv t (a .sitadv)) ∧
       (∀ (r : Nat) (ep : Word) (s2 : State), (a .send).lbuf.toNat % 32 = 0 → PeerIs c b 215 200 194 r → stepEndpoint h r s1 = .ok (ep, s2) →
         let n (side : Nat) : Nat := (Tbl.get? c.matched ((2 * r + side) * 256 + (b.extractLsb' 184 8).toNat)).getD 0 + 1
         (∃ t, exec (.send o) s = .next t ∧ armed .send t { a .send with peerA := ep, matchA := n 0 }) ∧
         (∃ t, exec (.recv o) s = .next t ∧ armed .recv t { a .recv with peerA := ep, matchA := n 1 }) ∧
         (o.fl.getLsbD 1 = true → ∃ t, exec (.rrs o) s = .next t ∧ armed .rrs t { a .rrs with peerA := ep, matchA := n 1 }) ∧
         (∀ (r2 : Nat) (ep2 : Word) (s3 : State), o.fl.getLsbD 1 = false → PeerIs c b 231 216 195 r2 → stepEndpoint h r2 s2 = .ok (ep2, s3) →
           ∃ t, exec (.rrs o) s = .next t ∧ armed .rrs t { a .rrs with
             peerA := ep, matchA := n 1, peerB := ep2, matchB := (Tbl.get? c.matched (2 * r2 * 256 + (b.extractLsb' 184 8).toNat)).getD 0 + 1 }))))

/-- R273: LOOPB, LOOPE and PEER take effect in the sequencer. R268, R267, R276: an armed step fires when its queues hold the tokens it needs beyond those
of older steps, and takes them in one update; a fired WAIT, KOUT or DONE completes and posts to its OUT queue, and DONE ends the context with status
0; an unfired step past the watchdog bound stops it. -/
def Obligations.StepsRun : Prop :=
  (∀ (o : StepF) (s : State) (c : StepCtx), StepAt s c → c.loops.length = 4 → c.pe.length = 4 →
     let h := s.curStep
     let i := o.fl.toNat % 4
     (∀ (b : BitVec 256) (s1 : State), stepEntry h o.x s = .ok (b, s1) → 1 ≤ fieldN b 159 128 →
       exec (.loopb o) s = .next (s1.setStep h (fun c => { c with loops := c.loops.set i ⟨fieldN b 159 128, 0, c.pc + 8, true⟩, pc := c.pc + 8 }))) ∧
     (∀ l, c.loops[i]? = some l → l.active = true →
       exec (.loope o) s = .next (s.setStep h (fun c =>
         if l.index + 1 < l.count then { c with loops := c.loops.set i { l with index := l.index + 1 }, pc := l.start }
         else { c with loops := c.loops.set i { l with index := l.index + 1, active := false }, pc := c.pc + 8 }))) ∧
     (∀ l, c.loops[i]? = some l → l.active = false → exec (.loope o) s = .next (s.stepStop h 0x17 8)) ∧
     (1 ≤ c.size →
       let k : Nat := if o.fl.getLsbD 2 then c.lc (o.x.toNat / 16 % 4) + o.x.toNat % 16 else o.x.toNat % 64
       let sub : Nat := (((c.rank : Int) - k) % c.size).toNat
       let done (r : Nat) : State := s.setStep h (fun c => { c with pe := c.pe.set i r, pc := c.pc + 8 })
       (o.x.toNat / 64 = 0 → exec (.peer o) s = .next (done ((c.rank + k) % c.size))) ∧
       (o.x.toNat / 64 = 1 → exec (.peer o) s = .next (done sub)) ∧
       (o.x.toNat / 64 = 2 → exec (.peer o) s = if Nat.xor c.rank k < c.size then .next (done (Nat.xor c.rank k)) else .next (s.stepStop h 0x17 6)) ∧
       (o.x.toNat / 64 = 3 → exec (.peer o) s = .next (done (c.rank * k % c.size))))) ∧
  (∀ (h age : Nat) (s : State) (c : StepCtx) (a : Armed), Tbl.get? s.steps h = some c → c.status = none → a ∈ c.store → a.age = age →
     (∀ b ∈ c.store, b.age = age → b = a) → a.op = .wait ∨ a.op = .kout ∨ a.op = .done → a.owed = [] →
     (a.fired = false → s.running c.slot = true → (∀ i ∈ a.ins, (s.token i.1).gen = i.2) →
       (∀ i ∈ a.ins, (a.ins.filter (fun j => j.1 = i.1)).length + s.reservedTokens i.1 age ≤ (s.token i.1).count.toNat) →
       ∃ t, exec (.stepFire h age) s = .next t ∧
         (∀ q, (t.token q).gen = (s.token q).gen ∧ (t.token q).count.toNat + (a.ins.filter (fun j => j.1 = q)).length = (s.token q).count.toNat) ∧
         ∃ c', Tbl.get? t.steps h = some c' ∧ c'.store = c.store.map (fun x => if x.age = age then { a with fired := true } else x) ∧ c'.pc = c.pc) ∧
     (a.fired = true → (a.op = .done → c.store = [a]) →
       ∃ t, exec (.stepComplete h age) s = .next t ∧
         (∃ c', Tbl.get? t.steps h = some c' ∧ c'.store = c.store.filter (fun x => decide (x.age ≠ age)) ∧ c'.status = if a.op = .done then some 0 else none) ∧
         (a.out = none → t.tokens = s.tokens) ∧
         (∀ q i, a.out = some (q, i) → (t.token q).count.toNat = min 65535 ((s.token q).count.toNat + if a.op = .kout then a.len else 1) ∧
           (t.token q).gen = (s.token q).gen)) ∧
     (a.fired = false → s.running c.slot = true → a.armedAt + c.wdog * 1024 ≤ s.cycle →
       ∃ t c', exec (.stepWatchdog h) s = .next t ∧ t = { s with steps := Tbl.set s.steps h c' } ∧ c' = { c with status := some 0x0519, store := [] }))

/-! ## Copies (R250 to R266, R320 to R323) -/

namespace Sys2Proof.Machine

/-- The entry joins the copy queue under a number of its own and the context goes on (R250). -/
def State.queued (s : State) (e : CopyEntry) : State :=
  { (s.setCur (fun c => ({ c with copyq := c.copyq ++ [{ e with id := s.nextId }] } : Context).nextSeq)) with nextId := s.nextId + 1 }

/-- A copy may enter the queue: full sources, no acquire outstanding, room; `rel` and `dem` give its release scope (R250, R251). -/
def CopyReady (s : State) (sa sb : BitVec 5) (rl : Bool) (sc : BitVec 3) (rel : Option Scope) (dem : Bool) : Prop :=
  s.cur.isFull sa = true ∧ s.cur.isFull sb = true ∧ NoAcquire s ∧ s.cur.copyq.length ≤ 15 ∧
  ((rl = false ∧ rel = none ∧ dem = false) ∨ (rl = true ∧ ∃ x, rel = some x ∧ ScopeFor s sc x dem))

/-- An entry that has moved nothing, with what its release publishes (R251, R290). -/
def State.freshCopy (s : State) (op : CopyOp) (x y : Word) (tpl : Template) (rel : Option Scope) (dem : Bool) : CopyEntry :=
  { CopyEntry.blank op x y tpl s.cur.pc with
    rel := rel, note := dem, ids := match rel with
      | some sc => s.releaseDeps s.cur true sc
      | none => [] }

end Sys2Proof.Machine

/-- R250, R259, R260, R262 to R264, R266: each copy instruction whose issue checks pass enters the queue with its operands, template, rounding state and
elements. R252, R257, R250: CWAIT, CTPL and a full queue. -/
def Obligations.CopiesIssue : Prop :=
  ((∀ (o : Cpy) (s : State) (rel : Option Scope) (dem : Bool), CopyReady s o.sa o.sb o.rl o.sc rel dem →
     let x := s.cur.getS o.sa
     let y := s.cur.getS o.sb
     let t : Template := s.cur.ct[o.ct.toNat]'o.ct.isLt
     let es := 2 ^ fieldN t 1 0
     let wd := (fmtOfTy (fieldN t 455 452 - 1)).width / 8
     let fresh (op : CopyOp) : CopyEntry := s.freshCopy op x y t rel dem
     (x.toNat % es = 0 → y.toNat % es = 0 → exec (.cpy o) s = .next (s.queued { fresh .cpy with todo := copyElems t x y es })) ∧
     (x.toNat % es = 0 → y.toNat % wd = 0 → fieldN t 451 448 ≠ 0 → fieldN t 455 452 ≠ 0 → es = (fmtOfTy (fieldN t 451 448 - 1)).width / 8 →
       (t.extractLsb' 192 64).toInt % wd = 0 → (t.extractLsb' 256 64).toInt % wd = 0 →
       exec (.cpyx o) s = .next ((s.queued { fresh .cpyx with todo := copyElems t x y wd, rm := s.rmode, seed := s.seedAt 0 }).setCur (fun c =>
         if s.rmode = 5 then { c with fcsr := s.seedAt (copyElems t x y wd).length ++ c.fcsr.extractLsb' 0 32 } else c))) ∧
     (∀ k tr, x.toNat % es = 0 → y.toNat < 512 → TroughNamed s (y.setWidth 8) k tr → tr.conf = true → tr.inc = false →
       fieldN t 63 48 * fieldN t 47 32 * fieldN t 31 16 * es ≤ tr.slotBytes →
       exec (.cpyt o) s = .next (s.queued { fresh .cpyt with
         trough := k, tids := (s.releaseDeps s.cur true tr.scope).filter (fun i => !s.isUo s.cur i), todo := troughElems t x (y.getLsbD 8) })) ∧
     (∀ (q : Instr × CopyOp × Nat) (bs : List Byte) (u : State), q ∈ [(Instr.cgath o, CopyOp.cgath, 2), (.cscat o, .cscat, 1)] →
       x.toNat % es = 0 → y.toNat % 8 = 0 → acquireLoad y 16 .eng s = .ok (bs, u) → leNat (bs.take 8) % 2 ^ 64 % es = 0 → leNat (bs.drop 8) % 2 ^ 64 % 4 = 0 →
       fieldN t 5 4 ≠ q.2.2 →
       exec q.1 s = .next (u.queued { fresh q.2.1 with y := BitVec.ofNat 64 (leNat (bs.take 8)), list := BitVec.ofNat 64 (leNat (bs.drop 8)) })) ∧
     (∀ q ∈ [(Instr.credF32 o, false, false), (.credBf16 o, true, false), (.credF32Det o, false, true), (.credBf16Det o, true, true)],
       es = (if q.2.1 = true then 2 else 4) → x.toNat % es = 0 → y.toNat % es = 0 →
       exec q.1 s = .next (s.queued { fresh (.cred q.2.1 q.2.2) with todo := copyElems t x y es })) ∧
     (x.toNat % es ≠ 0 → exec (.cpy o) s = .next (s.takeFault s.cur.ref ⟨0x05, 0, x, false⟩ s.cur.pc))) ∧
   (∀ (o : CZeroF) (s : State) (rel : Option Scope) (dem : Bool), CopyReady s o.sa o.sb o.rl o.sc rel dem →
     let x := s.cur.getS o.sa
     let y := s.cur.getS o.sb
     x.toNat % 32 = 0 → y.toNat % 32 = 0 →
     exec (.czero o) s = .next (s.queued { s.freshCopy .czero x y 0 rel dem with
       todo := (List.range (y.toNat / 32)).map (fun i => ⟨i, none, some ((x.toNat + 32 * i) % 2 ^ 64), 0, 0, 32⟩) })) ∧
   (∀ (sa : BitVec 5) (s : State), s.cur.isFull sa = true → s.cur.copyq.length ≤ 15 →
     let x := (s.cur.getS sa).toNat
     x < 2 ^ 22 → x / 2 ^ 14 % 4 = 0 → x / 2 ^ 8 % 64 ≤ x / 2 ^ 16 → exec (.crede sa) s = .next (s.queued (s.freshCopy .crede (s.cur.getS sa) 0 0 none false))) ∧
   (∀ (c : BitVec 3) (s : State) (sc : Scope) (dem : Bool), ScopeFor s c sc dem → NoAcquire s → s.cur.copyq.length ≤ 15 →
     exec (.cfence c) s = .next (s.queued (s.freshCopy .cfence 0 0 0 (some sc) dem)))) ∧
  ((∀ (sa : BitVec 5) (s : State), s.cur.isFull sa = true →
     let n := (s.cur.copyq.filter (fun e => decide (e.op ≠ .cfence))).length
     (n ≤ (s.cur.getS sa).toNat → exec (.cwaitCopy sa) s = .next (s.orderPoint s.cur true).goOn) ∧
     ((s.cur.getS sa).toNat < n → exec (.cwaitCopy sa) s = .next (s.enterWait (.copiesLeft (s.cur.getS sa).toNat)))) ∧
   (∀ (o : CTplF) (s u : State) (bs : List Byte) (t : Template), s.cur.isFull o.sa = true → s.cur.isFull o.sb = true → (s.cur.getS o.sb).toNat < 256 →
     (s.cur.getS o.sa).toNat % 64 = 0 → acquireLoad (s.cur.getS o.sa) 64 .eng s = .ok (bs, u) →
     (∀ k, k < 8 → t.extractLsb' (64 * k) 64 = if (s.cur.getS o.sb).getLsbD k = true then BitVec.ofNat 64 (leNat ((bs.drop (8 * k)).take 8))
       else (u.cur.ct[o.ct.toNat]'o.ct.isLt).extractLsb' (64 * k) 64) →
     (tplOk t = true → exec (.ctpl o) s = .next (u.setCur (fun c => ({ c with ct := c.ct.set o.ct.toNat t o.ct.isLt } : Context).nextSeq))) ∧
     (tplOk t = false → exec (.ctpl o) s = .next (s.takeFault s.cur.ref ⟨0x02, 0, 0, false⟩ s.cur.pc))) ∧
   (∀ (o : Cpy) (s : State), s.cur.isFull o.sa = true → s.cur.isFull o.sb = true → o.rl = false → NoAcquire s → 16 ≤ s.cur.copyq.length →
     let es := 2 ^ fieldN (s.cur.ct[o.ct.toNat]'o.ct.isLt) 1 0
     (s.cur.getS o.sa).toNat % es = 0 → (s.cur.getS o.sb).toNat % es = 0 → exec (.cpy o) s = .next (s.enterWait .copyRoom)))

/-- R258, R262: the elements of a template: addresses of both sides, in element order, in-bounds elements only. -/
def Obligations.TemplateElements : Prop :=
  ∀ (t : Template) (x y : Word) (w : Nat),
    let n (d : Nat) : Nat := fieldN t (63 - 16 * d) (48 - 16 * d)
    let oob := fieldN t 5 4
    let es : Nat := 2 ^ fieldN t 1 0
    let str (lo : Nat) : Int := (t.extractLsb' lo 64).toInt
    let org (d : Nat) : Int := (t.extractLsb' (320 + 16 * d) 16).toInt
    let lim (d : Nat) : Nat := fieldN t (399 + 16 * d) (384 + 16 * d)
    let co (d k : Nat) : Int := if oob = 0 then k else org d + k
    let at_ (b : Word) (side e s1 s2 k0 k1 k2 : Nat) : Nat :=
      let i (d k : Nat) : Int := if oob = side then co d k else k
      (b + BitVec.ofInt 64 (i 0 k0 * e + i 1 k1 * str s1 + i 2 k2 * str s2)).toNat
    let inside (k0 k1 k2 : Nat) : Prop := oob = 0 ∨
      (0 ≤ co 0 k0 ∧ co 0 k0 < lim 0 ∧ 0 ≤ co 1 k1 ∧ co 1 k1 < lim 1 ∧ 0 ≤ co 2 k2 ∧ co 2 k2 < lim 2)
    (∀ e : CopyElem, e ∈ copyElems t x y w → ∃ k0 k1 k2, k0 < n 0 ∧ k1 < n 1 ∧ k2 < n 2 ∧ inside k0 k1 k2 ∧ e.src = some (at_ x 1 es 64 128 k0 k1 k2) ∧
      e.dst = some (at_ y 2 w 192 256 k0 k1 k2) ∧ e.slotOff = ((k2 * n 1 + k1) * n 0 + k0) * es ∧ e.n = es ∧ e.w = w) ∧
    (∀ k0 k1 k2, k0 < n 0 → k1 < n 1 → k2 < n 2 → inside k0 k1 k2 →
      ∃ e ∈ copyElems t x y w, e.src = some (at_ x 1 es 64 128 k0 k1 k2) ∧ e.dst = some (at_ y 2 w 192 256 k0 k1 k2) ∧
        e.slotOff = ((k2 * n 1 + k1) * n 0 + k0) * es) ∧
    (copyElems t x y w).Pairwise (fun a b => a.slotOff < b.slotOff) ∧ (∀ (i : Nat) (e : CopyElem), (copyElems t x y w)[i]? = some e → e.k = i)

/-- R250, R255, R259, R263 to R266, R319, R321, R322, R324: how queued copies move on: the last element of a CPY or CZERO, the start of a CREDE, a
completion, contributions added, held and refused, and a CREDE that closes its issuer. -/
def Obligations.CopiesRun : Prop :=
  ∀ (s : State), let c := s.cur
    let r := s.cur.ref
    let vf := s.vfOf s.cur.slot
    (∀ (e : CopyEntry) (rest : List CopyEntry), c.kind = .ce → c.phase = .ready ∨ c.phase = .waiting → c.faults.length < 16 → s.running c.slot = true → SlotFree s →
      (∀ z ∈ c.copyq, z.left = []) → c.copyq.dropWhile CopyEntry.issued = e :: rest → c.copyq.find? (fun z => decide (z.id = e.id)) = some e →
      e.rel = none → e.begun = false →
      (e.op = .crede → exec (.copyBegin r) s = .next (s.setCur (fun c => c.setCopy { e with begun := true, creding := List.range 8 }))) ∧
      (∀ (x : CopyElem) (va wa : Nat) (p q : PageInfo) (f g : Option PageInfo), e.op = .cpy → e.todo = [x] → x.src = some va → x.dst = some wa →
        x.n = tplEs e.tpl → s.copySide vf (e.srcRule x va) e.sp va = (.ok p, f) → s.copySide vf (e.dstRule x wa) e.dp wa = (.ok q, g) →
        p.remote = none → q.remote = none → p.ord ≠ .so → q.ord ≠ .so → p.zeroTail va = false → q.zeroTail wa = false → c.pend = [] →
        let bs := (s.readUnit c s.nextId [⟨p.pa, x.n, p⟩]).2
        ∃ t, exec (.copyBegin r) s = .next t ∧ t.mem = s.mem ∧
          t.hold = s.hold ++ [{ StoreRec.new s.nextId r (s.locOf c) q.pa bs q with also := [(r, e.id)], copy := true, va := BitVec.ofNat 64 wa }] ∧
          t.cur.copyq = c.copyq.map (fun z => if z.id = e.id then
            { e with begun := true, todo := [], upto := max e.upto x.stretchEnd, sp := f, dp := g, missing := [], since := none } else z)) ∧
      (∀ (x : CopyElem) (wa : Nat) (q : PageInfo) (g : Option PageInfo), e.op = .czero → e.todo = [x] → x.src = none → x.dst = some wa → x.n = 0 → x.w = 32 →
        s.copySide vf (e.dstRule x wa) e.dp wa = (.ok q, g) → q.remote = none → q.ord ≠ .so → q.zeroTail wa = false → c.pend = [] →
        ∃ t, exec (.copyBegin r) s = .next t ∧ t.mem = s.mem ∧
          t.hold = s.hold ++ [{ StoreRec.new s.nextId r (s.locOf c) q.pa (List.replicate 32 0) q with
            also := [(r, e.id)], copy := true, va := BitVec.ofNat 64 wa }])) ∧
    (∀ (e : CopyEntry) (rest : List CopyEntry), c.copyq = e :: rest → e.op ≠ .cpyt → e.op ≠ .cfence → e.note = false → e.begun = true → e.todo = [] →
      e.moreRows = false → e.left = [] → e.contribs = [] → e.creding = [] → e.closing = [] → s.storesAt e.id .dev = true →
      exec (.copyComplete r) s = .next (s.setCur (fun c => { c with
        copyq := c.copyq.filter (fun x => decide (x.id ≠ e.id)), fcsr := putEnv c.fcsr ⟨s.rmode, s.seedAt 0, e.flags⟩ }))) ∧
    (∀ (k : Nat) (i : Instr) (e : CopyEntry) (x : Contrib) (bf det : Bool), s.copyLive c = true → c.nextContrib k = some (e, x) → e.op = .cred bf det →
      (i = .contributionArrival k r ∧ e.refused.any (fun p => p.1 = k) = false) ∨ (i = .refusedRetry k r ∧ e.refused.any (fun p => p.1 = k && decide (p.2 + 64 ≤ s.cycle)) = true) →
      s.ownStoreBefore r x (if bf then 2 else 4) = false → s.poisoned x.pa = false →
      let n := if bf then 2 else 4
      let f := if bf then Fmt.bf16 else .f32
      let new := natBytes (addRne f (leNat (bytesFrom s.lastByte x.pa n)) x.value) n
      let taken := c.copyq.map (fun z => if z.id = e.id then e.accepted x else z)
      let ix := tplIdx e.tpl
      (det = false ∨ (∃ q, det = true ∧ s.openRound k vf (tplRound e.tpl) (tplNim1 e.tpl) = some q ∧ q.nim1 = tplNim1 e.tpl ∧ ix ∉ q.closed ∧
          ix = q.lowest ∧ q.mayHandle ix s.cycle = true) →
        s.winzeReady vf x.pa n = true → Tbl.get? s.dortas.captures vf = none → Tbl.get? s.replays vf = none →
        ∃ t, exec i s = .next t ∧ bytesFrom t.lastByte x.pa n = new ∧ t.cur.copyq = taken ∧
          (∀ a, ¬(x.pa ≤ a ∧ a < x.pa + n) → t.lastByte a = s.lastByte a)) ∧
      (∀ q, det = true → s.openRound k vf (tplRound e.tpl) (tplNim1 e.tpl) = some q → q.nim1 = tplNim1 e.tpl → ix ∉ q.closed → ix ≠ q.lowest →
        (q.mayHandle ix s.cycle = false → exec i s = .next s) ∧
        (q.mayHandle ix s.cycle = true → q.serial = false → q.held.length < 16 → ∃ t, exec i s = .next t ∧ t.mem = s.mem ∧ t.coh = s.coh ∧ t.cur.copyq = taken ∧
          t.round? k vf (tplRound e.tpl) = some { q with held := q.held ++ [⟨ix, r, x.pa, bf, x.ckpt, x.value⟩], turn := (s.cycle + 1, ix) }) ∧
        (q.mayHandle ix s.cycle = true → q.serial = true ∨ 16 ≤ q.held.length → ∃ t, exec i s = .next t ∧ t.mem = s.mem ∧ t.coh = s.coh ∧
          t.round? k vf (tplRound e.tpl) = some { q with serial := true, turn := (s.cycle + 1, ix) } ∧
          ∃ z ∈ t.cur.copyq, z.id = e.id ∧ z.contribs = e.contribs ∧ (k, s.cycle) ∈ z.refused))) ∧
    (∀ (k : Nat) (e : CopyEntry) (q : Round), s.copyLive c = true → c.copyq.find? (fun e => decide (e.op = .crede) && e.creding.contains k) = some e →
      let num := fieldN e.x 7 0
      let idx := fieldN e.x 13 8
      s.contribsBefore r e k = false → s.openRound k vf num (fieldN e.x 21 16) = some q → q.nim1 = fieldN e.x 21 16 → idx ∉ q.closed → idx ≤ q.nim1 →
      q.mayHandle idx s.cycle = true → s.credeWaits q idx = [] →
      ∃ t, exec (.credeArrival k r) s = .next t ∧
        ((∀ j, j ≤ q.nim1 → j = idx ∨ j ∈ q.closed) → t.round? k vf num = none) ∧
        ((∃ j, j ≤ q.nim1 ∧ j ≠ idx ∧ j ∉ q.closed) → ∃ q', t.round? k vf num = some q' ∧ q'.closed = q.closed ++ [idx]))

/-! ## The Hearth (R163, R164, R215 to R249) -/

namespace Sys2Proof.Machine

/-- The instructions of the private majors of a Hearth engine (R18). -/
def isHearth (i : Instr) : Bool :=
  match i with
  | .hadmitA _ | .hadmitS _ | .hadmitG _ | .hadmitU _ | .hdrop _ | .hload _ | .hstore _ | .hspill _ | .hfill _ | .hwset _ | .hzero _ | .hhad _ | .hsetk _
  | .hmesh _ | .hcfg _ | .hbind _ | .hver _ | .hfreeze _ | .hthaw _ | .hdrain => true
  | _ => false

/-- The instruction counted towards the run under the lease (R164). -/
def State.heIn (s : State) : State :=
  ((s.hearth s.cur.engine).leaseGrps.foldl (fun t x => t.setHearth x { t.hearth x with runCount := (t.hearth x).runCount + 1 }) s).setCur
    (fun c => { c with leaseLost := false, heAt := some c.pc })

/-- The lease check of the current word has passed; g leads the Hearth or sheet (R164, R238). -/
def HeReady (s : State) (g : Nat) : Prop := s.cur.heAt = some s.cur.pc ∧ g = s.leadOf s.cur.engine

/-- A Hearth instruction is complete: what it has read ahead is given up (R289, R358). -/
def State.heDone (s : State) : State := s.setCur (fun c => ({ c.setStaged none with heAt := none } : Context).nextSeq)

/-- A Hearth instruction raises a fault. -/
def State.heFault (s : State) (code detail : BitVec 8) (eval : Word) : Host.Outcome State Fault Refusal :=
  .next ((s.setCur (fun c => c.setStaged none)).takeFault s.cur.ref ⟨code, detail, eval, false⟩ s.cur.pc)

/-- An instruction joins its peel's queue under the next number. -/
def State.peelPut (s : State) (g : Nat) (op : PeelOp) : State :=
  let o := { op with seq := s.nextId }
  ({ s with nextId := s.nextId + 1 } : State).setHearth g
    (if op.kind = .g then { s.hearth g with south := (s.hearth g).south ++ [o] } else { s.hearth g with west := (s.hearth g).west ++ [o] })

/-- The bytes of an image, sector by sector, and the reading of it counted (R183, R289); an image written run by run (R206). -/
def seenBytes (s : State) (rs : List (Nat × Nat × PageInfo)) : List Byte := (s.readSectors s.cur (heSectors rs).zipIdx).2
def State.readCounted (s : State) (rs : List (Nat × Nat × PageInfo)) : State :=
  rs.foldl (fun t r => t.meterBytes t.cur.slot false r.2.2.pa r.2.1) (s.readSectors s.cur (heSectors rs).zipIdx).1
def State.imageWritten (s : State) : List (Nat × Nat × PageInfo) → List Byte → State
  | [], _ => s
  | r :: rest, bs => State.imageWritten (s.writeThrough s.cur.ref (s.locOf s.cur) r.2.2 r.2.2.pa (bs.take r.2.1) .dev) rest (bs.drop r.2.1)

/-- The shape of a sheet within the device's grid of 4 by 8 tiles (R238). -/
def ShapeOk (k : Sheet) : Prop := 1 ≤ k.h ∧ k.h ≤ 8 ∧ 1 ≤ k.w ∧ k.w ≤ 4

/-- The image of n bytes at x is aligned and passes R206's checks, every page there; `rs` are its runs by page, each with its translation. Nothing of
it has been read ahead. -/
def SpanOk (s : State) (x : Word) (n align : Nat) (rights : BitVec 3) (fmts : List Nat) (rs : List (Nat × Nat × PageInfo)) : Prop :=
  x.toNat % align = 0 ∧ SlotFree s ∧ (∀ y ∈ s.cur.staging, y.1 ≠ s.cur.pc) ∧ rs.map (fun r => (r.1, r.2.1)) = pageRuns (n / 65536 + 2) x.toNat n ∧
  ∃ p0 : PageInfo, p0.fmt.toNat ∈ fmts ∧ ∀ r ∈ rs,
    (∃ ipa e1, stage1 s (s.vfOf s.cur.slot) (BitVec.ofNat 64 r.1) rights = .ok (ipa, e1) ∧
      (pageOf e1).ord = p0.ord ∧ (pageOf e1).cohr = p0.cohr ∧ (pageOf e1).fmt = p0.fmt ∧ (pageOf e1).blk = p0.blk) ∧
    translateFull s (s.vfOf s.cur.slot) (BitVec.ofNat 64 r.1) rights = .ok r.2.2 ∧ IsMemory s r.2.2.pa ∧ r.2.2.remote = none

/-- Nothing of the context's own stands before its reads of an image (R239). -/
def OwnDone (s : State) : Prop := s.ownUnperformed s.cur true .dev = []

/-- Nothing stands before a write of an image: no acquire, no own access to its bytes, on SO pages no earlier SO access, no store before it that is
short of dev (R144, R148, R281, R288). -/
def WriteFree (s : State) (rs : List (Nat × Nat × PageInfo)) : Prop :=
  NoAcquire s ∧ s.heBefore (heSectors rs) = [] ∧ ((∀ p ∈ heSectors rs, p.page.ord ≠ .so) ∨ s.soIds s.cur = []) ∧ s.ahead (s.locOf s.cur) (heSectors rs) .dev = []

end Sys2Proof.Machine

/-- R222: each admission joins its peel's queue with its kind, count, tag base and options; its checks; the wait for room. -/
def Obligations.HearthAdmissions : Prop :=
  (∀ (sa sb : BitVec 5) (s : State) (g : Nat), HeReady s g → (s.hearth g).frozen = false → s.cur.isFull sa = true → s.cur.isFull sb = true →
    let x := s.cur.getS sa
    let y := s.cur.getS sb
    let put (k : WaveKind) (opt : WaveOpt) : PeelOp := ⟨k, x.toNat, y.setWidth 16, opt, 0, 0, s.cur.ref, [], 0⟩
    ∀ (i : Instr) (k : WaveKind) (opt : WaveOpt), ((∃ o : HAdmA, i = .hadmitA o ∧ o.sa = sa ∧ o.sb = sb ∧ k = .a ∧ opt = ⟨o.ns, o.seed, o.rot, o.rb.toNat, false⟩) ∨
        (∃ o : H2, i = .hadmitS o ∧ o.sa = sa ∧ o.sb = sb ∧ k = .s ∧ opt = ⟨false, false, false, 0, false⟩) ∨
        (∃ o : HAdmG, i = .hadmitG o ∧ o.sa = sa ∧ o.sb = sb ∧ k = .g ∧ opt = ⟨false, o.seed, false, 0, o.dx⟩)) →
      let shape : Prop := x.toNat % 16 = 0 ∧ 16 ≤ x.toNat ∧ x.toNat ≤ 512 ∧ opt.rb * (s.hearth g).hord < 64
      let n := if k = .g then (s.hearth g).south.length else (s.hearth g).west.length
      let bad : Prop := 2 ^ 16 ≤ y.toNat ∨ (opt.rot = true ∧ opt.ns = false)
      (¬bad → shape → n < 8 → exec i s = .next (s.peelPut g (put k opt)).heDone) ∧
      (¬bad → shape → 8 ≤ n → exec i s = .next (s.enterWait (.peelRoom g (decide (k ≠ .g))))) ∧
      (¬bad → ¬(x.toNat % 16 = 0 ∧ 16 ≤ x.toNat ∧ x.toNat ≤ 512) → exec i s = s.heFault Code.hearthShape 0 x) ∧
      (¬bad → x.toNat % 16 = 0 → 16 ≤ x.toNat → x.toNat ≤ 512 → 64 ≤ opt.rb * (s.hearth g).hord →
        exec i s = s.heFault Code.hearthShape 0 0) ∧
      (bad → exec i s = s.heFault Code.reservedField 0 y)) ∧
  (∀ (x : Bool) (s : State) (g : Nat), HeReady s g → (s.hearth g).frozen = false → (s.hearth g).west.length < 8 →
    exec (.hadmitU x) s = .next (s.peelPut g ⟨if x then .ux else .u, 1, 0, ⟨false, false, false, 0, false⟩, 0, 0, s.cur.ref, [], 0⟩).heDone)

/-- R234, R237, R240, R242: HSETK, HZERO, HHAD and HDROP set in every member what they name, and nothing else of a cell. R236: HVER's selectors, its
landing 16 cycles after issue, and the clearing of HSTAT. -/
def Obligations.HearthRegisters : Prop :=
  (∀ (s : State) (g : Nat), HeReady s g →
     (∀ o : H1F, s.cur.isFull o.sa = true → (s.hearth g).frozen = false → (s.cur.getS o.sa).toNat < 2 ^ 32 →
       exec (.hsetk o) s = .next (s.updHearths (s.members g) (fun h => { h with hk := h.hk.set o.f.toNat ((s.cur.getS o.sa).setWidth 32) o.f.isLt })).heDone) ∧
     (∀ opt : BitVec 5, s.isQuiet g = true ∨ ((s.hearth g).frozen = true ∧ opt = 31) → (∀ m ∈ s.members g, ((s.hearth m).cells.map (·.1)).Nodup) →
       ∃ t, exec (.hzero opt) s = .next t ∧ t.cur = s.heDone.cur ∧ t.mem = s.mem ∧ ∀ m ∈ s.members g,
         let a := s.hearth m
         let b := t.hearth m
         (∀ i j, b.cell i j = { w := if opt.getLsbD 3 then 0 else (a.cell i j).w, c := if opt.getLsbD 3 then 0 else (a.cell i j).c
                                cp := if opt.getLsbD 3 then 0 else (a.cell i j).cp, g := if opt.getLsbD 0 then 0 else (a.cell i j).g
                                m := if opt.getLsbD 1 then 0 else (a.cell i j).m, v := if opt.getLsbD 4 then 0 else (a.cell i j).v }) ∧
         b.vw = (if opt.getLsbD 4 then 0 else a.vw) ∧ (opt.getLsbD 2 = true → ∀ k, b.slotRec k = ⟨0, 0, .free, 0⟩) ∧
         b.cfg = a.cfg ∧ b.hk = a.hk ∧ b.hstat = a.hstat ∧ b.hord = a.hord ∧ b.signs = a.signs ∧ b.sseed = a.sseed ∧ b.wseed = a.wseed ∧
         ((s.hearth g).frozen = true → b.frozen = false ∧ b.waves = [] ∧ b.west = [] ∧ b.south = [])) ∧
     (∀ n : BitVec 2, n.toNat < 3 → s.isQuiet g = true → ∃ t, exec (.hhad n) s = .next t ∧ t.cur = s.heDone.cur ∧ t.mem = s.mem ∧ ∀ m ∈ s.members g,
       let k := 16 * 2 ^ n.toNat
       (t.hearth m).hord = k ∧ (t.hearth m).cells = (s.hearth m).cells ∧
       ∀ i j, i < 64 → j < 1024 → ((Tbl.get? (t.hearth m).signs i).getD 0).getLsbD j =
         (decide (j < k) && decide (((List.range 6).filter (fun b => i.testBit b && j.testBit b && decide (2 ^ b < k))).length % 2 = 1))) ∧
     (∀ o : H1, s.cur.isFull o.sa = true → (s.hearth g).frozen = false → (s.cur.getS o.sa).toNat < 2 ^ 16 →
       (∀ k, k < 16 → (s.cur.getS o.sa).getLsbD k = true → s.slotIdle g k = true) →
       ∃ t, exec (.hdrop o) s = .next t ∧ t.cur = s.heDone.cur ∧ t.mem = s.mem ∧ ∀ m ∈ s.members g, ∀ k, k < 16 →
         (t.hearth m).slotRec k = (if (s.cur.getS o.sa).getLsbD k then { (s.hearth m).slotRec k with st := .free } else (s.hearth m).slotRec k)) ∧
     (∀ (o : H1) (k : Nat), s.cur.isFull o.sa = true → (s.hearth g).frozen = false → s.cur.getS o.sa = BitVec.ofNat 64 (2 ^ k) → k < 16 → s.slotIdle g k = false →
       exec (.hdrop o) s = .next (s.enterWait (.stashIdle g k)))) ∧
  (∀ (o : HVerF) (s : State) (g : Nat), HeReady s g → s.cur.isFull o.sa = true → s.cur.isFull o.sb = true → o.sa ≠ 0 →
     let y := (s.cur.getS o.sb).toNat
     let h := s.hearth g
     let flight := h.waves.filter (fun w => w.inFlight (s.sheetAt g) h.acyc)
     (y = 0 ∨ y = 1 ∨ y = 4 ∨ y = 5 ∨ (16 ≤ y ∧ y ≤ 31) →
       ∃ v : Word, exec (.hver o) s = .next ({ ((if y = 5 then s.setHearth g { h with hstat := 0 } else s).setCur (fun c =>
           ({ ((({ c with pend := c.pend ++ [⟨s.nextId, .s o.sa, s.cycle + 16, .value v, none⟩] } : Context).empty o.sa).setStaged none) with
             heAt := none } : Context).nextSeq)) with
           nextId := s.nextId + 1 } : State) ∧
         (y = 0 → h.west.length ≤ 8 → h.south.length ≤ 8 → v.extractLsb' 0 8 = h.vw ∧ (v.getLsbD 32 = h.frozen) ∧ (v.getLsbD 33 = s.isQuiet g) ∧
           (v.extractLsb' 8 8).toNat = min 255 (flight.filter (fun w => decide (w.kind ≠ .g))).length ∧
           (v.extractLsb' 16 8).toNat = min 255 (flight.filter (fun w => decide (w.kind = .g))).length ∧
           (v.extractLsb' 24 4).toNat = h.west.length ∧ (v.extractLsb' 28 4).toNat = h.south.length) ∧
         (y = 1 → ∀ k, k < 16 → v.extractLsb' (2 * k) 2 = match (h.slotRec k).st with | .free => 0 | .writing => 1 | .valid => 2 | .reading => 3) ∧
         (y = 4 ∨ y = 5 → v = h.hstat.setWidth 64) ∧
         (16 ≤ y → v.extractLsb' 0 16 = (h.slotRec (y - 16)).tag ∧ v.extractLsb' 16 8 = (h.slotRec (y - 16)).ver ∧
           v.getLsbD 26 = h.south.any (fun q => !q.opt.dx && q.names (y - 16)))) ∧
     (¬(y = 0 ∨ y = 1 ∨ y = 4 ∨ y = 5 ∨ (16 ≤ y ∧ y ≤ 31)) → exec (.hver o) s = s.heFault Code.reservedField 0 (s.cur.getS o.sb)))

/-- R239, R241, R243: HLOAD, HSTORE, HWSET, HSPILL and HFILL of an image that passes the checks complete, and move cell state and spill records between
the Hearth and memory. -/
def Obligations.HearthMemory : Prop :=
  ∀ (s : State) (g : Nat), HeReady s g → (s.hearth g).frozen = false → ShapeOk (s.sheetAt g) →
    let k := s.sheetAt g
    let n := k.rows * k.cols
    (∀ (o : H1F) (rs : List (Nat × Nat × PageInfo)), s.cur.isFull o.sa = true → o.f.toNat < 3 → s.isQuiet g = true →
      (SpanOk s (s.cur.getS o.sa) (4 * n) 64 1 [0, 1] rs → OwnDone s →
        let bs := seenBytes s rs
        ∃ t, exec (.hload o) s = .next t ∧ t.cur = s.heDone.cur ∧ t.mem = s.mem ∧
          ((∀ m ∈ s.members g, (s.hearth m).cells.Pairwise (fun a b => a.1 < b.1)) → ∀ i j, i < k.rows → j < k.cols →
            let a := (s.hearth (k.member i j)).cell (i % 64) (j % 1024)
            let b := (t.hearth (k.member i j)).cell (i % 64) (j % 1024)
            let x := BitVec.ofNat 32 (leNat ((bs.drop (4 * (i * k.cols + j))).take 4))
            (o.f = 0 → b.w = x ∧ b.m = a.m ∧ b.g = a.g ∧ b.v = a.v ∧ b.cp = b.c ∧
              (cfgCfmt (s.hearth (k.member i j)).cfg < 6 → b.c = BitVec.ofNat 16 (roundC (cfgCfmt (s.hearth (k.member i j)).cfg) x).1)) ∧
            (o.f = 1 → b = { a with m := x }) ∧ (o.f = 2 → b = { a with g := x }))) ∧
      (SpanOk s (s.cur.getS o.sa) (4 * n) 64 2 [0, 1] rs → WriteFree s rs →
        exec (.hstore o) s = .next (s.imageWritten rs ((List.range k.rows).flatMap (fun i => (List.range k.cols).flatMap (fun j =>
          let a := (s.hearth (k.member i j)).cell (i % 64) (j % 1024)
          natBytes (if o.f = 0 then a.w else if o.f = 1 then a.m else a.g).toNat 4)))).heDone)) ∧
    (∀ (o : H1) (rs : List (Nat × Nat × PageInfo)), s.cur.isFull o.sa = true → OwnDone s → (s.hearth g).west.length < 8 →
      (SpanOk s (s.cur.getS o.sa) (4 * n) 64 1 [0, 1] rs →
        exec (.hwset o) s = .next ((s.readCounted rs).peelPut g ⟨.hwset, 1, 0, ⟨false, false, false, 0, false⟩, 0, 0, s.cur.ref,
          (List.range n).map (fun e => leNat (((seenBytes s rs).drop (4 * e)).take 4)), 0⟩).heDone) ∧
      (SpanOk s (s.cur.getS o.sa) 256 256 1 [0] rs →
        let bs := seenBytes s rs
        let byte (e : Nat) : Byte := bs.getD e 0
        let badRec : Prop := 2 ≤ (byte 131).toNat ∨ (∃ e, 132 ≤ e ∧ byte e ≠ 0) ∨ ((byte 131).getLsbD 0 ≠ (s.hearth g).cfg.getLsbD 17)
        (badRec → exec (.hfill o) s = s.heFault Code.reservedField 0 (s.cur.getS o.sa)) ∧
        (¬badRec → ∃ (t : State) (p : PeelOp), exec (.hfill o) s = .next t ∧ t.cur = s.heDone.cur ∧ t.mem = s.mem ∧ (t.hearth g).west = (s.hearth g).west ++ [p] ∧
          p.kind = .hfill ∧ p.n = 1 ∧ p.base = byte 129 ++ byte 128 ∧ p.ver = byte 130 ∧ p.by_ = s.cur.ref ∧
          p.image.take 64 = (List.range 64).map (fun i => leNat ((bs.drop (2 * i)).take 2))))) ∧
    (∀ (o : H2) (rs : List (Nat × Nat × PageInfo)), s.cur.isFull o.sa = true → s.cur.isFull o.sb = true → (s.cur.getS o.sb).toNat < 16 →
      SpanOk s (s.cur.getS o.sa) 256 256 2 [0] rs →
      let h := s.hearth g
      let i := (s.cur.getS o.sb).toNat
      let r := h.slotRec i
      (s.slotIdle g i = false → exec (.hspill o) s = .next (s.enterWait (.stashIdle g i))) ∧
      (s.slotIdle g i = true → r.st = .free → exec (.hspill o) s = s.heFault Code.hearthStashInvalid (BitVec.ofNat 8 i) 0) ∧
      (s.slotIdle g i = true → r.st ≠ .free → WriteFree s rs →
        exec (.hspill o) s = .next ((s.imageWritten rs ((List.range 64).flatMap (fun e => natBytes (h.stashWord i e).toNat 2) ++ natBytes r.tag.toNat 2 ++
          [r.ver, if h.cfg.getLsbD 17 then 1 else 0] ++ List.replicate 124 0)).setRecs g i (fun r => { r with st := .free })).heDone))

/-- R163, R164, R245: under the lease a Hearth instruction counts towards the run and goes on; a lease that has passed raises LEASE_LOST, also where it is
held again, and a missing one raises it once and then makes the context wait while its reclaim stands. A quiescent Hearth lets HDRAIN complete, a busy
one makes it wait. R221, R238, R244: HCFG, HMESH and HBIND. -/
def Obligations.HearthLeaseAndShapes : Prop :=
  ((∀ (i : Instr) (s : State), isHearth i = true → s.cur.heAt ≠ some s.cur.pc → s.runOver s.cur.engine = false →
     (s.cur.leasePassed = true → exec i s =
       .next ((s.setCur (fun c => { c with leasePassed := false, leaseLost := true })).takeFault s.cur.ref ⟨Code.leaseLost, 0, 0, false⟩ s.cur.pc)) ∧
     (s.cur.leasePassed = false → (s.hearth s.cur.engine).holder = some s.cur.slot → exec i s = exec i s.heIn) ∧
     (s.cur.leasePassed = false → (s.hearth s.cur.engine).holder ≠ some s.cur.slot →
       let back : Prop := ∃ r ∈ s.leaseQ, r.slot = s.cur.slot ∧ s.cur.engine ∈ r.grps
       (¬(s.cur.leaseLost = true ∧ back) →
         exec i s = .next ((s.setCur (fun c => { c with leaseLost := true })).takeFault s.cur.ref ⟨Code.leaseLost, 0, 0, false⟩ s.cur.pc)) ∧
       (s.cur.leaseLost = true → back → exec i s = .next (s.enterWait (.lease s.cur.engine))))) ∧
   (∀ (s : State) (g : Nat), HeReady s g → (s.hearth g).frozen = false →
     (s.isQuiet g = true → exec .hdrain s = .next s.heDone) ∧ (s.isQuiet g = false → exec .hdrain s = .next (s.enterWait (.quiescent g)))) ∧
   (∀ (i : Instr) (s : State) (g : Nat), i ∈ [Instr.hdrain, .hadmitU false, .hadmitU true, .hhad 0, .hhad 1, .hhad 2] → HeReady s g → (s.hearth g).frozen = true →
     exec i s = s.heFault 0x01 12 0)) ∧
  (∀ (s : State) (g : Nat), HeReady s g → s.isQuiet g = true →
     (∀ o : H2, s.cur.isFull o.sa = true → s.cur.isFull o.sb = true →
       let x := s.cur.getS o.sa
       let y := s.cur.getS o.sb
       (cfgBad x = true → exec (.hcfg o) s = s.heFault Code.reservedField 0 x) ∧
       (cfgBad x = false → (∃ m ∈ s.members g, ∃ b ∈ (s.hearth m).binds, ∃ t, Tbl.get? s.troughs b.2 = some t ∧ t.slotBytes < edgeBytes x b.1) →
         exec (.hcfg o) s = s.heFault Code.hearthShape 0 x) ∧
       (cfgBad x = false → (∀ m ∈ s.members g, ∀ b ∈ (s.hearth m).binds, ∀ t, Tbl.get? s.troughs b.2 = some t → edgeBytes x b.1 ≤ t.slotBytes) →
         (∀ m ∈ s.members g, (s.hearth m).cells.Pairwise (fun a b => a.1 < b.1)) →
         ∃ t, exec (.hcfg o) s = .next t ∧ t.cur = s.heDone.cur ∧ t.mem = s.mem ∧ ∀ m ∈ s.members g,
           let a := s.hearth m
           let b := t.hearth m
           let seed (z : BitVec 32) : BitVec 32 := if z = 0 then 0x9E3779B9 else z
           b.cfg = x ∧ b.sseed = seed (y.extractLsb' 0 32) ∧ b.wseed = seed (y.extractLsb' 32 32) ∧ b.vw = a.vw ∧
           (fieldN a.cfg 16 12 = fieldN x 16 12 → b.cells = a.cells) ∧
           (fieldN a.cfg 16 12 ≠ fieldN x 16 12 → ∀ i j, (b.cell i j).w = (a.cell i j).w ∧ (b.cell i j).v = (a.cell i j).v ∧ (b.cell i j).cp = (b.cell i j).c ∧
             (fieldN x 15 12 < 6 → (b.cell i j).c = BitVec.ofNat 16 (roundC (fieldN x 15 12) (a.cell i j).w).1)))) ∧
     (∀ o : H1, s.cur.isFull o.sa = true →
       let x := s.cur.getS o.sa
       let hh := fieldN x 4 2 + 1
       let ww := fieldN x 1 0 + 1
       let ms := (List.range hh).flatMap (fun r => (List.range ww).map (fun c => g + 4 * r + c))
       (x = 0 → exec (.hmesh o) s = .next (s.updHearths (s.members g) (fun h => { h with sheet := none })).heDone) ∧
       (x ≠ 0 → x.toNat < 32 → (8 < g / 4 + hh ∨ 4 < g % 4 + ww) →
         exec (.hmesh o) s = s.heFault Code.hearthShape 0 x) ∧
       (x ≠ 0 → x.toNat < 32 → g / 4 + hh ≤ 8 → g % 4 + ww ≤ 4 → (∀ m ∈ ms, (s.hearth m).sheet = none) → (∀ m ∈ ms, ∃ sl, s.slotOf s.cur = some sl ∧ sl.hmask.getLsbD m = true) →
         (∀ m ∈ ms, (s.hearth m).holder = some s.cur.slot) → (∀ m ∈ ms, s.isQuiet m = true) →
         ∃ t, exec (.hmesh o) s = .next t ∧ t.cur = s.heDone.cur ∧ t.mem = s.mem ∧ ∀ m ∈ ms,
           t.hearth m = { s.hearth m with sheet := some (g, hh, ww), cfg := (s.hearth g).cfg, hk := (s.hearth g).hk, vw := (s.hearth g).vw
                                          hord := (s.hearth g).hord, signs := (s.hearth g).signs })) ∧
     (∀ (o : H1) (t : Trough), s.cur.isFull o.sa = true →
       let x := s.cur.getS o.sa
       let edge := fieldN x 2 0
       let m := g + 4 * (fieldN x 12 8 / 4) + fieldN x 12 8 % 4
       let i := x.extractLsb' 16 8
       let key := troughKey (s.homeGrp s.cur.slot) (fieldN s.cur.wtro 15 0 + i.toNat)
       x.extractLsb' 24 39 = 0 → fieldN x 15 13 = 0 → fieldN x 7 3 = 0 → edge < 6 →
       (s.edgeRoute m edge ≠ none → exec (.hbind o) s = s.heFault 0x01 9 0) ∧
       (s.edgeRoute m edge = none → fieldN x 12 8 / 4 < (s.sheetAt g).h → fieldN x 12 8 % 4 < (s.sheetAt g).w →
         (x.getLsbD 63 = true → exec (.hbind o) s = .next (s.setHearth m { s.hearth m with binds := Tbl.del (s.hearth m).binds edge }).heDone) ∧
         (x.getLsbD 63 = false → i.toNat < fieldN s.cur.wtro 40 32 → Tbl.get? s.troughs key = some t → (t.dev = true ∨ m = s.homeGrp s.cur.slot) →
           (edgeBytes (s.hearth m).cfg edge ≤ t.slotBytes →
             exec (.hbind o) s = .next (s.setHearth m { s.hearth m with binds := Tbl.set (s.hearth m).binds edge key }).heDone) ∧
           (t.slotBytes < edgeBytes (s.hearth m).cfg edge → exec (.hbind o) s = s.heFault Code.hearthShape 0 x)))))

namespace Sys2Proof.Machine

/-- Bytes [off, off + n) of a run. -/
def part (bs : List Byte) (off n : Nat) : List Byte := (bs.drop off).take n

/-- An image that a sheet of h by w may thaw (R247, R248). -/
def ImageOk (h w : Nat) (bs : List Byte) : Prop :=
  leNat (part bs 0 4) = 0x5A524648 ∧ leNat (part bs 4 2) = 1 ∧ leNat (part bs 7 1) = h * w ∧ leNat (part bs 31 1) = 4 * (h - 1) + (w - 1) ∧
  leNat (part bs 36 4) = (crc32 (bs.take 36 ++ [0, 0, 0, 0] ++ bs.drop 40)).toNat

/-- A peel may act on its head: not frozen, the array's clock on, fewer than 16 peel faults held (R217, R232, R246). -/
def PeelRuns (s : State) (g : Nat) : Prop := (s.hearth g).frozen = false ∧ s.arrayStall g = false ∧ s.peelHeld g < 16

/-- A peel fault held by its issuer (R232). -/
def State.withPeelFault (s : State) (code : BitVec 8) (detail edge : Nat) (tag : BitVec 16) : State :=
  s.setCur (fun c => { c with faults := c.faults ++ [⟨code, BitVec.ofNat 8 detail, BitVec.ofNat 64 (edge * 65536 + tag.toNat), false⟩] })

/-- A slot of the stash is FREE, or VALID, and was so before this array cycle (R300). -/
def SlotIs (s : State) (g n : Nat) (x : StashState) : Prop := ((s.hearth g).slotRec n).st = x ∧ ((s.hearth g).slotRec n).at_ ≠ (s.hearth g).acyc + 1

/-- What both peels do in this array cycle is fixed as the first of them moves (R300). -/
def State.planned (s : State) (g : Nat) : State :=
  if s.peelsIdle g then s else s.setHearth g { s.hearth g with plan := some ((s.hearth g).acyc, s.peelPlan g) }

end Sys2Proof.Machine

/-- R246, R248, R249, R289: HFREEZE stops every member and writes one image a member; HTHAW refuses images that do not fit, else loads every part, keeping
bindings, sheet and lease. R247: the layout of a freeze image: header, CRC, stash and cell records. -/
def Obligations.FreezeAndThaw : Prop :=
  (∀ (s : State) (g : Nat) (o : H1) (rs : List (Nat × Nat × PageInfo)), HeReady s g → ShapeOk (s.sheetAt g) → s.cur.isFull o.sa = true →
     let k := s.sheetAt g
     let size := 3 * 2 ^ 20
     ((s.hearth g).frozen = false → SpanOk s (s.cur.getS o.sa) (size * (k.h * k.w)) 4096 2 [0] rs → WriteFree s rs →
       exec (.hfreeze o) s = .next ((s.freeze g).1.imageWritten rs (s.freeze g).2).heDone ∧
       (∀ m ∈ s.members g, (s.freeze g).1.hearth m = { s.hearth m with frozen := true }) ∧ (s.freeze g).1.mem = s.mem ∧ (s.freeze g).1.cur = s.cur) ∧
     (s.isQuiet g = true ∨ (s.hearth g).frozen = true → SpanOk s (s.cur.getS o.sa) (size * (k.h * k.w)) 4096 1 [0] rs → OwnDone s →
       let img (p : Nat) : List Byte := part (seenBytes s rs) (size * p) size
       ((∃ p, p < k.h * k.w ∧ ¬ImageOk k.h k.w (img p)) →
         exec (.hthaw o) s = s.heFault Code.reservedField 0 (s.cur.getS o.sa)) ∧
       ((∀ p, p < k.h * k.w → ImageOk k.h k.w (img p)) →
         ∃ t, exec (.hthaw o) s = .next t ∧ t.cur = s.heDone.cur ∧ t.mem = s.mem ∧ ∀ r c, r < k.h → c < k.w →
           let b := t.hearth (g + 4 * r + c)
           let a := s.hearth (g + 4 * r + c)
           let im := img (r * k.w + c)
           b.frozen = false ∧ b.binds = a.binds ∧ b.sheet = a.sheet ∧ b.holder = a.holder ∧ b.cfg = BitVec.ofNat 64 (leNat (part im 8 8)) ∧
           b.sseed = BitVec.ofNat 32 (leNat (part im 16 4)) ∧ b.wseed = BitVec.ofNat 32 (leNat (part im 20 4)) ∧ b.vw = BitVec.ofNat 8 (leNat (part im 29 1)) ∧
           b.hstat = BitVec.ofNat 12 (leNat (part im 56 4)) ∧
           ∀ i j, i < 64 → j < 1024 →
             let at_ := 0x10000 + 17 * (1024 * i + j)
             b.cell i j = ⟨BitVec.ofNat 32 (leNat (part im at_ 4)), BitVec.ofNat 16 (leNat (part im (at_ + 12) 2)), BitVec.ofNat 16 (leNat (part im (at_ + 14) 2)),
               BitVec.ofNat 32 (leNat (part im (at_ + 8) 4)), BitVec.ofNat 32 (leNat (part im (at_ + 4) 4)), BitVec.ofNat 8 (leNat (part im (at_ + 16) 1))⟩))) ∧
  (∀ (s : State) (g r c : Nat), ShapeOk (s.sheetAt g) → r < (s.sheetAt g).h → c < (s.sheetAt g).w →
     let k := s.sheetAt g
     let size := 3 * 2 ^ 20
     let im := part (s.freeze g).2 (size * (r * k.w + c)) size
     let h := s.hearth (g + 4 * r + c)
     im.length = size ∧ ImageOk k.h k.w im ∧ part im 6 1 = [BitVec.ofNat 8 (4 * r + c)] ∧ part im 8 8 = natBytes h.cfg.toNat 8 ∧
     part im 16 4 = natBytes h.sseed.toNat 4 ∧ part im 20 4 = natBytes h.wseed.toNat 4 ∧ part im 29 1 = [h.vw] ∧
     (∀ n : Fin 4, part im (40 + 4 * n) 4 = natBytes h.hk[n].toNat 4) ∧ part im 56 4 = natBytes h.hstat.toNat 4 ∧
     (∀ e, 64 ≤ e → e < 4096 → im.getD e 0 = 0) ∧
     (∀ i t, i < 64 → t < 16 → part im (0x1000 + 32 * i + 2 * t) 2 = natBytes (h.stashWord t i).toNat 2) ∧
     (∀ i j, i < 64 → j < 1024 →
       let x := h.cell i j
       part im (0x10000 + 17 * (1024 * i + j)) 17 =
         natBytes x.w.toNat 4 ++ natBytes x.m.toNat 4 ++ natBytes x.g.toNat 4 ++ natBytes x.c.toNat 2 ++ natBytes x.cp.toNat 2 ++ [x.v]))

/-- R219, R227 to R231, R300: what the peels do with their head waves: admission with its stamp and stash record, holding, discarding with a peel fault,
the watchdog. What both do in an array cycle is fixed as the first of them moves, and a slot that changes in a cycle is seen changed in the next. -/
def Obligations.WaveAdmission : Prop :=
  ∀ (s : State) (g : Nat) (o : PeelOp) (rest : List PeelOp), ShapeOk (s.sheetAt g) → (∀ q ∈ rest, q.seq ≠ o.seq) →
    let h := s.hearth g
    let tag := o.base + BitVec.ofNat 16 o.k
    let slot := h.slotRec tag.toNat
    (h.west = o :: rest → ∀ v, h.plan = some (h.acyc, .hold, v) → exec (.waveAdmit g true) s = .next (s.planned g)) ∧
    ((∀ p, h.plan = some p → p.1 ≠ h.acyc) →
    (∀ west, h.west = [] → h.south = [] → exec (.waveAdmit g west) s = .next (s.planned g)) ∧
    (h.west = o :: rest →
      (o.kind = .a ∨ o.kind = .s → (o.kind = .s ∨ o.opt.ns = false) → ¬SlotIs s g tag.toNat .free → exec (.waveAdmit g true) s = .next (s.planned g)) ∧
      (o.kind = .a ∨ o.kind = .s → s.unitsIn g o = false → exec (.waveAdmit g true) s = .next (s.planned g)) ∧
      (o.kind = .a ∨ o.kind = .s → h.south = [] → PeelRuns s g → h.nextWest ≤ h.acyc → s.unitsIn g o = true →
        (SlotIs s g tag.toNat .free ∨ (o.kind = .a ∧ o.opt.ns = true)) →
        ∃ (t : State) (w : Wave), exec (.waveAdmit g true) s = .next t ∧ (t.hearth g).waves[h.waves.length]? = some w ∧ w.kind = o.kind ∧ w.tag = tag ∧
          w.stamp = h.vw ∧ w.start = h.acyc ∧ (t.hearth g).vw = h.vw ∧ (t.hearth g).nextWest = h.acyc + 1 ∧ t.mem = s.mem ∧ t.cur = s.cur ∧
          (o.kind = .s ∨ o.opt.ns = false → ∀ m ∈ s.members g, (t.hearth m).slotRec tag.toNat = ⟨tag, h.vw, .writing, 0⟩)) ∧
      (o.kind = .u ∨ o.kind = .hwset → h.south = [] → PeelRuns s g → h.nextWest ≤ h.acyc → h.cfg.getLsbD 19 = false →
        (s.gWaves g = [] → ∃ (t : State) (w : Wave), exec (.waveAdmit g true) s = .next t ∧ (t.hearth g).waves = h.waves ++ [w] ∧ w.kind = o.kind ∧ w.stamp = h.vw ∧
          w.hk = [h.hk[0], h.hk[1], h.hk[2]] ∧ (∀ m ∈ s.members g, (t.hearth m).vw = (s.hearth m).vw + 1) ∧
          (t.hearth g).nextWest = h.acyc + (if 6 ≤ cfgCfmt h.cfg then cfgB h.cfg + 2 else 3) ∧ t.mem = s.mem ∧ t.cur = s.cur) ∧
        (s.gWaves g ≠ [] → exec (.waveAdmit g true) s = .next (s.planned g)))) ∧
    (h.south = o :: rest → h.west = [] → o.kind = .g → o.opt.dx = false → h.nextSouth ≤ h.acyc → PeelRuns s g →
      let due : Prop := s.uInFlight g = 0 ∧ s.unitsIn g o = true
      let mine : Prop := SlotIs s g tag.toNat .valid ∧ slot.tag = tag
      (s.uInFlight g ≥ 2 ∨ s.unitsIn g o = false → exec (.waveAdmit g false) s = .next (s.planned g)) ∧
      (due → mine → (h.vw - slot.ver).toNat ≤ 1 → ∃ (t : State) (w : Wave), exec (.waveAdmit g false) s = .next t ∧
        (t.hearth g).waves[h.waves.length]? = some w ∧ w.kind = .g ∧ w.tag = tag ∧ w.stamp = slot.ver ∧ w.start = h.acyc ∧ t.mem = s.mem ∧ t.cur = s.cur ∧
        (t.hearth g).nextSouth = h.acyc + 1 ∧ ∀ m ∈ s.members g, (t.hearth m).slotRec tag.toNat = { (s.hearth m).slotRec tag.toNat with st := .reading }) ∧
      (due → mine → 2 ≤ (h.vw - slot.ver).toNat → o.by_ = s.cur.ref → ∃ t, exec (.waveAdmit g false) s = .next t ∧ (t.hearth g).waves = h.waves ∧
        t.cur = (s.withPeelFault Code.hearthVersionLost (tag.toNat % 16) 2 tag).cur ∧ t.mem = s.mem ∧
        ∀ m ∈ s.members g, (t.hearth m).slotRec tag.toNat = { (s.hearth m).slotRec tag.toNat with st := .free }) ∧
      (due → ¬((slot.st = .valid ∨ slot.st = .writing) ∧ slot.tag = tag) → h.cfg.getLsbD 18 = true → o.by_ = s.cur.ref →
        ∃ t, exec (.waveAdmit g false) s = .next t ∧ (t.hearth g).waves = h.waves ∧ (t.hearth g).recs = h.recs ∧
          t.cur = (s.withPeelFault Code.hearthStashInvalid (tag.toNat % 16) 2 tag).cur ∧ t.mem = s.mem) ∧
      (due → ¬mine → h.cfg.getLsbD 18 = false → exec (.waveAdmit g false) s = .next (s.planned g)))) ∧
    (h.west = o :: rest → o.by_ = s.cur.ref → ∀ t0, h.headWest = some t0 →
      (h.frozen = false → s.peelHeld g < 16 → t0 + 1024 * s.cur.wdog.toNat ≤ h.acyc →
        exec (.peelWatchdog g true) s = .next ((s.setHearth g { h with headWest := some h.acyc }).withPeelFault Code.watchdog 4 0 tag)) ∧
      (16 ≤ s.peelHeld g ∨ h.acyc < t0 + 1024 * s.cur.wdog.toNat → exec (.peelWatchdog g true) s = .next s))

/-- R120, R223 to R226, R230, R233, R241: a wave at a cell, and the stash slots that waves make VALID and FREE. R217, R218, R220: the array cycles of a
wave's events. -/
def Obligations.WavesAtCells : Prop :=
  ((∀ (s : State) (g n i j : Nat) (w : Wave), s.wave? g n = some w → (s.hearth g).frozen = false → s.arrayStall g = false → s.cellReady g w i j = true →
     let k := s.sheetAt g
     let m := k.member i j
     let h := s.hearth m
     let x := h.cell (i % 64) (j % 1024)
     h.cells.Pairwise (fun a b => a.1 < b.1) → h.stash.Pairwise (fun a b => a.1 < b.1) → w.sums.Pairwise (fun a b => a.1 < b.1) →
     let v32 (n : Nat) : FVal := Fmt.decode .f32 n
     let fma (a b c : FVal) : Nat := (roundFmt .f32 false (fFma 0 a b c).1 ⟨0, 0, 0⟩).1
     ∃ (t : State) (u : Wave), exec (.waveAtCell g n i j) s = .next t ∧ t.wave? g n = some u ∧ u.passed = w.passed.set i (w.passed.getD i 0 + 1) ∧
       t.mem = s.mem ∧ t.cur = s.cur ∧ (∀ q, q ≠ m → q ≠ g → t.hearth q = s.hearth q) ∧
       let y := (t.hearth m).cell (i % 64) (j % 1024)
       (w.kind = .a → w.opt.rot = false → cfgCfmt h.cfg < 6 →
         y = x ∧ u.sum j = fma (h.cVal (i % 64) (j % 1024)) (w.elem (cfgXfmt h.cfg) (cfgB h.cfg) i) (v32 (w.sum j)) ∧
         ∀ q, q ≠ j → u.sum q = w.sum q) ∧
       (w.kind = .a ∧ w.opt.ns = false ∨ w.kind = .s →
         (t.hearth m).stashWord (w.tag.toNat % 16) (i % 64) = (stashEnc (h.cfg.getLsbD 17) (w.elem (cfgXfmt h.cfg) (cfgB h.cfg) i)).1) ∧
       (w.kind = .g →
         let dy := w.elem (cfgGfmt h.cfg) (cfgB h.cfg) j
         u.sum i = fma (if x.v = w.stamp then h.cVal (i % 64) (j % 1024) else h.cpVal (i % 64) (j % 1024)) dy (v32 (w.sum i)) ∧
         y = (if w.opt.dx then x else { x with g := BitVec.ofNat 32 (fma (stashDec (h.cfg.getLsbD 17) (h.stashWord (w.tag.toNat % 16) (i % 64))) dy (v32 x.g.toNat)) })) ∧
       (w.kind = .u → cfgCfmt h.cfg < 6 →
         let hk (q : Nat) : FVal := v32 (w.hk.getD q 0).toNat
         let m' := fma (hk 1) (v32 x.m.toNat) (v32 x.g.toNat)
         let t' := fma (hk 2) (v32 x.w.toNat) (v32 m')
         let w' := BitVec.ofNat 32 (fma (hk 0).neg (v32 t') (v32 x.w.toNat))
         y = ⟨w', BitVec.ofNat 16 (roundC (cfgCfmt h.cfg) w').1, x.c, 0, BitVec.ofNat 32 m', x.v + 1⟩) ∧
       (w.kind = .ux → y = { x with g := 0 } ∧ u.sum (i * k.cols + j) = x.g.toNat) ∧
       (w.kind = .hwset → cfgCfmt h.cfg < 6 →
         let w' := BitVec.ofNat 32 (w.image.getD (i * k.cols + j) 0)
         y = { x with w := w', cp := x.c, c := BitVec.ofNat 16 (roundC (cfgCfmt h.cfg) w').1, v := x.v + 1 })) ∧
   (∀ (s : State) (g n i j : Nat), s.wave? g n = none ∨ (s.hearth g).frozen = true ∨ s.arrayStall g = true → exec (.waveAtCell g n i j) s = .next s) ∧
   (∀ (s : State) (g n : Nat) (w : Wave), ShapeOk (s.sheetAt g) → (s.hearth g).frozen = false → n < 16 → w ∈ (s.hearth g).waves → w.tag.toNat % 16 = n →
     let k := s.sheetAt g
     let r := (s.hearth g).slotRec n
     (r.st = .writing → w.tag = r.tag → (w.kind = .s ∨ (w.kind = .a ∧ w.opt.ns = false)) → w.stashTime k ≤ (s.hearth g).acyc →
       k.cols ≤ w.passed.getD (k.rows - 1) 0 →
       exec (.stashValid g n) s = .next (s.setRecs g n (fun r => { r with st := .valid, at_ := (s.hearth g).acyc + 1 }))) ∧
     (r.st = .reading → w.kind = .g → w.opt.dx = false → w.start + k.dxTime 0 ≤ (s.hearth g).acyc → 0 ∈ w.left →
       exec (.stashFree g n) s = .next (s.setRecs g n (fun r => { r with st := .free, at_ := (s.hearth g).acyc + 1 })))) ∧
   (∀ (s : State) (g n : Nat), (s.hearth g).frozen = true ∨ ((s.hearth g).slotRec n).st ≠ .writing → exec (.stashValid g n) s = .next s) ∧
   (∀ (s : State) (g n : Nat), (s.hearth g).frozen = true ∨ ((s.hearth g).slotRec n).st ≠ .reading → exec (.stashFree g n) s = .next s)) ∧
  (∀ (k : Sheet) (i j : Nat), ShapeOk k → k.lead < 32 → k.lead / 4 + k.h ≤ 8 → i < 64 * k.h → j < 1024 * k.w →
     let seam (r r' : Nat) : Nat := if k.lead / 4 + r < 4 ∧ 4 ≤ k.lead / 4 + r' then 1 else 0
     k.westTime i j = i + j + i / 64 + j / 1024 + 7 * seam 0 (i / 64) ∧
     k.yTime j = 64 * k.h + j + (k.h - 1) + j / 1024 + 7 * seam 0 (k.h - 1) ∧
     k.southTime i j + i + j + i / 64 + j / 1024 + 4 = 1024 * k.w + 64 * k.h + k.h + k.w + 7 * seam (i / 64) (k.h - 1) ∧
     k.dxTime i + i + i / 64 + 3 = 1024 * k.w + 64 * k.h + k.h + k.w + 7 * seam (i / 64) (k.h - 1) ∧
     (k.h = 1 → k.w = 1 → ∀ w : Wave, w.lastTime k = w.start + match w.kind with
       | .a | .g => 1087
       | .s | .hfill => 1086
       | .u | .hwset => 1088
       | .ux => 1150))

/-- R216, R217, R235, R244, R313: an input edge takes one unit from its binding; an output edge pushes its first unit into its binding. -/
def Obligations.HearthEdges : Prop :=
  ∀ (s : State) (g edge : Nat), (s.hearth g).frozen = false →
    let h := s.hearth g
    (edge < 4 → (h.buf edge).length < 8 →
      (∀ (k : Nat) (r : Route) (u rest : List RouteEntry), s.edgeRoute g edge = some k → Tbl.get? s.routes k = some r → r.entries = u ++ rest → IsUnit s.cycle u →
        ∃ t, exec (.edgeUnitTake g edge) s = .next t ∧ (t.hearth g).buf edge = h.buf edge ++ [unitBytes u] ∧ Tbl.get? t.routes k = some { r with entries := rest } ∧
          t.mem = s.mem ∧ t.cur = (s.wakeNow (.routeRoom (k / 64) (k % 64))).cur) ∧
      (∀ (k : Nat) (t : Trough) (x : Slot), s.edgeRoute g edge = none → Tbl.get? h.binds edge = some k → Tbl.get? s.troughs k = some t → TroughGood t →
        Tbl.get? s.slots t.owner = some x → t.takeable s.cycle = true → t.mayTake (t.edgePosition g edge) s.cycle = true →
        let n := t.tail % t.cap
        let ps := s.slotPieces t.owner (t.base + n * t.slotBytes) (t.counts.getD n 0).toNat
        (∀ p ∈ ps, IsMemory s p.pa) →
        ∃ u, exec (.edgeUnitTake g edge) s = .next u ∧
          (u.hearth g).buf edge = h.buf edge ++ [ps.flatMap (fun p => bytesFrom (s.viewByte ⟨320 + g, g, s.vfOf t.owner⟩) p.pa p.len)] ∧
          Tbl.get? u.troughs k = some { t with
            slots := (t.slots.set n .draining).set n .free, tail := (t.tail + 1) % (2 * t.cap), filled := t.filled - 1
            takePtr := t.takePtr.meet t.positions (t.edgePosition g edge) s.cycle true } ∧
          u.mem = s.mem ∧ u.cur = (s.wakeNow (.troughFree (k / 1024) (k % 1024))).cur)) ∧
    (s.edgeRoute g edge = none → Tbl.get? h.binds edge = none → exec (.edgeUnitTake g edge) s = .next s) ∧
    (s.leadOf g = g → h.waves = [] →
      (∀ (bs : List Byte) (more : List (List Byte)) (south : Bool), (if south then h.outS else h.outW) = bs :: more →
        let e := if south then 4 else 5
        (∀ (k : Nat) (r : Route), s.edgeRoute g e = some k → Tbl.get? s.routes k = some r → bs.length ≤ 256 → (if south then h.sentS else h.sentW) = 0 →
          r.src.code ≠ 1 → r.entries.length < r.depth → (∀ p, r.partway = some p → p = edgeRef g) →
          exec (.converterPush g south) s = .next (({ s with routes := Tbl.set s.routes k { r with
              entries := r.entries ++ [⟨bs, true, s.cycle⟩], partway := none } } : State).setHearth g
            (if south then { h with outS := more, sentS := 0 } else { h with outW := more, sentW := 0 }))) ∧
        (∀ (k : Nat) (t : Trough), s.edgeRoute g e = none → Tbl.get? h.binds e = some k → Tbl.get? s.troughs k = some t → TroughGood t →
          t.slotAt (t.head % t.cap) = .free → t.mayClaim (t.edgePosition g e) s.cycle = true → t.slots.length = t.cap → t.counts.length = t.cap → 1 ≤ t.cap →
          let n := t.head % t.cap
          let ps := s.slotPieces t.owner (t.base + n * t.slotBytes) bs.length
          (∀ p ∈ ps, IsMemory s p.pa) → s.ahead ⟨320 + g, g, s.vfOf t.owner⟩ ps t.scope = [] →
          ∃ u, exec (.converterPush g south) s = .next u ∧ u.cur = s.cur ∧ (if south then (u.hearth g).outS else (u.hearth g).outW) = more ∧
            Tbl.get? u.troughs k = some { t with slots := (t.slots.set n .filling).set n .full, counts := t.counts.set n (BitVec.ofNat 32 bs.length)
                                                 filledAt := t.filledAt.set n (s.cycle + 1), head := (t.head + 1) % (2 * t.cap), filled := t.filled + 1
                                                 claimPtr := t.claimPtr.meet t.positions (t.edgePosition g e) s.cycle true }))) ∧
    (s.leadOf g = g → h.waves = [] → ∀ south : Bool, (if south then h.outS else h.outW) = [] → exec (.converterPush g south) s = .next s)

/-! ## Dortas: binding, slices, pre-emption, quotas, killing, rollback (R21, R22, R157, R158, R325 to R347, R366 to R368) -/

namespace Sys2Proof.Machine

/-- A slot-table entry. -/
def EntryIs (s : State) (k : Nat) (x : Slot) : Prop := Tbl.get? s.slots k = some x

/-- No context of the instance retires. -/
def NotRetiring (s : State) (k : Nat) : Prop := ∀ c ∈ s.ctxsOf k, c.halting = none

/-- A record that Dortas may consider and that stays ARMED too long (R329). -/
def LateRecord (s : State) (w : Want) : Prop := w ∈ s.armed ∧ s.considered w = true ∧ s.late w = true

end Sys2Proof.Machine

/-- R21, R22, R29, R325 to R327, R329, R330: binding an eligible record, which stays ARMED until it is accepted; a late one that finds no place; a submission
that the checks accept or reject. -/
def Obligations.BindAndSubmit : Prop :=
  (∀ (s : State) (el : List Want), (∃ w, LateRecord s w) → ∃ w, s.choose el = some w ∧ LateRecord s w ∧ ∀ v, LateRecord s v → w.armedAt ≤ v.armedAt) ∧
  (∀ (s : State), (∀ x ∈ s.slots, x.2.state ≠ 7 ∧ x.2.state ≠ 1) → (∀ v ∈ s.armed, s.considered v = true → s.overDemand v.rcb v.bits = none) →
    let el := s.armed.filter s.eligible
    let s2 := s.catchUp el
    (s2.choose el = none → exec .bindDecision s = .next s2) ∧
    (∀ w, s2.choose el = some w → w ∉ el → exec .bindDecision s = .next s2.askYield) ∧
    (∀ (w : Want) (p : Place), s2.choose el = some w → w ∈ el → s2.place? none w = some p → lrCond w.bits = 0 → (∃ k, k < 2048 ∧ Tbl.get? s.slots k = none) →
      ∃ (t : State) (k : Nat) (y : Slot), exec .bindDecision s = .next t ∧ Tbl.get? s.slots k = none ∧ k < 2048 ∧ EntryIs t k y ∧ y.state = 1 ∧
        y.vf = w.vf % 256 ∧ y.rcbx = w.rcb % 65536 ∧ y.lrec = w.i % 65536 ∧ y.seq = lrSeq w.bits % 65536 ∧ y.ccore = p.ccore % 128 ∧
        (∀ c, c < 128 → (y.cmask.getLsbD c = true ↔ c ∈ p.cores)) ∧ (∀ c, c < 32 → (y.hmask.getLsbD c = true ↔ c ∈ p.hearths)) ∧
        t.mem = s.mem ∧ t.cur = s.cur ∧ ∀ i n, Tbl.get? s.rcbs i = some n → ∃ m, Tbl.get? t.rcbs i = some m ∧ m.pool = n.pool) ∧
    (∀ (w : Want) (p : Place) (i : PageInfo), s2.choose el = some w → w ∈ el → s2.place? none w = some p → lrCond w.bits ≠ 0 → lrCompl w.bits = 0 →
      translateFull s2 w.vf (lrCond w.bits) 1 = .ok i → paKind i.pa = .hbm → i.remote = none → s.poisoned i.pa = false →
      bytesFrom s.devByte i.pa 8 = List.replicate 8 0 →
      ∃ (t : State) (n : RcbNode), exec .bindDecision s = .next t ∧ Tbl.get? t.rcbs w.rcb = some n ∧ lrState (n.lrec w.rcb w.i) = 0 ∧ t.slots = s.slots ∧
        t.mem = s.mem ∧ t.cur = s.cur)) ∧
  (∀ (s : State) (k : Nat) (x : Slot), EntryIs s k x → x.state = 1 → Tbl.get? s.replays x.vf = none → (∀ d ∈ s.dortas.destroying, d.1 ≠ x.vf) →
    (x.cmask.getLsbD x.ccore = false ∨ fieldN x.bind 684 677 = 0 → s.rejects k x = some 1) ∧
    (∀ n, s.rejects k x = some n → ∃ (t : State) (y : Slot), exec (.slotSubmit k) s = .next t ∧ EntryIs t k y ∧ y.state = 7 ∧ fieldN y.bind 71 64 = n ∧
      t.cur = s.cur ∧ t.mem = s.mem ∧ t.rcbs = s.rcbs) ∧
    (∀ (r : RcbNode) (i : Image), s.rejects k x = none → s.ctx? ⟨k, 0⟩ = none → Tbl.get? s.rcbs x.rcbx = some r → Tbl.get? s.images x.image = some i →
      Tbl.get? s.dortas.captures x.vf = none →
      let l := r.lrec x.rcbx x.lrec
      ∃ (t : State) (y : Slot) (c : Context) (r' : RcbNode), exec (.slotSubmit k) s = .next t ∧ EntryIs t k y ∧ y.state = 2 ∧
        fieldN y.bind 447 384 = s.cycle % 2 ^ 64 ∧ Tbl.get? t.rcbs x.rcbx = some r' ∧ lrState (r'.lrec x.rcbx x.lrec) = 2 ∧
        t.ctx? ⟨k, 0⟩ = some c ∧ c.kind = .cc ∧ c.engine = x.ccore ∧ c.phase = .ready ∧ c.hd = false ∧
        c.pc = BitVec.ofNat 64 (4 * (if lrEntry l = 0 then fieldN i.header 95 64 else lrEntry l)) ∧
        (∀ j, j < 6 → c.s[j + 1]? = some (lrArg l j)) ∧ c.s[7]? = some (BitVec.ofNat 64 x.lrec) ∧
        c.wtro = BitVec.ofNat 64 (fieldN x.bind 723 714 + 2 ^ 32 * fieldN i.header 111 96) ∧ (∀ a, x.holdsSram a = true → t.mem.get a = 0) ∧
        (∀ a, x.holdsSram a = false → t.mem.get a = s.mem.get a))) ∧
  (∀ (s : State) (k : Nat), (∀ x, EntryIs s k x → x.state ≠ 1) → exec (.slotSubmit k) s = .next s)

/-- R16, R328, R336: charging an entry to its path, with which a changed SHARE or PCLASS takes effect, and quotas exhausted with their two policies. R157,
R158, R326, R330, R335: a YIELD goes on, or gives its engines back and its shared state is reset; an instance that does not yield within 1,000 µs is
stopped. When the slice is over and another record wants the engines they are reclaimed (log 79). -/
def Obligations.ChargesQuotasYields : Prop :=
  ((∀ (s : State) (k : Nat) (x : Slot), s.slots = [(k, x)] → 2 ≤ x.state → x.state ≤ 6 → x.vacant = false → (s.path x.rcbx).Nodup →
     ∃ t, exec .vtCharge s = .next t ∧ EntryIs t k { x with chargedAt := s.cycle } ∧ t.mem = s.mem ∧ t.cur = s.cur ∧ ∀ n r, Tbl.get? s.rcbs n = some r →
       let cost := if r.level ≠ 0 ∧ n ∈ s.path x.rcbx then x.engines * (s.cycle - x.chargedAt) * 256 / (1900 * max 1 r.share) else 0
       Tbl.get? t.rcbs n = some { r with vt := r.vt + cost, share := s.eff n .share, pclass := s.eff n .pclass }) ∧
   (∀ (s : State) (rcb : Nat) (bytes : Bool) (n : RcbNode), Tbl.get? s.rcbs rcb = some n →
     let f := if bytes then RcbField.qbytes else .qcyc
     let due : Prop := n.ovrBit (if bytes then 17 else 16) = true ∧ n.get f ≠ 0 ∧ n.get f ≤ (if bytes then n.bytUse else n.cycUse)
     (¬due → exec (.quotaExhausted rcb bytes) s = .next s) ∧
     (due → ∃ t, exec (.quotaExhausted rcb bytes) s = .next t ∧ t.mem = s.mem ∧
       Tbl.get? t.rcbs rcb = some (if bytes then { n with exhByt := true } else { n with exhCyc := true }) ∧
       ∀ k x, EntryIs s k x → x.state = 2 → rcb ∈ s.path x.rcbx →
         (s.eff rcb .qpol = 0 → NotRetiring s k → ∃ y, EntryIs t k y ∧ y.state = 3 ∧ y.quotaStop = true) ∧
         (s.eff rcb .qpol ≠ 0 → (∀ q ∈ x.quotaAt, ¬(q.1 = rcb ∧ q.2.1 = bytes)) → s.cur.ref = ⟨k, 0⟩ → s.cur.faults.length < 16 →
           EntryIs t k { x with quotaAt := x.quotaAt ++ [(rcb, bytes, s.cycle)] } ∧
           t.cur.faults = s.cur.faults ++ [⟨0x1A, if bytes then 2 else 1, 0, false⟩]))) ∧
   (∀ (s : State) (k : Nat) (x : Slot), EntryIs s k x → 2 ≤ x.state → x.state ≤ 5 → NotRetiring s k →
     ((∃ q ∈ x.quotaAt, q.2.2 + 3800000 ≤ s.cycle) → ∃ (t : State) (y : Slot), exec (.quotaKillTimeout k) s = .next t ∧ EntryIs t k y ∧ y.state = 6 ∧
       y.kill = some (.reason 0x0400) ∧ t.cur = s.cur ∧ t.mem = s.mem) ∧
     ((∀ q ∈ x.quotaAt, s.cycle < q.2.2 + 3800000) → exec (.quotaKillTimeout k) s = .next s))) ∧
  (∀ (s : State) (k : Nat) (x : Slot), EntryIs s k x → x.state = 2 → (s.slots.map (·.1)).Nodup →
     (x.offer = none → exec (.yieldDecision k) s = .next s) ∧
     (∀ a, x.offer = some a → s.cur.ref = ⟨k, 0⟩ →
       (x.yieldAsked = none → s.sliceOver x = false ∨ s.wanted k x = false →
         ∃ (t : State) (y : Slot), exec (.yieldDecision k) s = .next t ∧ EntryIs t k y ∧ y.state = 2 ∧ y.bind = x.bind ∧ y.offer = none ∧ t.mem = s.mem ∧
           t.cur = { s.cur.nextSeq with phase := .ready, wait := none, yielding := false }) ∧
       (x.yieldAsked ≠ none ∨ (s.sliceOver x = true ∧ s.wanted k x = true) →
         ∃ (t : State) (y : Slot), exec (.yieldDecision k) s = .next t ∧ EntryIs t k y ∧ y.state = 3 ∧ y.suspended = true ∧
         t.cur.phase = .stopped ∧ t.cur.pc = s.cur.nextSeq.pc ∧ t.cur.s = s.cur.s ∧ (∀ a, x.holdsSram a = true → t.mem.get a = 0) ∧
         (∀ g, (t.hearth g).holder ≠ some k) ∧ ∀ n u, Tbl.get? s.troughs n = some u → u.owner = k → Tbl.get? t.troughs n = some u.clear)) ∧
     (∀ a, x.yieldAsked = some a → NotRetiring s k → a + 1900000 ≤ s.cycle →
       ∃ (t : State) (y : Slot), exec .reclaimTimeout s = .next t ∧ EntryIs t k y ∧ y.state = 3 ∧ t.cur = s.cur ∧ t.mem = s.mem) ∧
     (∀ a, x.yieldAsked = some a → s.cycle < a + 1900000 → ∃ t, exec .reclaimTimeout s = .next t ∧ EntryIs t k x))

/-- R36, R323, R326, R330, R337, R338, R341: hard pre-emption from STOPPING to STOPPED, and back through RESTORING to RUNNING. -/
def Obligations.PreemptAndRestore : Prop :=
  ∀ (s : State) (k : Nat) (x : Slot), EntryIs s k x →
    (x.state = 3 → ∃ t, exec (.hardPreempt k) s = .next t ∧ t.cur = s.cur ∧ t.mem = s.mem ∧
      ∀ g, (s.hearth g).holder = some k → Tbl.get? s.saved (64 * k + g) = none → g < 64 →
        Tbl.get? t.saved (64 * k + g) = some (s.hearth g) ∧ t.hearth g = { s.hearth g with frozen := true }) ∧
    (x.state ≠ 3 → exec (.hardPreempt k) s = .next s ∧ exec (.saveComplete k) s = .next s) ∧
    (s.cur.slot = k → x.state = 3 →
      (s.cur.phase = .waiting ∨ (s.cur.phase = .ready ∧ s.cur.sinceBoundary = 0) → s.cur.copiesStopped = true →
        s.cur.pend = [] → (∀ r ∈ s.hold, r.by_ ≠ s.cur.ref ∨ r.page.remote ≠ none) →
        ∃ t, exec (.contextStop s.cur.ref) s = .next t ∧ EntryIs t k { x with offer := none } ∧ t.mem = s.mem ∧ t.cur.phase = .stopped ∧ t.cur.wait = none ∧
          t.cur.pc = s.cur.pc ∧ t.cur.s = s.cur.s ∧ (∀ d, s.cancelled s.cur = some d → d ≠ 0 → t.cur.isFull d = false) ∧
          (s.cancelled s.cur = none → t.cur = { s.cur with phase := .stopped, wait := none, yielding := false, heAt := none, past := none })) ∧
      (s.cur.phase = .ready → s.cur.sinceBoundary ≠ 0 → exec (.contextStop s.cur.ref) s = .next s)) ∧
    (x.state = 3 → (∀ c ∈ s.ctxsOf k, c.phase = .stopped) → (∀ g ∈ s.leased k, (Tbl.get? s.saved (saveKey k g)).isSome = true) →
      ∃ (t : State) (y : Slot), exec (.saveComplete k) s = .next t ∧ EntryIs t k y ∧ y.state = 4 ∧ y.leases = s.leaseRecords k ∧ t.saved = s.saved ∧ t.mem = s.mem ∧
        (x.suspended = true ∨ x.yieldAsked ≠ none → y.cmask = 0 ∧ y.emask = 0 ∧ y.hmask = 0) ∧
        ((∀ z ∈ s.l1, z.dirty = true → ∀ q ∈ z.stores, q.1.slot ≠ k) → t.cur = s.cur) ∧
        ∀ g ∈ s.leased k, (t.hearth g).holder ≠ some k ∧ (t.hearth g).cells = [] ∧ (t.hearth g).frozen = false) ∧
    (x.state = 4 → x.suspended = false → x.rolling = false → s.exhausted x.rcbx = false →
      (s.giveBack k x = none → exec (.restore k) s = .next s) ∧
      (s.giveBack k x ≠ none → ∃ (t : State) (y : Slot), exec (.restore k) s = .next t ∧ EntryIs t k y ∧ y.state = 5 ∧ y.held = none ∧ t.mem = s.mem ∧
        (∀ l ∈ y.leases, t.holdsLease k l.grps = true ∨ t.requested k l.grps = true) ∧ (x.held = none → t.cur = s.cur ∧ y.leases = x.leases))) ∧
    (x.state = 5 → x.rolling = false → (∀ l ∈ x.leases, s.holdsLease k l.grps = true) → (s.saved.map (·.1)).Nodup →
      ∃ (t : State) (y : Slot), exec (.restoreRunning k) s = .next t ∧ EntryIs t k y ∧ y.state = 2 ∧ fieldN y.bind 447 384 = s.cycle % 2 ^ 64 ∧ y.leases = [] ∧ t.mem = s.mem ∧
        (s.cur.slot = k → s.cur.phase = .stopped →
          t.cur = { s.cur with phase := .ready, wait := none, dc := 0, lastIssue := s.cycle, full := BitVec.allOnes 32 }) ∧
        ∀ g h, g < 64 → Tbl.get? s.saved (saveKey k g) = some h → t.hearth g =
          { h with holder := (s.hearth g).holder, leaseGrps := (s.hearth g).leaseGrps, runStart := (s.hearth g).runStart, runCount := (s.hearth g).runCount }) ∧
    (x.state = 5 → (∃ l ∈ x.leases, s.holdsLease k l.grps = false) → exec (.restoreRunning k) s = .next s)

/-- R23, R342, R343: the kill sequence stops every context and queues a marker for each stack, and what the entry holds stays its own; with the last
marker the completion record is written, then the entry is freed. R314, R346, R347, R366 to R368: a struck domain is quiesced, its undo log written
back, and its instances restarted from their checkpoints or killed; a sector found bad is marked, and an error in an instance's own state or a
trough's counters strikes it. -/
def Obligations.KillsAndRollbacks : Prop :=
  (∀ (s : State) (k : Nat) (x : Slot), EntryIs s k x → s.slots.Pairwise (fun a b => a.1 < b.1) →
     (x.state ≠ 6 → exec (.killSequence k) s = .next s) ∧
     (∀ r, x.state = 6 → x.rolling = false → x.kill = some (.reason r) →
       ∃ (t : State) (y : Slot), exec (.killSequence k) s = .next t ∧ EntryIs t k y ∧ y.state = 6 ∧ y.markers.map (·.1) = List.range 8 ∧
         (∀ m ∈ y.markers, s.nextId ≤ m.2) ∧ y.rolling = true ∧ y.kill = some (.reason r) ∧ t.ctxsOf k = [] ∧
         (∀ g, (t.hearth g).holder = (s.hearth g).holder) ∧ t.routes = s.routes ∧ t.troughs = s.troughs) ∧
     (∀ n, x.rolling = true → (∃ m ∈ x.markers, m.1 = n ∧ s.drained x.vf n m.2 = false) → exec (.drainMarkerComplete k n) s = .next s) ∧
     (∀ n, x.rolling = true → (∀ m ∈ x.markers, m.1 = n → s.drained x.vf n m.2 = true) →
       (x.markers.filter (fun m => decide (m.1 ≠ n)) ≠ [] →
         exec (.drainMarkerComplete k n) s = .next (s.setSlot k { x with markers := x.markers.filter (fun m => decide (m.1 ≠ n)) })) ∧
       (∀ q, x.state = 6 → (∀ m ∈ x.markers, m.1 = n) → s.sitLeft k = false → s.unackedOf k = false → Tbl.get? s.rcbs x.rcbx = some q →
         let va := lrCompl (q.lrec x.rcbx x.lrec)
         (va = 0 → ∃ t, exec (.drainMarkerComplete k n) s = .next t ∧ Tbl.get? t.slots k = none ∧ t.mem = s.mem ∧
           ∀ j, j ≠ k → (Tbl.get? t.slots j).map (·.bind) = (Tbl.get? s.slots j).map (·.bind)) ∧
         (∀ (i : PageInfo) (r : Nat), va ≠ 0 → x.kill = some (.reason r) → translateFull (s.setSlot k { x with markers := [] }) x.vf va 2 = .ok i → paKind i.pa = .hbm →
           ∃ t, exec (.drainMarkerComplete k n) s = .next t ∧ Tbl.get? t.slots k = none ∧ t.mem = s.mem ∧
             bytesFrom t.lastByte i.pa 32 = natBytes 2 2 ++ natBytes r 2 ++ natBytes x.seq 2 ++ natBytes 0 2 ++ natBytes x.bindCycle 8 ++ natBytes s.cycle 8 ++
               List.replicate 8 0)))) ∧
  ((∀ (s : State) (rcb : Nat), (∀ x ∈ s.slots, x.2.kill ≠ some .rollback) → exec (.rollback rcb) s = .next s) ∧
   (∀ (s : State) (rcb k : Nat) (x : Slot), (s.slots.filter (fun y => y.2.bound && (s.path y.2.rcbx).contains rcb)).map (·.1) = [k] → EntryIs s k x →
     x.kill = some .rollback → s.domainOf x.rcbx = some rcb →
     (x.rolling = false → ∃ (t : State) (y : Slot), exec (.rollback rcb) s = .next t ∧ EntryIs t k y ∧ y.rolling = true ∧ y.markers.map (·.1) = List.range 8 ∧
       y.kill = some .rollback ∧ t.ctxsOf k = []) ∧
     (x.rolling = true → x.markers ≠ [] → exec (.rollback rcb) s = .next s) ∧
     (x.rolling = true → x.markers = [] → s.sitLeft k = false → s.unackedOf k = false → s.ctx? ⟨k, 0⟩ = none →
       (∀ p : Checkpoint, x.ckpt = some p → p.valid = true → p.rollbacks < 2 → (∀ u ∈ s.undo, u.slot ≠ k) →
         ∃ (t : State) (y : Slot) (c : Context), exec (.rollback rcb) s = .next t ∧ EntryIs t k y ∧ y.state = x.state ∧ y.kill = none ∧ y.rolling = false ∧
           y.ckpt = some { p with rollbacks := p.rollbacks + 1 } ∧ t.ctx? ⟨k, 0⟩ = some c ∧ c.pc = p.pc ∧ c.hd = p.hd ∧ c.p = p.p ∧ c.loops = p.loops ∧
           c.phase = (if x.state = 2 then .ready else .stopped) ∧ (∀ n : BitVec 5, n ≠ 0 → n ≠ p.dest → c.getS n = p.s[n.toNat]'n.isLt) ∧
           (p.dest ≠ 0 → c.getS p.dest = 2)) ∧
       ((x.ckpt = none ∨ ∃ p : Checkpoint, x.ckpt = some p ∧ (p.valid = false ∨ 2 ≤ p.rollbacks)) →
         ∃ (t : State) (y : Slot), exec (.rollback rcb) s = .next t ∧ EntryIs t k y ∧ y.state = 6 ∧ y.kill = some (.reason 0x0300) ∧ y.rolling = false ∧
           ∀ u, s.undo = [u] → u.slot = k → u.old.length = 32 → u.pa % 32 = 0 → bytesFrom t.lastByte u.pa 32 = u.old))) ∧
   (∀ (u : ScrubUnit) (n : Nat) (s : State), exec (.scrub u n .clean) s = .next s ∧ exec (.scrub u n .correctable) s = .next s ∧
     (scrubOk u n = true → ∃ t, exec (.scrub u n .uncorrectable) s = .next t ∧ scrubPa u n ∈ t.poison ∧ t.mem = s.mem ∧ t.cur = s.cur ∧
       (∀ a ∈ s.poison, a ∈ t.poison))) ∧
   (∀ (s : State) (k : Nat) (x : Slot), EntryIs s k x → x.bound = true → x.kill = none → EntryIs (s.strike k) k { x with kill := some .rollback }) ∧
   (∀ (s : State) (n : Nat) (t : Trough), Tbl.get? s.troughs n = some t → 1 ≤ t.cap → ∃ u, Tbl.get? (s.strikeCounter n).troughs n = some u ∧ u.consistent = false))

/-! ## The machine's own moves: results, stores, waits, deliveries (R27, R52, R78, R80, R142, R166, R176, R279 to R284, R301 to R309, R355 to R370) -/

namespace Sys2Proof.Machine

/-- Result number n of the current context has landed: registers and flags are those of `c`, nothing else of the context's program state has changed. -/
def LandedIn (s t : State) (n : Nat) (c : Context) : Prop :=
  t.cur.s = c.s ∧ t.cur.full = c.full ∧ t.cur.v = c.v ∧ t.cur.fcsr = c.fcsr ∧ t.cur.p = c.p ∧ t.cur.pc = c.pc ∧ t.cur.phase = c.phase ∧
  t.cur.pend.map (·.id) = (s.cur.pend.filter (fun x => decide (x.id ≠ n))).map (·.id) ∧ t.mem = s.mem ∧
  t.hold.map (fun r => (r.id, r.pa, r.bytes)) = s.hold.map (fun r => (r.id, r.pa, r.bytes))

/-- No byte of memory has been written, for whichever party. -/
def Unwritten (s t : State) : Prop := t.mem = s.mem ∧ t.coh.map (fun r => (r.id, r.pa, r.bytes, r.ps)) = s.coh.map (fun r => (r.id, r.pa, r.bytes, r.ps))

end Sys2Proof.Machine

/-- R34, R80, R142, R176, R177: a result lands when its latency has passed and the order of accesses allows it: a value, a load's bytes, an atomic's old
value with the new one written, a vector load's tile. R148, R281 to R284, R290, R292, R301, R307: how stores move: out of the hold buffer to their
home or into the core's L1, merged, back from an L1 sector, up the scopes to memory, a release not before what it publishes; and a bank switch that
ends. -/
def Obligations.ResultsAndStores : Prop :=
  (∀ (s : State) (n : Nat) (q : Pend), s.cur.pend.find? (fun x => decide (x.id = n)) = some q →
     let c := s.cur
     let own (p : Piece) : Bool := p.page.inL1 || p.page.mayBeOld
     let bytes (old : Option OldCopy) (p : Piece) : List Byte := p.range.map (s.loadByte c n old p.page)
     (s.cycle < q.at_ → exec (.resultLands c.ref n) s = .next s) ∧ (s.mayLand c q = false → exec (.resultLands c.ref n) s = .next s) ∧
     (∀ p, s.mayLand c q = true → q.pieces.find? (fun p => s.poisoned p.pa) = some p → exec (.resultLands c.ref n) s = .next (s.attribute p.pa c.ref)) ∧
     (s.mayLand c q = true → q.note = none → (∀ p ∈ q.pieces, s.poisoned p.pa = false) →
       (∀ (v : Word) (d : BitVec 5), q.what = .value v → q.dst = .s d → exec (.resultLands c.ref n) s =
         .next (s.setCur (fun c => ({ c with pend := c.pend.filter (fun x => decide (x.id ≠ n)) } : Context).putS d v))) ∧
       (∀ (p : Piece) (signed : Bool) (d : BitVec 5), q.what = .load [(p, none)] signed none → q.dst = .s d → p.page.inL1 = false →
         ∃ t, exec (.resultLands c.ref n) s = .next t ∧ LandedIn s t n (c.putS d (extend signed p.len (leNat (bytes (s.oldFor c [p]) p)))) ∧ Unwritten s t) ∧
       (∀ (p : Piece) (signed : Bool) (sc : Scope) (d : BitVec 5), q.what = .load [(p, none)] signed (some sc) → q.dst = .s d → p.page.inL1 = false →
         ∃ t, exec (.resultLands c.ref n) s = .next t ∧ LandedIn s t n (c.putS d (extend signed p.len (leNat (bytes none p)))) ∧ Unwritten s t ∧
           ∀ o ∈ t.olds, o.by_ ≠ c.ref) ∧
       (∀ (p : Piece) (op : AtomOp) (v : Word) (signed : Bool) (acq : Option Scope) (d : BitVec 5) (rels : List Release), q.what = .atomic p op v signed acq rels →
         q.dst = .s d → p.page.inL1 = false → p.page.ckpt = false → Tbl.get? s.dortas.captures (s.vfOf c.slot) = none →
         let old := leNat (bytesFrom s.lastByte p.pa p.len)
         ∃ t, exec (.resultLands c.ref n) s = .next t ∧ LandedIn s t n (c.putS d (extend signed p.len old)) ∧
           bytesFrom t.lastByte p.pa p.len = natBytes (atomNew op p.len old v.toNat) p.len ∧
           (∀ a, ¬(p.pa ≤ a ∧ a < p.pa + p.len) → t.lastByte a = s.lastByte a)) ∧
       (∀ (base : Tile) (es : List ElemAccess) (k : Conv) (d : BitVec 4), q.what = .vload base [] es k → q.dst = .tile d → (∀ p ∈ q.pieces, own p = false) →
         es.Pairwise (fun a b => a.pos < b.pos) →
         let raws := es.map (fun e => (e.pos, rawOf k.fmt e.bit (e.pieces.flatMap (bytes none))))
         let r := loadElems k raws base ⟨k.mode, k.seed, 0⟩
         ∃ t, exec (.resultLands c.ref n) s = .next t ∧
           LandedIn s t n (({ c with fcsr := putEnv c.fcsr { envOf c.fcsr with flags := r.2.flags } } : Context).setTile d r.1) ∧ Unwritten s t))) ∧
  ((∀ (s : State) (r : StoreRec), s.hold.filter (fun q => decide (q.id = r.id)) = [r] → r.page.remote = none →
     (s.mayLeave r = false → exec (.holdBufferLeave r.id) s = .next s) ∧
     (s.mayLeave r = true → s.poisoned r.pa = false → r.page.inL1 = false → r.page.ckpt = false →
       ∃ t, exec (.holdBufferLeave r.id) s = .next t ∧ t.hold = s.hold.filter (fun q => decide (q.id ≠ r.id)) ∧ t.coh = s.coh ++ [{ r with ps := some .eng }] ∧
         t.mem = s.mem ∧ t.cur = s.cur) ∧
     (∀ core, s.mayLeave r = true → s.poisoned r.pa = false → s.l1Of r = some core → (∀ x ∈ s.l1, x.bytes.length = 32) →
       ∃ (t : State) (x : L1Sector), exec (.holdBufferLeave r.id) s = .next t ∧ t.l1Find core r.pa = some x ∧ x.dirty = true ∧ (r.by_, r.id) ∈ x.stores ∧
         (∀ i, i < r.bytes.length → x.bytes[r.pa % 32 + i]? = r.bytes[i]?) ∧ t.coh = s.coh ∧ t.mem = s.mem) ∧
     (s.mayLeave r = true → s.poisoned r.pa = true →
       ∃ t, exec (.holdBufferLeave r.id) s = .next t ∧ t.hold = s.hold.filter (fun q => decide (q.id ≠ r.id)) ∧ t.coh = s.coh ∧ t.mem = s.mem ∧
         ∀ x, EntryIs s r.by_.slot x → x.kill = none → ∃ y, EntryIs t r.by_.slot y ∧ y.kill = some .rollback)) ∧
   (∀ (s : State) (a b : StoreRec), s.hold.find? (fun r => decide (r.id = a.id)) = some a →
     s.hold.find? (fun r => decide (r.id = b.id) && decide (r.pa / 32 = a.pa / 32)) = some b →
     (s.mayMerge a b = true → b.page.remote = none → exec (.storeMerge a.id b.id) s =
       .next { s with hold := s.hold.map (fun r => if r.id = a.id then { r with id := b.id, also := (r.by_, a.id) :: r.also } else r) }) ∧
     (a.by_ ≠ b.by_ ∨ a.page.ord = .so ∨ b.page.ord = .so ∨ a.sent = true ∨ b.sent = true ∨ b.id ≤ a.id → exec (.storeMerge a.id b.id) s = .next s)) ∧
   (∀ (s : State) (r : StoreRec) (p sc : Scope), s.coh.filter (fun q => decide (q.id = r.id)) = [r] → r.rels = [] → r.ps = some p → p ≠ .sys →
     (∀ q ∈ s.coh, q.id ≠ r.id → q.overlaps r = false) → Scope.rank p ≤ Scope.rank sc →
     (sc ≠ .sys → exec (.storeScopeRise r.id sc) s = .next { s with coh := s.coh.map (fun q => if q.id = r.id then { q with ps := some sc } else q) }) ∧
     (sc = .sys → s.mem.wf = true → ∃ t, exec (.storeScopeRise r.id sc) s = .next t ∧ t.coh = s.coh.filter (fun q => decide (q.id ≠ r.id)) ∧
       (∀ a, t.mem.get a = if r.pa ≤ a ∧ a < r.pa + r.bytes.length then r.bytes.getD (a - r.pa) 0 else s.mem.get a) ∧ t.cur = s.cur ∧ t.hold = s.hold)) ∧
   (∀ (s : State) (r : StoreRec) (x : Release) (sc : Scope) (i : Nat), x ∈ r.rels → Scope.rank sc ≤ Scope.rank x.scope → i ∈ x.deps → i ∉ r.ids →
     s.performedAt i sc = false → s.mayRise r sc = false) ∧
   (∀ (s : State) (core n : Nat),
     (s.l1Find core (32 * n) = none → exec (.sectorWriteback core n) s = .next s) ∧
     (∀ x, s.l1Find core (32 * n) = some x →
       (x.dirty = false → exec (.sectorWriteback core n) s = .next { s with l1 := s.l1.filter (fun y => !(y.core = core && y.pa = 32 * n)) }) ∧
       (x.dirty = true → s.poisoned x.pa = false → s.mayWriteBack x = false → exec (.sectorWriteback core n) s = .next s) ∧
       (x.dirty = true → s.poisoned x.pa = false → s.mayWriteBack x = true → x.ckpt = false →
         ∃ (t : State) (r : StoreRec), exec (.sectorWriteback core n) s = .next t ∧ t.coh = s.coh ++ [r] ∧
         r.pa = 32 * n ∧ r.bytes = x.bytes ∧ r.ps = some .eng ∧ r.id = s.nextId ∧ r.also = x.stores ∧ r.rels = x.rels ∧ t.mem = s.mem ∧
         t.l1 = s.l1.map (fun y => if y.core = core ∧ y.pa = 32 * n then { y with dirty := false, stores := [], rels := [], so := false } else y)))) ∧
   (∀ (s : State) (g b : Nat), let k := s.bank g b
     (k.busy = false ∨ s.switchReady g b = false → exec (.bankSwitchDone g b) s = .next s) ∧
     (k.busy = true → s.switchReady g b = true → ∃ t, exec (.bankSwitchDone g b) s = .next t ∧ (t.bank g b).mode = k.toMode ∧ (t.bank g b).route = k.toRoute ∧
       (t.bank g b).busy = false ∧ (∀ a, inBank g b a = false → t.mem.get a = s.mem.get a) ∧
       ((k.mode = 0 ∧ k.toMode ≠ 0) ∨ (k.mode = 1 ∧ k.toMode = 2) ∨ (k.mode = 2 ∧ k.toMode = 1) → ∀ a, inBank g b a = true → t.mem.get a = 0))))

/-- R27, R52, R78, R166, R358: a wait ends when its condition holds, or by its watchdog; the iteration watchdog. -/
def Obligations.WaitsAndWatchdogs : Prop :=
  (∀ (s : State) (w : WaitRec), s.cur.wait = some w → s.cur.phase = .waiting → s.running s.cur.slot = true →
    let r := s.cur.ref
    (s.waitHolds s.cur w.cond = true → exec (.waitSatisfied r) s = .next (s.setCur (fun c => { c with phase := .ready, wait := none }))) ∧
    (s.waitHolds s.cur w.cond = false → exec (.waitSatisfied r) s = .next s) ∧
    (s.waitHolds s.cur w.cond = false → w.since + w.bound ≤ s.cycle →
      (∀ n, w.cond = .full n → exec (.waitWatchdog r) s = .next (s.takeFault r ⟨0x19, 0, 0, false⟩ s.cur.pc)) ∧
      (∀ g k p, w.cond = .phaseNot g k p → exec (.waitWatchdog r) s = .next (s.takeFault r ⟨0x19, 0, 0, false⟩ s.cur.pc)) ∧
      (∀ g, w.cond = .lease g ∨ w.cond = .quiescent g ∨ w.cond = .joinQuiet g → exec (.waitWatchdog r) s = .next (s.takeFault r ⟨0x19, 0, 0, false⟩ s.cur.pc)) ∧
      (∀ ps b, w.cond = .copyOrder ps b → exec (.waitWatchdog r) s = .next (s.takeFault r ⟨0x19, 0, 0, false⟩ s.cur.pc)) ∧
      (∀ g n t, w.cond = .troughFree g n ∨ w.cond = .troughFull g n ∨ w.cond = .headFree g n ∨ w.cond = .tailFull g n → Tbl.get? s.troughs (troughKey g n) = some t →
        exec (.waitWatchdog r) s = .next ((s.setTrough (troughKey g n) { t with inc := true }).takeFault r ⟨0x0F, 0, 0, false⟩ s.cur.pc)) ∧
      (∀ ps, w.cond = .pageReply ps → exec (.pageRequestWatchdog r) s = .next (s.takeFault r ⟨0x19, 6, 0, false⟩ s.cur.pc))) ∧
    (s.cycle < w.since + w.bound → s.banks = [] → exec (.waitWatchdog r) s = .next s) ∧
    (s.cycle < w.since + w.bound → s.cur.copyq = [] → exec (.pageRequestWatchdog r) s = .next s)) ∧
  (∀ (s : State) (x : Slot) (i : Image), s.running s.cur.slot = true → s.cur.phase = .ready → EntryIs s s.cur.slot x → Tbl.get? s.images x.image = some i →
    (fieldN i.header 191 160 < s.cur.sinceBoundary → exec (.maxiterWatchdog s.cur.ref) s = .next (s.takeFault s.cur.ref ⟨0x19, 3, 0, false⟩ s.cur.pc)) ∧
    (s.cur.sinceBoundary ≤ fieldN i.header 191 160 → exec (.maxiterWatchdog s.cur.ref) s = .next s))

/-- R232, R355, R357, R362 to R364, R369, R370: asynchronous faults and events delivered at a boundary, page replies, invalidations answered. -/
def Obligations.Deliveries : Prop :=
  (∀ (s : State) (f : FaultRec) (rest : List FaultRec), s.cur.faults = f :: rest →
    (s.cur.hd = false → s.running s.cur.slot = true → s.cur.halting = none → s.cur.yielding = false → s.cur.phase = .ready ∨ s.cur.phase = .waiting →
      exec (.faultDelivery s.cur.ref) s = .next ((s.setCur (fun c => { c with faults := rest })).takeFault s.cur.ref f s.cur.pc)) ∧
    (s.cur.hd = true ∨ s.running s.cur.slot = false → exec (.faultDelivery s.cur.ref) s = .next s)) ∧
  (∀ (s : State), s.cur.faults = [] → exec (.faultDelivery s.cur.ref) s = .next s) ∧
  (∀ (s : State) (f : FaultRec) (rest : List FaultRec), s.cur.events = f :: rest →
    (s.cur.hd = false → s.running s.cur.slot = true → s.cur.halting = none → s.cur.phase = .ready → s.cur.faults = [] →
      (s.cur.tvec ≠ 0 → exec (.eventDelivery s.cur.ref) s = .next ((s.setCur (fun c => { c with events := rest })).takeFault s.cur.ref f s.cur.pc)) ∧
      (s.cur.tvec = 0 → exec (.eventDelivery s.cur.ref) s = .next { (s.setCur (fun c => { c with events := rest })) with
        lostEvents := Tbl.set s.lostEvents (s.vfOf s.cur.slot) ((Tbl.get? s.lostEvents (s.vfOf s.cur.slot)).getD 0 + 1) })) ∧
    (s.cur.hd = true ∨ s.cur.faults ≠ [] ∨ s.cur.phase = .waiting → exec (.eventDelivery s.cur.ref) s = .next s)) ∧
  (∀ (s : State) (vf id ipa : Nat) (v : Vf) (q : PageReq), Tbl.get? s.vfs vf = some v → v.reqs.find? (fun q => decide (q.id.toNat = id) && decide (q.ipa = ipa)) = some q →
    Tbl.get? s.dortas.captures vf = none → Tbl.get? s.replays vf = none → ∀ w : WaitRec, s.cur.wait = some w → w.cond = .pageReply [ipa] → q.waiters = [s.cur.ref] → s.cur.ref.slot < 2 ^ 22 → s.cur.ref.num < 2 ^ 20 →
    s.cur.copyq = [] →
    let gone : State := { s with vfs := Tbl.set s.vfs vf { v with reqs := v.reqs.filter (fun x => decide (x.id ≠ q.id)) } }
    exec (.pageGrant vf id ipa) s = .next (gone.setCur (fun c => { c with wait := some { w with since := s.cycle } })) ∧
    exec (.pageDeny vf id ipa) s = .next (gone.setCur (fun c => { c with denied := c.denied ++ [ipa] }))) ∧
  (∀ (s : State) (i : Instr) (vf id ipa : Nat), i = .pageGrant vf id ipa ∨ i = .pageDeny vf id ipa →
    (∀ v, Tbl.get? s.vfs vf = some v → ∀ q ∈ v.reqs, ¬(q.id.toNat = id ∧ q.ipa = ipa)) →
    exec i s = .next { s with dortas := { s.dortas with replies := Tbl.set s.dortas.replies vf ((Tbl.get? s.dortas.replies vf).getD 0 + 1) } }) ∧
  (∀ (s : State) (vf : Nat),
    (∀ i : Inval, s.dortas.invals = [i] → i.vf = vf → (∀ k ∈ i.ids, s.performedAt k .dev = true) →
      exec (.invalComplete vf) s = .next (({ s with dortas := { s.dortas with invals := [] } } : State).send i.resp)) ∧
    ((∀ i ∈ s.dortas.invals, i.vf = vf → ∃ k ∈ i.ids, s.performedAt k .dev = false) → exec (.invalComplete vf) s = .next s)) ∧
  (∀ (s : State) (w : Word) (d : BitVec 8),
    exec (.unallocatedEncoding (.illegal d) w) s = .next (s.takeFault s.cur.ref ⟨0x01, d, w, false⟩ s.cur.pc) ∧
    exec (.unallocatedEncoding .reserved w) s = .next (s.takeFault s.cur.ref ⟨0x02, 0, w, false⟩ s.cur.pc) ∧
    exec (.unallocatedEncoding (.stepProgram d) w) s = .next (s.stepStop s.curStep 0x17 d))

/-! ## The fabric, the host and power (R371 to R410) -/

namespace Sys2Proof.Machine

/-- A packet of a type in good form for a VF of this device that exists and is neither captured nor replayed (R372, R373, R404, R405). -/
def PacketOk (s : State) (type : Nat) (m : Msg) : Prop :=
  badMsg type m = false ∧ s.isLocal m.dest = true ∧ (Tbl.get? s.vfs (epVf m.dest)).isSome = true ∧ Tbl.get? s.dortas.captures (epVf m.dest) = none ∧
  Tbl.get? s.replays (epVf m.dest) = none

/-- The transport's answer to a packet (R375, R382). -/
def reply (m : Msg) (type : Nat) (off : BitVec 32) : Msg := ⟨mkHeader m.src m.dest 0 0 false off 0 m.tag m.mseq 0 type, [], 0, [], m.psn, 0⟩

/-- A receive has taken a packet's payload (R375 step 4): its bytes are a store of the step engine, and the acknowledgement is owed until that is
performed at dev. -/
def DataTaken (s t : State) (m : Msg) (h age : Nat) (p : Piece) : Prop :=
  t.mem = s.mem ∧ t.coh = s.coh ∧ (∃ r : StoreRec, t.hold = s.hold ++ [r] ∧ r.id = s.nextId ∧ r.pa = p.pa ∧ r.bytes = m.payload ∧ r.ps = none) ∧
  (m.src, m.psn) ∈ t.fabric.accepted ∧
  ∃ (d : StepCtx) (b : Armed), Tbl.get? t.steps h = some d ∧ d.armed age = some b ∧ m.off ∈ b.got ∧ ([s.nextId], reply m 3 0) ∈ b.owed

/-- A command that Dortas takes: bring-up complete, from management, in form (R383 to R385, R402). -/
def CmdOk (s : State) (c : Cmd) (op n : Nat) : Prop :=
  s.boot.phase = .up ∧ c.src ∈ s.boot.mgmt ∧ c.op = op ∧ fieldN c.record 63 48 = 0 ∧ fieldN c.record 39 32 = 0 ∧ fieldN c.record 31 16 = 0 ∧ n ≤ c.words.length

/-- The answer of a command: its record with STATUS st, then result words (R384, R385). -/
def State.answered (s : State) (c : Cmd) (st : Nat) (ws : List Nat) : State :=
  { s with out := s.out ++ [⟨mkHeader c.src (0#24 ++ s.devaddr ++ 0xFF#8) 0 0 false 0 (16 + 8 * ws.length) 0 0 0 0x21, [], 0,
    natBytes (setField (c.record &&& 0xFFFFFFFFFFFFFFFF0000FF00FFFFFFFF) 31 16 st).toNat 16 ++ ws.flatMap (fun w => natBytes w 8), 0, 0⟩] }

/-- The commands that need an existing VF or the device, with OP and operand words (R385). -/
def IsVfCommand (c : Cmd) (q : Instr × Nat × Nat) : Prop :=
  q ∈ [(.vfDestroy c, 0x0002, 0), (.s1root c, 0x0010, 1), (.s2root c, 0x0011, 1), (.inval c, 0x0012, 3), (.imgLoad c, 0x0020, 2), (.rcbWrite c, 0x0021, 9),
   (.lrecWrite c, 0x0022, 18), (.rcbCreate c, 0x0023, 11), (.rcbDelete c, 0x0024, 1), (.lrecArm c, 0x0025, 2), (.kill c, 0x0030, 1), (.preempt c, 0x0031, 1),
   (.resume c, 0x0032, 1), (.rwinSet c, 0x0040, 5), (.rmawinSet c, 0x0041, 4), (.routeSet c, 0x0042, 3), (.cgrpEn c, 0x0043, 2), (.keySet c, 0x0044, 1),
   (.assayRead c, 0x0050, 0), (.faultReport c, 0x0051, 0)]

end Sys2Proof.Machine

/-- R371 to R376, R382: clear-to-send, data, acknowledgement and retransmission; what is malformed, unexpected or in transit. -/
def Obligations.FabricMessages : Prop :=
  (∀ (s : State) (m : Msg) (q : Instr × Nat), q ∈ [(Instr.cts m, 1), (.data m, 2), (.ack m, 3), (.coded m, 4), (.dnak m, 5), (.sia m, 6), (.siw m, 7), (.rmaWr m, 0x10),
      (.rmaRd m, 0x11), (.rmaResp m, 0x12)] → badMsg q.2 m = true →
    exec q.1 s = .next { s with dortas := { s.dortas with packets := s.dortas.packets + 1 } }) ∧
  (∀ (s : State) (m : Msg), PacketOk s 1 m → s.fabric.ctsHeld.length < 2048 →
    exec (.cts m) s = .next { s with fabric := { s.fabric with ctsHeld := s.fabric.ctsHeld ++ [m] } }) ∧
  (∀ (s : State) (m : Msg), PacketOk s 2 m →
    ((m.src, m.psn) ∈ s.fabric.accepted → exec (.data m) s = .next { s with out := s.out ++ [reply m 3 0] }) ∧
    (∀ (h : Nat) (a : Armed) (c : StepCtx), (m.src, m.psn) ∉ s.fabric.accepted → s.receiverOf m = some (h, a) → Tbl.get? s.steps h = some c → c.status = none →
      c.armed a.age = some a →
      (a.wellFormed m.off m.len = false → ∃ t, exec (.data m) s = .next t ∧ t.out = s.out ++ [reply m 3 0] ∧ ∃ d, Tbl.get? t.steps h = some d ∧ d.status = some 0x0517 ∧ d.store = []) ∧
      (a.wellFormed m.off m.len = true → m.off ∈ a.got → exec (.data m) s = .next { s with out := s.out ++ [reply m 3 0] }) ∧
      (∀ (va : Nat) (p : Piece), a.wellFormed m.off m.len = true → m.off ∉ a.got → a.op = .recv →
        stepSpan h (rawSide 2) (a.lbuf + BitVec.ofNat 64 m.off) m.len s = .ok ([(va, p)], s) → p.page.remote = none → p.len = m.payload.length →
        ∃ t, exec (.data m) s = .next t ∧ DataTaken s t m h a.age p))) ∧
  (∀ (s : State) (m : Msg) (t : TxRec), PacketOk s 3 m → s.sentAs m = some t →
    exec (.ack m) s = .next { s with fabric := { s.fabric with unacked := s.fabric.unacked.erase t } }) ∧
  (∀ (s : State) (m : Msg), PacketOk s 3 m → s.sentAs m = none → exec (.ack m) s = .next s) ∧
  (∀ (s : State) (m : Msg) (t : TxRec), PacketOk s 5 m → s.sentAs m = some t → t.msg.type = 2 →
    exec (.dnak m) s = .next { s with fabric := { s.fabric with egress := s.fabric.egress ++ [⟨{ t.msg with header := setField t.msg.header 96 96 0 }, true⟩] } }) ∧
  (∀ (s : State) (n : Nat) (t : TxRec), s.fabric.unacked.find? (fun t => decide (t.psn.toNat = n)) = some t →
    (t.msg.type = 2 → exec (.retransmitTimeout n) s =
      .next { s with fabric := { s.fabric with egress := s.fabric.egress ++ [⟨{ t.msg with header := setField t.msg.header 96 96 0 }, true⟩] } }) ∧
    (t.msg.type ≠ 2 → exec (.retransmitTimeout n) s = .next { s with out := s.out ++ [t.msg] })) ∧
  (∀ (s : State) (m : Msg) (r : FabRoute) (q : Queued), s.fabric.egress.find? (fun q => decide (q.msg = m)) = some q → s.isLocal m.dest = false →
    s.routeFor (epDev m.dest) = some r → r.local_ = false → (∃ j, j < 16 ∧ r.adits.getLsbD j = true) → ∃ (t : State) (j : Nat), exec (.packetForward m) s = .next t ∧
      t.out = s.out ++ [{ m with adit := j }] ∧ j < 16 ∧ r.adits.getLsbD j = true ∧ t.fabric.egress = s.fabric.egress.erase q ∧
      (m.type ∈ [1, 6, 7, 0x20, 0x21, 0x22, 0x23] → ∀ i, i < j → r.adits.getLsbD i = false))

/-- R275, R378 to R381, R389: side information entered, withdrawn and removed; packets combined by exclusive or, and decoded or refused. -/
def Obligations.SideInfoAndCoding : Prop :=
  (∀ (s : State) (m : Msg) (r : SiaRec), m.len = 16 → m.payload = natBytes r.ep.toNat 8 ++ natBytes r.blkid.toNat 2 ++ [r.blkg, r.cgrp] ++ natBytes r.len.toNat 4 →
    (PacketOk s 6 m → s.fabric.summary.length < 8192 → exec (.sia m) s =
      .next { s with fabric := { s.fabric with summary := s.fabric.summary ++ [r] }, out := s.out ++ [reply m 3 0] }) ∧
    (PacketOk s 6 m → 8192 ≤ s.fabric.summary.length → exec (.sia m) s = .next { s with out := s.out ++ [reply m 3 0] }) ∧
    (PacketOk s 7 m → exec (.siw m) s = .next { s with fabric := { s.fabric with summary := s.fabric.summary.erase r }, out := s.out ++ [reply m 3 0] })) ∧
  (∀ (s : State) (die vf : Nat) (blkid : BitVec 16) (blkg : BitVec 8),
    (∀ e, s.sitFind die vf blkid blkg = some e → e.retiring = true → (∀ b ∈ s.fabric.decoding, s.cycle < b.until_ → e.key ∉ b.keys) →
      exec (.sitEntryRemove die vf blkid blkg) s = .next { s with fabric := { s.fabric with sit := s.fabric.sit.erase e } }) ∧
    (∀ e, s.sitFind die vf blkid blkg = some e → e.retiring = false → exec (.sitEntryRemove die vf blkid blkg) s = .next s)) ∧
  (∀ (s : State) (m : Msg), badMsg 4 m = false → (∀ k ∈ m.comps, s.isLocal k.dest = false) → ∃ t, exec (.coded m) s = .next t ∧ (∀ x ∈ s.out, x ∈ t.out) ∧
    (∀ k ∈ m.comps, ∀ r j, s.routeFor (epDev k.dest) = some r → (aditsOf r.adits).head? = some j → j ≠ m.adit → ({ m with adit := j } : Msg) ∈ t.out) ∧
    t.steps = s.steps ∧ t.hold = s.hold ∧ t.mem = s.mem ∧ t.cur = s.cur) ∧
  (∀ (s : State) (m : Msg) (a k : Comp) (h : Nat) (r : Armed) (c : StepCtx) (e : SitEntry) (bs : List Byte) (va : Nat) (p : Piece), badMsg 4 m = false →
    m.comps = [a, k] ∨ m.comps = [k, a] → s.isLocal a.dest = true → s.isLocal k.dest = false → s.passCoded m = s → (a.src, a.psn) ∉ s.fabric.accepted →
    Tbl.get? s.dortas.captures (epVf a.dest) = none → Tbl.get? s.replays (epVf a.dest) = none →
    let d : Msg := ⟨mkHeader a.dest a.src a.blkid a.blkg false a.off m.len a.tag a.mseq (BitVec.ofNat 8 m.cgrp) 2, [], 0, List.zipWith (· ^^^ ·) m.payload bs, a.psn, m.adit⟩
    let u : State := { s with free := s.free + 1, fabric := { s.fabric with
      decoding := s.fabric.decoding.filter (fun b => decide (s.cycle < b.until_)) ++ [⟨m.adit, s.cycle + (Config.freeWord s.free).toNat % 65, [e.key]⟩] } }
    s.receiverOf d = some (h, r) → Tbl.get? s.steps h = some c → c.status = none → c.armed r.age = some r → r.op = .recv →
    r.wellFormed d.off m.len = true → d.off ∉ r.got →
    (s.fabric.decoding.filter (fun b => b.adit = m.adit && decide (s.cycle < b.until_))).length < 256 →
    s.sitFind c.die (epVf a.dest) k.blkid k.blkg = some e → e.retiring = false → k.off.toNat + m.len ≤ e.len → s.sitBytes e k.off.toNat m.len = some bs →
    bs.length = m.len → stepSpan h (rawSide 2) (r.lbuf + BitVec.ofNat 64 d.off) m.len u = .ok ([(va, p)], u) → p.page.remote = none → p.len = m.len →
    ∃ t, exec (.coded m) s = .next t ∧ DataTaken u t d h r.age p) ∧
  (∀ (s : State) (a b : Queued) (j : Nat), s.fabric.egress = [a, b] → s.mayCode [a, b] = true → s.codedAdit a.msg = some j → s.codedAdit b.msg = some j →
    ∃ (t : State) (x : Msg), exec (.codedForm j) s = .next t ∧ t.out = s.out ++ [x] ∧ t.fabric.egress = [] ∧ t.mem = s.mem ∧ x.type = 4 ∧ x.ncomp = 2 ∧
      x.len = a.msg.len ∧ x.cgrp = a.msg.cgrp ∧ x.adit = j ∧ x.payload = List.zipWith (· ^^^ ·) a.msg.payload b.msg.payload ∧
      x.comps.Perm [compOf a.msg, compOf b.msg] ∧ x.comps.Pairwise (fun p q => p.dest.toNat ≤ q.dest.toNat)) ∧
  (∀ (s : State) (m : Msg) (a k : Comp) (h : Nat) (r : Armed) (c : StepCtx), badMsg 4 m = false → m.comps = [a, k] ∨ m.comps = [k, a] → s.isLocal a.dest = true →
    s.isLocal k.dest = false → s.passCoded m = s → (a.src, a.psn) ∉ s.fabric.accepted →
    let d : Msg := ⟨mkHeader a.dest a.src a.blkid a.blkg false a.off m.len a.tag a.mseq (BitVec.ofNat 8 m.cgrp) 2, [], 0, m.payload, a.psn, m.adit⟩
    s.receiverOf d = some (h, r) → Tbl.get? s.steps h = some c →
    (s.fabric.decoding.filter (fun b => b.adit = m.adit && decide (s.cycle < b.until_))).length < 256 →
    (∀ (e : SitEntry) (bs : List Byte), s.sitFind c.die (epVf a.dest) k.blkid k.blkg = some e → e.retiring = false → k.off.toNat + m.len ≤ e.len →
      s.sitBytes e k.off.toNat m.len = some bs → bs.length = m.len →
      ∃ n, s.cycle ≤ n ∧ n ≤ s.cycle + 64 ∧ exec (.coded m) s = exec (.data { d with payload := List.zipWith (· ^^^ ·) m.payload bs })
        { s with free := s.free + 1, fabric := { s.fabric with
            decoding := s.fabric.decoding.filter (fun b => decide (s.cycle < b.until_)) ++ [⟨m.adit, n, [e.key]⟩] } }) ∧
    (s.sitFind c.die (epVf a.dest) k.blkid k.blkg = none →
      (r.op = .recv → r.fl.getLsbD 1 = true → exec (.coded m) s = .next (({ s with out := s.out ++ [reply d 5 0] } : State).stepStop h 0x16 0)) ∧
      (r.op = .rrs ∨ (r.op = .recv ∧ r.fl.getLsbD 1 = false) → exec (.coded m) s =
        .next (({ s with out := s.out ++ [reply d 5 0] } : State).post c.starter ⟨0x24, 0, a.blkid.setWidth 64, true⟩))))

/-- R284, R299, R377, R387, R409: remote writes and reads of one sector, and the answers to this device's own. -/
def Obligations.RemoteMemory : Prop :=
  (∀ (s : State) (m : Msg) (pa ipa : Nat), PacketOk s 0x10 m → badRma true m = false → s.rmaIpa m true = some ipa →
    s.rmaSpan (epVf m.dest) 2 (sectorCuts ipa (m.len / 32 + 2) m.len) = .ok [(pa, m.len)] → s.poisoned pa = false → pa % 32 + m.len ≤ 32 → s.mem.wf = true →
    m.src ∈ s.boot.mgmt ∨ s.peerReady (epVf m.dest) [(pa, m.len)] = true →
    ∃ t, exec (.rmaWr m) s = .next t ∧ t.cur = s.cur ∧ t.hold = s.hold ∧
      (∀ a, t.lastByte a = if pa ≤ a ∧ a < pa + m.len then m.payload.getD (a - pa) 0 else s.lastByte a) ∧
      (fieldN m.rma 18 16 ≠ 0 → t.out = s.out ++ [⟨mkHeader m.src m.dest 0 0 false 0 0 0 0 0 0x12, [], setField m.rma 15 8 0, [], 0, 0⟩]) ∧
      (fieldN m.rma 18 16 = 0 → t.out = s.out)) ∧
  (∀ (s : State) (m : Msg) (v : Vf) (w : RmaWin), PacketOk s 0x10 m ∨ PacketOk s 0x11 m → m.src ∈ s.boot.mgmt → Tbl.get? s.vfs (epVf m.dest) = some v →
    Tbl.get? v.rma (fieldN m.rma 3 0) = some w →
    let off := fieldN m.rma 127 64
    let n := fieldN m.rma 31 19
    (off + n ≤ w.len → (w.w = true → s.rmaIpa m true = some (w.base + off)) ∧ (w.r = true → s.rmaIpa m false = some (w.base + off))) ∧
    (w.len < off + n → PacketOk s 0x11 m → badRma false m = false →
      exec (.rmaRd m) s = .next { s with out := s.out ++ [⟨mkHeader m.src m.dest 0 0 false 0 0 0 0 0 0x12, [], setField m.rma 15 8 3, [], 0, 0⟩] })) ∧
  (∀ (s : State) (m : Msg) (pa ipa : Nat), PacketOk s 0x11 m → badRma false m = false → s.rmaIpa m false = some ipa → fieldN m.rma 18 16 = 0 →
    let n := fieldN m.rma 31 19
    s.rmaSpan (epVf m.dest) 1 (sectorCuts ipa (n / 32 + 2) n) = .ok [(pa, n)] → s.poisoned pa = false →
    exec (.rmaRd m) s = .next { s with out := s.out ++ [⟨mkHeader m.src m.dest 0 0 false 0 n 0 0 0 0x12, [], setField m.rma 15 8 0,
      bytesFrom (if m.src ∈ s.boot.mgmt then s.devByte else s.viewByte (peerLoc (epVf m.dest))) pa n, 0, 0⟩] }) ∧
  (∀ (s : State) (m : Msg) (r : RemoteReq), PacketOk s 0x12 m → s.remotes.find? (fun q => decide (q.rid % 65536 = fieldN m.rma 47 32)) = some r →
    r.by_ = s.cur.ref → s.cur.ref.num < 2 ^ 20 →
    let left := s.remotes.filter (fun q => decide (q.rid ≠ r.rid))
    let st := fieldN m.rma 15 8
    let rest (id pa : Nat) : List StoreRec := s.hold.filter (fun q => !(decide (q.id = id) && decide (q.pa = pa)))
    (∀ id pa q, r.store = some (id, pa) → st = 0 → s.hold.find? (fun q => decide (q.id = id) && decide (q.pa = pa)) = some q → q.rels = [] →
      exec (.rmaResp m) s = .next { s with remotes := left, hold := rest id pa }) ∧
    (∀ id pa, r.store = some (id, pa) → st ≠ 0 → s.cur.copyq = [] → s.cur.faults.length < 16 →
      exec (.rmaResp m) s = .next (({ s with remotes := left, hold := rest id pa } : State).setCur
        (fun c => { c with faults := c.faults ++ [⟨0x0B, 1, r.va, false⟩] }))) ∧
    (∀ va, r.store = none → s.cur.copyq = [] → s.cur.remoteLd = some (va, r.rid, none) →
      exec (.rmaResp m) s = .next (({ s with remotes := left } : State).setCur (fun c => { c with
        remoteLd := some (va, r.rid, some (if st = 0 then some m.payload else none)) })))) ∧
  (∀ (s : State) (m : Msg), PacketOk s 0x12 m → (∀ r ∈ s.remotes, r.rid % 65536 ≠ fieldN m.rma 47 32) → exec (.rmaResp m) s = .next s) ∧
  (∀ (s : State) (r : StoreRec) (i : Nat) (w : RemoteWin), s.hold.filter (fun q => decide (q.id = r.id)) = [r] → r.page.remote = some i → Tbl.get? s.rwins i = some w →
    (s.maySend r = false → exec (.holdBufferLeave r.id) s = .next s) ∧
    (s.maySend r = true → ∃ (t : State) (m : Msg), exec (.holdBufferLeave r.id) s = .next t ∧ t.out = s.out ++ [m] ∧ m.type = 0x10 ∧ m.dest = w.target ∧ m.payload = r.bytes ∧
      fieldN m.rma 127 64 = (w.base + r.pa % 2 ^ 36) % 2 ^ 64 ∧ fieldN m.rma 18 16 = 2 ∧ t.remotes = s.remotes ++ [⟨s.nextId, r.by_, some (r.id, r.pa), r.va⟩] ∧
      t.hold = s.hold.map (fun q => if q.id = r.id ∧ q.pa = r.pa then { q with sent := true } else q) ∧ t.mem = s.mem ∧ t.cur = s.cur))

/-- R383 to R385, R394, R402: what every command is checked for first. R11 to R21, R326, R337, R341, R342, R351, R355, R385: what the commands on VFs,
regions, launch records and entries do. -/
def Obligations.HostCommands : Prop :=
  (∀ (s : State) (c : Cmd) (q : Instr × Nat × Nat), q = (Instr.vfCreate c, 0x0001, 3) ∨ IsVfCommand c q →
     (s.boot.phase = .released ∨ s.boot.phase = .recovery → exec q.1 s = .next (s.answered c 4 [])) ∧
     (s.boot.phase = .up → c.src ∉ s.boot.mgmt → exec q.1 s = .next { s with dortas := { s.dortas with packets := s.dortas.packets + 1 } }) ∧
     (s.boot.phase = .up → c.src ∈ s.boot.mgmt → c.op ≠ q.2.1 ∨ c.words.length < q.2.2 ∨ fieldN c.record 63 48 ≠ 0 ∨ fieldN c.record 39 32 ≠ 0 ∨ fieldN c.record 31 16 ≠ 0 →
       exec q.1 s = .next (s.answered c 2 [])) ∧
     (IsVfCommand c q → CmdOk s c q.2.1 q.2.2 → Tbl.get? s.vfs c.vf = none → c.vf ≠ 0xFF → (∀ i, i < 5 → c.num i = 0) → exec q.1 s = .next (s.answered c 3 []))) ∧
  (∀ (s : State) (c : Cmd) (v : Vf),
     (CmdOk s c 1 3 → c.vf < 192 → Tbl.get? s.vfs c.vf = none → c.num 0 < 2 ^ 8 → c.num 1 < 2 ^ 16 → c.num 2 ≤ 4096 →
       ∃ (t : State) (n : RcbNode), exec (.vfCreate c) s = .next t ∧ Tbl.get? t.vfs c.vf = some ⟨BitVec.ofNat 64 (c.num 0), c.num 1, c.src, none, none, [], 0, [], []⟩ ∧
         Tbl.get? t.rcbs (1 + c.vf) = some n ∧ n.level = 1 ∧ n.parent = 0 ∧ n.vf = c.vf ∧ n.poolSize = c.num 2 ∧ n.get .fdom = 1 ∧ n.ovrBit 2 = true ∧
         n.get .share = 1 ∧ n.get .slice = 2000 ∧ n.get .bindmax = 10000 ∧ n.get .outreq = 1024 ∧ t.out = (s.answered c 0 [1 + c.vf]).out ∧ t.cur = s.cur ∧ t.mem = s.mem) ∧
     (Tbl.get? s.vfs c.vf = some v →
       (CmdOk s c 2 0 → (∀ d ∈ s.dortas.destroying, d.1 ≠ c.vf) → (∀ x ∈ s.slots, x.2.vf ≠ c.vf) →
         ∃ t, exec (.vfDestroy c) s = .next t ∧ t.images = s.images.filter (fun i => decide (i.2.vf ≠ c.vf)) ∧ t.vfs = Tbl.del s.vfs c.vf ∧
           t.out = (s.answered c 0 []).out ∧ t.mem = s.mem ∧ t.cur = s.cur) ∧
       (∀ k x, CmdOk s c 2 0 → (∀ d ∈ s.dortas.destroying, d.1 ≠ c.vf) → EntryIs s k x → x.vf = c.vf → 2 ≤ x.state → x.state ≤ 5 → NotRetiring s k → (s.slots.map (·.1)).Nodup →
         ∃ (t : State) (y : Slot), exec (.vfDestroy c) s = .next t ∧ EntryIs t k y ∧ y.state = 6 ∧ y.kill = some (.reason 0x0100)) ∧
       (CmdOk s c 0x10 1 → (c.num 0 % 4096 = 0 → exec (.s1root c) s = .next (({ s with vfs := Tbl.set s.vfs c.vf { v with s1root := some (c.num 0) } } : State).answered c 0 [])) ∧
         (c.num 0 % 4096 ≠ 0 → exec (.s1root c) s = .next (s.answered c 1 []))) ∧
       (CmdOk s c 0x11 1 → (c.num 0 % 4096 = 0 → exec (.s2root c) s = .next (({ s with vfs := Tbl.set s.vfs c.vf { v with s2root := some (c.num 0) } } : State).answered c 0 [])) ∧
         (c.num 0 % 4096 ≠ 0 → exec (.s2root c) s = .next (s.answered c 1 []))) ∧
       (CmdOk s c 0x12 3 → c.num 0 = 1 ∨ c.num 0 = 2 → c.num 1 % 65536 = 0 → c.num 2 % 65536 = 0 →
         ∃ (t : State) (i : Inval), exec (.inval c) s = .next t ∧ t.dortas.invals = s.dortas.invals ++ [i] ∧ i.vf = c.vf ∧ t.out = s.out ∧ t.mem = s.mem ∧
           (∀ r ∈ s.hold ++ s.coh, r.loc.vf = c.vf → psAtLeast r.ps .dev = false → r.id ∈ i.ids) ∧ (s.answered c 0 []).out = s.out ++ [i.resp]) ∧
       (∀ (l : List (Nat × Nat)) (i : Image), CmdOk s c 0x20 2 → c.num 0 + c.num 1 ≤ 2 ^ 48 → s.rmaSpan c.vf 0 (sectorCuts (c.num 0) (c.num 1 / 32 + 2) (c.num 1)) = .ok l →
         (∀ x ∈ l, s.poisoned x.1 = false) → loadImage c.vf (l.flatMap (fun x => bytesFrom s.devByte x.1 x.2)) = some i →
         ∃ (t : State) (n : Nat), exec (.imgLoad c) s = .next t ∧ Tbl.get? t.images n = some i ∧ t.out = (s.answered c 0 [n]).out ∧ t.mem = s.mem ∧ t.cur = s.cur) ∧
       (∀ (x : RcbNode), CmdOk s c 0x21 9 → Tbl.get? s.rcbs (c.num 0) = some x → x.level ≠ 0 → x.vf = c.vf →
         let b : BitVec 512 := BitVec.ofNat 512 (c.recordAt 1 8)
         let new : RcbNode := { x with
           bits := withOwn b (c.num 0) x.parent x.level x.vf, cycUse := 0, bytUse := 0, exhCyc := false, exhByt := false, since := if x.exhCyc || x.exhByt then s.cycle else x.since }
         let t : State := { s with rcbs := Tbl.set s.rcbs (c.num 0) new }
         rcbReserved b = false →
           (recordOk new.bits = true → t.subtreeOk (c.num 0) = true → exec (.rcbWrite c) s = .next ((t.quotaRestored (c.num 0)).answered c 0 [])) ∧
           (recordOk new.bits = false ∨ t.subtreeOk (c.num 0) = false → exec (.rcbWrite c) s = .next (s.answered c 1 []))) ∧
       (∀ (p : RcbNode), CmdOk s c 0x23 11 → Tbl.get? s.rcbs (c.num 1) = some p → p.vf = c.vf → 1 ≤ p.level → p.level ≤ 4 → 193 ≤ c.num 0 → c.num 0 ≤ 16383 →
         Tbl.get? s.rcbs (c.num 0) = none → c.num 2 ≤ 4096 →
         let b : BitVec 512 := BitVec.ofNat 512 (c.recordAt 3 8)
         let bits := withOwn b (c.num 0) (c.num 1) (p.level + 1) p.vf
         let t : State := s.addNode (c.num 0) (newNode bits (c.num 2))
         rcbReserved b = false → recordOk bits = true → t.nodeOk (c.num 0) = true → exec (.rcbCreate c) s = .next (t.answered c 0 [])) ∧
       (∀ (x : RcbNode), CmdOk s c 0x24 1 → Tbl.get? s.rcbs (c.num 0) = some x → x.vf = c.vf → 193 ≤ c.num 0 →
         (x.pool = [] → (∀ y ∈ s.rcbs, y.2.parent ≠ c.num 0) → (∀ y ∈ s.slots, y.2.rcbx ≠ c.num 0) →
           exec (.rcbDelete c) s = .next (({ s with rcbs := Tbl.del s.rcbs (c.num 0) } : State).answered c 0 [])) ∧
         ((∃ y ∈ s.rcbs, y.2.level ≠ 0 ∧ y.2.parent = c.num 0) → exec (.rcbDelete c) s = .next (s.answered c 1 []))) ∧
       (∀ (x : RcbNode), Tbl.get? s.rcbs (c.num 0) = some x → x.vf = c.vf → c.num 1 < x.poolSize →
         let old := x.lrec (c.num 0) (c.num 1)
         (CmdOk s c 0x22 18 →
           let r : BitVec 1024 := BitVec.ofNat 1024 (c.recordAt 2 16)
           let new := setField (setField (setField r 33 32 0) 31 16 (c.num 0)) 15 0 (fieldN old 15 0)
           lrReserved r = false →
             (fieldN old 33 32 = 0 → s.lrecOk c.vf (c.num 0) new = true →
               exec (.lrecWrite c) s = .next (({ s with rcbs := Tbl.set s.rcbs (c.num 0) { x with pool := Tbl.set x.pool (c.num 1) new } } : State).answered c 0 [])) ∧
             (fieldN old 33 32 ≠ 0 ∨ s.lrecOk c.vf (c.num 0) new = false → exec (.lrecWrite c) s = .next (s.answered c 1 []))) ∧
         (CmdOk s c 0x25 2 → Tbl.get? s.dortas.captures x.vf = none →
           (fieldN old 33 32 ≠ 0 → exec (.lrecArm c) s = .next (s.answered c 0 [1])) ∧
           (fieldN old 33 32 = 0 → s.overDemand (c.num 0) old = none → ∃ (t : State) (n : RcbNode), exec (.lrecArm c) s = .next t ∧ Tbl.get? t.rcbs (c.num 0) = some n ∧
             t.out = (s.answered c 0 [0]).out ∧ fieldN (n.lrec (c.num 0) (c.num 1)) 33 32 = 1 ∧
             fieldN (n.lrec (c.num 0) (c.num 1)) 15 0 = (fieldN old 15 0 + 1) % 65536 ∧ t.cur = s.cur ∧ t.mem = s.mem))) ∧
       (∀ (x : Slot), EntryIs s (c.num 0) x → x.vf = c.vf →
         (CmdOk s c 0x30 1 → 2 ≤ x.state → x.state ≤ 5 → NotRetiring s (c.num 0) → ∃ (t : State) (y : Slot), exec (.kill c) s = .next t ∧ EntryIs t (c.num 0) y ∧ y.state = 6 ∧
           y.kill = some (.reason 0x0100) ∧ t.out = (s.answered c 0 []).out ∧ t.cur = s.cur) ∧
         (CmdOk s c 0x31 1 → (x.state = 2 → NotRetiring s (c.num 0) → ∃ (t : State) (y : Slot), exec (.preempt c) s = .next t ∧ EntryIs t (c.num 0) y ∧ y.state = 3 ∧
           t.out = (s.answered c 0 []).out ∧ t.cur = s.cur) ∧ (x.state = 3 → exec (.preempt c) s = .next (s.answered c 4 []))) ∧
         (CmdOk s c 0x32 1 → (x.state = 4 → x.suspended = false → x.held = none → x.rolling = false → s.exhausted x.rcbx = false → ∃ (t : State) (y : Slot), exec (.resume c) s = .next t ∧
           EntryIs t (c.num 0) y ∧ y.state = 5 ∧ t.out = (s.answered c 0 []).out ∧ t.cur = s.cur) ∧ (x.state = 2 → exec (.resume c) s = .next (s.answered c 1 []))))))

/-- R371, R374, R377, R379, R387, R399 to R401, R410: the commands that set windows, routes, code groups and keys, and the two reports. -/
def Obligations.TableAndReportCommands : Prop :=
  ∀ (s : State) (c : Cmd) (v : Vf), Tbl.get? s.vfs c.vf = some v →
    (CmdOk s c 0x40 5 → c.num 1 < 2 ^ 40 → c.num 4 < 4 →
      (c.num 0 < 2048 → c.num 2 % 65536 = 0 → exec (.rwinSet c) s = .next (({ s with
        rwins := Tbl.set s.rwins (c.num 0) ⟨BitVec.ofNat 64 (c.num 1), c.num 2, c.num 3, c.num 4 % 2 == 1, decide (2 ≤ c.num 4)⟩ } : State).answered c 0 [])) ∧
      (2048 ≤ c.num 0 ∨ c.num 2 % 65536 ≠ 0 → exec (.rwinSet c) s = .next (s.answered c 1 []))) ∧
    (CmdOk s c 0x41 4 → c.num 3 < 4 → c.num 0 < 16 → exec (.rmawinSet c) s = .next (({ s with vfs := Tbl.set s.vfs c.vf { v with
      rma := Tbl.set v.rma (c.num 0) ⟨c.num 1, c.num 2, c.num 3 % 2 == 1, decide (2 ≤ c.num 3)⟩ } } : State).answered c 0 [])) ∧
    (CmdOk s c 0x42 3 → c.num 0 < 4096 → c.num 1 / 2 ^ 32 ≤ 32 → c.num 2 < 2 ^ 17 → exec (.routeSet c) s = .next (({ s with fabric := { s.fabric with
      routes := Tbl.set s.fabric.routes (c.num 0) ⟨BitVec.ofNat 32 (c.num 1), c.num 1 / 2 ^ 32, BitVec.ofNat 16 (c.num 2), decide (2 ^ 16 ≤ c.num 2)⟩ } } : State).answered c 0 [])) ∧
    (CmdOk s c 0x43 2 → c.num 0 < 256 → c.num 1 < 2 → ∃ t, exec (.cgrpEn c) s = .next t ∧ t.out = (s.answered c 0 []).out ∧ t.cur = s.cur ∧ t.mem = s.mem ∧
      (c.num 0 ∈ t.fabric.cgrps ↔ c.num 1 = 1) ∧ ∀ g, g ≠ c.num 0 → (g ∈ t.fabric.cgrps ↔ g ∈ s.fabric.cgrps)) ∧
    (CmdOk s c 0x44 1 → ∃ (t : State) (w : Vf), exec (.keySet c) s = .next t ∧ Tbl.get? t.vfs c.vf = some w ∧ c.words.getD 0 0 ∈ w.keys ∧ (∀ k ∈ v.keys, k ∈ w.keys) ∧
      t.out = (s.answered c 0 []).out ∧ t.cur = s.cur ∧ t.mem = s.mem) ∧
    (CmdOk s c 0x50 0 → c.vf ≠ 0xFF → c.words = [] → ∃ (t : State) (a : AssayVf) (p : List Byte), exec (.assayRead c) s = .next t ∧ Tbl.get? t.assay c.vf = some a ∧ a.lost = false ∧
      a.lastSeq = s.boot.seq ∧ t.boot.seq = s.boot.seq + 1 ∧ t.cur = s.cur ∧ t.mem = s.mem ∧ t.out.length = s.out.length + 1 ∧
      (∀ x, t.out[s.out.length]? = some x → x.payload = natBytes (setField (c.record &&& 0xFFFFFFFFFFFFFFFF0000FF00FFFFFFFF) 31 16 0).toNat 16 ++ p) ∧ p.take 5 = natBytes 0x50415341 4 ++ [BitVec.ofNat 8 c.vf] ∧
      (p.drop 16).take 8 = natBytes s.boot.seq 8 ∧ (p.drop 40).take 32 = List.replicate 32 0) ∧
    (CmdOk s c 0x51 0 → c.vf ≠ 0xFF → ∃ (t : State) (ws : List Nat), exec (.faultReport c) s = .next t ∧ t.out = (s.answered c 0 ws).out ∧
      ws.take 4 = [(Tbl.get? s.dortas.escalated c.vf).getD 0, (Tbl.get? s.lostEvents c.vf).getD 0, 0, (Tbl.get? s.dortas.replies c.vf).getD 0] ∧
      (∀ x ∈ t.dortas.items, ¬(x.2.2 = true ∧ x.1.vf = c.vf)) ∧ t.dortas.packets = s.dortas.packets ∧ t.cur = s.cur ∧ t.mem = s.mem)

/-- R393 to R398, R402, R403: power-on, bring-up, the Assay's copies, throttling. -/
def Obligations.PowerAndClock : Prop :=
  (∀ s : State, ∃ t, exec .powerOn s = .next t ∧ t.mem = [] ∧ t.slots = [] ∧ t.vfs = [] ∧ t.hearths = [] ∧ t.parked = [] ∧ t.cycle = 0 ∧
    t.boot.flash = s.boot.flash ∧ t.boot.fuses = s.boot.fuses ∧ t.boot.prov = s.boot.prov ∧ t.boot.seq = s.boot.seq ∧ t.devaddr = s.devaddr ∧
    t.assay = s.assay.map (fun a => (a.1, { a.2 with ctr := a.2.kept, lost := true })) ∧
    ((∃ k ∈ [1, 2, 3], s.boot.acceptKind k = none) → t.boot.phase = .recovery) ∧
    ((∀ k ∈ [1, 2, 3], s.boot.acceptKind k ≠ none) → t.boot.phase = .released)) ∧
  (∀ s : State, (s.boot.phase = .released → ∃ t, exec .bringupComplete s = .next t ∧ t.boot.phase = .up ∧ t.mem = [] ∧ t.banks = [] ∧ t.cur = s.cur ∧
      t.boot.mgmt = s.boot.mgmt ∧ (∀ k v, s.boot.accepted = [(k, v)] → Tbl.get? t.boot.fuses k = some (max ((Tbl.get? s.boot.fuses k).getD 0) v.2))) ∧
    (s.boot.phase ≠ .released → exec .bringupComplete s = .next s)) ∧
  (∀ s : State, let saved : State := { s with assay := s.assay.map (fun a => (a.1, { a.2 with kept := a.2.ctr })) }
    exec .supplyFailWarning s = .next saved ∧ exec .assaySaveTick s = .next saved) ∧
  (∀ (g : BitVec 32) (s : State), exec (.throttle g) s = .next { s with throttled := g })

/-! ## The machine as a whole: fetching, decoding, memory, reset -/

/-- R54, R56, R267: a step runs the instruction that the decoder reads at the program counter; a fetch outside the sections of a kind, and a word
that decodes to nothing, raise their exceptions; a move that the agenda names is made in the same way. -/
def Obligations.StepRunsDecoded : Prop :=
  (∀ (s : State) (bs : List Byte), s.agenda = [] → s.issuable s.cur = true →
    s.atBoundary s.cur = false ∨ (s.cur.faults = [] ∧ s.cur.events = []) → s.cur.sinceBoundary ≤ s.maxiter s.cur.slot →
    (s.fetch s.cur.slot s.cur.kind s.cur.pc = some bs →
      (∀ i rest, decodeBytes s.cur.kind bs = some (.ok i, rest) → step s = exec i s.issuing) ∧
      (∀ e rest, decodeBytes s.cur.kind bs = some (.error e, rest) → step s = exec (.unallocatedEncoding e (BitVec.ofNat 64 (leNat bs))) s.issuing)) ∧
    (s.fetch s.cur.slot s.cur.kind s.cur.pc = none → step s = runAct (raise 0x01 2 s.cur.pc) s.issuing)) ∧
  (∀ s : State, s.cur.kind ≠ .ve → s.issuing = { s with cur := { s.cur with lastIssue := s.cycle + 1 } }) ∧
  (∀ (s : State) (h : Nat) (rest : List Move) (c : StepCtx), s.agenda = .stepIssue h :: rest → Tbl.get? s.steps h = some c → c.status = none → c.ready = true →
    (∀ a ∈ c.store, a.op ≠ .done) → s.running c.slot = true → let s1 : State := { s with agenda := rest, curStep := h }
    (∀ bs, s.fetch c.slot .se c.pc = some bs →
      (∀ i, decodeStep (stepOfBytes bs) = .ok i → step s = exec i s1) ∧
      (∀ e, decodeStep (stepOfBytes bs) = .error e → step s = exec (.unallocatedEncoding e 0) s1)) ∧
    (s.fetch c.slot .se c.pc = none → step s = .next (s1.stepStop h 0x01 2))) ∧
  (∀ (s : State) (i : Instr) (rest : List Move), s.agenda = .event i :: rest → step s = exec i { s with agenda := rest }) ∧
  (∀ (s : State) (m : Msg) (rest : List Move) (q : Instr × Nat), s.agenda = .arrive m :: rest → q ∈ [(Instr.cts m, 1), (.data m, 2), (.ack m, 3), (.coded m, 4),
    (.dnak m, 5), (.sia m, 6), (.siw m, 7), (.rmaWr m, 0x10), (.rmaRd m, 0x11), (.rmaResp m, 0x12)] → m.type = q.2 → step s = exec q.1 { s with agenda := rest })

/-- R54 to R70, R86 to R101: words of the spec's own examples and tables decode to the instructions they stand for. -/
def Obligations.DecodeWords : Prop :=
  decodeWord .cc 0x10100100#32 = .ok (.addi ⟨1, 0, false, 256⟩) ∧ decodeWord .cc 0x20108000#32 = .ok (.lih ⟨1, 1, false, 0⟩) ∧
  decodeWord .he 0x00300001#32 = .ok (.add ⟨3, 0, 0, false, false⟩) ∧ decodeWord .cc 0x78200021#32 = .ok (.loop ⟨2, false, 8, 1⟩) ∧
  decodeWord .cc 0x02101413#32 = .ok (.plogAndn ⟨1, 0, 5⟩) ∧ decodeWord .cc 0x6C100002#32 = .ok (.bp ⟨1, 2⟩) ∧
  decodeWord .ce 0x4040E000#32 = .ok (.ldSigned ⟨4, 1, 3, 0⟩) ∧ decodeWord .cc 0x50018003#32 = .ok (.eretHalt ⟨3, false⟩) ∧
  decodeWord .cc 0x54400060#32 = .ok (.sysr ⟨4, 0x060⟩) ∧ decodeWord .ve 0x8C064004#32 = .ok (.mpop ⟨3, 4⟩) ∧
  decodeWord .ce 0x80900008#32 = .ok (.cwaitCopy 9) ∧ decodeWord .ce 0x80000149#32 = .ok (.cfence 2) ∧ decodeWord .ce 0x80428601#32 = .ok (.ctpl ⟨4, 5, 3⟩) ∧
  decodeWord .he 0x84908004#32 = .ok (.hver ⟨9, 1, false⟩) ∧ decodeWord .he 0x82200005#32 = .ok (.hwset ⟨2, false⟩) ∧
  decodeWord .he 0x84000007#32 = .ok .hdrain ∧ decodeWord .cc 0x80900008#32 ≠ .ok (.cwaitCopy 9) ∧
  decodeStep 0x0600880100000004#64 = .ok (.send ⟨8, 2, 1, 1, 0, 0, 0, 4⟩) ∧ decodeStep 0x1601500203000000#64 = .ok (.wait ⟨8, 5, 2, 2, 3, 0, 0, 0⟩) ∧
  decodeStep 0x2100000000000011#64 = .ok (.peer ⟨4, 0, 0, 0, 0, 0, 0, 0x11⟩) ∧ decodeStep 0x3000000000000000#64 = .ok (.done ⟨0, 0, 0, 0, 0, 0, 0, 0⟩) ∧
  decodeBytes .cc [0x00, 0x01, 0x10, 0x10, 0xAA] = some (.ok (.addi ⟨1, 0, false, 256⟩), [0xAA])

/-- Decoding and encoding agree, for every instruction, step and engine kind: a well-formed instruction's word decodes to it wherever the kind
may run it, and a word that decodes is the encoding of the well-formed instruction it decodes to. -/
def Obligations.EncodeDecode : Prop :=
  (∀ (i : Instr) (own : Option Kind) (w : IWord) (k : Kind), i.wf = true → encode i = .word own w → own = none ∨ own = some k → decodeWord k w = .ok i) ∧
  (∀ (i : Instr) (w : SWord), i.wf = true → encode i = .step w → decodeStep w = .ok i) ∧
  (∀ (k : Kind) (w : IWord) (i : Instr), decodeWord k w = .ok i → i.wf = true ∧ ∃ own, encode i = .word own w ∧ (own = none ∨ own = some k)) ∧
  (∀ (w : SWord) (i : Instr), decodeStep w = .ok i → i.wf = true ∧ encode i = .step w)

/-- Settled memory keeps its one canonical form (addresses strictly rising, no entry that an unlisted address would read as) through every step. -/
def Obligations.MemoryStaysCanonical : Prop :=
  ∀ s t : State, s.MemOk → step s = .next t → t.MemOk

/-- R406: the root's record as Dortas sets it at device reset, every field of R12's table with its value, and that no command changes it. -/
def Obligations.RootRecord : Prop :=
  State.reset.rcbs = [(0, rootRcb)] ∧
  (∀ q ∈ [(511, 448, 412316860416), (447, 384, 0), (383, 320, 0), (319, 304, 8192), (303, 288, 32768), (287, 272, 8192), (271, 256, 64), (255, 224, 524288),
      (223, 208, 1024), (207, 192, 0), (191, 176, 128), (175, 160, 64), (159, 144, 32), (143, 136, 1), (135, 130, 0), (129, 129, 0), (128, 128, 0),
      (107, 88, 2000), (87, 68, 10000), (67, 58, 0), (57, 57, 0), (56, 56, 0), (55, 48, 1), (47, 40, 0xFF), (39, 39, 0), (38, 36, 0), (35, 35, 0), (34, 32, 0),
      (31, 16, 0xFFFF), (15, 0, 0)], fieldN rootRcb.bits q.1 q.2.1 = q.2.2) ∧
  (∀ b, b < 19 → rootRcb.ovrBit b = true) ∧
  (∀ (s t : State) (c : Cmd) (n : RcbNode) (q : Instr × Nat × Nat), Tbl.get? s.rcbs 0 = some n → n.level = 0 → q = (Instr.vfCreate c, 0x0001, 3) ∨ IsVfCommand c q →
    exec q.1 s = .next t → ∃ m, Tbl.get? t.rcbs 0 = some m ∧ m.bits = n.bits)

/-- R402, R406: at device reset nothing but the root region exists and bring-up has not begun. The current context is a placeholder that has joined, its
registers full at the model's zero (log entry 4); memory lists nothing and is in its canonical form. -/
def Obligations.ResetState : Prop :=
  let s := State.reset
  s.slots = [] ∧ s.vfs = [] ∧ s.images = [] ∧ s.parked = [] ∧ s.hearths = [] ∧ s.cycle = 0 ∧ s.boot.phase = .off ∧ s.mem = [] ∧ s.MemOk ∧ s.cur.Ok ∧
  s.cur.phase = .joined ∧ (∀ n : BitVec 5, s.cur.getS n = 0 ∧ s.cur.isFull n = true)
end

