-- ==== Sys2Proof/Laws/Act.lean ====
section
/-! SUPPORT. How an instruction's effect runs: one lemma for each way to build an `Act`, what `runAct` answers, and what the shared reads, writes
and checks do when they succeed and when they stop. -/
namespace Sys2Proof.Machine

variable {α β : Type}

/-! ## Building an effect -/

@[simp] theorem act_pure (a : α) (s : State) : (pure a : Act α) s = .ok (a, s) := rfl
@[simp] theorem act_get (s : State) : (get : Act State) s = .ok (s, s) := rfl
@[simp] theorem act_modify (f : State → State) (s : State) : (modify f : Act Unit) s = .ok ((), f s) := rfl
@[simp] theorem act_modCur (f : Context → Context) (s : State) : modCur f s = .ok ((), s.setCur f) := rfl

/-- The rest of an effect runs where its first part ends. -/
theorem act_bind_ok {x : Act α} {f : α → Act β} {s t : State} {a : α} (h : x s = .ok (a, t)) : (x >>= f) s = f a t := by
  show (StateT.bind x f) s = _
  simp [StateT.bind, h, bind, Except.bind]

/-- A stop ends the whole effect. -/
theorem act_bind_error {x : Act α} {f : α → Act β} {s : State} {e : Stop} (h : x s = .error e) : (x >>= f) s = .error e := by
  show (StateT.bind x f) s = _
  simp [StateT.bind, h, bind, Except.bind]

@[simp] theorem act_bind_pure (a : α) (f : α → Act β) (s : State) : ((pure a : Act α) >>= f) s = f a s := rfl
@[simp] theorem act_bind_get (f : State → Act β) (s : State) : ((get : Act State) >>= f) s = f s s := rfl
@[simp] theorem act_bind_modify (g : State → State) (f : Unit → Act β) (s : State) : ((modify g : Act Unit) >>= f) s = f () (g s) := rfl
@[simp] theorem act_bind_modCur (g : Context → Context) (f : Unit → Act β) (s : State) : (modCur g >>= f) s = f () (s.setCur g) := rfl
theorem act_bind_assoc {γ : Type} (x : Act α) (f : α → Act β) (g : β → Act γ) (s : State) : ((x >>= f) >>= g) s = (x >>= fun a => f a >>= g) s := by
  show (StateT.bind (StateT.bind x f) g) s = (StateT.bind x (fun a => StateT.bind (f a) g)) s
  simp only [StateT.bind, bind, Except.bind]
  cases x s <;> rfl

/-- A choice between two effects. -/
theorem act_ite (p : Prop) [Decidable p] (x y : Act α) (s : State) : (if p then x else y) s = if p then x s else y s := by split <;> rfl

/-! ## Raising and waiting -/

@[simp] theorem act_raise (c d : BitVec 8) (v : Word) (s : State) : (raise c d v : Act α) s = .error (.raise ⟨c, d, v, false⟩) := rfl
@[simp] theorem act_raiseKept (c d : BitVec 8) (v : Word) (s : State) : (raiseKept c d v : Act α) s = .error (.raiseKept ⟨c, d, v, false⟩ s) := rfl
@[simp] theorem act_waitFor (w : WaitCond) (s : State) : (waitFor w : Act α) s = .error (.wait w none) := rfl
@[simp] theorem act_waitKeep (w : WaitCond) (s : State) : (waitKeep w : Act α) s = .error (.wait w (some s)) := rfl
@[simp] theorem raiseIf_true (c d : BitVec 8) (v : Word) : raiseIf true c d v = raise c d v := rfl
@[simp] theorem raiseIf_false (c d : BitVec 8) (v : Word) : raiseIf false c d v = pure () := rfl
@[simp] theorem waitIf_true (w : WaitCond) : waitIf true w = waitFor w := rfl
@[simp] theorem waitIf_false (w : WaitCond) : waitIf false w = pure () := rfl

/-- A check that passes is no part of the effect. -/
theorem act_bind_raiseIf {b : Bool} (h : b = false) (c d : BitVec 8) (v : Word) (f : Unit → Act β) (s : State) : (raiseIf b c d v >>= f) s = f () s := by
  subst h; rfl
theorem act_bind_waitIf {b : Bool} (h : b = false) (w : WaitCond) (f : Unit → Act β) (s : State) : (waitIf b w >>= f) s = f () s := by
  subst h; rfl
/-- A check that fails ends it. -/
theorem act_bind_raiseIf_stop {b : Bool} (h : b = true) (c d : BitVec 8) (v : Word) (f : Unit → Act β) (s : State) :
    (raiseIf b c d v >>= f) s = .error (.raise ⟨c, d, v, false⟩) := by
  subst h; rfl
theorem act_bind_waitIf_stop {b : Bool} (h : b = true) (w : WaitCond) (f : Unit → Act β) (s : State) :
    (waitIf b w >>= f) s = .error (.wait w none) := by
  subst h; rfl

/-! ## Registers -/

theorem destReady_full {d : BitVec 5} {s : State} (h : s.cur.isFull d = true) : destReady d s = .ok ((), s) := by simp [destReady, h]
theorem destReady_empty {d : BitVec 5} {s : State} (h : s.cur.isFull d = false) : destReady d s = .error (.wait (.full d) none) := by simp [destReady, h]
theorem readSrc_full {n : BitVec 5} {q : Bool} {s : State} (h : s.cur.isFull n = true) : readSrc n q s = .ok (s.cur.getS n, s) := by simp [readSrc, h]
theorem readSrc_empty_wait {n : BitVec 5} {s : State} (h : s.cur.isFull n = false) : readSrc n false s = .error (.wait (.full n) none) := by
  simp [readSrc, h]
theorem readSrc_empty_trap {n : BitVec 5} {s : State} (h : s.cur.isFull n = false) :
    readSrc n true s = .error (.raise ⟨Code.regEmpty, 0, 0, false⟩) := by simp [readSrc, h]
@[simp] theorem act_writeS (d : BitVec 5) (v : Word) (s : State) : writeS d v s = .ok ((), s.setCur (fun c => c.putS d v)) := rfl
@[simp] theorem act_bind_writeS (d : BitVec 5) (v : Word) (f : Unit → Act β) (s : State) :
    (writeS d v >>= f) s = f () (s.setCur (fun c => c.putS d v)) := rfl
@[simp] theorem act_advance (s : State) : advance s = .ok ((), s.setCur Context.nextSeq) := rfl
@[simp] theorem act_transfer (t : Word) (s : State) : transfer t s = .ok ((), s.setCur (fun c => c.jumpTo t)) := rfl
@[simp] theorem act_bind_advance (f : Unit → Act β) (s : State) : (advance >>= f) s = f () (s.setCur Context.nextSeq) := rfl

theorem act_bind_destReady {d : BitVec 5} {s : State} (h : s.cur.isFull d = true) (f : Unit → Act β) : (destReady d >>= f) s = f () s :=
  act_bind_ok (destReady_full h)
theorem act_bind_readSrc {n : BitVec 5} {q : Bool} {s : State} (h : s.cur.isFull n = true) (f : Word → Act β) :
    (readSrc n q >>= f) s = f (s.cur.getS n) s := act_bind_ok (readSrc_full h)

@[simp] theorem isFull_zero (c : Context) : c.isFull 0 = true := by simp [Context.isFull]
@[simp] theorem getS_zero (c : Context) : c.getS 0 = 0 := by simp [Context.getS]
@[simp] theorem putS_zero (c : Context) (v : Word) : c.putS 0 v = c := by simp [Context.putS]
@[simp] theorem empty_zero (c : Context) : c.empty 0 = c := by simp [Context.empty]

/-! ## The outcome -/

theorem runAct_ok {a : Act Unit} {s t : State} (h : a s = .ok ((), t)) : runAct a s = .next t := by simp [runAct, h]
theorem runAct_wait {a : Act Unit} {s : State} {w : WaitCond} {k : Option State} (h : a s = .error (.wait w k)) :
    runAct a s = .next ((k.getD s).enterWait w) := by simp [runAct, h]
theorem runAct_raise {a : Act Unit} {s : State} {f : FaultRec} (h : a s = .error (.raise f)) :
    runAct a s = .next (s.takeFault s.cur.ref f s.cur.pc) := by simp [runAct, h]
theorem runAct_raiseKept {a : Act Unit} {s t : State} {f : FaultRec} (h : a s = .error (.raiseKept f t)) :
    runAct a s = .next (t.takeFault t.cur.ref f t.cur.pc) := by simp [runAct, h]
theorem runAct_fault {a : Act Unit} {s : State} {f : Fault} (h : a s = .error (.fault f)) : runAct a s = .fault f := by simp [runAct, h]

/-- An instruction's effect never refuses: it answers a next state, or the fault of an access without an address. -/
theorem runAct_total (a : Act Unit) (s : State) : (∃ t, runAct a s = .next t) ∨ (∃ f, runAct a s = .fault f) := by
  unfold runAct
  split <;> simp

/-! ## Updates of the current context compose -/

@[simp] theorem setCur_setCur (s : State) (f g : Context → Context) : (s.setCur f).setCur g = s.setCur (fun c => g (f c)) := rfl
@[simp] theorem setCur_cur (s : State) (f : Context → Context) : (s.setCur f).cur = f s.cur := rfl
@[simp] theorem setCur_mem (s : State) (f : Context → Context) : (s.setCur f).mem = s.mem := rfl
@[simp] theorem setCur_cycle (s : State) (f : Context → Context) : (s.setCur f).cycle = s.cycle := rfl

end Sys2Proof.Machine
end

