-- ==== Sys2Proof/Laws/Memory.lean ====
section
/-! SUPPORT. Settled memory: every operation keeps the canonical form, and what a read gives after a write. -/
namespace Sys2Proof.Machine

/-- Every address of a canonical memory above its first is larger than it. -/
def Memory.above (m : Memory) (a : Nat) : Prop := ∀ c ∈ m, a < c.1

theorem memory_wf_cons (k : Nat) (b : Byte) (m : Memory) :
    Memory.wf ((k, b) :: m) = true ↔ b ≠ emptyByte ∧ Memory.above m k ∧ m.wf = true := by
  induction m generalizing k b with
  | nil => simp [Memory.wf, Memory.above]
  | cons c rest ih =>
    obtain ⟨k', b'⟩ := c
    simp only [Memory.wf, Bool.and_eq_true, bne_iff_ne, decide_eq_true_eq, ih, Memory.above, List.mem_cons, forall_eq_or_imp]
    constructor
    · rintro ⟨⟨hb, hk⟩, hb', hr, hw⟩
      exact ⟨hb, ⟨hk, fun c hc => lt_trans hk (hr c hc)⟩, hb', hr, hw⟩
    · rintro ⟨hb, ⟨hk, -⟩, hb', hr, hw⟩
      exact ⟨⟨hb, hk⟩, hb', hr, hw⟩

theorem memory_above_trans {m : Memory} {a b : Nat} (h : a < b) (hm : m.above b) : m.above a := fun c hc => lt_trans h (hm c hc)

theorem memory_get_of_above {m : Memory} {a : Nat} (h : m.above a) : m.get a = emptyByte := by
  induction m with
  | nil => rfl
  | cons c rest ih =>
    have hc := h c (by simp)
    simp only [Memory.get, if_neg (Nat.ne_of_gt hc)]
    exact ih fun d hd => h d (by simp [hd])

theorem memory_above_set {m : Memory} {a k : Nat} {b : Byte} (h : m.above k) (ha : k < a) : (m.set a b).above k := by
  induction m with
  | nil =>
    simp only [Memory.set]
    split <;> simp [Memory.above, ha]
  | cons c rest ih =>
    have hc := h c (by simp)
    have hr : Memory.above rest k := fun d hd => h d (by simp [hd])
    simp only [Memory.set]
    split
    · split
      · exact h
      · intro d hd
        rcases List.mem_cons.1 hd with rfl | hd
        · exact ha
        · exact h d hd
    · split
      · split
        · exact hr
        · intro d hd
          rcases List.mem_cons.1 hd with rfl | hd
          · exact ha
          · exact hr d hd
      · intro d hd
        rcases List.mem_cons.1 hd with rfl | hd
        · exact hc
        · exact ih hr d hd

/-- Writing a byte keeps the canonical form. -/
theorem memory_wf_set {m : Memory} (h : m.wf = true) (a : Nat) (b : Byte) : (m.set a b).wf = true := by
  induction m with
  | nil =>
    simp only [Memory.set]
    split <;> simp_all [Memory.wf]
  | cons c rest ih =>
    obtain ⟨k, v⟩ := c
    obtain ⟨hv, hr, hw⟩ := (memory_wf_cons k v rest).1 h
    simp only [Memory.set]
    split
    · rename_i hak
      split
      · exact h
      · rename_i hb
        refine (memory_wf_cons a b _).2 ⟨hb, ?_, h⟩
        intro d hd
        rcases List.mem_cons.1 hd with rfl | hd
        · exact hak
        · exact lt_trans hak (hr d hd)
    · rename_i hak
      split
      · rename_i he
        split
        · exact hw
        · rename_i hb
          exact (memory_wf_cons a b _).2 ⟨hb, he ▸ hr, hw⟩
      · rename_i hne
        exact (memory_wf_cons k v _).2 ⟨hv, memory_above_set hr (by omega), ih hw⟩

/-- Writing a run of bytes keeps the canonical form. -/
theorem memory_wf_setBytes {m : Memory} (h : m.wf = true) (a : Nat) (bs : List Byte) : (m.setBytes a bs).wf = true := by
  induction bs generalizing m a with
  | nil => exact h
  | cons b rest ih => exact ih (memory_wf_set h a b) (a + 1)

/-- Dropping entries keeps the canonical form. -/
theorem memory_wf_filter {m : Memory} (h : m.wf = true) (p : Nat × Byte → Bool) : Memory.wf (m.filter p) = true := by
  induction m with
  | nil => rfl
  | cons c rest ih =>
    obtain ⟨k, v⟩ := c
    obtain ⟨hv, hr, hw⟩ := (memory_wf_cons k v rest).1 h
    rw [List.filter_cons]
    split
    · exact (memory_wf_cons k v _).2 ⟨hv, fun d hd => hr d (List.mem_of_mem_filter hd), ih hw⟩
    · exact ih hw

/-- What reads as the byte written, and what reads as before. -/
theorem memory_get_set {m : Memory} (h : m.wf = true) (a b' : Nat) (b : Byte) : (m.set a b).get b' = if b' = a then b else m.get b' := by
  induction m with
  | nil =>
    simp only [Memory.set]
    split
    · split <;> simp_all [Memory.get]
    · simp only [Memory.get]; split <;> split <;> simp_all
  | cons c rest ih =>
    obtain ⟨k, v⟩ := c
    obtain ⟨hv, hr, hw⟩ := (memory_wf_cons k v rest).1 h
    simp only [Memory.set]
    split
    · rename_i hak
      split
      · rename_i hb
        split
        · rename_i he
          subst he
          rw [hb]
          exact memory_get_of_above (m := (k, v) :: rest) (by
            intro d hd
            rcases List.mem_cons.1 hd with rfl | hd
            · exact hak
            · exact lt_trans hak (hr d hd))
        · rfl
      · by_cases hx : b' = a
        · subst hx
          simp [Memory.get]
        · rw [if_neg hx, Memory.get, if_neg (fun e => hx e.symm)]
    · split
      · rename_i hak he
        subst he
        split
        · rename_i hb
          simp only [Memory.get]
          split
          · rename_i hba
            rw [hba, hb]
            exact memory_get_of_above hr
          · rw [if_neg (by omega)]
        · by_cases hx : b' = a
          · subst hx
            simp [Memory.get]
          · rw [if_neg hx, Memory.get, if_neg (fun e => hx e.symm), Memory.get, if_neg (fun e => hx e.symm)]
      · rename_i hak hne
        simp only [Memory.get, ih hw]
        split <;> split <;> first | rfl | omega

/-- A run of bytes written reads as written, every other byte as before. -/
theorem memory_get_setBytes {m : Memory} (h : m.wf = true) (a x : Nat) (bs : List Byte) :
    (m.setBytes a bs).get x = if a ≤ x ∧ x < a + bs.length then bs.getD (x - a) emptyByte else m.get x := by
  induction bs generalizing m a with
  | nil => simp only [Memory.setBytes, List.length_nil]; rw [if_neg (by omega)]
  | cons b rest ih =>
    rw [Memory.setBytes, ih (memory_wf_set h a b), memory_get_set h]
    simp only [List.length_cons]
    by_cases hx : x = a
    · subst hx
      rw [if_neg (by omega), if_pos rfl, if_pos (by omega)]
      simp
    · by_cases hy : a + 1 ≤ x ∧ x < a + 1 + rest.length
      · rw [if_pos hy, if_pos (by omega)]
        obtain ⟨n, hn⟩ : ∃ n, x - a = n + 1 := ⟨x - a - 1, by omega⟩
        rw [hn, show x - (a + 1) = n by omega]
        simp
      · rw [if_neg hy, if_neg hx, if_neg (by omega)]

end Sys2Proof.Machine
end

