-- ==== Sys2Proof/Laws/State.lean ====
section
/-! SUPPORT. One lemma per field for each named update of the state and of a context. -/
namespace Sys2Proof.Machine

/-! ## The current context changed -/

@[simp] theorem setCur_parked (s : State) (f : Context → Context) : (s.setCur f).parked = s.parked := rfl
@[simp] theorem setCur_hold (s : State) (f : Context → Context) : (s.setCur f).hold = s.hold := rfl
@[simp] theorem setCur_coh (s : State) (f : Context → Context) : (s.setCur f).coh = s.coh := rfl
@[simp] theorem setCur_l1 (s : State) (f : Context → Context) : (s.setCur f).l1 = s.l1 := rfl
@[simp] theorem setCur_olds (s : State) (f : Context → Context) : (s.setCur f).olds = s.olds := rfl
@[simp] theorem setCur_poison (s : State) (f : Context → Context) : (s.setCur f).poison = s.poison := rfl
@[simp] theorem setCur_rcbs (s : State) (f : Context → Context) : (s.setCur f).rcbs = s.rcbs := rfl
@[simp] theorem setCur_images (s : State) (f : Context → Context) : (s.setCur f).images = s.images := rfl
@[simp] theorem setCur_vfs (s : State) (f : Context → Context) : (s.setCur f).vfs = s.vfs := rfl
@[simp] theorem setCur_slots (s : State) (f : Context → Context) : (s.setCur f).slots = s.slots := rfl
@[simp] theorem setCur_troughs (s : State) (f : Context → Context) : (s.setCur f).troughs = s.troughs := rfl
@[simp] theorem setCur_tokens (s : State) (f : Context → Context) : (s.setCur f).tokens = s.tokens := rfl
@[simp] theorem setCur_rdvs (s : State) (f : Context → Context) : (s.setCur f).rdvs = s.rdvs := rfl
@[simp] theorem setCur_routes (s : State) (f : Context → Context) : (s.setCur f).routes = s.routes := rfl
@[simp] theorem setCur_rates (s : State) (f : Context → Context) : (s.setCur f).rates = s.rates := rfl
@[simp] theorem setCur_banks (s : State) (f : Context → Context) : (s.setCur f).banks = s.banks := rfl
@[simp] theorem setCur_hearths (s : State) (f : Context → Context) : (s.setCur f).hearths = s.hearths := rfl
@[simp] theorem setCur_freezes (s : State) (f : Context → Context) : (s.setCur f).freezes = s.freezes := rfl
@[simp] theorem setCur_leaseQ (s : State) (f : Context → Context) : (s.setCur f).leaseQ = s.leaseQ := rfl
@[simp] theorem setCur_rwins (s : State) (f : Context → Context) : (s.setCur f).rwins = s.rwins := rfl
@[simp] theorem setCur_remotes (s : State) (f : Context → Context) : (s.setCur f).remotes = s.remotes := rfl
@[simp] theorem setCur_out (s : State) (f : Context → Context) : (s.setCur f).out = s.out := rfl
@[simp] theorem setCur_devaddr (s : State) (f : Context → Context) : (s.setCur f).devaddr = s.devaddr := rfl
@[simp] theorem setCur_undo (s : State) (f : Context → Context) : (s.setCur f).undo = s.undo := rfl
@[simp] theorem setCur_undoSeq (s : State) (f : Context → Context) : (s.setCur f).undoSeq = s.undoSeq := rfl
@[simp] theorem setCur_lostEvents (s : State) (f : Context → Context) : (s.setCur f).lostEvents = s.lostEvents := rfl
@[simp] theorem setCur_steps (s : State) (f : Context → Context) : (s.setCur f).steps = s.steps := rfl
@[simp] theorem setCur_curStep (s : State) (f : Context → Context) : (s.setCur f).curStep = s.curStep := rfl
@[simp] theorem setCur_nextAge (s : State) (f : Context → Context) : (s.setCur f).nextAge = s.nextAge := rfl
@[simp] theorem setCur_rounds (s : State) (f : Context → Context) : (s.setCur f).rounds = s.rounds := rfl
@[simp] theorem setCur_fabric (s : State) (f : Context → Context) : (s.setCur f).fabric = s.fabric := rfl
@[simp] theorem setCur_dortas (s : State) (f : Context → Context) : (s.setCur f).dortas = s.dortas := rfl
@[simp] theorem setCur_boot (s : State) (f : Context → Context) : (s.setCur f).boot = s.boot := rfl
@[simp] theorem setCur_saved (s : State) (f : Context → Context) : (s.setCur f).saved = s.saved := rfl
@[simp] theorem setCur_arbs (s : State) (f : Context → Context) : (s.setCur f).arbs = s.arbs := rfl
@[simp] theorem setCur_throttled (s : State) (f : Context → Context) : (s.setCur f).throttled = s.throttled := rfl
@[simp] theorem setCur_assay (s : State) (f : Context → Context) : (s.setCur f).assay = s.assay := rfl
@[simp] theorem setCur_replays (s : State) (f : Context → Context) : (s.setCur f).replays = s.replays := rfl
@[simp] theorem setCur_replayHeld (s : State) (f : Context → Context) : (s.setCur f).replayHeld = s.replayHeld := rfl
@[simp] theorem setCur_agenda (s : State) (f : Context → Context) : (s.setCur f).agenda = s.agenda := rfl
@[simp] theorem setCur_free (s : State) (f : Context → Context) : (s.setCur f).free = s.free := rfl
@[simp] theorem setCur_nextId (s : State) (f : Context → Context) : (s.setCur f).nextId = s.nextId := rfl

/-! ## A message sent -/

@[simp] theorem send_cur (s : State) (m : Msg) : (s.send m).cur = s.cur := rfl
@[simp] theorem send_parked (s : State) (m : Msg) : (s.send m).parked = s.parked := rfl
@[simp] theorem send_mem (s : State) (m : Msg) : (s.send m).mem = s.mem := rfl
@[simp] theorem send_hold (s : State) (m : Msg) : (s.send m).hold = s.hold := rfl
@[simp] theorem send_coh (s : State) (m : Msg) : (s.send m).coh = s.coh := rfl
@[simp] theorem send_l1 (s : State) (m : Msg) : (s.send m).l1 = s.l1 := rfl
@[simp] theorem send_olds (s : State) (m : Msg) : (s.send m).olds = s.olds := rfl
@[simp] theorem send_poison (s : State) (m : Msg) : (s.send m).poison = s.poison := rfl
@[simp] theorem send_rcbs (s : State) (m : Msg) : (s.send m).rcbs = s.rcbs := rfl
@[simp] theorem send_images (s : State) (m : Msg) : (s.send m).images = s.images := rfl
@[simp] theorem send_vfs (s : State) (m : Msg) : (s.send m).vfs = s.vfs := rfl
@[simp] theorem send_slots (s : State) (m : Msg) : (s.send m).slots = s.slots := rfl
@[simp] theorem send_troughs (s : State) (m : Msg) : (s.send m).troughs = s.troughs := rfl
@[simp] theorem send_tokens (s : State) (m : Msg) : (s.send m).tokens = s.tokens := rfl
@[simp] theorem send_rdvs (s : State) (m : Msg) : (s.send m).rdvs = s.rdvs := rfl
@[simp] theorem send_routes (s : State) (m : Msg) : (s.send m).routes = s.routes := rfl
@[simp] theorem send_rates (s : State) (m : Msg) : (s.send m).rates = s.rates := rfl
@[simp] theorem send_banks (s : State) (m : Msg) : (s.send m).banks = s.banks := rfl
@[simp] theorem send_hearths (s : State) (m : Msg) : (s.send m).hearths = s.hearths := rfl
@[simp] theorem send_freezes (s : State) (m : Msg) : (s.send m).freezes = s.freezes := rfl
@[simp] theorem send_leaseQ (s : State) (m : Msg) : (s.send m).leaseQ = s.leaseQ := rfl
@[simp] theorem send_rwins (s : State) (m : Msg) : (s.send m).rwins = s.rwins := rfl
@[simp] theorem send_remotes (s : State) (m : Msg) : (s.send m).remotes = s.remotes := rfl
@[simp] theorem send_out (s : State) (m : Msg) : (s.send m).out = s.out ++ [m] := rfl
@[simp] theorem send_devaddr (s : State) (m : Msg) : (s.send m).devaddr = s.devaddr := rfl
@[simp] theorem send_undo (s : State) (m : Msg) : (s.send m).undo = s.undo := rfl
@[simp] theorem send_undoSeq (s : State) (m : Msg) : (s.send m).undoSeq = s.undoSeq := rfl
@[simp] theorem send_lostEvents (s : State) (m : Msg) : (s.send m).lostEvents = s.lostEvents := rfl
@[simp] theorem send_steps (s : State) (m : Msg) : (s.send m).steps = s.steps := rfl
@[simp] theorem send_curStep (s : State) (m : Msg) : (s.send m).curStep = s.curStep := rfl
@[simp] theorem send_nextAge (s : State) (m : Msg) : (s.send m).nextAge = s.nextAge := rfl
@[simp] theorem send_rounds (s : State) (m : Msg) : (s.send m).rounds = s.rounds := rfl
@[simp] theorem send_fabric (s : State) (m : Msg) : (s.send m).fabric = s.fabric := rfl
@[simp] theorem send_dortas (s : State) (m : Msg) : (s.send m).dortas = s.dortas := rfl
@[simp] theorem send_boot (s : State) (m : Msg) : (s.send m).boot = s.boot := rfl
@[simp] theorem send_saved (s : State) (m : Msg) : (s.send m).saved = s.saved := rfl
@[simp] theorem send_arbs (s : State) (m : Msg) : (s.send m).arbs = s.arbs := rfl
@[simp] theorem send_throttled (s : State) (m : Msg) : (s.send m).throttled = s.throttled := rfl
@[simp] theorem send_assay (s : State) (m : Msg) : (s.send m).assay = s.assay := rfl
@[simp] theorem send_replays (s : State) (m : Msg) : (s.send m).replays = s.replays := rfl
@[simp] theorem send_replayHeld (s : State) (m : Msg) : (s.send m).replayHeld = s.replayHeld := rfl
@[simp] theorem send_cycle (s : State) (m : Msg) : (s.send m).cycle = s.cycle := rfl
@[simp] theorem send_agenda (s : State) (m : Msg) : (s.send m).agenda = s.agenda := rfl
@[simp] theorem send_free (s : State) (m : Msg) : (s.send m).free = s.free := rfl
@[simp] theorem send_nextId (s : State) (m : Msg) : (s.send m).nextId = s.nextId := rfl

/-! ## A Hearth changed -/

@[simp] theorem setHearth_cur (s : State) (g : Nat) (h : Hearth) : (s.setHearth g h).cur = s.cur := rfl
@[simp] theorem setHearth_parked (s : State) (g : Nat) (h : Hearth) : (s.setHearth g h).parked = s.parked := rfl
@[simp] theorem setHearth_mem (s : State) (g : Nat) (h : Hearth) : (s.setHearth g h).mem = s.mem := rfl
@[simp] theorem setHearth_hold (s : State) (g : Nat) (h : Hearth) : (s.setHearth g h).hold = s.hold := rfl
@[simp] theorem setHearth_coh (s : State) (g : Nat) (h : Hearth) : (s.setHearth g h).coh = s.coh := rfl
@[simp] theorem setHearth_l1 (s : State) (g : Nat) (h : Hearth) : (s.setHearth g h).l1 = s.l1 := rfl
@[simp] theorem setHearth_olds (s : State) (g : Nat) (h : Hearth) : (s.setHearth g h).olds = s.olds := rfl
@[simp] theorem setHearth_poison (s : State) (g : Nat) (h : Hearth) : (s.setHearth g h).poison = s.poison := rfl
@[simp] theorem setHearth_rcbs (s : State) (g : Nat) (h : Hearth) : (s.setHearth g h).rcbs = s.rcbs := rfl
@[simp] theorem setHearth_images (s : State) (g : Nat) (h : Hearth) : (s.setHearth g h).images = s.images := rfl
@[simp] theorem setHearth_vfs (s : State) (g : Nat) (h : Hearth) : (s.setHearth g h).vfs = s.vfs := rfl
@[simp] theorem setHearth_slots (s : State) (g : Nat) (h : Hearth) : (s.setHearth g h).slots = s.slots := rfl
@[simp] theorem setHearth_troughs (s : State) (g : Nat) (h : Hearth) : (s.setHearth g h).troughs = s.troughs := rfl
@[simp] theorem setHearth_tokens (s : State) (g : Nat) (h : Hearth) : (s.setHearth g h).tokens = s.tokens := rfl
@[simp] theorem setHearth_rdvs (s : State) (g : Nat) (h : Hearth) : (s.setHearth g h).rdvs = s.rdvs := rfl
@[simp] theorem setHearth_routes (s : State) (g : Nat) (h : Hearth) : (s.setHearth g h).routes = s.routes := rfl
@[simp] theorem setHearth_rates (s : State) (g : Nat) (h : Hearth) : (s.setHearth g h).rates = s.rates := rfl
@[simp] theorem setHearth_banks (s : State) (g : Nat) (h : Hearth) : (s.setHearth g h).banks = s.banks := rfl
@[simp] theorem setHearth_hearths (s : State) (g : Nat) (h : Hearth) : (s.setHearth g h).hearths = Tbl.set s.hearths g h := rfl
@[simp] theorem setHearth_freezes (s : State) (g : Nat) (h : Hearth) : (s.setHearth g h).freezes = s.freezes := rfl
@[simp] theorem setHearth_leaseQ (s : State) (g : Nat) (h : Hearth) : (s.setHearth g h).leaseQ = s.leaseQ := rfl
@[simp] theorem setHearth_rwins (s : State) (g : Nat) (h : Hearth) : (s.setHearth g h).rwins = s.rwins := rfl
@[simp] theorem setHearth_remotes (s : State) (g : Nat) (h : Hearth) : (s.setHearth g h).remotes = s.remotes := rfl
@[simp] theorem setHearth_out (s : State) (g : Nat) (h : Hearth) : (s.setHearth g h).out = s.out := rfl
@[simp] theorem setHearth_devaddr (s : State) (g : Nat) (h : Hearth) : (s.setHearth g h).devaddr = s.devaddr := rfl
@[simp] theorem setHearth_undo (s : State) (g : Nat) (h : Hearth) : (s.setHearth g h).undo = s.undo := rfl
@[simp] theorem setHearth_undoSeq (s : State) (g : Nat) (h : Hearth) : (s.setHearth g h).undoSeq = s.undoSeq := rfl
@[simp] theorem setHearth_lostEvents (s : State) (g : Nat) (h : Hearth) : (s.setHearth g h).lostEvents = s.lostEvents := rfl
@[simp] theorem setHearth_steps (s : State) (g : Nat) (h : Hearth) : (s.setHearth g h).steps = s.steps := rfl
@[simp] theorem setHearth_curStep (s : State) (g : Nat) (h : Hearth) : (s.setHearth g h).curStep = s.curStep := rfl
@[simp] theorem setHearth_nextAge (s : State) (g : Nat) (h : Hearth) : (s.setHearth g h).nextAge = s.nextAge := rfl
@[simp] theorem setHearth_rounds (s : State) (g : Nat) (h : Hearth) : (s.setHearth g h).rounds = s.rounds := rfl
@[simp] theorem setHearth_fabric (s : State) (g : Nat) (h : Hearth) : (s.setHearth g h).fabric = s.fabric := rfl
@[simp] theorem setHearth_dortas (s : State) (g : Nat) (h : Hearth) : (s.setHearth g h).dortas = s.dortas := rfl
@[simp] theorem setHearth_boot (s : State) (g : Nat) (h : Hearth) : (s.setHearth g h).boot = s.boot := rfl
@[simp] theorem setHearth_saved (s : State) (g : Nat) (h : Hearth) : (s.setHearth g h).saved = s.saved := rfl
@[simp] theorem setHearth_arbs (s : State) (g : Nat) (h : Hearth) : (s.setHearth g h).arbs = s.arbs := rfl
@[simp] theorem setHearth_throttled (s : State) (g : Nat) (h : Hearth) : (s.setHearth g h).throttled = s.throttled := rfl
@[simp] theorem setHearth_assay (s : State) (g : Nat) (h : Hearth) : (s.setHearth g h).assay = s.assay := rfl
@[simp] theorem setHearth_replays (s : State) (g : Nat) (h : Hearth) : (s.setHearth g h).replays = s.replays := rfl
@[simp] theorem setHearth_replayHeld (s : State) (g : Nat) (h : Hearth) : (s.setHearth g h).replayHeld = s.replayHeld := rfl
@[simp] theorem setHearth_cycle (s : State) (g : Nat) (h : Hearth) : (s.setHearth g h).cycle = s.cycle := rfl
@[simp] theorem setHearth_agenda (s : State) (g : Nat) (h : Hearth) : (s.setHearth g h).agenda = s.agenda := rfl
@[simp] theorem setHearth_free (s : State) (g : Nat) (h : Hearth) : (s.setHearth g h).free = s.free := rfl
@[simp] theorem setHearth_nextId (s : State) (g : Nat) (h : Hearth) : (s.setHearth g h).nextId = s.nextId := rfl

/-! ## A register written or marked empty: every other field of the context -/

@[simp] theorem putS_slot (c : Context) (n : BitVec 5) (v : Word) : (c.putS n v).slot = c.slot := by unfold Context.putS; split <;> rfl
@[simp] theorem putS_num (c : Context) (n : BitVec 5) (v : Word) : (c.putS n v).num = c.num := by unfold Context.putS; split <;> rfl
@[simp] theorem putS_kind (c : Context) (n : BitVec 5) (v : Word) : (c.putS n v).kind = c.kind := by unfold Context.putS; split <;> rfl
@[simp] theorem putS_engine (c : Context) (n : BitVec 5) (v : Word) : (c.putS n v).engine = c.engine := by unfold Context.putS; split <;> rfl
@[simp] theorem putS_engSlot (c : Context) (n : BitVec 5) (v : Word) : (c.putS n v).engSlot = c.engSlot := by unfold Context.putS; split <;> rfl
@[simp] theorem putS_phase (c : Context) (n : BitVec 5) (v : Word) : (c.putS n v).phase = c.phase := by unfold Context.putS; split <;> rfl
@[simp] theorem putS_wait (c : Context) (n : BitVec 5) (v : Word) : (c.putS n v).wait = c.wait := by unfold Context.putS; split <;> rfl
@[simp] theorem putS_pc (c : Context) (n : BitVec 5) (v : Word) : (c.putS n v).pc = c.pc := by unfold Context.putS; split <;> rfl
@[simp] theorem putS_p (c : Context) (n : BitVec 5) (v : Word) : (c.putS n v).p = c.p := by unfold Context.putS; split <;> rfl
@[simp] theorem putS_loops (c : Context) (n : BitVec 5) (v : Word) : (c.putS n v).loops = c.loops := by unfold Context.putS; split <;> rfl
@[simp] theorem putS_hd (c : Context) (n : BitVec 5) (v : Word) : (c.putS n v).hd = c.hd := by unfold Context.putS; split <;> rfl
@[simp] theorem putS_fcsr (c : Context) (n : BitVec 5) (v : Word) : (c.putS n v).fcsr = c.fcsr := by unfold Context.putS; split <;> rfl
@[simp] theorem putS_epc (c : Context) (n : BitVec 5) (v : Word) : (c.putS n v).epc = c.epc := by unfold Context.putS; split <;> rfl
@[simp] theorem putS_ecause (c : Context) (n : BitVec 5) (v : Word) : (c.putS n v).ecause = c.ecause := by unfold Context.putS; split <;> rfl
@[simp] theorem putS_eval (c : Context) (n : BitVec 5) (v : Word) : (c.putS n v).eval = c.eval := by unfold Context.putS; split <;> rfl
@[simp] theorem putS_tvec (c : Context) (n : BitVec 5) (v : Word) : (c.putS n v).tvec = c.tvec := by unfold Context.putS; split <;> rfl
@[simp] theorem putS_wdog (c : Context) (n : BitVec 5) (v : Word) : (c.putS n v).wdog = c.wdog := by unfold Context.putS; split <;> rfl
@[simp] theorem putS_wtro (c : Context) (n : BitVec 5) (v : Word) : (c.putS n v).wtro = c.wtro := by unfold Context.putS; split <;> rfl
@[simp] theorem putS_wtok (c : Context) (n : BitVec 5) (v : Word) : (c.putS n v).wtok = c.wtok := by unfold Context.putS; split <;> rfl
@[simp] theorem putS_wrdv (c : Context) (n : BitVec 5) (v : Word) : (c.putS n v).wrdv = c.wrdv := by unfold Context.putS; split <;> rfl
@[simp] theorem putS_vshape (c : Context) (n : BitVec 5) (v : Word) : (c.putS n v).vshape = c.vshape := by unfold Context.putS; split <;> rfl
@[simp] theorem putS_v (c : Context) (n : BitVec 5) (v : Word) : (c.putS n v).v = c.v := by unfold Context.putS; split <;> rfl
@[simp] theorem putS_m (c : Context) (n : BitVec 5) (v : Word) : (c.putS n v).m = c.m := by unfold Context.putS; split <;> rfl
@[simp] theorem putS_a (c : Context) (n : BitVec 5) (v : Word) : (c.putS n v).a = c.a := by unfold Context.putS; split <;> rfl
@[simp] theorem putS_am (c : Context) (n : BitVec 5) (v : Word) : (c.putS n v).am = c.am := by unfold Context.putS; split <;> rfl
@[simp] theorem putS_cb (c : Context) (n : BitVec 5) (v : Word) : (c.putS n v).cb = c.cb := by unfold Context.putS; split <;> rfl
@[simp] theorem putS_qb (c : Context) (n : BitVec 5) (v : Word) : (c.putS n v).qb = c.qb := by unfold Context.putS; split <;> rfl
@[simp] theorem putS_ct (c : Context) (n : BitVec 5) (v : Word) : (c.putS n v).ct = c.ct := by unfold Context.putS; split <;> rfl
@[simp] theorem putS_copyq (c : Context) (n : BitVec 5) (v : Word) : (c.putS n v).copyq = c.copyq := by unfold Context.putS; split <;> rfl
@[simp] theorem putS_jrdv (c : Context) (n : BitVec 5) (v : Word) : (c.putS n v).jrdv = c.jrdv := by unfold Context.putS; split <;> rfl
@[simp] theorem putS_pend (c : Context) (n : BitVec 5) (v : Word) : (c.putS n v).pend = c.pend := by unfold Context.putS; split <;> rfl
@[simp] theorem putS_arrived (c : Context) (n : BitVec 5) (v : Word) : (c.putS n v).arrived = c.arrived := by unfold Context.putS; split <;> rfl
@[simp] theorem putS_denied (c : Context) (n : BitVec 5) (v : Word) : (c.putS n v).denied = c.denied := by unfold Context.putS; split <;> rfl
@[simp] theorem putS_copyDenied (c : Context) (n : BitVec 5) (v : Word) : (c.putS n v).copyDenied = c.copyDenied := by unfold Context.putS; split <;> rfl
@[simp] theorem putS_remoteLd (c : Context) (n : BitVec 5) (v : Word) : (c.putS n v).remoteLd = c.remoteLd := by unfold Context.putS; split <;> rfl
@[simp] theorem putS_past (c : Context) (n : BitVec 5) (v : Word) : (c.putS n v).past = c.past := by unfold Context.putS; split <;> rfl
@[simp] theorem putS_faults (c : Context) (n : BitVec 5) (v : Word) : (c.putS n v).faults = c.faults := by unfold Context.putS; split <;> rfl
@[simp] theorem putS_events (c : Context) (n : BitVec 5) (v : Word) : (c.putS n v).events = c.events := by unfold Context.putS; split <;> rfl
@[simp] theorem putS_sinceBoundary (c : Context) (n : BitVec 5) (v : Word) : (c.putS n v).sinceBoundary = c.sinceBoundary := by unfold Context.putS; split <;> rfl
@[simp] theorem putS_mark (c : Context) (n : BitVec 5) (v : Word) : (c.putS n v).mark = c.mark := by unfold Context.putS; split <;> rfl
@[simp] theorem putS_staging (c : Context) (n : BitVec 5) (v : Word) : (c.putS n v).staging = c.staging := by unfold Context.putS; split <;> rfl
@[simp] theorem putS_dc (c : Context) (n : BitVec 5) (v : Word) : (c.putS n v).dc = c.dc := by unfold Context.putS; split <;> rfl
@[simp] theorem putS_lastIssue (c : Context) (n : BitVec 5) (v : Word) : (c.putS n v).lastIssue = c.lastIssue := by unfold Context.putS; split <;> rfl
@[simp] theorem putS_halting (c : Context) (n : BitVec 5) (v : Word) : (c.putS n v).halting = c.halting := by unfold Context.putS; split <;> rfl
@[simp] theorem putS_yielding (c : Context) (n : BitVec 5) (v : Word) : (c.putS n v).yielding = c.yielding := by unfold Context.putS; split <;> rfl
@[simp] theorem putS_leasePassed (c : Context) (n : BitVec 5) (v : Word) : (c.putS n v).leasePassed = c.leasePassed := by unfold Context.putS; split <;> rfl
@[simp] theorem putS_leaseLost (c : Context) (n : BitVec 5) (v : Word) : (c.putS n v).leaseLost = c.leaseLost := by unfold Context.putS; split <;> rfl
@[simp] theorem putS_heAt (c : Context) (n : BitVec 5) (v : Word) : (c.putS n v).heAt = c.heAt := by unfold Context.putS; split <;> rfl

@[simp] theorem empty_slot (c : Context) (n : BitVec 5) : (c.empty n).slot = c.slot := by unfold Context.empty; split <;> rfl
@[simp] theorem empty_num (c : Context) (n : BitVec 5) : (c.empty n).num = c.num := by unfold Context.empty; split <;> rfl
@[simp] theorem empty_kind (c : Context) (n : BitVec 5) : (c.empty n).kind = c.kind := by unfold Context.empty; split <;> rfl
@[simp] theorem empty_engine (c : Context) (n : BitVec 5) : (c.empty n).engine = c.engine := by unfold Context.empty; split <;> rfl
@[simp] theorem empty_engSlot (c : Context) (n : BitVec 5) : (c.empty n).engSlot = c.engSlot := by unfold Context.empty; split <;> rfl
@[simp] theorem empty_phase (c : Context) (n : BitVec 5) : (c.empty n).phase = c.phase := by unfold Context.empty; split <;> rfl
@[simp] theorem empty_wait (c : Context) (n : BitVec 5) : (c.empty n).wait = c.wait := by unfold Context.empty; split <;> rfl
@[simp] theorem empty_pc (c : Context) (n : BitVec 5) : (c.empty n).pc = c.pc := by unfold Context.empty; split <;> rfl
@[simp] theorem empty_s (c : Context) (n : BitVec 5) : (c.empty n).s = c.s := by unfold Context.empty; split <;> rfl
@[simp] theorem empty_p (c : Context) (n : BitVec 5) : (c.empty n).p = c.p := by unfold Context.empty; split <;> rfl
@[simp] theorem empty_loops (c : Context) (n : BitVec 5) : (c.empty n).loops = c.loops := by unfold Context.empty; split <;> rfl
@[simp] theorem empty_hd (c : Context) (n : BitVec 5) : (c.empty n).hd = c.hd := by unfold Context.empty; split <;> rfl
@[simp] theorem empty_fcsr (c : Context) (n : BitVec 5) : (c.empty n).fcsr = c.fcsr := by unfold Context.empty; split <;> rfl
@[simp] theorem empty_epc (c : Context) (n : BitVec 5) : (c.empty n).epc = c.epc := by unfold Context.empty; split <;> rfl
@[simp] theorem empty_ecause (c : Context) (n : BitVec 5) : (c.empty n).ecause = c.ecause := by unfold Context.empty; split <;> rfl
@[simp] theorem empty_eval (c : Context) (n : BitVec 5) : (c.empty n).eval = c.eval := by unfold Context.empty; split <;> rfl
@[simp] theorem empty_tvec (c : Context) (n : BitVec 5) : (c.empty n).tvec = c.tvec := by unfold Context.empty; split <;> rfl
@[simp] theorem empty_wdog (c : Context) (n : BitVec 5) : (c.empty n).wdog = c.wdog := by unfold Context.empty; split <;> rfl
@[simp] theorem empty_wtro (c : Context) (n : BitVec 5) : (c.empty n).wtro = c.wtro := by unfold Context.empty; split <;> rfl
@[simp] theorem empty_wtok (c : Context) (n : BitVec 5) : (c.empty n).wtok = c.wtok := by unfold Context.empty; split <;> rfl
@[simp] theorem empty_wrdv (c : Context) (n : BitVec 5) : (c.empty n).wrdv = c.wrdv := by unfold Context.empty; split <;> rfl
@[simp] theorem empty_vshape (c : Context) (n : BitVec 5) : (c.empty n).vshape = c.vshape := by unfold Context.empty; split <;> rfl
@[simp] theorem empty_v (c : Context) (n : BitVec 5) : (c.empty n).v = c.v := by unfold Context.empty; split <;> rfl
@[simp] theorem empty_m (c : Context) (n : BitVec 5) : (c.empty n).m = c.m := by unfold Context.empty; split <;> rfl
@[simp] theorem empty_a (c : Context) (n : BitVec 5) : (c.empty n).a = c.a := by unfold Context.empty; split <;> rfl
@[simp] theorem empty_am (c : Context) (n : BitVec 5) : (c.empty n).am = c.am := by unfold Context.empty; split <;> rfl
@[simp] theorem empty_cb (c : Context) (n : BitVec 5) : (c.empty n).cb = c.cb := by unfold Context.empty; split <;> rfl
@[simp] theorem empty_qb (c : Context) (n : BitVec 5) : (c.empty n).qb = c.qb := by unfold Context.empty; split <;> rfl
@[simp] theorem empty_ct (c : Context) (n : BitVec 5) : (c.empty n).ct = c.ct := by unfold Context.empty; split <;> rfl
@[simp] theorem empty_copyq (c : Context) (n : BitVec 5) : (c.empty n).copyq = c.copyq := by unfold Context.empty; split <;> rfl
@[simp] theorem empty_jrdv (c : Context) (n : BitVec 5) : (c.empty n).jrdv = c.jrdv := by unfold Context.empty; split <;> rfl
@[simp] theorem empty_pend (c : Context) (n : BitVec 5) : (c.empty n).pend = c.pend := by unfold Context.empty; split <;> rfl
@[simp] theorem empty_arrived (c : Context) (n : BitVec 5) : (c.empty n).arrived = c.arrived := by unfold Context.empty; split <;> rfl
@[simp] theorem empty_denied (c : Context) (n : BitVec 5) : (c.empty n).denied = c.denied := by unfold Context.empty; split <;> rfl
@[simp] theorem empty_copyDenied (c : Context) (n : BitVec 5) : (c.empty n).copyDenied = c.copyDenied := by unfold Context.empty; split <;> rfl
@[simp] theorem empty_remoteLd (c : Context) (n : BitVec 5) : (c.empty n).remoteLd = c.remoteLd := by unfold Context.empty; split <;> rfl
@[simp] theorem empty_past (c : Context) (n : BitVec 5) : (c.empty n).past = c.past := by unfold Context.empty; split <;> rfl
@[simp] theorem empty_faults (c : Context) (n : BitVec 5) : (c.empty n).faults = c.faults := by unfold Context.empty; split <;> rfl
@[simp] theorem empty_events (c : Context) (n : BitVec 5) : (c.empty n).events = c.events := by unfold Context.empty; split <;> rfl
@[simp] theorem empty_sinceBoundary (c : Context) (n : BitVec 5) : (c.empty n).sinceBoundary = c.sinceBoundary := by unfold Context.empty; split <;> rfl
@[simp] theorem empty_mark (c : Context) (n : BitVec 5) : (c.empty n).mark = c.mark := by unfold Context.empty; split <;> rfl
@[simp] theorem empty_staging (c : Context) (n : BitVec 5) : (c.empty n).staging = c.staging := by unfold Context.empty; split <;> rfl
@[simp] theorem empty_dc (c : Context) (n : BitVec 5) : (c.empty n).dc = c.dc := by unfold Context.empty; split <;> rfl
@[simp] theorem empty_lastIssue (c : Context) (n : BitVec 5) : (c.empty n).lastIssue = c.lastIssue := by unfold Context.empty; split <;> rfl
@[simp] theorem empty_halting (c : Context) (n : BitVec 5) : (c.empty n).halting = c.halting := by unfold Context.empty; split <;> rfl
@[simp] theorem empty_yielding (c : Context) (n : BitVec 5) : (c.empty n).yielding = c.yielding := by unfold Context.empty; split <;> rfl
@[simp] theorem empty_leasePassed (c : Context) (n : BitVec 5) : (c.empty n).leasePassed = c.leasePassed := by unfold Context.empty; split <;> rfl
@[simp] theorem empty_leaseLost (c : Context) (n : BitVec 5) : (c.empty n).leaseLost = c.leaseLost := by unfold Context.empty; split <;> rfl
@[simp] theorem empty_heAt (c : Context) (n : BitVec 5) : (c.empty n).heAt = c.heAt := by unfold Context.empty; split <;> rfl

@[simp] theorem putP_slot (c : Context) (n : BitVec 5) (b : Bool) : (c.putP n b).slot = c.slot := by unfold Context.putP; split <;> rfl
@[simp] theorem putP_num (c : Context) (n : BitVec 5) (b : Bool) : (c.putP n b).num = c.num := by unfold Context.putP; split <;> rfl
@[simp] theorem putP_kind (c : Context) (n : BitVec 5) (b : Bool) : (c.putP n b).kind = c.kind := by unfold Context.putP; split <;> rfl
@[simp] theorem putP_engine (c : Context) (n : BitVec 5) (b : Bool) : (c.putP n b).engine = c.engine := by unfold Context.putP; split <;> rfl
@[simp] theorem putP_engSlot (c : Context) (n : BitVec 5) (b : Bool) : (c.putP n b).engSlot = c.engSlot := by unfold Context.putP; split <;> rfl
@[simp] theorem putP_phase (c : Context) (n : BitVec 5) (b : Bool) : (c.putP n b).phase = c.phase := by unfold Context.putP; split <;> rfl
@[simp] theorem putP_wait (c : Context) (n : BitVec 5) (b : Bool) : (c.putP n b).wait = c.wait := by unfold Context.putP; split <;> rfl
@[simp] theorem putP_pc (c : Context) (n : BitVec 5) (b : Bool) : (c.putP n b).pc = c.pc := by unfold Context.putP; split <;> rfl
@[simp] theorem putP_s (c : Context) (n : BitVec 5) (b : Bool) : (c.putP n b).s = c.s := by unfold Context.putP; split <;> rfl
@[simp] theorem putP_full (c : Context) (n : BitVec 5) (b : Bool) : (c.putP n b).full = c.full := by unfold Context.putP; split <;> rfl
@[simp] theorem putP_loops (c : Context) (n : BitVec 5) (b : Bool) : (c.putP n b).loops = c.loops := by unfold Context.putP; split <;> rfl
@[simp] theorem putP_hd (c : Context) (n : BitVec 5) (b : Bool) : (c.putP n b).hd = c.hd := by unfold Context.putP; split <;> rfl
@[simp] theorem putP_fcsr (c : Context) (n : BitVec 5) (b : Bool) : (c.putP n b).fcsr = c.fcsr := by unfold Context.putP; split <;> rfl
@[simp] theorem putP_epc (c : Context) (n : BitVec 5) (b : Bool) : (c.putP n b).epc = c.epc := by unfold Context.putP; split <;> rfl
@[simp] theorem putP_ecause (c : Context) (n : BitVec 5) (b : Bool) : (c.putP n b).ecause = c.ecause := by unfold Context.putP; split <;> rfl
@[simp] theorem putP_eval (c : Context) (n : BitVec 5) (b : Bool) : (c.putP n b).eval = c.eval := by unfold Context.putP; split <;> rfl
@[simp] theorem putP_tvec (c : Context) (n : BitVec 5) (b : Bool) : (c.putP n b).tvec = c.tvec := by unfold Context.putP; split <;> rfl
@[simp] theorem putP_wdog (c : Context) (n : BitVec 5) (b : Bool) : (c.putP n b).wdog = c.wdog := by unfold Context.putP; split <;> rfl
@[simp] theorem putP_wtro (c : Context) (n : BitVec 5) (b : Bool) : (c.putP n b).wtro = c.wtro := by unfold Context.putP; split <;> rfl
@[simp] theorem putP_wtok (c : Context) (n : BitVec 5) (b : Bool) : (c.putP n b).wtok = c.wtok := by unfold Context.putP; split <;> rfl
@[simp] theorem putP_wrdv (c : Context) (n : BitVec 5) (b : Bool) : (c.putP n b).wrdv = c.wrdv := by unfold Context.putP; split <;> rfl
@[simp] theorem putP_vshape (c : Context) (n : BitVec 5) (b : Bool) : (c.putP n b).vshape = c.vshape := by unfold Context.putP; split <;> rfl
@[simp] theorem putP_v (c : Context) (n : BitVec 5) (b : Bool) : (c.putP n b).v = c.v := by unfold Context.putP; split <;> rfl
@[simp] theorem putP_m (c : Context) (n : BitVec 5) (b : Bool) : (c.putP n b).m = c.m := by unfold Context.putP; split <;> rfl
@[simp] theorem putP_a (c : Context) (n : BitVec 5) (b : Bool) : (c.putP n b).a = c.a := by unfold Context.putP; split <;> rfl
@[simp] theorem putP_am (c : Context) (n : BitVec 5) (b : Bool) : (c.putP n b).am = c.am := by unfold Context.putP; split <;> rfl
@[simp] theorem putP_cb (c : Context) (n : BitVec 5) (b : Bool) : (c.putP n b).cb = c.cb := by unfold Context.putP; split <;> rfl
@[simp] theorem putP_qb (c : Context) (n : BitVec 5) (b : Bool) : (c.putP n b).qb = c.qb := by unfold Context.putP; split <;> rfl
@[simp] theorem putP_ct (c : Context) (n : BitVec 5) (b : Bool) : (c.putP n b).ct = c.ct := by unfold Context.putP; split <;> rfl
@[simp] theorem putP_copyq (c : Context) (n : BitVec 5) (b : Bool) : (c.putP n b).copyq = c.copyq := by unfold Context.putP; split <;> rfl
@[simp] theorem putP_jrdv (c : Context) (n : BitVec 5) (b : Bool) : (c.putP n b).jrdv = c.jrdv := by unfold Context.putP; split <;> rfl
@[simp] theorem putP_pend (c : Context) (n : BitVec 5) (b : Bool) : (c.putP n b).pend = c.pend := by unfold Context.putP; split <;> rfl
@[simp] theorem putP_arrived (c : Context) (n : BitVec 5) (b : Bool) : (c.putP n b).arrived = c.arrived := by unfold Context.putP; split <;> rfl
@[simp] theorem putP_denied (c : Context) (n : BitVec 5) (b : Bool) : (c.putP n b).denied = c.denied := by unfold Context.putP; split <;> rfl
@[simp] theorem putP_copyDenied (c : Context) (n : BitVec 5) (b : Bool) : (c.putP n b).copyDenied = c.copyDenied := by unfold Context.putP; split <;> rfl
@[simp] theorem putP_remoteLd (c : Context) (n : BitVec 5) (b : Bool) : (c.putP n b).remoteLd = c.remoteLd := by unfold Context.putP; split <;> rfl
@[simp] theorem putP_past (c : Context) (n : BitVec 5) (b : Bool) : (c.putP n b).past = c.past := by unfold Context.putP; split <;> rfl
@[simp] theorem putP_faults (c : Context) (n : BitVec 5) (b : Bool) : (c.putP n b).faults = c.faults := by unfold Context.putP; split <;> rfl
@[simp] theorem putP_events (c : Context) (n : BitVec 5) (b : Bool) : (c.putP n b).events = c.events := by unfold Context.putP; split <;> rfl
@[simp] theorem putP_sinceBoundary (c : Context) (n : BitVec 5) (b : Bool) : (c.putP n b).sinceBoundary = c.sinceBoundary := by unfold Context.putP; split <;> rfl
@[simp] theorem putP_mark (c : Context) (n : BitVec 5) (b : Bool) : (c.putP n b).mark = c.mark := by unfold Context.putP; split <;> rfl
@[simp] theorem putP_staging (c : Context) (n : BitVec 5) (b : Bool) : (c.putP n b).staging = c.staging := by unfold Context.putP; split <;> rfl
@[simp] theorem putP_dc (c : Context) (n : BitVec 5) (b : Bool) : (c.putP n b).dc = c.dc := by unfold Context.putP; split <;> rfl
@[simp] theorem putP_lastIssue (c : Context) (n : BitVec 5) (b : Bool) : (c.putP n b).lastIssue = c.lastIssue := by unfold Context.putP; split <;> rfl
@[simp] theorem putP_halting (c : Context) (n : BitVec 5) (b : Bool) : (c.putP n b).halting = c.halting := by unfold Context.putP; split <;> rfl
@[simp] theorem putP_yielding (c : Context) (n : BitVec 5) (b : Bool) : (c.putP n b).yielding = c.yielding := by unfold Context.putP; split <;> rfl
@[simp] theorem putP_leasePassed (c : Context) (n : BitVec 5) (b : Bool) : (c.putP n b).leasePassed = c.leasePassed := by unfold Context.putP; split <;> rfl
@[simp] theorem putP_leaseLost (c : Context) (n : BitVec 5) (b : Bool) : (c.putP n b).leaseLost = c.leaseLost := by unfold Context.putP; split <;> rfl
@[simp] theorem putP_heAt (c : Context) (n : BitVec 5) (b : Bool) : (c.putP n b).heAt = c.heAt := by unfold Context.putP; split <;> rfl

/-! ## The sequencer moved: every field but its own -/

@[simp] theorem boundary_slot (c : Context) (b : Bool) : (c.boundary b).slot = c.slot := by unfold Context.boundary; split <;> rfl
@[simp] theorem boundary_num (c : Context) (b : Bool) : (c.boundary b).num = c.num := by unfold Context.boundary; split <;> rfl
@[simp] theorem boundary_kind (c : Context) (b : Bool) : (c.boundary b).kind = c.kind := by unfold Context.boundary; split <;> rfl
@[simp] theorem boundary_engine (c : Context) (b : Bool) : (c.boundary b).engine = c.engine := by unfold Context.boundary; split <;> rfl
@[simp] theorem boundary_engSlot (c : Context) (b : Bool) : (c.boundary b).engSlot = c.engSlot := by unfold Context.boundary; split <;> rfl
@[simp] theorem boundary_phase (c : Context) (b : Bool) : (c.boundary b).phase = c.phase := by unfold Context.boundary; split <;> rfl
@[simp] theorem boundary_wait (c : Context) (b : Bool) : (c.boundary b).wait = c.wait := by unfold Context.boundary; split <;> rfl
@[simp] theorem boundary_pc (c : Context) (b : Bool) : (c.boundary b).pc = c.pc := by unfold Context.boundary; split <;> rfl
@[simp] theorem boundary_s (c : Context) (b : Bool) : (c.boundary b).s = c.s := by unfold Context.boundary; split <;> rfl
@[simp] theorem boundary_full (c : Context) (b : Bool) : (c.boundary b).full = c.full := by unfold Context.boundary; split <;> rfl
@[simp] theorem boundary_p (c : Context) (b : Bool) : (c.boundary b).p = c.p := by unfold Context.boundary; split <;> rfl
@[simp] theorem boundary_loops (c : Context) (b : Bool) : (c.boundary b).loops = c.loops := by unfold Context.boundary; split <;> rfl
@[simp] theorem boundary_hd (c : Context) (b : Bool) : (c.boundary b).hd = c.hd := by unfold Context.boundary; split <;> rfl
@[simp] theorem boundary_fcsr (c : Context) (b : Bool) : (c.boundary b).fcsr = c.fcsr := by unfold Context.boundary; split <;> rfl
@[simp] theorem boundary_epc (c : Context) (b : Bool) : (c.boundary b).epc = c.epc := by unfold Context.boundary; split <;> rfl
@[simp] theorem boundary_ecause (c : Context) (b : Bool) : (c.boundary b).ecause = c.ecause := by unfold Context.boundary; split <;> rfl
@[simp] theorem boundary_eval (c : Context) (b : Bool) : (c.boundary b).eval = c.eval := by unfold Context.boundary; split <;> rfl
@[simp] theorem boundary_tvec (c : Context) (b : Bool) : (c.boundary b).tvec = c.tvec := by unfold Context.boundary; split <;> rfl
@[simp] theorem boundary_wdog (c : Context) (b : Bool) : (c.boundary b).wdog = c.wdog := by unfold Context.boundary; split <;> rfl
@[simp] theorem boundary_wtro (c : Context) (b : Bool) : (c.boundary b).wtro = c.wtro := by unfold Context.boundary; split <;> rfl
@[simp] theorem boundary_wtok (c : Context) (b : Bool) : (c.boundary b).wtok = c.wtok := by unfold Context.boundary; split <;> rfl
@[simp] theorem boundary_wrdv (c : Context) (b : Bool) : (c.boundary b).wrdv = c.wrdv := by unfold Context.boundary; split <;> rfl
@[simp] theorem boundary_vshape (c : Context) (b : Bool) : (c.boundary b).vshape = c.vshape := by unfold Context.boundary; split <;> rfl
@[simp] theorem boundary_v (c : Context) (b : Bool) : (c.boundary b).v = c.v := by unfold Context.boundary; split <;> rfl
@[simp] theorem boundary_m (c : Context) (b : Bool) : (c.boundary b).m = c.m := by unfold Context.boundary; split <;> rfl
@[simp] theorem boundary_a (c : Context) (b : Bool) : (c.boundary b).a = c.a := by unfold Context.boundary; split <;> rfl
@[simp] theorem boundary_am (c : Context) (b : Bool) : (c.boundary b).am = c.am := by unfold Context.boundary; split <;> rfl
@[simp] theorem boundary_cb (c : Context) (b : Bool) : (c.boundary b).cb = c.cb := by unfold Context.boundary; split <;> rfl
@[simp] theorem boundary_qb (c : Context) (b : Bool) : (c.boundary b).qb = c.qb := by unfold Context.boundary; split <;> rfl
@[simp] theorem boundary_ct (c : Context) (b : Bool) : (c.boundary b).ct = c.ct := by unfold Context.boundary; split <;> rfl
@[simp] theorem boundary_copyq (c : Context) (b : Bool) : (c.boundary b).copyq = c.copyq := by unfold Context.boundary; split <;> rfl
@[simp] theorem boundary_jrdv (c : Context) (b : Bool) : (c.boundary b).jrdv = c.jrdv := by unfold Context.boundary; split <;> rfl
@[simp] theorem boundary_pend (c : Context) (b : Bool) : (c.boundary b).pend = c.pend := by unfold Context.boundary; split <;> rfl
@[simp] theorem boundary_arrived (c : Context) (b : Bool) : (c.boundary b).arrived = c.arrived := by unfold Context.boundary; split <;> rfl
@[simp] theorem boundary_denied (c : Context) (b : Bool) : (c.boundary b).denied = c.denied := by unfold Context.boundary; split <;> rfl
@[simp] theorem boundary_copyDenied (c : Context) (b : Bool) : (c.boundary b).copyDenied = c.copyDenied := by unfold Context.boundary; split <;> rfl
@[simp] theorem boundary_remoteLd (c : Context) (b : Bool) : (c.boundary b).remoteLd = c.remoteLd := by unfold Context.boundary; split <;> rfl
@[simp] theorem boundary_past (c : Context) (b : Bool) : (c.boundary b).past = c.past := by unfold Context.boundary; split <;> rfl
@[simp] theorem boundary_faults (c : Context) (b : Bool) : (c.boundary b).faults = c.faults := by unfold Context.boundary; split <;> rfl
@[simp] theorem boundary_events (c : Context) (b : Bool) : (c.boundary b).events = c.events := by unfold Context.boundary; split <;> rfl
@[simp] theorem boundary_mark (c : Context) (b : Bool) : (c.boundary b).mark = c.mark := by unfold Context.boundary; split <;> rfl
@[simp] theorem boundary_staging (c : Context) (b : Bool) : (c.boundary b).staging = c.staging := by unfold Context.boundary; split <;> rfl
@[simp] theorem boundary_dc (c : Context) (b : Bool) : (c.boundary b).dc = c.dc := by unfold Context.boundary; split <;> rfl
@[simp] theorem boundary_lastIssue (c : Context) (b : Bool) : (c.boundary b).lastIssue = c.lastIssue := by unfold Context.boundary; split <;> rfl
@[simp] theorem boundary_halting (c : Context) (b : Bool) : (c.boundary b).halting = c.halting := by unfold Context.boundary; split <;> rfl
@[simp] theorem boundary_yielding (c : Context) (b : Bool) : (c.boundary b).yielding = c.yielding := by unfold Context.boundary; split <;> rfl
@[simp] theorem boundary_leasePassed (c : Context) (b : Bool) : (c.boundary b).leasePassed = c.leasePassed := by unfold Context.boundary; split <;> rfl
@[simp] theorem boundary_leaseLost (c : Context) (b : Bool) : (c.boundary b).leaseLost = c.leaseLost := by unfold Context.boundary; split <;> rfl
@[simp] theorem boundary_heAt (c : Context) (b : Bool) : (c.boundary b).heAt = c.heAt := by unfold Context.boundary; split <;> rfl

@[simp] theorem loopBack_slot (c : Context) (n : Word) : (c.loopBack n).slot = c.slot := by simp [Context.loopBack]
@[simp] theorem loopBack_num (c : Context) (n : Word) : (c.loopBack n).num = c.num := by simp [Context.loopBack]
@[simp] theorem loopBack_kind (c : Context) (n : Word) : (c.loopBack n).kind = c.kind := by simp [Context.loopBack]
@[simp] theorem loopBack_engine (c : Context) (n : Word) : (c.loopBack n).engine = c.engine := by simp [Context.loopBack]
@[simp] theorem loopBack_engSlot (c : Context) (n : Word) : (c.loopBack n).engSlot = c.engSlot := by simp [Context.loopBack]
@[simp] theorem loopBack_phase (c : Context) (n : Word) : (c.loopBack n).phase = c.phase := by simp [Context.loopBack]
@[simp] theorem loopBack_wait (c : Context) (n : Word) : (c.loopBack n).wait = c.wait := by simp [Context.loopBack]
@[simp] theorem loopBack_s (c : Context) (n : Word) : (c.loopBack n).s = c.s := by simp [Context.loopBack]
@[simp] theorem loopBack_full (c : Context) (n : Word) : (c.loopBack n).full = c.full := by simp [Context.loopBack]
@[simp] theorem loopBack_p (c : Context) (n : Word) : (c.loopBack n).p = c.p := by simp [Context.loopBack]
@[simp] theorem loopBack_hd (c : Context) (n : Word) : (c.loopBack n).hd = c.hd := by simp [Context.loopBack]
@[simp] theorem loopBack_fcsr (c : Context) (n : Word) : (c.loopBack n).fcsr = c.fcsr := by simp [Context.loopBack]
@[simp] theorem loopBack_epc (c : Context) (n : Word) : (c.loopBack n).epc = c.epc := by simp [Context.loopBack]
@[simp] theorem loopBack_ecause (c : Context) (n : Word) : (c.loopBack n).ecause = c.ecause := by simp [Context.loopBack]
@[simp] theorem loopBack_eval (c : Context) (n : Word) : (c.loopBack n).eval = c.eval := by simp [Context.loopBack]
@[simp] theorem loopBack_tvec (c : Context) (n : Word) : (c.loopBack n).tvec = c.tvec := by simp [Context.loopBack]
@[simp] theorem loopBack_wdog (c : Context) (n : Word) : (c.loopBack n).wdog = c.wdog := by simp [Context.loopBack]
@[simp] theorem loopBack_wtro (c : Context) (n : Word) : (c.loopBack n).wtro = c.wtro := by simp [Context.loopBack]
@[simp] theorem loopBack_wtok (c : Context) (n : Word) : (c.loopBack n).wtok = c.wtok := by simp [Context.loopBack]
@[simp] theorem loopBack_wrdv (c : Context) (n : Word) : (c.loopBack n).wrdv = c.wrdv := by simp [Context.loopBack]
@[simp] theorem loopBack_vshape (c : Context) (n : Word) : (c.loopBack n).vshape = c.vshape := by simp [Context.loopBack]
@[simp] theorem loopBack_v (c : Context) (n : Word) : (c.loopBack n).v = c.v := by simp [Context.loopBack]
@[simp] theorem loopBack_m (c : Context) (n : Word) : (c.loopBack n).m = c.m := by simp [Context.loopBack]
@[simp] theorem loopBack_a (c : Context) (n : Word) : (c.loopBack n).a = c.a := by simp [Context.loopBack]
@[simp] theorem loopBack_am (c : Context) (n : Word) : (c.loopBack n).am = c.am := by simp [Context.loopBack]
@[simp] theorem loopBack_cb (c : Context) (n : Word) : (c.loopBack n).cb = c.cb := by simp [Context.loopBack]
@[simp] theorem loopBack_qb (c : Context) (n : Word) : (c.loopBack n).qb = c.qb := by simp [Context.loopBack]
@[simp] theorem loopBack_ct (c : Context) (n : Word) : (c.loopBack n).ct = c.ct := by simp [Context.loopBack]
@[simp] theorem loopBack_copyq (c : Context) (n : Word) : (c.loopBack n).copyq = c.copyq := by simp [Context.loopBack]
@[simp] theorem loopBack_jrdv (c : Context) (n : Word) : (c.loopBack n).jrdv = c.jrdv := by simp [Context.loopBack]
@[simp] theorem loopBack_pend (c : Context) (n : Word) : (c.loopBack n).pend = c.pend := by simp [Context.loopBack]
@[simp] theorem loopBack_arrived (c : Context) (n : Word) : (c.loopBack n).arrived = c.arrived := by simp [Context.loopBack]
@[simp] theorem loopBack_denied (c : Context) (n : Word) : (c.loopBack n).denied = c.denied := by simp [Context.loopBack]
@[simp] theorem loopBack_copyDenied (c : Context) (n : Word) : (c.loopBack n).copyDenied = c.copyDenied := by simp [Context.loopBack]
@[simp] theorem loopBack_remoteLd (c : Context) (n : Word) : (c.loopBack n).remoteLd = c.remoteLd := by simp [Context.loopBack]
@[simp] theorem loopBack_past (c : Context) (n : Word) : (c.loopBack n).past = c.past := by simp [Context.loopBack]
@[simp] theorem loopBack_faults (c : Context) (n : Word) : (c.loopBack n).faults = c.faults := by simp [Context.loopBack]
@[simp] theorem loopBack_events (c : Context) (n : Word) : (c.loopBack n).events = c.events := by simp [Context.loopBack]
@[simp] theorem loopBack_mark (c : Context) (n : Word) : (c.loopBack n).mark = c.mark := by simp [Context.loopBack]
@[simp] theorem loopBack_staging (c : Context) (n : Word) : (c.loopBack n).staging = c.staging := by simp [Context.loopBack]
@[simp] theorem loopBack_dc (c : Context) (n : Word) : (c.loopBack n).dc = c.dc := by simp [Context.loopBack]
@[simp] theorem loopBack_lastIssue (c : Context) (n : Word) : (c.loopBack n).lastIssue = c.lastIssue := by simp [Context.loopBack]
@[simp] theorem loopBack_halting (c : Context) (n : Word) : (c.loopBack n).halting = c.halting := by simp [Context.loopBack]
@[simp] theorem loopBack_yielding (c : Context) (n : Word) : (c.loopBack n).yielding = c.yielding := by simp [Context.loopBack]
@[simp] theorem loopBack_leasePassed (c : Context) (n : Word) : (c.loopBack n).leasePassed = c.leasePassed := by simp [Context.loopBack]
@[simp] theorem loopBack_leaseLost (c : Context) (n : Word) : (c.loopBack n).leaseLost = c.leaseLost := by simp [Context.loopBack]
@[simp] theorem loopBack_heAt (c : Context) (n : Word) : (c.loopBack n).heAt = c.heAt := by simp [Context.loopBack]

@[simp] theorem nextSeq_slot (c : Context) : (c.nextSeq).slot = c.slot := by unfold Context.nextSeq; split <;> [rfl; (split <;> simp)]
@[simp] theorem nextSeq_num (c : Context) : (c.nextSeq).num = c.num := by unfold Context.nextSeq; split <;> [rfl; (split <;> simp)]
@[simp] theorem nextSeq_kind (c : Context) : (c.nextSeq).kind = c.kind := by unfold Context.nextSeq; split <;> [rfl; (split <;> simp)]
@[simp] theorem nextSeq_engine (c : Context) : (c.nextSeq).engine = c.engine := by unfold Context.nextSeq; split <;> [rfl; (split <;> simp)]
@[simp] theorem nextSeq_engSlot (c : Context) : (c.nextSeq).engSlot = c.engSlot := by unfold Context.nextSeq; split <;> [rfl; (split <;> simp)]
@[simp] theorem nextSeq_phase (c : Context) : (c.nextSeq).phase = c.phase := by unfold Context.nextSeq; split <;> [rfl; (split <;> simp)]
@[simp] theorem nextSeq_wait (c : Context) : (c.nextSeq).wait = c.wait := by unfold Context.nextSeq; split <;> [rfl; (split <;> simp)]
@[simp] theorem nextSeq_s (c : Context) : (c.nextSeq).s = c.s := by unfold Context.nextSeq; split <;> [rfl; (split <;> simp)]
@[simp] theorem nextSeq_full (c : Context) : (c.nextSeq).full = c.full := by unfold Context.nextSeq; split <;> [rfl; (split <;> simp)]
@[simp] theorem nextSeq_p (c : Context) : (c.nextSeq).p = c.p := by unfold Context.nextSeq; split <;> [rfl; (split <;> simp)]
@[simp] theorem nextSeq_hd (c : Context) : (c.nextSeq).hd = c.hd := by unfold Context.nextSeq; split <;> [rfl; (split <;> simp)]
@[simp] theorem nextSeq_fcsr (c : Context) : (c.nextSeq).fcsr = c.fcsr := by unfold Context.nextSeq; split <;> [rfl; (split <;> simp)]
@[simp] theorem nextSeq_epc (c : Context) : (c.nextSeq).epc = c.epc := by unfold Context.nextSeq; split <;> [rfl; (split <;> simp)]
@[simp] theorem nextSeq_ecause (c : Context) : (c.nextSeq).ecause = c.ecause := by unfold Context.nextSeq; split <;> [rfl; (split <;> simp)]
@[simp] theorem nextSeq_eval (c : Context) : (c.nextSeq).eval = c.eval := by unfold Context.nextSeq; split <;> [rfl; (split <;> simp)]
@[simp] theorem nextSeq_tvec (c : Context) : (c.nextSeq).tvec = c.tvec := by unfold Context.nextSeq; split <;> [rfl; (split <;> simp)]
@[simp] theorem nextSeq_wdog (c : Context) : (c.nextSeq).wdog = c.wdog := by unfold Context.nextSeq; split <;> [rfl; (split <;> simp)]
@[simp] theorem nextSeq_wtro (c : Context) : (c.nextSeq).wtro = c.wtro := by unfold Context.nextSeq; split <;> [rfl; (split <;> simp)]
@[simp] theorem nextSeq_wtok (c : Context) : (c.nextSeq).wtok = c.wtok := by unfold Context.nextSeq; split <;> [rfl; (split <;> simp)]
@[simp] theorem nextSeq_wrdv (c : Context) : (c.nextSeq).wrdv = c.wrdv := by unfold Context.nextSeq; split <;> [rfl; (split <;> simp)]
@[simp] theorem nextSeq_vshape (c : Context) : (c.nextSeq).vshape = c.vshape := by unfold Context.nextSeq; split <;> [rfl; (split <;> simp)]
@[simp] theorem nextSeq_v (c : Context) : (c.nextSeq).v = c.v := by unfold Context.nextSeq; split <;> [rfl; (split <;> simp)]
@[simp] theorem nextSeq_m (c : Context) : (c.nextSeq).m = c.m := by unfold Context.nextSeq; split <;> [rfl; (split <;> simp)]
@[simp] theorem nextSeq_a (c : Context) : (c.nextSeq).a = c.a := by unfold Context.nextSeq; split <;> [rfl; (split <;> simp)]
@[simp] theorem nextSeq_am (c : Context) : (c.nextSeq).am = c.am := by unfold Context.nextSeq; split <;> [rfl; (split <;> simp)]
@[simp] theorem nextSeq_cb (c : Context) : (c.nextSeq).cb = c.cb := by unfold Context.nextSeq; split <;> [rfl; (split <;> simp)]
@[simp] theorem nextSeq_qb (c : Context) : (c.nextSeq).qb = c.qb := by unfold Context.nextSeq; split <;> [rfl; (split <;> simp)]
@[simp] theorem nextSeq_ct (c : Context) : (c.nextSeq).ct = c.ct := by unfold Context.nextSeq; split <;> [rfl; (split <;> simp)]
@[simp] theorem nextSeq_copyq (c : Context) : (c.nextSeq).copyq = c.copyq := by unfold Context.nextSeq; split <;> [rfl; (split <;> simp)]
@[simp] theorem nextSeq_jrdv (c : Context) : (c.nextSeq).jrdv = c.jrdv := by unfold Context.nextSeq; split <;> [rfl; (split <;> simp)]
@[simp] theorem nextSeq_pend (c : Context) : (c.nextSeq).pend = c.pend := by unfold Context.nextSeq; split <;> [rfl; (split <;> simp)]
@[simp] theorem nextSeq_arrived (c : Context) : (c.nextSeq).arrived = c.arrived := by unfold Context.nextSeq; split <;> [rfl; (split <;> simp)]
@[simp] theorem nextSeq_denied (c : Context) : (c.nextSeq).denied = c.denied := by unfold Context.nextSeq; split <;> [rfl; (split <;> simp)]
@[simp] theorem nextSeq_copyDenied (c : Context) : (c.nextSeq).copyDenied = c.copyDenied := by unfold Context.nextSeq; split <;> [rfl; (split <;> simp)]
@[simp] theorem nextSeq_remoteLd (c : Context) : (c.nextSeq).remoteLd = c.remoteLd := by unfold Context.nextSeq; split <;> [rfl; (split <;> simp)]
@[simp] theorem nextSeq_past (c : Context) : (c.nextSeq).past = c.past := by unfold Context.nextSeq; split <;> [rfl; (split <;> simp)]
@[simp] theorem nextSeq_faults (c : Context) : (c.nextSeq).faults = c.faults := by unfold Context.nextSeq; split <;> [rfl; (split <;> simp)]
@[simp] theorem nextSeq_events (c : Context) : (c.nextSeq).events = c.events := by unfold Context.nextSeq; split <;> [rfl; (split <;> simp)]
@[simp] theorem nextSeq_mark (c : Context) : (c.nextSeq).mark = c.mark := by unfold Context.nextSeq; split <;> [rfl; (split <;> simp)]
@[simp] theorem nextSeq_staging (c : Context) : (c.nextSeq).staging = c.staging := by unfold Context.nextSeq; split <;> [rfl; (split <;> simp)]
@[simp] theorem nextSeq_dc (c : Context) : (c.nextSeq).dc = c.dc := by unfold Context.nextSeq; split <;> [rfl; (split <;> simp)]
@[simp] theorem nextSeq_lastIssue (c : Context) : (c.nextSeq).lastIssue = c.lastIssue := by unfold Context.nextSeq; split <;> [rfl; (split <;> simp)]
@[simp] theorem nextSeq_halting (c : Context) : (c.nextSeq).halting = c.halting := by unfold Context.nextSeq; split <;> [rfl; (split <;> simp)]
@[simp] theorem nextSeq_yielding (c : Context) : (c.nextSeq).yielding = c.yielding := by unfold Context.nextSeq; split <;> [rfl; (split <;> simp)]
@[simp] theorem nextSeq_leasePassed (c : Context) : (c.nextSeq).leasePassed = c.leasePassed := by unfold Context.nextSeq; split <;> [rfl; (split <;> simp)]
@[simp] theorem nextSeq_leaseLost (c : Context) : (c.nextSeq).leaseLost = c.leaseLost := by unfold Context.nextSeq; split <;> [rfl; (split <;> simp)]
@[simp] theorem nextSeq_heAt (c : Context) : (c.nextSeq).heAt = c.heAt := by unfold Context.nextSeq; split <;> [rfl; (split <;> simp)]

@[simp] theorem jumpTo_slot (c : Context) (t : Word) : (c.jumpTo t).slot = c.slot := by simp [Context.jumpTo]
@[simp] theorem jumpTo_num (c : Context) (t : Word) : (c.jumpTo t).num = c.num := by simp [Context.jumpTo]
@[simp] theorem jumpTo_kind (c : Context) (t : Word) : (c.jumpTo t).kind = c.kind := by simp [Context.jumpTo]
@[simp] theorem jumpTo_engine (c : Context) (t : Word) : (c.jumpTo t).engine = c.engine := by simp [Context.jumpTo]
@[simp] theorem jumpTo_engSlot (c : Context) (t : Word) : (c.jumpTo t).engSlot = c.engSlot := by simp [Context.jumpTo]
@[simp] theorem jumpTo_phase (c : Context) (t : Word) : (c.jumpTo t).phase = c.phase := by simp [Context.jumpTo]
@[simp] theorem jumpTo_wait (c : Context) (t : Word) : (c.jumpTo t).wait = c.wait := by simp [Context.jumpTo]
@[simp] theorem jumpTo_s (c : Context) (t : Word) : (c.jumpTo t).s = c.s := by simp [Context.jumpTo]
@[simp] theorem jumpTo_full (c : Context) (t : Word) : (c.jumpTo t).full = c.full := by simp [Context.jumpTo]
@[simp] theorem jumpTo_p (c : Context) (t : Word) : (c.jumpTo t).p = c.p := by simp [Context.jumpTo]
@[simp] theorem jumpTo_hd (c : Context) (t : Word) : (c.jumpTo t).hd = c.hd := by simp [Context.jumpTo]
@[simp] theorem jumpTo_fcsr (c : Context) (t : Word) : (c.jumpTo t).fcsr = c.fcsr := by simp [Context.jumpTo]
@[simp] theorem jumpTo_epc (c : Context) (t : Word) : (c.jumpTo t).epc = c.epc := by simp [Context.jumpTo]
@[simp] theorem jumpTo_ecause (c : Context) (t : Word) : (c.jumpTo t).ecause = c.ecause := by simp [Context.jumpTo]
@[simp] theorem jumpTo_eval (c : Context) (t : Word) : (c.jumpTo t).eval = c.eval := by simp [Context.jumpTo]
@[simp] theorem jumpTo_tvec (c : Context) (t : Word) : (c.jumpTo t).tvec = c.tvec := by simp [Context.jumpTo]
@[simp] theorem jumpTo_wdog (c : Context) (t : Word) : (c.jumpTo t).wdog = c.wdog := by simp [Context.jumpTo]
@[simp] theorem jumpTo_wtro (c : Context) (t : Word) : (c.jumpTo t).wtro = c.wtro := by simp [Context.jumpTo]
@[simp] theorem jumpTo_wtok (c : Context) (t : Word) : (c.jumpTo t).wtok = c.wtok := by simp [Context.jumpTo]
@[simp] theorem jumpTo_wrdv (c : Context) (t : Word) : (c.jumpTo t).wrdv = c.wrdv := by simp [Context.jumpTo]
@[simp] theorem jumpTo_vshape (c : Context) (t : Word) : (c.jumpTo t).vshape = c.vshape := by simp [Context.jumpTo]
@[simp] theorem jumpTo_v (c : Context) (t : Word) : (c.jumpTo t).v = c.v := by simp [Context.jumpTo]
@[simp] theorem jumpTo_m (c : Context) (t : Word) : (c.jumpTo t).m = c.m := by simp [Context.jumpTo]
@[simp] theorem jumpTo_a (c : Context) (t : Word) : (c.jumpTo t).a = c.a := by simp [Context.jumpTo]
@[simp] theorem jumpTo_am (c : Context) (t : Word) : (c.jumpTo t).am = c.am := by simp [Context.jumpTo]
@[simp] theorem jumpTo_cb (c : Context) (t : Word) : (c.jumpTo t).cb = c.cb := by simp [Context.jumpTo]
@[simp] theorem jumpTo_qb (c : Context) (t : Word) : (c.jumpTo t).qb = c.qb := by simp [Context.jumpTo]
@[simp] theorem jumpTo_ct (c : Context) (t : Word) : (c.jumpTo t).ct = c.ct := by simp [Context.jumpTo]
@[simp] theorem jumpTo_copyq (c : Context) (t : Word) : (c.jumpTo t).copyq = c.copyq := by simp [Context.jumpTo]
@[simp] theorem jumpTo_jrdv (c : Context) (t : Word) : (c.jumpTo t).jrdv = c.jrdv := by simp [Context.jumpTo]
@[simp] theorem jumpTo_pend (c : Context) (t : Word) : (c.jumpTo t).pend = c.pend := by simp [Context.jumpTo]
@[simp] theorem jumpTo_arrived (c : Context) (t : Word) : (c.jumpTo t).arrived = c.arrived := by simp [Context.jumpTo]
@[simp] theorem jumpTo_denied (c : Context) (t : Word) : (c.jumpTo t).denied = c.denied := by simp [Context.jumpTo]
@[simp] theorem jumpTo_copyDenied (c : Context) (t : Word) : (c.jumpTo t).copyDenied = c.copyDenied := by simp [Context.jumpTo]
@[simp] theorem jumpTo_remoteLd (c : Context) (t : Word) : (c.jumpTo t).remoteLd = c.remoteLd := by simp [Context.jumpTo]
@[simp] theorem jumpTo_past (c : Context) (t : Word) : (c.jumpTo t).past = c.past := by simp [Context.jumpTo]
@[simp] theorem jumpTo_faults (c : Context) (t : Word) : (c.jumpTo t).faults = c.faults := by simp [Context.jumpTo]
@[simp] theorem jumpTo_events (c : Context) (t : Word) : (c.jumpTo t).events = c.events := by simp [Context.jumpTo]
@[simp] theorem jumpTo_mark (c : Context) (t : Word) : (c.jumpTo t).mark = c.mark := by simp [Context.jumpTo]
@[simp] theorem jumpTo_staging (c : Context) (t : Word) : (c.jumpTo t).staging = c.staging := by simp [Context.jumpTo]
@[simp] theorem jumpTo_dc (c : Context) (t : Word) : (c.jumpTo t).dc = c.dc := by simp [Context.jumpTo]
@[simp] theorem jumpTo_lastIssue (c : Context) (t : Word) : (c.jumpTo t).lastIssue = c.lastIssue := by simp [Context.jumpTo]
@[simp] theorem jumpTo_halting (c : Context) (t : Word) : (c.jumpTo t).halting = c.halting := by simp [Context.jumpTo]
@[simp] theorem jumpTo_yielding (c : Context) (t : Word) : (c.jumpTo t).yielding = c.yielding := by simp [Context.jumpTo]
@[simp] theorem jumpTo_leasePassed (c : Context) (t : Word) : (c.jumpTo t).leasePassed = c.leasePassed := by simp [Context.jumpTo]
@[simp] theorem jumpTo_leaseLost (c : Context) (t : Word) : (c.jumpTo t).leaseLost = c.leaseLost := by simp [Context.jumpTo]
@[simp] theorem jumpTo_heAt (c : Context) (t : Word) : (c.jumpTo t).heAt = c.heAt := by simp [Context.jumpTo]

end Sys2Proof.Machine
end

