-- ==== Sys2Proof/Laws/Keep.lean ====
section
/-! SUPPORT. A property of the state that an effect keeps, one lemma for each way to build an effect; and the updates that keep memory canonical. -/
namespace Sys2Proof.Machine

variable {α β : Type}

/-- Wherever an effect goes on, waits keeping what it did, or raises keeping what it did, the property holds again. -/
structure Keeps (P : State → Prop) (a : Act α) : Prop where
  ok : ∀ {s t : State} {x : α}, P s → a s = .ok (x, t) → P t
  wait : ∀ {s t : State} {w : WaitCond}, P s → a s = .error (.wait w (some t)) → P t
  raise : ∀ {s t : State} {f : FaultRec}, P s → a s = .error (.raiseKept f t) → P t

variable {P : State → Prop}

theorem keeps_pure (x : α) : Keeps P (pure x : Act α) :=
  ⟨fun h e => by cases e; exact h, fun _ e => by simp [pure, StateT.pure, Except.pure] at e, fun _ e => by simp [pure, StateT.pure, Except.pure] at e⟩

theorem keeps_get : Keeps P (get : Act State) :=
  ⟨fun h e => by cases e; exact h, fun _ e => by simp at e, fun _ e => by simp at e⟩

/-- A change that keeps the property. -/
theorem keeps_modify {f : State → State} (hf : ∀ s, P s → P (f s)) : Keeps P (modify f : Act Unit) :=
  ⟨fun h e => by cases e; exact hf _ h, fun _ e => by simp at e, fun _ e => by simp at e⟩

/-- One part after another. -/
theorem keeps_bind {x : Act α} {f : α → Act β} (hx : Keeps P x) (hf : ∀ a, Keeps P (f a)) : Keeps P (x >>= f) := by
  have key : ∀ s, (x >>= f) s = match x s with
      | .ok (a, t) => f a t
      | .error e => .error e := by
    intro s
    show (StateT.bind x f) s = _
    simp only [StateT.bind, bind, Except.bind]
    cases x s <;> rfl
  refine ⟨?_, ?_, ?_⟩ <;> intro s t _ h e <;> rw [key] at e <;> split at e <;> rename_i hs
  · exact (hf _).ok (hx.ok h hs) e
  · cases e
  · exact (hf _).wait (hx.ok h hs) e
  · cases e; exact hx.wait h hs
  · exact (hf _).raise (hx.ok h hs) e
  · cases e; exact hx.raise h hs

/-- An effect that never changes the state. -/
theorem keeps_of_still {a : Act α} (h1 : ∀ s t x, a s = .ok (x, t) → t = s) (h2 : ∀ s w t, a s ≠ .error (.wait w (some t)))
    (h3 : ∀ s f t, a s ≠ .error (.raiseKept f t)) : Keeps P a :=
  ⟨fun h e => h1 _ _ _ e ▸ h, fun _ e => absurd e (h2 _ _ _), fun _ e => absurd e (h3 _ _ _)⟩

theorem keeps_raise (c d : BitVec 8) (v : Word) : Keeps P (raise c d v : Act α) :=
  keeps_of_still (fun _ _ _ e => by simp at e) (fun _ _ _ e => by simp at e) (fun _ _ _ e => by simp at e)

theorem keeps_waitFor (w : WaitCond) : Keeps P (waitFor w : Act α) :=
  keeps_of_still (fun _ _ _ e => by simp at e) (fun _ _ _ e => by simp at e) (fun _ _ _ e => by simp at e)

theorem keeps_waitKeep (w : WaitCond) : Keeps P (waitKeep w : Act α) :=
  ⟨fun _ e => by simp at e, fun h e => by cases e; exact h, fun _ e => by simp at e⟩

theorem keeps_raiseIf (b : Bool) (c d : BitVec 8) (v : Word) : Keeps P (raiseIf b c d v) := by
  cases b
  · exact keeps_pure ()
  · exact keeps_raise c d v

theorem keeps_waitIf (b : Bool) (w : WaitCond) : Keeps P (waitIf b w) := by
  cases b
  · exact keeps_pure ()
  · exact keeps_waitFor w

theorem keeps_ite {p : Prop} [Decidable p] {x y : Act α} (hx : Keeps P x) (hy : Keeps P y) : Keeps P (if p then x else y) := by
  split
  · exact hx
  · exact hy

theorem keeps_destReady (d : BitVec 5) : Keeps P (destReady d) := by
  refine keeps_of_still ?_ ?_ ?_ <;> intros <;> simp only [destReady, ne_eq] at * <;> (split at * <;> simp_all)

theorem keeps_readSrc (n : BitVec 5) (q : Bool) : Keeps P (readSrc n q) := by
  refine keeps_of_still ?_ ?_ ?_ <;> intros <;> simp only [readSrc, ne_eq] at * <;> (split at * <;> [skip; split at *] <;> simp_all)

/-- What an instruction's effect keeps, its outcome keeps, if waiting and taking an exception keep it. -/
theorem runAct_keeps {a : Act Unit} (ha : Keeps P a) (hw : ∀ s w, P s → P (s.enterWait w)) (hf : ∀ s r f v, P s → P (s.takeFault r f v)) {s t : State}
    (h : P s) (e : runAct a s = .next t) : P t := by
  unfold runAct at e
  split at e <;> rename_i hs <;> cases e
  · exact ha.ok h hs
  · rename_i k
    cases k with
    | none => exact hw _ _ h
    | some u => exact hw _ _ (ha.wait h hs)
  · exact hf _ _ _ _ h
  · exact hf _ _ _ _ (ha.raise h hs)

/-! ## Memory in canonical form -/

theorem memOk_of_mem_eq {s t : State} (h : t.mem = s.mem) (hs : s.MemOk) : t.MemOk := by unfold State.MemOk at *; rw [h]; exact hs

@[simp] theorem setCtx_mem (s : State) (r : CtxRef) (f : Context → Context) : (s.setCtx r f).mem = s.mem := by unfold State.setCtx; split <;> rfl
@[simp] theorem enterWait_mem (s : State) (w : WaitCond) : (s.enterWait w).mem = s.mem := rfl

@[simp] theorem escalate_mem (s : State) (r : CtxRef) (f : FaultRec) (v : Word) : (s.escalate r f v).mem = s.mem := by
  unfold State.escalate
  split <;> simp
  split <;> simp

@[simp] theorem takeFault_mem (s : State) (r : CtxRef) (f : FaultRec) (v : Word) : (s.takeFault r f v).mem = s.mem := by
  unfold State.takeFault
  split
  · rfl
  · split <;> simp

/-- Bytes settled at every scope. -/
theorem memOk_settle {s : State} (h : s.MemOk) (pa : Nat) (bs : List Byte) : (s.settle pa bs).MemOk := memory_wf_setBytes h pa bs

@[simp] theorem post_mem (s : State) (r : CtxRef) (e : FaultRec) : (s.post r e).mem = s.mem := by
  unfold State.post
  repeat' split
  all_goals simp

@[simp] theorem postNotes_mem (s : State) (l : List Release) (sc : Scope) : (s.postNotes l sc).mem = s.mem := by
  unfold State.postNotes
  induction l generalizing s with
  | nil => rfl
  | cons x rest ih =>
    simp only [List.foldl_cons]
    rw [ih]
    repeat' split
    all_goals simp

/-- What the releases of stores post leaves memory alone. -/
theorem foldl_postNotes_mem (l : List StoreRec) (s : State) (sc : Scope) : (l.foldl (fun t r => t.postNotes r.rels sc) s).mem = s.mem := by
  induction l generalizing s with
  | nil => rfl
  | cons r rest ih => simp [ih]

/-- Stores settled one after another. -/
theorem memory_wf_settleAll (l : List StoreRec) {m : Memory} (h : m.wf = true) :
    (l.foldl (fun m r => Memory.setBytes m r.pa r.bytes) m).wf = true := by
  induction l generalizing m with
  | nil => exact h
  | cons r rest ih => exact ih (memory_wf_setBytes h _ _)

/-- A store that rises. -/
theorem memOk_rise {s : State} (h : s.MemOk) (id : Nat) (sc : Scope) : (s.rise id sc).MemOk := by
  unfold State.rise
  dsimp only
  split
  · split
    · exact memory_wf_settleAll _ ((foldl_postNotes_mem _ s sc).symm ▸ h)
    · exact memOk_of_mem_eq (foldl_postNotes_mem _ s sc) h
  · exact h

/-- The outcome of an effect that keeps memory canonical. -/
theorem runAct_memOk {a : Act Unit} (ha : Keeps State.MemOk a) {s t : State} (h : s.MemOk) (e : runAct a s = .next t) : t.MemOk :=
  runAct_keeps ha (fun s w => memOk_of_mem_eq (enterWait_mem s w)) (fun s r f v => memOk_of_mem_eq (takeFault_mem s r f v)) h e

end Sys2Proof.Machine
end

