-- ==== Sys2Proof/Laws/Table.lean ====
section
/-! SUPPORT. Tables and fields of records: what a read gives after a write. -/
namespace Sys2Proof.Machine

variable {α : Type}

@[simp] theorem tbl_get_nil (k : Nat) : Tbl.get? ([] : Tbl α) k = none := rfl

/-- A written entry reads back. -/
@[simp] theorem tbl_get_set (t : Tbl α) (k : Nat) (v : α) : Tbl.get? (Tbl.set t k v) k = some v := by
  induction t with
  | nil => simp [Tbl.set, Tbl.get?]
  | cons e rest ih =>
    obtain ⟨j, w⟩ := e
    by_cases h : k < j
    · simp [Tbl.set, Tbl.get?, h]
    · by_cases h' : k = j
      · simp [Tbl.set, Tbl.get?, h']
      · simp [Tbl.set, Tbl.get?, h, h', Ne.symm h', ih]

/-- Every other entry reads as before. -/
theorem tbl_get_set_ne (t : Tbl α) {j k : Nat} (v : α) (h : j ≠ k) : Tbl.get? (Tbl.set t k v) j = Tbl.get? t j := by
  induction t with
  | nil => simp [Tbl.set, Tbl.get?, h.symm]
  | cons e rest ih =>
    obtain ⟨i, w⟩ := e
    by_cases h1 : k < i
    · simp [Tbl.set, Tbl.get?, h1, h.symm]
    · by_cases h2 : k = i
      · subst h2
        simp [Tbl.set, Tbl.get?, h.symm]
      · simp only [Tbl.set, if_neg h1, if_neg h2, Tbl.get?, ih]

/-- An entry read is an entry of the table. -/
theorem tbl_mem_of_get {t : Tbl α} {k : Nat} {v : α} (h : Tbl.get? t k = some v) : (k, v) ∈ t := by
  induction t with
  | nil => simp at h
  | cons e rest ih =>
    obtain ⟨i, w⟩ := e
    by_cases hi : i = k
    · simp_all [Tbl.get?]
    · rw [Tbl.get?, if_neg hi] at h
      exact List.mem_cons_of_mem _ (ih h)

/-- Deleting an entry leaves the others. -/
theorem tbl_get_del_ne (t : Tbl α) {j k : Nat} (h : j ≠ k) : Tbl.get? (Tbl.del t k) j = Tbl.get? t j := by
  induction t with
  | nil => rfl
  | cons e rest ih =>
    obtain ⟨i, w⟩ := e
    by_cases h2 : i = k
    · subst h2
      simp [Tbl.del, Tbl.get?, h.symm]
    · simp only [Tbl.del, if_neg h2, Tbl.get?, ih]

end Sys2Proof.Machine
end

