-- ==== Sys2Proof/Tests/Slice0.lean ====
section
/-! SUPPORT. The model's own tests: terms that are no instructions, a word of every instruction written out from the spec's encodings, one step on
small states, and for each statement a state and operands that meet its hypotheses. Expected values are the spec's. -/
namespace Sys2Proof.Tests
set_option Elab.async false
open Sys2Proof Sys2Proof.Machine

/-! The witness of a statement `Obligations.X` is `witness_X`, with these further ones for the parts of a statement:
LoopControl: LoopBreak. AccessChecks: ScopeTrap. RoundingAndArithmetic: FormatRoundTrip, ExactArithmetic. VectorElements: RoundedElements, ExactElements.
MasksAndReductions: MasksAndMoves, ReduceAndPack. ConversionsAndBlocks: Conversions, BlockQuantise. VectorStreams: RouteStreams, TroughTiles.
VectorMemory: VectorLoads, VectorStores. StepWords: TokensAndStarts, StepStarts, StepWordsArm. StepsRun: StepLoops, StepsFire, StepEnds. CopiesIssue: CopyControl.
CopiesRun: Contributions. HearthLeaseAndShapes: HearthLease, HearthShapes. HearthRegisters: HearthVersions. FreezeAndThaw: FreezeImage.
WaveAdmission: WaveAdmission_west, WaveAdmission_south. WavesAtCells: WaveTimes. ChargesQuotasYields: ChargesAndQuotas, YieldDecision.
KillsAndRollbacks: KillSequence, RollbackAndScrub. ResultsAndStores: ResultsLand, StoresMove. WaitsAndWatchdogs: QuiescentWatchdog. FabricMessages: PacketOk, FabricData.
SideInfoAndCoding: SideInfo, Coding, Decoding, DecodingSpan. RemoteMemory: RemoteAnswers, RemoteWindows. HostCommands: CommandChecks, VfCommands, EntryCommands, RegionCommands, ImageCommand.
DecodeWords and ResetState have no hypothesis. -/

/-! ## A small machine: one running instance of VF 0 on the engines 0, every virtual address below 1 GiB mapped to itself -/

/-- The next state of an outcome. -/
def nextOf (o : Host.Outcome State Fault Refusal) : Option State :=
  match o with
  | .next t => some t
  | .fault _ => none
  | .refused _ => none

/-- The bytes of eight-byte words at an address, as memory lists them. -/
def cellsAt (a : Nat) (ws : List Nat) : Memory := ((ws.flatMap (fun w => natBytes w 8)).zipIdx).filterMap (fun (b, i) => if b = 0 then none else some (a + i, b))

/-- Tables of stage 2 at 0x1000 and of stage 1 at 0x3000: 1 GiB leaves, all of them over the first GiB. At 1 GiB the page is FP32, at 2 GiB BF16, at 3 GiB PRIV. -/
def tables : Memory :=
  cellsAt 0x1000 [0x2001] ++ cellsAt 0x2000 [0x5F] ++ cellsAt 0x3000 [0x4001] ++ cellsAt 0x4000 [0x25F, 0x65F, 0xA5F, 0x05F]

/-- The entry of the instance: core, copy engine and Hearth 0, VF 0, region 1, RUNNING. -/
def entry0 : Slot :=
  newSlot (setField (setField (setField (setField (setField (setField 0 1023 896 1) 895 832 1) 831 800 1) 684 677 1) 119 104 1) 2 0 2) 1 0

/-- The machine with a context of a kind current, TVEC 0x400, its registers s1 to s7 holding 1 to 7. -/
def world (k : Kind) : State :=
  { State.reset with
    cur := { wordContext k 0 with tvec := 0x400, pc := 0x100, s := Vector.ofFn (fun i : Fin 32 => BitVec.ofNat 64 (if i.val < 8 then i.val else 0)) }
    mem := tables
    rcbs := [(0, rootRcb), (1, newNode (tenantBits 0) 4)]
    images := [(1, ⟨0, bareHeader, [⟨0, 0x1000, k⟩], [], [], []⟩)]
    vfs := [(0, ⟨0, 1, 0x77, some 0x3000, some 0x1000, [], 0, [], []⟩)]
    slots := [(0, entry0)]
    boot := { Boot.reset with phase := .up, mgmt := [0x77] } }

/-- s register n of the current context set. -/
def withS (s : State) (n : BitVec 5) (v : Word) : State := s.setCur (fun c => c.putS n v)
/-- s register n empty. -/
def without (s : State) (n : BitVec 5) : State := s.setCur (fun c => c.empty n)

theorem access_of {sc : Option (Scope × Bool)} {va : Word} {n : Nat} {r : BitVec 3} {p : Passed} {ps : List Piece} {s : State} (hp : p.pc = s.cur.pc)
    (h : (scalarAccess sc va n r s).toOption = some (ps, s.setCur (fun c => { c with past := some p }))) : AccessOk s sc va n r p ps := by
  refine ⟨hp, ?_⟩
  revert h
  cases scalarAccess sc va n r s <;> simp [Except.toOption]
theorem scopeFor_new {s : State} {c : BitVec 3} {sc : Scope} {dem : Bool} (h : s.cur.passed = none) (hs : ScopeIs s c sc dem) : ScopeFor s c sc dem := by
  unfold ScopeFor
  rw [h]
  exact hs
theorem scopeFor_kept {s : State} {c : BitVec 3} {sc : Scope} {dem : Bool} (h : s.cur.passed.bind (·.scope) = some (sc, dem)) : ScopeFor s c sc dem := by
  unfold ScopeFor
  rw [h]

/-- The page of an address below 1 GiB. -/
def rawPageAt (pa : Nat) : PageInfo := ⟨pa, .rc, .coh, 0, false, false, none⟩

theorem test_world_translates : translateFull (world .cc) 0 0x10008 3 = .ok (rawPageAt 0x10008) := by decide +kernel
theorem test_world_memory : (world .cc).mem.wf = true := by decide +kernel

/-- An effect that goes on with a result for which `p` holds. -/
theorem act_ok_of {α : Type} {a : Act α} {s : State} (p : α → Bool) (h : ((a s).toOption.any (fun r => p r.1)) = true) : ∃ x t, a s = .ok (x, t) ∧ p x = true := by
  revert h
  cases hs : a s with
  | error e => simp [Except.toOption]
  | ok r => exact fun h => ⟨r.1, r.2, rfl, by simpa [Except.toOption] using h⟩
theorem step_ok_of {α : Type} {a : StepAct α} {s : State} (p : α → State → Bool) (h : ((a s).toOption.any (fun r => p r.1 r.2)) = true) :
    ∃ x t, a s = .ok (x, t) ∧ p x t = true := by
  revert h
  cases hs : a s with
  | error e => simp [Except.toOption]
  | ok r => exact fun h => ⟨r.1, r.2, rfl, by simpa [Except.toOption] using h⟩
theorem nothing_of {s : State} {sc : Scope} (h : s.releaseDeps s.cur true sc = []) (h1 : s.l1 = []) : NothingOwed s sc := ⟨h, fun core _ => by rw [h1]; rfl⟩
/-- The windows of the instance: four rendezvous points from 8 on, four troughs from 2 on. -/
def windowed (s : State) : State := s.setCur (fun c => { c with wrdv := 0x400000008, wtro := 0x400000002 })
/-- Two slots of 64 bytes; `x` and `y` are their states, `h` the head, c claimed, f filled. -/
def trough (x y : SlotState) (h c f : Nat) : Trough := ⟨0x40, 2, 64, false, true, false, h, 0, c, f, [x, y], [7, 9], [0, 0], 0, .reset, .reset⟩

/-! ## Witnesses: scalar instructions -/

theorem witness_IntegerResults : RRR_Ready ⟨3, 1, 2, false, true⟩ (world .cc) ∧ Imm_Ready 3 1 (world .cc) := by unfold RRR_Ready Imm_Ready; decide +kernel
theorem witness_ImmediatesAndPredicates : Imm_Ready 3 1 (world .ve) ∧ (world .ve).cur.isFull 1 = true ∧ (world .ve).cur.isFull 2 = true := by
  unfold Imm_Ready; decide +kernel
theorem witness_BranchesAndJumps :
    ((world .cc).cur.getS 4 + 4 * (2#14).signExtend 64).toNat % 4 = 0 ∧ ((world .cc).cur.getS 5 + 4 * (2#14).signExtend 64).toNat % 4 ≠ 0 ∧ Imm_Ready 3 5 (world .cc) := by
  unfold Imm_Ready; decide +kernel

/-- Two loops of depth 0 that share their last word at 0x100, the inner one in its last iteration, the outer one in its first of two. -/
def looped (i : Nat) : State :=
  (world .cc).setCur (fun c => { c with loops := [⟨3, i, 0xF8, 0x100, 1, false⟩, ⟨2, 0, 0xF0, 0x100, 0, false⟩] })
def six : State := (world .cc).setCur (fun c => { c with loops := List.replicate 6 ⟨3, 0, 0xF8, 0x110, 0, false⟩ })

theorem witness_LoopControl :
    (1 ≤ ((world .cc).cur.getS 2).toNat ∧ (world .cc).cur.loops.length ≤ 5) ∧ 6 ≤ six.cur.loops.length ∧ (world .cc).cur.innermost = none ∧
    (looped 0).cur.innermost = some ⟨3, 0, 0xF8, 0x100, 1, false⟩ ∧ (looped 0).cur.pc + 4 * (0#12).setWidth 64 = 0x100 ∧
    ((⟨3, 0, 0xF8, 0x100, 1, false⟩ : LoopEntry).index + 1 < 3) ∧
    ((looped 2).cur.loops.head?.map (fun e => decide (e.count ≤ e.index + 1))) = some true ∧
    ((looped 2).cur.activeLoops.find? (fun x => decide (1 ≤ x.stages))) = some ⟨3, 2, 0xF8, 0x100, 1, false⟩ ∧
    (six.setCur (fun c => { c with pc := 0x110, loops := [⟨1, 0, 0xF8, 0x110, 0, false⟩, ⟨3, 0, 0xF8, 0x120, 0, false⟩] })).cur.innermost = some ⟨1, 0, 0xF8, 0x110, 0, false⟩ := by
  decide +kernel
theorem witness_LoopBreak : ((world .cc).setCur (fun c => { c with p := 0x03 })).cur.getP 1 = true ∧ (world .cc).cur.getP 1 = false := by decide +kernel
theorem witness_RegisterFile : (without (world .cc) 2).cur.isFull 2 = false ∧ (without (world .cc) 2).cur.isFull 3 = true ∧ (without (world .cc) 3).cur.isFull 3 = false := by
  decide +kernel
theorem witness_ScalarFrame : scalarDest (.add ⟨3, 1, 2, false, false⟩) = some (some 3) ∧
    ∃ t, exec (.add ⟨3, 1, 2, false, false⟩) (world .cc) = .next t ∧ t.cur.phase = .ready ∧ t.cur.hd = (world .cc).cur.hd := by
  refine ⟨rfl, _, rfl, ?_, ?_⟩ <;> decide +kernel

/-! ## Witnesses: memory -/

/-- s1 holds 0x10000, an address of a raw page; s2 and s3 addresses that are not aligned. -/
def mem0 (k : Kind) : State := withS (withS (world k) 1 0x10000) 2 0x10003
def oRaw : MPlain := ⟨4, 1, 3, 1⟩

/-- What an access of the word at 0x100 has passed: one page of the first GiB, its checks made in this cycle. -/
def passedAt (sc : Option (Scope × Bool)) (va : Nat) : Passed := ⟨0x100, sc, [(va, va, 0x25F)], 0, []⟩
/-- The machine at an access that has waited for stage 2 since cycle 0 and is now at cycle 9. -/
def resumed (sc : Option (Scope × Bool)) (va : Nat) : State :=
  { ((mem0 .cc).setCur (fun c => { c with past := some (passedAt sc va) })) with cycle := 9 }

theorem witness_LoadsAndStores :
    (mem0 .cc).cur.isFull 4 = true ∧ NoAcquire (mem0 .cc) ∧
    AccessOk (mem0 .cc) none 0x10008 8 1 (passedAt none 0x10008) [⟨0x10008, 8, rawPageAt 0x10008⟩] ∧
    AccessOk (mem0 .cc) none 0x10008 8 2 (passedAt none 0x10008) [⟨0x10008, 8, rawPageAt 0x10008⟩] ∧
    AccessOk (mem0 .cc) (some (.dev, false)) 0x10008 8 2 (passedAt (some (.dev, false)) 0x10008) [⟨0x10008, 8, rawPageAt 0x10008⟩] ∧
    AccessOk (resumed (some (.dev, false)) 0x10008) (some (.dev, false)) 0x10008 8 1 (passedAt (some (.dev, false)) 0x10008) [⟨0x10008, 8, rawPageAt 0x10008⟩] ∧
    LocalPieces [⟨0x10008, 8, rawPageAt 0x10008⟩] ∧ RemoteOk (mem0 .cc) [⟨0x10008, 8, rawPageAt 0x10008⟩] ∧ ScopeFor (mem0 .cc) 2 .dev false ∧
    ScopeFor (mem0 .cc) 4 .fab true ∧ ScopeFor (resumed (some (.dev, false)) 0x10008) 4 .dev false := by
  refine ⟨by decide +kernel, by unfold NoAcquire; decide +kernel, access_of rfl (by decide +kernel), access_of rfl (by decide +kernel), access_of rfl (by decide +kernel),
    access_of rfl (by decide +kernel), ?_, ?_, scopeFor_new (by decide +kernel) (by unfold ScopeIs; decide +kernel),
    scopeFor_new (by decide +kernel) (by unfold ScopeIs; decide +kernel), scopeFor_kept (by decide +kernel)⟩
  · intro p hp
    obtain rfl : p = ⟨0x10008, 8, rawPageAt 0x10008⟩ := by simpa using hp
    rfl
  · intro p hp h
    obtain rfl : p = ⟨0x10008, 8, rawPageAt 0x10008⟩ := by simpa using hp
    simp [rawPageAt] at h

theorem witness_AccessChecks :
    ((mem0 .cc).cur.getS 2 + (0#8).signExtend 64 * (1 <<< 3)).toNat % 8 ≠ 0 ∧ ((mem0 .cc).cur.getS 2).toNat % 4 ≠ 0 ∧ ((mem0 .cc).cur.getS 2).toNat % 2 ≠ 0 ∧
    (mem0 .cc).cur.passed = none ∧ stage1 (mem0 .cc) 0 0x10008 1 = .ok (0x10008, 0x25F) ∧ (pageOf 0x25F).fmt = 0 ∧ SlotFree (mem0 .cc) ∧ IsMemory (mem0 .cc) 0x10008 ∧
    (mem0 .cc).cur.kind ≠ .ce ∧ stage1 (mem0 .cc) 0 0x100010000 1 = .fault 0x09 1 ∧ stage1 (mem0 .cc) 0 0x40010000 1 = .ok (0x10000, 0x65F) ∧
    (pageOf 0x65F).fmt ≠ 0 := by
  refine ⟨by decide +kernel, by decide +kernel, by decide +kernel, by decide +kernel, by decide +kernel, by decide +kernel, by unfold SlotFree; decide +kernel,
    Or.inl (by decide +kernel), by decide +kernel, by decide +kernel, by decide +kernel, by decide +kernel⟩

/-- The policy TRAP: SCOPEPOL of the tenant node is 1. -/
def trapPolicy : State := { (mem0 .cc) with rcbs := [(0, rootRcb), (1, newNode (setField (setField (tenantBits 0) 56 56 1) 111 111 1) 4)] }
theorem witness_ScopeTrap : trapPolicy.scopePol (trapPolicy.vfOf trapPolicy.cur.slot) = 1 ∧ trapPolicy.cur.passed = none ∧ scopeOfCode 4 = .sys ∧
    (trapPolicy.cur.getS 1 + (0#8).signExtend 64 * (1 <<< 3)).toNat % 8 = 0 := by decide +kernel

theorem witness_FenceAndWaitf : ScopeFor (mem0 .cc) 2 .dev false ∧ (mem0 .cc).releaseDeps (mem0 .cc).cur false .dev = [] ∧ NoneDirty (mem0 .cc) ∧
    (mem0 .cc).cur.pend.any Pend.isAccess = false := by
  refine ⟨scopeFor_new (by decide +kernel) (by unfold ScopeIs; decide +kernel), by decide +kernel, fun core _ => rfl, by decide +kernel⟩

theorem witness_Atomics : AtomicOk (mem0 .cc) 0x10000 4 .int 1 2 .dev false (rawPageAt 0x10000) ∧ AtomicOk (mem0 .cc) 0x10000 8 .int 0 0 .eng false (rawPageAt 0x10000) ∧
    AtomicOk (mem0 .cc) 0x40010000 4 .f32 2 2 .dev false ⟨0x10000, .rc, .coh, 1, false, false, none⟩ ∧
    AtomicOk (mem0 .cc) 0x80010000 2 .bf16 3 2 .dev false ⟨0x10000, .rc, .coh, 2, false, false, none⟩ ∧
    AtomicOk (resumed (some (.dev, false)) 0x10000) 0x10000 8 .int 1 2 .dev false (rawPageAt 0x10000) := by
  have hs : SlotFree (mem0 .cc) := by unfold SlotFree; decide +kernel
  have ha : NoAcquire (mem0 .cc) := by unfold NoAcquire; decide +kernel
  have hd : ScopeFor (mem0 .cc) 2 .dev false := scopeFor_new (by decide +kernel) (by unfold ScopeIs; decide +kernel)
  refine ⟨⟨by decide +kernel, hd, ⟨⟨0x10000, 0x25F, by decide +kernel, by decide +kernel, by decide +kernel⟩, hs, by decide +kernel⟩, rfl, Or.inl (by decide +kernel), ha⟩,
    ⟨by decide +kernel, by rw [if_pos rfl]; exact ⟨rfl, rfl⟩, ⟨⟨0x10000, 0x25F, by decide +kernel, by decide +kernel, by decide +kernel⟩, hs, by decide +kernel⟩, rfl,
      Or.inl (by decide +kernel), ha⟩,
    ⟨by decide +kernel, hd, ⟨⟨0x10000, 0x65F, by decide +kernel, by decide +kernel, by decide +kernel⟩, hs, by decide +kernel⟩, rfl, Or.inl (by decide +kernel), ha⟩,
    ⟨by decide +kernel, hd, ⟨⟨0x10000, 0xA5F, by decide +kernel, by decide +kernel, by decide +kernel⟩, hs, by decide +kernel⟩, rfl, Or.inl (by decide +kernel), ha⟩,
    ⟨by decide +kernel, by rw [if_neg (by decide)]; exact scopeFor_kept (by decide +kernel), ?_, rfl, Or.inl (by decide +kernel), by unfold NoAcquire; decide +kernel⟩⟩
  exact ⟨(0x10000, 0x10000, 0x25F), by decide +kernel, 0x10000, 0x5F, by decide +kernel, by decide +kernel⟩

/-- No store of the state is held, so each is older than the next. -/
theorem witness_StoreFrame : AccessOk (mem0 .cc) none 0x10008 8 2 (passedAt none 0x10008) [⟨0x10008, 8, rawPageAt 0x10008⟩] ∧ NoAcquire (mem0 .cc) ∧
    (mem0 .cc).cur.getS oRaw.base + oRaw.off.signExtend 64 * (1 <<< oRaw.sz.toNat) = 0x10008 ∧ ∀ r ∈ (mem0 .cc).hold, r.id < (mem0 .cc).nextId :=
  ⟨access_of rfl (by decide +kernel), by unfold NoAcquire; decide +kernel, by decide +kernel, by decide +kernel⟩

/-- In a handler that came from 0x200. -/
def inHandler : State := (world .cc).setCur (fun c => { c with hd := true, epc := 0x200 })
theorem witness_TrapsAndReturns : (world .cc).cur.hd = false ∧ (world .cc).cur.tvec ≠ 0 ∧ inHandler.cur.hd = true ∧
    Tbl.get? inHandler.slots inHandler.cur.slot = some entry0 ∧ entry0.state = 2 := by decide +kernel

theorem witness_SystemReads : (world .cc).cur.isFull 4 = true ∧ (sysRegOf 0x040).presentIn .cc = true ∧ sysRegOf 0x040 ≠ .fcsr ∧ sysRegOf 0x040 ≠ .cycle ∧
    (world .cc).cur.kind ≠ .se ∧ (world .cc).cur.convPending = none ∧ ((world .cc).cur.copyq.any (fun e => decide (e.op = .cpyx))) = false ∧
    Tbl.get? (world .cc).dortas.captures ((world .cc).vfOf 0) = none ∧ (sysRegOf 0x002).presentIn .cc = false ∧
    Tbl.get? (world .cc).replays ((world .cc).vfOf 0) = none ∧
    (world .cc).slotOf (world .cc).cur = some entry0 ∧ (sysRegOf 0x005).presentIn .cc = false := by decide +kernel
/-- VF 0 under replay, at the cycle that context 0 read as 77. -/
def replayed : State := { (world .cc) with replays := [(0, ⟨[⟨7, 0, 0, [77]⟩], false, false⟩)] }
theorem witness_ReplayedReads : Tbl.get? replayed.dortas.captures (replayed.vfOf 0) = none ∧
    Tbl.get? replayed.replays (replayed.vfOf 0) = some ⟨[⟨7, 0, 0, [77]⟩], false, false⟩ ∧ replayed.cur.num = 0 := by decide +kernel

theorem witness_SystemWrites : tilesLanded (world .ve).cur = true ∧ (sysRegOf 0x040).presentIn .cc = true ∧ (sysRegOf 0x040).writable = false ∧
    (sysRegOf 0x002).presentIn .cc = false ∧ (world .cc).cur.convPending = none ∧
    (let x := (withS (world .ve) 1 0x8000000000000003).cur.getS 1
     x.toNat / 2 ^ 8 % 2 ^ 52 = 0 ∧ x.getLsbD 61 = false ∧ x.getLsbD 60 = false ∧ x.getLsbD 63 = true ∧ x.toNat % 2 ^ 8 < fieldN (0x400000000#64) 40 32) ∧
    (let x := (withS (world .ve) 1 0x9000000000000005).cur.getS 1
     x.toNat / 2 ^ 8 % 2 ^ 52 = 0 ∧ x.toNat % 2 ^ 8 < 64 ∧ x.getLsbD 60 = true ∧
     ({ (world .ve) with routes := [(5, ⟨0, ⟨0, 0⟩, ⟨1, 0⟩, [], none, 0, none⟩)] } : State).streamEndpoint (world .ve).cur x = true) ∧
    (let s : State := { (world .cc) with slots := [(0, { entry0 with bind := setField entry0.bind 739 724 3 })] }
     ∃ x, s.slotOf s.cur = some x ∧ x.bind.getLsbD 725 = true ∧ (s.bank s.cur.grp 1).busy = false ∧ (s.cur.getS 1).toNat < 2 ∧ (s.bank s.cur.grp 1).mode ≠ 1 ∧
       ((s.bank s.cur.grp 1).mode = 1 → s.troughInBank s.cur.grp 1 = false)) := by
  refine ⟨by decide +kernel, by decide +kernel, by decide +kernel, by decide +kernel, by decide +kernel, by decide +kernel, by decide +kernel, _, rfl, ?_⟩
  decide +kernel

def meet (e a : Nat) : State := { windowed (world .cc) with rdvs := [(9, ⟨e, a, 5, 0, 0⟩)] }
/-- Context 3 has updated the point in this cycle. -/
def metLate : State := { windowed (world .cc) with rdvs := [(9, ⟨3, 1, 5, 1, 3⟩)] }
theorem witness_Rendezvous : RdvNamed (meet 3 2) 1 0 9 ∧ (meet 3 2).rdv 0 9 = ⟨3, 2, 5, 0, 0⟩ ∧ (meet 3 1).rdv 0 9 = ⟨3, 1, 5, 0, 0⟩ ∧ (meet 0 0).rdv 0 9 = ⟨0, 0, 5, 0, 0⟩ ∧
    RdvNamed (meet 0 0) 1 0 9 ∧ NothingOwed (meet 3 2) .dev ∧ (meet 3 2).cur.arrived = none ∧ (meet 3 2).cur.isFull 1 = true ∧
    RdvTurn (meet 3 2) ((meet 3 2).rdv 0 9) ∧ RdvNamed metLate 1 0 9 ∧ NothingOwed metLate .dev ∧ ¬RdvTurn metLate (metLate.rdv 0 9) := by
  refine ⟨by unfold RdvNamed; decide +kernel, by decide +kernel, by decide +kernel, by decide +kernel, by unfold RdvNamed; decide +kernel,
    ⟨by decide +kernel, fun core _ => rfl⟩, by decide +kernel, by decide +kernel, by unfold RdvTurn; decide +kernel, by unfold RdvNamed; decide +kernel,
    ⟨by decide +kernel, fun core _ => rfl⟩, by unfold RdvTurn; decide +kernel⟩

def withTrough (t : Trough) : State :=
  { windowed (world .cc) with troughs := [(3, t)], slots := [(0, { entry0 with bind := setField entry0.bind 799 768 16 })] }
theorem witness_Troughs :
    TroughNamed (withTrough (trough .free .free 0 0 0)) 1 3 (trough .free .free 0 0 0) ∧ TroughNamed (withTrough (trough .full .free 1 0 1)) 1 3 (trough .full .free 1 0 1) ∧
    TroughGood (trough .free .free 0 0 0) ∧ TroughGood (trough .full .free 1 0 1) ∧ TroughGood (trough .filling .free 1 1 0) ∧ TroughGood (trough .draining .free 0 0 0) ∧
    (trough .free .free 0 0 0).slotAt 0 = .free ∧ (trough .full .free 1 0 1).slotAt 0 = .full ∧ (trough .filling .free 1 1 0).slotAt 0 = .filling ∧
    (trough .draining .free 0 0 0).slotAt 0 = .draining ∧ (∀ y ∈ (trough .free .free 0 0 0).slots, y = SlotState.free) ∧
    NothingOwed (withTrough (trough .filling .free 1 1 0)) .grp ∧
    (withTrough (trough .free .free 0 0 0)).slotOf (withTrough (trough .free .free 0 0 0)).cur = some { entry0 with bind := setField entry0.bind 799 768 16 } ∧
    64 + 2 * 64 ≤ 1024 * (({ entry0 with bind := setField entry0.bind 799 768 16 } : Slot)).sramKiB ∧
    (trough .free .full 1 0 0).slotAt 1 ≠ .free ∧ (trough .free .full 0 1 1).consistent = false ∧
    (trough .free .free 0 0 0).mayClaim ((trough .free .free 0 0 0).position (world .cc).cur) 0 = true ∧ (trough .full .free 1 0 1).takeable 0 = true ∧
    (trough .full .free 1 0 1).mayTake ((trough .full .free 1 0 1).position (world .cc).cur) 0 = true ∧
    (trough .free .full 0 1 1).mayClaim ((trough .free .full 0 1 1).position (world .cc).cur) 0 = true := by
  refine ⟨⟨by decide +kernel, by decide +kernel, rfl, Or.inr (by decide +kernel)⟩, ⟨by decide +kernel, by decide +kernel, rfl, Or.inr (by decide +kernel)⟩,
    ?_, ?_, ?_, ?_, by decide +kernel, by decide +kernel, by decide +kernel, by decide +kernel, by decide +kernel, ⟨by decide +kernel, fun core _ => rfl⟩,
    by decide +kernel, by decide +kernel, by decide +kernel, by decide +kernel, by decide +kernel, by decide +kernel, by decide +kernel, by decide +kernel⟩ <;>
    unfold TroughGood <;> decide +kernel

/-! ## Witnesses: routes, leases, loops, launch records, contexts -/

/-- s1 names the stream port of vector engine 0, s2 that of vector engine 1 (R168). -/
def routed : State :=
  let s := withS (withS (world .cc) 1 0x001) 2 0x101
  { s with slots := [(0, { entry0 with bind := setField entry0.bind 1023 896 3 })] }
theorem witness_RoutesAndLeases :
    RRR_Ready ⟨3, 1, 2, false, false⟩ routed ∧ (endpointDirs ⟨1, 0⟩).any (fun d => d.1) = true ∧ (endpointDirs ⟨1, 1⟩).any (fun d => d.2) = true ∧
    (∃ sl, routed.slotOf routed.cur = some sl ∧ sl.holdsEndpoint 0 ⟨1, 0⟩ = true ∧ sl.holdsEndpoint 0 ⟨1, 1⟩ = true) ∧
    ((routed.routesOfGroup 0).filter (fun r => r.2.src = ⟨1, 0⟩)).length < endpointLimit ⟨1, 0⟩ ∧ execSwroute.hbound routed 0 ⟨1, 0⟩ = false ∧
    Tbl.get? routed.routes 0 = none ∧
    (let s : State := { withS (world .cc) 1 5 with routes := [(5, ⟨0, ⟨1, 0⟩, ⟨1, 1⟩, [], none, 0, none⟩)] }
     ∃ r, Tbl.get? s.routes (s.cur.grp * 64 + 5) = some r ∧ r.owner = s.cur.slot ∧ r.entries = [] ∧ r.partway = none) ∧
    LeaseNamed (withS (world .cc) 1 0) 0 [0] ∧ LeaseFree (world .cc) [0] ∧
    (let s := (world .cc).setHearth 0 { Hearth.reset with holder := some 0, leaseGrps := [0], runCount := 64 }
     s.holdsLease 0 [0] = true ∧ s.leaseQ = [] ∧ (s.hearth 0).holder = some 0 ∧ 0 ∈ (s.hearth 0).leaseGrps ∧ 64 ≤ (s.hearth 0).runCount ∧ s.keepsLease 0 = false) ∧
    ({ (world .cc) with slots := [(0, entry0.setState 6)] } : State).keepsLease 0 = true ∧
    (let s := (world .cc).setHearth 0 { Hearth.reset with holder := some 9, leaseGrps := [0] }
     ∃ h, (s.hearth 0).holder = some h ∧ h ≠ s.cur.slot) := by
  refine ⟨by unfold RRR_Ready; decide +kernel, by decide +kernel, by decide +kernel, ⟨_, rfl, by decide +kernel, by decide +kernel⟩, by decide +kernel, by decide +kernel,
    by decide +kernel, ⟨_, rfl, by decide +kernel, rfl, rfl⟩, ⟨by decide +kernel, entry0, 0, by decide +kernel, by decide +kernel, Or.inl ⟨by decide +kernel, rfl⟩⟩,
    ⟨rfl, by decide +kernel⟩, by decide +kernel, by decide +kernel, 9, by decide +kernel, by decide +kernel⟩

/-- Three contexts: the control context and two vector contexts; loop 4 of the group held, its parameter record at 0x10000. -/
def loopRec : BitVec 128 := setField (setField (setField (setField (setField (setField (setField (setField 0 79 72 64) 71 64 1) 87 80 16) 95 88 16) 126 112 100) 63 47 16) 35 32 4) 39 36 8
def rate (hold : Bool) : RateLoop := ⟨0, 0, 1, 2, false, 3, true, loopRec, 0, 0, 16, 16, 0, hold, false, none, [], 512, 0, false⟩
def proofed (r : List (Nat × RateLoop)) : State :=
  { windowed (withS (world .cc) 1 0x10000) with
    rates := r, troughs := [(3, trough .free .free 0 0 0)], mem := tables ++ cellsAt 0x10000 [loopRec.toNat % 2 ^ 64, loopRec.toNat / 2 ^ 64]
    parked := [{ wordContext .ve 0 with num := 1 }, { wordContext .ve 0 with num := 2 }] }
theorem witness_Proofers :
    (let s := withS (proofed []) 2 0x200010001
     let x := s.cur.getS 2
     Tbl.get? s.rates 4 = none ∧ x.getLsbD 63 = false ∧ x.toNat / 2 ^ 48 = 0 ∧ x.toNat / 2 ^ 9 % 2 ^ 7 = 0 ∧ s.liveCtx 0 1 = true ∧ s.liveCtx 0 2 = true ∧
       x.toNat % 2 ^ 8 < fieldN s.cur.wtro 40 32) ∧
    LoopHeld (proofed [(4, rate false)]) 4 4 (rate false) ∧
    (∃ bs u, acquireLoad 0x10000 16 .eng (proofed [(4, rate false)]) = .ok (bs, u) ∧ rateMalformed (BitVec.ofNat 128 (leNat bs)) ((proofed [(4, rate false)]).rateCap (rate false) 0) = false) ∧
    unstable (⟨1, 2, loopRec⟩ :: (proofed [(4, rate false)]).activeEdges 0 4) = none ∧
    (∃ s : State, Tbl.get? s.rates (0 * 32 + 4) = some (rate false) ∧ s.running 0 = true ∧ Tbl.get? s.replays (s.vfOf 0) = none ∧ (rate false).period.2 = false ∧
      Tbl.get? s.dortas.captures (s.vfOf 0) = none ∧ s.cycle % (256 * 2 ^ (loopRec.toNat / 2 ^ 40 % 2 ^ 4)) = loopRec.toNat / 2 ^ 96 % 2 ^ 16) := by
  refine ⟨by decide +kernel, ⟨by decide +kernel, rfl, by decide +kernel⟩, act_ok_of (fun bs => !rateMalformed (BitVec.ofNat 128 (leNat bs)) ((proofed [(4, rate false)]).rateCap (rate false) 0)) (by decide +kernel) |>.imp
    (fun bs h => h.imp (fun u h => ⟨h.1, by simpa using h.2⟩)), by decide +kernel, proofed [(4, rate false)], ?_⟩
  decide +kernel

/-- Record 2 of region 1: idle and patchable, armed, or demanding more cores than there are. -/
def recordOf (state patch cores : Nat) : BitVec 1024 := setField (setField (setField (lrReset 1) 33 32 state) 62 56 patch) 199 192 cores
def pooled (r : BitVec 1024) : State :=
  withS { (world .cc) with rcbs := [(0, rootRcb), (1, { newNode (tenantBits 0) 4 with pool := [(2, r)] })] } 2 0x30002
theorem witness_LaunchRecords :
    (∀ r ∈ [recordOf 0 8 1, recordOf 1 8 1, recordOf 0 0 1, recordOf 0 0 200], ∃ n, LrecNamed (pooled r) 2 1 n ∧ n.lrec 1 2 = r) ∧
    RRR_Ready ⟨4, 2, 3, false, false⟩ (pooled (recordOf 0 8 1)) ∧ NothingOwed (pooled (recordOf 0 8 1)) .dev ∧ (recordOf 0 8 1).getLsbD (56 + 3) = true ∧
    (recordOf 0 0 1).getLsbD (56 + 3) = false ∧ (pooled (recordOf 0 0 1)).overDemand 1 (recordOf 0 0 1) = none ∧
    (pooled (recordOf 0 0 200)).overDemand 1 (recordOf 0 0 200) ≠ none ∧ fieldN (recordOf 1 8 1) 33 32 ≠ 0 ∧ NoAcquire (pooled (recordOf 0 0 1)) ∧
    Tbl.get? (pooled (recordOf 0 0 1)).replays 0 = none ∧ Tbl.get? (pooled (recordOf 0 0 1)).dortas.captures 0 = none := by
  refine ⟨?_, by unfold RRR_Ready; decide +kernel, ⟨by decide +kernel, fun core _ => rfl⟩, by decide +kernel, by decide +kernel, by decide +kernel, by decide +kernel,
    by decide +kernel, by unfold NoAcquire; decide +kernel, by decide +kernel, by decide +kernel⟩
  intro r hr
  simp only [List.mem_cons, List.not_mem_nil, or_false] at hr
  refine ⟨{ newNode (tenantBits 0) 4 with pool := [(2, r)] }, ⟨entry0, rfl, by decide +kernel, rfl, show (2 : Nat) < 4 by decide⟩, rfl⟩

/-- A FORK of a vector context at 0x40: descriptor 1, index 0, join point 1 of the window. -/
def forking : State :=
  let s := withS (withS (windowed (world .cc)) 1 0x40) 2 0x100001
  { s with images := [(1, ⟨0, bareHeader, [⟨0, 0x1000, .cc⟩, ⟨0, 0x1000, .ve⟩], [], [], []⟩)], rdvs := [(9, ⟨0, 0, 0, 0, 0⟩)] }
theorem witness_ForkAndHalt :
    RRR_Ready ⟨3, 1, 2, false, false⟩ forking ∧ forking.slotOf forking.cur = some entry0 ∧ nthSetBit entry0.cmask 0 = some 0 ∧ forking.fetch 0 .ve 0x40 ≠ none ∧
    RdvNamed forking 1 0 9 ∧ (forking.rdv 0 9).exp ≠ 65535 ∧ forking.forkRoom 0 .ve 0 = true ∧ forking.freeNum 0 = some 1 ∧ NothingOwed forking .dev ∧
    forking.cur.phase ≠ .joined ∧ RdvTurn forking (forking.rdv 0 9) ∧
    (let s := (world .ve).setCur (fun c => { c with jrdv := 9 })
     s.cur.hd = false ∧ s.cur.isFull 1 = true ∧ OwnWorkDone s ∧ s.cur.num ≠ 0 ∧ RdvTurn s (s.rdv (s.homeGrp s.cur.slot) s.cur.jrdv)) ∧
    (let s := world .cc
     OwnWorkDone s ∧ s.cur.num = 0 ∧ s.children 0 = false ∧ Tbl.get? s.slots 0 = some entry0 ∧ entry0.vacant = false ∧ (∃ n, Tbl.get? s.rcbs entry0.rcbx = some n ∧
       lrCompl (n.lrec entry0.rcbx entry0.lrec) = 0) ∧ s.sitLeft 0 = false ∧ s.routes = [] ∧ s.hearths = [] ∧ s.leaseQ = [] ∧ (s.slots.map Prod.fst).Nodup) := by
  refine ⟨by unfold RRR_Ready; decide +kernel, by decide +kernel, by decide +kernel, by decide +kernel, by unfold RdvNamed; decide +kernel, by decide +kernel, by decide +kernel,
    by decide +kernel, ⟨by decide +kernel, fun core _ => rfl⟩, by decide +kernel, by unfold RdvTurn; decide +kernel, ⟨by decide +kernel, by decide +kernel, ⟨by decide +kernel, ⟨by decide +kernel, fun core _ => rfl⟩,
      fun _ => by decide +kernel, fun h => absurd h (by decide +kernel)⟩, by decide +kernel, by unfold RdvTurn; decide +kernel⟩, ⟨by decide +kernel, ⟨by decide +kernel, fun core _ => rfl⟩,
      fun _ => by decide +kernel, fun h => absurd h (by decide +kernel)⟩, by decide +kernel, by decide +kernel, by decide +kernel, by decide +kernel, ⟨newNode (tenantBits 0) 4, by decide +kernel, by decide +kernel⟩, by decide +kernel, rfl, rfl, rfl,
    by decide +kernel⟩
theorem witness_YieldCheckpointAssay :
    (world .cc).cur.kind = .cc ∧ (world .cc).children 0 = false ∧ (world .cc).cur.pend = [] ∧ NothingOwed (world .cc) .dev ∧ (world .cc).cur.yielding = false ∧
    (world .ve).cur.kind ≠ .cc ∧ (world .cc).steps.any (fun c => c.2.slot = 0 && c.2.status.isNone) = false ∧ Tbl.get? (world .cc).slots 0 = some entry0 ∧
    (world .cc).eff 1 .undob ≠ 0 ∧ ({ (world .cc) with rcbs := [(0, rootRcb), (1, newNode (setField (tenantBits 0) 126 126 1) 4)] } : State).eff 1 .undob = 0 ∧
    Imm_Ready 3 1 (world .cc) ∧ Tbl.get? (world .cc).dortas.captures 0 = none ∧ Tbl.get? (world .cc).replays 0 = none ∧ 10 < ((withS (world .cc) 1 11).cur.getS 1).toNat := by
  refine ⟨by decide +kernel, by decide +kernel, by decide +kernel, ⟨by decide +kernel, fun core _ => rfl⟩, by decide +kernel, by decide +kernel, by decide +kernel,
    by decide +kernel, by decide +kernel, by decide +kernel, by unfold Imm_Ready; decide +kernel, by decide +kernel, by decide +kernel, by decide +kernel⟩

/-! ## Witnesses: vector instructions -/

/-- A vector context with the shape rows × cols of elements of 2^lw bytes, its tiles holding the tile number in every byte. -/
def vec (rows cols lw : Nat) : State :=
  (world .ve).setCur (fun c => { c with
    vshape := BitVec.ofNat 64 (rows + 32 * cols + 8192 * lw)
    v := Vector.ofFn (fun i : Fin 16 => BitVec.ofNat 16384 (leNat (List.replicate 2048 (BitVec.ofNat 8 i.val)))), m := c.m.set 1 (BitVec.ofNat 2048 5) })

theorem witness_RoundedElements :
    ElemReady (vec 2 4 2) (floatW 0) 0 [.tile 1, .tile 2, .tile 3] ∧ ElemReady (vec 2 4 1) (floatW 1) 9 [.tile 1, .tile 1, .tile 1] ∧
    ElemReady (vec 16 128 0) (floatW 4) 1 [.tile 1, .tile 2] := by
  unfold ElemReady TilesFree; decide +kernel
theorem witness_ExactElements :
    ElemReady (vec 2 4 2) (floatW 0) 2 [.tile 1, .tile 2, .tile 3] ∧ ElemReady (vec 2 4 0) (intW 2) 2 [.tile 1, .tile 2, .tile 3] ∧
    ElemReady (vec 2 4 2) (intW 4) 0 [.tile 1] ∧ (vec 2 4 2).cur.isFull 4 = true := by
  unfold ElemReady TilesFree; decide +kernel
theorem witness_MasksAndMoves :
    (vec 2 4 2).cur.shape.rows ≤ 16 ∧ (vec 2 4 2).cur.shape.cols ≤ 128 ∧ ElemReady (vec 2 4 2) (floatW 0) 2 [.mask ((1#4).setWidth 3), .tile 2, .tile 3] ∧
    ElemReady (vec 2 4 1) (intW 1) 2 [.mask ((1#4).setWidth 3), .tile 2, .tile 3] ∧ TilesFree (vec 2 4 2) [.mask 1, .mask 2, .mask 3] ∧ TilesFree (vec 2 4 2) [.tile 4] ∧
    (vec 2 4 2).cur.shape.w = intW 0 ∧ (7 < (vec 2 4 2).cur.shape.size ∧ (vec 2 4 2).cur.shape.size ≤ 8) ∧ (vec 2 4 2).cur.isFull 4 = true := by
  unfold ElemReady TilesFree; decide +kernel
theorem witness_ReduceAndPack :
    ElemReady (vec 2 4 2) (floatW 0) 2 [.tile 1, .tile 2] ∧ (vec 2 4 2).cur.isFull ((3#4).setWidth 5) = true ∧ (vec 2 4 2).rmode ≤ 4 ∧
    (vec 2 4 2).cur.actives 2 = [0, 2] := by
  refine ⟨by unfold ElemReady TilesFree; decide +kernel, by decide +kernel, by decide +kernel, by decide +kernel⟩
theorem witness_Conversions :
    (vec 2 4 2).cur.shape.w = max (srcW 1) (floatW 0) ∧ (vec 2 4 2).cur.shape.size * max (srcW 1) (floatW 0) ≤ 2048 ∧
    TilesFree (vec 2 4 2) ([.tile 1, .tile 2] ++ maskUse 2) ∧ (vec 2 4 2).cur.shape.w = max (srcW 0) (floatW 0) ∧
    (vec 2 4 2).cur.shape.w = max (srcW 0) (intW 2) ∧ ElemReady (vec 2 4 2) (floatW 0) 2 [.tile 1, .tile 2] ∧ (vec 2 4 2).rmode ≤ 4 := by
  unfold ElemReady TilesFree; decide +kernel
theorem witness_VectorControl :
    (let s := withS (vec 2 4 2) 4 (BitVec.ofNat 64 (16 + 32 * 128))
     let x := (s.cur.getS 4).toNat
     s.cur.isFull 4 = true ∧ tilesLanded s.cur = true ∧ 1 ≤ x % 32 ∧ x % 32 ≤ 16 ∧ 1 ≤ x / 32 % 256 ∧ x / 32 % 256 ≤ 128 ∧ x / 2 ^ 13 % 8 < 3 ∧
       x % 32 * (x / 32 % 256) * 2 ^ (x / 2 ^ 13 % 8) ≤ 2048 ∧ x < 2 ^ 16) ∧
    ((vec 2 4 2).cur.getS 5).toNat ≤ 5 ∧ 6 ≤ ((vec 2 4 2).cur.getS 6).toNat ∧
    (∀ mode ∈ [0, 1, 2, 3],
      let x := BitVec.ofNat 64 (2 ^ 62 * mode + 2 ^ 40 * 64 + 4)
      let len := x.toNat / 2 ^ 40 % 2 ^ 22
      x.toNat / 2 ^ 62 = mode ∧ x.toNat / 2 ^ 32 % 2 ^ 8 = 0 ∧ 1 ≤ len ∧ len = 2 ^ 6 ∧ 32 ≤ len ∧ x.toNat % 2 ^ 32 ∈ [1, 2, 4, 8]) := by
  decide +kernel

theorem witness_FormatRoundTrip :
    (Fmt.f32.decode 0x3F800000).isNan = false ∧ Fmt.f32.decode 0x3F800000 ≠ .inf false ∧ Fmt.f32.decode 0x3F800000 ≠ .inf true ∧
    (Fmt.fE4M3.decode 0x7F).isNan = true ∧ (Fmt.f32.decode 0x7F800001).isNan = true ∧ 0x3F800000 < 2 ^ Fmt.f32.width := by decide +kernel
theorem witness_ExactArithmetic : (FVal.num 3 (-1)).rat = some ((3 : ℚ) * 2 ^ (-1 : Int)) ∧ (FVal.num (-1) 4).rat = some (((-1 : Int) : ℚ) * 2 ^ (4 : Int)) ∧
    (FVal.zero true).rat = some 0 := by
  simp [FVal.rat]
theorem witness_BlockQuantise : ([FVal.num 3 0, FVal.zero false].map FVal.rat) = ([3, 0] : List ℚ).map some := by
  simp [FVal.rat]

/-! ## Witnesses: vector streams and memory -/

/-- Route 5 of group 0 bound in Q0 in one direction, holding units of 4 bytes pushed in the cycle before. -/
def streaming (push : Bool) (es : List RouteEntry) : State :=
  { (vec 2 4 2).setCur (fun c => { c with qb := c.qb.set 0 (BitVec.ofNat 64 (2 ^ 63 + (if push then 2 ^ 62 else 0) + 2 ^ 60 + 5)) }) with
    routes := [(5, ⟨0, ⟨1, 0⟩, ⟨1, 1⟩, es, none, 0, none⟩)], cycle := 9 }
def oneUnit : RouteEntry := ⟨[1, 2, 3, 4], true, 8⟩
/-- Another context has pushed part of a unit. -/
def partly : Route := ⟨0, ⟨1, 0⟩, ⟨1, 1⟩, [⟨[1, 2], false, 8⟩], none, 0, some ⟨0, 7⟩⟩
theorem witness_PushWaits :
    (let s : State := { streaming true [] with routes := [(5, partly)] }
     ElemReady s (floatW 0) 0 [.tile 1] ∧ StreamRoute s 4 true 5 partly ∧ (⟨0, 7⟩ : CtxRef) ≠ s.cur.ref ∧ (s.activeRows 0).head? = some 0) := by
  refine ⟨by unfold ElemReady TilesFree; decide +kernel, ⟨BitVec.ofNat 64 (2 ^ 63 + 2 ^ 62 + 2 ^ 60 + 5), by decide +kernel⟩, by decide +kernel, by decide +kernel⟩
theorem witness_RouteStreams :
    (let s := streaming false [oneUnit, oneUnit]
     ElemReady s (floatW 0) 0 [.tile 1] ∧ StreamRoute s 4 false 5 ⟨0, ⟨1, 0⟩, ⟨1, 1⟩, [oneUnit, oneUnit], none, 0, none⟩ ∧ (∀ u ∈ [[oneUnit], [oneUnit]], IsUnit s.cycle u) ∧
       [oneUnit, oneUnit] = [[oneUnit], [oneUnit]].flatten ++ [] ∧ [[oneUnit], [oneUnit]].length = (s.activeRows 0).length) ∧
    (let s := streaming true []
     ElemReady s (floatW 0) 0 [.tile 1] ∧ StreamRoute s 4 true 5 ⟨0, ⟨1, 0⟩, ⟨1, 1⟩, [], none, 0, none⟩ ∧ s.cur.shape.cols * floatW 0 ≤ 512 ∧
       ((s.activeRows 0).flatMap (fun j => rowEntries s.cycle (s.sentBytes 4 1 0 ((List.range 4).map (fun c => j * 4 + c))))).length ≤ 64) := by
  refine ⟨⟨by unfold ElemReady TilesFree; decide +kernel, ⟨BitVec.ofNat 64 (2 ^ 63 + 2 ^ 60 + 5), by decide +kernel⟩, ?_, rfl, by decide +kernel⟩,
    by unfold ElemReady TilesFree; decide +kernel, ⟨BitVec.ofNat 64 (2 ^ 63 + 2 ^ 62 + 2 ^ 60 + 5), by decide +kernel⟩, by decide +kernel, by decide +kernel⟩
  have h : IsUnit 9 [oneUnit] := ⟨by decide, by decide, oneUnit, rfl, rfl⟩
  intro u hu
  simp only [List.mem_cons, List.not_mem_nil, or_false, or_self] at hu
  exact hu ▸ h

/-- Trough 1 of the window with one full slot, or one free one, seen from a vector context. -/
def tiled (t : Trough) : State :=
  { windowed (vec 2 4 2) with troughs := [(3, t)], slots := [(0, { entry0 with bind := setField entry0.bind 799 768 16 })] }
/-- The same with bank 0 of the group in scratchpad mode. -/
def tiledUp (t : Trough) : State := { tiled t with banks := [(0, { Bank.reset with mode := 1 })] }
theorem allMemory_of {s : State} {ps : List Piece} (h : ps.all (fun p => decide (paKind p.pa = .sram 0 0)) = true) (hb : (s.bank 0 0).busy = false)
    (hm : (s.bank 0 0).mode = 1) : ∀ p ∈ ps, IsMemory s p.pa :=
  fun p hp => Or.inr ⟨0, 0, by simpa using List.all_eq_true.mp h p hp, hb, hm⟩
theorem witness_SlotBytes :
    (let t := trough .full .free 1 0 1
     (∀ p ∈ (tiledUp t).slotPieces t.owner (t.base + 0 * t.slotBytes) (t.counts.getD 0 0).toNat, IsMemory (tiledUp t) p.pa) ∧ t.takeable 0 = true ∧
       t.mayTake (t.position (tiledUp t).cur) 0 = true ∧ 1 ≤ t.filled) ∧
    (let t := trough .free .free 0 0 0
     let s := tiledUp t
     let ps := s.slotPieces t.owner (t.base + 0 * t.slotBytes) (s.cur.shape.size * floatW 0)
     (∀ p ∈ ps, IsMemory s p.pa) ∧ s.ahead (s.locOf s.cur) ps t.scope = [] ∧ t.mayClaim (t.position s.cur) s.cycle = true ∧ t.claimed + t.filled < t.cap) := by
  refine ⟨⟨allMemory_of (by decide +kernel) (by decide +kernel) (by decide +kernel), by decide +kernel⟩,
    allMemory_of (by decide +kernel) (by decide +kernel) (by decide +kernel), by decide +kernel⟩
theorem witness_TroughTiles :
    (∀ t ∈ [trough .free .free 0 0 0, trough .full .free 1 0 1], TroughNamed (tiled t) 1 3 t ∧ TroughGood t ∧ Tbl.get? (tiled t).slots t.owner ≠ none ∧
      t.slots.length = t.cap ∧ t.counts.length = t.cap ∧ t.head < 2 * t.cap ∧ t.tail < 2 * t.cap ∧ ElemReady (tiled t) (floatW 0) 0 [.tile 1] ∧
      (tiled t).cur.shape.size * floatW 0 ≤ t.slotBytes) ∧
    (∀ t ∈ [trough .free .free 0 0 0, trough .full .free 1 0 1], (tiled t).releaseDeps (tiled t).cur true .grp = []) ∧
    (trough .full .free 1 0 1).slotAt 0 = .full ∧ (trough .free .free 0 0 0).slotAt 0 = .free := by
  unfold TroughNamed TroughGood ElemReady TilesFree; decide +kernel

/-- Slot A1 of a vector context points to 0x10000, a raw page. -/
def vmem : State := (vec 2 4 2).setCur (fun c => { c with a := c.a.set 1 0x10000, m := c.m.set 1 0 })
theorem vmem_slotFree : SlotFree vmem := by unfold SlotFree; decide +kernel
theorem vmem_access (r : BitVec 3) (hr : r = 1 ∨ r = 2) (md : VMode) (h : md = .contiguous ∨ md = .strided 1 ∨ md = .indexed 0) :
    VecAccess vmem r 0x10000 (pageOf 0x25F) (vecElems vmem md 0 0x10000 (pageOf 0x25F)) (fun _ => rawPageAt 0x10000) := by
  rcases h with rfl | rfl | rfl <;> rcases hr with rfl | rfl <;>
  refine ⟨⟨0x10000, 0x25F, by decide +kernel, rfl⟩, by decide +kernel, ?_, vmem_slotFree, by unfold NoAcquire; decide +kernel, by decide +kernel⟩ <;>
  intro x hx <;>
  have hx' : x = (1, 0x10000) := by
    revert hx; generalize hl : firstPages _ = l
    have : l = [(1, 0x10000)] := by rw [← hl]; decide +kernel
    subst this; simp
  all_goals
    subst hx'
    exact ⟨⟨0x10000, 0x25F, by decide +kernel, by decide +kernel, by decide +kernel, by decide +kernel, by decide +kernel⟩, by decide +kernel,
      Or.inl (by decide +kernel), rfl⟩
theorem witness_VectorLoads : ElemReady vmem (floatW 0) 0 [.tile 2] ∧ TilesFree vmem [.tile 0] ∧ vmem.cur.actives 0 ≠ [] ∧ vmem.cur.actives 2 = [] ∧ NoAcquire vmem ∧
    (∀ x ∈ vmem.cur.staging, x.1 ≠ vmem.cur.pc) ∧ VecAccess vmem 1 0x10000 (pageOf 0x25F) (vecElems vmem .contiguous 0 0x10000 (pageOf 0x25F)) (fun _ => rawPageAt 0x10000) := by
  refine ⟨by unfold ElemReady TilesFree; decide +kernel, by unfold TilesFree; decide +kernel, by decide +kernel, by decide +kernel, by unfold NoAcquire; decide +kernel,
    by decide +kernel, vmem_access 1 (Or.inl rfl) _ (Or.inl rfl)⟩
theorem witness_VectorStores : ElemReady vmem (floatW 0) 0 [.tile 2] ∧ vmem.cur.actives 0 ≠ [] ∧ (pageOf 0x25F).fmt.toNat < 6 ∧
    (∀ md ∈ [VMode.contiguous, .strided 1, .indexed 0], VecAccess vmem 2 0x10000 (pageOf 0x25F) (vecElems vmem md 0 0x10000 (pageOf 0x25F)) (fun _ => rawPageAt 0x10000)) := by
  refine ⟨by unfold ElemReady TilesFree; decide +kernel, by decide +kernel, by decide +kernel, fun md h => vmem_access 2 (Or.inr rfl) md (by simpa using h)⟩

/-! ## Witnesses: tokens and steps -/

/-- A window of four token queues from 8 on; queue 8 holds three tokens; s1 = 3, s2 = 65,533. -/
def tokened : State :=
  { (withS (world .cc) 2 65533).setCur (fun c => { c with wtok := 0x400000008 }) with tokens := [(8, ⟨3, 5, 0⟩)] }
/-- A step context 0 that has read its header: rank 1 of 4, 8 entries, its table at 0x20000 and its peers at 0x30000; some armed steps, loop 0 active at 1 of 3. -/
def stepping (st : List Armed) : StepCtx :=
  ⟨0, ⟨0, 0⟩, 0, 0x200, [⟨3, 1, 0x1F8, true⟩, ⟨0, 0, 0, false⟩, ⟨0, 0, 0, false⟩, ⟨0, 0, 0, false⟩], [1, 1, 1, 1], st, 1, 4, 8, 0x30000, 0x20000, 0x400000008, 4, [], true, [], none, [], 0⟩
def armed0 (op : StepOp) (ins : List (Nat × BitVec 16)) (fired : Bool) : Armed :=
  ⟨0, op, 0x1F8, 0, ins, some (9, 1), 0, 0, 5, 0, 0, 0, 0, 0, 0, 0, 0, fired, [], false, false, [], [], [], []⟩
/-- The step context's word runs. Entry 0: LBUF 0x10000, XBUF 0x10100, 64 bytes, tag 3, peers 2 and 3. -/
def stepper (st : List Armed) : State :=
  { tokened with
    steps := [(0, stepping st)], curStep := 0, nextAge := 1, cycle := 5000
    mem := tables ++ cellsAt 0x20040 [0x10000, 0x10100, 64 + 3 * 2 ^ 56, 2 * 2 ^ 8 + 3 * 2 ^ 24] ++ cellsAt 0x30000 [0x77, 0x77, 0x78, 0x79] }
def word1 : StepF := ⟨8, 1, 1, 0, 0, 0, 0, 0⟩

theorem witness_TokensAndStarts :
    TokenNamed tokened 0 8 ∧ NothingOwed tokened .dev ∧ ((tokened.token 8).count.toNat + (tokened.cur.getS 1).toNat ≤ 65535) ∧
    65535 < (tokened.token 8).count.toNat + (tokened.cur.getS 2).toNat ∧ tokened.steps = [] ∧ Tbl.get? tokened.dortas.captures (tokened.vfOf tokened.cur.slot) = none ∧
    (tokened.cur.getS 1).toNat % 8 ≠ 0 := by
  refine ⟨by unfold TokenNamed; decide +kernel, nothing_of (by decide +kernel) rfl, by decide +kernel, by decide +kernel, rfl, by decide +kernel, by decide +kernel⟩
/-- s1 = 0 is a step word's address, s2 a table's. -/
def starting : State :=
  { withS (withS tokened 1 0) 2 0x20000 with images := [(1, ⟨0, bareHeader, [⟨0, 0x1000, .cc⟩, ⟨0, 0x1000, .se⟩], [], [], []⟩)] }
theorem witness_StepStarts :
    RRR_Ready ⟨3, 1, 2, false, false⟩ starting ∧ (starting.cur.getS 1).toNat % 8 = 0 ∧ (starting.cur.getS 2).toNat % 64 = 0 ∧
    (starting.cur.getS 7).toNat % 64 ≠ 0 ∧
    starting.fetch starting.cur.slot .se (starting.cur.getS 1) ≠ none ∧ 0 < starting.effOf starting.cur .stepb ∧
    Tbl.get? starting.steps (32 * (starting.cur.grp / 16) + 0) = none ∧ NothingOwed starting .dev := by
  refine ⟨by unfold RRR_Ready; decide +kernel, by decide +kernel, by decide +kernel, by decide +kernel, by decide +kernel, by decide +kernel, by decide +kernel, nothing_of (by decide +kernel) rfl⟩
/-- With its DONE armed a step context handles no further word, not even one outside every section (R267). -/
theorem test_done_ends_fetching :
    ((stepper [armed0 .done [] false]).stepIssue 0) = .next (stepper [armed0 .done [] false]) := by
  have h : Tbl.get? (stepper [armed0 .done [] false]).steps 0 = some (stepping [armed0 .done [] false]) := by decide +kernel
  have h2 : ((stepping [armed0 .done [] false]).status.isSome || !(stepper [armed0 .done [] false]).running (stepping [armed0 .done [] false]).slot ||
    (stepping [armed0 .done [] false]).store.any (fun a => a.op = .done)) = true := by decide +kernel
  simp only [State.stepIssue, h, h2, if_true]
theorem witness_TokenTurns : (tokened.token 8).used ≤ tokened.cycle ∧ tokened.steps = [] ∧ Tbl.get? tokened.replays (tokened.vfOf tokened.cur.slot) = none ∧
    (let s : State := { tokened with tokens := [(8, ⟨3, 5, 1⟩)] }
     TokenNamed s 0 8 ∧ s.cycle < (s.token 8).used) := by
  refine ⟨by decide +kernel, rfl, by decide +kernel, by unfold TokenNamed; decide +kernel, by decide +kernel⟩
def ended (w : Option Word) : State := { withS tokened 1 0 with steps := [(0, { stepping [] with status := w })] }
theorem witness_StepEnds : (∀ n ∈ [0, 1], Imm_Ready 3 1 (ended (if n = 0 then none else some 0x20))) ∧
    Tbl.get? (ended none).steps ((ended none).cur.getS 1).toNat = some { stepping [] with status := none } ∧ (stepping []).slot = (ended none).cur.slot ∧
    Tbl.get? (ended (some 0x20)).steps ((ended (some 0x20)).cur.getS 1).toNat = some { stepping [] with status := some 0x20 } := by
  unfold Imm_Ready; decide +kernel

theorem stepper_at : StepAt (stepper []) (stepping []) ∧ StepNames (stepping []) word1 ∧ (stepping []).store.length ≤ 15 := by
  unfold StepAt StepNames; decide +kernel
theorem witness_StepWordsArm : StepAt (stepper []) (stepping []) ∧ StepNames (stepping []) word1 ∧ word1.nin ≠ 0 ∧
    (∀ x ∈ (stepper []).steps, x.1 ≤ (stepper []).curStep ∨ ∀ a ∈ x.2.store, a.armedAt ≠ (stepper []).cycle) ∧
    (∃ b s1, stepEntry 0 word1.x (stepper []) = .ok (b, s1) ∧
      (1 ≤ fieldN b 159 128 ∧ fieldN b 159 128 ≤ 65535 ∧ (resolved (stepping []) (armedOf (stepper []) (stepping []) .copy word1 false) b).lbuf.toNat % 32 = 0 ∧
        (resolved (stepping []) (armedOf (stepper []) (stepping []) .copy word1 false) b).xbuf.toNat % 32 = 0 ∧ PeerIs (stepping []) b 215 200 194 2 ∧
        PeerIs (stepping []) b 231 216 195 3) ∧
      ∃ ep s2 ep2 s3, stepEndpoint 0 2 s1 = .ok (ep, s2) ∧ stepEndpoint 0 3 s2 = .ok (ep2, s3)) := by
  refine ⟨stepper_at.1, stepper_at.2.1, by decide, by decide +kernel, ?_⟩
  have h : (((do let b ← stepEntry 0 word1.x; let ep ← stepEndpoint 0 2; let ep2 ← stepEndpoint 0 3; pure (b, ep, ep2) : StepAct (BitVec 256 × Word × Word))) (stepper [])).toOption.any (fun (r : (BitVec 256 × Word × Word) × State) =>
      decide (1 ≤ fieldN r.1.1 159 128 ∧ fieldN r.1.1 159 128 ≤ 65535 ∧ (resolved (stepping []) (armedOf (stepper []) (stepping []) .copy word1 false) r.1.1).lbuf.toNat % 32 = 0 ∧
        (resolved (stepping []) (armedOf (stepper []) (stepping []) .copy word1 false) r.1.1).xbuf.toNat % 32 = 0 ∧
        (2 = (if r.1.1.getLsbD 194 then (stepping []).pe.getD (fieldN r.1.1 215 200) 0 else fieldN r.1.1 215 200) ∧ 2 < (stepping []).size) ∧
        (3 = (if r.1.1.getLsbD 195 then (stepping []).pe.getD (fieldN r.1.1 231 216) 0 else fieldN r.1.1 231 216) ∧ 3 < (stepping []).size))) = true := by decide +kernel
  simp only [bind, StateT.bind, Except.bind] at h
  cases h1 : stepEntry 0 word1.x (stepper []) with
  | error e => simp [h1, Except.toOption] at h
  | ok r1 =>
    simp only [h1] at h
    cases h2 : stepEndpoint 0 2 r1.2 with
    | error e => simp [h2, Except.toOption] at h
    | ok r2 =>
      simp only [h2] at h
      cases h3 : stepEndpoint 0 3 r2.2 with
      | error e => simp [h3, Except.toOption] at h
      | ok r3 =>
        simp only [h3, pure, StateT.pure, Except.pure, Except.toOption, Option.any_some, decide_eq_true_eq] at h
        exact ⟨r1.1, r1.2, rfl, h, r2.1, r2.2, r3.1, r3.2, h2, h3⟩

theorem witness_StepLoops : StepAt (stepper []) (stepping []) ∧ (stepping []).loops.length = 4 ∧ (stepping []).pe.length = 4 ∧ 1 ≤ (stepping []).size ∧
    (∃ b s1, stepEntry 0 0 (stepper []) = .ok (b, s1) ∧ decide (1 ≤ fieldN b 159 128) = true) ∧
    (stepping []).loops[0]? = some ⟨3, 1, 0x1F8, true⟩ ∧ (stepping []).loops[1]? = some ⟨0, 0, 0, false⟩ :=
  ⟨stepper_at.1, rfl, rfl, by decide, step_ok_of (fun b _ => decide (1 ≤ fieldN b 159 128)) (by decide +kernel), rfl, rfl⟩

theorem witness_StepsFire : ∀ op ∈ [StepOp.wait, .kout, .done], ∀ f ∈ [false, true],
    let a := armed0 op [(8, 5)] f
    let s := stepper [a]
    Tbl.get? s.steps 0 = some (stepping [a]) ∧ (stepping [a]).status = none ∧ (∀ b ∈ (stepping [a]).store, b.age = 0 → b = a) ∧ a.owed = [] ∧ s.running 0 = true ∧
    (∀ i ∈ a.ins, (s.token i.1).gen = i.2) ∧ (∀ i ∈ a.ins, (a.ins.filter (fun j => j.1 = i.1)).length + s.reservedTokens i.1 0 ≤ (s.token i.1).count.toNat) ∧
    a.armedAt + (stepping [a]).wdog * 1024 ≤ s.cycle := by decide +kernel

/-! ## Witnesses: copies -/

/-- A template that converts FP32 to BF16. -/
def tplX : Template := setField (setField (setField (setField (setField (setField (0 : BitVec 512) 63 48 4) 47 32 1) 31 16 1) 1 0 2) 451 448 1) 455 452 2
/-- Template 1: 4-byte elements, four in a row; its queue empty. s1 = 0x10000, s2 = 0x18000. -/
def tpl1 : Template := setField (setField (setField (setField (0 : BitVec 512) 63 48 4) 47 32 1) 31 16 1) 1 0 2
def copying (q : List CopyEntry) : State :=
  (withS (withS (world .ce) 1 0x10000) 2 0x18000).setCur (fun c => { c with ct := c.ct.set 1 tpl1, copyq := q })
theorem copyReady_of {s : State} (h : s.cur.isFull 1 = true ∧ s.cur.isFull 2 = true ∧ s.cur.pend = [] ∧ s.cur.copyq = []) : CopyReady s 1 2 false 0 none false :=
  ⟨h.1, h.2.1, by unfold NoAcquire; rw [h.2.2.1]; rfl, by rw [h.2.2.2]; decide, Or.inl ⟨rfl, rfl, rfl⟩⟩
theorem copying_ready : CopyReady (copying []) 1 2 false 0 none false ∧ CopyReady (copying []) 1 2 true 2 (some .dev) false := by
  refine ⟨copyReady_of (by decide +kernel), by decide +kernel, by decide +kernel, by unfold NoAcquire; decide +kernel, by decide +kernel,
    Or.inr ⟨rfl, .dev, rfl, scopeFor_new (by decide +kernel) (by unfold ScopeIs; decide +kernel)⟩⟩
theorem witness_CopiesIssue :
    CopyReady (copying []) 1 2 false 0 none false ∧ ((copying []).cur.getS 1).toNat % 2 ^ fieldN tpl1 1 0 = 0 ∧ ((copying []).cur.getS 2).toNat % 32 = 0 ∧
    (let s := (copying []).setCur (fun c => { c with ct := c.ct.set 1 tplX })
     s.cur.ct[1] = tplX ∧ fieldN tplX 451 448 ≠ 0 ∧ fieldN tplX 455 452 ≠ 0 ∧ 2 ^ fieldN tplX 1 0 = (fmtOfTy (fieldN tplX 451 448 - 1)).width / 8 ∧
       (s.cur.getS 2).toNat % ((fmtOfTy (fieldN tplX 455 452 - 1)).width / 8) = 0 ∧ CopyReady s 1 2 false 0 none false) ∧
    (let s : State := { windowed (withS (copying []) 2 1) with troughs := [(3, trough .free .free 0 0 0)], slots := [(0, { entry0 with bind := setField entry0.bind 799 768 16 })] }
     TroughNamed s ((s.cur.getS 2).setWidth 8) 3 (trough .free .free 0 0 0) ∧ (s.cur.getS 2).toNat < 512 ∧ 4 * 1 * 1 * 4 ≤ (trough .free .free 0 0 0).slotBytes ∧
       CopyReady s 1 2 false 0 none false) ∧
    (∃ (bs : List Byte) (u : State), acquireLoad 0x18000 16 .eng ({ copying [] with mem := tables ++ cellsAt 0x18000 [0x11000, 0x12000] } : State) = .ok (bs, u) ∧
      decide (leNat (bs.take 8) % 2 ^ 64 % 4 = 0 ∧ leNat (bs.drop 8) % 2 ^ 64 % 4 = 0) = true) ∧
    ((copying []).cur.getS 3).toNat % 2 ^ fieldN tpl1 1 0 ≠ 0 ∧ ((3 : Nat) < 2 ^ 22 ∧ 3 / 2 ^ 14 % 4 = 0 ∧ 3 / 2 ^ 8 % 64 ≤ 3 / 2 ^ 16) ∧ ScopeFor (copying []) 2 .dev false := by
  refine ⟨copying_ready.1, by decide +kernel, by decide +kernel, ?_, ?_, act_ok_of (fun (bs : List Byte) => decide (leNat (bs.take 8) % 2 ^ 64 % 4 = 0 ∧ leNat (bs.drop 8) % 2 ^ 64 % 4 = 0))
    (by decide +kernel), by decide +kernel, by decide, scopeFor_new (by decide +kernel) (by unfold ScopeIs; decide +kernel)⟩
  · exact ⟨by decide +kernel, by decide +kernel, by decide +kernel, by decide +kernel, by decide +kernel, copyReady_of (by decide +kernel)⟩
  · exact ⟨by unfold TroughNamed; decide +kernel, by decide +kernel, by decide +kernel, copyReady_of (by decide +kernel)⟩
def entryOf (s : State) (op : CopyOp) (todo : List CopyElem) : CopyEntry := { s.freshCopy op 0x10000 0x18000 tpl1 none false with todo := todo }
theorem witness_CopyControl :
    (let s := copying (List.replicate 4 (entryOf (copying []) .cpy []))
     (s.cur.copyq.filter (fun e => decide (e.op ≠ .cfence))).length ≤ (s.cur.getS 4).toNat ∧ (s.cur.getS 3).toNat < (s.cur.copyq.filter (fun e => decide (e.op ≠ .cfence))).length) ∧
    (∀ v ∈ [(2 : Word), 3],
      let s := withS { copying [] with mem := tables ++ cellsAt 0x10000 [v.toNat] } 3 1
      ∃ (bs : List Byte) (u : State), acquireLoad 0x10000 64 .eng s = .ok (bs, u) ∧ decide (leNat (bs.take 8) % 2 ^ 64 = v.toNat) = true) ∧
    tplOk (BitVec.ofNat 512 2) = true ∧ tplOk (BitVec.ofNat 512 0x30) = false ∧
    (let s := copying (List.replicate 16 (entryOf (copying []) .cpy []))
     NoAcquire s ∧ 16 ≤ s.cur.copyq.length ∧ (s.cur.getS 1).toNat % 2 ^ fieldN tpl1 1 0 = 0 ∧ (s.cur.getS 2).toNat % 2 ^ fieldN tpl1 1 0 = 0) := by
  refine ⟨by decide +kernel, ?_, by decide +kernel, by decide +kernel, by unfold NoAcquire; decide +kernel⟩
  intro v hv
  simp only [List.mem_cons, List.not_mem_nil, or_false] at hv
  rcases hv with rfl | rfl <;> refine act_ok_of (fun (bs : List Byte) => decide (leNat (bs.take 8) % 2 ^ 64 = _)) ?_ <;> decide +kernel

/-! ## Witnesses: copies that move on -/

theorem witness_TemplateElements : (copyElems tpl1 0x10000 0x18000 4).length = 4 ∧ (copyElems tpl1 0x10000 0x18000 4)[3]? = some ⟨3, some 0x1000C, some 0x1800C, 12, 4, 4⟩ ∧
    (copyElems (setField (setField (setField (setField (setField tpl1 5 4 1) 335 320 0xFFFF) 399 384 2) 415 400 1) 431 416 1) 0x10000 0x18000 4).map (·.k) = [0, 1] := by
  decide +kernel
/-- The queue's first entry: a copy with one element to go, or finished. -/
def lastElem : CopyElem := ⟨3, some 0x1000C, some 0x1800C, 12, 4, 4⟩
def copyOne (op : CopyOp) (e : CopyElem) (b : Bool) (t : Template) (x : Word) : CopyEntry :=
  { CopyEntry.blank op x 0x18000 t 0x100 with id := 9, begun := b, todo := if b then [] else [e] }
/-- What holds of a state in which the queue's one entry is the next to move. -/
def NextCopy (s : State) (e : CopyEntry) : Prop :=
  s.cur.kind = .ce ∧ s.cur.phase = .ready ∧ s.cur.faults.length < 16 ∧ s.running s.cur.slot = true ∧ SlotFree s ∧ (∀ z ∈ s.cur.copyq, z.left = []) ∧
  s.cur.copyq.dropWhile CopyEntry.issued = [e] ∧ s.cur.copyq.find? (fun z => decide (z.id = e.id)) = some e ∧ e.rel = none ∧ e.begun = false ∧ s.cur.pend = []
theorem witness_CopiesRun :
    (let e := copyOne .cpy lastElem false tpl1 0x10000
     let s := copying [e]
     NextCopy s e ∧ e.todo = [lastElem] ∧ lastElem.n = tplEs e.tpl ∧
       s.copySide (s.vfOf s.cur.slot) (e.srcRule lastElem 0x1000C) e.sp 0x1000C = (.ok (rawPageAt 0x1000C), some (pageOf 0x25F)) ∧
       s.copySide (s.vfOf s.cur.slot) (e.dstRule lastElem 0x1800C) e.dp 0x1800C = (.ok (rawPageAt 0x1800C), some (pageOf 0x25F)) ∧
       (rawPageAt 0x1800C).ord ≠ .so ∧ (rawPageAt 0x1800C).zeroTail 0x1800C = false) ∧
    (let x : CopyElem := ⟨0, none, some 0x18000, 0, 0, 32⟩
     let e := copyOne .czero x false 0 0x18000
     let s := copying [e]
     NextCopy s e ∧ e.todo = [x] ∧ s.copySide (s.vfOf s.cur.slot) (e.dstRule x 0x18000) e.dp 0x18000 = (.ok (rawPageAt 0x18000), some (pageOf 0x25F))) ∧
    (let e := copyOne .crede lastElem false 0 0
     NextCopy (copying [e]) e) ∧
    (let e := copyOne .cpy lastElem true tpl1 0x10000
     e.note = false ∧ e.begun = true ∧ e.todo = [] ∧ e.moreRows = false ∧ e.left = [] ∧ e.contribs = [] ∧ e.creding = [] ∧ e.closing = [] ∧
       (copying [e]).storesAt e.id .dev = true) := by
  unfold NextCopy SlotFree; decide +kernel

/-- A contribution of 1.0 to 0x18000 for round 2, whose issuers are 0 and 1; `rs` are the rounds open. -/
def one18 : Contrib := ⟨0, 0, 0x18000, 0x18000, false, 0x3F800000⟩
def adding (det : Bool) (idx : Nat) (ref : List (Nat × Nat)) (rs : List Round) : CopyEntry × State :=
  let e : CopyEntry := { copyOne (.cred false det) lastElem true (setField (setField (setField tpl1 471 464 2) 477 472 idx) 485 480 1) 0x10000 with
    contribs := [one18], refused := ref }
  (e, { copying [e] with rounds := rs, cycle := 100 })
def addArrives (det : Bool) (idx : Nat) (ref : List (Nat × Nat)) (rs : List Round) : Prop :=
  let e := (adding det idx ref rs).1
  let s := (adding det idx ref rs).2
  s.copyLive s.cur = true ∧ s.cur.nextContrib 0 = some (e, one18) ∧ s.ownStoreBefore s.cur.ref one18 4 = false ∧ s.poisoned 0x18000 = false ∧
    s.winzeReady (s.vfOf s.cur.slot) 0x18000 4 = true ∧ Tbl.get? s.dortas.captures (s.vfOf s.cur.slot) = none ∧ Tbl.get? s.replays (s.vfOf s.cur.slot) = none
/-- Round 2 of stack 0 with issuers 0 and 1: closed, Serial, its latest arrival. -/
def round2 (closed : List Nat) (serial : Bool) (turn : Nat × Nat) : Round := ⟨0, 0, 2, 1, closed, serial, [], turn⟩
def openIn (idx : Nat) (rs : List Round) (q : Round) : Prop :=
  (adding true idx [] rs).2.openRound 0 0 2 1 = some q ∧ q.nim1 = tplNim1 (adding true idx [] rs).1.tpl ∧ idx ∉ q.closed
theorem witness_Contributions :
    addArrives false 0 [] [] ∧ addArrives true 0 [(0, 36)] [] ∧ addArrives true 1 [] [] ∧
    (adding true 0 [(0, 36)] []).1.refused.any (fun p => p.1 = 0 && decide (p.2 + 64 ≤ (adding true 0 [(0, 36)] []).2.cycle)) = true ∧
    openIn 0 [] (round2 [] false (0, 0)) ∧ (round2 [] false (0, 0)).lowest = 0 ∧ (round2 [] false (0, 0)).mayHandle 0 100 = true ∧
    openIn 1 [round2 [] true (0, 0)] (round2 [] true (0, 0)) ∧ (round2 [] true (0, 0)).mayHandle 1 100 = true ∧
    openIn 1 [round2 [] false (0, 0)] (round2 [] false (0, 0)) ∧ (round2 [] false (0, 0)).held.length < 16 ∧
    openIn 1 [round2 [] false (101, 2)] (round2 [] false (101, 2)) ∧ (round2 [] false (101, 2)).mayHandle 1 100 = false ∧
    (let e : CopyEntry := { copyOne .crede lastElem true 0 (BitVec.ofNat 64 (2 + 256 * 0 + 65536)) with creding := [0] }
     let s (c : List Nat) : State := { copying [e] with rounds := [round2 c false (0, 0)] }
     fieldN e.x 7 0 = 2 ∧ fieldN e.x 13 8 = 0 ∧ fieldN e.x 21 16 = 1 ∧ (s [1]).copyLive (s [1]).cur = true ∧
       (s [1]).cur.copyq.find? (fun e => decide (e.op = .crede) && e.creding.contains 0) = some e ∧ (s [1]).openRound 0 0 2 1 = some (round2 [1] false (0, 0)) ∧
       (s [1]).contribsBefore (s [1]).cur.ref e 0 = false ∧ (s [1]).credeWaits (round2 [1] false (0, 0)) 0 = [] ∧
       (s []).openRound 0 0 2 1 = some (round2 [] false (0, 0)) ∧ (s []).credeWaits (round2 [] false (0, 0)) 0 = []) ∧
    (∀ j, j ≤ 1 → j = 0 ∨ j ∈ [1]) ∧ (1 ≤ 1 ∧ 1 ≠ 0 ∧ 1 ∉ ([] : List Nat)) := by
  unfold addArrives openIn
  refine ⟨by decide +kernel, by decide +kernel, by decide +kernel, by decide +kernel, by decide +kernel, by decide +kernel, by decide +kernel, by decide +kernel,
    by decide +kernel, by decide +kernel, by decide +kernel, by decide +kernel, by decide +kernel, by decide +kernel, fun j hj => ?_, by decide⟩
  simp; omega

/-! ## Witnesses: the Hearth -/

/-- The conditions of `SpanOk`, computed for one run of pages that agree with the first. -/
def runOk (s : State) (rights : BitVec 3) (p0 : PageInfo) (r : Nat × Nat × PageInfo) : Bool :=
  (match stage1 s (s.vfOf s.cur.slot) (BitVec.ofNat 64 r.1) rights with
   | .ok (_, e1) => decide ((pageOf e1).ord = p0.ord ∧ (pageOf e1).cohr = p0.cohr ∧ (pageOf e1).fmt = p0.fmt ∧ (pageOf e1).blk = p0.blk)
   | .miss _ _ | .fault _ _ => false) &&
  decide (translateFull s (s.vfOf s.cur.slot) (BitVec.ofNat 64 r.1) rights = .ok r.2.2) && decide (paKind r.2.2.pa = .hbm) && r.2.2.remote.isNone
theorem spanOk_of {s : State} {x : Word} {n a : Nat} {rights : BitVec 3} {fmts : List Nat} {rs : List (Nat × Nat × PageInfo)} (p0 : PageInfo)
    (h : x.toNat % a = 0 ∧ s.outstanding s.cur < s.slotsOf s.cur ∧ s.cur.staging = [] ∧ rs.map (fun r => (r.1, r.2.1)) = pageRuns (n / 65536 + 2) x.toNat n ∧
      p0.fmt.toNat ∈ fmts ∧ rs.all (runOk s rights p0) = true) : SpanOk s x n a rights fmts rs := by
  obtain ⟨h1, h2, h3, h4, h5, h6⟩ := h
  refine ⟨h1, h2, by simp [h3], h4, p0, h5, fun r hr => ?_⟩
  have h7 := List.all_eq_true.mp h6 r hr
  unfold runOk at h7
  split at h7
  · rename_i ipa e1 he
    simp only [Bool.and_eq_true, decide_eq_true_eq, Option.isNone_iff_eq_none] at h7
    exact ⟨⟨ipa, e1, he, h7.1.1.1⟩, h7.1.1.2, Or.inl h7.1.2, h7.2⟩
  · simp at h7
  · simp at h7
/-- Runs at 0x10000, all of the first page's attributes. -/
def rawRuns (l : List (Nat × Nat)) : List (Nat × Nat × PageInfo) := l.map (fun r => (r.1, r.2, rawPageAt r.1))
theorem writeFree_of {s : State} (rs : List (Nat × Nat × PageInfo)) (h : s.hold = [] ∧ s.coh = [] ∧ s.l1 = [] ∧ s.cur.pend = []) : WriteFree s rs := by
  obtain ⟨h1, h2, h3, h4⟩ := h
  refine ⟨by simp [NoAcquire, h4], by simp [State.heBefore, h1, h4], Or.inr (by simp [State.soIds, h1, h2, h3, h4]), by simp [State.ahead, h2]⟩

/-- Hearth 0 leased to the instance and changed by `f`; the Hearth engine's context has passed its lease check; s1 = 0x10000, s2 to s7 as numbered. -/
def hearthed (f : Hearth → Hearth) : State :=
  { ((withS (world .he) 1 0x10000).setCur (fun c => { c with heAt := some 0x100, wtro := 0x400000002 })).setHearth 0 (f { Hearth.reset with holder := some 0, leaseGrps := [0] }) with
    slots := [(0, { entry0 with bind := setField entry0.bind 831 800 3 })] }
def frozenH : State := hearthed (fun h => { h with frozen := true })
def queuedOp (k : WaveKind) : PeelOp := ⟨k, 16, 3, ⟨false, false, false, 0, false⟩, 0, 5, ⟨0, 1⟩, [], 0⟩

theorem witness_HearthLease :
    (let s := hearthed id
     HeReady s 0 ∧ (s.hearth 0).frozen = false ∧ s.isQuiet 0 = true) ∧ (hearthed (fun h => { h with west := [queuedOp .a] })).isQuiet 0 = false ∧ HeReady frozenH 0 ∧
    (frozenH.hearth 0).frozen = true ∧ isHearth .hdrain = true ∧
    (let s := (hearthed id).setCur (fun c => { c with heAt := none })
     s.cur.heAt ≠ some s.cur.pc ∧ s.runOver s.cur.engine = false ∧ (s.hearth s.cur.engine).holder = some s.cur.slot) ∧
    (let s := (hearthed id).setCur (fun c => { c with heAt := none, leasePassed := true })
     s.cur.heAt ≠ some s.cur.pc ∧ s.runOver s.cur.engine = false ∧ s.cur.leasePassed = true) ∧
    (let s := (hearthed (fun h => { h with holder := none })).setCur (fun c => { c with heAt := none })
     s.runOver s.cur.engine = false ∧ s.cur.leasePassed = false ∧ (s.hearth s.cur.engine).holder ≠ some s.cur.slot ∧ s.cur.leaseLost = false) ∧
    (let s : State := { (hearthed (fun h => { h with holder := some 9 })).setCur (fun c => { c with heAt := none, leaseLost := true }) with leaseQ := [⟨0, [0], true, 3, 0⟩] }
     s.cur.heAt ≠ some s.cur.pc ∧ s.runOver s.cur.engine = false ∧ (s.hearth s.cur.engine).holder ≠ some s.cur.slot ∧ s.cur.leaseLost = true ∧
       s.cur.leasePassed = false ∧ ∃ r ∈ s.leaseQ, r.slot = s.cur.slot ∧ s.cur.engine ∈ r.grps) := by unfold HeReady; decide +kernel

/-- s1 = 16 waves from tag s2 = 2 on. -/
def admitting (f : Hearth → Hearth) : State := withS (hearthed f) 1 16
theorem witness_HearthAdmissions :
    (∀ n ∈ [0, 8], let s := admitting (fun h => { h with west := List.replicate n (queuedOp .a), south := List.replicate n (queuedOp .g) })
      HeReady s 0 ∧ (s.hearth 0).frozen = false ∧ s.cur.isFull 1 = true ∧ s.cur.isFull 2 = true ∧ (s.cur.getS 1).toNat = 16 ∧ (s.cur.getS 2).toNat < 2 ^ 16 ∧
        (s.hearth 0).west.length = n ∧ (s.hearth 0).south.length = n) ∧
    ((hearthed id).cur.getS 1).toNat > 512 ∧ ((withS (admitting id) 2 0x10000).cur.getS 2).toNat ≥ 2 ^ 16 ∧
    64 ≤ 1 * ((admitting id).hearth 0).hord ∧ 0 * ((admitting id).hearth 0).hord < 64 := by
  unfold HeReady; decide +kernel

theorem witness_HearthRegisters :
    (let s := hearthed (fun h => { h with recs := h.recs.set 3 ⟨3, 0, .writing, 0⟩ })
     HeReady s 0 ∧ s.cur.isFull 1 = true ∧ (s.hearth 0).frozen = false ∧ (s.cur.getS 1).toNat < 2 ^ 32 ∧ s.isQuiet 0 = true ∧
       (∀ m ∈ s.members 0, ((s.hearth m).cells.map (·.1)).Nodup) ∧ (s.cur.getS 7).toNat < 2 ^ 16 ∧
       (∀ k, k < 16 → (s.cur.getS 7).getLsbD k = true → s.slotIdle 0 k = true) ∧ (withS s 4 8).cur.getS 4 = BitVec.ofNat 64 (2 ^ 3) ∧ (withS s 4 8).slotIdle 0 3 = false) ∧
    HeReady frozenH 0 ∧ (∀ m ∈ frozenH.members 0, ((frozenH.hearth m).cells.map (·.1)).Nodup) := by
  unfold HeReady; decide +kernel
theorem witness_HearthVersions : HeReady (hearthed id) 0 ∧ ((withS (hearthed id) 2 1).cur.getS 2).toNat = 1 ∧ (∀ y ∈ [4, 5], ((hearthed id).cur.getS (BitVec.ofNat 5 y)).toNat = y) ∧
    ((hearthed id).cur.getS 0).toNat = 0 ∧ ((withS (hearthed id) 2 31).cur.getS 2).toNat = 31 ∧ ((hearthed id).cur.getS 6).toNat = 6 ∧
    ((hearthed id).hearth 0).west.length ≤ 8 ∧ ((hearthed id).hearth 0).south.length ≤ 8 ∧ (hearthed id).cur.isFull 2 = true ∧ (hearthed id).cur.isFull 1 = true := by
  unfold HeReady; decide +kernel

theorem witness_HearthMemory :
    (let s := hearthed id
     HeReady s 0 ∧ (s.hearth 0).frozen = false ∧ ShapeOk (s.sheetAt 0) ∧ s.isQuiet 0 = true ∧ OwnDone s ∧ (s.hearth 0).west.length < 8 ∧
       (∀ m ∈ s.members 0, (s.hearth m).cells.Pairwise (fun a b => a.1 < b.1)) ∧ (s.cur.getS 3).toNat < 16 ∧ s.slotIdle 0 3 = true ∧ ((s.hearth 0).slotRec 3).st = .free) ∧
    SpanOk (hearthed id) 0x10000 (4 * (64 * 1024)) 64 1 [0, 1] (rawRuns (pageRuns 6 0x10000 (4 * (64 * 1024)))) ∧
    SpanOk (hearthed id) 0x10000 (4 * (64 * 1024)) 64 2 [0, 1] (rawRuns (pageRuns 6 0x10000 (4 * (64 * 1024)))) ∧
    SpanOk (hearthed id) 0x10000 256 256 1 [0] (rawRuns [(0x10000, 256)]) ∧ SpanOk (hearthed id) 0x10000 256 256 2 [0] (rawRuns [(0x10000, 256)]) ∧
    WriteFree (hearthed id) (rawRuns (pageRuns 6 0x10000 (4 * (64 * 1024)))) ∧ WriteFree (hearthed id) (rawRuns [(0x10000, 256)]) ∧
    (let s := hearthed (fun h => { h with recs := h.recs.set 3 ⟨3, 0, .valid, 0⟩ })
     s.slotIdle 0 3 = true ∧ ((s.hearth 0).slotRec 3).st ≠ .free) ∧ (hearthed (fun h => { h with recs := h.recs.set 3 ⟨3, 0, .reading, 0⟩ })).slotIdle 0 3 = false := by
  refine ⟨⟨by unfold HeReady; decide +kernel, by decide +kernel, by unfold ShapeOk; decide +kernel, by decide +kernel, by unfold OwnDone; decide +kernel, by decide +kernel,
    by decide +kernel, by decide +kernel, by decide +kernel, by decide +kernel⟩, spanOk_of (pageOf 0x25F) (by decide +kernel), spanOk_of (pageOf 0x25F) (by decide +kernel),
    spanOk_of (pageOf 0x25F) (by decide +kernel), spanOk_of (pageOf 0x25F) (by decide +kernel), writeFree_of _ ⟨rfl, rfl, rfl, rfl⟩, writeFree_of _ ⟨rfl, rfl, rfl, rfl⟩,
    by decide +kernel, by decide +kernel⟩

/-- A trough for an edge: key 2 of group 0, `n` bytes a slot. -/
def edgeTrough (n : Nat) : Trough := ⟨0, 2, n, false, true, false, 0, 0, 0, 0, [.free, .free], [0, 0], [0, 0], 0, .reset, .reset⟩
theorem witness_HearthShapes :
    (let s := hearthed id
     HeReady s 0 ∧ s.isQuiet 0 = true ∧ s.cur.isFull 1 = true ∧ cfgBad (s.cur.getS 1) = true ∧ cfgBad 0x0000000322002220 = false ∧ cfgBad 0x0000000322004440 = false) ∧
    (let s : State := { hearthed (fun h => { h with binds := [(0, 2)] }) with troughs := [(2, edgeTrough 64)] }
     (s.hearth 0).binds = [(0, 2)] ∧ Tbl.get? s.troughs 2 = some (edgeTrough 64) ∧ (edgeTrough 64).slotBytes < edgeBytes 0x0000000322002220 0 ∧
       edgeBytes 0x0000000322002220 0 ≤ (edgeTrough 128).slotBytes) ∧
    (let s : State := { (hearthed id).setHearth 4 { Hearth.reset with holder := some 0, leaseGrps := [0, 4] } with
       slots := [(0, { entry0 with bind := setField entry0.bind 831 800 0x11 })] }
     s.cur.getS 4 = 4 ∧ 0 / 4 + (fieldN (4 : Word) 4 2 + 1) ≤ 8 ∧ 0 % 4 + (fieldN (4 : Word) 1 0 + 1) ≤ 4 ∧ HeReady s 0 ∧
       (∀ m ∈ (List.range (fieldN (4 : Word) 4 2 + 1)).flatMap (fun r => (List.range (fieldN (4 : Word) 1 0 + 1)).map (fun c => 0 + 4 * r + c)), (s.hearth m).sheet = none ∧
         (s.hearth m).holder = some s.cur.slot ∧ s.isQuiet m = true ∧ (s.slotOf s.cur).any (fun sl => sl.hmask.getLsbD m) = true)) ∧
    (8 : Nat) < 28 / 4 + (fieldN (4 : Word) 4 2 + 1) ∧
    (let s : State := { hearthed id with troughs := [(2, edgeTrough 4096), (3, edgeTrough 8)] }
     (0 < (s.sheetAt 0).h ∧ 0 < (s.sheetAt 0).w) ∧ s.edgeRoute 0 1 = none ∧ Tbl.get? s.troughs (troughKey (s.homeGrp s.cur.slot) (fieldN s.cur.wtro 15 0 + 0)) = some (edgeTrough 4096) ∧
       edgeBytes (s.hearth 0).cfg 1 ≤ (edgeTrough 4096).slotBytes ∧ (edgeTrough 8).slotBytes < edgeBytes (s.hearth 0).cfg 1 ∧ 0 < fieldN s.cur.wtro 40 32) ∧
    ({ hearthed id with routes := [(0, ⟨0, ⟨1, 0⟩, ⟨0x11, 0⟩, [], none, 0, none⟩)] } : State).edgeRoute 0 1 ≠ none := by
  unfold HeReady; refine ⟨?_, ?_, ?_, ?_, ?_, ?_⟩ <;> decide +kernel

/-! ## Witnesses: waves and edges -/

/-- The Hearth engine's context waits for nothing; the queues of the peels and the stash as `f` sets them; a unit in every input buffer. -/
def peeling (f : Hearth → Hearth) : State :=
  hearthed (fun h => f { h with bufs := (List.range 4).map (fun e => (e, [List.replicate (edgeBytes h.cfg e) 0])), acyc := 10 })
def rec3 (st : StashState) : Hearth → Hearth := fun h => { h with recs := h.recs.set 3 ⟨3, 0, st, 0⟩ }
theorem witness_WaveAdmission_west :
    (∀ k ∈ [WaveKind.a, .s, .u, .hwset],
      let s := peeling (fun h => { h with west := [queuedOp k] })
      ShapeOk (s.sheetAt 0) ∧ (s.hearth 0).west = [queuedOp k] ∧ (s.hearth 0).south = [] ∧ PeelRuns s 0 ∧ (s.hearth 0).nextWest ≤ (s.hearth 0).acyc ∧ s.unitsIn 0 (queuedOp k) = true ∧
        ((s.hearth 0).slotRec 3).st = .free ∧ s.gWaves 0 = [] ∧ (s.hearth 0).cfg.getLsbD 19 = false) ∧
    ((peeling (rec3 .valid)).hearth 0 |>.slotRec 3).st ≠ .free ∧ (hearthed (fun h => { h with west := [queuedOp .a] })).unitsIn 0 (queuedOp .a) = false ∧
    (let s := peeling (fun h => { h with west := [{ queuedOp .a with by_ := ⟨0, 1⟩ }], headWest := some 0, acyc := 2 ^ 40 })
     (queuedOp .a).by_ = s.cur.ref ∧ (s.hearth 0).headWest = some 0 ∧ 0 + 1024 * s.cur.wdog.toNat ≤ (s.hearth 0).acyc) := by
  unfold ShapeOk PeelRuns; decide +kernel
theorem witness_WaveAdmission_south :
    (∀ st ∈ [StashState.valid, .free],
      let s := peeling (fun h => { rec3 st h with south := [queuedOp .g], vw := 1 })
      (s.hearth 0).south = [queuedOp .g] ∧ (s.hearth 0).west = [] ∧ (s.hearth 0).nextSouth ≤ (s.hearth 0).acyc ∧ PeelRuns s 0 ∧ s.uInFlight 0 = 0 ∧ s.unitsIn 0 (queuedOp .g) = true ∧
        ((s.hearth 0).slotRec 3).st = st ∧ ((s.hearth 0).slotRec 3).tag = (queuedOp .g).base + BitVec.ofNat 16 0 ∧
        ((s.hearth 0).vw - ((s.hearth 0).slotRec 3).ver).toNat ≤ 1 ∧ (queuedOp .g).by_ = s.cur.ref ∧ (s.hearth 0).cfg.getLsbD 18 = false) ∧
    (2 : Nat) ≤ ((2 : BitVec 8) - 0).toNat ∧ ((0x0000000322002220 : Word) ||| 0x40000).getLsbD 18 = true ∧
    (hearthed (fun h => { h with south := [queuedOp .g] })).unitsIn 0 (queuedOp .g) = false := by
  unfold PeelRuns; decide +kernel

/-- A wave that has come to cell (0, 0), or (0, 1023) from the south. -/
def waveAt (k : WaveKind) : Wave := ⟨7, k, 10, 3, 0, ⟨false, false, false, 0, false⟩, [], [], [], [], List.replicate 64 0, [], [], [], ⟨0, 1⟩⟩
theorem witness_WavesAtCells :
    (∀ k ∈ [WaveKind.a, .s, .g, .u, .ux, .hwset],
      let s := peeling (fun h => { h with waves := [waveAt k], acyc := 100 })
      s.wave? 0 7 = some (waveAt k) ∧ (s.hearth 0).frozen = false ∧ s.arrayStall 0 = false ∧ s.cellReady 0 (waveAt k) 0 (if k = .g then 1023 else 0) = true ∧
        cfgCfmt (s.hearth 0).cfg < 6 ∧ (s.hearth 0).cells.Pairwise (fun a b => a.1 < b.1) ∧ (s.hearth 0).stash.Pairwise (fun a b => a.1 < b.1) ∧
        (waveAt k).sums.Pairwise (fun a b => a.1 < b.1) ∧ ShapeOk (s.sheetAt 0)) ∧
    (let w : Wave := { waveAt .s with passed := List.replicate 64 1024 }
     let s := peeling (fun h => { rec3 .writing h with waves := [w], acyc := 5000 })
     w ∈ (s.hearth 0).waves ∧ ((s.hearth 0).slotRec 3).st = .writing ∧ w.tag = ((s.hearth 0).slotRec 3).tag ∧ w.stashTime (s.sheetAt 0) ≤ (s.hearth 0).acyc ∧
       (s.sheetAt 0).cols ≤ w.passed.getD ((s.sheetAt 0).rows - 1) 0) ∧
    (let w : Wave := { waveAt .g with left := [0] }
     let s := peeling (fun h => { rec3 .reading h with waves := [w], acyc := 5000 })
     ((s.hearth 0).slotRec 3).st = .reading ∧ w.start + (s.sheetAt 0).dxTime 0 ≤ (s.hearth 0).acyc ∧ 0 ∈ w.left) ∧
    (peeling id).wave? 0 7 = none ∧ ((peeling id).hearth 0 |>.slotRec 3).st ≠ .writing ∧ ((peeling id).hearth 0 |>.slotRec 3).st ≠ .reading := by
  unfold ShapeOk; refine ⟨?_, ?_, ?_, ?_, ?_, ?_⟩ <;> decide +kernel
theorem witness_WaveTimes : ShapeOk ⟨12, 5, 4⟩ ∧ (12 : Nat) < 32 ∧ 12 / 4 + 5 ≤ 8 ∧ 319 < 64 * 5 ∧ 4095 < 1024 * 4 ∧ ShapeOk ⟨31, 1, 1⟩ := by unfold ShapeOk; decide

/-- Route 3 ends at an edge, or starts there; trough 2 of group 0 bound to it. -/
def edged (f : Hearth → Hearth) (edge : Nat) (es : List RouteEntry) : State :=
  { hearthed f with cycle := 9, routes := [(3, if edge < 4 then ⟨0, ⟨1, 0⟩, ⟨0x10 + edge, 0⟩, es, none, 0, none⟩ else ⟨0, ⟨0x10 + edge, 0⟩, ⟨1, 0⟩, es, none, 0, none⟩)] }
theorem witness_HearthEdges :
    (let s := edged id 0 [oneUnit]
     (s.hearth 0).frozen = false ∧ ((s.hearth 0).buf 0).length < 8 ∧ s.edgeRoute 0 0 = some 3 ∧ (Tbl.get? s.routes 3).map Route.entries = some ([oneUnit] ++ [])) ∧
    (let s : State := { hearthed (fun h => { h with binds := [(0, 3)] }) with troughs := [(3, trough .full .free 1 0 1)] }
     s.edgeRoute 0 0 = none ∧ Tbl.get? (s.hearth 0).binds 0 = some 3 ∧ Tbl.get? s.troughs 3 = some (trough .full .free 1 0 1) ∧ TroughGood (trough .full .free 1 0 1) ∧
       Tbl.get? s.slots 0 ≠ none ∧ (trough .full .free 1 0 1).slotAt 0 = .full) ∧
    (hearthed id).edgeRoute 0 0 = none ∧ Tbl.get? ((hearthed id).hearth 0).binds 0 = none ∧
    (∀ e ∈ [4, 5],
      let s := edged (fun h => { h with outS := [[1, 2]], outW := [[3]] }) e []
      s.leadOf 0 = 0 ∧ (s.hearth 0).waves = [] ∧ s.edgeRoute 0 e = some 3 ∧ (s.hearth 0).outS = [1, 2] :: [] ∧ (s.hearth 0).outW = [3] :: [] ∧ (s.hearth 0).sentS = 0 ∧
        (s.hearth 0).sentW = 0 ∧ ((Tbl.get? s.routes 3).map (fun r => decide (r.src.code ≠ 1 ∧ r.entries.length < r.depth))) = some true) ∧
    (let s : State := { hearthed (fun h => { h with outS := [[1, 2]], binds := [(4, 3)] }) with troughs := [(3, trough .free .free 0 0 0)] }
     s.edgeRoute 0 4 = none ∧ Tbl.get? (s.hearth 0).binds 4 = some 3 ∧ (trough .free .free 0 0 0).slotAt 0 = .free ∧ TroughGood (trough .free .free 0 0 0)) ∧
    ((hearthed id).hearth 0).outS = [] := by
  unfold TroughGood; refine ⟨?_, ?_, ?_, ?_, ?_, ?_, ?_⟩ <;> decide +kernel
theorem unit_isUnit : IsUnit 9 [oneUnit] := ⟨by decide, by decide, oneUnit, rfl, rfl⟩

/-! ## A witness of HTHAW: an image in memory with the right CRC -/

/-- The image's header but for its CRC, and four bytes at its place, placed by another context and seen by all. -/
def imageHead : Memory := cellsAt 0x10000 [0x010000015A524648]
def crcBytes (bs : List Byte) : StoreRec := { StoreRec.new 1 ⟨1, 9⟩ ⟨1, 1, 0⟩ 0x10024 bs (rawPageAt 0x10024) with ps := some .sys }
def thawing (bs : List Byte) : State := { hearthed id with mem := tables ++ imageHead, coh := [crcBytes bs] }
def imageRuns : List (Nat × Nat × PageInfo) := rawRuns ((List.range 48).map (fun p => (0x10000 + 65536 * p, 65536)))
/-- The bytes of the image without the CRC, and the CRC. -/
def imageByte (i : Nat) : Byte := (tables ++ imageHead).get (0x10000 + i)
def imageCrc : BitVec 32 := crc32 ((List.range 36).map imageByte ++ [0, 0, 0, 0] ++ (List.range (3 * 2 ^ 20 - 40)).map (fun i => imageByte (40 + i)))
def crcAt (i : Nat) : Byte := BitVec.ofNat 8 (imageCrc.toNat / 256 ^ i)
def thawed : State := thawing [crcAt 0, crcAt 1, crcAt 2, crcAt 3]

theorem thawed_span : SpanOk thawed (thawed.cur.getS 1) (3 * 2 ^ 20 * (1 * 1)) 4096 1 [0] imageRuns := spanOk_of (pageOf 0x25F) (by decide +kernel)

/-- With nothing held and no older view kept, an engine without an L1 reads what it sees, sector by sector. -/
theorem readSectors_seen (s : State) (c : Context) (h : c.core? = none ∧ c.staging = [] ∧ s.olds = [] ∧ s.hold = []) (l : List (Piece × Nat))
    (hp : ∀ x ∈ l, x.1.page.mayBeOld = false ∧ x.1.page.inL1 = false) : s.readSectors c l = (s, l.flatMap (fun x => x.1.range.map (s.seenByte c))) := by
  obtain ⟨h1, h2, h3, h4⟩ := h
  induction l with
  | nil => rfl
  | cons x l ih =>
    obtain ⟨p, k⟩ := x
    have hp1 := hp (p, k) List.mem_cons_self
    have hs : c.staged = none := by simp [Context.staged, h2]
    have hu : s.readUnit c s.nextId [p] = (s, p.range.map (s.seenByte c)) := by
      have hr : s.renew [c.ref] p.pa p.len = s := by
        unfold State.renew
        rw [h3]
        exact congrArg (fun o => ({ s with olds := o } : State)) h3.symm
      have hf : s.fillPieces c [p] = s := by unfold State.fillPieces; rw [h1]
      have hb : (s.loadByte c s.nextId none p.page) = s.seenByte c := by
        funext a
        simp [State.loadByte, lastCover, h4, hp1.2]
      simp [State.readUnit, hf, State.oldFor, hp1.1, hb, hr]
    simp [State.readSectors, hs, hu, ih (fun x hx => hp x (List.mem_cons_of_mem _ hx))]

theorem cuts_range (f : Nat → Byte) (fuel a n : Nat) (h : n ≠ 0 → n + a % 32 ≤ 32 * fuel) :
    (sectorCuts a fuel n).flatMap (fun x => (List.range x.2).map (fun i => f (x.1 + i))) = (List.range n).map (fun i => f (a + i)) := by
  induction fuel generalizing a n with
  | zero =>
    obtain rfl : n = 0 := by omega
    rfl
  | succ fuel ih =>
    cases n with
    | zero => rfl
    | succ m =>
      simp only [sectorCuts, List.flatMap_cons]
      rw [ih _ _ (by omega)]
      obtain ⟨k, hk⟩ : ∃ k, k = min (m + 1) (32 - a % 32) := ⟨_, rfl⟩
      rw [← hk]
      obtain ⟨r, hr⟩ : ∃ r, m + 1 = k + r := ⟨m + 1 - k, by omega⟩
      rw [hr, Nat.add_sub_cancel_left, List.range_add, List.map_append, List.map_map]
      simp [Function.comp_def, Nat.add_assoc]

theorem bytes_of_run (f : Nat → Byte) (pa n : Nat) : (heSectors (rawRuns [(pa, n)])).flatMap (fun x => x.range.map f) = (List.range n).map (fun i => f (pa + i)) := by
  simp only [heSectors, rawRuns, List.map_cons, List.map_nil, List.flatMap_cons, List.flatMap_nil, List.append_nil, List.flatMap_map, Piece.range, List.map_map,
    Function.comp_def]
  exact cuts_range f _ pa n (by omega)
/-- Page by page, an image's bytes are those from its first address on. -/
theorem bytes_of_pages (f : Nat → Byte) (k : Nat) :
    (heSectors (rawRuns ((List.range k).map (fun p => (0x10000 + 65536 * p, 65536))))).flatMap (fun x => x.range.map f) =
      (List.range (65536 * k)).map (fun i => f (0x10000 + i)) := by
  induction k with
  | zero => rfl
  | succ k ih =>
    have hs : ∀ a b, heSectors (rawRuns (a ++ b)) = heSectors (rawRuns a) ++ heSectors (rawRuns b) := by
      intro a b
      simp only [heSectors, rawRuns, List.map_append, List.flatMap_append]
    rw [List.range_succ, List.map_append, hs, List.flatMap_append, ih, Nat.mul_succ, List.range_add, List.map_append]
    refine congrArg _ ((bytes_of_run f _ _).trans ?_)
    rw [List.map_map]
    exact List.map_congr_left fun i _ => congrArg f (Nat.add_assoc _ _ _)
theorem seen_of_pages (s : State) (h : s.cur.core? = none ∧ s.cur.staging = [] ∧ s.olds = [] ∧ s.hold = []) (k : Nat) :
    seenBytes s (rawRuns ((List.range k).map (fun p => (0x10000 + 65536 * p, 65536)))) = (List.range (65536 * k)).map (fun i => s.seenByte s.cur (0x10000 + i)) := by
  rw [← bytes_of_pages (s.seenByte s.cur) k]
  generalize (List.range k).map (fun p => (0x10000 + 65536 * p, 65536)) = l
  have hp : ∀ x ∈ (heSectors (rawRuns l)).zipIdx, x.1.page.mayBeOld = false ∧ x.1.page.inL1 = false := by
    intro x hx
    have h1 : x.1 ∈ heSectors (rawRuns l) := (List.mem_zipIdx' hx).2 ▸ List.getElem_mem _
    simp only [heSectors, rawRuns, List.mem_flatMap, List.mem_map] at h1
    obtain ⟨r, ⟨q, _, rfl⟩, y, _, hy⟩ := h1
    rw [← hy]
    exact ⟨by simp [PageInfo.mayBeOld, PageInfo.inL1, rawPageAt], by simp [PageInfo.inL1, rawPageAt]⟩
  unfold seenBytes
  rw [readSectors_seen s s.cur h _ hp]
  have hz : ∀ (l : List Piece) (n : Nat) (g : Piece → List Byte), (l.zipIdx n).flatMap (fun x => g x.1) = l.flatMap g := by
    intro l
    induction l with
    | nil => intros; rfl
    | cons a l ih => intro n g; simp [List.zipIdx_cons, ih]
  exact hz (heSectors (rawRuns l)) 0 (fun p => p.range.map (s.seenByte s.cur))
theorem thawed_bytes : seenBytes thawed imageRuns = (List.range (3 * 2 ^ 20)).map (fun i => thawed.seenByte thawed.cur (0x10000 + i)) :=
  seen_of_pages thawed ⟨rfl, rfl, rfl, rfl⟩ 48
theorem thawed_view (i : Nat) : thawed.seenByte thawed.cur (0x10000 + i) = if 36 ≤ i ∧ i < 40 then crcAt (i - 36) else imageByte i := by
  have hc : thawed.coh = [crcBytes [crcAt 0, crcAt 1, crcAt 2, crcAt 3]] := rfl
  have hp : thawed.sees thawed.cur (crcBytes [crcAt 0, crcAt 1, crcAt 2, crcAt 3]) = true := by decide +kernel
  have hv : (crcBytes [crcAt 0, crcAt 1, crcAt 2, crcAt 3]).covers (0x10000 + i) = decide (36 ≤ i ∧ i < 40) := by
    show (decide (0x10024 ≤ 0x10000 + i) && decide (0x10000 + i < 0x10024 + 4)) = _
    rw [Bool.eq_iff_iff]
    simp only [Bool.and_eq_true, decide_eq_true_eq]
    omega
  unfold State.seenByte lastCover
  rw [hc]
  simp only [List.filter_cons, List.filter_nil, hv, hp, Bool.and_true]
  by_cases h : 36 ≤ i ∧ i < 40
  · rw [if_pos h, if_pos (decide_eq_true h)]
    obtain ⟨j, rfl⟩ : ∃ j, i = 36 + j := ⟨i - 36, by omega⟩
    have hj : j = 0 ∨ j = 1 ∨ j = 2 ∨ j = 3 := by omega
    have key : ∀ g : Nat → Byte, (crcBytes [g 0, g 1, g 2, g 3]).byteAt (0x10000 + (36 + j)) = g (36 + j - 36) := by
      intro g
      rcases hj with rfl | rfl | rfl | rfl <;> rfl
    exact key crcAt
  · rw [if_neg h, if_neg (by simpa using h)]
    rfl

theorem range_drop_map {α : Type} (f : Nat → α) (a n : Nat) : ((List.range (a + n)).map f).drop a = (List.range n).map (fun i => f (a + i)) := by
  rw [List.range_add, List.map_append, List.drop_left' (by simp)]
  simp [List.map_map, Function.comp_def]
theorem range_take_map {α : Type} (f : Nat → α) (n m : Nat) (h : n ≤ m) : ((List.range m).map f).take n = (List.range n).map f := by
  rw [← List.map_take, List.take_range, Nat.min_eq_left h]
theorem range_part (f : Nat → Byte) (a n m : Nat) (h : a + n ≤ m) : part ((List.range m).map f) a n = (List.range n).map (fun i => f (a + i)) := by
  obtain ⟨k, rfl⟩ : ∃ k, m = a + (n + k) := ⟨m - a - n, by omega⟩
  unfold part
  rw [range_drop_map, range_take_map _ _ _ (by omega)]

/-- Bytes with their own CRC at 36 to 39. -/
theorem image_crc (k : Nat → Byte) (n : Nat) :
    let crc := crc32 ((List.range 36).map k ++ [0, 0, 0, 0] ++ (List.range n).map (fun i => k (40 + i)))
    let bs := (List.range (40 + n)).map (fun i => if 36 ≤ i ∧ i < 40 then BitVec.ofNat 8 (crc.toNat / 256 ^ (i - 36)) else k i)
    leNat (part bs 36 4) = (crc32 (bs.take 36 ++ [0, 0, 0, 0] ++ bs.drop 40)).toNat := by
  intro crc bs
  have h1 : bs.take 36 = (List.range 36).map k := by
    refine (range_take_map _ 36 (40 + n) (by omega)).trans (List.map_congr_left fun i hi => if_neg ?_)
    have := List.mem_range.1 hi; omega
  have h2 : bs.drop 40 = (List.range n).map (fun i => k (40 + i)) := by
    refine (range_drop_map _ 40 n).trans (List.map_congr_left fun i _ => if_neg ?_)
    omega
  have h3 : part bs 36 4 = [BitVec.ofNat 8 (crc.toNat / 256 ^ 0), BitVec.ofNat 8 (crc.toNat / 256 ^ 1), BitVec.ofNat 8 (crc.toNat / 256 ^ 2), BitVec.ofNat 8 (crc.toNat / 256 ^ 3)] :=
    range_part _ 36 4 (40 + n) (by omega)
  rw [h1, h2, h3]
  have hl : crc.toNat < 2 ^ 32 := crc.isLt
  generalize hm : crc.toNat = m at hl
  simp only [leNat, BitVec.toNat_ofNat]
  omega
theorem thawed_image : ImageOk 1 1 (part (seenBytes thawed imageRuns) 0 (3 * 2 ^ 20)) := by
  have hb : seenBytes thawed imageRuns = (List.range (3 * 2 ^ 20)).map (fun i => if 36 ≤ i ∧ i < 40 then crcAt (i - 36) else imageByte i) := by
    rw [thawed_bytes]; exact List.map_congr_left fun i _ => thawed_view i
  have hw : part (seenBytes thawed imageRuns) 0 (3 * 2 ^ 20) = seenBytes thawed imageRuns := by
    rw [hb, range_part _ _ _ _ (by omega)]; simp
  rw [hw, hb, show (3 * 2 ^ 20 : Nat) = 40 + (3 * 2 ^ 20 - 40) from rfl]
  refine ⟨?_, ?_, ?_, ?_, ?_⟩
  · rw [range_part _ _ _ _ (by norm_num)]; decide +kernel
  · rw [range_part _ _ _ _ (by norm_num)]; decide +kernel
  · rw [range_part _ _ _ _ (by norm_num)]; decide +kernel
  · rw [range_part _ _ _ _ (by norm_num)]; decide +kernel
  · exact image_crc imageByte (3 * 2 ^ 20 - 40)

theorem witness_FreezeAndThaw :
    (HeReady (hearthed id) 0 ∧ ShapeOk ((hearthed id).sheetAt 0) ∧ (hearthed id).cur.isFull 1 = true ∧ ((hearthed id).hearth 0).frozen = false ∧
      SpanOk (hearthed id) ((hearthed id).cur.getS 1) (3 * 2 ^ 20 * (1 * 1)) 4096 2 [0] imageRuns ∧ WriteFree (hearthed id) imageRuns) ∧
    (HeReady thawed 0 ∧ thawed.isQuiet 0 = true ∧ OwnDone thawed ∧ thawed.cur.isFull 1 = true ∧ thawed.sheetAt 0 = ⟨0, 1, 1⟩ ∧
      SpanOk thawed (thawed.cur.getS 1) (3 * 2 ^ 20 * (1 * 1)) 4096 1 [0] imageRuns ∧
      ∀ p, p < 1 * 1 → ImageOk 1 1 (part (seenBytes thawed imageRuns) (3 * 2 ^ 20 * p) (3 * 2 ^ 20))) := by
  refine ⟨⟨by unfold HeReady; decide +kernel, by unfold ShapeOk; decide +kernel, by decide +kernel, by decide +kernel, spanOk_of (pageOf 0x25F) (by decide +kernel),
    writeFree_of _ ⟨rfl, rfl, rfl, rfl⟩⟩,
    ⟨by unfold HeReady; decide +kernel, by decide +kernel, by unfold OwnDone; decide +kernel, by decide +kernel, by decide +kernel, thawed_span, ?_⟩⟩
  intro p hp
  obtain rfl : p = 0 := by omega
  exact thawed_image
theorem witness_FreezeImage : ShapeOk ((hearthed id).sheetAt 0) ∧ (0 : Nat) < ((hearthed id).sheetAt 0).h ∧ (0 : Nat) < ((hearthed id).sheetAt 0).w := by
  unfold ShapeOk; decide +kernel

/-! ## Witnesses: binding, slices, quotas, stops, kills, rollbacks -/

/-- A record of region 1 that names image 1, armed at cycle 5. -/
def armedRec (state : Nat) : BitVec 1024 := setField (recordOf state 0 1) 191 160 1
def node1 : RcbNode := { newNode (tenantBits 0) 4 with share := 1 }
/-- The record's condition is the word at 0x10000 if `cond` is set. -/
def armedIf (cond : Bool) : BitVec 1024 := if cond then setField (armedRec 1) 319 256 0x10000 else armedRec 1
def bindingIf (cond : Bool) (cycle : Nat) : State :=
  { (world .cc) with slots := [], cycle := cycle, rcbs := [(0, rootRcb), (1, { node1 with pool := [(2, armedIf cond)], armedAt := [(2, 5)] })] }
def binding (cycle : Nat) : State := bindingIf false cycle
/-- The binding has happened: entry 3 in state SUBMIT. -/
def submit3 (cores ew : Nat) : Slot := newSlot (setField (setField (setField (setField (setField (0 : BitVec 1024) 1023 896 cores) 684 677 ew) 119 104 1) 103 88 2) 2 0 1) 1 900
def submitted (cores ew : Nat) : State :=
  { binding 1000 with
    rcbs := [(0, rootRcb), (1, { node1 with pool := [(2, armedRec 2)] })]
    slots := [(3, submit3 cores ew)] }
/-- Another entry holds every engine, so that the late record finds no place. -/
def crowded : State := { binding (2 ^ 40) with slots := [(0, { entry0 with bind := setField (setField (setField entry0.bind 1023 896 (2 ^ 128 - 1)) 895 832 (2 ^ 64 - 1)) 831 800 (2 ^ 32 - 1) })] }
def chosen (s : State) : Option Want := (s.catchUp (s.armed.filter s.eligible)).choose (s.armed.filter s.eligible)
theorem witness_BindAndSubmit :
    (binding (2 ^ 40)).armed.any (fun w => (binding (2 ^ 40)).considered w && (binding (2 ^ 40)).late w) = true ∧
    (∀ cond ∈ [false, true], let s := bindingIf cond 1000
     (∀ x ∈ s.slots, x.2.state ≠ 7 ∧ x.2.state ≠ 1) ∧ (s.armed.all (fun v => !s.considered v || (s.overDemand v.rcb v.bits).isNone)) = true ∧
       (chosen s).any (fun w => (s.armed.filter s.eligible).contains w && ((s.catchUp (s.armed.filter s.eligible)).place? none w).isSome &&
         (lrCond w.bits != 0) == cond && lrCompl w.bits == 0 && w.vf == 0) = true ∧ Tbl.get? s.slots 0 = none) ∧
    (let s := bindingIf true 1000
     translateFull (s.catchUp (s.armed.filter s.eligible)) 0 0x10000 1 = .ok (rawPageAt 0x10000) ∧ s.poisoned 0x10000 = false ∧
       bytesFrom s.devByte 0x10000 8 = List.replicate 8 0) ∧
    (let s := { binding 1000 with rcbs := [(0, rootRcb), (1, node1)] }
     chosen s = none ∧ (s.armed.all (fun v => !s.considered v)) = true) ∧
    ((∀ x ∈ crowded.slots, x.2.state ≠ 7 ∧ x.2.state ≠ 1) ∧ crowded.armed.filter crowded.eligible = [] ∧ (chosen crowded).isSome = true ∧
      (crowded.armed.all (fun v => !crowded.considered v || (crowded.overDemand v.rcb v.bits).isNone)) = true) ∧
    (EntryIs (submitted 1 1) 3 (submit3 1 1) ∧ (submit3 1 1).state = 1 ∧ (submitted 1 1).rejects 3 (submit3 1 1) = none ∧ (submitted 1 1).ctx? ⟨3, 0⟩ = none ∧
      Tbl.get? (submitted 1 1).rcbs (submit3 1 1).rcbx ≠ none ∧ Tbl.get? (submitted 1 1).images (submit3 1 1).image ≠ none ∧
      Tbl.get? (submitted 1 1).dortas.captures (submit3 1 1).vf = none ∧ Tbl.get? (submitted 1 1).replays (submit3 1 1).vf = none ∧
      (∀ d ∈ (submitted 1 1).dortas.destroying, d.1 ≠ (submit3 1 1).vf)) ∧
    (EntryIs (submitted 2 1) 3 (submit3 2 1) ∧ (submit3 2 1).cmask.getLsbD (submit3 2 1).ccore = false) ∧ fieldN (submit3 1 0).bind 684 677 = 0 ∧
    (∀ x ∈ (binding 0).slots, x.2.state ≠ 1) := by
  unfold EntryIs; refine ⟨?_, ?_, ?_, ?_, ?_, ?_, ?_, ?_, ?_⟩ <;> decide +kernel

/-- The instance in a state of its entry. -/
def entryOf_ (st : Nat) (f : Slot → Slot) : State := { world .cc with slots := [(0, f (entry0.setState st))], cycle := 10000000 }
/-- A cycle quota of 1,000 at the tenant node, of which so much is used; its policy. -/
def noted (use pol : Nat) : State :=
  { entryOf_ 2 id with rcbs := [(0, rootRcb), (1, { newNode (setField (setField (setField (setField (tenantBits 0) 124 124 1) 112 112 1) 383 320 1000) 57 57 pol) 4 with cycUse := use })] }
theorem witness_ChargesAndQuotas :
    (let s := entryOf_ 2 id
     s.slots = [(0, entry0.setState 2)] ∧ (entry0.setState 2).state = 2 ∧ (entry0.setState 2).vacant = false ∧ (s.path (entry0.setState 2).rcbx).Nodup) ∧
    (∀ pol ∈ [0, 1], ((Tbl.get? (noted 1000 pol).rcbs 1).map (fun n => decide (n.ovrBit 16 = true ∧ n.get .qcyc ≠ 0 ∧ n.get .qcyc ≤ n.cycUse))) = some true ∧
      1 ∈ (noted 1000 pol).path (entry0.setState 2).rcbx ∧ (noted 1000 pol).eff 1 .qpol = pol ∧ (noted 1000 pol).cur.ref = ⟨0, 0⟩ ∧ (noted 1000 pol).cur.faults = [] ∧ (entry0.setState 2).quotaAt = []) ∧
    ((Tbl.get? (noted 999 0).rcbs 1).map (fun n => decide (n.get .qcyc ≤ n.cycUse))) = some false ∧ NotRetiring (noted 1000 0) 0 ∧
    (∀ n ∈ [5, 9000000], let s := entryOf_ 2 (fun x => { x with quotaAt := [(1, false, n)] })
      EntryIs s 0 { entry0.setState 2 with quotaAt := [(1, false, n)] }) ∧
    ((5 : Nat) + 3800000 ≤ (entryOf_ 2 id).cycle ∧ (entryOf_ 2 id).cycle < 9000000 + 3800000) := by
  unfold NotRetiring EntryIs; refine ⟨?_, ?_, ?_, ?_, ?_, ?_⟩ <;> decide +kernel
theorem witness_YieldDecision :
    (∀ f ∈ [(fun x : Slot => x), (fun x => { x with offer := some 9 }), (fun x => { x with offer := some 9, yieldAsked := some 8 })],
      Tbl.get? (entryOf_ 2 f).slots 0 = some (f (entry0.setState 2)) ∧ (f (entry0.setState 2)).state = 2 ∧ ((entryOf_ 2 f).slots.map (·.1)).Nodup) ∧
    (entryOf_ 2 (fun x => { x with offer := some 9 })).wanted 0 { entry0.setState 2 with offer := some 9 } = false ∧ (entryOf_ 2 id).cur.ref = ⟨0, 0⟩ ∧
    NotRetiring (entryOf_ 2 id) 0 ∧ (8 : Nat) + 1900000 ≤ 10000000 ∧ (10000000 : Nat) < 9000000 + 1900000 ∧
    (let x := { (entry0.setState 2) with offer := some 9 }
     let s : State := { crowded with slots := [(0, x)], rcbs := [(0, rootRcb), (1, { node1 with pool := [(2, armedRec 1)], armedAt := [(2, 5)] })] }
     s.sliceOver x = true ∧ s.wanted 0 x = true) := by
  unfold NotRetiring; refine ⟨?_, ?_, ?_, ?_, ?_, ?_, ?_⟩ <;> decide +kernel
/-- A context stopped at a load of 8 bytes into s4 that waits for a page. -/
def loadWaits : State :=
  { (entryOf_ 3 id).setCur (fun c => { c with pc := 0, phase := .waiting, wait := some ⟨.pageReply [0x50000], 0, 100⟩ }) with
    images := [(1, ⟨0, bareHeader, [⟨0, 0x1000, .cc⟩], natBytes 0x4040E001 4, [], []⟩)] }
theorem witness_PreemptAndRestore :
    (EntryIs (entryOf_ 3 id) 0 (entry0.setState 3) ∧ (entry0.setState 3).state = 3 ∧ (entryOf_ 3 id).cur.slot = 0 ∧ (entryOf_ 3 id).cur.phase = .ready ∧
      (entryOf_ 3 id).cur.sinceBoundary = 0 ∧ (entryOf_ 3 id).cur.pend = [] ∧ (∀ r ∈ (entryOf_ 3 id).hold, r.by_ ≠ (entryOf_ 3 id).cur.ref ∨ r.page.remote ≠ none) ∧
      (entryOf_ 3 id).cur.copiesStopped = true ∧ (entryOf_ 3 id).cancelled (entryOf_ 3 id).cur = none ∧
      (((entryOf_ 3 id).setHearth 0 { Hearth.reset with holder := some 0 }).hearth 0).holder = some 0) ∧
    (loadWaits.cur.phase = .waiting ∧ loadWaits.cur.copiesStopped = true ∧ loadWaits.cancelled loadWaits.cur = some 4) ∧
    (let s := (entryOf_ 3 id).setCur (fun c => { c with phase := .stopped })
     (∀ c ∈ s.ctxsOf 0, c.phase = .stopped) ∧ s.leased 0 = [] ∧ s.l1 = []) ∧
    ((entry0.setState 4).state = 4 ∧ (entry0.setState 4).suspended = false ∧ (entry0.setState 4).rolling = false ∧ (entryOf_ 4 id).exhausted (entry0.setState 4).rcbx = false ∧
      ((entryOf_ 4 id).giveBack 0 (entry0.setState 4)).isSome = true ∧
      (let x : Slot := { entry0.setState 4 with held := some entry0.bind }
       ({ entryOf_ 4 (fun _ => x) with slots := [(0, x), (1, entry0.setState 1)] } : State).giveBack 0 x = none)) ∧
    ((entry0.setState 5).state = 5 ∧ (entry0.setState 5).rolling = false ∧ (entry0.setState 5).leases = [] ∧ (entryOf_ 5 id).saved = []) ∧
    (entryOf_ 5 (fun x => { x with leases := [⟨[0], false⟩] })).holdsLease 0 [0] = false := by
  unfold EntryIs; refine ⟨?_, ?_, ?_, ?_, ?_, ?_⟩ <;> decide +kernel
/-- A store of VF 0 at stack 0 placed by another context and performed so far. -/
def placed0 (id : Nat) (ps : Scope) : StoreRec := { StoreRec.new id ⟨1, 9⟩ ⟨1, 1, 0⟩ 0 [1] (rawPageAt 0) with ps := some ps }
theorem witness_KillSequence :
    (∀ r ∈ [false, true],
      let x : Slot := { entry0.setState 6 with kill := some (.reason 0x0400), rolling := r, markers := [(3, 9)] }
      let s := entryOf_ 6 (fun _ => x)
      EntryIs s 0 x ∧ s.slots.Pairwise (fun a b => a.1 < b.1) ∧ x.state = 6 ∧ s.drained x.vf 3 9 = true ∧ (∀ m ∈ x.markers, m.1 = 3) ∧ s.sitLeft 0 = false ∧
        s.unackedOf 0 = false ∧ Tbl.get? s.rcbs x.rcbx ≠ none) ∧
    ([(3, 9), (4, 9)] : List (Nat × Nat)).filter (fun m => decide (m.1 ≠ 3)) ≠ [] ∧
    ({ entryOf_ 6 id with coh := [placed0 5 .eng] } : State).drained (entry0.setState 6).vf 0 9 = false ∧
    (let x : Slot := { entry0.setState 6 with kill := some (.reason 0x0400), rolling := true, markers := [] }
     translateFull ((entryOf_ 6 (fun _ => x)).setSlot 0 x) x.vf 0x10000 2 = .ok (rawPageAt 0x10000) ∧ paKind 0x10000 = .hbm) := by
  unfold EntryIs; refine ⟨?_, ?_, ?_, ?_⟩ <;> decide +kernel
def check0 (v : Bool) (r : Nat) : Checkpoint := ⟨0x40, Vector.replicate 32 5, 3, [], false, 0, 0, 0x400, 4, 6, v, r⟩
def struck (st : Nat) (f : Slot → Slot) : State := { entryOf_ st (fun x => f { x with kill := some .rollback }) with cur := { (world .cc).cur with slot := 9 } }
theorem witness_RollbackAndScrub :
    (∀ f ∈ [(fun x : Slot => x), (fun x => { x with rolling := true, markers := [(2, 0)] }), (fun x => { x with rolling := true, ckpt := some (check0 true 1) }),
        (fun x => { x with rolling := true, ckpt := some (check0 true 2) })],
      let s := struck 2 f
      let x := f { entry0.setState 2 with kill := some .rollback }
      EntryIs s 0 x ∧ (s.slots.filter (fun y => y.2.bound && (s.path y.2.rcbx).contains 1)).map (·.1) = [0] ∧ x.kill = some .rollback ∧ s.domainOf x.rcbx = some 1 ∧
        s.sitLeft 0 = false ∧ s.unackedOf 0 = false ∧ s.ctx? ⟨0, 0⟩ = none ∧ s.undo = []) ∧
    (check0 true 1).valid = true ∧ (check0 true 1).rollbacks < 2 ∧ 2 ≤ (check0 true 2).rollbacks ∧ (∀ x ∈ (world .cc).slots, x.2.kill ≠ some .rollback) ∧
    scrubOk (.group 31) 0 = true ∧ scrubOk (.stack (stackOf 0)) 0 = true ∧ (EntryIs (world .cc) 0 entry0 ∧ entry0.bound = true ∧ entry0.kill = none) ∧
    1 ≤ (trough .full .free 1 0 1).cap := by
  unfold EntryIs; refine ⟨?_, ?_, ?_, ?_, ?_, ?_, ?_, ?_, ?_⟩ <;> decide +kernel

/-! ## Witnesses: results, stores, waits, deliveries -/

/-- One result outstanding, due at cycle 5; the cycle is `t`. -/
def pending (t : Nat) (d : Dest) (w : Result) : State :=
  { (world .ve).setCur (fun c => { c with pend := [⟨7, d, 5, w, none⟩] }) with cycle := t, nextId := 8 }
def piece0 : Piece := ⟨0x10008, 4, rawPageAt 0x10008⟩
def lands (d : Dest) (w : Result) : Prop :=
  (pending 5 d w).cur.pend.find? (fun x => decide (x.id = 7)) = some ⟨7, d, 5, w, none⟩ ∧ (pending 5 d w).mayLand (pending 5 d w).cur ⟨7, d, 5, w, none⟩ = true ∧
    (pending 5 d w).poison = [] ∧ (4 : Nat) < 5 ∧ (pending 4 d w).mayLand (pending 4 d w).cur ⟨7, d, 5, w, none⟩ = false
theorem witness_ResultsLand :
    lands (.s 3) (.value 9) ∧ lands (.s 3) (.load [(piece0, none)] true none) ∧ lands (.s 3) (.load [(piece0, none)] false (some .dev)) ∧ piece0.page.inL1 = false ∧
    lands (.s 3) (.atomic piece0 .add 1 false none []) ∧ piece0.page.ckpt = false ∧ piece0.page.mayBeOld = false ∧
    Tbl.get? (world .ve).dortas.captures ((world .ve).vfOf 0) = none ∧ lands (.tile 2) (.vload 0 [] [⟨0, [piece0], 0⟩] ⟨0, 0, 4, 0, 0⟩) ∧
    (let q : Pend := ⟨7, .s 3, 5, .load [(piece0, none)] true none, none⟩
     let s : State := { pending 5 (.s 3) (.load [(piece0, none)] true none) with poison := [0x10000] }
     s.mayLand s.cur q = true ∧ q.pieces.find? (fun p => s.poisoned p.pa) = some piece0) := by
  unfold lands; refine ⟨?_, ?_, ?_, ?_, ?_, ?_, ?_, ?_, ?_, ?_⟩ <;> decide +kernel

def store0 (id pa : Nat) (ps : Option Scope) : StoreRec := { StoreRec.new id ⟨0, 0⟩ ⟨0, 0, 0⟩ pa [1, 2] (rawPageAt pa) with ps := ps }
def storing (h c : List StoreRec) (p : List Nat) : State := { world .cc with hold := h, coh := c, poison := p, nextId := 9 }
def privPage : PageInfo := ⟨0x10000, .rc, .priv, 0, false, false, none⟩
/-- A sector of the core's L1, dirty or not. -/
def sector0 (dirty : Bool) : L1Sector :=
  ⟨0, 0x10000, List.replicate 32 1, dirty, false, false, ⟨0, 0⟩, ⟨0, 0, 0⟩, if dirty then [(⟨0, 0⟩, 4)] else [], [], false⟩
theorem witness_StoresMove :
    (let r := store0 5 0x10000 none
     (storing [r] [] []).hold.filter (fun q => decide (q.id = r.id)) = [r] ∧ r.page.remote = none ∧ (storing [r] [] []).mayLeave r = true ∧
       (storing [r] [] []).poisoned r.pa = false ∧ r.page.inL1 = false ∧ r.page.ckpt = false ∧ (storing [r] [] [0x10000]).poisoned r.pa = true ∧
       (storing [store0 4 0x10000 none, r] [] []).mayLeave r = false ∧ entry0.kill = none) ∧
    (let r : StoreRec := { store0 5 0x10000 none with page := privPage }
     (storing [r] [] []).mayLeave r = true ∧ (storing [r] [] []).l1Of r = some 0 ∧ (storing [r] [] []).l1 = []) ∧
    (let a := store0 4 0x10000 none
     let b := store0 5 0x10002 none
     (storing [a, b] [] []).mayMerge a b = true ∧ (storing [a, b] [] []).hold.find? (fun r => decide (r.id = 4)) = some a ∧
       (storing [a, b] [] []).hold.find? (fun r => decide (r.id = 5) && decide (r.pa / 32 = a.pa / 32)) = some b ∧ a.id ≤ b.id) ∧
    (let r := store0 5 0x10000 (some .eng)
     (storing [] [r] []).coh.filter (fun q => decide (q.id = r.id)) = [r] ∧ r.rels = [] ∧ r.ps = some .eng ∧ Scope.rank .eng ≤ Scope.rank .sys ∧
       (storing [] [r] []).mem.wf = true) ∧
    (let x : Release := ⟨⟨0, 0⟩, 5, .dev, [4], none⟩
     let r : StoreRec := { store0 5 0x10000 (some .eng) with rels := [x] }
     x ∈ r.rels ∧ 4 ∈ x.deps ∧ 4 ∉ r.ids ∧ (storing [store0 4 0x20000 none] [r] []).performedAt 4 .grp = false ∧ Scope.rank .grp ≤ Scope.rank x.scope) ∧
    (∀ d ∈ [false, true], ({ world .cc with l1 := [sector0 d] } : State).l1Find 0 (32 * 0x800) = some (sector0 d)) ∧ (world .cc).l1Find 0 (32 * 0x800) = none ∧
    (({ world .cc with l1 := [sector0 true] } : State).mayWriteBack (sector0 true) = true ∧ (sector0 true).ckpt = false ∧
      ({ world .cc with l1 := [sector0 true], coh := [{ StoreRec.new 3 ⟨1, 9⟩ ⟨20, 5, 0⟩ 0x10000 [1] (rawPageAt 0x10000) with ps := some .eng }] } : State).mayWriteBack
        (sector0 true) = false) ∧
    (∀ m ∈ [0, 1, 2],
      let s : State := { world .cc with banks := [(3, ⟨m, 0, false, true, (m + 1) % 3, 0, none, 0, 0⟩)] }
      (s.bank 0 3).busy = true ∧ s.switchReady 0 3 = true) ∧ ((world .cc).bank 0 3).busy = false := by
  refine ⟨?_, ?_, ?_, ?_, ?_, ?_, ?_, ?_, ?_, ?_⟩ <;> decide +kernel

/-- The context waits since cycle 0 under a bound of 100. -/
def waitingFor (w : WaitCond) (t : Nat) : State :=
  { (withTrough (trough .full .free 1 0 1)).setCur (fun c => { c with phase := .waiting, wait := some ⟨w, 0, 100⟩, full := c.full &&& ~~~16 }) with
    cycle := t, rdvs := [(9, ⟨3, 1, 5, 0, 0⟩)]
    leaseQ := [⟨0, [0], false, 0, 0⟩]
    vfs := [(0, ⟨0, 1, 0x77, some 0x3000, some 0x1000, [⟨6, 0x50000, 1, [⟨0, 0⟩]⟩], 7, [], []⟩)] }
def waits (w : WaitCond) (b : Bool) : Prop :=
  (waitingFor w 100).cur.wait = some ⟨w, 0, 100⟩ ∧ (waitingFor w 100).cur.phase = .waiting ∧ (waitingFor w 100).running (waitingFor w 100).cur.slot = true ∧
    (waitingFor w 100).waitHolds (waitingFor w 100).cur w = b ∧ (waitingFor w 100).banks = [] ∧ (waitingFor w 100).cur.copyq = []
def iterating (n : Nat) : State := (world .cc).setCur (fun c => { c with sinceBoundary := n })
theorem witness_WaitsAndWatchdogs :
    waits (.full 4) false ∧ waits (.full 5) true ∧ waits (.phaseNot 0 9 5) false ∧ waits (.lease 0) false ∧ waits (.quiescent 0) true ∧ waits (.troughFree 0 3) true ∧
    waits (.headFree 0 3) true ∧ waits (.pageReply [0x50000]) false ∧
    Tbl.get? (waitingFor (.troughFree 0 3) 100).troughs (troughKey 0 3) = some (trough .full .free 1 0 1) ∧
    (∀ n ∈ [15200, 15201], EntryIs (iterating n) (iterating n).cur.slot entry0 ∧ (iterating n).running 0 = true ∧ (iterating n).cur.phase = .ready) ∧
    (Tbl.get? (world .cc).images entry0.image).map (fun i => fieldN i.header 191 160) = some 15200 := by
  unfold waits EntryIs; refine ⟨?_, ?_, ?_, ?_, ?_, ?_, ?_, ?_, ?_, ?_, ?_⟩ <;> decide +kernel
theorem witness_QuiescentWatchdog :
    (∀ w ∈ [WaitCond.quiescent 0, .joinQuiet 0],
     let s := ((waitingFor w 100).setHearth 0 { Hearth.reset with west := [queuedOp .a] })
     s.cur.wait = some ⟨w, 0, 100⟩ ∧ s.waitHolds s.cur w = false ∧ 0 + 100 ≤ s.cycle) ∧
    (∀ w ∈ [WaitCond.troughFull 0 3, .tailFull 0 3],
     let s : State := { waitingFor w 100 with troughs := [(3, trough .free .free 0 0 0)] }
     s.waitHolds s.cur w = false) ∧
    (let w := WaitCond.copyOrder [piece0] false
     let e : CopyEntry := copyOne .cpy ⟨3, some 0x1000C, some 0x10008, 12, 4, 4⟩ false tpl1 0x10000
     let s := (copying [e]).setCur (fun c => { c with phase := .waiting, wait := some ⟨w, 0, 0⟩ })
     s.running s.cur.slot = true ∧ s.waitHolds s.cur w = false) := by
  refine ⟨?_, ?_, ?_⟩ <;> decide +kernel

def delivering (f e : List FaultRec) (hd : Bool) (tvec : Word) : State := (world .cc).setCur (fun c => { c with faults := f, events := e, hd := hd, tvec := tvec })
theorem witness_Deliveries :
    (let f : FaultRec := ⟨0x21, 0, 0, true⟩
     (delivering [f] [] false 0x400).cur.faults = [f] ∧ (delivering [f] [] true 0x400).cur.hd = true ∧ (delivering [] [f] false 0x400).cur.events = [f] ∧
       (∀ t ∈ [0, 0x400], (delivering [f] [f] false (BitVec.ofNat 64 t)).cur.hd = false ∧ (delivering [f] [f] false (BitVec.ofNat 64 t)).running 0 = true ∧
         (delivering [f] [f] false (BitVec.ofNat 64 t)).cur.halting = none ∧ (delivering [f] [f] false (BitVec.ofNat 64 t)).cur.yielding = false ∧
         (delivering [f] [f] false (BitVec.ofNat 64 t)).cur.phase = .ready ∧ (delivering [f] [f] false (BitVec.ofNat 64 t)).cur.tvec = BitVec.ofNat 64 t)) ∧
    (let s := waitingFor (.pageReply [0x50000]) 9
     let q : PageReq := ⟨6, 0x50000, 1, [⟨0, 0⟩]⟩
     (Tbl.get? s.vfs 0).any (fun v => v.reqs.find? (fun q => decide (q.id.toNat = 6) && decide (q.ipa = 0x50000)) == some q) = true ∧
       Tbl.get? s.dortas.captures 0 = none ∧ Tbl.get? s.replays 0 = none ∧ s.cur.wait = some ⟨.pageReply [0x50000], 0, 100⟩ ∧ q.waiters = [s.cur.ref] ∧
       s.cur.ref.slot < 2 ^ 22 ∧ s.cur.ref.num < 2 ^ 20 ∧ s.cur.copyq = []) ∧
    ((Tbl.get? (world .cc).vfs 0).map (fun v => v.reqs)) = some [] ∧
    (∀ h ∈ [[], [store0 5 0x10000 none]],
      let s : State := { storing h [] [] with dortas := { (world .cc).dortas with invals := [⟨0, [5], ⟨0, [], 0, [], 0, 0⟩⟩] } }
      s.dortas.invals = [⟨0, [5], ⟨0, [], 0, [], 0, 0⟩⟩] ∧ s.performedAt 5 .dev = h.isEmpty) := by
  refine ⟨?_, ?_, ?_, ?_⟩ <;> decide +kernel

/-! ## Witnesses: the fabric, the host, power -/

/-- A packet from device 1 to VF 0 of this device: tag 3, sequence 1. -/
def packet (type off : Nat) (p : List Byte) : Msg := ⟨mkHeader 0 0x100 0 0 false (BitVec.ofNat 32 off) p.length 3 1 0 type, [], 0, p, 5, 0⟩
theorem witness_PacketOk : (∀ t ∈ [1, 2, 3, 5], PacketOk (world .cc) t (packet t 0 [])) ∧ PacketOk (world .cc) 6 (packet 6 0 (List.replicate 16 0)) ∧
    PacketOk (world .cc) 7 (packet 7 0 (List.replicate 16 0)) ∧ badMsg 1 (packet 2 0 []) = true := by unfold PacketOk; decide +kernel

/-- A step context 0 with one receive or RRS into 0x10000, 8 bytes from device 1. -/
def receiving (op : StepOp) (got : List Nat) (fl : BitVec 3) (acc : List (Word × BitVec 32)) : State :=
  { world .cc with
    steps := [(0, stepping [{ armed0 op [] true with lbuf := 0x10000, len := 8, tag := 3, peerA := 0x100, matchA := 1, started := true, got := got, fl := fl }])]
    fabric := { Fabric.reset with accepted := acc } }
def receive (op : StepOp) (got : List Nat) (fl : BitVec 3) : Armed :=
  { armed0 op [] true with lbuf := 0x10000, len := 8, tag := 3, peerA := 0x100, matchA := 1, started := true, got := got, fl := fl }
def eight : List Byte := [1, 2, 3, 4, 5, 6, 7, 8]
theorem copySide_frame (s : State) (n : Nat) (f : Fabric) (vf : Nat) (k : SideRule) (o : Option PageInfo) (va : Nat) :
    ({ s with free := n, fabric := f } : State).copySide vf k o va = s.copySide vf k o va := rfl
/-- The span of a buffer of eight bytes at 0x10000. -/
theorem span_of {u : State} {c : StepCtx} {k : SideRule} (hc : Tbl.get? u.steps 0 = some c) (hst : c.status = none)
    (hs : (u.copySide (u.vfOf c.slot) k none 0x10000).1 = .ok (rawPageAt 0x10000)) :
    stepSpan 0 k (0x10000 + BitVec.ofNat 64 0) 8 u = .ok ([(0x10000, ⟨0x10000, 8, rawPageAt 0x10000⟩)], u) := by
  have hcut : sectorCuts (0x10000 + BitVec.ofNat 64 0 : Word).toNat (8 / 32 + 2) 8 = [(0x10000, 8)] := by decide +kernel
  have hg : stepGet 0 u = .ok (c, u) := by simp [stepGet, hc, hst]
  have hsec : stepSector 0 k none 0x10000 u = .ok ((rawPageAt 0x10000, (u.copySide (u.vfOf c.slot) k none 0x10000).2), u) := by
    simp [stepSector, bind, StateT.bind, Except.bind, hg, get, getThe, MonadStateOf.get, StateT.get, pure, Except.pure, StateT.pure, hs]
  rw [stepSpan, hcut]
  simp [stepPieces, bind, StateT.bind, Except.bind, hsec, pure, Except.pure, StateT.pure]
  rfl
theorem witness_FabricData :
    (∀ g ∈ [[], [0]], (receiving .recv g 0 []).receiverOf (packet 2 0 eight) = some (0, receive .recv g 0) ∧
      Tbl.get? (receiving .recv g 0 []).steps 0 = some (stepping [receive .recv g 0]) ∧ (stepping [receive .recv g 0]).armed 0 = some (receive .recv g 0)) ∧
    (receive .recv [] 0).wellFormed 0 8 = true ∧ (receive .recv [] 0).wellFormed 4 8 = false ∧
    stepSpan 0 (rawSide 2) (0x10000 + BitVec.ofNat 64 0) 8 (receiving .recv [] 0 []) = .ok ([(0x10000, ⟨0x10000, 8, rawPageAt 0x10000⟩)], receiving .recv [] 0 []) ∧ (rawPageAt 0x10000).remote = none ∧ (stepping []).status = none ∧
    PacketOk (receiving .recv [] 0 []) 2 (packet 2 0 eight) ∧ (packet 2 0 eight).payload.length = 8 ∧
    ((packet 2 0 eight).src, (packet 2 0 eight).psn) ∈ (receiving .recv [] 0 [(0x100, 5)]).fabric.accepted := by
  unfold PacketOk
  refine ⟨by decide +kernel, by decide +kernel, by decide +kernel, span_of (c := stepping [receive .recv [] 0]) rfl rfl (by decide +kernel), rfl, rfl, by decide +kernel, by decide +kernel, by decide +kernel⟩

def sentTo (type : Nat) : TxRec := ⟨5, ⟨mkHeader 0x100 0 0 0 true 0 0 3 1 0 type, [], 0, [], 5, 0⟩, 0, 0⟩
def sending (type : Nat) : State := { world .cc with fabric := { Fabric.reset with unacked := [sentTo type] } }
theorem witness_FabricMessages :
    (sending 2).sentAs (packet 3 0 []) = some (sentTo 2) ∧ PacketOk (sending 2) 3 (packet 3 0 []) ∧ PacketOk (sending 2) 5 (packet 5 0 []) ∧ (sentTo 2).msg.type = 2 ∧
    (world .cc).sentAs (packet 3 0 []) = none ∧ (∀ t ∈ [2, 6], (sending t).fabric.unacked.find? (fun t => decide (t.psn.toNat = 5)) = some (sentTo t)) ∧ (sentTo 6).msg.type ≠ 2 ∧
    (let s : State := { world .cc with fabric := { Fabric.reset with routes := [(0, ⟨1, 32, 6, false⟩)], egress := [⟨(sentTo 2).msg, false⟩] } }
     s.fabric.egress.find? (fun q => decide (q.msg = (sentTo 2).msg)) = some ⟨(sentTo 2).msg, false⟩ ∧ s.isLocal (sentTo 2).msg.dest = false ∧
       s.routeFor (epDev (sentTo 2).msg.dest) = some ⟨1, 32, 6, false⟩ ∧ (6 : BitVec 16).getLsbD 1 = true) := by
  unfold PacketOk; refine ⟨?_, ?_, ?_, ?_, ?_, ?_, ?_, ?_⟩ <;> decide +kernel

def sia0 : SiaRec := ⟨0x100, 7, 1, 2, 8⟩
def siaPacket (t : Nat) : Msg := packet t 0 (natBytes 0x100 8 ++ natBytes 7 2 ++ [1, 2] ++ natBytes 8 4)
def sit0 (ret : Bool) : SitEntry := ⟨0, 0x10000, 8, 7, 1, 0, 0, 2, [], ret⟩
theorem witness_SideInfo :
    (siaPacket 6).len = 16 ∧ (siaPacket 6).payload = natBytes sia0.ep.toNat 8 ++ natBytes sia0.blkid.toNat 2 ++ [sia0.blkg, sia0.cgrp] ++ natBytes sia0.len.toNat 4 ∧
    PacketOk (world .cc) 6 (siaPacket 6) ∧ PacketOk (world .cc) 7 (siaPacket 7) ∧
    (∀ r ∈ [false, true], ({ world .cc with fabric := { Fabric.reset with sit := [sit0 r] } } : State).sitFind 0 0 7 1 = some (sit0 r)) := by
  unfold PacketOk; refine ⟨?_, ?_, ?_, ?_, ?_⟩ <;> decide +kernel
/-- Two DATA packets of coding group 2 for devices 1 and 2, each advertised the other's block. -/
def codable (dev blk : Nat) : Queued := ⟨⟨mkHeader (BitVec.ofNat 64 (256 * dev)) 0 (BitVec.ofNat 16 blk) 1 true 0 8 3 1 2 2, [], 0, eight, 5, 0⟩, false⟩
def coding : State :=
  { world .cc with fabric := { Fabric.reset with
      routes := [(0, ⟨1, 32, 1, false⟩), (1, ⟨2, 32, 1, false⟩)], egress := [codable 1 7, codable 2 8], cgrps := [2], summary := [⟨0x100, 8, 1, 2, 8⟩, ⟨0x200, 7, 1, 2, 8⟩] } }
theorem witness_Coding : (Config.directAdit 0 = true → coding.mayCode [codable 1 7, codable 2 8] = true) ∧ coding.fabric.egress = [codable 1 7, codable 2 8] ∧
    coding.codedAdit (codable 1 7).msg = some 0 ∧ coding.codedAdit (codable 2 8).msg = some 0 := by
  refine ⟨fun h => ?_, rfl, by decide +kernel, by decide +kernel⟩
  have h1 : coding.codedAdit (codable 1 7).msg = some 0 := by decide +kernel
  have h2 : coding.codedAdit (codable 2 8).msg = some 0 := by decide +kernel
  simp only [State.mayCode, List.all_cons, List.all_nil, h1, h2, Option.any_some, h, Bool.and_true]
  decide +kernel
/-- A coded packet whose other component is of device 2, for the receive of VF 0; the block's side information is there, or not. -/
def comp0 : Comp := ⟨0, 0x100, 0, 9, 1, 3, 1, 5⟩
def comp1 : Comp := ⟨0x200, 0x100, 0, 7, 1, 4, 1, 6⟩
def codedPacket : Msg := ⟨setField (mkHeader 0 0x100 0 2 false 0 8 0 0 2 4) 50 48 2, [comp0, comp1], 0, eight, 0, 0⟩
/-- No component of it is for this device; device 2 is reached by Adit 1. -/
def codedTransit : Msg := { codedPacket with comps := [comp1, { comp1 with dest := 0x300, blkid := 8 }] }
def decoding (op : StepOp) (fl : BitVec 3) (l : List SitEntry) : State := { receiving op [] fl [] with fabric := { Fabric.reset with sit := l } }
theorem witness_Decoding :
    (badMsg 4 codedTransit = false ∧ (∀ k ∈ codedTransit.comps, (decoding .recv 0 []).isLocal k.dest = false) ∧
      (let s : State := { world .cc with fabric := { Fabric.reset with routes := [(1, ⟨2, 32, 2, false⟩)] } }
       s.routeFor (epDev comp1.dest) = some ⟨2, 32, 2, false⟩ ∧ (aditsOf 2).head? = some 1 ∧ 1 ≠ codedTransit.adit)) ∧
    badMsg 4 codedPacket = false ∧ codedPacket.comps = [comp0, comp1] ∧ (decoding .recv 0 []).isLocal comp0.dest = true ∧ (decoding .recv 0 []).isLocal comp1.dest = false ∧
    (∀ op ∈ [StepOp.recv, .rrs], ∀ fl ∈ [(0 : Nat), 2],
      let s := decoding op (BitVec.ofNat 3 fl) []
      let d : Msg := ⟨mkHeader comp0.dest comp0.src comp0.blkid comp0.blkg false comp0.off codedPacket.len comp0.tag comp0.mseq (BitVec.ofNat 8 codedPacket.cgrp) 2, [], 0,
        codedPacket.payload, comp0.psn, codedPacket.adit⟩
      s.receiverOf d = some (0, receive op [] (BitVec.ofNat 3 fl)) ∧ s.passCoded codedPacket = s ∧ s.sitFind 0 (epVf comp0.dest) comp1.blkid comp1.blkg = none ∧
        (comp0.src, comp0.psn) ∉ s.fabric.accepted) ∧ (receive .recv [] 2).fl.getLsbD 1 = true ∧ (receive .recv [] 0).fl.getLsbD 1 = false ∧
    (let s := decoding .recv 0 [sit0 false]
     s.sitFind 0 (epVf comp0.dest) comp1.blkid comp1.blkg = some (sit0 false) ∧ comp1.off.toNat + codedPacket.len ≤ (sit0 false).len ∧
       (s.sitBytes (sit0 false) 0 8).map List.length = some 8 ∧ (sit0 false).retiring = false ∧ Tbl.get? s.dortas.captures 0 = none ∧ Tbl.get? s.replays 0 = none ∧
       s.passCoded codedPacket = s ∧ (s.fabric.decoding.filter (fun b => b.adit = codedPacket.adit && decide (s.cycle < b.until_))).length < 256 ∧
       (receive .recv [] 0).wellFormed 0 codedPacket.len = true ∧ codedPacket.len = 8 ∧ Tbl.get? s.steps 0 = some (stepping [receive .recv [] 0]) ∧
       (stepping [receive .recv [] 0]).armed 0 = some (receive .recv [] 0) ∧ (stepping [receive .recv [] 0]).die = 0) := by
  refine ⟨by decide +kernel, by decide +kernel, rfl, by decide +kernel, by decide +kernel, ?_, by decide +kernel, by decide +kernel, by decide +kernel⟩
  decide +kernel

/-- The buffer of that receive, whatever blocks are being decoded. -/
theorem witness_DecodingSpan (l : List Buffered) (n : Nat) :
    let u : State := { decoding .recv 0 [sit0 false] with free := n, fabric := { (decoding .recv 0 [sit0 false]).fabric with decoding := l } }
    stepSpan 0 (rawSide 2) (0x10000 + BitVec.ofNat 64 0) 8 u = .ok ([(0x10000, ⟨0x10000, 8, rawPageAt 0x10000⟩)], u) :=
  span_of (c := stepping [receive .recv [] 0]) rfl rfl ((congrArg Prod.fst (copySide_frame _ _ _ _ _ _ _)).trans
    (by show ((decoding .recv 0 [sit0 false]).copySide ((decoding .recv 0 [sit0 false]).vfOf 0) (rawSide 2) none 0x10000).1 = _; decide +kernel))

def rmaPacket (type : Nat) (src : Word) (off : Nat) (n kind : Nat) (p : List Byte) : Msg :=
  ⟨mkHeader 0 src 0 0 false 0 p.length 0 0 0 type, [], mkRma (BitVec.ofNat 64 off) 9 n kind 0 0, p, 0, 0⟩
def windowed0 : State :=
  { world .cc with
    vfs := [(0, ⟨0, 1, 0x77, some 0x3000, some 0x1000, [], 0, [], [(0, ⟨0x10000, 0x100, true, true⟩)]⟩)]
    remotes := [⟨9, ⟨0, 0⟩, none, 0x555⟩] }
def spanIs (s : State) (vf : Nat) (r : BitVec 3) (l : List (Nat × Nat)) (x : List (Nat × Nat)) : Bool :=
  match s.rmaSpan vf r l with
  | .ok y => y == x
  | .unmapped => false
  | .miss _ => false
theorem spanIs_ok {s : State} {vf : Nat} {r : BitVec 3} {l x : List (Nat × Nat)} (h : spanIs s vf r l x = true) : s.rmaSpan vf r l = .ok x := by
  unfold spanIs at h
  split at h
  · rename_i y hy
    rw [hy, show y = x by simpa using h]
  · simp at h
  · simp at h
theorem witness_RemoteMemory :
    (∀ src ∈ [(0x77 : Nat), 0x100],
      let m := rmaPacket 0x10 (BitVec.ofNat 64 src) 0x20 8 0 eight
      let r := rmaPacket 0x11 (BitVec.ofNat 64 src) 0x20 8 0 []
      PacketOk windowed0 0x10 m ∧ badRma true m = false ∧ windowed0.rmaIpa m true = some (if src = 0x77 then 0x10020 else 0x20) ∧ PacketOk windowed0 0x11 r ∧
        badRma false r = false ∧ windowed0.rmaIpa r false = some (if src = 0x77 then 0x10020 else 0x20) ∧ fieldN r.rma 18 16 = 0) ∧
    windowed0.rmaSpan 0 2 (sectorCuts 0x10020 2 8) = .ok [(0x10020, 8)] ∧ windowed0.rmaSpan 0 1 (sectorCuts 0x10020 2 8) = .ok [(0x10020, 8)] ∧
    windowed0.poisoned 0x10020 = false ∧ windowed0.mem.wf = true ∧ (0x100 : Nat) < 0xFC + 8 ∧ badRma false (rmaPacket 0x11 0x77 0xFC 8 0 []) = false ∧
    fieldN (rmaPacket 0x10 0x77 0 8 1 eight).rma 18 16 ≠ 0 := by
  unfold PacketOk
  refine ⟨by decide +kernel, spanIs_ok (by decide +kernel), spanIs_ok (by decide +kernel), by decide +kernel, by decide +kernel, by decide, by decide +kernel, by decide +kernel⟩
theorem witness_RemoteAnswers :
    (∀ st ∈ [0, 3], let m := { rmaPacket 0x12 0x100 0 0 0 [] with rma := mkRma 0 9 0 0 st 0 }
      PacketOk windowed0 0x12 m ∧ windowed0.remotes.find? (fun q => decide (q.rid % 65536 = fieldN m.rma 47 32)) = some ⟨9, ⟨0, 0⟩, none, 0x555⟩ ∧ fieldN m.rma 15 8 = st) ∧
    (⟨0, 0⟩ : CtxRef) = windowed0.cur.ref ∧ windowed0.cur.copyq = [] ∧ windowed0.cur.faults.length < 16 ∧
    (windowed0.setCur (fun c => { c with remoteLd := some (0x555, 9, none) })).cur.remoteLd = some (0x555, 9, none) ∧
    (∀ r ∈ windowed0.remotes, r.rid % 65536 ≠ fieldN (mkRma 0 8 0 0 0 0) 47 32) := by
  unfold PacketOk; refine ⟨?_, ?_, ?_, ?_, ?_, ?_⟩ <;> decide +kernel
/-- The host's window and another G7's request; a held store to a remote page, its request out or not yet sent. -/
def remoteStore (sent : Bool) : StoreRec := { store0 5 0x10000 none with page := { rawPageAt 0x10000 with remote := some 3 }, sent := sent }
def remoteStoring (sent : Bool) : State :=
  { windowed0 with hold := [remoteStore sent], nextId := 10, rwins := [(3, ⟨0x100, 0x20000, 0x100000, true, true⟩)], remotes := [⟨9, ⟨0, 0⟩, some (5, 0x10000), 0x555⟩] }
theorem witness_RemoteWindows :
    (0x77 : Word) ∈ windowed0.boot.mgmt ∧ windowed0.peerReady 0 [(0x10020, 8)] = true ∧
    (Tbl.get? windowed0.vfs 0).bind (fun v => Tbl.get? v.rma 0) = some ⟨0x10000, 0x100, true, true⟩ ∧ (0x20 : Nat) + 8 ≤ 0x100 ∧
    (∀ b ∈ [false, true], let s := remoteStoring b
      s.hold.filter (fun q => decide (q.id = (remoteStore b).id)) = [remoteStore b] ∧ (remoteStore b).page.remote = some 3 ∧
        Tbl.get? s.rwins 3 = some ⟨0x100, 0x20000, 0x100000, true, true⟩ ∧ s.maySend (remoteStore b) = !b) ∧
    (let s := remoteStoring true
     s.remotes.find? (fun q => decide (q.rid % 65536 = 9)) = some ⟨9, ⟨0, 0⟩, some (5, 0x10000), 0x555⟩ ∧
       s.hold.find? (fun q => decide (q.id = 5) && decide (q.pa = 0x10000)) = some (remoteStore true) ∧ (remoteStore true).rels = [] ∧ s.cur.copyq = [] ∧ s.cur.faults = []) := by
  refine ⟨?_, ?_, ?_, ?_, ?_, ?_⟩ <;> decide +kernel

/-- A command of management for VF 0. -/
def command (op vf : Nat) (ws : List Word) : Cmd := ⟨0x77, BitVec.ofNat 128 (op + 2 ^ 40 * vf), ws⟩
theorem cmdOk_command (s : State) (op vf : Nat) (ws : List Word) (h : s.boot.phase = .up ∧ 0x77 ∈ s.boot.mgmt ∧ op < 2 ^ 16 ∧ vf < 2 ^ 8) (n : Nat) (hn : n ≤ ws.length) :
    CmdOk s (command op vf ws) op n := by
  obtain ⟨h1, h2, h3, h4⟩ := h
  have hr : ∀ hi lo, fieldN (command op vf ws).record hi lo = (op + 2 ^ 40 * vf) / 2 ^ lo % 2 ^ (hi + 1 - lo) := by
    intro hi lo
    simp only [fieldN, command, BitVec.extractLsb'_toNat, BitVec.toNat_ofNat, Nat.shiftRight_eq_div_pow]
    rw [Nat.mod_eq_of_lt (a := op + 2 ^ 40 * vf) (by omega)]
  refine ⟨h1, h2, ?_, ?_, ?_, ?_, hn⟩
  · show fieldN _ 15 0 = _
    rw [hr]; omega
  · rw [hr]; omega
  · rw [hr]; omega
  · rw [hr]; omega
theorem witness_CommandChecks :
    (world .cc).boot.phase = .up ∧ (0x77 : Word) ∈ (world .cc).boot.mgmt ∧ (0x78 : Word) ∉ (world .cc).boot.mgmt ∧ (command 0x10 5 [0]).vf = 5 ∧
    Tbl.get? (world .cc).vfs 5 = none ∧ (command 2 0 []).op ≠ 3 ∧ (∀ i, i < 5 → (command 0x10 5 [0]).num i = 0) ∧
    IsVfCommand (command 0x10 5 [0]) (.s1root (command 0x10 5 [0]), 0x10, 1) ∧ CmdOk (world .cc) (command 0x10 5 [0]) 0x10 1 := by
  refine ⟨rfl, by decide, by decide, by decide +kernel, by decide +kernel, by decide +kernel, by decide +kernel, ?_, cmdOk_command _ _ _ _ (by decide) _ (by decide)⟩
  unfold IsVfCommand; simp

/-! ## Witnesses: commands on VFs, regions, records and entries -/

def cmdState : State :=
  { binding 1000 with
    rcbs := [(0, rootRcb), (1, { node1 with pool := [(2, armedRec 1), (3, armedRec 0)] }),
      (193, newNode (nodeReset 193 1 2 0) 0)]
    slots := [(5, entry0)] }
def withSlot5 (x : Slot) : State := { cmdState with slots := [(5, x)] }
theorem cmdState_ok (op : Nat) (ws : List Word) (n : Nat) (h : op < 2 ^ 16) (hn : n ≤ ws.length) : CmdOk cmdState (command op 0 ws) op n :=
  cmdOk_command _ _ _ _ ⟨rfl, by decide, h, by decide⟩ _ hn
theorem witness_VfCommands :
    (CmdOk cmdState (command 1 5 [1, 2, 8]) 1 3 ∧ (command 1 5 [1, 2, 8]).vf < 192 ∧ Tbl.get? cmdState.vfs (command 1 5 [1, 2, 8]).vf = none ∧
      (command 1 5 [1, 2, 8]).num 0 < 2 ^ 8 ∧ (command 1 5 [1, 2, 8]).num 1 < 2 ^ 16 ∧ (command 1 5 [1, 2, 8]).num 2 ≤ 4096) ∧
    (command 2 0 []).vf = 0 ∧ Tbl.get? cmdState.vfs 0 ≠ none ∧ CmdOk cmdState (command 2 0 []) 2 0 ∧ (∀ d ∈ cmdState.dortas.destroying, d.1 ≠ 0) ∧
    (∀ x ∈ (binding 0).slots, x.2.vf ≠ 0) ∧ (EntryIs cmdState 5 entry0 ∧ entry0.vf = 0 ∧ entry0.state = 2 ∧ NotRetiring cmdState 5 ∧ (cmdState.slots.map (·.1)).Nodup) ∧
    (CmdOk cmdState (command 0x10 0 [0x3000]) 0x10 1 ∧ (command 0x10 0 [0x3000]).num 0 % 4096 = 0) ∧
    (CmdOk cmdState (command 0x11 0 [0x3001]) 0x11 1 ∧ (command 0x11 0 [0x3001]).num 0 % 4096 ≠ 0) ∧
    (CmdOk cmdState (command 0x12 0 [1, 0x10000, 0x10000]) 0x12 3 ∧ (command 0x12 0 [1, 0x10000, 0x10000]).num 0 = 1) := by
  refine ⟨⟨cmdOk_command _ _ _ _ ⟨rfl, by decide, by decide, by decide⟩ _ (by decide), ?_⟩, ?_, ?_, cmdState_ok _ _ _ (by decide) (by decide), ?_, ?_, ?_,
    ⟨cmdState_ok _ _ _ (by decide) (by decide), ?_⟩, ⟨cmdState_ok _ _ _ (by decide) (by decide), ?_⟩, ⟨cmdState_ok _ _ _ (by decide) (by decide), ?_⟩⟩
  all_goals try unfold EntryIs NotRetiring
  all_goals decide +kernel
theorem witness_EntryCommands :
    (∀ st ∈ [2, 3, 4], EntryIs (withSlot5 (entry0.setState st)) ((command 0x30 0 [5]).num 0) (entry0.setState st) ∧ (entry0.setState st).vf = (command 0x30 0 [5]).vf ∧
      (entry0.setState st).state = st ∧ (entry0.setState st).suspended = false ∧ (entry0.setState st).held = none ∧ (entry0.setState st).rolling = false ∧ NotRetiring (withSlot5 (entry0.setState st)) 5 ∧
      (withSlot5 (entry0.setState st)).exhausted (entry0.setState st).rcbx = false) ∧
    (∀ op ∈ [0x30, 0x31, 0x32], CmdOk cmdState (command op 0 [5]) op 1) := by
  refine ⟨by unfold EntryIs NotRetiring; decide +kernel, fun op h => cmdState_ok op _ _ ?_ (by decide)⟩
  simp only [List.mem_cons, List.not_mem_nil, or_false] at h
  omega
/-- The eight words of a region's record. -/
def recordWords (b : BitVec 512) : List Word := (List.range 8).map (fun i => b.extractLsb' (64 * i) 64)
def launchWords (b : BitVec 1024) : List Word := (List.range 16).map (fun i => b.extractLsb' (64 * i) 64)
theorem witness_RegionCommands :
    (CmdOk cmdState (command 0x21 0 (1 :: recordWords (tenantBits 0))) 0x21 9 ∧ (Tbl.get? cmdState.rcbs 1).map (fun x => decide (x.level ≠ 0 ∧ x.vf = 0)) = some true ∧
      (command 0x21 0 (1 :: recordWords (tenantBits 0))).num 0 = 1 ∧ rcbReserved (BitVec.ofNat 512 ((command 0x21 0 (1 :: recordWords (tenantBits 0))).recordAt 1 8)) = false ∧
      recordOk (withOwn (BitVec.ofNat 512 ((command 0x21 0 (1 :: recordWords (tenantBits 0))).recordAt 1 8)) 1 0 1 0) = true ∧ cmdState.subtreeOk 1 = true ∧
      recordOk (withOwn 0 1 0 1 0) = false) ∧
    (CmdOk cmdState (command 0x23 0 (194 :: 1 :: 0 :: recordWords (nodeReset 194 1 2 0))) 0x23 11 ∧ (Tbl.get? cmdState.rcbs 1).map (fun x => decide (1 ≤ x.level ∧ x.level ≤ 4)) = some true ∧
      Tbl.get? cmdState.rcbs 194 = none ∧
      (let b : BitVec 512 := BitVec.ofNat 512 ((command 0x23 0 (194 :: 1 :: 0 :: recordWords (nodeReset 194 1 2 0))).recordAt 3 8)
       rcbReserved b = false ∧ recordOk (withOwn b 194 1 2 0) = true ∧
         (cmdState.addNode 194 (newNode (withOwn b 194 1 2 0) 0)).nodeOk 194 = true)) ∧
    (CmdOk cmdState (command 0x24 0 [193]) 0x24 1 ∧ (Tbl.get? cmdState.rcbs 193).map (fun x => decide (x.vf = 0 ∧ x.pool = [])) = some true ∧
      (∀ y ∈ cmdState.rcbs, y.2.parent ≠ 193) ∧ (∀ y ∈ cmdState.slots, y.2.rcbx ≠ 193)) ∧
    (CmdOk cmdState (command 0x22 0 (1 :: 3 :: launchWords (armedRec 0))) 0x22 18 ∧ CmdOk cmdState (command 0x25 0 [1, 3]) 0x25 2 ∧
      (Tbl.get? cmdState.rcbs 1).map (fun x => decide (x.vf = 0 ∧ 3 < x.poolSize ∧ fieldN (x.lrec 1 2) 33 32 ≠ 0 ∧ fieldN (x.lrec 1 3) 33 32 = 0 ∧
        cmdState.overDemand 1 (x.lrec 1 3) = none)) = some true ∧
      lrReserved (BitVec.ofNat 1024 ((command 0x22 0 (1 :: 3 :: launchWords (armedRec 0))).recordAt 2 16)) = false ∧ cmdState.lrecOk 0 1 (armedRec 0) = true ∧
      cmdState.lrecOk 0 1 0 = false ∧ Tbl.get? cmdState.dortas.captures 0 = none) := by
  refine ⟨⟨cmdState_ok _ _ _ (by decide) (by decide), ?_⟩, ⟨cmdState_ok _ _ _ (by decide) (by decide), ?_⟩, ⟨cmdState_ok _ _ _ (by decide) (by decide), ?_⟩,
    ⟨cmdState_ok _ _ _ (by decide) (by decide), cmdState_ok _ _ _ (by decide) (by decide), ?_⟩⟩ <;> decide +kernel
/-- A bare image at 0x10000: its header, one section of one word, no trough and no loop. -/
def imageBits : BitVec 1024 :=
  setField (setField (setField (setField (setField (setField (setField (0 : BitVec 1024) 31 0 0x4D49424D) 47 32 1) 48 48 1) 191 160 100) 95 64 8) 383 320 128) 447 384 48
def imaged : State := { cmdState with mem := tables ++ cellsAt 0x10000 (((List.range 16).map (fun i => (imageBits.extractLsb' (64 * i) 64).toNat)) ++ [1, 0, 32, 4, 0, 0]) }
theorem witness_ImageCommand :
    CmdOk imaged (command 0x20 0 [0x10000, 192]) 0x20 2 ∧ spanIs imaged 0 0 (sectorCuts 0x10000 8 192) ((List.range 6).map (fun i => (0x10000 + 32 * i, 32))) = true ∧
    (loadImage 0 (((List.range 6).map (fun i => (0x10000 + 32 * i, 32))).flatMap (fun x => bytesFrom imaged.devByte x.1 x.2))).isSome = true ∧ imaged.poison = [] := by
  refine ⟨cmdOk_command _ _ _ _ ⟨rfl, by decide, by decide, by decide⟩ _ (by decide), by decide +kernel, by decide +kernel, rfl⟩

theorem witness_TableAndReportCommands :
    Tbl.get? cmdState.vfs 0 = some ⟨0, 1, 0x77, some 0x3000, some 0x1000, [], 0, [], []⟩ ∧
    CmdOk cmdState (command 0x40 0 [2047, 5, 0x10000, 0x10000, 3]) 0x40 5 ∧ CmdOk cmdState (command 0x41 0 [15, 0x10000, 0x100, 3]) 0x41 4 ∧
    CmdOk cmdState (command 0x42 0 [4095, 0x2000000001, 0x1FFFF]) 0x42 3 ∧ CmdOk cmdState (command 0x43 0 [255, 1]) 0x43 2 ∧ CmdOk cmdState (command 0x44 0 [9]) 0x44 1 ∧
    CmdOk cmdState (command 0x50 0 []) 0x50 0 ∧ CmdOk cmdState (command 0x51 0 []) 0x51 0 ∧ (command 0x51 0 []).vf ≠ 0xFF := by
  refine ⟨by decide +kernel, ?_, ?_, ?_, ?_, ?_, ?_, ?_, by decide +kernel⟩ <;> exact cmdState_ok _ _ _ (by decide) (by decide)
theorem witness_PowerAndClock :
    (∃ k ∈ [1, 2, 3], State.reset.boot.acceptKind k = none) ∧ ({ State.reset with boot := { Boot.reset with phase := .released } } : State).boot.phase = .released ∧
    State.reset.boot.phase ≠ .released ∧ State.reset.boot.phase = .off := by decide +kernel

/-! ## Witnesses: the machine as a whole -/

/-- An instance whose image is one ADDI s1, s0, 256. -/
def oneWord (k : Kind) (bs : List Byte) : State :=
  { (world k).setCur (fun c => { c with pc := 0 }) with images := [(1, ⟨0, bareHeader, [⟨0, bs.length, k⟩], bs, [], []⟩)] }
theorem witness_StepRunsDecoded :
    (let s := oneWord .cc [0x00, 0x01, 0x10, 0x10]
     s.agenda = [] ∧ s.issuable s.cur = true ∧ s.cur.faults = [] ∧ s.cur.events = [] ∧ s.cur.sinceBoundary ≤ s.maxiter s.cur.slot ∧
       s.fetch s.cur.slot s.cur.kind s.cur.pc = some [0x00, 0x01, 0x10, 0x10] ∧ decodeBytes .cc [0x00, 0x01, 0x10, 0x10] = some (.ok (.addi ⟨1, 0, false, 256⟩), [])) ∧
    (let s := oneWord .cc [0xFF, 0xFF, 0xFF, 0xFF]
     s.fetch s.cur.slot s.cur.kind s.cur.pc = some [0xFF, 0xFF, 0xFF, 0xFF] ∧ decodeBytes .cc [0xFF, 0xFF, 0xFF, 0xFF] = some (.error (.illegal 0), []) ∧ s.issuable s.cur = true) ∧
    (oneWord .cc []).fetch 0 .cc 0 = none ∧ (oneWord .cc []).issuable (oneWord .cc []).cur = true ∧
    (let s : State := { oneWord .se [0, 0, 0, 0, 0, 0, 0, 0x30] with cur := (world .cc).cur, steps := [(0, { stepping [] with pc := 0 })], agenda := [.stepIssue 0] }
     s.fetch 0 .se 0 = some [0, 0, 0, 0, 0, 0, 0, 0x30] ∧ decodeStep (stepOfBytes [0, 0, 0, 0, 0, 0, 0, 0x30]) = .ok (.done ⟨0, 0, 0, 0, 0, 0, 0, 0⟩) ∧ s.running 0 = true ∧
       Tbl.get? s.steps 0 = some { stepping [] with pc := 0 } ∧ (stepping []).status = none ∧ (stepping []).ready = true ∧ (∀ a ∈ (stepping []).store, a.op ≠ .done)) ∧
    (packet 1 0 []).type = 1 ∧ (packet 0x10 0 []).type = 0x10 := by
  refine ⟨?_, ?_, ?_, ?_, ?_, ?_, ?_⟩ <;> decide +kernel
theorem witness_EncodeDecode : (Instr.addi ⟨1, 0, false, 256⟩).wf = true ∧ encode (.addi ⟨1, 0, false, 256⟩) = .word none 0x10100100#32 ∧
    (Instr.mpop ⟨3, 4⟩).wf = true ∧ encode (.mpop ⟨3, 4⟩) = .word (some .ve) 0x8C064004#32 ∧ (Instr.send ⟨8, 2, 1, 1, 0, 0, 0, 4⟩).wf = true ∧
    encode (.send ⟨8, 2, 1, 1, 0, 0, 0, 4⟩) = .step 0x0600880100000004#64 ∧ decodeWord .cc 0x10100100#32 = .ok (.addi ⟨1, 0, false, 256⟩) := by decide +kernel
theorem witness_RootRecord : Tbl.get? (world .cc).rcbs 0 = some rootRcb ∧ rootRcb.level = 0 ∧
    nextOf (exec (.s1root (command 0x10 0 [0x3000])) (world .cc)) ≠ none := by
  refine ⟨by decide +kernel, by decide +kernel, ?_⟩
  show (some _ : Option State) ≠ none
  exact Option.some_ne_none _

/-! ## Witness: the canonical form of memory -/

theorem witness_MemoryStaysCanonical :
    State.reset.MemOk ∧ (oneWord .cc [0x00, 0x01, 0x10, 0x10]).MemOk ∧ nextOf (step (oneWord .cc [0x00, 0x01, 0x10, 0x10])) ≠ none := by
  refine ⟨?_, ?_, ?_⟩
  · unfold State.MemOk; decide +kernel
  · unfold State.MemOk; decide +kernel
  · intro h
    exact absurd (congrArg Option.isSome h) (by decide +kernel)

/-! ## Well-formedness: one ill-formed term for each check, which the check refuses -/

theorem test_ill_formed_numbers :
    (Instr.psetEq ⟨8, 1, 2, false, false⟩).wf = false ∧ (Instr.plogAnd ⟨1, 2, 9⟩).wf = false ∧ (Instr.bp ⟨8, 1⟩).wf = false ∧ (Instr.lbrk 31).wf = false ∧
    (Instr.mlogOr ⟨8, 1, 2⟩).wf = false ∧ (Instr.mlogOr ⟨1, 2, 9⟩).wf = false ∧ (Instr.vcmpEq ⟨8, 1, 2, 0, false, 0⟩).wf = false ∧
    (Instr.vpop ⟨1, 4, 0, false, 0⟩).wf = false ∧ (Instr.vpush ⟨1, 31, 0, 0⟩).wf = false ∧ (Instr.vbcast ⟨1, 1, 4, false, 0, false, 0⟩).wf = false ∧
    (Instr.rateBind ⟨1, false, 32⟩).wf = false := by
  refine ⟨?_, ?_, ?_, ?_, ?_, ?_, ?_, ?_, ?_, ?_, ?_⟩ <;> decide +kernel
theorem test_ill_formed_masks_and_types :
    (Instr.vadd ⟨1, 2, 3, 9, false, 0⟩).wf = false ∧ (Instr.vadd ⟨1, 2, 3, 0, true, 0⟩).wf = false ∧ (Instr.vadd ⟨1, 2, 3, 1, true, 5⟩).wf = false ∧
    (Instr.viadd ⟨1, 2, 3, 1, true, 3⟩).wf = false ∧ (Instr.viadd ⟨1, 2, 3, 1, true, 7⟩).wf = false ∧ (Instr.vcvt ⟨1, 2, 11, 0, false, 0⟩).wf = false ∧
    (Instr.vcvt ⟨1, 2, 5, 0, false, 0⟩).wf = false ∧ (Instr.vcvtToInt ⟨1, 2, 8, 0, false, 0⟩).wf = false ∧ (Instr.vqntBlk16 ⟨1, 2, 9, 0, false, 0⟩).wf = false ∧
    (Instr.vqntBlk16 ⟨1, 2, 4, 0, false, 2⟩).wf = false ∧ (Instr.vbcast ⟨1, 2, 0, false, 0, false, 0⟩).wf = false := by
  refine ⟨?_, ?_, ?_, ?_, ?_, ?_, ?_, ?_, ?_, ?_, ?_⟩ <;> decide +kernel
theorem test_ill_formed_scopes_and_codes :
    (Instr.ldaSigned ⟨1, 2, 3, 5, 0⟩).wf = false ∧ (Instr.fence 7).wf = false ∧ (Instr.amoI64 ⟨1, 2, 3, false, false, 0, 1, 0⟩).wf = false ∧
    (Instr.amoI64 ⟨1, 2, 3, false, false, 1, 1, 7⟩).wf = false ∧ (Instr.amofF32 ⟨1, 2, 3, false, false, 1, 1, 3⟩).wf = false ∧ (Instr.casN32 ⟨1, 2, 3, false, false, 1, 6⟩).wf = false ∧
    (Instr.cpy ⟨1, 2, 3, false, 1⟩).wf = false ∧ (Instr.cpy ⟨1, 2, 3, true, 5⟩).wf = false ∧ (Instr.sysw ⟨1, false, 0x001⟩).wf = false ∧ (Instr.sysw ⟨1, false, 0x02F⟩).wf = false ∧
    (Instr.sysw ⟨1, false, 0x065⟩).wf = false ∧ (Instr.loop ⟨1, false, 0, 0⟩).wf = false ∧ (Instr.loopi ⟨4, 0, 1⟩).wf = false ∧ (Instr.hload ⟨1, false, 3⟩).wf = false ∧
    (Instr.hhad 3).wf = false := by
  refine ⟨?_, ?_, ?_, ?_, ?_, ?_, ?_, ?_, ?_, ?_, ?_, ?_, ?_, ?_, ?_⟩ <;> decide +kernel
theorem test_ill_formed_steps :
    (Instr.send ⟨0, 0, 5, 1, 2, 3, 4, 0⟩).wf = false ∧ (Instr.send ⟨0, 0, 1, 1, 2, 0, 0, 0⟩).wf = false ∧ (Instr.copy ⟨0, 3, 0, 0, 0, 0, 0, 0⟩).wf = false ∧
    (Instr.send ⟨2, 0, 0, 0, 0, 0, 0, 0⟩).wf = false ∧ (Instr.rrs ⟨4, 0, 0, 0, 0, 0, 0, 0⟩).wf = false ∧ (Instr.loopb ⟨8, 1, 0, 0, 0, 0, 0, 2⟩).wf = false ∧
    (Instr.loope ⟨0, 0, 1, 1, 0, 0, 0, 0⟩).wf = false ∧ (Instr.peer ⟨8, 1, 0, 0, 0, 0, 0, 0⟩).wf = false ∧ (Instr.done ⟨1, 0, 0, 0, 0, 0, 0, 0⟩).wf = false := by
  refine ⟨?_, ?_, ?_, ?_, ?_, ?_, ?_, ?_, ?_⟩ <;> decide +kernel
theorem test_ill_formed_events :
    (Instr.stepFire 64 0).wf = false ∧ (Instr.leaseRunEnd 32).wf = false ∧ (Instr.prooferPeriod 0 32).wf = false ∧ (Instr.slotSubmit 2048).wf = false ∧
    (Instr.quotaExhausted 16384 false).wf = false ∧ (Instr.drainMarkerComplete 0 8).wf = false ∧ (Instr.waveAtCell 0 0 512 0).wf = false ∧
    (Instr.waveAtCell 0 0 0 4096).wf = false ∧ (Instr.stashFree 0 16).wf = false ∧ (Instr.bankSwitchDone 0 16).wf = false := by
  refine ⟨?_, ?_, ?_, ?_, ?_, ?_, ?_, ?_, ?_, ?_⟩ <;> decide +kernel

/-! ## Decoding: one word for every instruction, its fields written at the bit positions that the tables of R58 to R70 give

The operands are chosen unequal, so that two fields read in each other's place do not pass. -/

/-- Each word decodes to its instruction on an engine of a kind. -/
def decodes (k : Kind) (ps : List (Nat × Instr)) : Prop :=
  match ps with
  | [] => True
  | p :: qs => decodeWord k (BitVec.ofNat 32 p.1) = .ok p.2 ∧ decodes k qs

theorem test_decode_scalar_1 : decodes .cc [(0x01336501, .add ⟨19, 6, 25, false, true⟩), (0x01336602, .sub ⟨19, 6, 25, true, false⟩), (0x01336503, .mul ⟨19, 6, 25, false, true⟩), (0x01336604, .mulh ⟨19, 6, 25, true, false⟩), (0x01336505, .mulhn ⟨19, 6, 25, false, true⟩), (0x01336606, .div ⟨19, 6, 25, true, false⟩), (0x01336507, .divn ⟨19, 6, 25, false, true⟩), (0x01336608, .rem ⟨19, 6, 25, true, false⟩), (0x01336509, .remn ⟨19, 6, 25, false, true⟩), (0x0133660A, .and ⟨19, 6, 25, true, false⟩), (0x0133650B, .or ⟨19, 6, 25, false, true⟩), (0x0133660C, .xor ⟨19, 6, 25, true, false⟩)] := by
  refine ⟨?_, ?_, ?_, ?_, ?_, ?_, ?_, ?_, ?_, ?_, ?_, ?_, trivial⟩ <;> decide +kernel

theorem test_decode_scalar_2 : decodes .cc [(0x0133650D, .sll ⟨19, 6, 25, false, true⟩), (0x0133660E, .srl ⟨19, 6, 25, true, false⟩), (0x0133650F, .sra ⟨19, 6, 25, false, true⟩), (0x01336610, .min ⟨19, 6, 25, true, false⟩), (0x01336511, .max ⟨19, 6, 25, false, true⟩), (0x01336612, .minn ⟨19, 6, 25, true, false⟩), (0x01336513, .maxn ⟨19, 6, 25, false, true⟩), (0x01336614, .slt ⟨19, 6, 25, true, false⟩), (0x01336515, .sltn ⟨19, 6, 25, false, true⟩), (0x01330216, .clz ⟨19, 6, true⟩), (0x01330017, .popc ⟨19, 6, false⟩), (0x02536601, .psetEq ⟨5, 6, 25, true, false⟩)] := by
  refine ⟨?_, ?_, ?_, ?_, ?_, ?_, ?_, ?_, ?_, ?_, ?_, ?_, trivial⟩ <;> decide +kernel

theorem test_decode_scalar_3 : decodes .cc [(0x02536502, .psetNe ⟨5, 6, 25, false, true⟩), (0x02536603, .psetLt ⟨5, 6, 25, true, false⟩), (0x02536504, .psetGe ⟨5, 6, 25, false, true⟩), (0x02536605, .psetLtn ⟨5, 6, 25, true, false⟩), (0x02536506, .psetGen ⟨5, 6, 25, false, true⟩), (0x02530C10, .plogAnd ⟨5, 6, 3⟩), (0x02530C11, .plogOr ⟨5, 6, 3⟩), (0x02530C12, .plogXor ⟨5, 6, 3⟩), (0x02530C13, .plogAndn ⟨5, 6, 3⟩), (0x11334F6D, .addi ⟨19, 6, true, 3949⟩), (0x1333352F, .andi ⟨19, 6, false, 13615⟩), (0x15335AF3, .ori ⟨19, 6, true, 6899⟩)] := by
  refine ⟨?_, ?_, ?_, ?_, ?_, ?_, ?_, ?_, ?_, ?_, ?_, ?_, trivial⟩ <;> decide +kernel

theorem test_decode_scalar_4 : decodes .cc [(0x173300B5, .xori ⟨19, 6, false, 181⟩)] := by
  exact ⟨by decide +kernel, trivial⟩

theorem test_decode_system_1 : decodes .cc [(0x19334039, .slli ⟨19, 6, true, 57⟩), (0x1B33003B, .srli ⟨19, 6, false, 59⟩), (0x1D33403F, .srai ⟨19, 6, true, 63⟩), (0x1F3317C1, .slti ⟨19, 6, false, 6081⟩), (0x21337D85, .lih ⟨19, 6, true, 15749⟩), (0x413CC047, .ldSigned ⟨19, 25, 2, 71⟩), (0x433CC00B, .ldUnsigned ⟨19, 25, 2, 11⟩), (0x413CCDCD, .ldaSigned ⟨19, 25, 2, 3, 205⟩), (0x433CCD91, .ldaUnsigned ⟨19, 25, 2, 3, 145⟩), (0x453CC053, .st ⟨19, 25, 2, 83⟩), (0x453CCE17, .stl ⟨19, 25, 2, 3, 23⟩), (0x50030001, .waitf 6)] := by
  refine ⟨?_, ?_, ?_, ?_, ?_, ?_, ?_, ?_, ?_, ?_, ?_, ?_, trivial⟩ <;> decide +kernel

theorem test_decode_system_2 : decodes .cc [(0x50000002, .eret), (0x50030003, .eretHalt ⟨6, false⟩), (0x50000004, .yield), (0x52000003, .fence 3), (0x55300060, .sysr ⟨19, 96⟩), (0x56030030, .sysw ⟨6, false, 48⟩), (0x56034001, .syswFcsr ⟨6, true⟩), (0x5603002A, .syswBankcfg ⟨6, false, 10⟩), (0x56034052, .syswQb ⟨6, true, 2⟩), (0x58000077, .trap 119)] := by
  refine ⟨?_, ?_, ?_, ?_, ?_, ?_, ?_, ?_, ?_, ?_, trivial⟩ <;> decide +kernel

theorem test_decode_transfer_1 : decodes .cc [(0x606CC53B, .beq ⟨6, 25, true, false, 1339⟩), (0x626CAAFD, .bne ⟨6, 25, false, true, 2813⟩), (0x646CD0C1, .blt ⟨6, 25, true, false, 4289⟩), (0x666CB683, .bge ⟨6, 25, false, true, 5763⟩), (0x686CDC47, .bltn ⟨6, 25, true, false, 7239⟩), (0x6A6CA209, .bgen ⟨6, 25, false, true, 521⟩), (0x6C5007CD, .bp ⟨5, 1997⟩), (0x7136AD8F, .jal ⟨19, 437647⟩), (0x73335353, .jr ⟨19, 6, true, 4947⟩), (0x78E02456, .loop ⟨14, false, 2325, 2⟩), (0x7FB67B66, .loopi ⟨3801, 3801, 2⟩), (0x7A500000, .lbrk 5)] := by
  refine ⟨?_, ?_, ?_, ?_, ?_, ?_, ?_, ?_, ?_, ?_, ?_, ?_, trivial⟩ <;> decide +kernel

theorem test_decode_control_core_1 : decodes .cc [(0x81336601, .fork ⟨19, 6, 25, true, false⟩), (0x80030002, .leaseAcq ⟨6, false⟩), (0x81330203, .leaseTry ⟨19, 6, true⟩), (0x80030004, .leaseRel ⟨6, false⟩), (0x81336605, .swroute ⟨19, 6, 25, true, false⟩), (0x80030006, .swdrop ⟨6, false⟩), (0x81336607, .lpatch ⟨19, 6, 25, true, false⟩), (0x81330008, .larm ⟨19, 6, false⟩), (0x81330209, .lquery ⟨19, 6, true⟩), (0x8133650A, .cstart ⟨19, 6, 25, false, true⟩), (0x8133020B, .cwait ⟨19, 6, true⟩), (0x8130000C, .chkpt 19)] := by
  refine ⟨?_, ?_, ?_, ?_, ?_, ?_, ?_, ?_, ?_, ?_, ?_, ?_, trivial⟩ <;> decide +kernel

theorem test_decode_control_core_2 : decodes .cc [(0x8133020D, .assayr ⟨19, 6, true⟩), (0x82030445, .tcfg ⟨6, false, 69⟩), (0x83300809, .tclaim ⟨19, 9⟩), (0x82030CCB, .tfill ⟨6, false, 203⟩), (0x8330108F, .ttake ⟨19, 143⟩), (0x82031451, .trelease ⟨6, false, 81⟩), (0x82001815, .twaitf 21), (0x82001CD7, .twaite 215), (0x8330209B, .tstat ⟨19, 155⟩), (0x8200245D, .tresync 93), (0x84000421, .rdv 33), (0x840008E3, .rdva 227)] := by
  refine ⟨?_, ?_, ?_, ?_, ?_, ?_, ?_, ?_, ?_, ?_, ?_, ?_, trivial⟩ <;> decide +kernel

theorem test_decode_control_core_3 : decodes .cc [(0x84034CA7, .rdve ⟨6, true, 167⟩), (0x84031069, .kpost ⟨6, false, 105⟩), (0x8400142D, .kreset 45), (0x853018EF, .kread ⟨19, 239⟩), (0x86034415, .rateBind ⟨6, true, 21⟩), (0x86030815, .rateSet ⟨6, false, 21⟩), (0x86034C15, .rateHold ⟨6, true, 21⟩), (0x87301015, .rateRead ⟨19, 21⟩), (0x8933669D, .amoI32 ⟨19, 6, 25, true, false, 2, 3, 5⟩), (0x8B33659D, .amoI64 ⟨19, 6, 25, false, true, 2, 3, 5⟩), (0x8D33669D, .amoN32 ⟨19, 6, 25, true, false, 2, 3, 5⟩), (0x8F33659D, .amoN64 ⟨19, 6, 25, false, true, 2, 3, 5⟩)] := by
  refine ⟨?_, ?_, ?_, ?_, ?_, ?_, ?_, ?_, ?_, ?_, ?_, ?_, trivial⟩ <;> decide +kernel

theorem test_decode_control_core_4 : decodes .cc [(0x91336698, .casN32 ⟨19, 6, 25, true, false, 2, 3⟩), (0x93336598, .casN64 ⟨19, 6, 25, false, true, 2, 3⟩), (0x9533669A, .amofF32 ⟨19, 6, 25, true, false, 2, 3, 2⟩), (0x9733659A, .amofBf16 ⟨19, 6, 25, false, true, 2, 3, 2⟩)] := by
  refine ⟨?_, ?_, ?_, ?_, trivial⟩ <;> decide +kernel

theorem test_decode_vector_1 : decodes .ve [(0x8138CB41, .vadd ⟨9, 12, 6, 5, true, 2⟩), (0x8138CB42, .vsub ⟨9, 12, 6, 5, true, 2⟩), (0x8138CB43, .vmul ⟨9, 12, 6, 5, true, 2⟩), (0x8138CB44, .vfma ⟨9, 12, 6, 5, true, 2⟩), (0x8138CB45, .vfms ⟨9, 12, 6, 5, true, 2⟩), (0x8138CB46, .vfnma ⟨9, 12, 6, 5, true, 2⟩), (0x8138CB47, .vmin ⟨9, 12, 6, 5, true, 2⟩), (0x8138CB48, .vmax ⟨9, 12, 6, 5, true, 2⟩), (0x8138CB49, .vminp ⟨9, 12, 6, 5, true, 2⟩), (0x8138CB4A, .vmaxp ⟨9, 12, 6, 5, true, 2⟩), (0x81380B4B, .vabs ⟨9, 12, 5, true, 2⟩), (0x81380B4C, .vneg ⟨9, 12, 5, true, 2⟩)] := by
  refine ⟨?_, ?_, ?_, ?_, ?_, ?_, ?_, ?_, ?_, ?_, ?_, ?_, trivial⟩ <;> decide +kernel

theorem test_decode_vector_2 : decodes .ve [(0x81380B4D, .vexp2 ⟨9, 12, 5, true, 2⟩), (0x81380B4E, .vlog2 ⟨9, 12, 5, true, 2⟩), (0x81380B4F, .vrcp ⟨9, 12, 5, true, 2⟩), (0x81380B50, .vrsqrt ⟨9, 12, 5, true, 2⟩), (0x81380B51, .vtanh ⟨9, 12, 5, true, 2⟩), (0x81380B52, .vsigm ⟨9, 12, 5, true, 2⟩), (0x81380B53, .vrsum ⟨9, 12, 5, true, 2⟩), (0x81380B54, .vrmax ⟨9, 12, 5, true, 2⟩), (0x81380B55, .vrmin ⟨9, 12, 5, true, 2⟩), (0x81380B56, .vcsum ⟨9, 12, 5, true, 2⟩), (0x8338CB41, .viadd ⟨9, 12, 6, 5, true, 2⟩), (0x8338CB42, .visub ⟨9, 12, 6, 5, true, 2⟩)] := by
  refine ⟨?_, ?_, ?_, ?_, ?_, ?_, ?_, ?_, ?_, ?_, ?_, ?_, trivial⟩ <;> decide +kernel

theorem test_decode_vector_3 : decodes .ve [(0x8338CB43, .vimul ⟨9, 12, 6, 5, true, 2⟩), (0x8338CB44, .vand ⟨9, 12, 6, 5, true, 2⟩), (0x8338CB45, .vor ⟨9, 12, 6, 5, true, 2⟩), (0x8338CB46, .vxor ⟨9, 12, 6, 5, true, 2⟩), (0x8338CB47, .vshl ⟨9, 12, 6, 5, true, 2⟩), (0x8338CB48, .vshr ⟨9, 12, 6, 5, true, 2⟩), (0x8338CB49, .vsra ⟨9, 12, 6, 5, true, 2⟩), (0x84B8CB41, .vcmpEq ⟨5, 12, 6, 5, true, 2⟩), (0x84B8CB42, .vcmpNe ⟨5, 12, 6, 5, true, 2⟩), (0x84B8CB43, .vcmpLt ⟨5, 12, 6, 5, true, 2⟩), (0x84B8CB44, .vcmpLe ⟨5, 12, 6, 5, true, 2⟩), (0x84B8CB45, .vcmpGt ⟨5, 12, 6, 5, true, 2⟩)] := by
  refine ⟨?_, ?_, ?_, ?_, ?_, ?_, ?_, ?_, ?_, ?_, ?_, ?_, trivial⟩ <;> decide +kernel

theorem test_decode_vector_4 : decodes .ve [(0x84B8CB46, .vcmpGe ⟨5, 12, 6, 5, true, 2⟩), (0x84B8CB48, .vcmpEqInt ⟨5, 12, 6, 5, true, 2⟩), (0x84B8CB49, .vcmpNeInt ⟨5, 12, 6, 5, true, 2⟩), (0x84B8CB4A, .vcmpLtInt ⟨5, 12, 6, 5, true, 2⟩), (0x84B8CB4B, .vcmpLeInt ⟨5, 12, 6, 5, true, 2⟩), (0x84B8CB4C, .vcmpGtInt ⟨5, 12, 6, 5, true, 2⟩), (0x84B8CB4D, .vcmpGeInt ⟨5, 12, 6, 5, true, 2⟩), (0x8538CA50, .vsel ⟨9, 12, 6, 5, 2⟩), (0x84AC6011, .mlogAnd ⟨5, 6, 3⟩), (0x84AC6012, .mlogOr ⟨5, 6, 3⟩), (0x84AC6013, .mlogXor ⟨5, 6, 3⟩), (0x84AC6014, .mlogAndn ⟨5, 6, 3⟩)] := by
  refine ⟨?_, ?_, ?_, ?_, ?_, ?_, ?_, ?_, ?_, ?_, ?_, ?_, trivial⟩ <;> decide +kernel

theorem test_decode_vector_5 : decodes .ve [(0x85382A58, .vcompress ⟨9, 12, 1, 5, 2⟩), (0x85382B59, .vexpand ⟨9, 12, 1, 5, true, 2⟩), (0x85380B5A, .vtrn ⟨9, 12, 5, true, 2⟩), (0x85200B5B, .viota ⟨9, 5, true, 2⟩), (0x87382B41, .vcvt ⟨9, 12, 1, 5, true, 2⟩), (0x87382B42, .vcvtSat ⟨9, 12, 1, 5, true, 2⟩), (0x87382B43, .vcvtToInt ⟨9, 12, 1, 5, true, 2⟩), (0x87388B24, .vqntBlk16 ⟨9, 12, 4, 5, true, 1⟩), (0x87388B25, .vqntBlk32 ⟨9, 12, 4, 5, true, 1⟩), (0x892222D1, .vbcast ⟨9, 1, 2, false, 5, true, 2⟩), (0x880AE512, .vmovs ⟨5, 14, 10, 2⟩), (0x894022D3, .vpop ⟨10, 2, 5, true, 2⟩)] := by
  refine ⟨?_, ?_, ?_, ?_, ?_, ?_, ?_, ?_, ?_, ?_, ?_, ?_, trivial⟩ <;> decide +kernel

theorem test_decode_vector_6 : decodes .ve [(0x88142294, .vpush ⟨10, 2, 5, 2⟩), (0x8938E2D5, .vrot ⟨9, 12, 14, false, 5, true, 2⟩), (0x8800E806, .vshape ⟨14, true⟩), (0x8800E007, .vsetrm ⟨14, false⟩), (0x8CA0E801, .amod ⟨5, 14, true⟩), (0x8CA0E002, .amov ⟨5, 14, false⟩), (0x8CA0E803, .aadd ⟨5, 14, true⟩), (0x8C0A2004, .mpop ⟨5, 2⟩), (0x9154B4A3, .vld ⟨10, 5, false, 5, true, 2, 163⟩), (0x9356B465, .vst ⟨10, 5, true, 5, true, 2, 101⟩), (0x9554B429, .vlds ⟨10, 5, false, 5, true, 2, 41⟩), (0x9756B5EB, .vsts ⟨10, 5, true, 5, true, 2, 491⟩)] := by
  refine ⟨?_, ?_, ?_, ?_, ?_, ?_, ?_, ?_, ?_, ?_, ?_, ?_, trivial⟩ <;> decide +kernel

theorem test_decode_vector_7 : decodes .ve [(0x9954B540, .vgath ⟨10, 5, false, 5, true, 2, 10⟩), (0x9B56B540, .vscat ⟨10, 5, true, 5, true, 2, 10⟩), (0x9D40B435, .vldt ⟨10, 5, true, 2, 53⟩), (0x9F40A4F7, .vstt ⟨10, 5, 2, 247⟩)] := by
  refine ⟨?_, ?_, ?_, ?_, trivial⟩ <;> decide +kernel

theorem test_decode_hearth_1 : decodes .he [(0x806CC121, .hadmitA ⟨6, 25, true, false, 2, false, true, false⟩), (0x806CA002, .hadmitS ⟨6, 25, false, true⟩), (0x806CC013, .hadmitG ⟨6, 25, true, false, false, true⟩), (0x80000014, .hadmitU true), (0x80604005, .hdrop ⟨6, true⟩), (0x82600021, .hload ⟨6, false, 2⟩), (0x82604022, .hstore ⟨6, true, 2⟩), (0x826CA003, .hspill ⟨6, 25, false, true⟩), (0x82604004, .hfill ⟨6, true⟩), (0x82600005, .hwset ⟨6, false⟩), (0x82000156, .hzero 21), (0x82000027, .hhad 2)] := by
  refine ⟨?_, ?_, ?_, ?_, ?_, ?_, ?_, ?_, ?_, ?_, ?_, ?_, trivial⟩ <;> decide +kernel

theorem test_decode_hearth_2 : decodes .he [(0x82604028, .hsetk ⟨6, true, 2⟩), (0x84600001, .hmesh ⟨6, false⟩), (0x846CC002, .hcfg ⟨6, 25, true, false⟩), (0x84600003, .hbind ⟨6, false⟩), (0x846C8004, .hver ⟨6, 25, false⟩), (0x84600005, .hfreeze ⟨6, false⟩), (0x84604006, .hthaw ⟨6, true⟩), (0x84000007, .hdrain)] := by
  refine ⟨?_, ?_, ?_, ?_, ?_, ?_, ?_, ?_, trivial⟩ <;> decide +kernel

theorem test_decode_copy_1 : decodes .ce [(0x806CEE01, .ctpl ⟨6, 25, 55⟩), (0x806CF362, .cpy ⟨6, 25, 57, true, 3⟩), (0x806CFB63, .cpyx ⟨6, 25, 61, true, 3⟩), (0x806CFF64, .cpyt ⟨6, 25, 63, true, 3⟩), (0x806C8765, .cgath ⟨6, 25, 3, true, 3⟩), (0x806C8B66, .cscat ⟨6, 25, 5, true, 3⟩), (0x806C8167, .czero ⟨6, 25, true, 3⟩), (0x80600008, .cwaitCopy 6), (0x80000169, .cfence 3), (0x826CA361, .credF32 ⟨6, 25, 17, true, 3⟩), (0x826CAB62, .credBf16 ⟨6, 25, 21, true, 3⟩), (0x826CAF63, .credF32Det ⟨6, 25, 23, true, 3⟩)] := by
  refine ⟨?_, ?_, ?_, ?_, ?_, ?_, ?_, ?_, ?_, ?_, ?_, ?_, trivial⟩ <;> decide +kernel

theorem test_decode_copy_2 : decodes .ce [(0x826CB764, .credBf16Det ⟨6, 25, 27, true, 3⟩), (0x82600005, .crede 6)] := by
  refine ⟨?_, ?_, trivial⟩ <;> decide +kernel

theorem test_decode_steps :
    decodeStep (BitVec.ofNat 64 0x0600880100000004) = .ok (.send ⟨8, 2, 1, 1, 0, 0, 0, 4⟩) ∧
    decodeStep (BitVec.ofNat 64 0x0A40C00000000005) = .ok (.recv ⟨9, 3, 0, 0, 0, 0, 0, 5⟩) ∧
    decodeStep (BitVec.ofNat 64 0x0E41D00106000009) = .ok (.rrs ⟨9, 7, 2, 1, 6, 0, 0, 9⟩) ∧
    decodeStep (BitVec.ofNat 64 0x1200980102040007) = .ok (.copy ⟨8, 2, 3, 1, 2, 4, 0, 7⟩) ∧
    decodeStep (BitVec.ofNat 64 0x1601500203000000) = .ok (.wait ⟨8, 5, 2, 2, 3, 0, 0, 0⟩) ∧
    decodeStep (BitVec.ofNat 64 0x1840000000000002) = .ok (.loopb ⟨1, 0, 0, 0, 0, 0, 0, 2⟩) ∧
    decodeStep (BitVec.ofNat 64 0x1C40000000000000) = .ok (.loope ⟨1, 0, 0, 0, 0, 0, 0, 0⟩) ∧
    decodeStep (BitVec.ofNat 64 0x2100000000000011) = .ok (.peer ⟨4, 0, 0, 0, 0, 0, 0, 17⟩) ∧
    decodeStep (BitVec.ofNat 64 0x2601000000000006) = .ok (.sitadv ⟨8, 4, 0, 0, 0, 0, 0, 6⟩) ∧
    decodeStep (BitVec.ofNat 64 0x2800080300000006) = .ok (.sitret ⟨0, 0, 1, 3, 0, 0, 0, 6⟩) ∧
    decodeStep (BitVec.ofNat 64 0x2E01A00102030400) = .ok (.kout ⟨8, 6, 4, 1, 2, 3, 4, 0⟩) ∧
    decodeStep (BitVec.ofNat 64 0x3000000000000000) = .ok (.done ⟨0, 0, 0, 0, 0, 0, 0, 0⟩) := by
  refine ⟨?_, ?_, ?_, ?_, ?_, ?_, ?_, ?_, ?_, ?_, ?_, ?_⟩ <;> decide +kernel

/-! ## Worked examples of the spec, one step each -/

/-- s register n after the instruction; the pc moved by one word. -/
def sAfter (i : Instr) (s : State) (n : BitVec 5) : Option (Word × Word) := (nextOf (exec i s)).map (fun t => (t.cur.getS n, t.cur.pc))
/-- The values under way to registers after the instruction, each lands later (R34). -/
def underWay (i : Instr) (s : State) : Option (List Word) :=
  (nextOf (exec i s)).map (fun t => t.cur.pend.filterMap (fun q => match q.what with
    | .value v => some v
    | .held => none
    | .load _ _ _ => none
    | .atomic _ _ _ _ _ _ => none
    | .vload _ _ _ _ => none))
/-- The core with s1 and s2 given. -/
def two (x y : Word) : State := withS (withS (world .cc) 1 x) 2 y

/-- The division examples under R128. -/
theorem test_division : underWay (.div ⟨5, 1, 2, false, false⟩) (two (BitVec.ofInt 64 (-7)) 2) = some [BitVec.ofInt 64 (-3)] ∧
    underWay (.divn ⟨5, 1, 2, false, false⟩) (two 7 0) = some [0xFFFFFFFFFFFFFFFF] := by decide +kernel
theorem test_remainder : underWay (.rem ⟨5, 1, 2, false, false⟩) (two (BitVec.ofInt 64 (-7)) 2) = some [BitVec.ofInt 64 (-1)] ∧
    underWay (.remn ⟨5, 1, 2, false, false⟩) (two 7 0) = some [7] := by decide +kernel
/-- R128: modulo 2^64; the destination is a source too. -/
theorem test_add_wraps : sAfter (.add ⟨1, 1, 2, false, false⟩) (two 0xFFFFFFFFFFFFFFFF 2) 1 = some (1, 0x104) := by decide +kernel
/-- R128: the high half of a product of two negative numbers. -/
theorem test_mulh : underWay (.mulh ⟨5, 1, 2, false, false⟩) (two 0x8000000000000000 0x8000000000000000) = some [0x4000000000000000] ∧
    underWay (.mulhn ⟨5, 1, 2, false, false⟩) (two 0xFFFFFFFFFFFFFFFF 0xFFFFFFFFFFFFFFFF) = some [0xFFFFFFFFFFFFFFFE] := by decide +kernel
/-- R60: the immediate of ADDI is signed. -/
theorem test_addi : (sAfter (.addi ⟨5, 1, false, 0x3FFF⟩) (two 0 0) 5).map (·.1) = some 0xFFFFFFFFFFFFFFFF := by decide +kernel

/-- The region example under R16: nodes T, A and B. -/
def regions : State :=
  { State.reset with rcbs := [(0, rootRcb),
    (1, newNode (setField (setField (setField (setField (setField (setField (setField 0 34 32 1) 15 0 1) 191 176 16) 255 224 65536) 55 48 4) 35 35 1) 127 108 0x485) 0),
    (2, newNode (setField (setField (setField (setField (setField 0 34 32 2) 31 16 1) 15 0 2) 127 108 0x80) 191 176 8) 0),
    (3, newNode (setField (setField (setField 0 34 32 3) 31 16 2) 15 0 3) 0)] }
theorem test_region_example : regions.eff 3 .coresb = 8 ∧ regions.eff 3 .sramb = 65536 ∧ regions.eff 3 .share = 4 ∧ regions.eff 2 .share = 4 ∧
    regions.domainOf 3 = some 1 := by decide +kernel

/-- The stochastic rounding example under R107. -/
theorem test_stochastic_rounding : roundFmt .bf16 false (.num 513 (-9)) ⟨5, 0x9E3779B9, 0⟩ = (0x3F80, ⟨5, 0x510C4619, flNX⟩) ∧
    roundFmt .bf16 false (.num 2063 (-11)) ⟨5, 0x510C4619, 0⟩ = (0x3F81, ⟨5, 0xE02E553E, flNX⟩) := by decide +kernel
/-- The block examples under R114. -/
theorem test_block_example :
    quantise 4 ([.num 3 0, .num (-5) (-2), .num 0x666666 (-24)] ++ List.replicate 13 (.zero false)) rneEnv = (0x80, [6, -2, 1] ++ List.replicate 13 0, ⟨0, 0, flNX⟩) ∧
    (quantise 4 [.num (-4) 0] rneEnv).1 = 128 ∧ (quantise 4 [.num (-4) 0] rneEnv).2.1 = [-8] ∧
    (quantise 4 [.num 4 0] rneEnv).1 = 129 ∧ (quantise 4 [.num 4 0] rneEnv).2.1 = [4] := by decide +kernel
/-- The exact results named under R193: no NX. -/
theorem test_special_exact : (roundFmt .f32 false (fExp2 (.num 3 0)).1 rneEnv) = (0x41000000, rneEnv) ∧ (roundFmt .f32 false (fLog2 (.num 1 (-2))).1 rneEnv) = (0xC0000000, rneEnv) ∧
    (roundFmt .f32 false (fRcp (.num 1 2)).1 rneEnv) = (0x3E800000, rneEnv) := by decide +kernel

/-- A tile of FP32 elements. -/
def tileOf (es : List Nat) : Tile := BitVec.ofNat 16384 (leNat (es.flatMap (fun e => natBytes e 4)))
/-- The row of the rearrangement example: (3, −1, 0, 7, −2, 5, quiet NaN, 0) in v0, v9 zero. -/
def rowState (m0 : Nat) : State :=
  (world .ve).setCur (fun c => { c with
    vshape := 0x4101, v := (c.v.set 0 (tileOf [0x40400000, 0xBF800000, 0, 0x40E00000, 0xC0000000, 0x40A00000, 0x7FC00000, 0])).set 1
      (tileOf [0x40400000, 0x40E00000, 0x40A00000, 0, 0, 0, 0, 0]), m := c.m.set 0 (BitVec.ofNat 2048 m0) })
/-- VCMP.gt: mask 1, 0, 0, 1, 0, 1, 0, 0, and NV by the NaN. -/
theorem test_compare_example : (nextOf (exec (.vcmpGt ⟨0, 0, 9, 0, false, 0⟩) (rowState 0))).map (fun t => (t.cur.mask 0, fieldN t.cur.fcsr 8 4)) = some (0b00101001, 0b10000) := by
  decide +kernel
/-- VCOMPRESS under that mask: (3, 7, 5, 0, …), and the count 3. -/
theorem test_compress_example : (nextOf (exec (.vcompress ⟨1, 0, 2, 1, 0⟩) (rowState 0b00101001))).map (fun t =>
    (List.range 8).map (elemAt (t.cur.tile 1) 4)) = some [0x40400000, 0x40E00000, 0x40A00000, 0, 0, 0, 0, 0] ∧
    underWay (.vcompress ⟨1, 0, 2, 1, 0⟩) (rowState 0b00101001) = some [3] := by decide +kernel
/-- VROT by −1, and MPOP of the mask. -/
theorem test_rotate_example : (nextOf (exec (.vrot ⟨1, 1, 7, false, 0, false, 0⟩) (withS (rowState 0) 7 (BitVec.ofInt 64 (-1))))).map (fun t =>
    (List.range 8).map (elemAt (t.cur.tile 1) 4)) = some [0x40E00000, 0x40A00000, 0, 0, 0, 0, 0, 0x40400000] := by decide +kernel
theorem test_mpop_example : underWay (.mpop ⟨0, 4⟩) (rowState 0b00101001) = some [3] := by decide +kernel

/-- The bit-reversed example under R204: LEN 64, STEP 8. -/
theorem test_bit_reversed : (List.range 8).foldl (fun (l : List Word) _ => l ++ [postInc (l.getLastD 0) (BitVec.ofNat 64 (2 ^ 62 * 3 + 2 ^ 40 * 64 + 8)) 0x1000]) [0x1000] =
    [0, 4, 2, 6, 1, 5, 3, 7, 0].map (fun x => BitVec.ofNat 64 (0x1000 + 8 * x)) := by decide +kernel


end Sys2Proof.Tests
end

section
/-! PROOFS. Facts that several statements' proofs share: releases that owe nothing (R283, R290, R293), windows, records' fields as numbers,
tables, and the slot table entry's fields. -/
namespace Sys2Proof.Machine

/-- A wait before anything has changed. -/
theorem runAct_waitFor {a : Act Unit} {s : State} {w : WaitCond} (h : a s = .error (.wait w none)) : runAct a s = .next (s.enterWait w) := runAct_wait h
/-- A wait that keeps what has been done. -/
theorem runAct_waitKeep {a : Act Unit} {s t : State} {w : WaitCond} (h : a s = .error (.wait w (some t))) : runAct a s = .next (t.enterWait w) :=
  runAct_wait h

/-! ## A release that owes nothing -/

/-- With no dirty sector in the core's L1, nothing is written back. -/
theorem writebackCore_of_clean {s : State} {core : Nat} (h : s.l1.all (fun x => !(x.core = core && x.dirty)) = true) : s.writebackCore core = s := by
  have key : ∀ l : List L1Sector, (∀ x ∈ l, x.dirty = false) → l.foldl (fun t x => if t.mayWriteBack x then t.writeback x else t) s = s := by
    intro l hl
    induction l with
    | nil => rfl
    | cons x xs ih =>
      have hx : s.mayWriteBack x = false := by simp [State.mayWriteBack, hl x (by simp)]
      rw [List.foldl_cons, hx]
      exact ih fun y hy => hl y (List.mem_cons_of_mem _ hy)
  refine key _ fun x hx => ?_
  obtain ⟨hmem, hcore⟩ := List.mem_filter.1 hx
  have := List.all_eq_true.1 h x hmem
  simp_all

theorem released_of_noneDirty {s : State} (sc : Scope) (h : NoneDirty s) : s.released sc = s := by
  unfold State.released
  split
  · rename_i core hcore
    rw [writebackCore_of_clean (h core hcore), ite_self]
  · rfl

theorem releaseWriteback_eq (sc : Scope) (s : State) : releaseWriteback sc s = .ok ((), s.released sc) := by
  rw [releaseWriteback, act_bind_get, State.released]
  cases s.cur.core? with
  | none => rfl
  | some core =>
    dsimp only
    rw [act_ite]
    split <;> rfl

theorem awaitPublished_of_nothingOwed {s : State} {sc : Scope} (h : NothingOwed s sc) (keep : State → Nat → Bool) : awaitPublished sc keep s = .ok ((), s) := by
  obtain ⟨hdeps, hclean⟩ := h
  rw [awaitPublished, act_bind_ok (releaseWriteback_eq sc s), released_of_noneDirty sc hclean, act_bind_get, hdeps]
  rfl

theorem awaitRelease_of_nothingOwed {s : State} {sc : Scope} (h : NothingOwed s sc) (uo : Bool) : awaitRelease sc uo s = .ok ((), s) :=
  awaitPublished_of_nothingOwed h _

theorem awaitAcquire_of_noAcquire {s : State} (h : NoAcquire s) : awaitAcquire s = .ok ((), s) := by
  rw [awaitAcquire, act_bind_get, h]
  rfl

end Sys2Proof.Machine
end

section
/-! PROOFS. Fields of wide records (R12, R19, R325): bit by bit what `fieldN` reads and `setField` writes, and a record built up from its low
end as a sum. -/
namespace Sys2Proof.Machine

variable {n : Nat} (b : BitVec n) {hi lo hi' lo' : Nat} (v : Nat)

theorem testBit_fieldN (hi lo i : Nat) : (fieldN b hi lo).testBit i = (decide (i < hi + 1 - lo) && b.getLsbD (lo + i)) := by
  rw [fieldN, BitVec.testBit_toNat, BitVec.getLsbD_extractLsb']

theorem fieldN_lt (hi lo : Nat) : fieldN b hi lo < 2 ^ (hi + 1 - lo) := (b.extractLsb' lo (hi + 1 - lo)).isLt

/-- Bit i of a record with a field replaced. -/
theorem getLsbD_setField (hlo : lo ≤ hi) (hhi : hi < n) (i : Nat) :
    (setField b hi lo v).getLsbD i = if lo ≤ i ∧ i ≤ hi then v.testBit (i - lo) else b.getLsbD i := by
  have hmask : ((BitVec.allOnes n >>> (n - (hi + 1 - lo))) <<< lo).getLsbD i = decide (lo ≤ i ∧ i ≤ hi) := by
    rw [BitVec.getLsbD_shiftLeft, BitVec.getLsbD_ushiftRight, BitVec.getLsbD_allOnes]
    by_cases h : lo ≤ i ∧ i ≤ hi
    · simp only [h, and_self, decide_true, Bool.and_eq_true, Bool.not_eq_true', decide_eq_true_eq, decide_eq_false_iff_not]
      omega
    · simp only [h, decide_false, Bool.and_eq_false_iff, Bool.not_eq_false', decide_eq_true_eq, decide_eq_false_iff_not]
      omega
  simp only [setField, BitVec.getLsbD_or, BitVec.getLsbD_and, BitVec.getLsbD_not, hmask]
  by_cases h : lo ≤ i ∧ i ≤ hi
  · have hlt : i < n := by omega
    simp [h, hlt, BitVec.getElem_eq_testBit_toNat, show i - lo < n by omega]
  · by_cases hlt : i < n
    · simp [h, hlt]
    · simp [h, hlt, BitVec.getLsbD_of_ge b i (by omega)]

/-- A field reads as it was written. -/
theorem fieldN_setField_same (hlo : lo ≤ hi) (hhi : hi < n) : fieldN (setField b hi lo v) hi lo = v % 2 ^ (hi + 1 - lo) := by
  refine Nat.eq_of_testBit_eq fun i => ?_
  rw [testBit_fieldN, getLsbD_setField b v hlo hhi, Nat.testBit_mod_two_pow]
  by_cases h : i < hi + 1 - lo
  · rw [if_pos (by omega), Nat.add_sub_cancel_left]
  · simp [h]

/-- A field apart from the one written reads as before. -/
theorem fieldN_setField_ne (hlo : lo ≤ hi) (hhi : hi < n) (hd : hi' < lo ∨ hi < lo') : fieldN (setField b hi lo v) hi' lo' = fieldN b hi' lo' := by
  refine Nat.eq_of_testBit_eq fun i => ?_
  rw [testBit_fieldN, testBit_fieldN, getLsbD_setField b v hlo hhi]
  by_cases h : i < hi' + 1 - lo'
  · rw [if_neg (by omega)]
  · simp [h]

theorem getLsbD_setField_ne (hlo : lo ≤ hi) (hhi : hi < n) {i : Nat} (hd : i < lo ∨ hi < i) : (setField b hi lo v).getLsbD i = b.getLsbD i := by
  rw [getLsbD_setField b v hlo hhi, if_neg (by omega)]

/-- Bits apart from the field written read as before. -/
theorem extractLsb'_setField_ne (hlo : lo ≤ hi) (hhi : hi < n) {start len : Nat} (hd : start + len ≤ lo ∨ hi < start) :
    (setField b hi lo v).extractLsb' start len = b.extractLsb' start len := by
  refine BitVec.eq_of_getLsbD_eq fun i hi' => ?_
  rw [BitVec.getLsbD_extractLsb', BitVec.getLsbD_extractLsb', getLsbD_setField_ne b v hlo hhi (by omega)]

/-- A record built up from its low end: the next field adds its value at its place. -/
theorem toNat_setField_above (hlo : lo ≤ hi) (hhi : hi < n) (hb : b.toNat < 2 ^ lo) :
    (setField b hi lo v).toNat = b.toNat + 2 ^ lo * (v % 2 ^ (hi + 1 - lo)) := by
  rw [Nat.add_comm, Nat.two_pow_add_eq_or_of_lt hb]
  refine Nat.eq_of_testBit_eq fun i => ?_
  rw [BitVec.testBit_toNat, getLsbD_setField b v hlo hhi, Nat.testBit_or, Nat.testBit_two_pow_mul, Nat.testBit_mod_two_pow, BitVec.testBit_toNat]
  have hlow : lo ≤ i → b.getLsbD i = false := fun h => by
    rw [← BitVec.testBit_toNat]
    exact Nat.testBit_lt_two_pow (lt_of_lt_of_le hb (Nat.pow_le_pow_right (by omega) h))
  by_cases h : lo ≤ i
  · by_cases h2 : i ≤ hi
    · rw [if_pos ⟨h, h2⟩, hlow h]
      simp [h, show i - lo < hi + 1 - lo by omega]
    · rw [if_neg (by omega), hlow h]
      simp [show ¬ i - lo < hi + 1 - lo by omega]
  · rw [if_neg (by omega)]
    simp [h]

/-- Field [hi:lo] of a record, as division and remainder. -/
theorem fieldN_eq {n : Nat} (b : BitVec n) (hi lo : Nat) : fieldN b hi lo = b.toNat / 2 ^ lo % 2 ^ (hi + 1 - lo) := by
  rw [fieldN, BitVec.extractLsb'_toNat, Nat.shiftRight_eq_div_pow]

/-- A field of bits is 0. -/
theorem extractLsb'_eq_zero_iff {n : Nat} (b : BitVec n) (lo len : Nat) : b.extractLsb' lo len = 0 ↔ b.toNat / 2 ^ lo % 2 ^ len = 0 := by
  rw [← BitVec.toNat_inj, BitVec.extractLsb'_toNat, Nat.shiftRight_eq_div_pow]
  simp

end Sys2Proof.Machine
end

section
/-! PROOFS. What the shared operations leave unchanged. A lemma `f_but_x` says that the operation changes no field outside x: the two states agree
once x is blanked in both. -/
namespace Sys2Proof.Machine

/-- What every step of a fold keeps, the fold keeps. -/
theorem foldl_keeps {σ α β : Type} (g : σ → β) {f : σ → α → σ} (h : ∀ t x, g (f t x) = g t) (l : List α) (s : σ) : g (l.foldl f s) = g s := by
  induction l generalizing s with
  | nil => rfl
  | cons x xs ih => rw [List.foldl_cons, ih, h]

/-- The same where only the elements of the list matter. -/
theorem foldl_keeps_mem {σ α β : Type} (g : σ → β) {f : σ → α → σ} (l : List α) (h : ∀ t, ∀ x ∈ l, g (f t x) = g t) (s : σ) : g (l.foldl f s) = g s := by
  induction l generalizing s with
  | nil => rfl
  | cons x xs ih => rw [List.foldl_cons, ih fun t y hy => h t y (List.mem_cons_of_mem _ hy), h _ _ (by simp)]

/-- A fold that meets an element of key k: P holds until then, Q from then on. -/
theorem foldl_reaches {σ α : Type} {key : α → Nat} {f : σ → α → σ} {P Q : σ → Prop} {k : Nat} (hP : ∀ t x, key x ≠ k → P t → P (f t x))
    (hPQ : ∀ t x, key x = k → P t → Q (f t x)) (hQ : ∀ t x, Q t → Q (f t x)) (l : List α) (hk : k ∈ l.map key) {s : σ} (hs : P s) : Q (l.foldl f s) := by
  have hrest : ∀ (l : List α) (t : σ), Q t → Q (l.foldl f t) := by
    intro l
    induction l with
    | nil => exact fun t ht => ht
    | cons z rest ih => exact fun t ht => ih _ (hQ t z ht)
  induction l generalizing s with
  | nil => simp at hk
  | cons z rest ih =>
    by_cases hz : key z = k
    · exact hrest rest _ (hPQ s z hz hs)
    · exact ih (by simpa [Ne.symm hz] using hk) (hP s z hz hs)

/-- A fold whose every step keeps P. -/
theorem foldl_holds {σ α : Type} {f : σ → α → σ} {P : σ → Prop} (l : List α) (h : ∀ t, ∀ x ∈ l, P t → P (f t x)) {s : σ} (hs : P s) : P (l.foldl f s) := by
  induction l generalizing s with
  | nil => exact hs
  | cons z rest ih => exact ih (fun t x hx => h t x (List.mem_cons_of_mem _ hx)) (h s z (by simp) hs)

/-! ## Tables -/

/-- A table whose values are changed key by key. -/
theorem tbl_get_map {α β : Type} (t : Tbl α) (f : Nat → α → β) (k : Nat) : Tbl.get? (t.map (fun x => (x.1, f x.1 x.2))) k = (Tbl.get? t k).map (f k) := by
  induction t with
  | nil => rfl
  | cons e rest ih =>
    by_cases h : e.1 = k
    · subst h
      simp [Tbl.get?]
    · simp [Tbl.get?, h, ih]

/-- With distinct keys an entry of the table is what its key reads. -/
theorem tbl_get_of_mem {α : Type} {t : Tbl α} {k : Nat} {v : α} (hnd : (t.map (·.1)).Nodup) (h : (k, v) ∈ t) : Tbl.get? t k = some v := by
  induction t with
  | nil => simp at h
  | cons e rest ih =>
    obtain ⟨hnot, hrest⟩ := List.nodup_cons.1 hnd
    rcases List.mem_cons.1 h with h | h
    · subst h
      simp [Tbl.get?]
    · have hne : e.1 ≠ k := fun he => hnot (List.mem_map.2 ⟨(k, v), h, he.symm⟩)
      rw [Tbl.get?, if_neg hne, ih hrest h]

/-- A key of a table has an entry. -/
theorem tbl_get_of_key {α : Type} {t : Tbl α} {k : Nat} {v : α} (h : (k, v) ∈ t) : ∃ w, Tbl.get? t k = some w := by
  induction t with
  | nil => simp at h
  | cons e rest ih =>
    by_cases he : e.1 = k
    · exact ⟨e.2, by rw [Tbl.get?, if_pos he]⟩
    · rcases List.mem_cons.1 h with h | h
      · exact absurd (congrArg Prod.fst h).symm he
      · obtain ⟨w, hw⟩ := ih h
        exact ⟨w, by rw [Tbl.get?, if_neg he, hw]⟩

/-- An entry that a filter keeps is still the first of its key. -/
theorem tbl_get_filter {α : Type} {t : Tbl α} {k : Nat} {v : α} {p : Nat × α → Bool} (h : Tbl.get? t k = some v) (hp : p (k, v) = true) :
    Tbl.get? (t.filter p) k = some v := by
  induction t with
  | nil => simp at h
  | cons e rest ih =>
    obtain ⟨i, w⟩ := e
    by_cases hi : i = k
    · subst hi
      obtain rfl : w = v := by simpa [Tbl.get?] using h
      simp [hp, Tbl.get?]
    · have hrest : Tbl.get? rest k = some v := by simpa [Tbl.get?, hi] using h
      rw [List.filter_cons]
      split
      · simpa [Tbl.get?, hi] using ih hrest
      · exact ih hrest

/-! ## The contexts -/

def State.butCtxs (s : State) : State := { s with cur := Context.blank, parked := [] }

theorem setCtx_but_ctxs (s : State) (r : CtxRef) (f : Context → Context) : (s.setCtx r f).butCtxs = s.butCtxs := by
  unfold State.setCtx
  split <;> rfl

@[simp] theorem setCtx_rcbs (s : State) (r : CtxRef) (f : Context → Context) : (s.setCtx r f).rcbs = s.rcbs := (congrArg State.rcbs (setCtx_but_ctxs s r f) :)
@[simp] theorem setCtx_slots (s : State) (r : CtxRef) (f : Context → Context) : (s.setCtx r f).slots = s.slots := (congrArg State.slots (setCtx_but_ctxs s r f) :)

/-! ## Posting an event -/

def State.butPosted (s : State) : State := { s with cur := Context.blank, parked := [], lostEvents := [] }

theorem post_but_posted (s : State) (r : CtxRef) (f : FaultRec) : (s.post r f).butPosted = s.butPosted := by
  have hset : ∀ g, (s.setCtx r g).butPosted = s.butPosted := fun g => congrArg (fun t : State => { t with lostEvents := [] }) (setCtx_but_ctxs s r g)
  unfold State.post
  repeat' split
  · rfl
  · rfl
  · exact hset _
  · rfl
  · rfl

@[simp] theorem post_rcbs (s : State) (r : CtxRef) (f : FaultRec) : (s.post r f).rcbs = s.rcbs := (congrArg State.rcbs (post_but_posted s r f) :)

/-! ## Undo logging -/

def State.butUndo (s : State) : State := { s with cur := Context.blank, parked := [], lostEvents := [], slots := [], undo := [], undoSeq := 0 }

theorem logUndo_but_undo (s : State) (slot budget pa : Nat) (ckpt : Bool) : (s.logUndo slot budget pa ckpt).butUndo = s.butUndo := by
  unfold State.logUndo
  split
  · rfl
  · split
    · rfl
    · dsimp only
      split
      · rfl
      · split
        · exact (congrArg State.butUndo (post_but_posted _ _ _) :)
        · rfl

@[simp] theorem logUndo_rcbs (s : State) (slot budget pa : Nat) (ckpt : Bool) : (s.logUndo slot budget pa ckpt).rcbs = s.rcbs :=
  (congrArg State.rcbs (logUndo_but_undo s slot budget pa ckpt) :)

/-! ## Leases -/

def State.butHearths (s : State) : State := { s with hearths := [] }
def State.butLeases (s : State) : State := { s with hearths := [], leaseQ := [] }

theorem butLeases_of_butHearths {s t : State} (h : t.butHearths = s.butHearths) : t.butLeases = s.butLeases :=
  congrArg (fun u : State => { u with leaseQ := [] }) h

theorem grantLease_but_hearths (s : State) (slot : Nat) (grps : List Nat) : (s.grantLease slot grps).butHearths = s.butHearths := by
  unfold State.grantLease
  refine foldl_keeps State.butHearths (fun t g => ?_) grps s
  rfl

theorem dropLease_but_hearths (s : State) (grps : List Nat) : (s.dropLease grps).butHearths = s.butHearths := by
  unfold State.dropLease
  refine foldl_keeps State.butHearths (fun t g => ?_) grps s
  rfl

@[simp] theorem dropLease_leaseQ (s : State) (grps : List Nat) : (s.dropLease grps).leaseQ = s.leaseQ := (congrArg State.leaseQ (dropLease_but_hearths s grps) :)

theorem grantScan_but_leases (s : State) (kept l : List LeaseReq) : (s.grantScan kept l).butLeases = s.butLeases := by
  induction l generalizing s kept with
  | nil => rfl
  | cons r rest ih =>
    rw [State.grantScan]
    split
    · exact ih _ _
    · rw [ih, butLeases_of_butHearths (grantLease_but_hearths _ _ _)]

theorem grantLeases_but_leases (s : State) : s.grantLeases.butLeases = s.butLeases := grantScan_but_leases _ _ _

@[simp] theorem grantLeases_rcbs (s : State) : s.grantLeases.rcbs = s.rcbs := (congrArg State.rcbs (grantLeases_but_leases s) :)

/-! ## Entries -/

def State.butSlots (s : State) : State := { s with slots := [] }

theorem markContained_but_slots (s : State) (l : List Nat) : (s.markContained l).butSlots = s.butSlots := by
  refine foldl_keeps State.butSlots (fun t k => ?_) _ _
  repeat' split
  all_goals rfl

theorem writeKilling_but_slots (s : State) (k : Nat) (c : KillCause) : (s.writeKilling k c).butSlots = s.butSlots := by
  unfold State.writeKilling
  repeat' split
  all_goals rfl

theorem writeStopping_but_slots (s : State) (k : Nat) : (s.writeStopping k).butSlots = s.butSlots := by
  unfold State.writeStopping
  repeat' split
  all_goals rfl

@[simp] theorem markContained_rcbs (s : State) (l : List Nat) : (s.markContained l).rcbs = s.rcbs := (congrArg State.rcbs (markContained_but_slots s l) :)
@[simp] theorem writeKilling_rcbs (s : State) (k : Nat) (c : KillCause) : (s.writeKilling k c).rcbs = s.rcbs := (congrArg State.rcbs (writeKilling_but_slots s k c) :)
@[simp] theorem writeStopping_rcbs (s : State) (k : Nat) : (s.writeStopping k).rcbs = s.rcbs := (congrArg State.rcbs (writeStopping_but_slots s k) :)

/-! ## Replays -/

def State.butReplays (s : State) : State := { s with replays := [] }

theorem presented_but_replays (s : State) (vf kind : Nat) : (s.presented vf kind).butReplays = s.butReplays := by
  unfold State.presented
  repeat' split
  all_goals rfl

@[simp] theorem presented_rcbs (s : State) (vf kind : Nat) : (s.presented vf kind).rcbs = s.rcbs := (congrArg State.rcbs (presented_but_replays s vf kind) :)
@[simp] theorem presented_out (s : State) (vf kind : Nat) : (s.presented vf kind).out = s.out := (congrArg State.out (presented_but_replays s vf kind) :)
@[simp] theorem presented_cur (s : State) (vf kind : Nat) : (s.presented vf kind).cur = s.cur := (congrArg State.cur (presented_but_replays s vf kind) :)
@[simp] theorem presented_mem (s : State) (vf kind : Nat) : (s.presented vf kind).mem = s.mem := (congrArg State.mem (presented_but_replays s vf kind) :)
@[simp] theorem presented_devaddr (s : State) (vf kind : Nat) : (s.presented vf kind).devaddr = s.devaddr :=
  (congrArg State.devaddr (presented_but_replays s vf kind) :)
@[simp] theorem presented_dortas (s : State) (vf kind : Nat) : (s.presented vf kind).dortas = s.dortas :=
  (congrArg State.dortas (presented_but_replays s vf kind) :)

end Sys2Proof.Machine
end

section
/-! PROOFS. Loops and the register file (O4, O5): what the sequencer's operations answer, then the two statements. -/
namespace Sys2Proof.Machine

/-! ## The innermost loop -/

theorem innermost_cons {c : Context} {e : LoopEntry} {rest : List LoopEntry} (hl : c.loops = e :: rest) (hd : e.depth = c.hd) : c.innermost = some e := by
  simp [Context.innermost, hl, hd]

theorem loopBack_loops (c : Context) (n : Word) : (c.loopBack n).loops = (loopBackFrom c.hd c.loops n).1 := boundary_loops _ _
theorem loopBack_pc (c : Context) (n : Word) : (c.loopBack n).pc = (loopBackFrom c.hd c.loops n).2.1 := boundary_pc _ _

/-! ## R137: the loop-back, case by case -/

section LoopBackFrom
variable {hd : Bool} {e e2 : LoopEntry} {rest : List LoopEntry} (n : Word)

theorem loopBackFrom_iterates (hde : e.depth = hd) (hi : e.index + 1 < e.count) :
    loopBackFrom hd (e :: rest) n = ({ e with index := e.index + 1 } :: rest, e.start, true) := by
  simp [loopBackFrom, hde, hi]

theorem loopBackFrom_ends (hde : e.depth = hd) (hi : e.count ≤ e.index + 1) (hrest : ∀ x ∈ rest.head?, ¬(x.depth = hd ∧ x.stop = e.stop)) :
    loopBackFrom hd (e :: rest) n = (rest, e.stop + 4, false) := by
  have hi' : ¬ e.index + 1 < e.count := by omega
  cases rest with
  | nil => simp [loopBackFrom, hde, hi']
  | cons x xs => simp [loopBackFrom, hde, hi', hrest x (by simp)]

/-- Loops that share their last word: the end of the inner one is the end of an iteration of the outer. -/
theorem loopBackFrom_ends_shared (hde : e.depth = hd) (hi : e.count ≤ e.index + 1) (hd2 : e2.depth = hd) (hs : e2.stop = e.stop) :
    loopBackFrom hd (e :: e2 :: rest) n = loopBackFrom hd (e2 :: rest) (e.stop + 4) := by
  have hi' : ¬ e.index + 1 < e.count := by omega
  rw [loopBackFrom]
  simp [hde, hi', hd2, hs]

end LoopBackFrom

theorem nextSeq_inside {c : Context} {e : LoopEntry} (hin : c.innermost = some e) (hs : e.stop ≠ c.pc) : c.nextSeq = { c with pc := c.pc + 4 } := by
  simp [Context.nextSeq, hin, hs]

theorem nextSeq_at_end {c : Context} {e : LoopEntry} (hin : c.innermost = some e) (hs : e.stop = c.pc) : c.nextSeq = c.loopBack (c.pc + 4) := by
  simp [Context.nextSeq, hin, hs]

/-! ## R135: what a transfer pops -/

theorem jumpTo_pc (c : Context) (t : Word) : (c.jumpTo t).pc = t := boundary_pc _ _
theorem jumpTo_loops (c : Context) (t : Word) : (c.jumpTo t).loops = popOutside c.hd t c.loops := boundary_loops _ _

/-- The entries popped are of the depth and do not contain the target; the first kept one, if of the depth, contains it. -/
theorem popOutside_spec (hd : Bool) (t : Word) (l : List LoopEntry) :
    ∃ out, l = out ++ popOutside hd t l ∧ (∀ e ∈ out, e.depth = hd ∧ ¬(e.start.toNat ≤ t.toNat ∧ t.toNat ≤ e.stop.toNat)) ∧
      (∀ e ∈ (popOutside hd t l).head?, e.depth = hd → e.start.toNat ≤ t.toNat ∧ t.toNat ≤ e.stop.toNat) := by
  induction l with
  | nil => exact ⟨[], rfl, by simp, by simp [popOutside]⟩
  | cons e rest ih =>
    by_cases h : e.depth = hd ∧ ¬(e.start.toNat ≤ t.toNat ∧ t.toNat ≤ e.stop.toNat)
    · obtain ⟨out, hl, hout, hkept⟩ := ih
      have hpop : popOutside hd t (e :: rest) = popOutside hd t rest := by rw [popOutside, if_pos h]
      rw [hpop]
      exact ⟨e :: out, by rw [List.cons_append, ← hl], List.forall_mem_cons.2 ⟨h, hout⟩, hkept⟩
    · have hpop : popOutside hd t (e :: rest) = e :: rest := by rw [popOutside, if_neg h]
      rw [hpop]
      exact ⟨[], rfl, by simp, fun x hx hdx => by
        obtain rfl : e = x := by simpa using hx
        exact not_not.1 fun hn => h ⟨hdx, hn⟩⟩

/-! ## R136: LOOP and LOOPI -/

theorem loopForm_pushes {n : Nat} {endw : BitVec 12} {stg : BitVec 2} {s : State} (hn : 1 ≤ n) (hl : s.cur.loops.length ≤ 5) :
    loopForm n endw stg s = .ok ((), s.setCur (fun c => { c with
      loops := ⟨n + stg.toNat, 0, s.cur.pc + 4, s.cur.pc + 4 * endw.setWidth 64, stg.toNat, c.hd⟩ :: c.loops, pc := s.cur.pc + 4 })) := by
  have h6 : decide (6 ≤ s.cur.loops.length) = false := by simp; omega
  rw [loopForm, act_bind_get, if_neg (by omega : n ≠ 0), act_bind_raiseIf h6]
  rfl

theorem loopForm_full {n : Nat} {endw : BitVec 12} {stg : BitVec 2} {s : State} (hn : 1 ≤ n) (hl : 6 ≤ s.cur.loops.length) :
    loopForm n endw stg s = .error (.raise ⟨Code.illegalOp, 1, 0, false⟩) := by
  rw [loopForm, act_bind_get, if_neg (by omega : n ≠ 0), act_bind_raiseIf_stop (by simpa using hl)]

/-- The context after a loop of no trip whose body ends at `stop`. -/
def Context.skipLoop (stop : Word) (c : Context) : Context :=
  match c.innermost with
  | some e => if e.stop = stop then c.loopBack (stop + 4) else { c with pc := stop + 4 }
  | none => { c with pc := stop + 4, sinceBoundary := 0 }

section SkipLoop
variable {c : Context} {stop : Word}

theorem skipLoop_inside {e : LoopEntry} (hin : c.innermost = some e) (hne : e.stop ≠ stop) : c.skipLoop stop = { c with pc := stop + 4 } := by
  rw [Context.skipLoop, hin]
  exact if_neg hne
theorem skipLoop_at_end {e : LoopEntry} (hin : c.innermost = some e) (he : e.stop = stop) : c.skipLoop stop = c.loopBack (stop + 4) := by
  rw [Context.skipLoop, hin]
  exact if_pos he
theorem skipLoop_outside (hin : c.innermost = none) : c.skipLoop stop = { c with pc := stop + 4, sinceBoundary := 0 } := by
  rw [Context.skipLoop, hin]

end SkipLoop

theorem loopForm_skips {endw : BitVec 12} {stg : BitVec 2} {s : State} :
    loopForm 0 endw stg s = .ok ((), s.setCur (Context.skipLoop (s.cur.pc + 4 * endw.setWidth 64))) := by
  rw [loopForm, act_bind_get]
  unfold State.setCur Context.skipLoop
  cases hin : s.cur.innermost with
  | none => rfl
  | some e =>
    dsimp only
    rw [if_pos rfl]
    split <;> rfl

theorem onlyCur_setCur (s : State) (f : Context → Context) : OnlyCur s (s.setCur f) := rfl

/-- LOOP and LOOPI are `loopForm` of the trip count they read. -/
theorem exec_loop_or_loopi {s : State} {n : Nat} {endw : BitVec 12} {stg : BitVec 2} {i : Instr}
    (h : (∃ o : LoopReg, i = .loop o ∧ s.cur.isFull o.s = true ∧ n = (s.cur.getS o.s).toNat ∧ o.endw = endw ∧ o.stg = stg) ∨
      (∃ o : LoopImm, i = .loopi o ∧ n = o.n.toNat ∧ o.endw = endw ∧ o.stg = stg)) : exec i s = runAct (loopForm n endw stg) s := by
  obtain ⟨o, rfl, hf, rfl, rfl, rfl⟩ | ⟨o, rfl, rfl, rfl, rfl⟩ := h
  · show runAct _ s = _
    unfold runAct
    rw [act_bind_readSrc hf]
  · rfl

/-! ## R139: LBRK -/

/-- The context after LBRK leaves its innermost loop. -/
def Context.breakLoop (c : Context) (e : LoopEntry) : Context :=
  let c' := { c with loops := { e with index := e.count } :: c.loops.drop 1 }
  let c'' := c'.loopBack (e.stop + 4)
  { c'' with loops := popOutside c.hd c''.pc c''.loops }

theorem exec_lbrk_stays {p : BitVec 5} {s : State} (hp : s.cur.getP p = false) : exec (.lbrk p) s = .next s.goOn :=
  runAct_ok (by rw [hp]; rfl)

theorem exec_lbrk_no_loop {p : BitVec 5} {s : State} (hp : s.cur.getP p = true) (hin : s.cur.innermost = none) :
    exec (.lbrk p) s = .next (s.takeFault s.cur.ref ⟨0x01, 7, 0, false⟩ s.cur.pc) :=
  runAct_raise (by rw [hp, hin]; rfl)

theorem exec_lbrk_leaves {p : BitVec 5} {s : State} {e : LoopEntry} (hp : s.cur.getP p = true) (hin : s.cur.innermost = some e) :
    exec (.lbrk p) s = .next (s.setCur (fun c => c.breakLoop e)) :=
  runAct_ok (by rw [hp, hin]; rfl)

theorem breakLoop_pc (c : Context) (e : LoopEntry) :
    (c.breakLoop e).pc = (loopBackFrom c.hd ({ e with index := e.count } :: c.loops.drop 1) (e.stop + 4)).2.1 := loopBack_pc _ _
theorem breakLoop_loops (c : Context) (e : LoopEntry) : (c.breakLoop e).loops =
    popOutside c.hd (c.breakLoop e).pc (loopBackFrom c.hd ({ e with index := e.count } :: c.loops.drop 1) (e.stop + 4)).1 :=
  congrArg (popOutside _ _) (loopBack_loops _ _)

theorem breakLoop_spec {c : Context} {e : LoopEntry} {rest : List LoopEntry} (hl : c.loops = e :: rest) (hd : e.depth = c.hd)
    (hrest : ∀ x ∈ rest.head?, ¬(x.depth = c.hd ∧ x.stop = e.stop)) :
    (c.breakLoop e).pc = e.stop + 4 ∧ (c.breakLoop e).loops = popOutside c.hd (e.stop + 4) rest := by
  have hback : loopBackFrom c.hd ({ e with index := e.count } :: rest) (e.stop + 4) = (rest, e.stop + 4, false) :=
    loopBackFrom_ends _ hd (by simp) hrest
  have hpc : (c.breakLoop e).pc = e.stop + 4 := by
    rw [breakLoop_pc, hl, List.drop_one, List.tail_cons, hback]
  refine ⟨hpc, ?_⟩
  rw [breakLoop_loops, hpc, hl, List.drop_one, List.tail_cons, hback]

/-! ## R138: staged predicates -/

section Staged
variable {c : Context} {e : LoopEntry} {k : Nat} (hfind : (c.activeLoops.find? (fun x => decide (1 ≤ x.stages))) = some e) (h3 : e.stages ≤ 3) (hk : k ≤ e.stages)
include hfind h3 hk

theorem staged_drives : c.drives (BitVec.ofNat 5 (4 + k)) = true := by
  have hn : (BitVec.ofNat 5 (4 + k)).toNat = 4 + k := by rw [BitVec.toNat_ofNat]; omega
  rw [Context.drives, hfind]
  simp only [hn, decide_eq_true_eq]
  omega

theorem staged_getP : c.getP (BitVec.ofNat 5 (4 + k)) = decide (k ≤ e.index ∧ e.index - k < e.count - e.stages) := by
  have hn : (BitVec.ofNat 5 (4 + k)).toNat = 4 + k := by rw [BitVec.toNat_ofNat]; omega
  have h0 : BitVec.ofNat 5 (4 + k) ≠ 0 := fun h => by
    have : (BitVec.ofNat 5 (4 + k)).toNat = 0 := by rw [h]; rfl
    omega
  rw [Context.getP, if_neg h0, hfind]
  simp only [hn]
  rw [if_pos (by omega), show 4 + k - 4 = k by omega]

end Staged

theorem putP_driven {c : Context} {n : BitVec 5} (h : c.drives n = true) (b : Bool) : c.putP n b = c := by
  rw [Context.putP, if_pos (Or.inr h)]

/-- Settles O4, part by part: the loop-back by the cases of `loopBackFrom`, R135 by induction on the loop stack. -/
theorem loopControl : Obligations.LoopControl := by
  refine ⟨fun s n endw stg i hi => ?_, fun c e rest hl hd => ?_, fun p s => ?_, fun c t => ?_, fun c e k hfind h3 hk => ?_⟩
  · rw [exec_loop_or_loopi hi]
    refine ⟨fun hn hl => runAct_ok (loopForm_pushes hn hl), fun hn hl => runAct_raise (loopForm_full hn hl), ?_⟩
    rintro rfl
    refine ⟨_, runAct_ok loopForm_skips, onlyCur_setCur _ _, fun e hin hne => ?_, fun hin => ?_, fun e hin he => ?_⟩
    · rw [setCur_cur, skipLoop_inside hin hne]
      exact ⟨rfl, rfl⟩
    · rw [setCur_cur, skipLoop_outside hin]
      exact ⟨rfl, rfl⟩
    · rw [State.setCur, skipLoop_at_end hin he]
      rfl
  · have hin := innermost_cons hl hd
    refine ⟨fun hne => by simp [nextSeq_inside hin hne], fun he hi => ?_, fun he hi hrest => ?_, fun e2 rest2 he hi hr hd2 hs hi2 => ?_⟩
    · have hback := loopBackFrom_iterates (rest := rest) (c.pc + 4) hd hi
      rw [nextSeq_at_end hin he, loopBack_pc, loopBack_loops, hl, hback]
      refine ⟨rfl, rfl, ?_⟩
      rw [Context.loopBack, hl, hback]
      rfl
    · rw [nextSeq_at_end hin he, loopBack_pc, loopBack_loops, hl, loopBackFrom_ends _ hd hi hrest]
      exact ⟨rfl, rfl⟩
    · rw [nextSeq_at_end hin he, loopBack_pc, loopBack_loops, hl, hr, loopBackFrom_ends_shared _ hd hi hd2 hs, loopBackFrom_iterates _ hd2 hi2]
      exact ⟨rfl, rfl⟩
  · refine ⟨exec_lbrk_stays, exec_lbrk_no_loop, fun e rest hp hl hd hrest => ?_⟩
    exact ⟨_, exec_lbrk_leaves hp (innermost_cons hl hd), onlyCur_setCur _ _, breakLoop_spec hl hd hrest⟩
  · rw [jumpTo_loops]
    exact ⟨jumpTo_pc c t, popOutside_spec c.hd t c.loops⟩
  · exact ⟨staged_getP hfind h3 hk, putP_driven (staged_drives hfind h3 hk)⟩

end Sys2Proof.Machine
end

section
/-! PROOFS. The register file (O5): registers and predicates that read as constants, a written register, and how an R-format instruction
begins. -/
namespace Sys2Proof.Machine

/-! ## Scalar registers and predicates -/

@[simp] theorem getP_zero (c : Context) : c.getP 0 = true := by simp [Context.getP]
@[simp] theorem putP_zero (c : Context) (b : Bool) : c.putP 0 b = c := by simp [Context.putP]

section PutS
variable (c : Context) {d : BitVec 5} (v : Word)

theorem getS_putS_same (hd : d ≠ 0) : (c.putS d v).getS d = v := by
  simp only [Context.putS, Context.getS, if_neg hd]
  exact Vector.getElem_set_self _

theorem getS_putS_ne {n : BitVec 5} (hn : n ≠ d) : (c.putS d v).getS n = c.getS n := by
  have hne : d.toNat ≠ n.toNat := fun h => hn (BitVec.eq_of_toNat_eq h.symm)
  by_cases hd : d = 0
  · simp [Context.putS, hd]
  · by_cases h0 : n = 0
    · simp [Context.getS, h0]
    · simp only [Context.putS, Context.getS, if_neg hd, if_neg h0]
      exact Vector.getElem_set_ne _ _ hne

theorem isFull_putS_same (hd : d ≠ 0) : (c.putS d v).isFull d = true := by
  have hlt : d.toNat < 32 := d.isLt
  simp only [Context.putS, Context.isFull, if_neg hd]
  simp [hlt]

theorem isFull_putS_ne {n : BitVec 5} (hn : n ≠ d) : (c.putS d v).isFull n = c.isFull n := by
  have hne : d.toNat ≠ n.toNat := fun h => hn (BitVec.eq_of_toNat_eq h.symm)
  by_cases hd : d = 0
  · simp [Context.putS, hd]
  · have hbit : (1#32 <<< d.toNat).getLsbD n.toNat = false := by
      rw [BitVec.getLsbD_shiftLeft, BitVec.getLsbD_one]
      simp only [Bool.and_eq_false_iff, Bool.not_eq_false', decide_eq_true_eq, decide_eq_false_iff_not]
      omega
    simp only [Context.putS, Context.isFull, if_neg hd, BitVec.getLsbD_or, hbit, Bool.or_false]

end PutS

/-! ## How an R-format instruction begins (R34, R35) -/

/-- The R-format instructions of major 0x00 with a destination and two sources. -/
def rFormatOps (o : RRR) : List Instr :=
  [Instr.add o, .sub o, .mul o, .mulh o, .mulhn o, .div o, .divn o, .rem o, .remn o, .and o, .or o, .xor o, .sll o, .srl o, .sra o,
    .min o, .max o, .minn o, .maxn o, .slt o, .sltn o]

/-- Each of them tests its destination, then reads its first source. -/
theorem exec_rFormat {o : RRR} {i : Instr} (hi : i ∈ rFormatOps o) (s : State) :
    ∃ rest : Word → Act Unit, exec i s = runAct (destReady o.d >>= fun _ => readSrc o.a o.qa >>= rest) s := by
  simp only [rFormatOps, List.mem_cons, List.not_mem_nil, or_false] at hi
  rcases hi with rfl | rfl | rfl | rfl | rfl | rfl | rfl | rfl | rfl | rfl | rfl | rfl | rfl | rfl | rfl | rfl | rfl | rfl | rfl | rfl | rfl <;>
    exact ⟨_, rfl⟩

section RFormat
variable {o : RRR} {i : Instr} (hi : i ∈ rFormatOps o) {s : State}
include hi

theorem exec_rFormat_dest_empty (hd : s.cur.isFull o.d = false) : exec i s = .next (s.enterWait (.full o.d)) := by
  obtain ⟨rest, hrun⟩ := exec_rFormat hi s
  rw [hrun, runAct_wait (act_bind_error (destReady_empty hd))]
  rfl

theorem exec_rFormat_source_waits (hd : s.cur.isFull o.d = true) (ha : s.cur.isFull o.a = false) (hq : o.qa = false) :
    exec i s = .next (s.enterWait (.full o.a)) := by
  obtain ⟨rest, hrun⟩ := exec_rFormat hi s
  rw [hrun, hq, runAct_wait (by rw [act_bind_destReady hd]; exact act_bind_error (readSrc_empty_wait ha))]
  rfl

theorem exec_rFormat_source_traps (hd : s.cur.isFull o.d = true) (ha : s.cur.isFull o.a = false) (hq : o.qa = true) :
    exec i s = .next (s.takeFault s.cur.ref ⟨Code.regEmpty, 0, 0, false⟩ s.cur.pc) := by
  obtain ⟨rest, hrun⟩ := exec_rFormat hi s
  rw [hrun, hq, runAct_raise (by rw [act_bind_destReady hd]; exact act_bind_error (readSrc_empty_trap ha))]

end RFormat

/-- Settles O5: reads after writes by the register's number, and the waits by how an R-format instruction begins. -/
theorem registerFile : Obligations.RegisterFile := by
  refine ⟨fun c v b => ?_, fun c d v hd => ?_, fun o s hd ha i hi => ?_, fun o s hd i hi => exec_rFormat_dest_empty hi hd⟩
  · exact ⟨getS_zero c, isFull_zero c, putS_zero c v, getP_zero c, putP_zero c b⟩
  · exact ⟨getS_putS_same c v hd, isFull_putS_same c v hd, fun n hn => ⟨getS_putS_ne c v hn, isFull_putS_ne c v hn⟩⟩
  · exact ⟨exec_rFormat_source_waits hi hd ha, exec_rFormat_source_traps hi hd ha⟩

end Sys2Proof.Machine
end

section
/-! PROOFS. Rendezvous points (O15): the effects that RDV, RDVA and RDVE share, then each instruction. -/
namespace Sys2Proof.Machine

theorem relocate_within {w : Word} {i : BitVec 8} (h : i.toNat < fieldN w 40 32) (s : State) : relocate w i s = .ok (fieldN w 15 0 + i.toNat, s) := by
  rw [relocate, if_pos h]
  rfl

theorem rdvOf_named {s : State} {i : BitVec 8} {g r : Nat} (h : RdvNamed s i g r) : rdvOf i s = .ok ((g, r), s) := by
  obtain ⟨hi, rfl, rfl⟩ := h
  rw [rdvOf, act_bind_get, act_bind_ok (relocate_within hi s)]
  rfl

/-- A point reads as the update left it. -/
theorem rdv_setRdv (s : State) (g r num : Nat) (p : Rdv) : (s.setRdv g r num p).rdv g r = { p.settle with at_ := s.cycle + 1, by_ := num } := by
  simp [State.rdv, State.setRdv]

/-- One more arrival at a point. -/
def Rdv.arrive (p : Rdv) : Rdv := { p with arr := p.arr + 1 }

theorem settle_completes {p : Rdv} (h : p.arr + 1 = p.exp) (h1 : 1 ≤ p.exp) : p.arrive.settle.phase = p.phase + 1 := by
  rw [Rdv.settle, if_pos ⟨h, h1⟩]
  rfl
theorem settle_goes_on {p : Rdv} (h : p.arr + 1 ≠ p.exp) : p.arrive.settle.phase = p.phase := by
  rw [Rdv.settle, if_neg fun hp => h hp.1]
  rfl

theorem rdvTurn_now {s : State} {g r : Nat} (h : RdvTurn s (s.rdv g r)) : rdvTurn g r s = .ok ((), s) := by
  have hb : ((s.rdv g r).at_ = s.cycle + 1 && decide (s.cur.num < (s.rdv g r).by_)) = false := by
    simpa [RdvTurn, Bool.and_eq_false_iff, imp_iff_not_or] using h
  rw [rdvTurn, act_bind_get]
  simp only [hb]
  rfl

theorem rdvTurn_later {s : State} {g r : Nat} (h : ¬RdvTurn s (s.rdv g r)) : rdvTurn g r s = .error (.wait (.cycleAfter s.cycle) none) := by
  have hb : ((s.rdv g r).at_ = s.cycle + 1 && decide (s.cur.num < (s.rdv g r).by_)) = true := by simpa [RdvTurn] using h
  rw [rdvTurn, act_bind_get]
  simp only [hb]
  rfl

section Point
variable {i : BitVec 8} {s : State} {g r : Nat} (hnamed : RdvNamed s i g r)
include hnamed

theorem exec_rdva_arrives (hexp : 1 ≤ (s.rdv g r).exp) (howed : NothingOwed s .dev) (hturn : RdvTurn s (s.rdv g r)) :
    exec (.rdva i) s = .next (s.rdvSet g r (s.rdv g r).arrive).goOn := by
  refine runAct_ok ?_
  rw [act_bind_ok (rdvOf_named hnamed)]
  dsimp only
  rw [act_bind_get, act_bind_raiseIf (by simp; omega), act_bind_ok (awaitRelease_of_nothingOwed howed true),
    act_bind_ok (rdvTurn_now hturn)]
  rfl

theorem exec_rdva_later (hexp : 1 ≤ (s.rdv g r).exp) (howed : NothingOwed s .dev) (hturn : ¬RdvTurn s (s.rdv g r)) :
    exec (.rdva i) s = .next (s.enterWait (.cycleAfter s.cycle)) := by
  refine runAct_waitFor ?_
  rw [act_bind_ok (rdvOf_named hnamed)]
  dsimp only
  rw [act_bind_get, act_bind_raiseIf (by simp; omega), act_bind_ok (awaitRelease_of_nothingOwed howed true),
    act_bind_error (rdvTurn_later hturn)]

theorem exec_rdva_unused (hexp : (s.rdv g r).exp = 0) : exec (.rdva i) s = .next (s.takeFault s.cur.ref ⟨0x01, 8, 0, false⟩ s.cur.pc) := by
  refine runAct_raise ?_
  rw [act_bind_ok (rdvOf_named hnamed)]
  dsimp only
  rw [act_bind_get, act_bind_raiseIf_stop (by simp [hexp])]

/-- What is left of an RDV that has made its arrival in phase `ph`. -/
def afterArrival (g r : Nat) (ph : BitVec 16) : Act Unit := do
  let s ← get
  if (s.rdv g r).phase = ph then waitKeep (.phaseNot g r ph) else execRdv.finish

/-- The state in which an RDV has made its arrival. -/
def State.rdvArrived (s : State) (g r : Nat) : State :=
  (s.rdvSet g r (s.rdv g r).arrive).setCur (fun c => { c with arrived := some (c.pc, (s.rdv g r).phase) })

omit hnamed in
theorem rdvArrived_phase : ((s.rdvArrived g r).rdv g r).phase = (s.rdv g r).arrive.settle.phase := by
  show ((s.setRdv g r s.cur.num _).rdv g r).phase = _
  rw [rdv_setRdv]

/-- An RDV in its turn makes its arrival; what is left looks at the phase. -/
theorem exec_rdv_arrives (hexp : 1 ≤ (s.rdv g r).exp) (howed : NothingOwed s .dev) (hturn : RdvTurn s (s.rdv g r)) (harr : s.cur.arrived = none) :
    ∃ a : Act Unit, exec (.rdv i) s = runAct a s ∧ a s = afterArrival g r (s.rdv g r).phase (s.rdvArrived g r) := by
  refine ⟨_, rfl, ?_⟩
  rw [act_bind_ok (rdvOf_named hnamed)]
  dsimp only
  rw [act_bind_get]
  simp only [harr, Option.filter_none]
  rw [act_bind_raiseIf (by simp; omega), act_bind_ok (awaitRelease_of_nothingOwed howed true), act_bind_ok (rdvTurn_now hturn)]
  rfl

theorem exec_rdv_completes (hexp : 1 ≤ (s.rdv g r).exp) (howed : NothingOwed s .dev) (hturn : RdvTurn s (s.rdv g r)) (harr : s.cur.arrived = none)
    (hlast : (s.rdv g r).arr + 1 = (s.rdv g r).exp) :
    exec (.rdv i) s = .next ((s.rdvSet g r (s.rdv g r).arrive).orderPoint s.cur true).goOn := by
  obtain ⟨a, hrun, ha⟩ := exec_rdv_arrives hnamed hexp howed hturn harr
  have hphase : ((s.rdvArrived g r).rdv g r).phase ≠ (s.rdv g r).phase := by
    rw [rdvArrived_phase, settle_completes hlast hexp]
    simp
  rw [hrun, runAct_ok]
  rw [ha, afterArrival, act_bind_get, if_neg hphase]
  have hcur : ({ s.cur with arrived := none } : Context) = s.cur := by rw [← harr]
  have hback : (s.rdvArrived g r).setCur (fun c => { c with arrived := none }) = s.rdvSet g r (s.rdv g r).arrive :=
    congrArg (fun c => ({ s.rdvSet g r (s.rdv g r).arrive with cur := c } : State)) hcur
  rw [execRdv.finish, act_bind_modCur, hback]
  rfl

theorem exec_rdv_waits (hexp : 1 ≤ (s.rdv g r).exp) (howed : NothingOwed s .dev) (hturn : RdvTurn s (s.rdv g r)) (harr : s.cur.arrived = none)
    (hlast : (s.rdv g r).arr + 1 ≠ (s.rdv g r).exp) :
    exec (.rdv i) s = .next ((s.rdvArrived g r).enterWait (.phaseNot g r (s.rdv g r).phase)) := by
  obtain ⟨a, hrun, ha⟩ := exec_rdv_arrives hnamed hexp howed hturn harr
  have hphase : ((s.rdvArrived g r).rdv g r).phase = (s.rdv g r).phase := by
    rw [rdvArrived_phase, settle_goes_on hlast]
  rw [hrun]
  refine runAct_waitKeep ?_
  rw [ha, afterArrival, act_bind_get, if_pos hphase]
  rfl

end Point

section Expected
variable {o : ObjA} {s : State} {g r : Nat} (hnamed : RdvNamed s o.t g r) (hfull : s.cur.isFull o.a = true)
include hnamed hfull

theorem exec_rdve_sets {e : Int} (he : e = (s.rdv g r).exp + (s.cur.getS o.a).toInt) (hok : 0 ≤ e ∧ e ≤ 65535 ∧ (s.rdv g r).arr ≤ e)
    (hturn : RdvTurn s (s.rdv g r)) : exec (.rdve o) s = .next (s.rdvSet g r { s.rdv g r with exp := e.toNat }).goOn := by
  subst he
  refine runAct_ok ?_
  rw [act_bind_readSrc hfull, act_bind_ok (rdvOf_named hnamed)]
  dsimp only
  rw [act_bind_get, act_bind_raiseIf (by simp; omega), act_bind_ok (rdvTurn_now hturn)]
  rfl

theorem exec_rdve_refused (hbad : ¬(0 ≤ (s.rdv g r).exp + (s.cur.getS o.a).toInt ∧ (s.rdv g r).exp + (s.cur.getS o.a).toInt ≤ 65535 ∧
      (s.rdv g r).arr ≤ (s.rdv g r).exp + (s.cur.getS o.a).toInt)) :
    exec (.rdve o) s = .next (s.takeFault s.cur.ref ⟨0x01, 8, 0, false⟩ s.cur.pc) := by
  refine runAct_raise ?_
  rw [act_bind_readSrc hfull, act_bind_ok (rdvOf_named hnamed)]
  dsimp only
  rw [act_bind_get, act_bind_raiseIf_stop (by simp; omega)]

end Expected

/-- Settles O15, one lemma for each outcome of RDVA, RDV and RDVE. -/
theorem rendezvous : Obligations.Rendezvous := by
  intro i s g r hnamed
  refine ⟨exec_rdva_arrives hnamed, exec_rdv_completes hnamed, exec_rdv_waits hnamed, ?_, exec_rdva_later hnamed, exec_rdva_unused hnamed⟩
  rintro o rfl hfull
  exact ⟨exec_rdve_sets hnamed hfull rfl, exec_rdve_refused hnamed hfull⟩

end Sys2Proof.Machine
end

section
/-! PROOFS. SYSR (O13): how it runs for each group of registers, and what the indices read. -/
namespace Sys2Proof.Machine

/-! ## A result of a latency class -/

/-- The state in which v is outstanding for d (R34, R79, R80); `lateDone` without its next word. -/
def State.lateResult (s : State) (d : BitVec 5) (cls own : Nat) (v : Word) : State :=
  if d = 0 then s
  else
    { (s.setCur (fun c => ({ c with pend := c.pend ++ [⟨s.nextId, .s d, s.cycle + s.latency cls own, .value v, none⟩] } : Context).empty d)) with
      nextId := s.nextId + 1 }

theorem writeSLate_eq (d : BitVec 5) (cls own : Nat) (v : Word) (s : State) : writeSLate d cls own v s = .ok ((), s.lateResult d cls own v) := by
  rw [writeSLate, act_ite, State.lateResult]
  split <;> rfl

section Late
variable (s : State) (d : BitVec 5) (cls own : Nat) (v : Word)

theorem lateDone_eq_goOn : s.lateDone d cls own v = (s.lateResult d cls own v).goOn := by
  rw [State.lateDone, State.lateResult]
  split <;> rfl
@[simp] theorem lateResult_replays : (s.lateResult d cls own v).replays = s.replays := by unfold State.lateResult; split <;> rfl
@[simp] theorem lateResult_dortas : (s.lateResult d cls own v).dortas = s.dortas := by unfold State.lateResult; split <;> rfl
@[simp] theorem lateResult_slots : (s.lateResult d cls own v).slots = s.slots := by unfold State.lateResult; split <;> rfl
@[simp] theorem lateResult_cur_slot : (s.lateResult d cls own v).cur.slot = s.cur.slot := by
  unfold State.lateResult
  split
  · rfl
  · exact empty_slot _ _

theorem lateResult_vfOf : (s.lateResult d cls own v).vfOf (s.lateResult d cls own v).cur.slot = s.vfOf s.cur.slot := by simp [State.vfOf]

/-- The replays do not matter for what becomes outstanding. -/
theorem lateResult_with_replays (r : Tbl Replay) : ({ s.lateResult d cls own v with replays := r } : State) = ({ s with replays := r } : State).lateResult d cls own v := by
  rw [State.lateResult, State.lateResult]
  split <;> rfl

end Late

/-! ## Capture and replay (R404, R405) -/

section Capture
variable {s : State} {vf kind : Nat} (hcap : Tbl.get? s.dortas.captures vf = none)
include hcap

/-- Without a capture, only a replay moves on. -/
theorem capture_uncaptured : s.capture vf kind = s.presented vf kind := by
  rw [State.capture]
  dsimp only
  rw [presented_dortas, hcap]

theorem capture_without_replay (hrep : Tbl.get? s.replays vf = none) : s.capture vf kind = s := by
  rw [capture_uncaptured hcap, State.presented, hrep]

theorem capture_in_replay {r : Replay} {e : Captured} {rest : List Captured} (hrep : Tbl.get? s.replays vf = some r) (hev : r.events = e :: rest)
    (hk : e.kind = kind) : s.capture vf kind = { s with replays := Tbl.set s.replays vf { r with events := rest } } := by
  rw [capture_uncaptured hcap, State.presented, hrep]
  simp [hev, hk]

end Capture

theorem awaitPresented_shown {s : State} {kind a b : Nat} (h : s.presents (s.vfOf s.cur.slot) kind a b = true) :
    awaitPresented kind a b s = .ok ((), s) := by
  rw [awaitPresented, act_bind_get, h]
  rfl

/-! ## SYSR -/

section Sysr
variable {o : SysR} {s : State}

theorem presentIn_of_not_se {k : Kind} (hk : k ≠ .se) : SysReg.presentIn .fcsr k = true ∧ SysReg.presentIn .cycle k = true := by
  cases k <;> simp_all [SysReg.presentIn]

theorem exec_sysr_plain (hd : s.cur.isFull o.d = true) (hp : (sysRegOf o.idx).presentIn s.cur.kind = true) (hf : sysRegOf o.idx ≠ .fcsr)
    (hc : sysRegOf o.idx ≠ .cycle) : exec (.sysr o) s = .next (s.regDone o.d (s.sysValue (sysRegOf o.idx))) := by
  refine runAct_ok ?_
  dsimp only
  rw [act_bind_raiseIf (by simp [hp]), act_bind_destReady hd]
  simp only [if_neg hf, if_neg hc]
  rfl

theorem awaitConv_nothing (h : s.cur.convPending = none) (hq : s.cur.copyq.any (fun e => decide (e.op = .cpyx)) = false) : awaitConv s = .ok ((), s) := by
  rw [awaitConv, act_bind_get, h, hq]
  rfl

theorem exec_sysr_fcsr (hd : s.cur.isFull o.d = true) (hi : o.idx = 0x001) (hk : s.cur.kind ≠ .se) (hconv : s.cur.convPending = none)
    (hq : s.cur.copyq.any (fun e => decide (e.op = .cpyx)) = false) : exec (.sysr o) s = .next (s.regDone o.d s.cur.fcsr) := by
  have hr : sysRegOf o.idx = .fcsr := by rw [hi]; rfl
  refine runAct_ok ?_
  dsimp only
  rw [hr, act_bind_raiseIf (by simp [presentIn_of_not_se hk]), act_bind_destReady hd, if_pos rfl, if_neg (by simp), act_bind_ok (awaitConv_nothing hconv hq)]
  rfl

/-- SYSR of CYCLE once its event is presented: the value is outstanding, and the event is captured. -/
theorem exec_sysr_cycle (hd : s.cur.isFull o.d = true) (hi : o.idx = 0x043) (hk : s.cur.kind ≠ .se)
    (hp : s.presents (s.vfOf s.cur.slot) 7 s.cur.num 0 = true) :
    exec (.sysr o) s = .next ((s.lateResult o.d 3 8 (s.returned (BitVec.ofNat 64 s.cycle))).capture (s.vfOf s.cur.slot) 7).goOn := by
  have hr : sysRegOf o.idx = .cycle := by rw [hi]; rfl
  refine runAct_ok ?_
  dsimp only
  rw [hr, act_bind_raiseIf (by simp [presentIn_of_not_se hk]), act_bind_destReady hd, if_neg (by simp), if_pos rfl]
  rw [act_bind_ok (awaitPresented_shown hp), act_bind_ok (writeSLate_eq _ _ _ _ _), act_bind_modify, lateResult_vfOf]
  rfl

theorem exec_sysr_absent (hp : (sysRegOf o.idx).presentIn s.cur.kind = false) :
    exec (.sysr o) s = .next (s.takeFault s.cur.ref ⟨0x01, 0, 0, false⟩ s.cur.pc) := by
  refine runAct_raise ?_
  dsimp only
  rw [act_bind_raiseIf_stop (by simp [hp])]

/-- What SYSR of CYCLE returns under replay (R405). -/
theorem returned_in_replay {r : Replay} {e : Captured} {rest : List Captured} (hrep : Tbl.get? s.replays (s.vfOf s.cur.slot) = some r)
    (hev : r.events = e :: rest) (v : Word) : s.returned v = match e.vals[0]? with
      | some x => BitVec.ofInt 64 x
      | none => v := by
  rw [State.returned, State.recorded, hrep, Option.bind_some, hev, List.head?_cons, Option.bind_some] <;> rfl

theorem exec_sysr_cycle_live (hd : s.cur.isFull o.d = true) (hi : o.idx = 0x043) (hk : s.cur.kind ≠ .se)
    (hcap : Tbl.get? s.dortas.captures (s.vfOf s.cur.slot) = none) (hrep : Tbl.get? s.replays (s.vfOf s.cur.slot) = none) :
    exec (.sysr o) s = .next (s.lateDone o.d 3 8 (BitVec.ofNat 64 s.cycle)) := by
  have hret : s.returned (BitVec.ofNat 64 s.cycle) = BitVec.ofNat 64 s.cycle := by simp [State.returned, State.recorded, hrep]
  rw [exec_sysr_cycle hd hi hk (by simp [State.presents, hrep]), capture_without_replay (by simpa using hcap) (by simpa using hrep), hret, lateDone_eq_goOn]

theorem exec_sysr_cycle_replayed {r : Replay} {e : Captured} {rest : List Captured} (hd : s.cur.isFull o.d = true) (hi : o.idx = 0x043)
    (hk : s.cur.kind ≠ .se) (hcap : Tbl.get? s.dortas.captures (s.vfOf s.cur.slot) = none) (hrep : Tbl.get? s.replays (s.vfOf s.cur.slot) = some r)
    (hev : r.events = e :: rest) (h7 : e.kind = 7) (ha : e.a = s.cur.num) (hb : e.b = 0) :
    exec (.sysr o) s = .next (({ s with replays := Tbl.set s.replays (s.vfOf s.cur.slot) { r with events := rest } } : State).lateDone o.d 3 8
      (match e.vals[0]? with
        | some x => BitVec.ofInt 64 x
        | none => BitVec.ofNat 64 s.cycle)) := by
  rw [exec_sysr_cycle hd hi hk (by simp [State.presents, hrep, hev, h7, ha, hb]),
    capture_in_replay (by simpa using hcap) (by simpa using hrep) hev h7, lateResult_with_replays, lateResult_replays, lateDone_eq_goOn,
    returned_in_replay hrep hev]

end Sysr

/-! ## What the indices read (R30, R40) -/

section Values
variable (s : State)

/-- A record of one 16-bit field at bit 0 and a small one above it: CTXID. -/
theorem ctxid_toNat : (s.sysValue .ctxid).toNat = s.cur.num % 2 ^ 16 + 2 ^ 16 * (kindCode s.cur.kind % 2 ^ 3) := by
  have h0 : (setField (0 : Word) 15 0 s.cur.num).toNat = s.cur.num % 2 ^ 16 := by rw [toNat_setField_above _ _ (by omega) (by omega) (by simp)]; simp
  rw [State.sysValue, toNat_setField_above _ _ (by omega) (by omega) (by omega), h0]

theorem instid_toNat {x : Slot} (hx : s.slotOf s.cur = some x) :
    (s.sysValue .instid).toNat = x.lrec % 2 ^ 16 + 2 ^ 16 * (x.seq % 2 ^ 16) + 2 ^ 32 * (x.rcbx % 2 ^ 16) := by
  have h0 : (setField (0 : Word) 15 0 x.lrec).toNat = x.lrec % 2 ^ 16 := by rw [toNat_setField_above _ _ (by omega) (by omega) (by simp)]; simp
  have h1 : (setField (setField (0 : Word) 15 0 x.lrec) 31 16 x.seq).toNat = x.lrec % 2 ^ 16 + 2 ^ 16 * (x.seq % 2 ^ 16) := by
    rw [toNat_setField_above _ _ (by omega) (by omega) (by omega), h0]
  simp only [State.sysValue, hx]
  rw [toNat_setField_above _ _ (by omega) (by omega) (by omega), h1]

/-- Four 16-bit fields: RCBB and RCBC. -/
theorem four_fields_toNat (a b c d : Nat) : (setField (setField (setField (setField (0 : Word) 15 0 a) 31 16 b) 47 32 c) 63 48 d).toNat =
    a % 2 ^ 16 + 2 ^ 16 * (b % 2 ^ 16) + 2 ^ 32 * (c % 2 ^ 16) + 2 ^ 48 * (d % 2 ^ 16) := by
  have h0 : (setField (0 : Word) 15 0 a).toNat = a % 2 ^ 16 := by rw [toNat_setField_above _ _ (by omega) (by omega) (by simp)]; simp
  have h1 : (setField (setField (0 : Word) 15 0 a) 31 16 b).toNat = a % 2 ^ 16 + 2 ^ 16 * (b % 2 ^ 16) := by
    rw [toNat_setField_above _ _ (by omega) (by omega) (by omega), h0]
  have h2 : (setField (setField (setField (0 : Word) 15 0 a) 31 16 b) 47 32 c).toNat = a % 2 ^ 16 + 2 ^ 16 * (b % 2 ^ 16) + 2 ^ 32 * (c % 2 ^ 16) := by
    rw [toNat_setField_above _ _ (by omega) (by omega) (by omega), h1]
  rw [toNat_setField_above _ _ (by omega) (by omega) (by omega), h2]

/-- The fields of RCBA. -/
theorem rcba_fields_toNat (a b c d e f g : Nat) :
    (setField (setField (setField (setField (setField (setField (setField (0 : Word) 7 0 a) 10 8 b) 11 11 c) 12 12 d) 13 13 e) 33 14 f) 53 34 g).toNat =
      a % 2 ^ 8 + 2 ^ 8 * (b % 2 ^ 3) + 2 ^ 11 * (c % 2) + 2 ^ 12 * (d % 2) + 2 ^ 13 * (e % 2) + 2 ^ 14 * (f % 2 ^ 20) + 2 ^ 34 * (g % 2 ^ 20) := by
  have h0 : (setField (0 : Word) 7 0 a).toNat = a % 2 ^ 8 := by rw [toNat_setField_above _ _ (by omega) (by omega) (by simp)]; simp
  have h1 := toNat_setField_above (setField (0 : Word) 7 0 a) b (hi := 10) (lo := 8) (by omega) (by omega) (by omega)
  have h2 := toNat_setField_above _ c (hi := 11) (lo := 11) (by omega) (by omega) (lt_of_eq_of_lt h1 (by omega))
  have h3 := toNat_setField_above _ d (hi := 12) (lo := 12) (by omega) (by omega) (lt_of_eq_of_lt h2 (by omega))
  have h4 := toNat_setField_above _ e (hi := 13) (lo := 13) (by omega) (by omega) (lt_of_eq_of_lt h3 (by omega))
  have h5 := toNat_setField_above _ f (hi := 33) (lo := 14) (by omega) (by omega) (lt_of_eq_of_lt h4 (by omega))
  have h6 := toNat_setField_above _ g (hi := 53) (lo := 34) (by omega) (by omega) (lt_of_eq_of_lt h5 (by omega))
  omega

theorem qb_value (k : Fin 4) : s.sysValue (sysRegOf (BitVec.ofNat 12 (0x050 + k.val))) = s.cur.qb[k] := by
  fin_cases k <;> simp [sysRegOf, State.sysValue]

theorem li_value {k : Nat} (hk : k ≤ 5) : s.sysValue (sysRegOf (BitVec.ofNat 12 (0x060 + k))) = match s.cur.loops[k]? with
    | some l => BitVec.ofNat 64 l.index
    | none => 0 := by
  have hr : sysRegOf (BitVec.ofNat 12 (0x060 + k)) = .li k := by interval_cases k <;> rfl
  rw [hr]
  rfl

theorem ctxid_kind : (s.sysValue .ctxid).toNat / 2 ^ 16 = match s.cur.kind with
    | .cc => 0
    | .ve => 1
    | .ce => 2
    | .he => 3
    | .se => 4 := by
  have hk : kindCode s.cur.kind < 2 ^ 3 := by cases s.cur.kind <;> decide
  rw [ctxid_toNat, Nat.mod_eq_of_lt hk, show (s.cur.num % 2 ^ 16 + 2 ^ 16 * kindCode s.cur.kind) / 2 ^ 16 = kindCode s.cur.kind by omega]
  cases s.cur.kind <;> rfl

end Values

/-- Settles O13: each group of registers by how SYSR runs, the fields of composed registers as sums. -/
theorem systemReads : Obligations.SystemReads := by
  refine ⟨fun o s hd => ⟨exec_sysr_plain hd, exec_sysr_fcsr hd, exec_sysr_cycle_live hd, fun r e rest => exec_sysr_cycle_replayed hd, exec_sysr_absent⟩,
    fun s => ?_⟩
  refine ⟨rfl, rfl, rfl, rfl, rfl, rfl, rfl, rfl, rfl, rfl, ?_, ?_, ctxid_kind s, fun k => li_value s, qb_value s, fun x => instid_toNat s,
    rcba_fields_toNat _ _ _ _ _ _ _, four_fields_toNat _ _ _ _, four_fields_toNat _ _ _ _⟩
  · show (BitVec.ofNat 64 (s.vfOf s.cur.slot % 256)).toNat = _
    rw [BitVec.toNat_ofNat, Nat.mod_eq_of_lt (by omega)]
  · show (s.sysValue .ctxid).toNat % 2 ^ 16 = _
    rw [ctxid_toNat]
    omega

end Sys2Proof.Machine
end

section
/-! PROOFS. LPATCH, LARM and LQUERY (O19). -/
namespace Sys2Proof.Machine

/-! ## Selectors -/

section Named
variable {s : State} {x : Word} {rcb : Nat} {n : RcbNode}

/-- A selector that passes its check of reserved bits names its record. -/
theorem lrecNamed_ok {fields : Bool} (hn : LrecNamed s (x.toNat % 2 ^ 16) rcb n)
    (hok : (if fields then x.extractLsb' 19 45 != 0 || x.extractLsb' 16 3 == 7 else x.extractLsb' 16 48 != 0) = false) :
    lrecNamed x fields s = .ok ((rcb, n, x.toNat % 2 ^ 16), s) := by
  obtain ⟨sl, hslot, rfl, hnode, hi⟩ := hn
  have hf : fieldN x 15 0 = x.toNat % 2 ^ 16 := by rw [fieldN_eq]; simp
  rw [lrecNamed, act_bind_get, act_bind_raiseIf hok, hf]
  simp only [hslot, hnode, Option.bind_some, Option.map_some]
  rw [act_bind_raiseIf (by simpa using hi)]
  rfl

theorem selector_fields_ok (h : x.toNat / 2 ^ 16 ≤ 6) : (x.extractLsb' 19 45 != 0 || x.extractLsb' 16 3 == 7) = false := by
  have h1 : x.extractLsb' 19 45 = 0 := (extractLsb'_eq_zero_iff x 19 45).2 (by omega)
  have h2 : x.extractLsb' 16 3 ≠ 7 := fun h7 => by
    have := congrArg BitVec.toNat h7
    rw [BitVec.extractLsb'_toNat, Nat.shiftRight_eq_div_pow] at this
    simp at this
    omega
  rw [h1, beq_eq_false_iff_ne.2 h2]
  rfl

theorem selector_plain_ok (h : x.toNat < 2 ^ 16) : (x.extractLsb' 16 48 != 0) = false := by
  have h1 : x.extractLsb' 16 48 = 0 := (extractLsb'_eq_zero_iff x 16 48).2 (by omega)
  simp [h1]

end Named

/-! ## LPATCH -/

section Lpatch
variable {o : RRR} {s : State} {rcb : Nat} {n : RcbNode}

/-- What LPATCH does once its checks have passed. -/
def lpatchDo (d : BitVec 5) (rcb i f : Nat) (r : BitVec 1024) (y : Word) : Act Unit := do
  let lo := if f = 6 then 256 else 320 + 64 * f
  if lrState r ≠ 0 then writeS d 1
  else if r.getLsbD (56 + f) = false then writeS d 2
  else
    modify (fun s => s.setLrec rcb i (setField r (lo + 63) lo y.toNat))
    writeS d 0
  advance

theorem exec_lpatch_eq (hr : RRR_Ready o s) (hn : LrecNamed s ((s.cur.getS o.a).toNat % 2 ^ 16) rcb n) (hf : (s.cur.getS o.a).toNat / 2 ^ 16 ≤ 6)
    (hy : (s.cur.getS o.a).toNat / 2 ^ 16 = 6 → (s.cur.getS o.b).toNat % 8 = 0) (howed : NothingOwed s .dev) :
    ∃ a : Act Unit, exec (.lpatch o) s = runAct a s ∧ a s = lpatchDo o.d rcb ((s.cur.getS o.a).toNat % 2 ^ 16) ((s.cur.getS o.a).toNat / 2 ^ 16)
      (n.lrec rcb ((s.cur.getS o.a).toNat % 2 ^ 16)) (s.cur.getS o.b) s := by
  obtain ⟨hd, ha, hb⟩ := hr
  have hfield : fieldN (s.cur.getS o.a) 18 16 = (s.cur.getS o.a).toNat / 2 ^ 16 := by rw [fieldN_eq]; exact Nat.mod_eq_of_lt (by omega)
  have hal : ((s.cur.getS o.a).toNat / 2 ^ 16 == 6 && (s.cur.getS o.b).extractLsb' 0 3 != 0) = false := by
    by_cases h6 : (s.cur.getS o.a).toNat / 2 ^ 16 = 6
    · have h0 : (s.cur.getS o.b).extractLsb' 0 3 = 0 := (extractLsb'_eq_zero_iff _ 0 3).2 (by have := hy h6; omega)
      simp [h0]
    · rw [beq_eq_false_iff_ne.2 h6, Bool.false_and]
  refine ⟨_, rfl, ?_⟩
  rw [act_bind_destReady hd, act_bind_readSrc ha, act_bind_readSrc hb, act_bind_ok (lrecNamed_ok (fields := true) hn (selector_fields_ok hf))]
  dsimp only
  rw [hfield, act_bind_raiseIf hal, act_bind_ok (awaitRelease_of_nothingOwed howed true)]
  rfl

variable {i f : Nat} {r : BitVec 1024} {y : Word}

theorem lpatchDo_busy (d : BitVec 5) (h : lrState r ≠ 0) : lpatchDo d rcb i f r y s = .ok ((), s.regDone d 1) := by
  rw [lpatchDo, if_pos h]
  rfl
theorem lpatchDo_not_patchable (d : BitVec 5) (h : lrState r = 0) (hb : r.getLsbD (56 + f) = false) :
    lpatchDo d rcb i f r y s = .ok ((), s.regDone d 2) := by
  rw [lpatchDo, if_neg (not_not.2 h), if_pos hb]
  rfl
theorem lpatchDo_patches (d : BitVec 5) (h : lrState r = 0) (hb : r.getLsbD (56 + f) = true) : lpatchDo d rcb i f r y s =
    .ok ((), (s.setLrec rcb i (setField r ((if f = 6 then 256 else 320 + 64 * f) + 63) (if f = 6 then 256 else 320 + 64 * f) y.toNat)).regDone d 0) := by
  rw [lpatchDo, if_neg (not_not.2 h), if_neg (by simp [hb])]
  rfl

end Lpatch

/-! ## LARM -/

section Larm
variable {s : State} {rcb i : Nat} {n : RcbNode} (hnode : Tbl.get? s.rcbs rcb = some n)
include hnode

theorem arm_busy (h : lrState (n.lrec rcb i) ≠ 0) : s.arm rcb i = (s, 1) := by
  rw [State.arm, hnode]
  exact if_pos h

theorem arm_refused (h : lrState (n.lrec rcb i) = 0) (ho : s.overDemand rcb (n.lrec rcb i) ≠ none) : s.arm rcb i = (s, 3) := by
  rw [State.arm, hnode]
  exact (if_neg (not_not.2 h)).trans (if_pos (Option.isSome_iff_ne_none.2 ho))

/-- The state in which Dortas holds record i of region `rcb` as ARMED (R21). -/
def State.armed1 (s : State) (rcb i : Nat) (n : RcbNode) : State :=
  { s with rcbs := Tbl.set s.rcbs rcb { n with
    pool := Tbl.set n.pool i (setField (setField (n.lrec rcb i) 33 32 1) 15 0 ((fieldN (n.lrec rcb i) 15 0 + 1) % 2 ^ 16))
    armedAt := Tbl.set n.armedAt i s.cycle, condWait := Tbl.del n.condWait i } }

theorem arm_arms_presented (h : lrState (n.lrec rcb i) = 0) (ho : s.overDemand rcb (n.lrec rcb i) = none) (hcap : Tbl.get? s.dortas.captures n.vf = none) :
    s.arm rcb i = ((s.armed1 rcb i n).presented n.vf 1, 0) := by
  have hno : ¬ (s.overDemand rcb (n.lrec rcb i)).isSome = true := by simp [ho]
  rw [State.arm, hnode]
  refine (if_neg (not_not.2 h)).trans ((if_neg hno).trans (Prod.ext ?_ rfl))
  exact capture_uncaptured (s := s.armed1 rcb i n) hcap

theorem arm_arms (h : lrState (n.lrec rcb i) = 0) (ho : s.overDemand rcb (n.lrec rcb i) = none)
    (hcap : Tbl.get? s.dortas.captures n.vf = none) (hrep : Tbl.get? s.replays n.vf = none) : s.arm rcb i = (s.armed1 rcb i n, 0) := by
  have hsame : (s.armed1 rcb i n).presented n.vf 1 = s.armed1 rcb i n := by
    rw [State.presented, show Tbl.get? (s.armed1 rcb i n).replays n.vf = none from hrep]
  rw [arm_arms_presented hnode h ho hcap, hsame]

end Larm

section LarmRuns
variable {o : RRD} {s : State} {rcb : Nat} {n : RcbNode} (hr : Imm_Ready o.d o.a s) (hx : (s.cur.getS o.a).toNat < 2 ^ 16)
  (hn : LrecNamed s (s.cur.getS o.a).toNat rcb n)
include hr hx hn

theorem exec_larm_answers (howed : NothingOwed s .dev) (hrep : Tbl.get? s.replays (s.vfOf s.cur.slot) = none) {t : State} {st : Nat}
    (harm : s.arm rcb (s.cur.getS o.a).toNat = (t, st)) : exec (.larm o) s = .next (t.regDone o.d (BitVec.ofNat 64 st)) := by
  obtain ⟨hd, ha⟩ := hr
  have hmod : (s.cur.getS o.a).toNat % 2 ^ 16 = (s.cur.getS o.a).toNat := Nat.mod_eq_of_lt hx
  refine runAct_ok ?_
  rw [act_bind_destReady hd, act_bind_readSrc ha, act_bind_ok (lrecNamed_ok (fields := false) (hmod.symm ▸ hn) (selector_plain_ok hx)), hmod]
  dsimp only
  rw [act_bind_ok (awaitRelease_of_nothingOwed howed true), act_bind_get, harm]
  dsimp only
  split
  · rw [act_bind_ok (awaitPresented_shown (by simp [State.presents, hrep]))]
    rfl
  · rfl

theorem exec_lquery_reads (hacq : NoAcquire s) :
    exec (.lquery o) s = .next ((s.orderPoint s.cur true).regDone o.d ((n.lrec rcb (s.cur.getS o.a).toNat).extractLsb' 0 64)) := by
  obtain ⟨hd, ha⟩ := hr
  have hmod : (s.cur.getS o.a).toNat % 2 ^ 16 = (s.cur.getS o.a).toNat := Nat.mod_eq_of_lt hx
  refine runAct_ok ?_
  rw [act_bind_destReady hd, act_bind_readSrc ha, act_bind_ok (lrecNamed_ok (fields := false) (hmod.symm ▸ hn) (selector_plain_ok hx)), hmod]
  dsimp only
  rw [act_bind_ok (awaitAcquire_of_noAcquire hacq)]
  rfl

end LarmRuns

/-- Settles O19: LPATCH by the record's state and patch bit, LARM by what arming answers. -/
theorem launchRecords : Obligations.LaunchRecords := by
  refine ⟨fun o s rcb n hr hn hf hy howed => ?_, fun o s rcb n hr hx hn howed hcap hrepn hrep => ?_, fun o s rcb n hr hx hn => exec_lquery_reads hr hx hn⟩
  · obtain ⟨a, hrun, ha⟩ := exec_lpatch_eq hr hn hf hy howed
    rw [hrun]
    exact ⟨fun h => runAct_ok (ha.trans (lpatchDo_busy _ h)), fun h hb => runAct_ok (ha.trans (lpatchDo_not_patchable _ h hb)),
      fun h hb => runAct_ok (ha.trans (lpatchDo_patches _ h hb))⟩
  · obtain ⟨sl, _, _, hnode, _⟩ := id hn
    exact ⟨fun h => exec_larm_answers hr hx hn howed hrep (arm_busy hnode h), fun h ho => exec_larm_answers hr hx hn howed hrep (arm_refused hnode h ho),
      fun h ho => exec_larm_answers hr hx hn howed hrep (arm_arms hnode h ho hcap hrepn)⟩

end Sys2Proof.Machine
end

section
/-! PROOFS. The root region (O59): the bits of a node's record through the operations that change regions, then the commands. -/
namespace Sys2Proof.Machine

/-- The bits of a node's record. -/
def State.nodeBits (s : State) (k : Nat) : Option (BitVec 512) := (Tbl.get? s.rcbs k).map (·.bits)

theorem nodeBits_of_rcbs_eq {s t : State} (h : t.rcbs = s.rcbs) (k : Nat) : t.nodeBits k = s.nodeBits k := by rw [State.nodeBits, h, State.nodeBits]

/-- A node written with the bits it has. -/
theorem tbl_set_same_bits {t : Tbl RcbNode} {i : Nat} {x y : RcbNode} (hx : Tbl.get? t i = some x) (hb : y.bits = x.bits) (k : Nat) :
    (Tbl.get? (Tbl.set t i y) k).map (·.bits) = (Tbl.get? t k).map (·.bits) := by
  by_cases h : k = i
  · subst h
    simp [hx, hb]
  · rw [tbl_get_set_ne t y h]

/-! ## Metering and capture -/

theorem countUse_bits (bytes : Bool) (n fuel i k : Nat) (t : Tbl RcbNode) : (Tbl.get? (countUse bytes n fuel i t) k).map (·.bits) = (Tbl.get? t k).map (·.bits) := by
  induction fuel generalizing i t with
  | zero => rfl
  | succ fuel ih =>
    rw [countUse]
    cases hi : Tbl.get? t i with
    | none => rfl
    | some x =>
      have hset : ∀ y : RcbNode, y.bits = x.bits → (Tbl.get? (Tbl.set t i y) k).map (·.bits) = (Tbl.get? t k).map (·.bits) :=
        fun y hy => tbl_set_same_bits hi hy k
      dsimp only
      have hbits : ∀ b : Bool, ((if b then (if bytes then { x with bytUse := x.bytUse + n } else { x with cycUse := x.cycUse + n }) else x : RcbNode)).bits = x.bits := by
        intro b
        cases b <;> cases bytes <;> rfl
      split
      · exact hset _ (hbits _)
      · rw [ih]
        exact hset _ (hbits _)

theorem meter_nodeBits (s : State) (slot c n k : Nat) : (s.meter slot c n).nodeBits k = s.nodeBits k := by
  unfold State.meter
  split
  · rfl
  · dsimp only
    split
    · rfl
    · exact countUse_bits _ _ _ _ _ _

theorem meterBytes_nodeBits (s : State) (slot : Nat) (core : Bool) (pa n k : Nat) : (s.meterBytes slot core pa n).nodeBits k = s.nodeBits k := by
  unfold State.meterBytes
  split
  · exact meter_nodeBits _ _ _ _ _
  · exact meter_nodeBits _ _ _ _ _
  · rfl
  · rfl

theorem writeThrough_nodeBits (s : State) (by_ : CtxRef) (loc : Loc) (page : PageInfo) (pa : Nat) (bs : List Byte) (sc : Scope) (k : Nat) :
    (s.writeThrough by_ loc page pa bs sc).nodeBits k = s.nodeBits k := by
  unfold State.writeThrough
  refine foldl_keeps (fun t : State => t.nodeBits k) (fun t x => ?_) _ s
  rw [meterBytes_nodeBits]
  exact nodeBits_of_rcbs_eq (logUndo_rcbs _ _ _ _ _) k

theorem capture_nodeBits (s : State) (vf kind k : Nat) : (s.capture vf kind).nodeBits k = s.nodeBits k := by
  have hp : (s.presented vf kind).nodeBits k = s.nodeBits k := nodeBits_of_rcbs_eq (presented_rcbs s vf kind) k
  unfold State.capture
  dsimp only
  split
  · exact hp
  · split
    · exact hp
    · rw [writeThrough_nodeBits]
      exact hp

/-! ## Commands -/

/-- The bits of the root's record. -/
def State.rootBits (s : State) : Option (BitVec 512) := s.nodeBits 0

/-- A command keeps the root if what it does once it has been checked does. -/
theorem command_rootBits {s : State} (c : Cmd) (op n : Nat) (narrow : List (Nat × Nat)) (on : CmdOn) {f : State → State} (hf : (f s).rootBits = s.rootBits) :
    (s.command c op n narrow on f).rootBits = s.rootBits := by
  unfold State.command
  split
  · rfl
  · rfl
  · rfl
  · split
    · rfl
    · split
      · rfl
      · split
        · rfl
        · exact hf

theorem change_rootBits {s : State} (c : Cmd) (ok : Bool) {f : State → State} (hf : ok = true → (f s).rootBits = s.rootBits) :
    (s.change c ok f).rootBits = s.rootBits := by
  unfold State.change
  split
  · rename_i h
    exact hf h
  · rfl

theorem ite_rootBits {s t u : State} {p : Prop} [Decidable p] (ht : p → t.rootBits = s.rootBits) (hu : u.rootBits = s.rootBits) :
    (if p then t else u).rootBits = s.rootBits := by
  split
  · exact ht ‹_›
  · exact hu

theorem set_other_rootBits (s : State) {i : Nat} (hi : i ≠ 0) (x : RcbNode) : ({ s with rcbs := Tbl.set s.rcbs i x } : State).rootBits = s.rootBits := by
  unfold State.rootBits State.nodeBits
  rw [tbl_get_set_ne s.rcbs x (Ne.symm hi)]

theorem modVf_rcbs (s : State) (vf : Nat) (f : Vf → Vf) : (s.modVf vf f).rcbs = s.rcbs := by
  unfold State.modVf
  split <;> rfl

theorem set_same_rootBits {s : State} {i : Nat} {x : RcbNode} (y : RcbNode) (hx : Tbl.get? s.rcbs i = some x) (hb : y.bits = x.bits) :
    ({ s with rcbs := Tbl.set s.rcbs i y } : State).rootBits = s.rootBits := tbl_set_same_bits hx hb 0

theorem setLrec_rootBits (s : State) (rcb i : Nat) (r : BitVec 1024) : (s.setLrec rcb i r).rootBits = s.rootBits := by
  unfold State.setLrec
  split
  · rfl
  · rename_i n hn
    exact set_same_rootBits _ hn rfl

theorem arm_rootBits (s : State) (rcb i : Nat) : (s.arm rcb i).1.rootBits = s.rootBits := by
  unfold State.arm
  split
  · rfl
  · rename_i n hn
    dsimp only
    split
    · rfl
    · split
      · rfl
      · exact (capture_nodeBits _ _ _ _).trans (set_same_rootBits _ hn rfl)

/-- What is left of the regions when a VF is gone: the root among them. -/
theorem endVf_rootBits {s : State} {n : RcbNode} (hn : Tbl.get? s.rcbs 0 = some n) (h0 : n.level = 0) (vf : Nat) : (s.endVf vf).rootBits = s.rootBits := by
  unfold State.endVf
  split
  · rfl
  · split
    · rfl
    · show ((Tbl.get? (s.rcbs.filter _) 0).map (·.bits)) = (Tbl.get? s.rcbs 0).map (·.bits)
      rw [hn, tbl_get_filter hn (by simp [h0])]

/-! ### RESUME -/

theorem openBanks_rcbs (s : State) (x : Slot) : (s.openBanks x).rcbs = s.rcbs := by
  unfold State.openBanks
  refine foldl_keeps State.rcbs (fun t b => ?_) _ s
  rfl

theorem replace_rcbs (s : State) (slot : Nat) (x : Slot) (w : Want) (p : Place) : (s.replace slot x w p).rcbs = s.rcbs := by
  unfold State.replace
  dsimp only
  rw [setCtx_rcbs, openBanks_rcbs]
  rfl

theorem giveBack_rcbs {s t : State} {slot : Nat} {x : Slot} (h : s.giveBack slot x = some t) : t.rcbs = s.rcbs := by
  unfold State.giveBack at h
  split at h
  · cases h
    rfl
  · dsimp only at h
    split at h
    · cases h
    · obtain ⟨m, -, rfl⟩ := Option.map_eq_some_iff.1 h
      rfl

theorem restoreSlot_rcbs (s : State) (slot : Nat) : (s.restoreSlot slot).rcbs = s.rcbs := by
  unfold State.restoreSlot
  split
  · rfl
  · split
    · rfl
    · split
      · split
        · rfl
        · split
          · rfl
          · exact replace_rcbs _ _ _ _ _
      · split
        · rfl
        · rename_i t ht
          split
          · rfl
          · rw [grantLeases_rcbs]
            have hasks : ∀ (l : List SavedLease) (u : State), (l.foldl (fun u l => u.askLease slot l.grps false) u).rcbs = u.rcbs :=
              fun l u => by
                refine foldl_keeps State.rcbs (fun u l => ?_) _ _
                rfl
            rw [hasks]
            exact (giveBack_rcbs ht :)

/-! ### Command by command -/

section Commands
variable {s t : State} {c : Cmd} {n : RcbNode} (hn : Tbl.get? s.rcbs 0 = some n) (h0 : n.level = 0)

theorem vfCreate_rootBits (h : exec (.vfCreate c) s = .next t) : t.rootBits = s.rootBits := by
  cases h
  refine command_rootBits _ _ _ _ _ ?_
  dsimp only
  split
  · rfl
  · split
    · rfl
    · exact set_other_rootBits _ (by omega) _

include hn h0 in
theorem vfDestroy_rootBits (h : exec (.vfDestroy c) s = .next t) : t.rootBits = s.rootBits := by
  cases h
  refine command_rootBits _ _ _ _ _ ?_
  dsimp only
  split
  · rfl
  · have hr : ∀ (l : List (Nat × Slot)) (u : State), (l.foldl (fun t x => t.writeKilling x.1 (.reason 0x0100)) u).rcbs = u.rcbs :=
      fun l u => foldl_keeps State.rcbs (fun t x => writeKilling_rcbs t x.1 _) l u
    refine (endVf_rootBits (n := n) ?_ h0 _).trans (nodeBits_of_rcbs_eq (hr _ _) 0)
    rw [hr]
    exact hn

theorem change_modVf_rootBits (h : exec (.s1root c) s = .next t ∨ exec (.s2root c) s = .next t ∨ exec (.rmawinSet c) s = .next t ∨ exec (.keySet c) s = .next t) :
    t.rootBits = s.rootBits := by
  rcases h with h | h | h | h <;> cases h <;>
    exact command_rootBits _ _ _ _ _ (change_rootBits _ _ fun _ => nodeBits_of_rcbs_eq (modVf_rcbs _ _ _) 0)

theorem change_other_table_rootBits (h : exec (.rwinSet c) s = .next t ∨ exec (.routeSet c) s = .next t ∨ exec (.cgrpEn c) s = .next t) :
    t.rootBits = s.rootBits := by
  rcases h with h | h | h <;> cases h <;> exact command_rootBits _ _ _ _ _ (change_rootBits _ _ fun _ => rfl)

theorem inval_rootBits (h : exec (.inval c) s = .next t) : t.rootBits = s.rootBits := by
  cases h
  refine command_rootBits _ _ _ _ _ ?_
  dsimp only
  split <;> rfl

theorem imgLoad_rootBits (h : exec (.imgLoad c) s = .next t) : t.rootBits = s.rootBits := by
  cases h
  refine command_rootBits _ _ _ _ _ ?_
  dsimp only
  split
  · rfl
  · rfl
  · split
    · exact nodeBits_of_rcbs_eq (markContained_rcbs _ _) 0
    · split <;> rfl

include hn h0 in
/-- RCB_WRITE refuses a node of level 0. -/
theorem rcbWrite_rootBits (h : exec (.rcbWrite c) s = .next t) : t.rootBits = s.rootBits := by
  cases h
  refine command_rootBits _ _ _ _ _ ?_
  dsimp only
  split
  · rfl
  · split
    · rfl
    · rename_i x hx
      refine ite_rootBits (fun hok => ?_) rfl
      have hne : c.num 0 ≠ 0 := fun hz => by
        rw [hz, hn] at hx
        cases hx
        exact hok.1 h0
      exact set_other_rootBits s hne _

theorem rcbCreate_rootBits (h : exec (.rcbCreate c) s = .next t) : t.rootBits = s.rootBits := by
  cases h
  refine command_rootBits _ _ _ _ _ ?_
  dsimp only
  split
  · rfl
  · split
    · rfl
    · split
      · rename_i hok
        exact set_other_rootBits s (by omega) _
      · rfl

theorem rcbDelete_rootBits (h : exec (.rcbDelete c) s = .next t) : t.rootBits = s.rootBits := by
  cases h
  refine command_rootBits _ _ _ _ _ (change_rootBits _ _ fun hok => ?_)
  have hne : c.num 0 ≠ 0 := fun hz => by
    rw [hz] at hok
    split at hok <;> simp at hok
  show (Tbl.get? (Tbl.del s.rcbs _) 0).map _ = _
  rw [tbl_get_del_ne _ (Ne.symm hne)]
  rfl

theorem lrecWrite_rootBits (h : exec (.lrecWrite c) s = .next t) : t.rootBits = s.rootBits := by
  cases h
  refine command_rootBits _ _ _ _ _ ?_
  dsimp only
  split
  · rfl
  · split
    · rfl
    · exact change_rootBits _ _ fun _ => setLrec_rootBits _ _ _ _

theorem lrecArm_rootBits (h : exec (.lrecArm c) s = .next t) : t.rootBits = s.rootBits := by
  cases h
  refine command_rootBits _ _ _ _ _ ?_
  dsimp only
  split
  · rfl
  · exact arm_rootBits _ _ _

theorem kill_rootBits (h : exec (.kill c) s = .next t) : t.rootBits = s.rootBits := by
  cases h
  refine command_rootBits _ _ _ _ _ ?_
  split
  · rfl
  · split
    · rfl
    · exact nodeBits_of_rcbs_eq (writeKilling_rcbs _ _ _) 0

theorem preempt_rootBits (h : exec (.preempt c) s = .next t) : t.rootBits = s.rootBits := by
  cases h
  refine command_rootBits _ _ _ _ _ ?_
  split
  · rfl
  · split
    · exact nodeBits_of_rcbs_eq (writeStopping_rcbs _ _) 0
    · split <;> rfl

theorem resume_rootBits (h : exec (.resume c) s = .next t) : t.rootBits = s.rootBits := by
  cases h
  refine command_rootBits _ _ _ _ _ ?_
  dsimp only
  split
  · rfl
  · split
    · rfl
    · split
      · split
        · exact nodeBits_of_rcbs_eq (restoreSlot_rcbs _ _) 0
        · rfl
      · rfl

theorem assayRead_rootBits (h : exec (.assayRead c) s = .next t) : t.rootBits = s.rootBits := by
  have hrep : ∀ (vf : Nat) (r : Bool), (s.reported vf r).rcbs = s.rcbs := fun vf r => by
    unfold State.reported
    dsimp only
    split <;> rfl
  cases h
  refine command_rootBits _ _ _ _ _ ?_
  dsimp only
  split
  · rfl
  · split
    · exact nodeBits_of_rcbs_eq (hrep _ _) 0
    · split
      · rfl
      · split
        · exact nodeBits_of_rcbs_eq (hrep _ _) 0
        · rfl

theorem faultReport_rootBits (h : exec (.faultReport c) s = .next t) : t.rootBits = s.rootBits := by
  cases h
  exact command_rootBits _ _ _ _ _ rfl

include hn h0 in
/-- No command changes the root. -/
theorem command_keeps_root {q : Instr × Nat × Nat} (hq : q = (Instr.vfCreate c, 0x0001, 3) ∨ IsVfCommand c q) (h : exec q.1 s = .next t) :
    t.rootBits = s.rootBits := by
  rcases hq with rfl | hq
  · exact vfCreate_rootBits h
  · simp only [IsVfCommand, List.mem_cons, List.not_mem_nil, or_false] at hq
    rcases hq with rfl | rfl | rfl | rfl | rfl | rfl | rfl | rfl | rfl | rfl | rfl | rfl | rfl | rfl | rfl | rfl | rfl | rfl | rfl | rfl
    · exact vfDestroy_rootBits hn h0 h
    · exact change_modVf_rootBits (.inl h)
    · exact change_modVf_rootBits (.inr (.inl h))
    · exact inval_rootBits h
    · exact imgLoad_rootBits h
    · exact rcbWrite_rootBits hn h0 h
    · exact lrecWrite_rootBits h
    · exact rcbCreate_rootBits h
    · exact rcbDelete_rootBits h
    · exact lrecArm_rootBits h
    · exact kill_rootBits h
    · exact preempt_rootBits h
    · exact resume_rootBits h
    · exact change_other_table_rootBits (.inl h)
    · exact change_modVf_rootBits (.inr (.inr (.inl h)))
    · exact change_other_table_rootBits (.inr (.inl h))
    · exact change_other_table_rootBits (.inr (.inr h))
    · exact change_modVf_rootBits (.inr (.inr (.inr h)))
    · exact assayRead_rootBits h
    · exact faultReport_rootBits h

end Commands

/-- Settles O59: the fields of the root's record by evaluation, and each command by what it does to node 0. -/
theorem rootRecord : Obligations.RootRecord := by
  refine ⟨rfl, by decide +kernel, by decide +kernel, fun s t c n q hn h0 hq h => ?_⟩
  have hbits := command_keeps_root hn h0 hq h
  rw [State.rootBits, State.rootBits, State.nodeBits, State.nodeBits, hn] at hbits
  exact Option.map_eq_some_iff.1 hbits

end Sys2Proof.Machine
end

section
/-! PROOFS. Entries of the slot table (R325): the fields of a bind record whose STATE changes, and the writes that kill or stop an entry
(R337, R342). -/
namespace Sys2Proof.Machine

/-! ## Fields beside STATE -/

@[simp] theorem setState_state (x : Slot) (n : Nat) : (x.setState n).state = n % 8 := fieldN_setField_same _ _ (by omega) (by omega)

/-- A field above STATE reads as before. -/
theorem fieldN_setState (x : Slot) (n : Nat) {hi lo : Nat} (h : 2 < lo) : fieldN (x.setState n).bind hi lo = fieldN x.bind hi lo :=
  fieldN_setField_ne _ _ (by omega) (by omega) (.inr h)

@[simp] theorem setState_vf (x : Slot) (n : Nat) : (x.setState n).vf = x.vf := fieldN_setState x n (by omega)
@[simp] theorem setState_rcbx (x : Slot) (n : Nat) : (x.setState n).rcbx = x.rcbx := fieldN_setState x n (by omega)
@[simp] theorem setState_lrec (x : Slot) (n : Nat) : (x.setState n).lrec = x.lrec := fieldN_setState x n (by omega)
@[simp] theorem setState_seq (x : Slot) (n : Nat) : (x.setState n).seq = x.seq := fieldN_setState x n (by omega)
@[simp] theorem setState_ccore (x : Slot) (n : Nat) : (x.setState n).ccore = x.ccore := fieldN_setState x n (by omega)
@[simp] theorem setState_cmask (x : Slot) (n : Nat) : (x.setState n).cmask = x.cmask := extractLsb'_setField_ne _ _ (by omega) (by omega) (.inr (by omega))
@[simp] theorem setState_emask (x : Slot) (n : Nat) : (x.setState n).emask = x.emask := extractLsb'_setField_ne _ _ (by omega) (by omega) (.inr (by omega))
@[simp] theorem setState_hmask (x : Slot) (n : Nat) : (x.setState n).hmask = x.hmask := extractLsb'_setField_ne _ _ (by omega) (by omega) (.inr (by omega))

/-! ## An entry written -/

@[simp] theorem entryIs_setSlot (s : State) (k : Nat) (x : Slot) : EntryIs (s.setSlot k x) k x := tbl_get_set _ _ _

/-- No context of the entry is past step 3 of R28. -/
theorem notRetiring_iff {s : State} {k : Nat} : NotRetiring s k ↔ (s.ctxsOf k).any (fun c => c.halting.isSome) = false := by
  simp [NotRetiring]

/-- The entry as the kill sequence begins (R342). -/
def Slot.killed (x : Slot) (c : KillCause) : Slot := { x.setState 6 with kill := some c, offer := none, yieldAsked := none }

@[simp] theorem killed_state (x : Slot) (c : KillCause) : (x.killed c).state = 6 := setState_state x 6
@[simp] theorem killed_vf (x : Slot) (c : KillCause) : (x.killed c).vf = x.vf := setState_vf x 6
@[simp] theorem killed_kill (x : Slot) (c : KillCause) : (x.killed c).kill = some c := rfl

theorem writeKilling_of_living {s : State} {k : Nat} {x : Slot} (hx : EntryIs s k x) (h2 : 2 ≤ x.state) (h5 : x.state ≤ 5) (hr : NotRetiring s k) (c : KillCause) :
    s.writeKilling k c = s.setSlot k (x.killed c) := by
  unfold State.writeKilling
  rw [show Tbl.get? s.slots k = some x from hx]
  dsimp only
  rw [if_pos ⟨h2, h5, by rw [notRetiring_iff.1 hr]; rfl⟩]
  rfl

/-- A kill of one entry leaves the others. -/
theorem writeKilling_get_ne {s : State} {j k : Nat} (h : j ≠ k) (c : KillCause) : Tbl.get? (s.writeKilling k c).slots j = Tbl.get? s.slots j := by
  unfold State.writeKilling
  repeat' split
  · exact tbl_get_set_ne _ _ h
  · rfl
  · rfl

/-- An entry that is being killed already stays as it is. -/
theorem writeKilling_of_killing {s : State} {k : Nat} {x : Slot} (hx : EntryIs s k x) (h6 : x.state = 6) (c : KillCause) : s.writeKilling k c = s := by
  unfold State.writeKilling
  rw [show Tbl.get? s.slots k = some x from hx]
  dsimp only
  rw [if_neg (by omega)]

/-- A kill stops no context of itself. -/
theorem writeKilling_ctxsOf (s : State) (k : Nat) (c : KillCause) (j : Nat) : (s.writeKilling k c).ctxsOf j = s.ctxsOf j := by
  unfold State.writeKilling
  repeat' split
  all_goals rfl

theorem writeStopping_of_running {s : State} {k : Nat} {x : Slot} (hx : EntryIs s k x) (h2 : x.state = 2) (hr : NotRetiring s k) :
    s.writeStopping k = s.setSlot k (x.setState 3) := by
  unfold State.writeStopping
  rw [show Tbl.get? s.slots k = some x from hx]
  dsimp only
  rw [if_pos ⟨h2, by rw [notRetiring_iff.1 hr]; rfl⟩]
  rfl

/-! ## Restoring (R341) -/

/-- A stopped entry that kept its engines is restored: it is RESTORING, and only leases are asked for. -/
theorem restoreSlot_of_stopped {s : State} {k : Nat} {x : Slot} (hx : EntryIs s k x) (h4 : x.state = 4) (hsus : x.suspended = false) (hheld : x.held = none)
    (hroll : x.rolling = false) (hexh : s.exhausted x.rcbx = false) : (s.restoreSlot k).butLeases = (s.setSlot k (x.setState 5)).butLeases := by
  have hback : s.giveBack k x = some s := by rw [State.giveBack, hheld]
  have hget : Tbl.get? s.slots k = some x := hx
  rw [State.restoreSlot, hget]
  dsimp only
  rw [if_neg (by simp [h4, hroll, hexh]), if_neg (by simp [hsus]), hback]
  dsimp only
  rw [hget]
  dsimp only
  rw [grantLeases_but_leases]
  refine foldl_keeps State.butLeases (fun u l => ?_) _ _
  rfl

end Sys2Proof.Machine
end

section
/-! PROOFS. Host commands (O52): what every command is checked for first (R383 to R385), then each command on VFs, regions, launch records and
entries. -/
namespace Sys2Proof.Machine

/-! ## Responses -/

theorem length_natBytes (v n : Nat) : (natBytes v n).length = n := by
  induction n generalizing v with
  | zero => rfl
  | succ n ih => rw [natBytes, List.length_cons, ih]

theorem length_wordBytes (ws : List Nat) : (wordBytes ws).length = 8 * ws.length := by
  induction ws with
  | nil => rfl
  | cons w ws ih =>
    rw [wordBytes, List.flatMap_cons, List.length_append, length_natBytes, List.length_cons]
    have := ih
    rw [wordBytes] at this
    omega

theorem respond_eq_answered (s : State) (c : Cmd) (st : Nat) (ws : List Nat) : s.respond c st ws = s.answered c st ws := by
  rw [State.respond, State.cmdResp, length_wordBytes]
  rfl

/-! ## The checks before a command -/

section Checks
variable {s : State} {c : Cmd} {op n : Nat} {narrow : List (Nat × Nat)} {on : CmdOn} {f : State → State}

theorem command_busy (h : s.boot.phase = .released ∨ s.boot.phase = .recovery) : s.command c op n narrow on f = s.answered c 4 [] := by
  rw [← respond_eq_answered, State.command]
  rcases h with h | h <;> rw [h]

theorem command_stranger (hup : s.boot.phase = .up) (hm : c.src ∉ s.boot.mgmt) : s.command c op n narrow on f = s.discard := by
  rw [State.command, hup]
  simp [hm]

theorem command_malformed (hup : s.boot.phase = .up) (hm : c.src ∈ s.boot.mgmt) (hb : c.bad op n narrow = true) :
    s.command c op n narrow on f = s.answered c 2 [] := by
  rw [← respond_eq_answered, State.command, hup]
  simp [hm, hb]

theorem command_notMapped (hup : s.boot.phase = .up) (hm : c.src ∈ s.boot.mgmt) (hb : c.bad op n narrow = false) (ho : s.cmdOn c on = false) :
    s.command c op n narrow on f = s.answered c 3 [] := by
  rw [← respond_eq_answered, State.command, hup]
  simp [hm, hb, ho]

theorem command_done (hup : s.boot.phase = .up) (hm : c.src ∈ s.boot.mgmt) (hb : c.bad op n narrow = false) (ho : s.cmdOn c on = true) :
    s.command c op n narrow on f = f s := by
  rw [State.command, hup]
  simp [hm, hb, ho]

theorem bad_of_form (h : c.op ≠ op ∨ c.words.length < n ∨ fieldN c.record 63 48 ≠ 0 ∨ fieldN c.record 39 32 ≠ 0 ∨ fieldN c.record 31 16 ≠ 0) :
    c.bad op n narrow = true := by
  unfold Cmd.bad
  simp only [Bool.or_eq_true, bne_iff_ne, decide_eq_true_eq]
  tauto

theorem not_bad (h : CmdOk s c op n) (hw : ∀ p ∈ narrow, c.num p.1 < 2 ^ p.2) : c.bad op n narrow = false := by
  obtain ⟨-, -, hop, h1, h2, h3, hlen⟩ := h
  unfold Cmd.bad
  simp only [Bool.or_eq_false_iff, bne_eq_false_iff_eq, decide_eq_false_iff_not, List.any_eq_false, decide_eq_true_eq, not_le, not_lt]
  exact ⟨⟨⟨⟨⟨h1, h2⟩, h3⟩, hop⟩, hlen⟩, hw⟩

theorem cmdOn_of_vf {v : Vf} (hv : Tbl.get? s.vfs c.vf = some v) : s.cmdOn c on = true := by
  cases on <;> simp [State.cmdOn, hv]

/-- A command of an existing VF that is in form does its work. -/
theorem command_of_vf {v : Vf} (h : CmdOk s c op n) (hv : Tbl.get? s.vfs c.vf = some v) (hw : ∀ p ∈ narrow, c.num p.1 < 2 ^ p.2) :
    s.command c op n narrow on f = f s := command_done h.1 h.2.1 (not_bad h hw) (cmdOn_of_vf hv)

theorem command_of_vf_wide {v : Vf} (h : CmdOk s c op n) (hv : Tbl.get? s.vfs c.vf = some v) : s.command c op n [] on f = f s :=
  command_of_vf h hv (by simp)

/-- How an instruction that is a command runs: its checks, its operand widths and what it may name. -/
def RunsAsCommand (c : Cmd) (q : Instr × Nat × Nat) (narrow : List (Nat × Nat)) (on : CmdOn) : Prop :=
  ∀ s : State, ∃ f, exec q.1 s = .next (s.command c q.2.1 q.2.2 narrow on f)

/-- Every command of a VF or the device runs its checks first. -/
theorem vfCommand_runs {q : Instr × Nat × Nat} (hq : IsVfCommand c q) :
    ∃ (narrow : List (Nat × Nat)) (on : CmdOn), RunsAsCommand c q narrow on ∧ on ≠ .any ∧ ∀ p ∈ narrow, p.1 < 5 := by
  simp only [IsVfCommand, List.mem_cons, List.not_mem_nil, or_false] at hq
  rcases hq with rfl | rfl | rfl | rfl | rfl | rfl | rfl | rfl | rfl | rfl | rfl | rfl | rfl | rfl | rfl | rfl | rfl | rfl | rfl | rfl
  all_goals exact ⟨_, _, fun s => ⟨_, rfl⟩, by decide, by decide⟩

/-- What every command is checked for first (R383 to R385, R394, R402). -/
theorem command_checks (s : State) (c : Cmd) (q : Instr × Nat × Nat) (hq : q = (Instr.vfCreate c, 0x0001, 3) ∨ IsVfCommand c q) :
    (s.boot.phase = .released ∨ s.boot.phase = .recovery → exec q.1 s = .next (s.answered c 4 [])) ∧
    (s.boot.phase = .up → c.src ∉ s.boot.mgmt → exec q.1 s = .next { s with dortas := { s.dortas with packets := s.dortas.packets + 1 } }) ∧
    (s.boot.phase = .up → c.src ∈ s.boot.mgmt → c.op ≠ q.2.1 ∨ c.words.length < q.2.2 ∨ fieldN c.record 63 48 ≠ 0 ∨ fieldN c.record 39 32 ≠ 0 ∨ fieldN c.record 31 16 ≠ 0 →
      exec q.1 s = .next (s.answered c 2 [])) ∧
    (IsVfCommand c q → CmdOk s c q.2.1 q.2.2 → Tbl.get? s.vfs c.vf = none → c.vf ≠ 0xFF → (∀ i, i < 5 → c.num i = 0) → exec q.1 s = .next (s.answered c 3 [])) := by
  have hruns : ∃ narrow on, RunsAsCommand c q narrow on := by
    rcases hq with rfl | hq
    · exact ⟨[(0, 8), (1, 16)], .any, fun s => ⟨_, rfl⟩⟩
    · obtain ⟨narrow, on, h, -⟩ := vfCommand_runs hq
      exact ⟨narrow, on, h⟩
  obtain ⟨narrow, on, hrun⟩ := hruns
  obtain ⟨f, hf⟩ := hrun s
  refine ⟨fun hb => ?_, fun hup hm => ?_, fun hup hm hbad => ?_, fun hcmd hok hv hne h0 => ?_⟩
  · rw [hf, command_busy hb]
  · rw [hf, command_stranger hup hm]
    rfl
  · rw [hf, command_malformed hup hm (bad_of_form hbad)]
  · obtain ⟨narrow', on', hrun', hany, hlt⟩ := vfCommand_runs hcmd
    obtain ⟨g, hg⟩ := hrun' s
    have hwide : ∀ p ∈ narrow', c.num p.1 < 2 ^ p.2 := fun p hp => by
      rw [h0 p.1 (hlt p hp)]
      exact Nat.two_pow_pos _
    have hon : s.cmdOn c on' = false := by
      cases on' with
      | vf => simp [State.cmdOn, hv]
      | either => simp [State.cmdOn, hv, hne]
      | any => exact absurd rfl hany
    rw [hg, command_notMapped hok.1 hok.2.1 (not_bad hok hwide) hon]

end Checks

/-! ## VFs (R11, R15, R351, R355) -/

/-- The tenant node's record (R15), field by field. -/
theorem tenantBits_fields (vf : Nat) : fieldN (tenantBits vf) 34 32 = 1 ∧ fieldN (tenantBits vf) 31 16 = 0 ∧ fieldN (tenantBits vf) 47 40 = vf % 256 ∧
    fieldN (tenantBits vf) 35 35 = 1 ∧ (tenantBits vf).getLsbD 110 = true ∧ fieldN (tenantBits vf) 55 48 = 1 ∧ fieldN (tenantBits vf) 107 88 = 2000 ∧
    fieldN (tenantBits vf) 87 68 = 10000 ∧ fieldN (tenantBits vf) 223 208 = 1024 := by
  refine ⟨?_, ?_, ?_, ?_, ?_, ?_, ?_, ?_, ?_⟩
  case refine_5 =>
    rw [tenantBits, getLsbD_setField _ _ (by omega) (by omega), if_pos (by omega)]
    rfl
  all_goals
    simp (disch := omega) only [tenantBits, nodeReset, List.foldl_cons, List.foldl_nil, fieldN_setField_same, fieldN_setField_ne]
    rfl

section VfCommands
variable {s : State} {c : Cmd} {v : Vf}

theorem exec_vfCreate (h : CmdOk s c 1 3) (hlt : c.vf < 192) (hv : Tbl.get? s.vfs c.vf = none) (h0 : c.num 0 < 2 ^ 8) (h1 : c.num 1 < 2 ^ 16) (h2 : c.num 2 ≤ 4096) :
    ∃ (t : State) (n : RcbNode), exec (.vfCreate c) s = .next t ∧ Tbl.get? t.vfs c.vf = some ⟨BitVec.ofNat 64 (c.num 0), c.num 1, c.src, none, none, [], 0, [], []⟩ ∧
      Tbl.get? t.rcbs (1 + c.vf) = some n ∧ n.level = 1 ∧ n.parent = 0 ∧ n.vf = c.vf ∧ n.poolSize = c.num 2 ∧ n.get .fdom = 1 ∧ n.ovrBit 2 = true ∧
      n.get .share = 1 ∧ n.get .slice = 2000 ∧ n.get .bindmax = 10000 ∧ n.get .outreq = 1024 ∧ t.out = (s.answered c 0 [1 + c.vf]).out ∧ t.cur = s.cur ∧ t.mem = s.mem := by
  have hw : ∀ p ∈ [(0, 8), (1, 16)], c.num p.1 < 2 ^ p.2 := by
    intro p hp
    simp only [List.mem_cons, List.not_mem_nil, or_false] at hp
    rcases hp with rfl | rfl
    · exact h0
    · exact h1
  obtain ⟨hlevel, hparent, hvf, hfdom, hovr, hshare, hslice, hbind, hout⟩ := tenantBits_fields c.vf
  have hrun : exec (.vfCreate c) s = .next _ := congrArg Host.Outcome.next (command_done h.1 h.2.1 (not_bad h hw) rfl)
  rw [if_neg (by omega), if_neg (by simp [hv, h2])] at hrun
  refine ⟨_, _, hrun, tbl_get_set _ _ _, tbl_get_set _ _ _, hlevel, hparent, hvf.trans (Nat.mod_eq_of_lt (by omega)), rfl, hfdom, hovr, hshare, hslice, hbind, hout,
    ?_, rfl, rfl⟩
  rw [← respond_eq_answered]
  rfl

/-- The last entry of a VF has gone (R385). -/
theorem endVf_of_none {d : Nat × Msg} (hd : s.dortas.destroying.find? (fun d => decide (d.1 = c.vf)) = some d) (hs : ∀ x ∈ s.slots, x.2.vf ≠ c.vf) :
    ∃ t : State, s.endVf c.vf = t.send d.2 ∧ t.images = s.images.filter (fun i => decide (i.2.vf ≠ c.vf)) ∧ t.vfs = Tbl.del s.vfs c.vf ∧ t.out = s.out ∧ t.mem = s.mem ∧ t.cur = s.cur := by
  unfold State.endVf
  rw [hd]
  dsimp only
  rw [if_neg]
  · exact ⟨_, rfl, rfl, rfl, rfl, rfl, rfl⟩
  · simp only [List.any_eq_true, not_exists, not_and, Bool.and_eq_true, decide_eq_true_eq]
    intro x hx h
    exact absurd h.1 (hs x hx)

/-- The state in which a VF's destruction has been taken (R385). -/
def State.destroyed (s : State) (c : Cmd) : State :=
  { s with
    dortas := { s.dortas with destroying := s.dortas.destroying ++ [(c.vf, s.cmdResp c Status.done [])] }
    slots := s.slots.filter (fun x => !(x.2.vf = c.vf && x.2.state = 7)) }

theorem exec_vfDestroy (h : CmdOk s c 2 0) (hv : Tbl.get? s.vfs c.vf = some v) (hd : ∀ d ∈ s.dortas.destroying, d.1 ≠ c.vf) :
    exec (.vfDestroy c) s = .next ((((s.destroyed c).slots.filter (fun x => x.2.vf = c.vf)).foldl
      (fun t x => t.writeKilling x.1 (.reason 0x0100)) (s.destroyed c)).endVf c.vf) := by
  refine congrArg Host.Outcome.next ((command_of_vf_wide h hv).trans ?_)
  dsimp only
  rw [if_neg]
  · rfl
  · simp only [List.any_eq_true, decide_eq_true_eq, not_exists, not_and]
    exact hd

theorem exec_vfDestroy_empty (h : CmdOk s c 2 0) (hv : Tbl.get? s.vfs c.vf = some v) (hd : ∀ d ∈ s.dortas.destroying, d.1 ≠ c.vf)
    (hs : ∀ x ∈ s.slots, x.2.vf ≠ c.vf) :
    ∃ t : State, exec (.vfDestroy c) s = .next t ∧ t.images = s.images.filter (fun i => decide (i.2.vf ≠ c.vf)) ∧ t.vfs = Tbl.del s.vfs c.vf ∧
      t.out = (s.answered c 0 []).out ∧ t.mem = s.mem ∧ t.cur = s.cur := by
  have hs' : ∀ x ∈ (s.destroyed c).slots, x.2.vf ≠ c.vf := fun x hx => hs x (List.mem_filter.1 hx).1
  have hnone : (s.destroyed c).slots.filter (fun x => x.2.vf = c.vf) = [] := by
    rw [List.filter_eq_nil_iff]
    intro x hx
    simpa using hs' x hx
  have hfind : (s.destroyed c).dortas.destroying.find? (fun d => decide (d.1 = c.vf)) = some (c.vf, s.cmdResp c Status.done []) := by
    show (s.dortas.destroying ++ [_]).find? _ = _
    rw [List.find?_append, List.find?_eq_none.2 (by simpa using hd)]
    simp
  obtain ⟨t, ht, himages, hvfs, hout, hmem, hcur⟩ := endVf_of_none hfind hs'
  refine ⟨_, exec_vfDestroy h hv hd, ?_⟩
  rw [hnone, List.foldl_nil, ht]
  refine ⟨himages, hvfs, ?_, hmem, hcur⟩
  rw [← respond_eq_answered]
  exact congrArg (· ++ _) hout

/-- A row of kills leaves an entry that is being killed. -/
theorem foldl_writeKilling_killing {k : Nat} {y : Slot} (r : KillCause) (l : List (Nat × Slot)) (hy : EntryIs s k y) (h6 : y.state = 6) :
    EntryIs (l.foldl (fun t x => t.writeKilling x.1 r) s) k y := by
  induction l generalizing s with
  | nil => exact hy
  | cons z rest ih =>
    by_cases hz : z.1 = k
    · rw [List.foldl_cons, hz, writeKilling_of_killing hy h6]
      exact ih hy
    · exact ih ((writeKilling_get_ne (Ne.symm hz) r).trans hy)

/-- A row of kills that names a living entry kills it. -/
theorem foldl_writeKilling_living {k : Nat} {x : Slot} (r : KillCause) (l : List (Nat × Slot)) (hk : k ∈ l.map (·.1)) (hx : EntryIs s k x) (h2 : 2 ≤ x.state)
    (h5 : x.state ≤ 5) (hr : NotRetiring s k) : EntryIs (l.foldl (fun t x => t.writeKilling x.1 r) s) k (x.killed r) := by
  induction l generalizing s with
  | nil => simp at hk
  | cons z rest ih =>
    by_cases hz : z.1 = k
    · rw [List.foldl_cons, hz, writeKilling_of_living hx h2 h5 hr]
      exact foldl_writeKilling_killing r rest (entryIs_setSlot _ _ _) (killed_state _ _)
    · refine ih (by simpa [Ne.symm hz] using hk) ((writeKilling_get_ne (Ne.symm hz) r).trans hx) ?_
      rw [NotRetiring, writeKilling_ctxsOf]
      exact hr

theorem endVf_of_entry {k : Nat} {y : Slot} (hy : EntryIs s k y) (hvf : y.vf = c.vf) (h6 : y.state = 6) : s.endVf c.vf = s := by
  have hany : s.slots.any (fun x => x.2.vf = c.vf && x.2.state != 0 && x.2.state != 7) = true :=
    List.any_eq_true.2 ⟨(k, y), tbl_mem_of_get hy, by simp [hvf, h6]⟩
  unfold State.endVf
  split
  · rfl
  · rw [if_pos hany]

theorem exec_vfDestroy_living {k : Nat} {x : Slot} (h : CmdOk s c 2 0) (hv : Tbl.get? s.vfs c.vf = some v) (hd : ∀ d ∈ s.dortas.destroying, d.1 ≠ c.vf)
    (hx : EntryIs s k x) (hvf : x.vf = c.vf) (h2 : 2 ≤ x.state) (h5 : x.state ≤ 5) (hr : NotRetiring s k) :
    ∃ (t : State) (y : Slot), exec (.vfDestroy c) s = .next t ∧ EntryIs t k y ∧ y.state = 6 ∧ y.kill = some (.reason 0x0100) := by
  have hkeep : EntryIs (s.destroyed c) k x := tbl_get_filter hx (by simp [hvf]; omega)
  have hmem : k ∈ (((s.destroyed c).slots.filter (fun x => x.2.vf = c.vf)).map (·.1)) :=
    List.mem_map.2 ⟨(k, x), List.mem_filter.2 ⟨tbl_mem_of_get hkeep, by simp [hvf]⟩, rfl⟩
  have hkilled := foldl_writeKilling_living (.reason 0x0100) _ hmem hkeep h2 h5 hr
  refine ⟨_, _, exec_vfDestroy h hv hd, ?_, killed_state x (.reason 0x0100), rfl⟩
  rw [endVf_of_entry hkilled (by rw [killed_vf, hvf]) (killed_state _ _)]
  exact hkilled

theorem modVf_of_get {f : Vf → Vf} {vf : Nat} (hv : Tbl.get? s.vfs vf = some v) : s.modVf vf f = { s with vfs := Tbl.set s.vfs vf (f v) } := by
  rw [State.modVf, hv]

theorem change_done {ok : Bool} {f : State → State} (h : ok = true) : s.change c ok f = (f s).answered c 0 [] := by
  rw [State.change, if_pos h, respond_eq_answered]

theorem change_refused {ok : Bool} {f : State → State} (h : ok = false) : s.change c ok f = s.answered c 1 [] := by
  rw [State.change, h, respond_eq_answered]
  rfl

theorem exec_s1root (h : CmdOk s c 0x10 1) (hv : Tbl.get? s.vfs c.vf = some v) :
    (c.num 0 % 4096 = 0 → exec (.s1root c) s = .next (({ s with vfs := Tbl.set s.vfs c.vf { v with s1root := some (c.num 0) } } : State).answered c 0 [])) ∧
    (c.num 0 % 4096 ≠ 0 → exec (.s1root c) s = .next (s.answered c 1 [])) := by
  refine ⟨fun h0 => congrArg Host.Outcome.next ?_, fun h0 => congrArg Host.Outcome.next ?_⟩
  · rw [command_of_vf_wide h hv, change_done (by simp [h0]), modVf_of_get hv]
  · rw [command_of_vf_wide h hv, change_refused (by simp [h0])]

theorem exec_s2root (h : CmdOk s c 0x11 1) (hv : Tbl.get? s.vfs c.vf = some v) :
    (c.num 0 % 4096 = 0 → exec (.s2root c) s = .next (({ s with vfs := Tbl.set s.vfs c.vf { v with s2root := some (c.num 0) } } : State).answered c 0 [])) ∧
    (c.num 0 % 4096 ≠ 0 → exec (.s2root c) s = .next (s.answered c 1 [])) := by
  refine ⟨fun h0 => congrArg Host.Outcome.next ?_, fun h0 => congrArg Host.Outcome.next ?_⟩
  · rw [command_of_vf_wide h hv, change_done (by simp [h0]), modVf_of_get hv]
  · rw [command_of_vf_wide h hv, change_refused (by simp [h0])]

theorem exec_inval (h : CmdOk s c 0x12 3) (hv : Tbl.get? s.vfs c.vf = some v) (h0 : c.num 0 = 1 ∨ c.num 0 = 2) (h1 : c.num 1 % 65536 = 0) (h2 : c.num 2 % 65536 = 0) :
    ∃ (t : State) (i : Inval), exec (.inval c) s = .next t ∧ t.dortas.invals = s.dortas.invals ++ [i] ∧ i.vf = c.vf ∧ t.out = s.out ∧ t.mem = s.mem ∧
      (∀ r ∈ s.hold ++ s.coh, r.loc.vf = c.vf → psAtLeast r.ps .dev = false → r.id ∈ i.ids) ∧ (s.answered c 0 []).out = s.out ++ [i.resp] := by
  have hrun : exec (.inval c) s = .next _ := congrArg Host.Outcome.next (command_of_vf_wide h hv)
  rw [if_pos ⟨h0, h1, h2⟩] at hrun
  refine ⟨_, _, hrun, rfl, rfl, rfl, rfl, fun r hr hvf hps => ?_, ?_⟩
  · refine List.mem_append_left _ (List.mem_map.2 ⟨r, List.mem_filter.2 ⟨hr, ?_⟩, rfl⟩)
    simp [hvf, hps]
  · rw [← respond_eq_answered]
    rfl

theorem exec_imgLoad {l : List (Nat × Nat)} {i : Image} (h : CmdOk s c 0x20 2) (hv : Tbl.get? s.vfs c.vf = some v) (hn : c.num 0 + c.num 1 ≤ 2 ^ 48)
    (hl : s.rmaSpan c.vf 0 (sectorCuts (c.num 0) (c.num 1 / 32 + 2) (c.num 1)) = .ok l) (hp : ∀ x ∈ l, s.poisoned x.1 = false)
    (hi : loadImage c.vf (l.flatMap (fun x => bytesFrom s.devByte x.1 x.2)) = some i) :
    ∃ (t : State) (n : Nat), exec (.imgLoad c) s = .next t ∧ Tbl.get? t.images n = some i ∧ t.out = (s.answered c 0 [n]).out ∧ t.mem = s.mem ∧ t.cur = s.cur := by
  have hrun : exec (.imgLoad c) s = .next _ := congrArg Host.Outcome.next (command_of_vf_wide h hv)
  have hclean : l.find? (fun x => s.poisoned x.1) = none := List.find?_eq_none.2 fun x hx => by simp [hp x hx]
  rw [if_pos hn, hl] at hrun
  dsimp only at hrun
  rw [hclean] at hrun
  dsimp only at hrun
  rw [hi] at hrun
  refine ⟨_, _, hrun, tbl_get_set _ _ _, ?_, rfl, rfl⟩
  rw [← respond_eq_answered]
  rfl

end VfCommands

/-! ## Regions (R11 to R16, R330) -/

section Regions
variable {s : State} {c : Cmd} {v : Vf} (hv : Tbl.get? s.vfs c.vf = some v)

/-- A node as RCB_WRITE leaves it (R385). -/
def RcbNode.written (x : RcbNode) (c : Cmd) (now : Nat) : RcbNode := { x with
  bits := withOwn (BitVec.ofNat 512 (c.recordAt 1 8)) (c.num 0) x.parent x.level x.vf, cycUse := 0, bytUse := 0, exhCyc := false, exhByt := false
  since := if x.exhCyc || x.exhByt then now else x.since }

include hv in
theorem exec_rcbWrite_eq {x : RcbNode} (h : CmdOk s c 0x21 9) (hx : Tbl.get? s.rcbs (c.num 0) = some x) (hb : rcbReserved (BitVec.ofNat 512 (c.recordAt 1 8)) = false) :
    let t : State := { s with rcbs := Tbl.set s.rcbs (c.num 0) (x.written c s.cycle) }
    exec (.rcbWrite c) s = .next (if x.level ≠ 0 ∧ x.vf = c.vf ∧ recordOk (x.written c s.cycle).bits ∧ t.subtreeOk (c.num 0) then
      (t.quotaRestored (c.num 0)).answered c 0 [] else s.answered c 1 []) := by
  refine congrArg Host.Outcome.next ((command_of_vf_wide h hv).trans ?_)
  simp only [← respond_eq_answered]
  rw [if_neg (by simp [hb]), hx]
  rfl

include hv in
theorem exec_rcbWrite {x : RcbNode} (h : CmdOk s c 0x21 9) (hx : Tbl.get? s.rcbs (c.num 0) = some x) (hlevel : x.level ≠ 0) (hvf : x.vf = c.vf)
    (hres : rcbReserved (BitVec.ofNat 512 (c.recordAt 1 8)) = false) :
    let new := x.written c s.cycle
    let t : State := { s with rcbs := Tbl.set s.rcbs (c.num 0) new }
    (recordOk new.bits = true → t.subtreeOk (c.num 0) = true → exec (.rcbWrite c) s = .next ((t.quotaRestored (c.num 0)).answered c 0 [])) ∧
    (recordOk new.bits = false ∨ t.subtreeOk (c.num 0) = false → exec (.rcbWrite c) s = .next (s.answered c 1 [])) := by
  intro new t
  have hrun := exec_rcbWrite_eq hv h hx hres
  refine ⟨fun hrec htree => hrun.trans (congrArg _ (if_pos ⟨hlevel, hvf, hrec, htree⟩)), fun hno => hrun.trans (congrArg _ (if_neg ?_))⟩
  rintro ⟨-, -, hrec, htree⟩
  rcases hno with hno | hno
  · exact absurd hrec (by rw [hno]; decide)
  · exact absurd htree (by rw [hno]; decide)

include hv in
theorem exec_rcbCreate {p : RcbNode} (h : CmdOk s c 0x23 11) (hp : Tbl.get? s.rcbs (c.num 1) = some p) (hvf : p.vf = c.vf) (h1 : 1 ≤ p.level) (h4 : p.level ≤ 4)
    (hlo : 193 ≤ c.num 0) (hhi : c.num 0 ≤ 16383) (hfree : Tbl.get? s.rcbs (c.num 0) = none) (hpool : c.num 2 ≤ 4096) :
    let b : BitVec 512 := BitVec.ofNat 512 (c.recordAt 3 8)
    let bits := withOwn b (c.num 0) (c.num 1) (p.level + 1) p.vf
    let t : State := s.addNode (c.num 0) (newNode bits (c.num 2))
    rcbReserved b = false → recordOk bits = true → t.nodeOk (c.num 0) = true → exec (.rcbCreate c) s = .next (t.answered c 0 []) := by
  intro b bits t hres hrec hnode
  refine congrArg Host.Outcome.next ((command_of_vf_wide h hv).trans ?_)
  rw [← respond_eq_answered]
  dsimp only
  rw [if_neg (by rw [hres]; decide), hp]
  dsimp only
  rw [if_pos ⟨hlo, hhi, by rw [hfree]; rfl, hvf, h1, h4, hpool, hrec, hnode⟩]

include hv in
theorem exec_rcbDelete {x : RcbNode} (h : CmdOk s c 0x24 1) (hx : Tbl.get? s.rcbs (c.num 0) = some x) (hvf : x.vf = c.vf) (hlo : 193 ≤ c.num 0) :
    (x.pool = [] → (∀ y ∈ s.rcbs, y.2.parent ≠ c.num 0) → (∀ y ∈ s.slots, y.2.rcbx ≠ c.num 0) →
      exec (.rcbDelete c) s = .next (({ s with rcbs := Tbl.del s.rcbs (c.num 0) } : State).answered c 0 [])) ∧
    ((∃ y ∈ s.rcbs, y.2.level ≠ 0 ∧ y.2.parent = c.num 0) → exec (.rcbDelete c) s = .next (s.answered c 1 [])) := by
  refine ⟨fun hpool hleaf hunused => congrArg Host.Outcome.next ?_, fun ⟨y, hy, hlevel, hparent⟩ => congrArg Host.Outcome.next ?_⟩
  · rw [command_of_vf_wide h hv, change_done]
    rw [hx]
    simp only [Bool.and_eq_true, decide_eq_true_eq, beq_iff_eq, List.all_eq_true, Bool.or_eq_true, bne_iff_ne, hpool]
    exact ⟨⟨⟨⟨hlo, hvf⟩, fun y hy => .inr (hleaf y hy)⟩, fun y hy => .inl (hunused y hy)⟩, by simp⟩
  · rw [command_of_vf_wide h hv, change_refused]
    rw [hx]
    have hall : s.rcbs.all (fun y => y.2.level == 0 || y.2.parent != c.num 0) = false :=
      List.all_eq_false.2 ⟨y, hy, by simp [hlevel, hparent]⟩
    simp [hall]

end Regions

/-! ## Launch records (R18 to R21) -/

section Records
variable {s : State} {c : Cmd} {v : Vf} {x : RcbNode} (hv : Tbl.get? s.vfs c.vf = some v) (hx : Tbl.get? s.rcbs (c.num 0) = some x) (hvf : x.vf = c.vf)
  (hi : c.num 1 < x.poolSize)
include hv hx hvf hi

omit hv in
theorem lrecOf_eq : s.lrecOf c = some (x, x.lrec (c.num 0) (c.num 1)) := by
  rw [State.lrecOf, hx]
  exact if_pos ⟨hvf, hi⟩

theorem exec_lrecWrite (h : CmdOk s c 0x22 18) :
    let old := x.lrec (c.num 0) (c.num 1)
    let r : BitVec 1024 := BitVec.ofNat 1024 (c.recordAt 2 16)
    let new := setField (setField (setField r 33 32 0) 31 16 (c.num 0)) 15 0 (fieldN old 15 0)
    lrReserved r = false →
      (fieldN old 33 32 = 0 → s.lrecOk c.vf (c.num 0) new = true →
        exec (.lrecWrite c) s = .next (({ s with rcbs := Tbl.set s.rcbs (c.num 0) { x with pool := Tbl.set x.pool (c.num 1) new } } : State).answered c 0 [])) ∧
      (fieldN old 33 32 ≠ 0 ∨ s.lrecOk c.vf (c.num 0) new = false → exec (.lrecWrite c) s = .next (s.answered c 1 [])) := by
  intro old r new hres
  have hrun : exec (.lrecWrite c) s = .next (s.change c (fieldN old 33 32 == 0 && s.lrecOk c.vf (c.num 0) new) (fun s => s.setLrec (c.num 0) (c.num 1) new)) := by
    refine congrArg Host.Outcome.next ((command_of_vf_wide h hv).trans ?_)
    dsimp only
    rw [if_neg (by rw [hres]; decide), lrecOf_eq hx hvf hi]
    rfl
  refine ⟨fun h0 hok => ?_, fun hno => ?_⟩
  · rw [hrun, change_done (by simp [h0, hok]), State.setLrec, hx]
  · rw [hrun, change_refused (by rcases hno with h0 | hok <;> simp [*])]

theorem exec_lrecArm (h : CmdOk s c 0x25 2) (hcap : Tbl.get? s.dortas.captures x.vf = none) :
    let old := x.lrec (c.num 0) (c.num 1)
    (fieldN old 33 32 ≠ 0 → exec (.lrecArm c) s = .next (s.answered c 0 [1])) ∧
    (fieldN old 33 32 = 0 → s.overDemand (c.num 0) old = none → ∃ (t : State) (n : RcbNode), exec (.lrecArm c) s = .next t ∧ Tbl.get? t.rcbs (c.num 0) = some n ∧
      t.out = (s.answered c 0 [0]).out ∧ fieldN (n.lrec (c.num 0) (c.num 1)) 33 32 = 1 ∧
      fieldN (n.lrec (c.num 0) (c.num 1)) 15 0 = (fieldN old 15 0 + 1) % 65536 ∧ t.cur = s.cur ∧ t.mem = s.mem) := by
  intro old
  have hrun : exec (.lrecArm c) s = .next ((s.arm (c.num 0) (c.num 1)).1.answered c 0 [(s.arm (c.num 0) (c.num 1)).2]) := by
    refine congrArg Host.Outcome.next ((command_of_vf_wide h hv).trans ?_)
    dsimp only
    rw [lrecOf_eq hx hvf hi, ← respond_eq_answered]
  refine ⟨fun h0 => ?_, fun h0 hover => ?_⟩
  · rw [hrun, arm_busy hx h0]
  · rw [hrun, arm_arms_presented hx h0 hover hcap]
    refine ⟨_, _, rfl, (congrArg (Tbl.get? · _) (presented_rcbs _ _ _)).trans (tbl_get_set _ _ _), ?_, ?_, ?_, presented_cur _ _ _, presented_mem _ _ _⟩
    · simp only [State.answered, presented_out, presented_devaddr]
      rfl
    · simp only [RcbNode.lrec, tbl_get_set, Option.getD_some]
      rw [fieldN_setField_ne _ _ (by omega) (by omega) (by omega), fieldN_setField_same _ _ (by omega) (by omega)]
      rfl
    · simp only [RcbNode.lrec, tbl_get_set, Option.getD_some]
      rw [fieldN_setField_same _ _ (by omega) (by omega)]
      exact Nat.mod_mod _ _

end Records

/-! ## Entries (R326, R337, R341, R342) -/

theorem answered_out_congr {s t : State} (c : Cmd) (st : Nat) (ws : List Nat) (ho : t.out = s.out) (hd : t.devaddr = s.devaddr) :
    (t.answered c st ws).out = (s.answered c st ws).out := by
  simp only [State.answered, ho, hd]

section Entries
variable {s : State} {c : Cmd} {v : Vf} {x : Slot} (hv : Tbl.get? s.vfs c.vf = some v) (hx : EntryIs s (c.num 0) x) (hvf : x.vf = c.vf)
include hx hvf

theorem entryOf_eq (h0 : x.state ≠ 0) (h7 : x.state ≠ 7) : s.entryOf c = some x := by
  rw [State.entryOf, show Tbl.get? s.slots (c.num 0) = some x from hx]
  simp [hvf, h0, h7]

include hv

theorem exec_kill (h : CmdOk s c 0x30 1) (h2 : 2 ≤ x.state) (h5 : x.state ≤ 5) (hr : NotRetiring s (c.num 0)) :
    exec (.kill c) s = .next ((s.setSlot (c.num 0) (x.killed (.reason 0x0100))).answered c 0 []) := by
  refine congrArg Host.Outcome.next ((command_of_vf_wide h hv).trans ?_)
  rw [entryOf_eq hx hvf (by omega) (by omega)]
  dsimp only
  rw [if_neg (by omega), writeKilling_of_living hx h2 h5 hr, respond_eq_answered]

theorem exec_preempt_running (h : CmdOk s c 0x31 1) (h2 : x.state = 2) (hr : NotRetiring s (c.num 0)) :
    exec (.preempt c) s = .next ((s.setSlot (c.num 0) (x.setState 3)).answered c 0 []) := by
  refine congrArg Host.Outcome.next ((command_of_vf_wide h hv).trans ?_)
  rw [entryOf_eq hx hvf (by omega) (by omega)]
  dsimp only
  rw [if_pos h2, writeStopping_of_running hx h2 hr, respond_eq_answered]

theorem exec_preempt_stopping (h : CmdOk s c 0x31 1) (h3 : x.state = 3) : exec (.preempt c) s = .next (s.answered c 4 []) := by
  refine congrArg Host.Outcome.next ((command_of_vf_wide h hv).trans ?_)
  rw [entryOf_eq hx hvf (by omega) (by omega)]
  dsimp only
  rw [if_neg (by omega), if_neg (by omega), respond_eq_answered]

theorem exec_resume_running (h : CmdOk s c 0x32 1) (h2 : x.state = 2) : exec (.resume c) s = .next (s.answered c 1 []) := by
  refine congrArg Host.Outcome.next ((command_of_vf_wide h hv).trans ?_)
  rw [entryOf_eq hx hvf (by omega) (by omega)]
  dsimp only
  rw [if_pos (.inl h2), respond_eq_answered]

theorem exec_resume_stopped (h : CmdOk s c 0x32 1) (h4 : x.state = 4) (hsus : x.suspended = false) (hheld : x.held = none) (hroll : x.rolling = false)
    (hexh : s.exhausted x.rcbx = false) :
    ∃ t : State, exec (.resume c) s = .next (t.answered c 0 []) ∧ EntryIs t (c.num 0) (x.setState 5) ∧ t.butLeases = (s.setSlot (c.num 0) (x.setState 5)).butLeases := by
  have hrest := restoreSlot_of_stopped hx h4 hsus hheld hroll hexh
  have hentry : EntryIs (s.restoreSlot (c.num 0)) (c.num 0) (x.setState 5) := by
    rw [EntryIs, show (s.restoreSlot (c.num 0)).slots = _ from (congrArg State.slots hrest :)]
    exact tbl_get_set _ _ _
  refine ⟨s.restoreSlot (c.num 0), congrArg Host.Outcome.next ((command_of_vf_wide h hv).trans ?_), hentry, hrest⟩
  dsimp only
  rw [entryOf_eq hx hvf (by omega) (by omega)]
  dsimp only
  rw [if_neg (by simp [h4, hexh]), if_pos h4, show Tbl.get? (s.restoreSlot (c.num 0)).slots (c.num 0) = _ from hentry, if_pos (by simp), respond_eq_answered]

end Entries

/-- Settles O52: every command's checks, then what each does. -/
theorem hostCommands : Obligations.HostCommands := by
  refine ⟨command_checks, fun s c v => ⟨exec_vfCreate, fun hv => ?_⟩⟩
  refine ⟨fun h hd hs => exec_vfDestroy_empty h hv hd hs, fun k x h hd hx hvf h2 h5 hr _ => exec_vfDestroy_living h hv hd hx hvf h2 h5 hr, fun h => exec_s1root h hv,
    fun h => exec_s2root h hv, fun h => exec_inval h hv, fun l i h hn hl hp hi => exec_imgLoad h hv hn hl hp hi, fun x h hx hlevel hvf => exec_rcbWrite hv h hx hlevel hvf,
    fun p h hp hvf h1 h4 hlo hhi hfree hpool => exec_rcbCreate hv h hp hvf h1 h4 hlo hhi hfree hpool, fun x h hx hvf hlo => exec_rcbDelete hv h hx hvf hlo,
    fun x hx hvf hi => ⟨exec_lrecWrite hv hx hvf hi, exec_lrecArm hv hx hvf hi⟩, fun x hx hvf => ⟨fun h h2 h5 hr => ?_, fun h => ⟨fun h2 hr => ?_, exec_preempt_stopping hv hx hvf h⟩,
      fun h => ⟨fun h4 hsus hheld hroll hexh => ?_, exec_resume_running hv hx hvf h⟩⟩⟩
  · exact ⟨_, _, exec_kill hv hx hvf h h2 h5 hr, tbl_get_set _ _ _, killed_state _ _, rfl, rfl, rfl⟩
  · exact ⟨_, _, exec_preempt_running hv hx hvf h h2 hr, tbl_get_set _ _ _, setState_state _ _, rfl, rfl⟩
  · obtain ⟨t, hrun, hentry, hsame⟩ := exec_resume_stopped hv hx hvf h h4 hsus hheld hroll hexh
    exact ⟨_, _, hrun, hentry, setState_state _ _, answered_out_congr c 0 [] (congrArg State.out hsame :) (congrArg State.devaddr hsame :), (congrArg State.cur hsame :)⟩

end Sys2Proof.Machine
end

section
/-! PROOFS. Waits and watchdogs (O47): the current context as the tables of contexts show it, then each move. -/
namespace Sys2Proof.Machine

@[simp] theorem ctx?_cur_ref (s : State) : s.ctx? s.cur.ref = some s.cur := if_pos rfl
@[simp] theorem setCtx_cur_ref (s : State) (f : Context → Context) : s.setCtx s.cur.ref f = s.setCur f := if_pos rfl

/-! ## Waits that end (R27, R52) -/

section Waits
variable {s : State} {w : WaitRec} (hw : s.cur.wait = some w) (hp : s.cur.phase = .waiting) (hr : s.running s.cur.slot = true)
include hw

theorem exec_waitSatisfied_holds (hp : s.cur.phase = .waiting) (hr : s.running s.cur.slot = true) (h : s.waitHolds s.cur w.cond = true) :
    exec (.waitSatisfied s.cur.ref) s = .next (s.setCur (fun c => { c with phase := .ready, wait := none })) := by
  refine congrArg Host.Outcome.next ?_
  rw [ctx?_cur_ref]
  dsimp only
  rw [hw]
  exact (if_pos ⟨hp, hr, h⟩).trans (setCtx_cur_ref s _)

theorem exec_waitSatisfied_not (h : s.waitHolds s.cur w.cond = false) : exec (.waitSatisfied s.cur.ref) s = .next s := by
  refine congrArg Host.Outcome.next ?_
  rw [ctx?_cur_ref]
  dsimp only
  rw [hw]
  exact if_neg (by simp [h])

/-! ## Watchdogs of waits (R52, R78, R166, R358) -/

include hp hr in
theorem overdue_late (h : s.waitHolds s.cur w.cond = false) (hlate : w.since + w.bound ≤ s.cycle) : s.overdue s.cur = some w.cond := by
  rw [State.overdue, hw]
  exact if_pos ⟨hp, hr, hlate, h⟩

theorem overdue_early (h : s.cycle < w.since + w.bound) : s.overdue s.cur = none := by
  rw [State.overdue, hw]
  exact if_neg (by omega)

omit hw

/-- A wait that is bounded and on no trough ends with a WATCHDOG fault. -/
theorem exec_waitWatchdog_plain {x : WaitCond} (ho : s.overdue s.cur = some x) (hb : x.bounded = true) (ht : x.trough = none) :
    exec (.waitWatchdog s.cur.ref) s = .next (s.takeFault s.cur.ref ⟨0x19, 0, 0, false⟩ s.cur.pc) := by
  refine congrArg Host.Outcome.next ?_
  rw [ctx?_cur_ref]
  dsimp only
  rw [ho, Option.filter_some, if_pos hb]
  dsimp only
  rw [ht]

/-- One on a trough marks the trough inconsistent. -/
theorem exec_waitWatchdog_trough {x : WaitCond} {k : Nat} {t : Trough} (ho : s.overdue s.cur = some x) (hb : x.bounded = true) (hk : x.trough = some k)
    (ht : Tbl.get? s.troughs k = some t) :
    exec (.waitWatchdog s.cur.ref) s = .next ((s.setTrough k { t with inc := true }).takeFault s.cur.ref ⟨0x0F, 0, 0, false⟩ s.cur.pc) := by
  refine congrArg Host.Outcome.next ?_
  rw [ctx?_cur_ref]
  dsimp only
  rw [ho, Option.filter_some, if_pos hb]
  dsimp only
  rw [hk]
  dsimp only
  rw [State.setInc, ht]

theorem exec_waitWatchdog_early (ho : s.overdue s.cur = none) (hb : s.banks = []) : exec (.waitWatchdog s.cur.ref) s = .next s := by
  refine congrArg Host.Outcome.next ?_
  rw [ctx?_cur_ref]
  dsimp only
  rw [ho, Option.filter_none, State.lateSwitch, hb, List.find?_nil, Option.map_none, ite_self]

theorem exec_pageRequestWatchdog_late {ps : List Nat} (ho : s.overdue s.cur = some (.pageReply ps)) :
    exec (.pageRequestWatchdog s.cur.ref) s = .next (s.takeFault s.cur.ref ⟨0x19, 6, 0, false⟩ s.cur.pc) := by
  refine congrArg Host.Outcome.next ?_
  rw [ctx?_cur_ref]
  dsimp only
  rw [ho]

theorem exec_pageRequestWatchdog_early (ho : s.overdue s.cur = none) (hq : s.cur.copyq = []) : exec (.pageRequestWatchdog s.cur.ref) s = .next s := by
  refine congrArg Host.Outcome.next ?_
  rw [ctx?_cur_ref]
  dsimp only
  rw [ho]
  dsimp only
  rw [State.overdueCopy, hq, List.find?_nil, ite_self]

end Waits

/-! ## The iteration watchdog (R78) -/

theorem maxiter_of_image {s : State} {slot : Nat} {x : Slot} {i : Image} (hx : EntryIs s slot x) (hi : Tbl.get? s.images x.image = some i) :
    s.maxiter slot = fieldN i.header 191 160 := by
  have himage : s.imageOf slot = some i := by
    rw [State.imageOf, show Tbl.get? s.slots slot = some x from hx]
    exact hi
  rw [State.maxiter, himage]

theorem exec_maxiterWatchdog {s : State} (hr : s.running s.cur.slot = true) (hp : s.cur.phase = .ready) :
    exec (.maxiterWatchdog s.cur.ref) s = .next (if s.maxiter s.cur.slot < s.cur.sinceBoundary then s.takeFault s.cur.ref ⟨0x19, 3, 0, false⟩ s.cur.pc else s) := by
  have hcond : (s.cur.phase = .ready ∧ s.running s.cur.ref.slot = true ∧ s.maxiter s.cur.ref.slot < s.cur.sinceBoundary) ↔
      s.maxiter s.cur.slot < s.cur.sinceBoundary := ⟨fun h => h.2.2, fun h => ⟨hp, hr, h⟩⟩
  refine congrArg Host.Outcome.next ?_
  rw [ctx?_cur_ref]
  dsimp only
  simp only [hcond]

/-- Settles O47: a wait by whether its condition holds and its bound has passed. -/
theorem waitsAndWatchdogs : Obligations.WaitsAndWatchdogs := by
  refine ⟨fun s w hw hp hr => ⟨exec_waitSatisfied_holds hw hp hr, exec_waitSatisfied_not hw, fun h hlate => ?_,
    fun h hb => exec_waitWatchdog_early (overdue_early hw h) hb, fun h hq => exec_pageRequestWatchdog_early (overdue_early hw h) hq⟩,
    fun s x i hr hp hx hi => ?_⟩
  · have ho := overdue_late hw hp hr h hlate
    refine ⟨fun n hc => exec_waitWatchdog_plain (hc ▸ ho) rfl rfl, fun g k p hc => exec_waitWatchdog_plain (hc ▸ ho) rfl rfl, fun g hc => ?_,
      fun ps b hc => exec_waitWatchdog_plain (hc ▸ ho) rfl rfl, fun g n t hc ht => ?_, fun ps hc => exec_pageRequestWatchdog_late (hc ▸ ho)⟩
    · rcases hc with hc | hc | hc <;> exact exec_waitWatchdog_plain (hc ▸ ho) rfl rfl
    · rcases hc with hc | hc | hc | hc <;> exact exec_waitWatchdog_trough (hc ▸ ho) rfl rfl ht
  · rw [exec_maxiterWatchdog hr hp, maxiter_of_image hx hi]
    exact ⟨fun h => congrArg _ (if_pos h), fun h => congrArg _ (if_neg (by omega))⟩

end Sys2Proof.Machine
end

section
/-! PROOFS. Shape, rounding mode and address slots (O26). -/
namespace Sys2Proof.Machine

/-! ## Low and high bits of a word -/

/-- The high bits of one word over the low k bits of another. -/
theorem toNat_high_or_low (a b : Word) (k : Nat) :
    ((a &&& ~~~BitVec.ofNat 64 (2 ^ k - 1)) ||| (b &&& BitVec.ofNat 64 (2 ^ k - 1))).toNat = a.toNat / 2 ^ k * 2 ^ k + b.toNat % 2 ^ k := by
  rw [Nat.mul_comm, Nat.two_pow_add_eq_or_of_lt (Nat.mod_lt _ (Nat.two_pow_pos k))]
  refine Nat.eq_of_testBit_eq fun i => ?_
  rw [BitVec.testBit_toNat, Nat.testBit_or, Nat.testBit_two_pow_mul, Nat.testBit_mod_two_pow, BitVec.getLsbD_or, BitVec.getLsbD_and, BitVec.getLsbD_and,
    BitVec.getLsbD_not, BitVec.getLsbD_ofNat, Nat.testBit_two_pow_sub_one, Nat.testBit_div_two_pow, BitVec.testBit_toNat, BitVec.testBit_toNat]
  by_cases h : i < 64
  · by_cases hk : i < k
    · simp [h, hk]
    · simp [h, hk, show k ≤ i by omega, show i - k + k = i by omega]
  · simp [h, BitVec.getLsbD_of_ge a i (by omega), BitVec.getLsbD_of_ge b i (by omega)]
    intro hki
    exact BitVec.getLsbD_of_ge _ _ (by omega)

/-! ## VSHAPE, VSETRM, AMOD, AMOV, AADD -/

section Runs
variable {s : State}

theorem exec_vshape {o : VSb} (hb : s.cur.isFull o.sb = true) (hl : tilesLanded s.cur = true) (hok : vshapeOk (s.cur.getS o.sb) = true) :
    exec (.vshape o) s = .next (s.setCur (fun c => ({ c with vshape := s.cur.getS o.sb } : Context).nextSeq)) := by
  refine runAct_ok ?_
  rw [act_bind_readSrc hb, act_bind_raiseIf (by simp [hok]), act_bind_waitIf (by simp [hl])]
  rfl

theorem exec_vsetrm {o : VSb} (hb : s.cur.isFull o.sb = true) (hx : (s.cur.getS o.sb).toNat < 6) :
    exec (.vsetrm o) s = .next (s.setCur (fun c => ({ c with fcsr := (c.fcsr &&& ~~~7#64) ||| s.cur.getS o.sb } : Context).nextSeq)) := by
  refine runAct_ok ?_
  rw [act_bind_readSrc hb, act_bind_raiseIf (by simpa using hx)]
  rfl

theorem exec_vsetrm_reserved {o : VSb} (hb : s.cur.isFull o.sb = true) (hx : 6 ≤ (s.cur.getS o.sb).toNat) :
    exec (.vsetrm o) s = .next (s.takeFault s.cur.ref ⟨0x02, 0, s.cur.getS o.sb, false⟩ s.cur.pc) := by
  refine runAct_raise ?_
  rw [act_bind_readSrc hb, act_bind_raiseIf_stop (by simpa using hx)]

/-- The mode field is replaced, the rest of fcsr stays (R188). -/
theorem toNat_replace_mode (a x : Word) (hx : x.toNat < 8) : ((a &&& ~~~7#64) ||| x).toNat = a.toNat / 8 * 8 + x.toNat := by
  have hlow : x &&& BitVec.ofNat 64 (2 ^ 3 - 1) = x := by
    refine BitVec.eq_of_toNat_eq ?_
    rw [BitVec.toNat_and, BitVec.toNat_ofNat, show (2 ^ 3 - 1) % 2 ^ 64 = 2 ^ 3 - 1 from rfl, Nat.and_two_pow_sub_one_eq_mod]
    exact Nat.mod_eq_of_lt hx
  have h := toNat_high_or_low a x 3
  rw [hlow] at h
  rw [show (7#64) = BitVec.ofNat 64 (2 ^ 3 - 1) from rfl, h]
  omega

variable {o : VSlot} (hb : s.cur.isFull o.sb = true)
include hb

theorem exec_amod (hok : modOk (s.cur.getS o.sb) = true) : exec (.amod o) s = .next (s.setCur (fun c => ({ c with
    am := c.am.set o.n.toNat (s.cur.getS o.sb) o.n.isLt, cb := c.cb.set o.n.toNat (s.cur.a[o.n.toNat]'o.n.isLt) o.n.isLt } : Context).nextSeq)) := by
  refine runAct_ok ?_
  rw [act_bind_readSrc hb, act_bind_raiseIf (by simp [hok])]
  rfl

theorem exec_amov : exec (.amov o) s = .next (s.setCur (fun c => ({ c with
    a := c.a.set o.n.toNat (s.cur.getS o.sb) o.n.isLt, cb := c.cb.set o.n.toNat (s.cur.getS o.sb) o.n.isLt } : Context).nextSeq)) := by
  refine runAct_ok ?_
  rw [act_bind_readSrc hb]
  rfl

theorem exec_aadd : exec (.aadd o) s = .next (s.setCur (fun c => ({ c with
    a := c.a.set o.n.toNat (s.cur.a[o.n.toNat]'o.n.isLt + s.cur.getS o.sb) o.n.isLt } : Context).nextSeq)) := by
  refine runAct_ok ?_
  rw [act_bind_readSrc hb]
  rfl

end Runs

/-! ## The checks of a shape and of a modifier, and the post-increment (R38, R187) -/

theorem vshapeOk_of_fields {x : Word} (h1 : 1 ≤ x.toNat % 32) (h2 : x.toNat % 32 ≤ 16) (h3 : 1 ≤ x.toNat / 32 % 256) (h4 : x.toNat / 32 % 256 ≤ 128)
    (h5 : x.toNat / 2 ^ 13 % 8 < 3) (h6 : x.toNat % 32 * (x.toNat / 32 % 256) * 2 ^ (x.toNat / 2 ^ 13 % 8) ≤ 2048) (h7 : x.toNat < 2 ^ 16) : vshapeOk x = true := by
  have hrows : fieldN x 4 0 = x.toNat % 32 := by
    rw [fieldN_eq, Nat.pow_zero, Nat.div_one]
    rfl
  have hcols : fieldN x 12 5 = x.toNat / 32 % 256 := fieldN_eq x 12 5
  have hw : fieldN x 15 13 = x.toNat / 2 ^ 13 % 8 := fieldN_eq x 15 13
  have hrest : x.extractLsb' 16 48 = 0 := (extractLsb'_eq_zero_iff x 16 48).2 (by
    rw [Nat.div_eq_of_lt h7]
    rfl)
  unfold vshapeOk
  dsimp only
  rw [hrows, hcols, hw, hrest, decide_eq_true ⟨h1, h2, h3, h4, h5, h6⟩]
  rfl

theorem modOk_of_fields {x : Word} (h0 : x.toNat / 2 ^ 32 % 2 ^ 8 = 0) (h1 : 1 ≤ x.toNat / 2 ^ 62 → 1 ≤ x.toNat / 2 ^ 40 % 2 ^ 22)
    (h2 : x.toNat / 2 ^ 62 = 1 ∨ x.toNat / 2 ^ 62 = 3 → (∃ k, x.toNat / 2 ^ 40 % 2 ^ 22 = 2 ^ k) ∧ 32 ≤ x.toNat / 2 ^ 40 % 2 ^ 22)
    (h3 : x.toNat / 2 ^ 62 = 3 → x.toNat % 2 ^ 32 ∈ [1, 2, 4, 8]) : modOk x = true := by
  have hmode : fieldN x 63 62 = x.toNat / 2 ^ 62 := by rw [fieldN_eq, Nat.mod_eq_of_lt (by have := x.isLt; omega)]
  have hlen : fieldN x 61 40 = x.toNat / 2 ^ 40 % 2 ^ 22 := fieldN_eq x 61 40
  have hstep : fieldN x 31 0 = x.toNat % 2 ^ 32 := by rw [fieldN_eq, Nat.pow_zero, Nat.div_one]
  have hpad : fieldN x 39 32 = 0 := (fieldN_eq x 39 32).trans h0
  have hpow : ∀ n : Nat, (∃ k, n = 2 ^ k) → n &&& (n - 1) = 0 := by
    rintro n ⟨k, rfl⟩
    rw [Nat.and_two_pow_sub_one_eq_mod, Nat.mod_self]
  unfold modOk
  dsimp only
  rw [hmode, hlen, hstep, hpad]
  simp only [Bool.and_eq_true, Bool.or_eq_true, decide_eq_true_eq, bne_iff_ne, Bool.not_eq_true', Bool.or_eq_false_iff, decide_eq_false_iff_not]
  refine ⟨⟨⟨trivial, ?_⟩, ?_⟩, ?_⟩
  · by_cases hm : x.toNat / 2 ^ 62 = 0
    · exact .inl hm
    · exact .inr (Nat.pos_iff_ne_zero.1 (h1 (Nat.pos_iff_ne_zero.2 hm)))
  · by_cases hm : x.toNat / 2 ^ 62 = 1 ∨ x.toNat / 2 ^ 62 = 3
    · exact .inr ⟨hpow _ (h2 hm).1, (h2 hm).2⟩
    · exact .inl (not_or.1 hm)
  · by_cases hm : x.toNat / 2 ^ 62 = 3
    · have hsteps := h3 hm
      simp only [List.mem_cons, List.not_mem_nil, or_false] at hsteps
      tauto
    · exact .inl (.inl (.inl (.inl hm)))

section Increment
variable (a x b : Word)

theorem mode_field : fieldN x 63 62 = x.toNat / 2 ^ 62 := by rw [fieldN_eq, Nat.mod_eq_of_lt (by have := x.isLt; omega)]

theorem step_field : (x.extractLsb' 0 32).signExtend 64 = (x.setWidth 32).signExtend 64 := by
  rw [← BitVec.setWidth_eq_extractLsb' (by omega)]

theorem postInc_linear (h : x.toNat / 2 ^ 62 = 0) : postInc a x b = a + (x.setWidth 32).signExtend 64 := by
  rw [postInc, mode_field, h, step_field]
  rfl

theorem postInc_modulo (h : x.toNat / 2 ^ 62 = 1) {k : Nat} (hk : x.toNat / 2 ^ 40 % 2 ^ 22 = 2 ^ k) :
    (postInc a x b).toNat = a.toNat / 2 ^ k * 2 ^ k + (a + (x.setWidth 32).signExtend 64).toNat % 2 ^ k := by
  rw [postInc, mode_field, h, step_field, fieldN_eq x 61 40, hk]
  exact toNat_high_or_low a _ k

theorem postInc_circular (h : x.toNat / 2 ^ 62 = 2) : postInc a x b =
    b + BitVec.ofInt 64 (((a.toNat : Int) - b.toNat + ((x.setWidth 32).signExtend 64).toInt) % (x.toNat / 2 ^ 40 % 2 ^ 22 : Nat)) := by
  rw [postInc, mode_field, h, step_field, fieldN_eq x 61 40]
  rfl

end Increment

/-- Settles O26: each instruction's run, and the post-increment mode by mode. -/
theorem vectorControl : Obligations.VectorControl := by
  refine ⟨fun o s hb => ⟨fun hl h1 h2 h3 h4 h5 h6 h7 => exec_vshape hb hl (vshapeOk_of_fields h1 h2 h3 h4 h5 h6 h7), fun hx => ?_, exec_vsetrm_reserved hb⟩,
    fun o s hb => ⟨fun h0 h1 h2 h3 => exec_amod hb (modOk_of_fields h0 h1 h2 h3), exec_amov hb, exec_aadd hb⟩,
    fun a x b => ⟨postInc_linear a x b, fun h k hk => ?_, fun h _ => postInc_circular a x b h⟩⟩
  · have hfcsr : ∀ c : Context, c.nextSeq.fcsr = c.fcsr := fun c => by simp
    refine ⟨_, exec_vsetrm hb (by omega), ?_, ?_⟩
    · rw [setCur_cur, hfcsr]
      rfl
    · rw [setCur_cur, hfcsr]
      exact toNat_replace_mode _ _ (by omega)
  · rw [hk]
    exact postInc_modulo a x b h hk

end Sys2Proof.Machine
end

section
/-! PROOFS. Retirement (O20): the counterexample. The statement asks that the keys of the slot table are distinct, not that they rise; `Tbl.set` puts an
entry before the first greater key, so that the charge of R28 leaves two entries of one index in a table out of order, and the freed entry is only the
first of them. -/
namespace Sys2Proof.Machine

/-- A running entry that holds core 0. -/
def runningEntry : Slot :=
  { bind := setField (setField 0 896 896 1) 2 0 2, image := 0, bindCycle := 0, sliceStart := 0, chargedAt := 0, ckpt := none, kill := none, markers := []
    yieldAsked := none, quotaAt := [], quotaStop := false, leases := [], suspended := false, offer := none, rolling := false, held := none }

/-- The control context of entry 3 about to halt, its entry behind a free one of a greater index. -/
def haltState : State :=
  { State.reset with
    cur := { Context.blank with slot := 3, phase := .ready }
    slots := [(5, runningEntry.setState 0), (3, runningEntry)] }

/-- Entry 3 is still in the table when its control context has halted. -/
theorem haltState_keeps_entry :
    (match exec (.eretHalt ⟨0, false⟩) haltState with
      | .next t => (Tbl.get? t.slots 3).isSome
      | _ => false) = true := by decide +kernel

theorem haltState_done : OwnWorkDone haltState := by
  refine ⟨rfl, ⟨by decide +kernel, fun core _ => rfl⟩, ?_, ?_⟩
  · intro h
    cases h
  · intro h
    cases h

/-- Refutes O20: ERET.HALT of a control context whose slot table is out of order does not free its entry. -/
theorem not_forkAndHalt : ¬ Obligations.ForkAndHalt := by
  rintro ⟨-, -, -, hretire, -⟩
  obtain ⟨t, hrun, hgone, -⟩ := hretire ⟨0, false⟩ haltState runningEntry rootRcb (by decide +kernel) (by decide +kernel)
    haltState_done rfl (by decide +kernel) rfl (by decide +kernel) (by decide +kernel)
    (by decide +kernel) (by decide +kernel) rfl rfl rfl (by decide +kernel)
  have hkeeps := haltState_keeps_entry
  rw [hrun] at hkeeps
  dsimp only at hkeeps
  rw [show Tbl.get? t.slots 3 = none from hgone] at hkeeps
  cases hkeeps

end Sys2Proof.Machine
end

section
/-! PROOFS. What the larger operations leave unchanged: metering, charging, release of leases, routes and rates, accesses performed. -/
namespace Sys2Proof.Machine

/-! ## Metering and charging -/

def State.butMeter (s : State) : State := { s with assay := [], rcbs := [] }

theorem meter_but_meter (s : State) (slot k n : Nat) : (s.meter slot k n).butMeter = s.butMeter := by
  unfold State.meter
  split
  · rfl
  · dsimp only
    split <;> rfl

theorem meterBytes_but_meter (s : State) (slot : Nat) (core : Bool) (pa n : Nat) : (s.meterBytes slot core pa n).butMeter = s.butMeter := by
  unfold State.meterBytes
  split
  · exact meter_but_meter _ _ _ _
  · exact meter_but_meter _ _ _ _
  · rfl
  · rfl

def State.butCharge (s : State) : State := { s with rcbs := [], slots := [] }

theorem chargeSlot_but_charge (s : State) (k : Nat) : (s.chargeSlot k).butCharge = s.butCharge := by
  unfold State.chargeSlot
  split
  · rfl
  · split <;> rfl

theorem chargeAll_but_charge (s : State) : s.chargeAll.butCharge = s.butCharge := by
  show (s.slots.foldl (fun t x => t.chargeSlot x.1) s).butCharge = _
  exact foldl_keeps State.butCharge (fun t (x : Nat × Slot) => chargeSlot_but_charge t x.1) _ _

section
variable (s : State)
@[simp] theorem chargeAll_cur : s.chargeAll.cur = s.cur := (congrArg State.cur (chargeAll_but_charge s) :)
@[simp] theorem chargeAll_mem : s.chargeAll.mem = s.mem := (congrArg State.mem (chargeAll_but_charge s) :)
@[simp] theorem chargeAll_cycle : s.chargeAll.cycle = s.cycle := (congrArg State.cycle (chargeAll_but_charge s) :)
@[simp] theorem chargeAll_hearths : s.chargeAll.hearths = s.hearths := (congrArg State.hearths (chargeAll_but_charge s) :)
@[simp] theorem chargeAll_troughs : s.chargeAll.troughs = s.troughs := (congrArg State.troughs (chargeAll_but_charge s) :)
@[simp] theorem chargeAll_images : s.chargeAll.images = s.images := (congrArg State.images (chargeAll_but_charge s) :)
end

/-! ## What an entry is after a charge -/

/-- A charge of one entry changes at most the cycle of its last charge. -/
theorem chargeSlot_entry {s : State} {j k : Nat} {x : Slot} (hx : EntryIs s k x) : ∃ n, EntryIs (s.chargeSlot j) k { x with chargedAt := n } := by
  unfold State.chargeSlot
  split
  · exact ⟨_, hx⟩
  · rename_i y hy
    split
    · by_cases h : k = j
      · subst h
        obtain rfl : y = x := Option.some.inj (hy.symm.trans hx)
        exact ⟨_, tbl_get_set _ _ _⟩
      · exact ⟨_, (tbl_get_set_ne _ _ h).trans hx⟩
    · exact ⟨_, hx⟩

theorem chargeAll_entry {s : State} {k : Nat} {x : Slot} (hx : EntryIs s k x) : ∃ n, EntryIs s.chargeAll k { x with chargedAt := n } := by
  show ∃ n, EntryIs (s.slots.foldl (fun t x => t.chargeSlot x.1) s) k _
  have key : ∀ (l : List (Nat × Slot)) (t : State), (∃ n, EntryIs t k { x with chargedAt := n }) →
      ∃ n, EntryIs (l.foldl (fun t x => t.chargeSlot x.1) t) k { x with chargedAt := n } := by
    intro l
    induction l with
    | nil => exact fun t ht => ht
    | cons z rest ih =>
      rintro t ⟨n, ht⟩
      obtain ⟨m, hm⟩ := chargeSlot_entry (j := z.1) ht
      exact ih _ ⟨m, hm⟩
  exact key _ _ ⟨_, hx⟩

/-! ## Leases, routes, rates -/

/-- Blanked: what a lease, a route or a loop that is let go changes. -/
def State.butHeld (s : State) : State :=
  { s with hearths := [], leaseQ := [], routes := [], rates := [], banks := [], cur := Context.blank, parked := [] }

theorem releaseLeases_but_leases (s : State) (k : Nat) : (s.releaseLeases k).butLeases = s.butLeases := by
  unfold State.releaseLeases
  dsimp only
  rw [grantLeases_but_leases, butLeases_of_butHearths (dropLease_but_hearths _ _)]
  rfl

theorem freeRoute_but_held (s : State) (g r : Nat) : (s.freeRoute g r).butHeld = s.butHeld := by
  unfold State.freeRoute
  split
  · rfl
  · dsimp only
    split <;> rfl

theorem releaseRoutes_but_held (s : State) (k : Nat) : (s.releaseRoutes k).butHeld = s.butHeld := by
  unfold State.releaseRoutes
  exact foldl_keeps State.butHeld (fun t r => freeRoute_but_held t _ _) _ s

end Sys2Proof.Machine
end

section
/-! PROOFS. Leases, routes and memory that an instance lets go (R28, R158, R163): what a Hearth, a context and a byte are afterwards. -/
namespace Sys2Proof.Machine

/-! ## Leases (R163) -/

@[simp] theorem hearth_setHearth_same (s : State) (g : Nat) (h : Hearth) : (s.setHearth g h).hearth g = h := by simp [State.hearth, State.setHearth]
theorem hearth_setHearth_ne (s : State) {g j : Nat} (h : Hearth) (hj : j ≠ g) : (s.setHearth g h).hearth j = s.hearth j := by
  rw [State.hearth, State.setHearth, tbl_get_set_ne _ _ hj, State.hearth]

/-- A Hearth that is held is in the table. -/
theorem mem_leased {s : State} {g k : Nat} (h : (s.hearth g).holder = some k) : g ∈ s.leased k := by
  rw [State.hearth] at h
  cases hg : Tbl.get? s.hearths g with
  | none =>
    rw [hg] at h
    cases h
  | some x =>
    rw [hg] at h
    exact List.mem_map.2 ⟨(g, x), List.mem_filter.2 ⟨tbl_mem_of_get hg, by simpa using h⟩, rfl⟩

/-- Hearth g after a lease of `grps` has been dropped. -/
theorem dropLease_hearth (s : State) (grps : List Nat) (g : Nat) :
    (s.dropLease grps).hearth g = if g ∈ grps then { s.hearth g with holder := none, leaseGrps := [] } else s.hearth g := by
  unfold State.dropLease
  induction grps generalizing s with
  | nil => rfl
  | cons a rest ih =>
    rw [List.foldl_cons, ih]
    by_cases ha : g = a
    · subst ha
      simp
    · simp [hearth_setHearth_ne _ _ ha, ha]

/-- What of Hearth g a lease or its end leaves: all but the holder, the lease's groups and the run. -/
def Hearth.butLease (h : Hearth) : Hearth := { h with holder := none, leaseGrps := [], runStart := 0, runCount := 0 }

theorem grantLease_butLease (s : State) (slot : Nat) (grps : List Nat) (g : Nat) : ((s.grantLease slot grps).hearth g).butLease = (s.hearth g).butLease := by
  unfold State.grantLease
  refine foldl_keeps (fun t : State => (t.hearth g).butLease) (fun t a => ?_) grps s
  by_cases ha : g = a
  · subst ha
    simp [Hearth.butLease]
  · simp [hearth_setHearth_ne _ _ ha]

/-- The holder of Hearth g after a lease of `grps` has been granted. -/
theorem grantLease_holder (s : State) (slot : Nat) (grps : List Nat) (g : Nat) :
    ((s.grantLease slot grps).hearth g).holder = if g ∈ grps then some slot else (s.hearth g).holder := by
  unfold State.grantLease
  generalize hall : grps = all
  have key : ∀ (l : List Nat) (t : State), ((l.foldl (fun t g => t.setHearth g { t.hearth g with holder := some slot, leaseGrps := all, runStart := t.cycle, runCount := 0 }) t).hearth g).holder =
      if g ∈ l then some slot else (t.hearth g).holder := by
    intro l
    induction l with
    | nil => exact fun t => rfl
    | cons a rest ih =>
      intro t
      rw [List.foldl_cons, ih]
      by_cases ha : g = a
      · subst ha
        simp
      · simp [hearth_setHearth_ne _ _ ha, ha]
  exact key all s

theorem grantScan_butLease (s : State) (kept l : List LeaseReq) (g : Nat) : ((s.grantScan kept l).hearth g).butLease = (s.hearth g).butLease := by
  induction l generalizing s kept with
  | nil => rfl
  | cons r rest ih =>
    rw [State.grantScan]
    split
    · exact ih _ _
    · rw [ih, grantLease_butLease]

/-- Requests that are none of an instance's give it no Hearth. -/
theorem grantScan_holder_ne {k : Nat} (s : State) (kept l : List LeaseReq) (hl : ∀ r ∈ l, r.slot ≠ k) (h : ∀ g, (s.hearth g).holder ≠ some k) (g : Nat) :
    ((s.grantScan kept l).hearth g).holder ≠ some k := by
  induction l generalizing s kept with
  | nil => exact h g
  | cons r rest ih =>
    have hrest : ∀ q ∈ rest, q.slot ≠ k := fun q hq => hl q (List.mem_cons_of_mem _ hq)
    rw [State.grantScan]
    split
    · exact ih s _ hrest h
    · refine ih _ _ hrest fun j => ?_
      rw [grantLease_holder]
      split
      · exact fun he => hl r (by simp) (Option.some.inj he)
      · exact h j

/-- An instance that has let its leases go holds no Hearth (R28). -/
theorem releaseLeases_holder_ne (s : State) (k g : Nat) : ((s.releaseLeases k).hearth g).holder ≠ some k := by
  unfold State.releaseLeases
  dsimp only
  refine grantScan_holder_ne _ _ _ (fun r hr => ?_) (fun j => ?_) g
  · rw [dropLease_leaseQ] at hr
    simpa using (List.mem_filter.1 hr).2
  · rw [dropLease_hearth]
    split
    · simp
    · rename_i hj
      exact fun h => hj (mem_leased (s := s) h)

/-- A Hearth that is not leased keeps all but lease and run when the leases of an instance go; one that was leased as well. -/
theorem releaseLeases_butLease (s : State) (k g : Nat) : ((s.releaseLeases k).hearth g).butLease = (s.hearth g).butLease := by
  unfold State.releaseLeases
  dsimp only
  rw [State.grantLeases, grantScan_butLease, dropLease_hearth]
  split <;> rfl

/-! ## Bindings of edges (R244) -/

/-- A table entry of a Hearth with its values changed. -/
theorem hearth_map (s : State) (f : Nat → Hearth → Hearth) (hreset : ∀ g, f g Hearth.reset = Hearth.reset) (g : Nat) :
    ({ s with hearths := s.hearths.map (fun h => (h.1, f h.1 h.2)) } : State).hearth g = f g (s.hearth g) := by
  rw [State.hearth, tbl_get_map, State.hearth]
  cases Tbl.get? s.hearths g with
  | none => exact (hreset g).symm
  | some x => rfl

/-- What of a Hearth an end of its bindings leaves. -/
def Hearth.butBinds (h : Hearth) : Hearth := { h with binds := [] }

theorem unbindEdges_butBinds (s : State) (k g : Nat) : ((s.unbindEdges k).hearth g).butBinds = (s.hearth g).butBinds := by
  unfold State.unbindEdges
  rw [hearth_map s (fun _ h => { h with binds := h.binds.filter (fun b => !((Tbl.get? s.troughs b.2).any (fun t => t.owner = k))) }) (fun _ => rfl)]
  rfl

/-! ## Routes (R169) -/

@[simp] theorem freeRoute_hearths (s : State) (g r : Nat) : (s.freeRoute g r).hearths = s.hearths := by
  unfold State.freeRoute
  split
  · rfl
  · dsimp only
    split <;> rfl

theorem releaseRoutes_butBinds (s : State) (k g : Nat) : ((s.releaseRoutes k).hearth g).butBinds = (s.hearth g).butBinds := by
  unfold State.releaseRoutes
  rw [unbindEdges_butBinds]
  have h := foldl_keeps State.hearths (f := fun (t : State) (r : Nat × Route) => t.freeRoute (r.1 / 64) (r.1 % 64)) (fun t r => freeRoute_hearths t _ _)
    (s.routes.filter (fun r => r.2.owner = k)) s
  rw [State.hearth, h, State.hearth]

/-- What of a context the end of a route leaves: all but the QB registers that it binds. -/
def Context.butQb (c : Context) : Context := { c with qb := Vector.replicate 4 0 }

theorem freeRoute_cur (s : State) (g r : Nat) : (s.freeRoute g r).cur.butQb = s.cur.butQb := by
  unfold State.freeRoute
  split
  · rfl
  · dsimp only
    split
    · dsimp only
      split <;> rfl
    · dsimp only
      split <;> rfl

theorem releaseRoutes_cur (s : State) (k : Nat) : (s.releaseRoutes k).cur.butQb = s.cur.butQb := by
  unfold State.releaseRoutes
  refine foldl_keeps (fun t : State => t.cur.butQb) (fun t r => ?_) _ s
  exact freeRoute_cur t _ _

/-! ## The shared state of an instance (R158) -/

/-- The byte of an address outside what a filter drops. -/
theorem memory_get_filter (m : Memory) (p : Nat → Bool) (a : Nat) : Memory.get (m.filter (fun c => p c.1)) a = if p a then m.get a else 0 := by
  induction m with
  | nil =>
    exact (ite_self (emptyByte)).symm
  | cons e rest ih =>
    obtain ⟨k, b⟩ := e
    rw [List.filter_cons]
    by_cases hk : k = a
    · subst hk
      cases hp : p k <;> simp [hp, Memory.get, ih]
    · cases hp : p k <;> simp [Memory.get, ih, hk]

theorem zeroAllot_get (x : Slot) (m : Memory) (a : Nat) : Memory.get (zeroAllot x m) a = if x.holdsSram a then 0 else m.get a := by
  rw [zeroAllot, memory_get_filter m (fun a => !x.holdsSram a)]
  cases x.holdsSram a <;> rfl

/-- Blanked: what a reset of the shared state changes. -/
def State.butShared (s : State) : State :=
  { s.butHeld with mem := [], hold := [], coh := [], troughs := [], rdvs := [] }

/-- The shared state but for its troughs and points. -/
def State.letShared (s : State) (k : Nat) (x : Slot) : State :=
  ((((s.zeroSram x).resetHearths k).releaseLeases k).releaseRoutes k).releaseRates k

theorem resetShared_eq {s : State} {k : Nat} {x : Slot} (hx : EntryIs s k x) : s.resetShared k = { s.letShared k x with
    troughs := (s.letShared k x).troughs.map (fun t => (t.1, if t.2.owner = k then t.2.clear else t.2))
    rdvs := (s.letShared k x).rdvs.map (fun r => (r.1, if (s.windowsOf k x).2 r.1 then { r.2 with exp := 0, arr := 0 } else r.2)) } := by
  rw [State.resetShared, show Tbl.get? s.slots k = some x from hx]
  rfl

theorem letShared_but_held (s : State) (k : Nat) (x : Slot) : (s.letShared k x).butHeld = (s.zeroSram x).butHeld := by
  have h1 := releaseRoutes_but_held (((s.zeroSram x).resetHearths k).releaseLeases k) k
  have h2 := releaseLeases_but_leases ((s.zeroSram x).resetHearths k) k
  exact h1.trans (congrArg State.butHeld h2 :)

theorem letShared_cur (s : State) (k : Nat) (x : Slot) : (s.letShared k x).cur.butQb = s.cur.butQb :=
  (releaseRoutes_cur _ k).trans (congrArg (fun u : State => u.cur.butQb) (releaseLeases_but_leases ((s.zeroSram x).resetHearths k) k) :)

theorem letShared_holder_ne (s : State) (k : Nat) (x : Slot) (g : Nat) : ((s.letShared k x).hearth g).holder ≠ some k := by
  have h := congrArg Hearth.holder (releaseRoutes_butBinds (((s.zeroSram x).resetHearths k).releaseLeases k) k g)
  exact fun he => releaseLeases_holder_ne _ k g (h.symm.trans he)

theorem resetShared_but_shared (s : State) (k : Nat) : (s.resetShared k).butShared = s.butShared := by
  cases hx : Tbl.get? s.slots k with
  | none => rw [State.resetShared, hx]
  | some x =>
    rw [resetShared_eq hx]
    have h := congrArg (fun u : State => { u with mem := [], hold := [], coh := [], troughs := [], rdvs := [] }) (letShared_but_held s k x)
    exact h

section ResetShared
variable {s : State} {k : Nat} {x : Slot} (hx : EntryIs s k x)
include hx

theorem resetShared_mem (a : Nat) : (s.resetShared k).mem.get a = if x.holdsSram a then 0 else s.mem.get a := by
  rw [resetShared_eq hx, ← zeroAllot_get]
  exact congrArg (fun u : State => u.mem.get a) (letShared_but_held s k x)

theorem resetShared_holder_ne (g : Nat) : ((s.resetShared k).hearth g).holder ≠ some k := by
  rw [resetShared_eq hx]
  exact letShared_holder_ne s k x g

theorem resetShared_cur : (s.resetShared k).cur.butQb = s.cur.butQb := by
  rw [resetShared_eq hx]
  exact letShared_cur s k x

theorem resetShared_trough {n : Nat} {u : Trough} (hu : Tbl.get? s.troughs n = some u) (ho : u.owner = k) :
    Tbl.get? (s.resetShared k).troughs n = some u.clear := by
  have htroughs : (s.letShared k x).troughs = s.troughs := (congrArg State.troughs (letShared_but_held s k x) :)
  rw [resetShared_eq hx]
  dsimp only
  rw [htroughs, tbl_get_map _ (fun (_ : Nat) (t : Trough) => if t.owner = k then t.clear else t), hu]
  exact congrArg some (if_pos ho)

end ResetShared

end Sys2Proof.Machine
end

section
/-! PROOFS. Charging, quotas and yields (O43). -/
namespace Sys2Proof.Machine

/-! ## Charging (R16, R328) -/

section Tree
variable {t u : Tbl RcbNode} (h : ∀ i, (Tbl.get? t i).map (·.bits) = (Tbl.get? u i).map (·.bits))
include h

/-- Paths depend on the records alone. -/
theorem pathOf_congr (k n : Nat) : pathOf t k n = pathOf u k n := by
  induction k generalizing n with
  | zero => rfl
  | succ k ih =>
    have hn := h n
    rw [pathOf, pathOf]
    cases ht : Tbl.get? t n with
    | none =>
      rw [ht] at hn
      rw [Option.map_eq_none_iff.1 hn.symm]
    | some x =>
      rw [ht] at hn
      obtain ⟨y, hy, hbits⟩ := Option.map_eq_some_iff.1 hn.symm
      rw [hy]
      simp only [RcbNode.level, RcbNode.parent, hbits, ih]

/-- So do effective values. -/
theorem effAt_congr (f : RcbField) (k n : Nat) : effAt t f k n = effAt u f k n := by
  induction k generalizing n with
  | zero => rfl
  | succ k ih =>
    have hn := h n
    rw [effAt, effAt]
    cases ht : Tbl.get? t n with
    | none =>
      rw [ht] at hn
      rw [Option.map_eq_none_iff.1 hn.symm]
    | some x =>
      rw [ht] at hn
      obtain ⟨y, hy, hbits⟩ := Option.map_eq_some_iff.1 hn.symm
      rw [hy]
      simp only [RcbNode.level, RcbNode.parent, RcbNode.ovrBit, RcbNode.get, hbits, ih]

end Tree

/-- A node that a charge of `cost` has passed. -/
def RcbNode.charged (x : RcbNode) (cost : Nat) : RcbNode := { x with vt := x.vt + cost / (1900 * max 1 x.share) }

theorem charged_bits (x : RcbNode) (cost : Nat) : (x.charged cost).bits = x.bits := rfl

section Step
variable {t : Tbl RcbNode} {n : Nat} {x : RcbNode} (hn : Tbl.get? t n = some x) (cost k : Nat)
include hn

theorem pathOf_root (h0 : x.level = 0) : pathOf t (k + 1) n = [n] := by
  rw [pathOf, hn]
  exact if_pos h0

theorem pathOf_up (h0 : x.level ≠ 0) : pathOf t (k + 1) n = n :: pathOf t k x.parent := by
  rw [pathOf, hn]
  exact if_neg h0

theorem chargePath_root (h0 : x.level = 0) : chargePath t cost (k + 1) n = t := by
  rw [chargePath, hn]
  exact if_pos h0

theorem chargePath_up (h0 : x.level ≠ 0) : chargePath t cost (k + 1) n = chargePath (Tbl.set t n (x.charged cost)) cost k x.parent := by
  rw [chargePath, hn]
  exact if_neg h0

/-- A node is charged with the same record. -/
theorem charge_same_bits (i : Nat) : (Tbl.get? (Tbl.set t n (x.charged cost)) i).map (·.bits) = (Tbl.get? t i).map (·.bits) :=
  tbl_set_same_bits hn (charged_bits x cost) i

end Step

/-- Each node of the path but the root is charged once. -/
theorem chargePath_get {t : Tbl RcbNode} {j : Nat} {r : RcbNode} (cost k n : Nat) (hnd : (pathOf t k n).Nodup) (hr : Tbl.get? t j = some r) :
    Tbl.get? (chargePath t cost k n) j = some (if r.level ≠ 0 ∧ j ∈ pathOf t k n then r.charged cost else r) := by
  induction k generalizing t n r with
  | zero => simp [chargePath, pathOf, hr]
  | succ k ih =>
    cases hn : Tbl.get? t n with
    | none => simp [chargePath, pathOf, hn, hr]
    | some x =>
      by_cases h0 : x.level = 0
      · have hskip : ¬(r.level ≠ 0 ∧ j ∈ pathOf t (k + 1) n) := by
          rintro ⟨hl, hj⟩
          rw [pathOf_root hn k h0, List.mem_singleton] at hj
          subst hj
          exact hl (Option.some.inj (hr.symm.trans hn) ▸ h0)
        rw [chargePath_root hn cost k h0, if_neg hskip, hr]
      · have hsame := charge_same_bits hn cost
        rw [pathOf_up hn k h0] at hnd ⊢
        rw [chargePath_up hn cost k h0]
        obtain ⟨hnot, hrest⟩ := List.nodup_cons.1 hnd
        rw [← pathOf_congr hsame] at hnot hrest
        by_cases hj : j = n
        · subst hj
          obtain rfl : r = x := Option.some.inj (hr.symm.trans hn)
          have := ih r.parent hrest (tbl_get_set t j (r.charged cost))
          rw [if_neg fun h => hnot h.2] at this
          rw [this, if_pos ⟨h0, by simp⟩]
        · have := ih x.parent hrest ((tbl_get_set_ne t (x.charged cost) hj).trans hr)
          rw [pathOf_congr hsame] at this
          rw [this]
          simp only [List.mem_cons, hj, false_or]

theorem chargePath_bits (t : Tbl RcbNode) (cost k n i : Nat) : (Tbl.get? (chargePath t cost k n) i).map (·.bits) = (Tbl.get? t i).map (·.bits) := by
  induction k generalizing t n with
  | zero => rfl
  | succ k ih =>
    rw [chargePath]
    cases hn : Tbl.get? t n with
    | none => rfl
    | some x =>
      dsimp only
      split
      · rfl
      · rw [ih]
        exact charge_same_bits hn cost i

/-- SHARE and PCLASS in force as the tree gives them (R16). -/
theorem takeShares_get {s : State} {n : Nat} {r : RcbNode} (hr : Tbl.get? s.rcbs n = some r) :
    Tbl.get? s.takeShares.rcbs n = some { r with share := s.eff n .share, pclass := s.eff n .pclass } := by
  show Tbl.get? (s.rcbs.map (fun x => (x.1, { x.2 with share := s.eff x.1 .share, pclass := s.eff x.1 .pclass }))) n = _
  exact (tbl_get_map s.rcbs (fun k (x : RcbNode) => ({ x with share := s.eff k .share, pclass := s.eff k .pclass } : RcbNode)) n).trans (by rw [hr]; rfl)

/-- A charge of the only entry (R328). -/
theorem chargeAll_single {s : State} {k : Nat} {x : Slot} (hs : s.slots = [(k, x)]) (h2 : 2 ≤ x.state) (h6 : x.state ≤ 6) (hv : x.vacant = false) :
    s.chargeAll = ({ s with rcbs := chargePath s.rcbs (x.engines * (s.cycle - x.chargedAt) * 256) 7 x.rcbx
                            slots := Tbl.set s.slots k { x with chargedAt := s.cycle } } : State).takeShares := by
  have hget : Tbl.get? s.slots k = some x := by simp [hs, Tbl.get?]
  rw [State.chargeAll, hs, List.foldl_cons, List.foldl_nil, State.chargeSlot, hget]
  dsimp only
  rw [if_pos ⟨h2, h6, hv⟩, hs]

theorem exec_vtCharge {s : State} {k : Nat} {x : Slot} (hs : s.slots = [(k, x)]) (h2 : 2 ≤ x.state) (h6 : x.state ≤ 6) (hv : x.vacant = false)
    (hnd : (s.path x.rcbx).Nodup) :
    ∃ t, exec .vtCharge s = .next t ∧ EntryIs t k { x with chargedAt := s.cycle } ∧ t.mem = s.mem ∧ t.cur = s.cur ∧ ∀ n r, Tbl.get? s.rcbs n = some r →
      let cost := if r.level ≠ 0 ∧ n ∈ s.path x.rcbx then x.engines * (s.cycle - x.chargedAt) * 256 / (1900 * max 1 r.share) else 0
      Tbl.get? t.rcbs n = some { r with vt := r.vt + cost, share := s.eff n .share, pclass := s.eff n .pclass } := by
  refine ⟨s.chargeAll, rfl, ?_, chargeAll_mem s, chargeAll_cur s, fun n r hr => ?_⟩
  · rw [chargeAll_single hs h2 h6 hv]
    exact tbl_get_set _ _ _
  · have hbits := chargePath_bits s.rcbs (x.engines * (s.cycle - x.chargedAt) * 256) 7 x.rcbx
    have heff : ∀ f, effAt (chargePath s.rcbs (x.engines * (s.cycle - x.chargedAt) * 256) 7 x.rcbx) f 7 n = s.eff n f := fun f => effAt_congr hbits f 7 n
    rw [chargeAll_single hs h2 h6 hv, takeShares_get (chargePath_get _ 7 _ hnd hr), State.eff, State.eff, heff, heff]
    dsimp only
    rw [State.path]
    split <;> rfl

/-! ## Quotas (R336) -/

/-- The quota of a node that is counted for `bytes`, and its use. -/
def RcbNode.exhausts (n : RcbNode) (bytes : Bool) : Bool :=
  let f := if bytes then RcbField.qbytes else RcbField.qcyc
  n.ovrBit f.ovr && n.get f != 0 && decide (n.get f ≤ (if bytes then n.bytUse else n.cycUse))

theorem exhausts_iff (n : RcbNode) (bytes : Bool) :
    let f := if bytes then RcbField.qbytes else .qcyc
    n.exhausts bytes = true ↔ n.ovrBit (if bytes then 17 else 16) = true ∧ n.get f ≠ 0 ∧ n.get f ≤ (if bytes then n.bytUse else n.cycUse) := by
  cases bytes
  · simp [RcbNode.exhausts, and_assoc, show RcbField.qcyc.ovr = 16 from rfl]
  · simp [RcbNode.exhausts, and_assoc, show RcbField.qbytes.ovr = 17 from rfl]

/-- The node as its quota is exhausted. -/
def RcbNode.marked (n : RcbNode) (bytes : Bool) : RcbNode := if bytes then { n with exhByt := true } else { n with exhCyc := true }

/-- One instance under an exhausted quota with policy 0. -/
def State.stopForQuota (t : State) (k : Nat) : State :=
  match Tbl.get? t.slots k with
  | some x => if x.state = 2 then ({ t with slots := Tbl.set t.slots k { x with quotaStop := true } } : State).writeStopping k else t
  | none => t

section Quota
variable {s : State} {rcb : Nat} {bytes : Bool} {n : RcbNode} (hn : Tbl.get? s.rcbs rcb = some n)

/-- The state in which the quota has been marked exhausted. -/
def State.quotaMarked (s : State) (rcb : Nat) (bytes : Bool) (n : RcbNode) : State := { s with rcbs := Tbl.set s.rcbs rcb (n.marked bytes) }

include hn

theorem exec_quotaExhausted_not (h : n.exhausts bytes = false) : exec (.quotaExhausted rcb bytes) s = .next s := by
  refine congrArg Host.Outcome.next ?_
  rw [hn]
  exact if_neg (fun h' => Bool.false_ne_true (h.symm.trans h'))

theorem exec_quotaExhausted_due (h : n.exhausts bytes = true) : exec (.quotaExhausted rcb bytes) s = .next (if s.eff rcb .qpol = 0 then
    ((s.quotaMarked rcb bytes n).instancesOf rcb).foldl State.stopForQuota (s.quotaMarked rcb bytes n)
    else ((s.quotaMarked rcb bytes n).instancesOf rcb).foldl (fun t k => t.quotaFault rcb bytes k) (s.quotaMarked rcb bytes n)) := by
  refine congrArg Host.Outcome.next ?_
  rw [hn]
  exact if_pos h

/-- The instances are those of the node's subtree, marked or not. -/
theorem mem_instancesOf_marked {k : Nat} {x : Slot} (hx : EntryIs s k x) (h2 : x.state = 2) (hp : rcb ∈ s.path x.rcbx) :
    k ∈ (s.quotaMarked rcb bytes n).instancesOf rcb := by
  have hbits : ∀ i, (Tbl.get? (s.quotaMarked rcb bytes n).rcbs i).map (·.bits) = (Tbl.get? s.rcbs i).map (·.bits) :=
    tbl_set_same_bits hn (by cases bytes <;> rfl)
  have hpath : (s.quotaMarked rcb bytes n).path x.rcbx = s.path x.rcbx := pathOf_congr hbits 7 x.rcbx
  refine List.mem_map.2 ⟨(k, x), List.mem_filter.2 ⟨tbl_mem_of_get hx, ?_⟩, rfl⟩
  simp [Slot.bound, h2, hpath, hp]

end Quota

theorem stopForQuota_but_slots (t : State) (k : Nat) : (t.stopForQuota k).butSlots = t.butSlots := by
  unfold State.stopForQuota
  split
  · split
    · exact writeStopping_but_slots _ k
    · rfl
  · rfl

/-- An entry other than the one stopped stays as it is. -/
theorem writeStopping_get_ne {s : State} {j k : Nat} (h : j ≠ k) : Tbl.get? (s.writeStopping k).slots j = Tbl.get? s.slots j := by
  unfold State.writeStopping
  repeat' split
  · exact tbl_get_set_ne _ _ h
  · rfl
  · rfl

theorem stopForQuota_get_ne {t : State} {j k : Nat} (h : j ≠ k) : Tbl.get? (t.stopForQuota k).slots j = Tbl.get? t.slots j := by
  unfold State.stopForQuota
  split
  · split
    · rw [writeStopping_get_ne h, tbl_get_set_ne _ _ h]
    · rfl
  · rfl

/-- The entry as its instance stops for a quota. -/
def Slot.stoppedForQuota (x : Slot) : Slot := { x with quotaStop := true }.setState 3

theorem stopForQuota_of_running {t : State} {k : Nat} {x : Slot} (hx : EntryIs t k x) (h2 : x.state = 2) (hr : NotRetiring t k) :
    EntryIs (t.stopForQuota k) k x.stoppedForQuota := by
  rw [State.stopForQuota, show Tbl.get? t.slots k = some x from hx]
  dsimp only
  rw [if_pos h2]
  have hstop := writeStopping_of_running (s := { t with slots := Tbl.set t.slots k { x with quotaStop := true } }) (tbl_get_set t.slots k _) h2 hr
  rw [hstop]
  exact entryIs_setSlot _ _ _

theorem stopForQuota_of_stopping {t : State} {k : Nat} {x : Slot} (hx : EntryIs t k x) (h3 : x.state = 3) : t.stopForQuota k = t := by
  rw [State.stopForQuota, show Tbl.get? t.slots k = some x from hx]
  exact if_neg (by omega)

/-- Contexts that a stop leaves as they are keep an instance from retiring, or not. -/
theorem notRetiring_of_butSlots {s t : State} {k : Nat} (h : t.butSlots = s.butSlots) (hr : NotRetiring s k) : NotRetiring t k := by
  have : t.ctxsOf k = s.ctxsOf k := (congrArg (fun u : State => u.ctxsOf k) h :)
  exact fun c hc => hr c (this ▸ hc)

theorem foldl_stopForQuota {s : State} {k : Nat} {x : Slot} (l : List Nat) (hk : k ∈ l) (hx : EntryIs s k x) (h2 : x.state = 2) (hr : NotRetiring s k) :
    EntryIs (l.foldl State.stopForQuota s) k x.stoppedForQuota := by
  refine foldl_reaches (key := id) (P := fun t => EntryIs t k x ∧ NotRetiring t k) (Q := fun t => EntryIs t k x.stoppedForQuota) (fun t j hj ⟨ht, hrt⟩ => ?_) (fun t j hj ⟨ht, hrt⟩ => ?_) (fun t j ht => ?_) l
    (by simpa using hk) ⟨hx, hr⟩
  · exact ⟨(stopForQuota_get_ne (Ne.symm hj)).trans ht, notRetiring_of_butSlots (stopForQuota_but_slots t j) hrt⟩
  · obtain rfl : j = k := hj
    exact stopForQuota_of_running ht h2 hrt
  · by_cases hj : j = k
    · subst hj
      rw [stopForQuota_of_stopping ht (setState_state _ 3)]
      exact ht
    · exact (stopForQuota_get_ne (Ne.symm hj)).trans ht

/-! ### The fault of an exhausted quota -/

/-- The QUOTA event of a control context. -/
def quotaEvent (bytes : Bool) : FaultRec := ⟨0x1A, if bytes then 2 else 1, 0, false⟩

/-- An instance's QUOTA event changes its own entry and control context only. -/
theorem quotaFault_ne {t : State} {rcb j k : Nat} {bytes : Bool} (h : j ≠ k) (hc : t.cur.ref = ⟨k, 0⟩) :
    Tbl.get? (t.quotaFault rcb bytes j).slots k = Tbl.get? t.slots k ∧ (t.quotaFault rcb bytes j).cur = t.cur := by
  unfold State.quotaFault
  split
  · split
    · rw [State.setCtx, if_neg (by simp [hc, Ne.symm h])]
      exact ⟨tbl_get_set_ne _ _ (Ne.symm h), rfl⟩
    · exact ⟨rfl, rfl⟩
  · exact ⟨rfl, rfl⟩

theorem quotaFault_but_event (t : State) (rcb : Nat) (bytes : Bool) (j : Nat) : (t.quotaFault rcb bytes j).butCtxs.butSlots = t.butCtxs.butSlots := by
  unfold State.quotaFault
  split
  · split
    · rw [setCtx_but_ctxs]
      rfl
    · rfl
  · rfl

/-- An instance's first QUOTA event. -/
theorem quotaFault_first {t : State} {rcb k : Nat} {bytes : Bool} {x : Slot} (hx : EntryIs t k x) (h2 : x.state = 2)
    (hq : ∀ q ∈ x.quotaAt, ¬(q.1 = rcb ∧ q.2.1 = bytes)) (hc : t.cur.ref = ⟨k, 0⟩) (hroom : t.cur.faults.length < 16) :
    t.quotaFault rcb bytes k = { t with slots := Tbl.set t.slots k { x with quotaAt := x.quotaAt ++ [(rcb, bytes, t.cycle)] }
                                        cur := { t.cur with faults := t.cur.faults ++ [quotaEvent bytes] } } := by
  have hall : x.quotaAt.all (fun q => q.1 ≠ rcb || q.2.1 ≠ bytes) = true := by
    refine List.all_eq_true.2 fun q hmem => ?_
    have := hq q hmem
    simpa [or_iff_not_imp_left] using this
  rw [State.quotaFault, show Tbl.get? t.slots k = some x from hx, ← hc, ctx?_cur_ref]
  dsimp only
  rw [if_pos ⟨h2, hall, by simpa [Context.faultRoom] using hroom⟩]
  exact setCtx_cur_ref _ _

/-- It is delivered once. -/
theorem quotaFault_again {t : State} {rcb k : Nat} {bytes : Bool} {x : Slot} (hx : EntryIs t k x) (hq : ∃ q ∈ x.quotaAt, q.1 = rcb ∧ q.2.1 = bytes) :
    t.quotaFault rcb bytes k = t := by
  have hall : ¬ x.quotaAt.all (fun q => q.1 ≠ rcb || q.2.1 ≠ bytes) = true := by
    obtain ⟨q, hmem, h1, h2⟩ := hq
    intro h
    have := List.all_eq_true.1 h q hmem
    simp [h1, h2] at this
  unfold State.quotaFault
  rw [show Tbl.get? t.slots k = some x from hx]
  split
  · rename_i y c hy _
    obtain rfl := Option.some.inj hy
    exact if_neg fun h => hall h.2.1
  · rfl

theorem foldl_quotaFault {s : State} {rcb k : Nat} {bytes : Bool} {x : Slot} (l : List Nat) (hk : k ∈ l) (hx : EntryIs s k x) (h2 : x.state = 2)
    (hq : ∀ q ∈ x.quotaAt, ¬(q.1 = rcb ∧ q.2.1 = bytes)) (hc : s.cur.ref = ⟨k, 0⟩) (hroom : s.cur.faults.length < 16) :
    EntryIs (l.foldl (fun t k => t.quotaFault rcb bytes k) s) k { x with quotaAt := x.quotaAt ++ [(rcb, bytes, s.cycle)] } ∧
      (l.foldl (fun t k => t.quotaFault rcb bytes k) s).cur = { s.cur with faults := s.cur.faults ++ [quotaEvent bytes] } := by
  refine foldl_reaches (key := id) (P := fun t => EntryIs t k x ∧ t.cur = s.cur ∧ t.cycle = s.cycle)
    (Q := fun t => EntryIs t k { x with quotaAt := x.quotaAt ++ [(rcb, bytes, s.cycle)] } ∧ t.cur = { s.cur with faults := s.cur.faults ++ [quotaEvent bytes] })
    (fun t j hj ⟨ht, hcur, hcyc⟩ => ?_) (fun t j hj ⟨ht, hcur, hcyc⟩ => ?_) (fun t j ⟨ht, hcur⟩ => ?_) l (by simpa using hk) ⟨hx, rfl, rfl⟩
  · obtain ⟨hslot, hc'⟩ := quotaFault_ne (rcb := rcb) (bytes := bytes) hj (hcur ▸ hc)
    exact ⟨hslot.trans ht, hc'.trans hcur, (congrArg State.cycle (quotaFault_but_event t rcb bytes j) :).trans hcyc⟩
  · obtain rfl : j = k := hj
    rw [quotaFault_first ht h2 hq (hcur ▸ hc) (hcur ▸ hroom), hcur, hcyc]
    exact ⟨tbl_get_set _ _ _, rfl⟩
  · by_cases hj : j = k
    · subst hj
      rw [quotaFault_again ht ⟨(rcb, bytes, s.cycle), by simp, rfl, rfl⟩]
      exact ⟨ht, hcur⟩
    · obtain ⟨hslot, hc'⟩ := quotaFault_ne (rcb := rcb) (bytes := bytes) hj (by rw [hcur]; exact hc)
      exact ⟨hslot.trans ht, hc'.trans hcur⟩

theorem foldl_stopForQuota_but_slots (l : List Nat) (s : State) : (l.foldl State.stopForQuota s).butSlots = s.butSlots :=
  foldl_keeps State.butSlots stopForQuota_but_slots l s

theorem foldl_quotaFault_but_event (rcb : Nat) (bytes : Bool) (l : List Nat) (s : State) :
    (l.foldl (fun t k => t.quotaFault rcb bytes k) s).butCtxs.butSlots = s.butCtxs.butSlots :=
  foldl_keeps (fun t : State => t.butCtxs.butSlots) (fun t j => quotaFault_but_event t rcb bytes j) l s

theorem exec_quotaExhausted {s : State} {rcb : Nat} {bytes : Bool} {n : RcbNode} (hn : Tbl.get? s.rcbs rcb = some n) :
    let f := if bytes then RcbField.qbytes else .qcyc
    let due : Prop := n.ovrBit (if bytes then 17 else 16) = true ∧ n.get f ≠ 0 ∧ n.get f ≤ (if bytes then n.bytUse else n.cycUse)
    (¬due → exec (.quotaExhausted rcb bytes) s = .next s) ∧
    (due → ∃ t, exec (.quotaExhausted rcb bytes) s = .next t ∧ t.mem = s.mem ∧
      Tbl.get? t.rcbs rcb = some (if bytes then { n with exhByt := true } else { n with exhCyc := true }) ∧
      ∀ k x, EntryIs s k x → x.state = 2 → rcb ∈ s.path x.rcbx →
        (s.eff rcb .qpol = 0 → NotRetiring s k → ∃ y, EntryIs t k y ∧ y.state = 3 ∧ y.quotaStop = true) ∧
        (s.eff rcb .qpol ≠ 0 → (∀ q ∈ x.quotaAt, ¬(q.1 = rcb ∧ q.2.1 = bytes)) → s.cur.ref = ⟨k, 0⟩ → s.cur.faults.length < 16 →
          EntryIs t k { x with quotaAt := x.quotaAt ++ [(rcb, bytes, s.cycle)] } ∧
          t.cur.faults = s.cur.faults ++ [⟨0x1A, if bytes then 2 else 1, 0, false⟩])) := by
  intro f due
  have hdue : n.exhausts bytes = true ↔ due := exhausts_iff n bytes
  refine ⟨fun h => exec_quotaExhausted_not hn (Bool.eq_false_iff.2 (mt hdue.1 h)), fun h => ?_⟩
  rw [exec_quotaExhausted_due hn (hdue.2 h)]
  have hrcb : Tbl.get? (s.quotaMarked rcb bytes n).rcbs rcb = some (n.marked bytes) := tbl_get_set _ _ _
  by_cases hpol : s.eff rcb .qpol = 0
  · rw [if_pos hpol]
    have hkeep := foldl_stopForQuota_but_slots ((s.quotaMarked rcb bytes n).instancesOf rcb) (s.quotaMarked rcb bytes n)
    refine ⟨_, rfl, (congrArg State.mem hkeep :), (congrArg (fun u : State => Tbl.get? u.rcbs rcb) hkeep :).trans hrcb, fun k x hx h2 hp => ⟨fun _ hr => ?_, fun h => absurd hpol h⟩⟩
    exact ⟨_, foldl_stopForQuota _ (mem_instancesOf_marked hn hx h2 hp) hx h2 hr, setState_state _ 3, rfl⟩
  · rw [if_neg hpol]
    have hkeep := foldl_quotaFault_but_event rcb bytes ((s.quotaMarked rcb bytes n).instancesOf rcb) (s.quotaMarked rcb bytes n)
    refine ⟨_, rfl, (congrArg State.mem hkeep :), (congrArg (fun u : State => Tbl.get? u.rcbs rcb) hkeep :).trans hrcb, fun k x hx h2 hp => ⟨fun h => absurd h hpol, fun _ hq hc hroom => ?_⟩⟩
    obtain ⟨hent, hcur⟩ := foldl_quotaFault (s := s.quotaMarked rcb bytes n) _ (mem_instancesOf_marked hn hx h2 hp) hx h2 hq hc hroom
    exact ⟨hent, congrArg Context.faults hcur⟩

theorem exec_quotaKillTimeout {s : State} {k : Nat} {x : Slot} (hx : EntryIs s k x) (h2 : 2 ≤ x.state) (h5 : x.state ≤ 5) (hr : NotRetiring s k) :
    ((∃ q ∈ x.quotaAt, q.2.2 + 3800000 ≤ s.cycle) → ∃ (t : State) (y : Slot), exec (.quotaKillTimeout k) s = .next t ∧ EntryIs t k y ∧ y.state = 6 ∧
      y.kill = some (.reason 0x0400) ∧ t.cur = s.cur ∧ t.mem = s.mem) ∧
    ((∀ q ∈ x.quotaAt, s.cycle < q.2.2 + 3800000) → exec (.quotaKillTimeout k) s = .next s) := by
  have hrun : exec (.quotaKillTimeout k) s =
      .next (if x.quotaAt.any (fun q => decide (q.2.2 + 3800000 ≤ s.cycle)) then s.writeKilling k (.reason 0x0400) else s) := by
    refine congrArg Host.Outcome.next ?_
    rw [show Tbl.get? s.slots k = some x from hx]
  refine ⟨fun ⟨q, hmem, hlate⟩ => ?_, fun h => ?_⟩
  · rw [hrun, if_pos (List.any_eq_true.2 ⟨q, hmem, by simpa using hlate⟩), writeKilling_of_living hx h2 h5 hr]
    exact ⟨_, _, rfl, entryIs_setSlot _ _ _, killed_state _ _, rfl, rfl, rfl⟩
  · rw [hrun, if_neg]
    simpa using h

/-! ## Yields (R157, R158, R335) -/

/-- The entry whose offer has been taken up. -/
def Slot.answered (x : Slot) : Slot := { x with offer := none, yieldAsked := none }

/-- The state in which the YIELD has completed. -/
def State.yielded (s : State) (k : Nat) (x : Slot) : State := (s.setSlot k x.answered).chargeAll.yieldDone k

/-- The state in which the engines have been reclaimed. -/
def State.reclaimed (s : State) (k : Nat) (y : Slot) : State :=
  (s.setSlot k { y.setState 3 with suspended := true }).setCtx ⟨k, 0⟩ (fun c => { c with phase := .stopped })

section Yield
variable {s : State} {k : Nat} {x : Slot} (hx : EntryIs s k x)
include hx

theorem exec_yieldDecision_none (h : x.offer = none) : exec (.yieldDecision k) s = .next s := by
  refine congrArg Host.Outcome.next ?_
  rw [show Tbl.get? s.slots k = some x from hx]
  exact if_pos (.inl (by rw [h]; rfl))

theorem exec_yieldDecision_keep {a : _} (h2 : x.state = 2) (ho : x.offer = some a) (h : (x.yieldAsked.isSome || (s.sliceOver x && s.wanted k x)) = false) :
    exec (.yieldDecision k) s = .next (s.yielded k x) := by
  refine congrArg Host.Outcome.next ?_
  rw [show Tbl.get? s.slots k = some x from hx]
  dsimp only
  rw [if_neg (by simp [ho, h2]), h]
  rfl

theorem exec_yieldDecision_take {a : _} {y : Slot} (h2 : x.state = 2) (ho : x.offer = some a) (h : (x.yieldAsked.isSome || (s.sliceOver x && s.wanted k x)) = true)
    (hy : EntryIs ((s.yielded k x).resetShared k) k y) : exec (.yieldDecision k) s = .next (((s.yielded k x).resetShared k).reclaimed k y) := by
  refine congrArg Host.Outcome.next ?_
  rw [show Tbl.get? s.slots k = some x from hx]
  dsimp only
  rw [if_neg (by simp [ho, h2]), h]
  show (match Tbl.get? ((s.yielded k x).resetShared k).slots k with | none => _ | some y => _) = _
  rw [show Tbl.get? ((s.yielded k x).resetShared k).slots k = some y from hy]
  rfl

end Yield

section
variable (s : State) (k : Nat) (x : Slot)

theorem yielded_entry : ∃ n, EntryIs (s.yielded k x) k { x.answered with chargedAt := n } := by
  obtain ⟨n, hn⟩ := chargeAll_entry (entryIs_setSlot s k x.answered)
  exact ⟨n, (congrArg (fun t => Tbl.get? t k) (setCtx_slots _ ⟨k, 0⟩ _)).trans hn⟩

theorem yielded_mem : (s.yielded k x).mem = s.mem :=
  ((congrArg State.mem (setCtx_but_ctxs (s.setSlot k x.answered).chargeAll ⟨k, 0⟩ _) :)).trans (chargeAll_mem _)

theorem yielded_troughs : (s.yielded k x).troughs = s.troughs :=
  ((congrArg State.troughs (setCtx_but_ctxs (s.setSlot k x.answered).chargeAll ⟨k, 0⟩ _) :)).trans (chargeAll_troughs _)

theorem yielded_cur (hc : s.cur.ref = ⟨k, 0⟩) : (s.yielded k x).cur = { s.cur.nextSeq with phase := .ready, wait := none, yielding := false } := by
  rw [State.yielded, State.yieldDone, State.setCtx, if_pos (by rw [chargeAll_cur]; exact hc)]
  show ({ (s.setSlot k x.answered).chargeAll.cur.nextSeq with phase := .ready, wait := none, yielding := false } : Context) = _
  rw [chargeAll_cur]
  rfl

end

theorem nextSeq_ref (c : Context) : c.nextSeq.ref = c.ref := by simp [Context.ref]

/-- Reclaimed: the entry, the context, and what the reset of the shared state leaves. -/
theorem reclaimed_spec {s : State} {k : Nat} {x : Slot} (hc : s.cur.ref = ⟨k, 0⟩) :
    ∃ y, EntryIs ((s.yielded k x).resetShared k) k y ∧
      let t := ((s.yielded k x).resetShared k).reclaimed k y
      ∃ z, EntryIs t k z ∧ z.state = 3 ∧ z.suspended = true ∧ t.cur.phase = .stopped ∧ t.cur.pc = s.cur.nextSeq.pc ∧ t.cur.s = s.cur.s ∧
        (∀ a, x.holdsSram a = true → t.mem.get a = 0) ∧ (∀ g, (t.hearth g).holder ≠ some k) ∧
        ∀ n u, Tbl.get? s.troughs n = some u → u.owner = k → Tbl.get? t.troughs n = some u.clear := by
  obtain ⟨n, hy⟩ := yielded_entry s k x
  have hr : EntryIs ((s.yielded k x).resetShared k) k { x.answered with chargedAt := n } :=
    (congrArg (fun u : State => Tbl.get? u.slots k) (resetShared_but_shared (s.yielded k x) k) :).trans hy
  have hcur := (resetShared_cur hy).trans (congrArg Context.butQb (yielded_cur s k x hc))
  have href : ((s.yielded k x).resetShared k).cur.ref = ⟨k, 0⟩ := (congrArg Context.ref hcur :).trans ((nextSeq_ref s.cur).trans hc)
  refine ⟨_, hr, ?_⟩
  dsimp only
  rw [State.reclaimed, State.setCtx, if_pos (by exact href)]
  refine ⟨_, entryIs_setSlot _ k _, setState_state _ 3, rfl, rfl, (congrArg Context.pc hcur :), (congrArg Context.s hcur :).trans (nextSeq_s s.cur), fun a ha => ?_,
    fun g => resetShared_holder_ne hy g, fun i u hu ho => resetShared_trough hy ((congrArg (fun t => Tbl.get? t i) (yielded_troughs s k x)).trans hu) ho⟩
  exact (resetShared_mem hy a).trans (if_pos ha)

/-! ### Yields that do not come -/

/-- The entries that have not yielded in time. -/
def State.lateYields (s : State) : List (Nat × Slot) := s.slots.filter (fun x => x.2.yieldAsked.any (fun t => decide (t + 1900000 ≤ s.cycle)))

theorem mem_lateYields {s : State} {z : Nat × Slot} : z ∈ s.lateYields ↔ z ∈ s.slots ∧ ∃ t, z.2.yieldAsked = some t ∧ t + 1900000 ≤ s.cycle := by
  rw [State.lateYields, List.mem_filter, Option.any_eq_true]
  simp only [decide_eq_true_eq]

theorem exec_reclaimTimeout (s : State) : exec .reclaimTimeout s = .next (s.lateYields.foldl (fun t x => t.writeStopping x.1) s) := rfl

theorem foldl_writeStopping_but_slots (l : List (Nat × Slot)) (s : State) : (l.foldl (fun t x => t.writeStopping x.1) s).butSlots = s.butSlots :=
  foldl_keeps State.butSlots (fun t (x : Nat × Slot) => writeStopping_but_slots t x.1) l s

theorem foldl_writeStopping_running {s : State} {k : Nat} {x : Slot} (l : List (Nat × Slot)) (hk : k ∈ l.map (·.1)) (hx : EntryIs s k x) (h2 : x.state = 2)
    (hr : NotRetiring s k) : EntryIs (l.foldl (fun t x => t.writeStopping x.1) s) k (x.setState 3) := by
  refine foldl_reaches (key := Prod.fst) (P := fun t => EntryIs t k x ∧ NotRetiring t k) (Q := fun t => EntryIs t k (x.setState 3))
    (fun t z hz ⟨ht, hrt⟩ => ?_) (fun t z hz ⟨ht, hrt⟩ => ?_) (fun t z ht => ?_) l hk ⟨hx, hr⟩
  · exact ⟨(writeStopping_get_ne (Ne.symm hz)).trans ht, notRetiring_of_butSlots (writeStopping_but_slots t z.1) hrt⟩
  · rw [hz, writeStopping_of_running ht h2 hrt]
    exact entryIs_setSlot _ _ _
  · by_cases hz : z.1 = k
    · rw [hz, State.writeStopping, show Tbl.get? t.slots k = some (x.setState 3) from ht]
      dsimp only
      rwa [if_neg (by simp)]
    · exact (writeStopping_get_ne (Ne.symm hz)).trans ht

section Late
variable {s : State} {k : Nat} {x : Slot} (hx : EntryIs s k x) {a : Nat} (ha : x.yieldAsked = some a)
include hx ha

theorem exec_reclaimTimeout_late (h2 : x.state = 2) (hr : NotRetiring s k) (hlate : a + 1900000 ≤ s.cycle) :
    ∃ (t : State) (y : Slot), exec .reclaimTimeout s = .next t ∧ EntryIs t k y ∧ y.state = 3 ∧ t.cur = s.cur ∧ t.mem = s.mem := by
  have hk : k ∈ s.lateYields.map (·.1) := List.mem_map.2 ⟨(k, x), mem_lateYields.2 ⟨tbl_mem_of_get hx, a, ha, hlate⟩, rfl⟩
  have hkeep := foldl_writeStopping_but_slots s.lateYields s
  exact ⟨_, _, exec_reclaimTimeout s, foldl_writeStopping_running _ hk hx h2 hr, setState_state _ 3, (congrArg State.cur hkeep :), (congrArg State.mem hkeep :)⟩

theorem exec_reclaimTimeout_early (hnd : (s.slots.map (·.1)).Nodup) (hearly : s.cycle < a + 1900000) : ∃ t, exec .reclaimTimeout s = .next t ∧ EntryIs t k x := by
  refine ⟨_, exec_reclaimTimeout s, (foldl_keeps_mem (fun t : State => Tbl.get? t.slots k) _ (fun t z hz => writeStopping_get_ne fun he => ?_) s).trans hx⟩
  obtain ⟨hmem, b, hb, hlate⟩ := mem_lateYields.1 hz
  have hzx : z.2 = x := Option.some.inj ((tbl_get_of_mem hnd (by rw [he]; exact hmem)).symm.trans hx)
  obtain rfl : a = b := Option.some.inj (ha.symm.trans (hzx ▸ hb))
  exact Nat.not_lt.2 hlate hearly

end Late

theorem exec_yieldDecision {s : State} {k : Nat} {x : Slot} (hx : EntryIs s k x) (h2 : x.state = 2) {a : _} (ho : x.offer = some a) (hc : s.cur.ref = ⟨k, 0⟩) :
    (x.yieldAsked = none → s.sliceOver x = false ∨ s.wanted k x = false →
      ∃ (t : State) (y : Slot), exec (.yieldDecision k) s = .next t ∧ EntryIs t k y ∧ y.state = 2 ∧ y.bind = x.bind ∧ y.offer = none ∧ t.mem = s.mem ∧
        t.cur = { s.cur.nextSeq with phase := .ready, wait := none, yielding := false }) ∧
    (x.yieldAsked ≠ none ∨ (s.sliceOver x = true ∧ s.wanted k x = true) →
      ∃ (t : State) (y : Slot), exec (.yieldDecision k) s = .next t ∧ EntryIs t k y ∧ y.state = 3 ∧ y.suspended = true ∧
      t.cur.phase = .stopped ∧ t.cur.pc = s.cur.nextSeq.pc ∧ t.cur.s = s.cur.s ∧ (∀ a, x.holdsSram a = true → t.mem.get a = 0) ∧
      (∀ g, (t.hearth g).holder ≠ some k) ∧ ∀ n u, Tbl.get? s.troughs n = some u → u.owner = k → Tbl.get? t.troughs n = some u.clear) := by
  constructor
  · intro hask h
    obtain ⟨n, hy⟩ := yielded_entry s k x
    have hkeep : (x.yieldAsked.isSome || (s.sliceOver x && s.wanted k x)) = false := by
      rcases h with h | h <;> simp [hask, h]
    exact ⟨_, _, exec_yieldDecision_keep hx h2 ho hkeep, hy, h2, rfl, rfl, yielded_mem s k x, yielded_cur s k x hc⟩
  · intro h
    obtain ⟨y, hy, z, hz⟩ := reclaimed_spec (x := x) hc
    have htake : (x.yieldAsked.isSome || (s.sliceOver x && s.wanted k x)) = true := by
      rcases h with h | ⟨h1, h2⟩
      · simp [Option.isSome_iff_ne_none.2 h]
      · simp [h1, h2]
    exact ⟨_, z, exec_yieldDecision_take hx h2 ho htake hy, hz⟩

/-- Settles O43: a charge is a walk up the path that leaves the records as they are, an exhausted quota a walk over the instances below its node, and a
yield that is taken a reset of the shared state. -/
theorem chargesQuotasYields : Obligations.ChargesQuotasYields :=
  ⟨⟨fun _ _ _ hs h2 h6 hv hnd => exec_vtCharge hs h2 h6 hv hnd, fun _ _ _ _ hn => exec_quotaExhausted hn, fun _ _ _ hx h2 h5 hr => exec_quotaKillTimeout hx h2 h5 hr⟩,
    fun _ _ _ hx h2 hnd => ⟨exec_yieldDecision_none hx, fun _ ho hc => exec_yieldDecision hx h2 ho hc, fun _ ha hr hlate => exec_reclaimTimeout_late hx ha h2 hr hlate,
      fun _ ha hearly => exec_reclaimTimeout_early hx ha hnd hearly⟩⟩

end Sys2Proof.Machine
end

section
/-! PROOFS. Records bound and entries submitted (O42). -/
namespace Sys2Proof.Machine

/-! ## Choosing (R329) -/

/-- The earliest of a list and of what has been found before it. -/
theorem foldl_earliest (l : List Want) (w0 : Want) : ∃ w, l.foldl (fun b w => match b with
      | none => some w
      | some v => if w.armedAt < v.armedAt then some w else some v) (some w0) = some w ∧ (w = w0 ∨ w ∈ l) ∧ w.armedAt ≤ w0.armedAt ∧ ∀ v ∈ l, w.armedAt ≤ v.armedAt := by
  induction l generalizing w0 with
  | nil => exact ⟨w0, rfl, .inl rfl, le_refl _, by simp⟩
  | cons x rest ih =>
    rw [List.foldl_cons]
    dsimp only
    by_cases h : x.armedAt < w0.armedAt
    · rw [if_pos h]
      obtain ⟨w, hw, hmem, hle, hall⟩ := ih x
      refine ⟨w, hw, .inr ?_, by omega, fun v hv => ?_⟩
      · rcases hmem with rfl | hmem <;> simp [*]
      · rcases List.mem_cons.1 hv with rfl | hv
        · exact hle
        · exact hall v hv
    · rw [if_neg h]
      obtain ⟨w, hw, hmem, hle, hall⟩ := ih w0
      refine ⟨w, hw, ?_, hle, fun v hv => ?_⟩
      · rcases hmem with rfl | hmem <;> simp [*]
      · rcases List.mem_cons.1 hv with rfl | hv
        · omega
        · exact hall v hv

theorem earliest_of_mem {l : List Want} {x : Want} (hx : x ∈ l) : ∃ w, earliest l = some w ∧ w ∈ l ∧ ∀ v ∈ l, w.armedAt ≤ v.armedAt := by
  cases l with
  | nil => simp at hx
  | cons y rest =>
    obtain ⟨w, hw, hmem, hle, hall⟩ := foldl_earliest rest y
    refine ⟨w, hw, List.mem_cons.2 hmem, fun v hv => ?_⟩
    rcases List.mem_cons.1 hv with rfl | hv
    · exact hle
    · exact hall v hv

theorem choose_late {s : State} (el : List Want) (h : ∃ w, LateRecord s w) :
    ∃ w, s.choose el = some w ∧ LateRecord s w ∧ ∀ v, LateRecord s v → w.armedAt ≤ v.armedAt := by
  have hmem : ∀ w, w ∈ s.armed.filter (fun w => s.considered w && s.late w) ↔ LateRecord s w := fun w => by
    rw [List.mem_filter, Bool.and_eq_true, LateRecord]
  obtain ⟨x, hx⟩ := h
  obtain ⟨w, hw, hwm, hall⟩ := earliest_of_mem ((hmem x).2 hx)
  exact ⟨w, by rw [State.choose, hw, Option.some_or], (hmem w).1 hwm, fun v hv => hall v ((hmem v).2 hv)⟩

/-! ## The decision (R21, R22, R330) -/

theorem refuseOver_of_none {s : State} (l : List Want) (h : ∀ v ∈ l, s.overDemand v.rcb v.bits = none) : s.refuseOver l = .next s := by
  induction l with
  | nil => rfl
  | cons w rest ih =>
    rw [State.refuseOver, h w (by simp)]
    exact ih fun v hv => h v (List.mem_cons_of_mem _ hv)

/-- The decision when nothing is to be cleared or refused. -/
def State.decided (s : State) : Moved :=
  let el := s.armed.filter s.eligible
  let s2 := s.catchUp el
  match s2.choose el with
  | none => .next s2
  | some w =>
    match (if el.contains w then s2.place? none w else none) with
    | some p => s2.bindChosen el w p
    | none => .next s2.askYield

theorem exec_bindDecision_eq {s : State} (hs : ∀ x ∈ s.slots, x.2.state ≠ 7 ∧ x.2.state ≠ 1)
    (ho : ∀ v ∈ s.armed, s.considered v = true → s.overDemand v.rcb v.bits = none) : exec .bindDecision s = s.decided := by
  have h0 : ({ s with slots := s.slots.filter (fun x => x.2.state ≠ 7) } : State) = s := by
    rw [List.filter_eq_self.2 fun x hx => by simpa using (hs x hx).1]
  have h1 : s.refuseOver (s.armed.filter s.considered) = .next s :=
    refuseOver_of_none _ fun v hv => ho v (List.mem_filter.1 hv).1 (List.mem_filter.1 hv).2
  have h2 : (s.catchUp (s.armed.filter s.eligible)).slots.any (fun x => x.2.state = 1) = false :=
    List.any_eq_false.2 fun x hx => by simpa using (hs x hx).2
  show execBindDecision s = _
  rw [execBindDecision, h0]
  dsimp only
  rw [h1]
  dsimp only
  rw [h2]
  rfl

section Decision
variable {s : State}

theorem decided_none (h : (s.catchUp (s.armed.filter s.eligible)).choose (s.armed.filter s.eligible) = none) :
    s.decided = .next (s.catchUp (s.armed.filter s.eligible)) := by
  rw [State.decided, h]

theorem decided_not_eligible {w : Want} (h : (s.catchUp (s.armed.filter s.eligible)).choose (s.armed.filter s.eligible) = some w)
    (hw : w ∉ s.armed.filter s.eligible) : s.decided = .next (s.catchUp (s.armed.filter s.eligible)).askYield := by
  rw [State.decided, h]
  dsimp only
  rw [if_neg (by simpa using hw)]

theorem decided_bind {w : Want} {p : Place} {t : State} (h : (s.catchUp (s.armed.filter s.eligible)).choose (s.armed.filter s.eligible) = some w)
    (hw : w ∈ s.armed.filter s.eligible) (hp : (s.catchUp (s.armed.filter s.eligible)).place? none w = some p)
    (hb : (s.catchUp (s.armed.filter s.eligible)).bindWant w p = .next t) : s.decided = .next (t.catchUp ((s.armed.filter s.eligible).erase w)) := by
  rw [State.decided, h]
  dsimp only
  rw [if_pos (by simpa using hw), hp]
  dsimp only
  rw [State.bindChosen, hb]

end Decision

/-- Catching up leaves a node's records. -/
theorem catchUp_get {s : State} {i : Nat} {n : RcbNode} (el : List Want) (hn : Tbl.get? s.rcbs i = some n) :
    ∃ m, Tbl.get? (s.catchUp el).rcbs i = some m ∧ m.pool = n.pool := by
  have h := tbl_get_map s.rcbs (fun (k : Nat) (x : RcbNode) =>
    let e := el.any (fun w => (s.path w.rcb).contains k)
    let sh := x.share != 0
    let sib := (s.rcbs.filter (fun y => y.1 ≠ k && y.2.level ≠ 0 && y.2.parent = x.parent && el.any (fun w => (s.path w.rcb).contains y.1))).map (fun y => y.2.vt)
    let vt := if x.level ≠ 0 ∧ ((e && !x.elig) || (sh && !x.shared)) then
        (match leastBy id sib with
         | some m => max x.vt m
         | none => x.vt)
      else x.vt
    ({ x with vt := vt, elig := e, shared := sh, since := if sh && !x.shared then s.cycle else x.since } : RcbNode)) i
  rw [hn, Option.map_some] at h
  exact ⟨_, h, rfl⟩

/-! ## The bind record (R325) -/

/-- A field of a record whose other fields are written after it. -/
theorem fieldN_foldl_ne {n : Nat} (l : List (Nat × Nat × Nat)) (b : BitVec n) {hi lo : Nat} (h : ∀ e ∈ l, e.2.1 ≤ e.1 ∧ e.1 < n ∧ (hi < e.2.1 ∨ e.1 < lo)) :
    fieldN (l.foldl (fun b x => setField b x.1 x.2.1 x.2.2) b) hi lo = fieldN b hi lo := by
  refine foldl_keeps_mem (fun b => fieldN b hi lo) l (fun b e he => ?_) b
  obtain ⟨h1, h2, h3⟩ := h e he
  exact fieldN_setField_ne b e.2.2 h1 h2 h3

/-- A record written field by field. -/
theorem fieldN_foldl_mem {n : Nat} (l : List (Nat × Nat × Nat)) (b : BitVec n) {hi lo v : Nat} (hw : ∀ e ∈ l, e.2.1 ≤ e.1 ∧ e.1 < n)
    (hp : l.Pairwise (fun e f => e.1 < f.2.1 ∨ f.1 < e.2.1)) (hm : (hi, lo, v) ∈ l) :
    fieldN (l.foldl (fun b x => setField b x.1 x.2.1 x.2.2) b) hi lo = v % 2 ^ (hi + 1 - lo) := by
  induction l generalizing b with
  | nil => simp at hm
  | cons e rest ih =>
    obtain ⟨hfirst, hrest⟩ := List.pairwise_cons.1 hp
    rw [List.foldl_cons]
    rcases List.mem_cons.1 hm with rfl | hm
    · rw [fieldN_foldl_ne rest _ fun f hf => ⟨(hw f (List.mem_cons_of_mem _ hf)).1, (hw f (List.mem_cons_of_mem _ hf)).2, hfirst f hf⟩]
      exact fieldN_setField_same b v (hw _ (by simp)).1 (hw _ (by simp)).2
    · exact ih _ (fun f hf => hw f (List.mem_cons_of_mem _ hf)) hrest hm

/-- The fields that Dortas writes (R325). -/
def bindFields (w : Want) (p : Place) (ew k : Nat) : List (Nat × Nat × Nat) :=
  [(1023, 896, (maskOf 128 p.cores).toNat), (895, 832, (maskOf 64 p.cengs).toNat), (831, 800, (maskOf 32 p.hearths).toNat), (799, 768, p.skib),
   (753, 740, p.sbase), (739, 724, (maskOf 16 p.banks).toNat), (723, 714, p.tro), (713, 701, p.tok), (700, 693, p.rdv), (692, 685, w.steps),
   (684, 677, ew), (676, 676, if p.softc then 1 else 0), (675, 675, if p.softv then 1 else 0), (674, 668, p.ccore), (511, 448, 65536 * Config.saveArea k),
   (127, 120, w.vf), (119, 104, w.rcb), (103, 88, w.i), (87, 72, lrSeq w.bits), (2, 0, 1)]

theorem fieldN_bindRecord {w : Want} {p : Place} {ew k : Nat} (hi lo v : Nat) (hm : (hi, lo, v) ∈ bindFields w p ew k) :
    fieldN (bindRecord w p ew k) hi lo = v % 2 ^ (hi + 1 - lo) :=
  fieldN_foldl_mem (bindFields w p ew k) entryReset (by simp [bindFields]) (by simp [bindFields]) hm

theorem getLsbD_maskOf {n : Nat} (l : List Nat) {c : Nat} (hc : c < n) : (maskOf n l).getLsbD c = true ↔ c ∈ l := by
  have key : ∀ (l : List Nat) (m : BitVec n), (l.foldl (fun (m : BitVec n) (i : Nat) => m ||| (1 <<< i)) m).getLsbD c = true ↔ m.getLsbD c = true ∨ c ∈ l := by
    intro l
    induction l with
    | nil => simp
    | cons i rest ih =>
      intro m
      have hone : ((1 <<< i : Nat) : BitVec n).getLsbD c = true ↔ c = i := by
        rw [BitVec.natCast_eq_ofNat, BitVec.getLsbD_ofNat, Nat.one_shiftLeft, Nat.testBit_two_pow]
        simp [hc, eq_comm]
      rw [List.foldl_cons, ih, BitVec.getLsbD_or, Bool.or_eq_true, hone, List.mem_cons, or_assoc]
  simpa [maskOf] using key l 0

/-- A mask field of a record, bit by bit. -/
theorem getLsbD_extract_of_fieldN {n len : Nat} {b : BitVec n} {lo v c : Nat} (h : fieldN b (lo + len - 1) lo = v % 2 ^ (lo + len - 1 + 1 - lo)) (hc : c < len) :
    (b.extractLsb' lo len).getLsbD c = v.testBit c := by
  have h1 := testBit_fieldN b (lo + len - 1) lo c
  rw [h, Nat.testBit_mod_two_pow, show lo + len - 1 + 1 - lo = len by omega] at h1
  rw [BitVec.getLsbD_extractLsb']
  simpa [hc] using h1.symm

/-- The entry that is written for a record (R325). -/
theorem newSlot_fields (w : Want) (p : Place) (ew k image cycle : Nat) :
    let y := newSlot (bindRecord w p ew k) image cycle
    y.state = 1 ∧ y.vf = w.vf % 256 ∧ y.rcbx = w.rcb % 65536 ∧ y.lrec = w.i % 65536 ∧ y.seq = lrSeq w.bits % 65536 ∧ y.ccore = p.ccore % 128 ∧
      (∀ c, c < 128 → (y.cmask.getLsbD c = true ↔ c ∈ p.cores)) ∧ (∀ c, c < 32 → (y.hmask.getLsbD c = true ↔ c ∈ p.hearths)) := by
  have hf : ∀ hi lo v, (hi, lo, v) ∈ bindFields w p ew k → fieldN (bindRecord w p ew k) hi lo = v % 2 ^ (hi + 1 - lo) := fieldN_bindRecord
  refine ⟨hf 2 0 1 (by simp [bindFields]), hf 127 120 w.vf (by simp [bindFields]), hf 119 104 w.rcb (by simp [bindFields]), hf 103 88 w.i (by simp [bindFields]),
    hf 87 72 (lrSeq w.bits) (by simp [bindFields]), hf 674 668 p.ccore (by simp [bindFields]), fun c hc => ?_, fun c hc => ?_⟩
  · rw [← getLsbD_maskOf p.cores hc, ← BitVec.testBit_toNat]
    exact iff_of_eq (congrArg (· = true) (getLsbD_extract_of_fieldN (lo := 896) (len := 128) (hf 1023 896 (maskOf 128 p.cores).toNat (by simp [bindFields])) hc))
  · rw [← getLsbD_maskOf p.hearths hc, ← BitVec.testBit_toNat]
    exact iff_of_eq (congrArg (· = true) (getLsbD_extract_of_fieldN (lo := 800) (len := 32) (hf 831 800 (maskOf 32 p.hearths).toNat (by simp [bindFields])) hc))

/-- Whatever number is taken modulo the length of a list that is not empty, it names an element. -/
theorem getElem?_mod_of_mem {l : List Nat} {j : Nat} (h : j ∈ l) (r : Nat) : ∃ k, l[r % l.length]? = some k ∧ k ∈ l :=
  have hlt := Nat.mod_lt r (List.length_pos_of_mem h)
  ⟨_, List.getElem?_eq_getElem hlt, List.getElem_mem hlt⟩

/-- The free entries of the slot table. -/
def State.freeEntries (s : State) (n : Nat) : List Nat := (List.range n).filter (fun k => (Tbl.get? s.slots k).isNone)

theorem mem_freeEntries {s : State} {n k : Nat} : k ∈ s.freeEntries n ↔ k < n ∧ Tbl.get? s.slots k = none := by
  rw [State.freeEntries, List.mem_filter, List.mem_range, Option.isNone_iff_eq_none]

theorem bindRecordOf_of_entry {s : State} {w : Want} {p : Place} {k : Nat}
    (h : (s.freeEntries 2048)[(Config.freeWord s.free).toNat % (s.freeEntries 2048).length]? = some k) :
    s.bindRecordOf w p = { s with free := s.free + 1, slots := Tbl.set s.slots k (newSlot (bindRecord w p
      (((Tbl.get? s.rcbs (1 + w.vf)).map (fun n => fieldN n.bits 143 136)).getD 1) k) (lrImage w.bits) s.cycle) } := by
  unfold State.bindRecordOf
  simp only [← State.freeEntries.eq_def]
  rw [h]

/-- A free entry is found when there is one. -/
theorem bindRecordOf_spec {s : State} (w : Want) (p : Place) (hfree : ∃ k, k < 2048 ∧ Tbl.get? s.slots k = none) :
    ∃ (k : Nat) (y : Slot), Tbl.get? s.slots k = none ∧ k < 2048 ∧ s.bindRecordOf w p = { s with free := s.free + 1, slots := Tbl.set s.slots k y } ∧
      y.state = 1 ∧ y.vf = w.vf % 256 ∧ y.rcbx = w.rcb % 65536 ∧ y.lrec = w.i % 65536 ∧ y.seq = lrSeq w.bits % 65536 ∧ y.ccore = p.ccore % 128 ∧
      (∀ c, c < 128 → (y.cmask.getLsbD c = true ↔ c ∈ p.cores)) ∧ (∀ c, c < 32 → (y.hmask.getLsbD c = true ↔ c ∈ p.hearths)) := by
  obtain ⟨j, hj⟩ := hfree
  obtain ⟨k, hk, hmem⟩ := getElem?_mod_of_mem (mem_freeEntries.2 hj) (Config.freeWord s.free).toNat
  obtain ⟨hlt, hnone⟩ := mem_freeEntries.1 hmem
  exact ⟨k, _, hnone, hlt, bindRecordOf_of_entry hk, newSlot_fields w p _ k (lrImage w.bits) s.cycle⟩

theorem bindWant_plain {s : State} {w : Want} (p : Place) (h : lrCond w.bits = 0) : s.bindWant w p = .next (s.bindRecordOf w p) := by
  rw [State.bindWant]
  exact if_pos h

/-- The condition read fails: the record ends without a bind (R22). -/
theorem bindWant_condition_zero {s : State} {w : Want} (p : Place) {i : PageInfo} (h : lrCond w.bits ≠ 0) (hc : lrCompl w.bits = 0)
    (ht : translateFull s w.vf (lrCond w.bits) 1 = .ok i) (hk : paKind i.pa = .hbm) (hr : i.remote = none) (hp : s.poisoned i.pa = false)
    (hb : bytesFrom s.devByte i.pa 8 = List.replicate 8 0) : s.bindWant w p = .next (s.setLrec w.rcb w.i (setField w.bits 33 32 0)) := by
  have hbank : (s.bankCheck i.pa).2 = true := by rw [State.bankCheck, hk]
  have hfinish : s.finishRecord w 1 0 = .next (s.setLrec w.rcb w.i (setField w.bits 33 32 0)) := by
    rw [State.finishRecord, State.writeCompl]
    dsimp only
    rw [if_pos hc]
  rw [State.bindWant]
  dsimp only
  rw [if_neg h, ht]
  dsimp only
  rw [if_neg (by simp [hk]), if_neg (by simp [hr, hbank]), if_neg (by simp [hp]), if_pos hb, hfinish]

theorem setLrec_of_get {s : State} {rcb : Nat} {n : RcbNode} (hn : Tbl.get? s.rcbs rcb = some n) (i : Nat) (r : BitVec 1024) :
    s.setLrec rcb i r = { s with rcbs := Tbl.set s.rcbs rcb { n with pool := Tbl.set n.pool i r } } := by
  rw [State.setLrec, hn]

/-- A record that may be bound belongs to a region. -/
theorem region_of_armed {s : State} {w : Want} (h : w ∈ s.armed) : ∃ n, Tbl.get? s.rcbs w.rcb = some n := by
  obtain ⟨⟨k, n⟩, hmem, hw⟩ := List.mem_flatMap.1 h
  obtain ⟨⟨i, r⟩, -, hw⟩ := List.mem_filterMap.1 hw
  obtain ⟨im, -, rfl⟩ := Option.map_eq_some_iff.1 hw
  exact tbl_get_of_key hmem

section Binding
variable {s : State} {w : Want} {p : Place} (hs : ∀ x ∈ s.slots, x.2.state ≠ 7 ∧ x.2.state ≠ 1)
  (ho : ∀ v ∈ s.armed, s.considered v = true → s.overDemand v.rcb v.bits = none)
  (hch : (s.catchUp (s.armed.filter s.eligible)).choose (s.armed.filter s.eligible) = some w) (hw : w ∈ s.armed.filter s.eligible)
  (hp : (s.catchUp (s.armed.filter s.eligible)).place? none w = some p)
include hs ho hch hw hp

theorem exec_bindDecision_bind (hc : lrCond w.bits = 0) (hfree : ∃ k, k < 2048 ∧ Tbl.get? s.slots k = none) :
    ∃ (t : State) (k : Nat) (y : Slot), exec .bindDecision s = .next t ∧ Tbl.get? s.slots k = none ∧ k < 2048 ∧ EntryIs t k y ∧ y.state = 1 ∧
      y.vf = w.vf % 256 ∧ y.rcbx = w.rcb % 65536 ∧ y.lrec = w.i % 65536 ∧ y.seq = lrSeq w.bits % 65536 ∧ y.ccore = p.ccore % 128 ∧
      (∀ c, c < 128 → (y.cmask.getLsbD c = true ↔ c ∈ p.cores)) ∧ (∀ c, c < 32 → (y.hmask.getLsbD c = true ↔ c ∈ p.hearths)) ∧
      t.mem = s.mem ∧ t.cur = s.cur ∧ ∀ i n, Tbl.get? s.rcbs i = some n → ∃ m, Tbl.get? t.rcbs i = some m ∧ m.pool = n.pool := by
  obtain ⟨k, y, hk, hlt, hb, h1, h2, h3, h4, h5, h6, h7, h8⟩ := bindRecordOf_spec (s := s.catchUp (s.armed.filter s.eligible)) w p hfree
  refine ⟨_, k, y, (exec_bindDecision_eq hs ho).trans (decided_bind hch hw hp ((bindWant_plain p hc).trans (congrArg Host.Outcome.next hb))), hk, hlt, tbl_get_set _ _ _,
    h1, h2, h3, h4, h5, h6, h7, h8, rfl, rfl, fun i n hn => ?_⟩
  obtain ⟨m, hm, hpool⟩ := catchUp_get (s.armed.filter s.eligible) hn
  obtain ⟨m', hm', hpool'⟩ := catchUp_get (s := { s.catchUp (s.armed.filter s.eligible) with
    free := s.free + 1, slots := Tbl.set (s.catchUp (s.armed.filter s.eligible)).slots k y }) ((s.armed.filter s.eligible).erase w) hm
  exact ⟨m', hm', hpool'.trans hpool⟩

theorem exec_bindDecision_condition {i : PageInfo} (hc : lrCond w.bits ≠ 0) (hcompl : lrCompl w.bits = 0)
    (ht : translateFull (s.catchUp (s.armed.filter s.eligible)) w.vf (lrCond w.bits) 1 = .ok i) (hk : paKind i.pa = .hbm) (hr : i.remote = none)
    (hpo : s.poisoned i.pa = false) (hb : bytesFrom s.devByte i.pa 8 = List.replicate 8 0) :
    ∃ (t : State) (n : RcbNode), exec .bindDecision s = .next t ∧ Tbl.get? t.rcbs w.rcb = some n ∧ lrState (n.lrec w.rcb w.i) = 0 ∧ t.slots = s.slots ∧
      t.mem = s.mem ∧ t.cur = s.cur := by
  have hrun := (exec_bindDecision_eq hs ho).trans (decided_bind hch hw hp (bindWant_condition_zero p hc hcompl ht hk hr hpo hb))
  obtain ⟨n, hn⟩ := region_of_armed (List.mem_filter.1 hw).1
  obtain ⟨m, hm, -⟩ := catchUp_get (s.armed.filter s.eligible) hn
  rw [setLrec_of_get hm] at hrun
  obtain ⟨m', hm', hpool'⟩ := catchUp_get (s := { s.catchUp (s.armed.filter s.eligible) with
    rcbs := Tbl.set (s.catchUp (s.armed.filter s.eligible)).rcbs w.rcb { m with pool := Tbl.set m.pool w.i (setField w.bits 33 32 0) } })
    ((s.armed.filter s.eligible).erase w) (tbl_get_set _ _ _)
  refine ⟨_, m', hrun, hm', ?_, rfl, rfl, rfl⟩
  rw [RcbNode.lrec, hpool', tbl_get_set, Option.getD_some]
  exact fieldN_setField_same _ _ (by omega) (by omega)

end Binding

end Sys2Proof.Machine
end

section
/-! PROOFS. A bind record submitted (R327): rejected, or started. -/
namespace Sys2Proof.Machine

/-! ## The checks -/

theorem rejects_form {s : State} {k : Nat} {x : Slot} (h : x.cmask.getLsbD x.ccore = false ∨ fieldN x.bind 684 677 = 0) : s.rejects k x = some 1 := by
  unfold State.rejects
  dsimp only
  rw [if_pos]
  rcases h with h | h <;> simp [h]

/-- The checks have numbers 1 to 4. -/
theorem rejects_le {s : State} {k n : Nat} {x : Slot} (h : s.rejects k x = some n) : n ≤ 4 := by
  unfold State.rejects at h
  dsimp only at h
  repeat' split at h
  all_goals simp only [Option.some.injEq, reduceCtorEq] at h
  all_goals omega

theorem presents_of_none {s : State} {vf kind a b : Nat} (h : Tbl.get? s.replays vf = none) : s.presents vf kind a b = true := by
  rw [State.presents, h]

theorem endVf_of_not_destroying {s : State} {vf : Nat} (h : ∀ d ∈ s.dortas.destroying, d.1 ≠ vf) : s.endVf vf = s := by
  have : s.dortas.destroying.find? (fun d => decide (d.1 = vf)) = none := List.find?_eq_none.2 fun d hd => by simpa using h d hd
  rw [State.endVf, this]

/-- The entry of a record that is rejected. -/
def Slot.rejected (x : Slot) (n : Nat) : Slot := { x.setState 7 with bind := setField (x.setState 7).bind 71 64 n }

section Submit
variable {s : State} {k : Nat} {x : Slot} (hx : EntryIs s k x)
include hx

theorem exec_slotSubmit_rejected {n : Nat} (h1 : x.state = 1) (hr : Tbl.get? s.replays x.vf = none) (hd : ∀ d ∈ s.dortas.destroying, d.1 ≠ x.vf)
    (h : s.rejects k x = some n) : exec (.slotSubmit k) s = .next (s.setSlot k (x.rejected n)) := by
  refine congrArg Host.Outcome.next ?_
  rw [show Tbl.get? s.slots k = some x from hx]
  dsimp only
  rw [if_neg (by simp [h1, presents_of_none hr]), h]
  exact endVf_of_not_destroying (s := s.setSlot k (x.rejected n)) hd

theorem exec_slotSubmit_accepted (h1 : x.state = 1) (hr : Tbl.get? s.replays x.vf = none) (hd : ∀ d ∈ s.dortas.destroying, d.1 ≠ x.vf)
    (h : s.rejects k x = none) : exec (.slotSubmit k) s = .next (s.startEntry k x) := by
  refine congrArg Host.Outcome.next ?_
  rw [show Tbl.get? s.slots k = some x from hx]
  dsimp only
  rw [if_neg (by simp [h1, presents_of_none hr]), h]
  exact if_neg (by simpa [List.any_eq_true] using fun m hm => hd _ hm rfl)

end Submit

theorem exec_slotSubmit_other {s : State} {k : Nat} (h : ∀ x, EntryIs s k x → x.state ≠ 1) : exec (.slotSubmit k) s = .next s := by
  refine congrArg Host.Outcome.next ?_
  cases hx : Tbl.get? s.slots k with
  | none => rfl
  | some x => exact if_pos (.inl (h x hx))

theorem rejected_spec (x : Slot) {n : Nat} (h : n ≤ 4) : (x.rejected n).state = 7 ∧ fieldN (x.rejected n).bind 71 64 = n := by
  constructor
  · exact (fieldN_setField_ne _ _ (by omega) (by omega) (.inl (by omega))).trans (setState_state x 7)
  · exact (fieldN_setField_same _ _ (by omega) (by omega)).trans (Nat.mod_eq_of_lt (by omega))

/-! ## The start (R29, R49) -/

/-- The entry of a record that is accepted. -/
def Slot.started (x : Slot) (cycle : Nat) : Slot :=
  { x.setState 2 with bind := setField (x.setState 2).bind 447 384 cycle, bindCycle := cycle, sliceStart := cycle, chargedAt := cycle }

section Started
variable (x : Slot) (cycle : Nat)

/-- A field outside STATE and the cycle of the bind reads as before. -/
theorem fieldN_started {hi lo : Nat} (h : 2 < lo) (h' : hi < 384 ∨ 447 < lo) : fieldN (x.started cycle).bind hi lo = fieldN x.bind hi lo :=
  (fieldN_setField_ne _ _ (by omega) (by omega) h').trans (fieldN_setState x 2 h)

@[simp] theorem started_state : (x.started cycle).state = 2 := (fieldN_setField_ne _ _ (by omega) (by omega) (.inl (by omega))).trans (setState_state x 2)
@[simp] theorem started_vf : (x.started cycle).vf = x.vf := fieldN_started x cycle (by omega) (.inl (by omega))
@[simp] theorem started_rcbx : (x.started cycle).rcbx = x.rcbx := fieldN_started x cycle (by omega) (.inl (by omega))
@[simp] theorem started_lrec : (x.started cycle).lrec = x.lrec := fieldN_started x cycle (by omega) (.inl (by omega))
@[simp] theorem started_ccore : (x.started cycle).ccore = x.ccore := fieldN_started x cycle (by omega) (.inr (by omega))
theorem started_cycle : fieldN (x.started cycle).bind 447 384 = cycle % 2 ^ 64 := fieldN_setField_same _ _ (by omega) (by omega)

theorem started_getLsbD {i : Nat} (h : 447 < i) : (x.started cycle).bind.getLsbD i = x.bind.getLsbD i :=
  (getLsbD_setField_ne _ _ (by omega) (by omega) (.inr h)).trans (getLsbD_setField_ne _ _ (by omega) (by omega) (.inr (by omega)))

theorem started_holdsSram (a : Nat) : (x.started cycle).holdsSram a = x.holdsSram a := by
  unfold Slot.holdsSram
  cases paKind a with
  | sram g b =>
    dsimp only
    rw [started_ccore, started_getLsbD x cycle (by omega), fieldN_started x cycle (by omega) (.inr (by omega)), fieldN_started x cycle (by omega) (.inr (by omega))]
  | hbm => rfl
  | remote => rfl
  | hole => rfl

end Started

/-- Blanked: what the opening of an entry's resources changes, beside memory. -/
def State.butOpened (s : State) : State := { s with hearths := [], banks := [], hold := [], coh := [], tokens := [], rdvs := [], troughs := [] }

theorem openBanks_but_opened (s : State) (x : Slot) : (s.openBanks x).butOpened = ({ s with mem := zeroAllot x s.mem } : State).butOpened := by
  have hzero : ∀ t : State, (t.zeroSram x).butOpened = { t.butOpened with mem := zeroAllot x t.butOpened.mem } := fun _ => rfl
  unfold State.openBanks
  dsimp only
  rw [hzero, foldl_keeps State.butOpened]
  · rfl
  · exact fun _ _ => rfl

theorem openWindows_but_opened (s : State) (k : Nat) (x : Slot) : (s.openWindows k x).butOpened = s.butOpened := by
  unfold State.openWindows
  dsimp only
  rw [foldl_keeps State.butOpened]
  · rfl
  · exact fun _ _ => rfl

/-- The resources of an entry opened: its Hearths, banks and windows. -/
def State.resourced (s : State) (k : Nat) (y : Slot) : State := (((s.setSlot k y).openHearths k y).openBanks y).openWindows k y

theorem resourced_but_opened (s : State) (k : Nat) (y : Slot) :
    (s.resourced k y).butOpened = ({ s.setSlot k y with mem := zeroAllot y s.mem } : State).butOpened :=
  (openWindows_but_opened _ k y).trans (openBanks_but_opened _ y)

section
variable (s : State) (k : Nat) (y : Slot)
@[simp] theorem resourced_replays : (s.resourced k y).replays = s.replays := (congrArg State.replays (resourced_but_opened s k y) :)
@[simp] theorem resourced_dortas : (s.resourced k y).dortas = s.dortas := (congrArg State.dortas (resourced_but_opened s k y) :)
@[simp] theorem resourced_rcbs : (s.resourced k y).rcbs = s.rcbs := (congrArg State.rcbs (resourced_but_opened s k y) :)
@[simp] theorem resourced_images : (s.resourced k y).images = s.images := (congrArg State.images (resourced_but_opened s k y) :)
@[simp] theorem resourced_mem : (s.resourced k y).mem = zeroAllot y s.mem := (congrArg State.mem (resourced_but_opened s k y) :)
@[simp] theorem resourced_cur : (s.resourced k y).cur = s.cur := (congrArg State.cur (resourced_but_opened s k y) :)
@[simp] theorem resourced_parked : (s.resourced k y).parked = s.parked := (congrArg State.parked (resourced_but_opened s k y) :)
@[simp] theorem resourced_slots : (s.resourced k y).slots = Tbl.set s.slots k y := (congrArg State.slots (resourced_but_opened s k y) :)
end

section Uncaptured
variable {s : State} {vf : Nat} (hrep : Tbl.get? s.replays vf = none) (hcap : Tbl.get? s.dortas.captures vf = none)
include hrep hcap

/-- An engine's positions stay as they are for a VF that is neither captured nor replayed. -/
theorem seedEngine_plain (e : Nat) : s.seedEngine vf e = s := by
  rw [State.seedEngine, hrep]
  exact capture_without_replay hcap hrep

theorem foldl_seedEngine_plain (l : List Nat) : l.foldl (fun t e => t.seedEngine vf e) s = s :=
  foldl_holds (P := fun t => t = s) l (fun t e _ ht => by rw [ht, seedEngine_plain hrep hcap]) rfl

end Uncaptured

/-- The launch record of an entry becomes BOUND. -/
theorem boundRecord_plain {s : State} {x : Slot} {r : RcbNode} (hrep : Tbl.get? s.replays x.vf = none) (hcap : Tbl.get? s.dortas.captures x.vf = none)
    (hr : Tbl.get? s.rcbs x.rcbx = some r) :
    s.boundRecord x = { s with rcbs := Tbl.set s.rcbs x.rcbx { r with pool := Tbl.set r.pool x.lrec (setField (r.lrec x.rcbx x.lrec) 33 32 2) } } := by
  rw [State.boundRecord, hr]
  dsimp only
  rw [setLrec_of_get hr]
  exact capture_without_replay hcap hrep

/-- The node of an entry whose record is BOUND. -/
def RcbNode.boundTo (r : RcbNode) (x : Slot) : RcbNode := { r with pool := Tbl.set r.pool x.lrec (setField (r.lrec x.rcbx x.lrec) 33 32 2) }

theorem boundTo_lrec (r : RcbNode) (x : Slot) : (r.boundTo x).lrec x.rcbx x.lrec = setField (r.lrec x.rcbx x.lrec) 33 32 2 := by
  rw [RcbNode.lrec, RcbNode.boundTo, tbl_get_set, Option.getD_some]

/-- The state in which the context is started. -/
def State.opened (s : State) (k : Nat) (y : Slot) : State := y.shareable.foldl (fun t e => t.seedEngine y.vf e) ((s.resourced k y).boundRecord y)

theorem opened_eq {s : State} {y : Slot} {r : RcbNode} (k : Nat) (hrep : Tbl.get? s.replays y.vf = none) (hcap : Tbl.get? s.dortas.captures y.vf = none)
    (hr : Tbl.get? s.rcbs y.rcbx = some r) : s.opened k y = { s.resourced k y with rcbs := Tbl.set s.rcbs y.rcbx (r.boundTo y) } := by
  have hrec : (s.resourced k y).boundRecord y = { s.resourced k y with rcbs := Tbl.set s.rcbs y.rcbx (r.boundTo y) } := by
    rw [boundRecord_plain (r := r) (by simpa using hrep) (by simpa using hcap) (by simpa using hr), resourced_rcbs]
    rfl
  rw [State.opened, hrec]
  exact foldl_seedEngine_plain (by simpa using hrep) (by simpa using hcap) _

/-- A context that is added is found by its name, when no other had it. -/
theorem ctx?_addContext {s : State} {c : Context} (h : s.ctx? c.ref = none) : (s.addContext c).ctx? c.ref = some c := by
  have hcur : s.cur.ref ≠ c.ref := fun he => by simp [State.ctx?, he] at h
  have hparked : s.parked.find? (fun d => decide (d.ref = c.ref)) = none := by simpa [State.ctx?, hcur] using h
  unfold State.addContext
  split
  · exact if_pos rfl
  · rw [State.ctx?, if_neg hcur, List.find?_append, hparked]
    simp

theorem addContext_but_ctxs (s : State) (c : Context) : (s.addContext c).butCtxs = s.butCtxs := by
  unfold State.addContext
  split <;> rfl

/-- The arguments of a record in the first registers (R29). -/
theorem argument_registers (f : Nat → Word) (v : Word) :
    let regs := ((List.range 6).foldl (fun (w : Vector Word 32) i => w.setIfInBounds (i + 1) (f i)) Context.blank.s).setIfInBounds 7 v
    (∀ j, j < 6 → regs[j + 1]? = some (f j)) ∧ regs[7]? = some v := by
  refine ⟨fun j hj => ?_, by simp⟩
  have : j = 0 ∨ j = 1 ∨ j = 2 ∨ j = 3 ∨ j = 4 ∨ j = 5 := by omega
  rcases this with rfl | rfl | rfl | rfl | rfl | rfl <;> rfl

theorem controlOf_spec {s : State} {k : Nat} {y : Slot} {r : RcbNode} {i : Image} (hr : Tbl.get? s.rcbs y.rcbx = some r) (hi : Tbl.get? s.images y.image = some i) :
    let l := r.lrec y.rcbx y.lrec
    let c := s.controlOf k y
    c.ref = ⟨k, 0⟩ ∧ c.kind = .cc ∧ c.engine = y.ccore ∧ c.phase = .ready ∧ c.hd = false ∧
      c.pc = BitVec.ofNat 64 (4 * (if lrEntry l = 0 then fieldN i.header 95 64 else lrEntry l)) ∧
      (∀ j, j < 6 → c.s[j + 1]? = some (lrArg l j)) ∧ c.s[7]? = some (BitVec.ofNat 64 y.lrec) ∧
      c.wtro = BitVec.ofNat 64 (fieldN y.bind 723 714 + 2 ^ 32 * fieldN i.header 111 96) := by
  have hrec : ((Tbl.get? s.rcbs y.rcbx).map (fun n => n.lrec y.rcbx y.lrec)).getD 0 = r.lrec y.rcbx y.lrec := by rw [hr]; rfl
  have hhdr : ((Tbl.get? s.images y.image).map (·.header)).getD 0 = i.header := by rw [hi]; rfl
  have hdecl : s.declared y = i.counts := by rw [State.declared, hi]
  have hregs := argument_registers (lrArg (r.lrec y.rcbx y.lrec)) (BitVec.ofNat 64 y.lrec)
  dsimp only
  rw [State.controlOf, hrec, hhdr, State.withWindows, hdecl]
  exact ⟨rfl, rfl, rfl, rfl, rfl, rfl, hregs.1, hregs.2, rfl⟩

theorem exec_slotSubmit_started {s : State} {k : Nat} {x : Slot} {r : RcbNode} {i : Image} (hx : EntryIs s k x) (h1 : x.state = 1)
    (hrep : Tbl.get? s.replays x.vf = none) (hd : ∀ d ∈ s.dortas.destroying, d.1 ≠ x.vf) (hrej : s.rejects k x = none) (hctx : s.ctx? ⟨k, 0⟩ = none)
    (hr : Tbl.get? s.rcbs x.rcbx = some r) (hi : Tbl.get? s.images x.image = some i) (hcap : Tbl.get? s.dortas.captures x.vf = none) :
    let l := r.lrec x.rcbx x.lrec
    ∃ (t : State) (y : Slot) (c : Context) (r' : RcbNode), exec (.slotSubmit k) s = .next t ∧ EntryIs t k y ∧ y.state = 2 ∧
      fieldN y.bind 447 384 = s.cycle % 2 ^ 64 ∧ Tbl.get? t.rcbs x.rcbx = some r' ∧ lrState (r'.lrec x.rcbx x.lrec) = 2 ∧
      t.ctx? ⟨k, 0⟩ = some c ∧ c.kind = .cc ∧ c.engine = x.ccore ∧ c.phase = .ready ∧ c.hd = false ∧
      c.pc = BitVec.ofNat 64 (4 * (if lrEntry l = 0 then fieldN i.header 95 64 else lrEntry l)) ∧
      (∀ j, j < 6 → c.s[j + 1]? = some (lrArg l j)) ∧ c.s[7]? = some (BitVec.ofNat 64 x.lrec) ∧
      c.wtro = BitVec.ofNat 64 (fieldN x.bind 723 714 + 2 ^ 32 * fieldN i.header 111 96) ∧ (∀ a, x.holdsSram a = true → t.mem.get a = 0) ∧
      (∀ a, x.holdsSram a = false → t.mem.get a = s.mem.get a) := by
  intro l
  generalize hy : x.started s.cycle = y
  have hvf : y.vf = x.vf := hy ▸ started_vf x s.cycle
  have hrcbx : y.rcbx = x.rcbx := hy ▸ started_rcbx x s.cycle
  have hlrec : y.lrec = x.lrec := hy ▸ started_lrec x s.cycle
  have hopen : s.opened k y = { s.resourced k y with rcbs := Tbl.set s.rcbs y.rcbx (r.boundTo y) } := 
    opened_eq k (by rw [hvf]; exact hrep) (by rw [hvf]; exact hcap) (by rw [hrcbx]; exact hr)
  generalize hu : s.opened k y = u at hopen
  have hur : Tbl.get? u.rcbs y.rcbx = some (r.boundTo y) := by rw [hopen]; exact tbl_get_set _ _ _
  have hui : Tbl.get? u.images y.image = some i := by
    rw [hopen, ← hy]
    exact (congrArg (fun t => Tbl.get? t x.image) (resourced_images s k _)).trans hi
  obtain ⟨href, hkind, heng, hphase, hhd, hpc, hargs, hs7, hwtro⟩ := controlOf_spec (k := k) hur hui
  have hnone : u.ctx? (u.controlOf k y).ref = none := by
    rw [href, hopen]
    simpa [State.ctx?] using hctx
  have hfound := ctx?_addContext hnone
  have hkeep := addContext_but_ctxs u (u.controlOf k y)
  have hkmem : (u.addContext (u.controlOf k y)).mem = u.mem := (congrArg State.mem hkeep :)
  have hkslots : (u.addContext (u.controlOf k y)).slots = u.slots := (congrArg State.slots hkeep :)
  have hstart : s.startEntry k x = (u.addContext (u.controlOf k y)).orderPoint (u.controlOf k y) true := by rw [← hu, ← hy]; rfl
  have hmem : ∀ a, (u.addContext (u.controlOf k y)).mem.get a = if x.holdsSram a then 0 else s.mem.get a := fun a => by
    rw [hkmem, hopen, ← started_holdsSram x s.cycle, hy, ← zeroAllot_get]
    simp
  have hl : (r.boundTo y).lrec y.rcbx y.lrec = setField l 33 32 2 := by rw [boundTo_lrec, hrcbx, hlrec]
  have hentry : lrEntry (setField l 33 32 2) = lrEntry l := fieldN_setField_ne _ _ (by omega) (by omega) (.inr (by omega))
  have harg : ∀ j, lrArg (setField l 33 32 2) j = lrArg l j := fun j => extractLsb'_setField_ne _ _ (by omega) (by omega) (.inr (by omega))
  rw [hl, hentry] at hpc
  rw [hl] at hargs
  refine ⟨_, y, u.controlOf k y, r.boundTo y, (exec_slotSubmit_accepted hx h1 hrep hd hrej).trans (congrArg Host.Outcome.next hstart),
    ?_, hy ▸ started_state x s.cycle, hy ▸ started_cycle x s.cycle, ?_, ?_, href ▸ hfound, hkind, ?_, hphase, hhd, hpc, fun j hj => (hargs j hj).trans (congrArg some (harg j)),
    hlrec ▸ hs7, ?_, fun a ha => (hmem a).trans (if_pos ha), fun a ha => (hmem a).trans (if_neg (by simp [ha]))⟩
  · show Tbl.get? (u.addContext (u.controlOf k y)).slots k = some y
    rw [hkslots, hopen]
    simp
  · rw [← hrcbx, ← hur]
    exact (congrArg (fun t : State => Tbl.get? t.rcbs y.rcbx) hkeep :)
  · rw [← hrcbx, ← hlrec, boundTo_lrec]
    exact fieldN_setField_same _ _ (by omega) (by omega)
  · rw [heng, ← hy, started_ccore]
  · rw [hwtro, ← hy, fieldN_started x s.cycle (by omega) (.inr (by omega))]

/-- Settles O42: a late record is the earliest of its kind, a bound one a free entry written field by field, and a submitted one checked before its
resources are opened and its control context started. -/
theorem bindAndSubmit : Obligations.BindAndSubmit := by
  refine ⟨fun s el h => choose_late el h, fun s hs ho => ?_, fun s k x hx h1 hrep hd => ⟨rejects_form, fun n hn => ?_, fun r i hrej hctx hr hi hcap => ?_⟩,
    fun s k h => exec_slotSubmit_other h⟩
  · exact ⟨fun h => (exec_bindDecision_eq hs ho).trans (decided_none h), fun w h hw => (exec_bindDecision_eq hs ho).trans (decided_not_eligible h hw),
      fun w p hch hw hp hc hfree => exec_bindDecision_bind hs ho hch hw hp hc hfree,
      fun w p i hch hw hp hc hcompl ht hk hr hpo hb => exec_bindDecision_condition hs ho hch hw hp hc hcompl ht hk hr hpo hb⟩
  · obtain ⟨h7, hn'⟩ := rejected_spec x (rejects_le hn)
    exact ⟨_, _, exec_slotSubmit_rejected hx h1 hrep hd hn, entryIs_setSlot _ _ _, h7, hn', rfl, rfl, rfl⟩
  · exact exec_slotSubmit_started hx h1 hrep hd hrej hctx hr hi hcap

end Sys2Proof.Machine
end

section
/-! PROOFS. Hard pre-emption and restoring (O44). -/
namespace Sys2Proof.Machine

/-! ## Hard pre-emption (R337) -/

/-- A Hearth that is held is an entry of the table. -/
theorem hearth_get_of_holder {s : State} {g k : Nat} (h : (s.hearth g).holder = some k) : Tbl.get? s.hearths g = some (s.hearth g) := by
  rw [State.hearth] at h ⊢
  cases hg : Tbl.get? s.hearths g with
  | none =>
    rw [hg] at h
    cases h
  | some x => rfl

theorem mem_leased_table {s : State} {g k : Nat} (h : g ∈ s.leased k) : ∃ x, Tbl.get? s.hearths g = some x := by
  obtain ⟨⟨j, x⟩, hmem, rfl⟩ := List.mem_map.1 h
  exact tbl_get_of_key (List.mem_filter.1 hmem).1

/-- A Hearth of the table after every one has been changed by its number. -/
theorem hearth_map_of_get {s : State} {g : Nat} {x : Hearth} (hg : Tbl.get? s.hearths g = some x) (f : Nat → Hearth → Hearth) (t : State)
    (ht : t.hearths = s.hearths.map (fun h => (h.1, f h.1 h.2))) : t.hearth g = f g (s.hearth g) := by
  rw [State.hearth, ht, tbl_get_map, hg, State.hearth, hg]
  rfl

theorem saveKey_div (k : Nat) {g : Nat} (hg : g < 64) : saveKey k g / 64 = k := by
  rw [saveKey]
  omega

theorem saveKey_mod (k : Nat) {g : Nat} (hg : g < 64) : saveKey k g % 64 = g := by
  rw [saveKey]
  omega

/-- The Hearths of an instance that are not saved yet. -/
def State.unsaved (s : State) (k : Nat) : List Nat := (s.leased k).filter (fun g => (Tbl.get? s.saved (saveKey k g)).isNone)

theorem foldl_save_get (s : State) (k g : Nat) (l : List Nat) (hg : g ∈ l) (t : Tbl Hearth) :
    Tbl.get? (l.foldl (fun t j => Tbl.set t (saveKey k j) (s.hearth j)) t) (saveKey k g) = some (s.hearth g) := by
  refine foldl_reaches (key := id) (P := fun _ => True) (Q := fun t => Tbl.get? t (saveKey k g) = some (s.hearth g))
    (fun _ _ _ _ => trivial) (fun t j hj _ => ?_) (fun t j ht => ?_) l (by simpa using hg) trivial
  · obtain rfl : j = g := hj
    exact tbl_get_set _ _ _
  · by_cases hj : j = g
    · subst hj
      exact tbl_get_set _ _ _
    · exact (tbl_get_set_ne _ _ (by unfold saveKey; omega)).trans ht

theorem exec_hardPreempt {s : State} {k : Nat} {x : Slot} (hx : EntryIs s k x) (h3 : x.state = 3) :
    ∃ t, exec (.hardPreempt k) s = .next t ∧ t.cur = s.cur ∧ t.mem = s.mem ∧
      ∀ g, (s.hearth g).holder = some k → Tbl.get? s.saved (64 * k + g) = none → g < 64 →
        Tbl.get? t.saved (64 * k + g) = some (s.hearth g) ∧ t.hearth g = { s.hearth g with frozen := true } := by
  have hrun : exec (.hardPreempt k) s = .next { s with
      saved := (s.unsaved k).foldl (fun t g => Tbl.set t (saveKey k g) (s.hearth g)) s.saved
      hearths := s.hearths.map (fun h => (h.1, if (s.unsaved k).contains h.1 then { h.2 with frozen := true } else h.2)) } := by
    refine congrArg Host.Outcome.next ?_
    rw [show Tbl.get? s.slots k = some x from hx]
    exact if_neg (by simp [h3])
  refine ⟨_, hrun, rfl, rfl, fun g hg hs _ => ?_⟩
  have hkey : 64 * k + g = saveKey k g := by rw [saveKey, Nat.mul_comm]
  rw [hkey] at hs ⊢
  have hmem : g ∈ s.unsaved k := List.mem_filter.2 ⟨mem_leased hg, by simp [hs]⟩
  refine ⟨foldl_save_get s k g _ hmem s.saved, ?_⟩
  rw [hearth_map_of_get (hearth_get_of_holder hg) (fun j h => if (s.unsaved k).contains j then { h with frozen := true } else h) _ rfl]
  exact if_pos (by simpa using hmem)

theorem exec_hardPreempt_other {s : State} {k : Nat} {x : Slot} (hx : EntryIs s k x) (h3 : x.state ≠ 3) :
    exec (.hardPreempt k) s = .next s ∧ exec (.saveComplete k) s = .next s := by
  constructor
  · refine congrArg Host.Outcome.next ?_
    rw [show Tbl.get? s.slots k = some x from hx]
    exact if_pos h3
  · refine congrArg Host.Outcome.next ?_
    rw [show Tbl.get? s.slots k = some x from hx]
    exact if_neg fun h => h3 h.1

/-! ## A context stops (R36, R338) -/

/-- The context stands where a stop may catch it: at a wait, or at a loop-iteration boundary. -/
def Context.atStop (c : Context) : Bool :=
  match c.phase with
  | .waiting => true
  | .ready => decide (c.sinceBoundary = 0)
  | .stopped => false
  | .joined => false

section Stop
variable {s : State} {k : Nat} {x : Slot} (hx : EntryIs s k x) (hk : s.cur.slot = k) (h3 : x.state = 3)
include hx hk h3

theorem exec_contextStop_eq : exec (.contextStop s.cur.ref) s =
    if s.cur.atStop = false then .next s
    else if !s.cur.copiesStopped then s.copyFinish s.cur.ref 4096
    else .next (if s.settled s.cur then ((s.leaveRequests (fun w => w = s.cur.ref)).setSlot k { x with offer := none }).setCtx s.cur.ref s.stopped else s) := by
  have hslot : s.cur.ref.slot = k := hk
  show execContextStop s.cur.ref s = _
  rw [execContextStop, hslot, show Tbl.get? s.slots k = some x from hx, ctx?_cur_ref]
  simp only [ne_eq, h3, not_true_eq_false, false_or]
  rfl

theorem exec_contextStop_stops (hph : s.cur.phase = .waiting ∨ (s.cur.phase = .ready ∧ s.cur.sinceBoundary = 0)) (hc : s.cur.copiesStopped = true)
    (hs : s.settled s.cur = true) : exec (.contextStop s.cur.ref) s =
      .next (((s.leaveRequests (fun w => w = s.cur.ref)).setSlot k { x with offer := none }).setCur s.stopped) := by
  rw [exec_contextStop_eq hx hk h3, if_neg, if_neg (by simp [hc]), if_pos hs]
  · exact congrArg Host.Outcome.next (setCtx_cur_ref _ _)
  · rcases hph with hph | ⟨hph, hb⟩
    · simp [Context.atStop, hph]
    · simp [Context.atStop, hph, hb]

theorem exec_contextStop_running (hph : s.cur.phase = .ready) (hb : s.cur.sinceBoundary ≠ 0) : exec (.contextStop s.cur.ref) s = .next s := by
  rw [exec_contextStop_eq hx hk h3, if_pos]
  simp [Context.atStop, hph, hb]

end Stop

/-- The context as its stop leaves it. -/
theorem stopped_spec (s : State) (c : Context) :
    (s.stopped c).phase = .stopped ∧ (s.stopped c).wait = none ∧ (s.stopped c).pc = c.pc ∧ (s.stopped c).s = c.s ∧
      (∀ d, s.cancelled c = some d → d ≠ 0 → (s.stopped c).isFull d = false) ∧
      (s.cancelled c = none → s.stopped c = { c with phase := .stopped, wait := none, yielding := false, heAt := none, past := none }) := by
  rw [State.stopped]
  cases hc : s.cancelled c with
  | none => exact ⟨rfl, rfl, rfl, rfl, by simp, fun _ => rfl⟩
  | some d =>
    by_cases hd : d = 0
    · subst hd
      refine ⟨rfl, rfl, rfl, rfl, fun e he hne => absurd (Option.some.inj he).symm hne, by simp⟩
    · dsimp only
      rw [Context.empty, if_neg hd]
      refine ⟨rfl, rfl, rfl, rfl, fun e he _ => ?_, by simp⟩
      obtain rfl := Option.some.inj he
      have hlt : d.toNat < 32 := d.isLt
      have hne : ¬ d = 0#5 := hd
      simp [Context.isFull, hne, hlt]

theorem settled_of {s : State} {c : Context} (hp : c.pend = []) (hh : ∀ r ∈ s.hold, r.by_ ≠ c.ref ∨ r.page.remote ≠ none) : s.settled c = true := by
  rw [State.settled, hp, List.isEmpty_nil, Bool.true_and, List.all_eq_true]
  intro r hr
  rcases hh r hr with h | h
  · simp [h]
  · simp [Option.isSome_iff_ne_none.2 h]

/-! ## The save (R338) -/

/-- Undo logging changes at most the checkpoint of an entry. -/
theorem logUndo_entry {s : State} {k : Nat} {x : Slot} (hx : EntryIs s k x) (slot budget pa : Nat) (ckpt : Bool) :
    ∃ c, EntryIs (s.logUndo slot budget pa ckpt) k { x with ckpt := c } := by
  unfold State.logUndo
  split
  · exact ⟨_, hx⟩
  · rename_i y hy
    split
    · exact ⟨_, hx⟩
    · dsimp only
      split
      · exact ⟨_, hx⟩
      · split
        · have hslots : ∀ (t : State) (r : CtxRef) (f : FaultRec), (t.post r f).slots = t.slots := fun t r f => (congrArg State.slots (post_but_posted t r f) :)
          simp only [EntryIs, hslots]
          by_cases h : k = slot
          · subst h
            obtain rfl : y = x := Option.some.inj (hy.symm.trans hx)
            exact ⟨_, tbl_get_set _ _ _⟩
          · exact ⟨_, (tbl_get_set_ne _ _ h).trans hx⟩
        · exact ⟨_, hx⟩

/-- Blanked: what a write-back changes. -/
def State.butWriteback (s : State) : State := { s.butUndo with nextId := 0, coh := [], l1 := [] }

theorem writeback_but (s : State) (z : L1Sector) : (s.writeback z).butWriteback = s.butWriteback :=
  congrArg (fun t : State => { t with nextId := 0, coh := [], l1 := [] }) (logUndo_but_undo s z.by_.slot (s.undobOf z.by_.slot) z.pa z.ckpt)

theorem foldl_writeback_but (l : List L1Sector) (s : State) : (l.foldl (fun t y => t.writeback y) s).butWriteback = s.butWriteback :=
  foldl_keeps State.butWriteback writeback_but l s

theorem writeback_entry {s : State} {k : Nat} {x : Slot} (hx : EntryIs s k x) (z : L1Sector) : ∃ c, EntryIs (s.writeback z) k { x with ckpt := c } :=
  logUndo_entry hx z.by_.slot (s.undobOf z.by_.slot) z.pa z.ckpt

theorem foldl_writeback_entry {s : State} {k : Nat} {x : Slot} (hx : EntryIs s k x) (l : List L1Sector) :
    ∃ c, EntryIs (l.foldl (fun t y => t.writeback y) s) k { x with ckpt := c } :=
  foldl_holds (P := fun t => ∃ c, EntryIs t k { x with ckpt := c }) l (fun _ z _ ⟨_, hc⟩ => writeback_entry hc z) ⟨_, hx⟩

/-- The masks of an entry whose engines have been taken. -/
theorem masks_zeroed (b : BitVec 1024) :
    let c := setField (setField (setField b 1023 896 0) 895 832 0) 831 800 0
    (∀ i, i < 128 → c.getLsbD (896 + i) = false) ∧ (∀ i, i < 64 → c.getLsbD (832 + i) = false) ∧ (∀ i, i < 32 → c.getLsbD (800 + i) = false) := by
  refine ⟨fun i hi => ?_, fun i hi => ?_, fun i hi => ?_⟩
  · rw [getLsbD_setField_ne _ _ (by omega) (by omega) (.inr (by omega)), getLsbD_setField_ne _ _ (by omega) (by omega) (.inr (by omega)),
      getLsbD_setField _ _ (by omega) (by omega), if_pos (by omega), Nat.zero_testBit]
  · rw [getLsbD_setField_ne _ _ (by omega) (by omega) (.inr (by omega)), getLsbD_setField _ _ (by omega) (by omega), if_pos (by omega), Nat.zero_testBit]
  · rw [getLsbD_setField _ _ (by omega) (by omega), if_pos (by omega), Nat.zero_testBit]

/-- An entry with no engine has no mask. -/
theorem masks_of_bits {x : Slot} (hc : ∀ i, i < 128 → x.bind.getLsbD (896 + i) = false) (he : ∀ i, i < 64 → x.bind.getLsbD (832 + i) = false)
    (hh : ∀ i, i < 32 → x.bind.getLsbD (800 + i) = false) : x.cmask = 0 ∧ x.emask = 0 ∧ x.hmask = 0 := by
  refine ⟨BitVec.eq_of_getLsbD_eq fun i hi => ?_, BitVec.eq_of_getLsbD_eq fun i hi => ?_, BitVec.eq_of_getLsbD_eq fun i hi => ?_⟩
  · simpa [Slot.cmask, hi] using hc i hi
  · simpa [Slot.emask, hi] using he i hi
  · simpa [Slot.hmask, hi] using hh i hi

theorem giveEngines_masks (x : Slot) : x.giveEngines.cmask = 0 ∧ x.giveEngines.emask = 0 ∧ x.giveEngines.hmask = 0 :=
  have ⟨hc, he, hh⟩ := masks_zeroed x.bind
  masks_of_bits hc he hh

theorem vacate_masks (x : Slot) : x.vacate.cmask = 0 ∧ x.vacate.emask = 0 ∧ x.vacate.hmask = 0 := by
  obtain ⟨hc, he, hh⟩ := masks_zeroed x.bind
  have hkeep : ∀ i, 800 ≤ i → x.vacate.bind.getLsbD i = (setField (setField (setField x.bind 1023 896 0) 895 832 0) 831 800 0).getLsbD i := fun i hi =>
    (getLsbD_setField_ne _ _ (by omega) (by omega) (.inr (by omega))).trans (getLsbD_setField_ne _ _ (by omega) (by omega) (.inr (by omega)))
  exact masks_of_bits (fun i hi => (hkeep _ (by omega)).trans (hc i hi)) (fun i hi => (hkeep _ (by omega)).trans (he i hi))
    (fun i hi => (hkeep _ (by omega)).trans (hh i hi))

theorem giveEngines_state (x : Slot) : x.giveEngines.state = x.state :=
  (fieldN_setField_ne _ _ (by omega) (by omega) (.inl (by omega))).trans ((fieldN_setField_ne _ _ (by omega) (by omega) (.inl (by omega))).trans
    (fieldN_setField_ne _ _ (by omega) (by omega) (.inl (by omega))))

theorem vacate_state (x : Slot) : x.vacate.state = x.state :=
  (fieldN_setField_ne _ _ (by omega) (by omega) (.inl (by omega))).trans ((fieldN_setField_ne _ _ (by omega) (by omega) (.inl (by omega))).trans
    (giveEngines_state x))

/-- The entry once it is STOPPED. -/
theorem afterSave_spec (x : Slot) (recs : List SavedLease) : (x.afterSave recs).state = 4 ∧ (x.afterSave recs).leases = recs ∧
    (x.suspended = true ∨ x.yieldAsked ≠ none → (x.afterSave recs).cmask = 0 ∧ (x.afterSave recs).emask = 0 ∧ (x.afterSave recs).hmask = 0) := by
  unfold Slot.afterSave
  dsimp only
  split
  · exact ⟨(vacate_state _).trans (setState_state x 4), rfl, fun _ => vacate_masks _⟩
  · rename_i hs
    split
    · exact ⟨(giveEngines_state _).trans (setState_state x 4), rfl, fun _ => giveEngines_masks _⟩
    · rename_i hy
      refine ⟨setState_state x 4, rfl, fun h => absurd h ?_⟩
      simp only [hs]
      simpa using hy

/-- The state after the dirty sectors of an instance have been written back. -/
def State.saveWritten (s : State) (k : Nat) : State :=
  (s.l1.filter (fun y => y.dirty && y.stores.any (fun z => z.1.slot = k))).foldl (fun t y => t.writeback y) s.chargeAll

/-- The state after its Hearths have been cleared and passed on. -/
def State.savePassed (s : State) (k : Nat) (x : Slot) : State :=
  let s1 := s.saveWritten k
  let s2 : State := { s1 with
    hearths := s1.hearths.map (fun h => (h.1, if (s.leased k).contains h.1 then h.2.clearAll else h.2))
    rates := s1.rates.map (fun r => (r.1, if r.2.owner = k then { r.2 with a := 0, z := 0, resuming := true } else r.2)) }
  ((s2.unbindEdges k).releaseLeases k).dropCounters x

/-- Blanked: what a save changes beside the entry. -/
def State.butSave (s : State) : State := { s.butWriteback.butLeases with rcbs := [], rates := [], arbs := [] }

theorem savePassed_but (s : State) (k : Nat) (x : Slot) : (s.savePassed k x).butSave = s.butSave := by
  have h1 : (s.saveWritten k).butWriteback = s.chargeAll.butWriteback := foldl_writeback_but _ _
  have h2 := releaseLeases_but_leases (State.unbindEdges { s.saveWritten k with
    hearths := (s.saveWritten k).hearths.map (fun h => (h.1, if (s.leased k).contains h.1 then h.2.clearAll else h.2))
    rates := (s.saveWritten k).rates.map (fun r => (r.1, if r.2.owner = k then { r.2 with a := 0, z := 0, resuming := true } else r.2)) } k) k
  have h3 : s.chargeAll.butSave = s.butSave := (congrArg State.butSave (chargeAll_but_charge s) :)
  exact (congrArg (fun t : State => t.butSave) h2 :).trans ((congrArg State.butSave h1 :).trans h3)

/-- The state in which the Hearths of the instance have been cleared. -/
def State.saveCleared (s : State) (k : Nat) : State := { s.saveWritten k with
  hearths := (s.saveWritten k).hearths.map (fun h => (h.1, if (s.leased k).contains h.1 then h.2.clearAll else h.2))
  rates := (s.saveWritten k).rates.map (fun r => (r.1, if r.2.owner = k then { r.2 with a := 0, z := 0, resuming := true } else r.2)) }

/-- A cell at reset is no entry of the table. -/
theorem mapCells_reset (h : Hearth) : (h.mapCells (fun _ => Cell.reset)).cells = [] := by
  rw [Hearth.mapCells]
  exact List.filter_eq_nil_iff.2 fun x hx => by
    obtain ⟨y, -, rfl⟩ := List.mem_map.1 hx
    simp

theorem clearAll_cells (h : Hearth) : h.clearAll.cells = [] := mapCells_reset h

theorem clearAll_frozen (h : Hearth) : h.clearAll.frozen = false := by simp [Hearth.clearAll, Hearth.zero, Hearth.dropWaves]

section Passed
variable (s : State) (k : Nat) (x : Slot)

theorem savePassed_eq : s.savePassed k x = (((s.saveCleared k).unbindEdges k).releaseLeases k).dropCounters x := rfl

theorem savePassed_kept : (s.savePassed k x).slots = (s.saveWritten k).slots ∧ (s.savePassed k x).cur = (s.saveWritten k).cur := by
  have h := releaseLeases_but_leases ((s.saveCleared k).unbindEdges k) k
  exact ⟨(congrArg State.slots h :), (congrArg State.cur h :)⟩

variable {s k x}

theorem saveWritten_entry (hx : EntryIs s k x) : ∃ n c, EntryIs (s.saveWritten k) k { x with chargedAt := n, ckpt := c } := by
  obtain ⟨n, hn⟩ := chargeAll_entry hx
  obtain ⟨c, hc⟩ := foldl_writeback_entry hn (s.l1.filter (fun y => y.dirty && y.stores.any (fun z => z.1.slot = k)))
  exact ⟨n, c, hc⟩

/-- With no dirty sector of the instance there is nothing to write back. -/
theorem saveWritten_of_clean (h : ∀ z ∈ s.l1, z.dirty = true → ∀ q ∈ z.stores, q.1.slot ≠ k) : s.saveWritten k = s.chargeAll := by
  have hnil : s.l1.filter (fun y => y.dirty && y.stores.any (fun z => z.1.slot = k)) = [] := by
    refine List.filter_eq_nil_iff.2 fun z hz => ?_
    rw [Bool.and_eq_true, List.any_eq_true]
    rintro ⟨hd, q, hq, hk⟩
    exact h z hz hd q hq (by simpa using hk)
  rw [State.saveWritten, hnil, List.foldl_nil]

theorem savePassed_hearth {g : Nat} (hg : g ∈ s.leased k) : ((s.savePassed k x).hearth g).holder ≠ some k ∧ ((s.savePassed k x).hearth g).cells = [] ∧
    ((s.savePassed k x).hearth g).frozen = false := by
  have hhearths : (s.saveWritten k).hearths = s.hearths := by
    have h1 : (s.saveWritten k).butWriteback = s.chargeAll.butWriteback := foldl_writeback_but _ _
    exact (congrArg State.hearths h1 :).trans (chargeAll_hearths s)
  obtain ⟨h, hh⟩ := mem_leased_table hg
  have hcleared : (s.saveCleared k).hearth g = ((s.saveWritten k).hearth g).clearAll := by
    rw [hearth_map_of_get (s := s.saveWritten k) (hhearths ▸ hh) (fun j h => if (s.leased k).contains j then h.clearAll else h) _ rfl]
    exact if_pos (by simpa using hg)
  have hunbound := unbindEdges_butBinds (s.saveCleared k) k g
  have hreleased := releaseLeases_butLease ((s.saveCleared k).unbindEdges k) k g
  rw [savePassed_eq]
  have hcells : (((s.saveCleared k).unbindEdges k).hearth g).cells = ((s.saveCleared k).hearth g).cells := (congrArg Hearth.cells hunbound :)
  have hfrozen : (((s.saveCleared k).unbindEdges k).hearth g).frozen = ((s.saveCleared k).hearth g).frozen := (congrArg Hearth.frozen hunbound :)
  refine ⟨releaseLeases_holder_ne ((s.saveCleared k).unbindEdges k) k g, (congrArg Hearth.cells hreleased :).trans ?_, (congrArg Hearth.frozen hreleased :).trans ?_⟩
  · exact hcells.trans (by rw [hcleared, clearAll_cells])
  · exact hfrozen.trans (by rw [hcleared, clearAll_frozen])

end Passed

theorem exec_saveComplete {s : State} {k : Nat} {x : Slot} (hx : EntryIs s k x) (h3 : x.state = 3) (hstop : ∀ c ∈ s.ctxsOf k, c.phase = .stopped)
    (hsaved : ∀ g ∈ s.leased k, (Tbl.get? s.saved (saveKey k g)).isSome = true) :
    ∃ (t : State) (y : Slot), exec (.saveComplete k) s = .next t ∧ EntryIs t k y ∧ y.state = 4 ∧ y.leases = s.leaseRecords k ∧ t.saved = s.saved ∧ t.mem = s.mem ∧
      (x.suspended = true ∨ x.yieldAsked ≠ none → y.cmask = 0 ∧ y.emask = 0 ∧ y.hmask = 0) ∧
      ((∀ z ∈ s.l1, z.dirty = true → ∀ q ∈ z.stores, q.1.slot ≠ k) → t.cur = s.cur) ∧
      ∀ g ∈ s.leased k, (t.hearth g).holder ≠ some k ∧ (t.hearth g).cells = [] ∧ (t.hearth g).frozen = false := by
  obtain ⟨n, c, hy⟩ := saveWritten_entry hx
  obtain ⟨hslots, hcur⟩ := savePassed_kept s k x
  have hy' : Tbl.get? (s.savePassed k x).slots k = some { x with chargedAt := n, ckpt := c } := hslots ▸ hy
  have hrun : exec (.saveComplete k) s = .next ((s.savePassed k x).setSlot k (Slot.afterSave { x with chargedAt := n, ckpt := c } (s.leaseRecords k))) := by
    refine congrArg Host.Outcome.next ?_
    rw [show Tbl.get? s.slots k = some x from hx]
    dsimp only
    rw [if_pos ⟨h3, by simpa using hstop, by simpa using hsaved⟩]
    show (match Tbl.get? (s.savePassed k x).slots k with | some y => _ | none => _) = _
    rw [hy'] <;> rfl
  obtain ⟨h4, hl, hm⟩ := afterSave_spec { x with chargedAt := n, ckpt := c } (s.leaseRecords k)
  have hkeep := savePassed_but s k x
  exact ⟨_, _, hrun, entryIs_setSlot _ _ _, h4, hl, (congrArg State.saved hkeep :), (congrArg State.mem hkeep :), hm,
    fun hclean => hcur.trans ((congrArg State.cur (saveWritten_of_clean hclean)).trans (chargeAll_cur s)), fun g hg => savePassed_hearth (x := x) hg⟩

/-! ## Restoring (R341) -/

theorem mem_insertReq {r q : LeaseReq} {l : List LeaseReq} : q ∈ insertReq r l ↔ q = r ∨ q ∈ l := by
  induction l with
  | nil => simp [insertReq]
  | cons a rest ih =>
    rw [insertReq]
    split
    · simp
    · simp only [List.mem_cons, ih]
      tauto

/-- A lease is held, or asked for by one of these requests. -/
def State.heldOrAsked (s : State) (k : Nat) (grps : List Nat) (l : List LeaseReq) : Prop :=
  s.holdsLease k grps = true ∨ ∃ r ∈ l, r.slot = k ∧ r.grps = grps

theorem heldOrAsked_of {s : State} {k : Nat} {grps : List Nat} (h : s.heldOrAsked k grps s.leaseQ) : s.holdsLease k grps = true ∨ s.requested k grps = true := by
  rcases h with h | ⟨r, hr, h1, h2⟩
  · exact .inl h
  · exact .inr (List.any_eq_true.2 ⟨r, hr, by simp [h1, h2]⟩)

theorem holdsLease_iff {s : State} {k : Nat} {grps : List Nat} : s.holdsLease k grps = true ↔ ∀ g ∈ grps, (s.hearth g).holder = some k := by
  simp [State.holdsLease]

/-- A grant of Hearths that no one holds takes none away. -/
theorem grantLease_keeps_held {s : State} {r : LeaseReq} {k : Nat} {grps : List Nat} (hfree : ∀ g ∈ r.grps, (s.hearth g).holder = none)
    (h : s.holdsLease k grps = true) : (s.grantLease r.slot r.grps).holdsLease k grps = true := by
  refine holdsLease_iff.2 fun g hg => ?_
  have hheld := holdsLease_iff.1 h g hg
  rw [grantLease_holder, if_neg fun hr => by simp [hfree g hr] at hheld]
  exact hheld

theorem grantLease_holds (s : State) (slot : Nat) (grps : List Nat) : (s.grantLease slot grps).holdsLease slot grps = true :=
  holdsLease_iff.2 fun g hg => by rw [grantLease_holder, if_pos hg]

/-- A scan of requests keeps each lease held or asked for. -/
theorem grantScan_heldOrAsked {k : Nat} {grps : List Nat} (l kept : List LeaseReq) (s : State) (h : s.heldOrAsked k grps (kept ++ l)) :
    (s.grantScan kept l).heldOrAsked k grps (s.grantScan kept l).leaseQ := by
  induction l generalizing s kept with
  | nil =>
    rw [List.append_nil] at h
    exact h
  | cons r rest ih =>
    rw [State.grantScan]
    split
    · exact ih _ _ (by rwa [List.append_assoc])
    · rename_i hfree
      refine ih _ _ ?_
      have hnone : ∀ g ∈ r.grps, (s.hearth g).holder = none := fun g hg => by
        by_contra hne
        exact hfree (List.any_eq_true.2 ⟨g, hg, by simp [Option.isSome_iff_ne_none.2 hne]⟩)
      rcases h with h | ⟨q, hq, h1, h2⟩
      · exact .inl (grantLease_keeps_held hnone h)
      · rcases List.mem_append.1 hq with hq | hq
        · exact .inr ⟨q, List.mem_append_left _ hq, h1, h2⟩
        · rcases List.mem_cons.1 hq with rfl | hq
          · left
            rw [← h1, ← h2]
            exact grantLease_holds s q.slot q.grps
          · exact .inr ⟨q, List.mem_append_right _ hq, h1, h2⟩

theorem askLease_heldOrAsked {s : State} {k j : Nat} {grps gs : List Nat} {b : Bool} (h : s.heldOrAsked k grps s.leaseQ) :
    (s.askLease j gs b).heldOrAsked k grps (s.askLease j gs b).leaseQ := by
  rcases h with h | ⟨r, hr, h'⟩
  · exact .inl h
  · exact .inr ⟨r, mem_insertReq.2 (.inr hr), h'⟩

/-- Leases asked for one after another. -/
theorem foldl_askLease_asks {k : Nat} (asks : List SavedLease) (s : State) (l : SavedLease) (hl : l ∈ asks) :
    let t : State := asks.foldl (fun u l => u.askLease k l.grps false) s
    t.heldOrAsked k l.grps t.leaseQ := by
  induction asks generalizing s with
  | nil => simp at hl
  | cons a rest ih =>
    rcases List.mem_cons.1 hl with rfl | hl
    · refine foldl_holds (P := fun t : State => t.heldOrAsked k l.grps t.leaseQ) rest (fun t x _ ht => askLease_heldOrAsked ht) ?_
      exact .inr ⟨_, mem_insertReq.2 (.inl rfl), rfl, rfl⟩
    · exact ih _ hl

theorem foldl_askLease_keeps {k : Nat} (asks : List SavedLease) (s : State) {grps : List Nat} (h : s.heldOrAsked k grps s.leaseQ) :
    let t : State := asks.foldl (fun u l => u.askLease k l.grps false) s
    t.heldOrAsked k grps t.leaseQ :=
  foldl_holds (P := fun t : State => t.heldOrAsked k grps t.leaseQ) asks (fun _ _ _ ht => askLease_heldOrAsked ht) h

/-- An entry that has its engines asks for its leases. -/
def State.reasked (t : State) (k : Nat) (y : Slot) : State :=
  ((y.leases.filter (fun l => !t.holdsLease k l.grps && !t.requested k l.grps)).foldl (fun u l => u.askLease k l.grps false) (t.setSlot k (y.setState 5))).grantLeases

theorem reasked_but_leases (t : State) (k : Nat) (y : Slot) : (t.reasked k y).butLeases = (t.setSlot k (y.setState 5)).butLeases :=
  (grantLeases_but_leases _).trans (foldl_keeps State.butLeases (fun u (l : SavedLease) => (rfl : (u.askLease k l.grps false).butLeases = u.butLeases)) _ _)

theorem reasked_leases (t : State) (k : Nat) (y : Slot) (l : SavedLease) (hl : l ∈ y.leases) :
    (t.reasked k y).holdsLease k l.grps = true ∨ (t.reasked k y).requested k l.grps = true := by
  refine heldOrAsked_of (grantScan_heldOrAsked _ [] _ ?_)
  rw [List.nil_append]
  by_cases h : t.heldOrAsked k l.grps t.leaseQ
  · exact foldl_askLease_keeps _ (t.setSlot k (y.setState 5)) h
  · refine foldl_askLease_asks _ _ l (List.mem_filter.2 ⟨hl, ?_⟩)
    have h1 : t.holdsLease k l.grps = false := Bool.eq_false_iff.2 fun h' => h (.inl h')
    have h2 : t.requested k l.grps = false := Bool.eq_false_iff.2 fun h' => by
      obtain ⟨r, hr, hq⟩ := List.any_eq_true.1 h'
      rw [Bool.and_eq_true, decide_eq_true_eq, decide_eq_true_eq] at hq
      exact h (.inr ⟨r, hr, hq⟩)
    simp [h1, h2]

section Restore
variable {s : State} {k : Nat} {x : Slot} (hx : EntryIs s k x) (h4 : x.state = 4) (hsus : x.suspended = false) (hroll : x.rolling = false)
  (hexh : s.exhausted x.rcbx = false)
include hx h4 hsus hroll hexh

theorem exec_restore_none (h : s.giveBack k x = none) : exec (.restore k) s = .next s := by
  refine congrArg Host.Outcome.next ?_
  rw [State.restoreSlot, show Tbl.get? s.slots k = some x from hx]
  dsimp only
  rw [if_neg (by simp [h4, hroll, hexh]), if_neg (by simp [hsus]), h]

theorem exec_restore_some {t : State} {y : Slot} (h : s.giveBack k x = some t) (hy : EntryIs t k y) : exec (.restore k) s = .next (t.reasked k y) := by
  refine congrArg Host.Outcome.next ?_
  rw [State.restoreSlot, show Tbl.get? s.slots k = some x from hx]
  dsimp only
  rw [if_neg (by simp [h4, hroll, hexh]), if_neg (by simp [hsus]), h]
  dsimp only
  rw [show Tbl.get? t.slots k = some y from hy]
  rfl

omit h4 hsus hroll hexh in
/-- What an entry is that gets its engines back. -/
theorem giveBack_spec {t : State} (h : s.giveBack k x = some t) : ∃ y, EntryIs t k y ∧ y.held = none ∧ t.mem = s.mem ∧ (x.held = none → t = s ∧ y = x) := by
  rw [State.giveBack] at h
  cases hh : x.held with
  | none =>
    rw [hh] at h
    obtain rfl := Option.some.inj h
    exact ⟨x, hx, hh, rfl, fun _ => ⟨rfl, rfl⟩⟩
  | some b =>
    rw [hh] at h
    dsimp only at h
    split at h
    · cases h
    · obtain ⟨m, -, rfl⟩ := Option.map_eq_some_iff.1 h
      exact ⟨_, entryIs_setSlot _ _ _, rfl, rfl, fun h => by cases h⟩

theorem exec_restore (h : s.giveBack k x ≠ none) : ∃ (t : State) (y : Slot), exec (.restore k) s = .next t ∧ EntryIs t k y ∧ y.state = 5 ∧ y.held = none ∧ t.mem = s.mem ∧
    (∀ l ∈ y.leases, t.holdsLease k l.grps = true ∨ t.requested k l.grps = true) ∧ (x.held = none → t.cur = s.cur ∧ y.leases = x.leases) := by
  obtain ⟨t, ht⟩ := Option.ne_none_iff_exists'.1 h
  obtain ⟨y, hy, hheld, hmem, hsame⟩ := giveBack_spec hx ht
  have hkeep := reasked_but_leases t k y
  refine ⟨_, y.setState 5, exec_restore_some hx h4 hsus hroll hexh ht hy, (congrArg (fun u : State => Tbl.get? u.slots k) hkeep :).trans (entryIs_setSlot t k _),
    setState_state y 5, hheld, (congrArg State.mem hkeep :).trans hmem, fun l hl => reasked_leases t k y l hl, fun hn => ?_⟩
  obtain ⟨rfl, rfl⟩ := hsame hn
  exact ⟨(congrArg State.cur hkeep :), rfl⟩

end Restore

/-! ## Running again (R341) -/

/-- A saved Hearth thawed twice is thawed once. -/
theorem thawSaved_twice (now old : Hearth) : thawSaved (thawSaved now old) old = thawSaved now old := rfl

theorem thawSaved_eq (now old : Hearth) :
    thawSaved now old = { old with holder := now.holder, leaseGrps := now.leaseGrps, runStart := now.runStart, runCount := now.runCount } := rfl

/-- One saved Hearth thawed. -/
def State.thawOne (t : State) (e : Nat × Hearth) : State := t.setHearth (e.1 % 64) (thawSaved (t.hearth (e.1 % 64)) e.2)

theorem thawOne_hearth (t : State) (e : Nat × Hearth) (g : Nat) : (t.thawOne e).hearth g = if e.1 % 64 = g then thawSaved (t.hearth g) e.2 else t.hearth g := by
  by_cases h : e.1 % 64 = g
  · subst h
    rw [if_pos rfl]
    exact hearth_setHearth_same _ _ _
  · rw [if_neg h]
    exact hearth_setHearth_ne _ _ (Ne.symm h)

/-- Each saved Hearth of a list in which its group has one save. -/
theorem foldl_thawOne_hearth (l : List (Nat × Hearth)) (t : State) {g : Nat} {h : Hearth} (hall : ∀ e ∈ l, e.1 % 64 = g → e.2 = h) (hmem : ∃ e ∈ l, e.1 % 64 = g) :
    (l.foldl State.thawOne t).hearth g = thawSaved (t.hearth g) h := by
  have hrest : ∀ (l : List (Nat × Hearth)) (t : State), (∀ e ∈ l, e.1 % 64 = g → e.2 = h) → thawSaved (t.hearth g) h = t.hearth g →
      (l.foldl State.thawOne t).hearth g = t.hearth g := by
    intro l
    induction l with
    | nil => exact fun t _ _ => rfl
    | cons e rest ih =>
      intro t hall ht
      have hone : (t.thawOne e).hearth g = t.hearth g := by
        rw [thawOne_hearth]
        split
        · rw [hall e (by simp) ‹_›, ht]
        · rfl
      rw [List.foldl_cons, ih _ (fun f hf => hall f (List.mem_cons_of_mem _ hf)) (by rw [hone, ht]), hone]
  induction l generalizing t with
  | nil => simp at hmem
  | cons e rest ih =>
    have hall' : ∀ f ∈ rest, f.1 % 64 = g → f.2 = h := fun f hf => hall f (List.mem_cons_of_mem _ hf)
    rw [List.foldl_cons]
    by_cases he : e.1 % 64 = g
    · have hone : (t.thawOne e).hearth g = thawSaved (t.hearth g) h := by rw [thawOne_hearth, if_pos he, hall e (by simp) he]
      rw [hrest rest _ hall' (by rw [hone, thawSaved_twice]), hone]
    · obtain ⟨f, hf, hfg⟩ := hmem
      have hf' : f ∈ rest := (List.mem_cons.1 hf).resolve_left fun hfe => he (hfe ▸ hfg)
      rw [ih _ hall' ⟨f, hf', hfg⟩, thawOne_hearth, if_neg he]

theorem foldl_thawOne_but_hearths (l : List (Nat × Hearth)) (t : State) : (l.foldl State.thawOne t).butHearths = t.butHearths :=
  foldl_keeps State.butHearths (fun t e => (rfl : (t.thawOne e).butHearths = t.butHearths)) l t

/-- The saved Hearths of an entry. -/
def State.savedOf (s : State) (k : Nat) : List (Nat × Hearth) := s.saved.filter (fun h => h.1 / 64 = k)

/-- The entry as it runs again. -/
def Slot.resumed (x : Slot) (cycle : Nat) : Slot :=
  { x.setState 2 with bind := setField (x.setState 2).bind 447 384 cycle, sliceStart := cycle, chargedAt := cycle, leases := [], quotaStop := false }

/-- A context of the entry as it runs again. -/
def Context.resumed (k cycle : Nat) (c : Context) : Context :=
  if c.slot = k ∧ c.phase = .stopped then { c with phase := .ready, wait := none, dc := 0, lastIssue := cycle, full := BitVec.allOnes 32 } else c

section Resume
variable {s : State} {k : Nat} {x : Slot} (hx : EntryIs s k x)
include hx

theorem exec_restoreRunning_held (h5 : x.state = 5) (hroll : x.rolling = false) (hl : ∀ l ∈ x.leases, s.holdsLease k l.grps = true) :
    exec (.restoreRunning k) s = .next { (s.savedOf k).foldl State.thawOne s with
      saved := ((s.savedOf k).foldl State.thawOne s).saved.filter (fun h => h.1 / 64 ≠ k)
      cur := ((s.savedOf k).foldl State.thawOne s).cur.resumed k s.cycle
      parked := ((s.savedOf k).foldl State.thawOne s).parked.map (Context.resumed k s.cycle)
      slots := Tbl.set ((s.savedOf k).foldl State.thawOne s).slots k (x.resumed s.cycle) } := by
  refine congrArg Host.Outcome.next ?_
  rw [show Tbl.get? s.slots k = some x from hx]
  exact if_pos ⟨h5, hroll, by simpa using hl⟩

theorem exec_restoreRunning_not (h : ∃ l ∈ x.leases, s.holdsLease k l.grps = false) : exec (.restoreRunning k) s = .next s := by
  refine congrArg Host.Outcome.next ?_
  rw [show Tbl.get? s.slots k = some x from hx]
  refine if_neg fun hall => ?_
  obtain ⟨l, hl, hn⟩ := h
  have := List.all_eq_true.1 hall.2.2 l hl
  simp [hn] at this

theorem exec_restoreRunning (h5 : x.state = 5) (hroll : x.rolling = false) (hl : ∀ l ∈ x.leases, s.holdsLease k l.grps = true) (hnd : (s.saved.map (·.1)).Nodup) :
    ∃ (t : State) (y : Slot), exec (.restoreRunning k) s = .next t ∧ EntryIs t k y ∧ y.state = 2 ∧ fieldN y.bind 447 384 = s.cycle % 2 ^ 64 ∧ y.leases = [] ∧ t.mem = s.mem ∧
      (s.cur.slot = k → s.cur.phase = .stopped →
        t.cur = { s.cur with phase := .ready, wait := none, dc := 0, lastIssue := s.cycle, full := BitVec.allOnes 32 }) ∧
      ∀ g h, g < 64 → Tbl.get? s.saved (saveKey k g) = some h → t.hearth g =
        { h with holder := (s.hearth g).holder, leaseGrps := (s.hearth g).leaseGrps, runStart := (s.hearth g).runStart, runCount := (s.hearth g).runCount } := by
  have hkeep := foldl_thawOne_but_hearths (s.savedOf k) s
  refine ⟨_, x.resumed s.cycle, exec_restoreRunning_held hx h5 hroll hl, tbl_get_set _ _ _,
    (fieldN_setField_ne _ _ (by omega) (by omega) (.inl (by omega))).trans (setState_state x 2), fieldN_setField_same _ _ (by omega) (by omega), rfl,
    (congrArg State.mem hkeep :), fun hslot hph => ?_, fun g h hg hs => ?_⟩
  · have hcur : ((s.savedOf k).foldl State.thawOne s).cur = s.cur := (congrArg State.cur hkeep :)
    show ((s.savedOf k).foldl State.thawOne s).cur.resumed k s.cycle = _
    rw [hcur]
    exact if_pos ⟨hslot, hph⟩
  · rw [← thawSaved_eq]
    refine foldl_thawOne_hearth (s.savedOf k) s (fun e he heg => ?_) 
      ⟨(saveKey k g, h), List.mem_filter.2 ⟨tbl_mem_of_get hs, decide_eq_true (saveKey_div k hg)⟩, saveKey_mod k hg⟩
    obtain ⟨hmem, hkk⟩ := List.mem_filter.1 he
    have hkey : e.1 = saveKey k g := by
      rw [decide_eq_true_eq] at hkk
      rw [saveKey]
      omega
    exact Option.some.inj ((tbl_get_of_mem hnd (v := e.2) (by rw [← hkey]; exact hmem)).symm.trans hs)

end Resume

/-- Settles O44: each move of a pre-emption by what it does to the entry, its contexts and its Hearths; a scan of the lease queue keeps every lease held
or asked for. -/
theorem preemptAndRestore : Obligations.PreemptAndRestore := by
  intro s k x hx
  refine ⟨exec_hardPreempt hx, exec_hardPreempt_other hx, fun hk h3 => ⟨fun hph hc hp hh => ?_, exec_contextStop_running hx hk h3⟩, exec_saveComplete hx,
    fun h4 hsus hroll hexh => ⟨exec_restore_none hx h4 hsus hroll hexh, exec_restore hx h4 hsus hroll hexh⟩, exec_restoreRunning hx, fun h5 h => exec_restoreRunning_not hx h⟩
  obtain ⟨h1, h2, h3', h4, h5, h6⟩ := stopped_spec s s.cur
  exact ⟨_, exec_contextStop_stops hx hk h3 hph hc (settled_of hp hh), entryIs_setSlot _ _ _, rfl, h1, h2, h3', h4, h5, h6⟩

end Sys2Proof.Machine
end

section
/-! PROOFS. Token queues and step contexts, the control core's side (O29). -/
namespace Sys2Proof.Machine

/-! ## Tokens (R45, R179) -/

theorem tokenNamed_ok {s : State} {k : BitVec 8} {q : Nat} (h : TokenNamed s k q) : tokenNamed k s = .ok (q, s) := by
  obtain ⟨hi, rfl⟩ := h
  rw [tokenNamed, act_bind_get, relocate_within hi]

theorem tokenAdd_fits {s : State} {q n : Nat} (h : (s.token q).count.toNat + n ≤ 65535) (r : CtxRef) (idx : Nat) :
    s.tokenAdd q n r idx = s.setToken q ⟨BitVec.ofNat 16 ((s.token q).count.toNat + n), (s.token q).gen, s.cycle + 1⟩ := if_pos h

theorem tokenAdd_saturates {s : State} {q n : Nat} (h : 65535 < (s.token q).count.toNat + n) (r : CtxRef) (idx : Nat) :
    s.tokenAdd q n r idx = (s.setToken q ⟨65535, (s.token q).gen, s.cycle + 1⟩).post r ⟨0x20, 0, BitVec.ofNat 64 idx, true⟩ := if_neg (by omega)

section Tokens
variable {s : State} {q : Nat}

theorem exec_kpost_eq {o : ObjA} (ha : s.cur.isFull o.a = true) (hq : TokenNamed s o.t q) (howed : NothingOwed s .dev) :
    exec (.kpost o) s = .next (s.tokenAdd q (s.cur.getS o.a).toNat s.cur.ref o.t.toNat).goOn := by
  refine runAct_ok ?_
  rw [act_bind_readSrc ha, act_bind_ok (tokenNamed_ok hq), act_bind_ok (awaitRelease_of_nothingOwed howed false)]
  rfl

/-- Nothing is cancelled when no armed step captured an older generation. -/
theorem cancelStale_of_none {s : State} (h : ∀ c ∈ s.steps, ∀ a ∈ c.2.store, a.fired = true ∨ s.staleStep a = false) : s.cancelStale = s := by
  have hnil : s.steps.flatMap (fun x => (x.2.store.filter (fun a => !a.fired && s.staleStep a)).map (fun a => (x.1, a.age))) = [] := by
    refine List.flatMap_eq_nil_iff.2 fun x hx => List.map_eq_nil_iff.2 (List.filter_eq_nil_iff.2 fun a ha => ?_)
    rcases h x hx a ha with h | h <;> simp [h]
  rw [State.cancelStale, hnil, List.foldl_nil]

/-- A step that does not name a queue is as stale with the queue changed. -/
theorem staleStep_setToken {a : Armed} (h : ∀ i ∈ a.ins, i.1 ≠ q) (t : TokenQ) : (s.setToken q t).staleStep a = s.staleStep a := by
  unfold State.staleStep
  rw [Bool.eq_iff_iff, List.any_eq_true, List.any_eq_true]
  refine exists_congr fun i => and_congr_right fun hi => ?_
  rw [State.token, State.setToken, tbl_get_set_ne _ _ (h i hi), State.token]

theorem exec_kreset_resets {k : BitVec 8} (hq : TokenNamed s k q) (hu : (s.token q).used ≤ s.cycle)
    (h : ∀ c ∈ s.steps, ∀ a ∈ c.2.store, a.fired = true ∨ s.staleStep a = false ∧ ∀ i ∈ a.ins, i.1 ≠ q) :
    exec (.kreset k) s = .next (s.setToken q ⟨0, (s.token q).gen + 1, (s.token q).used⟩).goOn := by
  have hstale : (s.setToken q ⟨0, (s.token q).gen + 1, (s.token q).used⟩).cancelStale = s.setToken q ⟨0, (s.token q).gen + 1, (s.token q).used⟩ :=
    cancelStale_of_none fun c hc a ha => (h c hc a ha).imp_right fun ⟨h1, h2⟩ => (staleStep_setToken h2 _).trans h1
  refine runAct_ok ?_
  rw [act_bind_ok (tokenNamed_ok hq), act_bind_get, act_bind_waitIf (by simpa using hu)]
  exact congrArg (fun t : State => (Except.ok ((), t.setCur Context.nextSeq) : Except Stop (Unit × State))) hstale

theorem exec_kreset_later {k : BitVec 8} (hq : TokenNamed s k q) (hu : s.cycle < (s.token q).used) :
    exec (.kreset k) s = .next (s.enterWait (.cycleAfter s.cycle)) := by
  refine runAct_waitFor ?_
  rw [act_bind_ok (tokenNamed_ok hq), act_bind_get, act_bind_waitIf_stop (by simpa using hu)]

theorem readValue_eq (t : TokenQ) : (0#32 ++ t.gen ++ t.count : BitVec 64) = BitVec.ofNat 64 (t.count.toNat + 2 ^ 16 * t.gen.toNat) := by
  refine BitVec.eq_of_toNat_eq ?_
  have h1 := t.count.isLt
  have h2 := t.gen.isLt
  rw [BitVec.toNat_ofNat, BitVec.toNat_append, BitVec.toNat_append, Nat.mod_eq_of_lt (by omega), Nat.shiftLeft_eq, Nat.shiftLeft_eq]
  simp only [BitVec.toNat_ofNat, Nat.zero_mod, Nat.zero_mul, Nat.zero_or]
  rw [Nat.mul_comm, ← Nat.two_pow_add_eq_or_of_lt h1]
  omega

theorem exec_kread {o : ObjD} (hd : s.cur.isFull o.d = true) (hq : TokenNamed s o.t q) (hcap : Tbl.get? s.dortas.captures (s.vfOf s.cur.slot) = none)
    (hrep : Tbl.get? s.replays (s.vfOf s.cur.slot) = none) :
    exec (.kread o) s = .next (s.lateDone o.d 3 8 (BitVec.ofNat 64 ((s.token q).count.toNat + 2 ^ 16 * (s.token q).gen.toNat))) := by
  have hret : ∀ v, s.returned v = v := fun v => by simp [State.returned, State.recorded, hrep]
  refine runAct_ok ?_
  rw [act_bind_destReady hd, act_bind_ok (tokenNamed_ok hq), act_bind_get, act_bind_ok (awaitPresented_shown (by simp [State.presents, hrep])),
    act_bind_ok (writeSLate_eq _ _ _ _ _), act_bind_modify, lateResult_vfOf, hret, readValue_eq, capture_without_replay (by simpa using hcap) (by simpa using hrep),
    act_advance, lateDone_eq_goOn]
  rfl

end Tokens

/-! ## Step contexts started and awaited (R180, R181) -/

section Start
variable {o : RRR} {s : State} (hr : RRR_Ready o s)
include hr

theorem exec_cstart_pc_misaligned (hx : (s.cur.getS o.a).toNat % 8 ≠ 0) :
    exec (.cstart o) s = .next (s.takeFault s.cur.ref ⟨0x05, 0, s.cur.getS o.a, false⟩ s.cur.pc) := by
  obtain ⟨hd, ha, hb⟩ := hr
  refine runAct_raise ?_
  rw [act_bind_destReady hd, act_bind_readSrc ha, act_bind_readSrc hb, act_bind_raiseIf_stop (by simpa using hx)]

theorem exec_cstart_table_misaligned (hx : (s.cur.getS o.a).toNat % 8 = 0) (hy : (s.cur.getS o.b).toNat % 64 ≠ 0) :
    exec (.cstart o) s = .next (s.takeFault s.cur.ref ⟨0x05, 0, s.cur.getS o.b, false⟩ s.cur.pc) := by
  obtain ⟨hd, ha, hb⟩ := hr
  refine runAct_raise ?_
  rw [act_bind_destReady hd, act_bind_readSrc ha, act_bind_readSrc hb, act_bind_raiseIf (by simpa using hx), act_bind_raiseIf_stop (by simpa using hy)]

/-- The free step contexts of a die. -/
def State.freeSteps (s : State) (die : Nat) : List Nat := ((List.range 32).map (fun i => 32 * die + i)).filter (fun h => (Tbl.get? s.steps h).isNone)

omit hr in
theorem mem_freeSteps {die h : Nat} : h ∈ s.freeSteps die ↔ (∃ k, k < 32 ∧ 32 * die + k = h) ∧ Tbl.get? s.steps h = none := by
  rw [State.freeSteps, List.mem_filter, List.mem_map, Option.isNone_iff_eq_none]
  simp only [List.mem_range]

/-- A step context as CSTART leaves it. -/
def State.newStep (s : State) (die : Nat) (x y : Word) : StepCtx :=
  ⟨s.cur.slot, s.cur.ref, die, x, List.replicate 4 ⟨0, 0, 0, false⟩, [0, 0, 0, 0], [], 0, 0, 0, 0, y, s.cur.wtok, s.cur.wdog.toNat, [], false, [], none, [], s.nextId⟩

theorem exec_cstart_starts (hx : (s.cur.getS o.a).toNat % 8 = 0) (hy : (s.cur.getS o.b).toNat % 64 = 0) (hf : s.fetch s.cur.slot .se (s.cur.getS o.a) ≠ none)
    (hroom : (s.steps.filter (fun c => c.2.slot = s.cur.slot)).length < s.effOf s.cur .stepb)
    (hfree : ∃ k, k < 32 ∧ Tbl.get? s.steps (32 * dieOf s.cur.grp + k) = none) (howed : NothingOwed s .dev) :
    ∃ h, h / 32 = dieOf s.cur.grp ∧ Tbl.get? s.steps h = none ∧ exec (.cstart o) s =
      .next (({ s with free := s.free + 1, steps := Tbl.set s.steps h (s.newStep (dieOf s.cur.grp) (s.cur.getS o.a) (s.cur.getS o.b)) } : State).regDone o.d
        (BitVec.ofNat 64 h)) := by
  obtain ⟨hd, ha, hb⟩ := hr
  obtain ⟨k, hk, hnone⟩ := hfree
  have hmem : 32 * dieOf s.cur.grp + k ∈ s.freeSteps (dieOf s.cur.grp) := mem_freeSteps.2 ⟨⟨k, hk, rfl⟩, hnone⟩
  obtain ⟨h, hh, hhmem⟩ := getElem?_mod_of_mem hmem (Config.freeWord s.free).toNat
  obtain ⟨⟨j, hj, rfl⟩, hhfree⟩ := mem_freeSteps.1 hhmem
  have hpick : pickFree (s.freeSteps (dieOf s.cur.grp)) s = .ok (some (32 * dieOf s.cur.grp + j), { s with free := s.free + 1 }) := by
    rw [← hh]
    rfl
  have hwait : (decide (s.effOf s.cur .stepb ≤ (s.steps.filter (fun c => c.2.slot = s.cur.slot)).length) || (s.freeSteps (dieOf s.cur.grp)).isEmpty) = false := by
    rw [Bool.or_eq_false_iff, decide_eq_false_iff_not, List.isEmpty_eq_false_iff]
    exact ⟨by omega, List.ne_nil_of_mem hmem⟩
  refine ⟨_, by omega, hhfree, runAct_ok ?_⟩
  rw [act_bind_destReady hd, act_bind_readSrc ha, act_bind_readSrc hb, act_bind_raiseIf (by simpa using hx), act_bind_raiseIf (by simpa using hy), act_bind_get,
    act_bind_raiseIf (by simpa [Option.isSome_iff_ne_none] using hf)]
  refine (act_bind_waitIf hwait _ _ _).trans ?_
  rw [act_bind_ok (awaitPublished_of_nothingOwed howed _)]
  exact act_bind_ok hpick

end Start

section Await
variable {o : RRD} {s : State} {c : StepCtx} (hr : Imm_Ready o.d o.a s) (hc : Tbl.get? s.steps (s.cur.getS o.a).toNat = some c) (hs : c.slot = s.cur.slot)
include hr hc hs

theorem exec_cwait_ended {w : Word} (hw : c.status = some w) : exec (.cwait o) s =
    .next ((({ s with steps := Tbl.del s.steps (s.cur.getS o.a).toNat } : State).orderBuffers s.cur c.named).regDone o.d w) := by
  obtain ⟨hd, ha⟩ := hr
  refine runAct_ok ?_
  rw [act_bind_destReady hd, act_bind_readSrc ha, act_bind_get, hc]
  dsimp only
  rw [act_bind_raiseIf (by simp [hs]), hw]
  rfl

theorem exec_cwait_waits (hw : c.status = none) : exec (.cwait o) s = .next (s.enterWait (.stepEnd (s.cur.getS o.a).toNat)) := by
  obtain ⟨hd, ha⟩ := hr
  refine runAct_waitFor ?_
  rw [act_bind_destReady hd, act_bind_readSrc ha, act_bind_get, hc]
  dsimp only
  rw [act_bind_raiseIf (by simp [hs]), hw]
  rfl

end Await

end Sys2Proof.Machine
end

section
/-! PROOFS. Step words that arm their steps (O29). -/
namespace Sys2Proof.Machine

/-! ## The step engine's actions -/

section Act
variable {α β : Type} {s t : State}

theorem step_bind_ok {a : StepAct α} {f : α → StepAct β} {x : α} (h : a s = .ok (x, t)) : (a >>= f) s = f x t := by
  show (a s >>= fun p => f p.1 p.2) = _
  rw [h]
  rfl

theorem step_bind_error {a : StepAct α} {f : α → StepAct β} {e : StepHalt} (h : a s = .error e) : (a >>= f) s = .error e := by
  show (a s >>= fun p => f p.1 p.2) = _
  rw [h]
  rfl

theorem step_bind_get (f : State → StepAct β) (s : State) : ((get : StepAct State) >>= f) s = f s s := rfl

/-- The action, when it comes to an end, leaves all but what is metered. -/
def MetersOnly (a : StepAct α) : Prop := ∀ s x t, a s = .ok (x, t) → t.butMeter = s.butMeter

theorem metersOnly_pure (x : α) : MetersOnly (pure x : StepAct α) := by
  intro s y t h
  cases h
  rfl

theorem metersOnly_get : MetersOnly (get : StepAct State) := by
  intro s y t h
  cases h
  rfl

theorem metersOnly_bind {a : StepAct α} {f : α → StepAct β} (ha : MetersOnly a) (hf : ∀ x, MetersOnly (f x)) : MetersOnly (a >>= f) := by
  intro s y t h
  cases hs : a s with
  | error e =>
    rw [step_bind_error hs] at h
    cases h
  | ok p =>
    rw [step_bind_ok (x := p.1) (t := p.2) hs] at h
    exact (hf p.1 _ _ _ h).trans (ha _ _ _ hs)

theorem metersOnly_error {a : StepAct α} (h : ∀ s, ∃ e, a s = .error e) : MetersOnly a := by
  intro s y t hs
  obtain ⟨e, he⟩ := h s
  rw [he] at hs
  cases hs

theorem metersOnly_ite {p : Prop} [Decidable p] {a b : StepAct α} (ha : MetersOnly a) (hb : MetersOnly b) : MetersOnly (if p then a else b) := by
  split
  · exact ha
  · exact hb

theorem metersOnly_fail (code detail : BitVec 8) : MetersOnly (stepFail code detail : StepAct α) := metersOnly_error fun _ => ⟨_, rfl⟩

end Act

theorem metersOnly_stepGet (h : Nat) : MetersOnly (stepGet h) := by
  intro s c t hs
  rw [stepGet] at hs
  split at hs
  · split at hs
    · cases hs
      rfl
    · cases hs
  · cases hs

theorem metersOnly_stepSector (h : Nat) (k : SideRule) (first : Option PageInfo) (va : Nat) : MetersOnly (stepSector h k first va) := by
  refine metersOnly_bind (metersOnly_stepGet h) fun c => metersOnly_bind metersOnly_get fun s => ?_
  dsimp only
  split
  · exact metersOnly_pure _
  · exact metersOnly_ite (metersOnly_fail _ _) (metersOnly_error fun _ => ⟨_, rfl⟩)
  · exact metersOnly_fail _ _
  · exact metersOnly_error fun _ => ⟨_, rfl⟩
  · exact metersOnly_error fun _ => ⟨_, rfl⟩
  · exact metersOnly_error fun _ => ⟨_, rfl⟩

theorem metersOnly_stepPieces (h : Nat) (k : SideRule) (first : Option PageInfo) (l : List (Nat × Nat)) : MetersOnly (stepPieces h k first l) := by
  induction l generalizing first with
  | nil => exact metersOnly_pure _
  | cons x rest ih => exact metersOnly_bind (metersOnly_stepSector h k first _) fun p => metersOnly_bind (ih p.2) fun _ => metersOnly_pure _

theorem metersOnly_stepLocal (h : Nat) (va : Word) (n : Nat) : MetersOnly (stepLocal h va n) :=
  metersOnly_bind (metersOnly_stepPieces h _ none _) fun _ => metersOnly_ite (metersOnly_fail _ _) (metersOnly_pure _)

theorem metersOnly_stepLoad (h : Nat) (ps : List (Nat × Piece)) : MetersOnly (stepLoad h ps) := by
  intro s bs t hs
  cases hg : stepGet h s with
  | error e =>
    rw [stepLoad, step_bind_error hg] at hs
    cases hs
  | ok p =>
    have hp := metersOnly_stepGet h s p.1 p.2 hg
    rw [stepLoad, step_bind_ok (x := p.1) (t := p.2) hg, step_bind_get] at hs
    cases hs
    exact (foldl_keeps State.butMeter (fun t (x : Nat × Piece) => meterBytes_but_meter t _ _ _ _) ps p.2).trans hp

theorem metersOnly_stepTable (h : Nat) (va : Word) (n : Nat) : MetersOnly (stepTable h va n) :=
  metersOnly_bind (metersOnly_stepLocal h va n) fun ps => metersOnly_bind (metersOnly_stepLoad h ps) fun _ => metersOnly_pure _

theorem metersOnly_stepEntry (h : Nat) (x : BitVec 8) : MetersOnly (stepEntry h x) :=
  metersOnly_bind (metersOnly_stepGet h) fun _ => metersOnly_ite (metersOnly_fail _ _)
    (metersOnly_bind (metersOnly_stepTable h _ _) fun _ => metersOnly_ite (metersOnly_fail _ _) (metersOnly_pure _))

theorem metersOnly_stepEndpoint (h r : Nat) : MetersOnly (stepEndpoint h r) :=
  metersOnly_bind (metersOnly_stepGet h) fun _ => metersOnly_bind (metersOnly_stepTable h _ _) fun _ => metersOnly_pure _

/-! ## The word begins (R267) -/

theorem stepGet_ok {s : State} {h : Nat} {c : StepCtx} (hc : Tbl.get? s.steps h = some c) (hs : c.status = none) : stepGet h s = .ok (c, s) := by
  rw [stepGet, hc]
  dsimp only
  rw [hs]
  rfl

theorem setStep_of_get {s : State} {h : Nat} {c : StepCtx} (hc : Tbl.get? s.steps h = some c) (f : StepCtx → StepCtx) :
    s.setStep h f = { s with steps := Tbl.set s.steps h (f c) } := by
  rw [State.setStep, hc]

section Word
variable {s : State} {c : StepCtx} (hat : StepAt s c)
include hat

theorem stepHeader_ready : stepHeader s.curStep s = .ok ((), s) := by
  obtain ⟨hc, hst, hready, -, -⟩ := hat
  rw [stepHeader, step_bind_ok (stepGet_ok hc hst), if_pos hready]
  rfl

theorem stepBegin_ok : stepBegin s.curStep s = .ok ((), s) := by
  obtain ⟨hc, hst, hready, hstore, hrun⟩ := id hat
  have hdone : c.store.any (fun a => a.op = .done) = false := List.any_eq_false.2 fun a ha => by simpa using (hstore a ha).1
  rw [stepBegin, step_bind_ok (stepHeader_ready hat), step_bind_ok (stepGet_ok hc hst), step_bind_get, hdone, hrun]
  rfl

end Word

theorem stepQueue_ok {c : StepCtx} {i : BitVec 8} (h : i.toNat < fieldN c.wtok 40 32) (s : State) : stepQueue c i s = .ok (stepQ c i, s) := by
  rw [stepQueue, if_pos h]
  rfl

theorem stepCapture_ok {c : StepCtx} (l : List (BitVec 8)) (h : ∀ i ∈ l, i.toNat < fieldN c.wtok 40 32) (s : State) :
    stepCapture c l s = .ok (l.map (fun i => (stepQ c i, (s.token (stepQ c i)).gen)), s) := by
  induction l with
  | nil => rfl
  | cons i rest ih =>
    rw [stepCapture, step_bind_ok (stepQueue_ok (h i (by simp)) s), step_bind_get, step_bind_ok (ih fun j hj => h j (List.mem_cons_of_mem _ hj))]
    rfl

/-! ## Arming (R267, R268) -/

/-- The context with a step more, at its next word. -/
def StepCtx.arm (c : StepCtx) (a : Armed) : StepCtx :=
  { c with store := c.store ++ [a], pc := c.pc + 8, named := c.named ++ a.buffers.filter (fun b => !c.named.contains b) }

/-- The state in which a step has been armed. -/
def State.withArmed (s : State) (h : Nat) (a : Armed) : State := ({ s with nextAge := s.nextAge + 1 } : State).setStep h (fun c => c.arm a)

/-- The action of a step word. -/
def armAct (h : Nat) (op : StepOp) (o : StepF) : StepAct Unit := do
  stepBegin h
  let c ← stepGet h
  let s1 ← get
  if 16 ≤ c.store.length || !s1.armTurn h then stepWait
  else
    let ins ← stepCapture c (StepF.inputs o)
    let out ← if o.fl.getLsbD 3 then (do
        let q ← stepQueue c o.out
        pure (some (q, o.out)))
      else pure none
    let s0 ← get
    let a ← stepDescribe h ⟨s0.nextAge, op, c.pc, o.fl.extractLsb' 0 3, ins, out, 0, 0, 0, 0, 0, 0, 0, 0, 0, 0, s0.cycle, false, [], false, false, [], [], [], []⟩ o.x
    modify (fun s => s.withArmed h a)

theorem armStep_eq (op : StepOp) (o : StepF) (s : State) : armStep op o s =
    if o.nin = 0 then
      match runStep s.curStep (armAct s.curStep op o) s with
      | .next s1 => if s1.nextAge = s.nextAge then .next s1 else s1.fireStep s.curStep s.nextAge
      | .fault f => .fault f
      | .refused x => .refused x
    else runStep s.curStep (armAct s.curStep op o) s := rfl

section Arm
variable {s : State} {c : StepCtx} {o : StepF} (hat : StepAt s c) (hlen : c.store.length ≤ 15) (hnames : StepNames c o)
  (hturn : ∀ x ∈ s.steps, x.1 ≤ s.curStep ∨ ∀ a ∈ x.2.store, a.armedAt ≠ s.cycle)
include hat hlen hnames hturn

theorem armAct_ok {op : StepOp} {a : Armed} {t : State} (hd : stepDescribe s.curStep (armedOf s c op o false) o.x s = .ok (a, t)) :
    armAct s.curStep op o s = .ok ((), t.withArmed s.curStep a) := by
  obtain ⟨hc, hst, -, -, -⟩ := id hat
  obtain ⟨hin, hout⟩ := hnames
  have hmay : (decide (16 ≤ c.store.length) || !s.armTurn s.curStep) = false := by
    have : s.armTurn s.curStep = true := List.all_eq_true.2 fun x hx => by simpa using hturn x hx
    rw [this, Bool.or_eq_false_iff, decide_eq_false_iff_not]
    exact ⟨by omega, rfl⟩
  rw [armAct, step_bind_ok (stepBegin_ok hat), step_bind_ok (stepGet_ok hc hst), step_bind_get, hmay]
  refine (step_bind_ok (stepCapture_ok (stepIns o) hin s)).trans ?_
  dsimp only
  by_cases h3 : o.fl.getLsbD 3 = true
  · have hq : (do
        let q ← stepQueue c o.out
        pure (some (q, o.out)) : StepAct (Option (Nat × BitVec 8))) s = .ok (some (stepQ c o.out, o.out), s) := by
      rw [step_bind_ok (stepQueue_ok (hout h3) s)]
      rfl
    rw [armedOf, if_pos h3] at hd
    rw [if_pos h3, step_bind_ok hq, step_bind_get]
    exact step_bind_ok hd
  · have hq : (pure none : StepAct (Option (Nat × BitVec 8))) s = .ok (none, s) := rfl
    rw [armedOf, if_neg h3] at hd
    rw [if_neg h3, step_bind_ok hq, step_bind_get]
    exact step_bind_ok hd

theorem armStep_inputs {op : StepOp} {a : Armed} {t : State} (hnin : o.nin ≠ 0) (hd : stepDescribe s.curStep (armedOf s c op o false) o.x s = .ok (a, t)) :
    armStep op o s = .next (t.withArmed s.curStep a) := by
  rw [armStep_eq, if_neg hnin, runStep, armAct_ok hat hlen hnames hturn hd]

end Arm

/-- The step is armed: what holds of the state afterwards. -/
def ArmedIn (s : State) (c : StepCtx) (op : StepOp) (t : State) (a : Armed) : Prop :=
  t.nextAge = s.nextAge + 1 ∧ t.tokens = s.tokens ∧ t.mem = s.mem ∧ t.cur = s.cur ∧ a.op = op ∧
    ∃ c', Tbl.get? t.steps s.curStep = some c' ∧ c'.store = c.store ++ [a] ∧ c'.pc = c.pc + 8 ∧ c'.loops = c.loops ∧ c'.pe = c.pe

/-- A context but for its match numbers. -/
def StepCtx.butMatched (c : StepCtx) : StepCtx := { c with matched := [] }

/-- Blanked: what describing a step changes. -/
def State.butDescribed (s : State) : State := { s.butMeter with steps := [] }

theorem armedIn_of {s t : State} {c c1 : StepCtx} {op : StepOp} {a : Armed} (hkeep : t.butDescribed = s.butDescribed)
    (hc1 : Tbl.get? t.steps s.curStep = some c1) (hm : c1.butMatched = c.butMatched) (hop : a.op = op) : ArmedIn s c op (t.withArmed s.curStep a) a := by
  have harm : t.withArmed s.curStep a = { t with nextAge := t.nextAge + 1, steps := Tbl.set t.steps s.curStep (c1.arm a) } :=
    setStep_of_get (s := { t with nextAge := t.nextAge + 1 }) hc1 _
  rw [harm]
  refine ⟨congrArg (· + 1) (congrArg State.nextAge hkeep :), (congrArg State.tokens hkeep :), (congrArg State.mem hkeep :), (congrArg State.cur hkeep :), hop, c1.arm a,
    tbl_get_set _ _ _, ?_, ?_, (congrArg StepCtx.loops hm :), (congrArg StepCtx.pe hm :)⟩
  · exact congrArg (· ++ [a]) (congrArg StepCtx.store hm :)
  · exact congrArg (· + 8) (congrArg StepCtx.pc hm :)

/-! ## Entries (R270, R274) -/

/-- What is made of an entry once it has been read. -/
def describeRest (h : Nat) (c : StepCtx) (a : Armed) (b : BitVec 256) : StepAct Armed :=
  if a.op = .kout ∧ (fieldN b 159 128 = 0 ∨ 65535 < fieldN b 159 128) then stepProgramFault 7
  else if a.op.buffered = true ∧ ((resolved c a b).lbuf.toNat % 32 ≠ 0 ∨ (a.op = .copy ∧ (resolved c a b).xbuf.toNat % 32 ≠ 0)) then stepFail Code.misaligned 0
  else
    match a.op with
    | .send => do
      let r ← stepPeer c b 215 200 194
      let ep ← stepEndpoint h r
      let n ← stepMatch h r 0 (b.extractLsb' 184 8)
      pure { resolved c a b with peerA := ep, matchA := n }
    | .recv => do
      let r ← stepPeer c b 215 200 194
      let ep ← stepEndpoint h r
      let n ← stepMatch h r 1 (b.extractLsb' 184 8)
      pure { resolved c a b with peerA := ep, matchA := n }
    | .rrs => do
      let r ← stepPeer c b 215 200 194
      let ep ← stepEndpoint h r
      if a.fl.getLsbD 1 then
        let n ← stepMatch h r 1 (b.extractLsb' 184 8)
        pure { resolved c a b with peerA := ep, matchA := n }
      else
        let r2 ← stepPeer c b 231 216 195
        let ep2 ← stepEndpoint h r2
        let n ← stepMatch h r 1 (b.extractLsb' 184 8)
        let n2 ← stepMatch h r2 0 (b.extractLsb' 184 8)
        pure { resolved c a b with peerA := ep, matchA := n, peerB := ep2, matchB := n2 }
    | .copy | .sitadv | .sitret | .kout | .wait | .done => pure (resolved c a b)

theorem stepDescribe_entry {s s1 : State} {h : Nat} {c : StepCtx} {a : Armed} {x : BitVec 8} {b : BitVec 256} (hop : a.op.described = true)
    (hb : stepEntry h x s = .ok (b, s1)) (hc : Tbl.get? s1.steps h = some c) (hst : c.status = none) :
    stepDescribe h a x s = describeRest h c a b s1 := by
  rw [stepDescribe, if_neg (by simp [hop]), step_bind_ok hb, step_bind_ok (stepGet_ok hc hst)]
  rfl

theorem stepPeer_ok {c : StepCtx} {b : BitVec 256} {hi lo flag r : Nat} (h : PeerIs c b hi lo flag r) (s : State) : stepPeer c b hi lo flag s = .ok (r, s) := by
  obtain ⟨rfl, hlt⟩ := h
  rw [stepPeer]
  exact congrFun (if_neg (Nat.not_le.2 hlt)) s

/-- The number of the next message with a rank. -/
def StepCtx.nextMatch (c : StepCtx) (r side : Nat) (tag : BitVec 8) : Nat := (Tbl.get? c.matched ((2 * r + side) * 256 + tag.toNat)).getD 0 + 1

/-- The context once the number has been taken. -/
def StepCtx.takeMatch (c : StepCtx) (r side : Nat) (tag : BitVec 8) : StepCtx :=
  { c with matched := Tbl.set c.matched ((2 * r + side) * 256 + tag.toNat) (c.nextMatch r side tag) }

theorem stepMatch_ok {s : State} {h : Nat} {c : StepCtx} (hc : Tbl.get? s.steps h = some c) (hst : c.status = none) (r side : Nat) (tag : BitVec 8) :
    stepMatch h r side tag s = .ok (c.nextMatch r side tag, { s with steps := Tbl.set s.steps h (c.takeMatch r side tag) }) := by
  rw [stepMatch, step_bind_ok (stepGet_ok hc hst)]
  show Except.ok (c.nextMatch r side tag, s.setStep h _) = _
  rw [setStep_of_get hc]
  rfl

/-- Sends and receives are counted apart. -/
theorem nextMatch_takeMatch (c : StepCtx) (r r2 : Nat) (tag : BitVec 8) : (c.takeMatch r 1 tag).nextMatch r2 0 tag = c.nextMatch r2 0 tag := by
  rw [StepCtx.nextMatch, StepCtx.takeMatch, tbl_get_set_ne _ _ (by omega), StepCtx.nextMatch]

/-- The state in which a match number has been taken. -/
def State.matchTaken (s : State) (h : Nat) (c : StepCtx) : State := { s with steps := Tbl.set s.steps h c }

theorem armedOf_fl {s : State} {c : StepCtx} {op : StepOp} {o : StepF} : (armedOf s c op o false).fl.getLsbD 1 = o.fl.getLsbD 1 := by
  simp [armedOf]

section Describe
variable {s s1 : State} {c : StepCtx} {o : StepF} {b : BitVec 256} (hat : StepAt s c) (hlen : c.store.length ≤ 15) (hnames : StepNames c o)
  (hturn : ∀ x ∈ s.steps, x.1 ≤ s.curStep ∨ ∀ a ∈ x.2.store, a.armedAt ≠ s.cycle) (hnin : o.nin ≠ 0) (hb : stepEntry s.curStep o.x s = .ok (b, s1))

theorem metered_steps {s t : State} (h : t.butMeter = s.butMeter) : t.steps = s.steps := (congrArg State.steps h :)
theorem metered_described {s t : State} (h : t.butMeter = s.butMeter) : t.butDescribed = s.butDescribed := congrArg (fun u : State => { u with steps := [] }) h

/-- The entry read, the context is as it was. -/
theorem step_after_entry (hat : StepAt s c) (hb : stepEntry s.curStep o.x s = .ok (b, s1)) : Tbl.get? s1.steps s.curStep = some c := by
  rw [metered_steps (metersOnly_stepEntry _ _ _ _ _ hb)]
  exact hat.1

include hat hlen hnames hturn hnin hb

/-- A step whose entry is described so is armed. -/
theorem armed_of_rest {op : StepOp} {a : Armed} {t : State} {c1 : StepCtx} (hop : op.described = true)
    (hrest : describeRest s.curStep c (armedOf s c op o false) b s1 = .ok (a, t)) (hkeep : t.butDescribed = s1.butDescribed)
    (hc1 : Tbl.get? t.steps s.curStep = some c1) (hm : c1.butMatched = c.butMatched) (ha : a.op = op) :
    ∃ u, armStep op o s = .next u ∧ ArmedIn s c op u a := by
  have hd := (stepDescribe_entry (a := armedOf s c op o false) hop hb (step_after_entry hat hb) hat.2.1).trans hrest
  exact ⟨_, armStep_inputs hat hlen hnames hturn hnin hd,
    armedIn_of (hkeep.trans (metered_described (metersOnly_stepEntry _ _ _ _ _ hb))) hc1 hm ha⟩

/-- A step that names no peer. -/
theorem armed_plain {op : StepOp} (hop : op = .copy ∨ op = .sitadv ∨ op = .sitret ∨ op = .kout)
    (hk : op = .kout → 1 ≤ fieldN b 159 128 ∧ fieldN b 159 128 ≤ 65535) (hl : op.buffered = true → (resolved c (armedOf s c op o false) b).lbuf.toNat % 32 = 0)
    (hx : op = .copy → (resolved c (armedOf s c op o false) b).xbuf.toNat % 32 = 0) :
    ∃ u, armStep op o s = .next u ∧ ArmedIn s c op u (resolved c (armedOf s c op o false) b) := by
  have hrest : describeRest s.curStep c (armedOf s c op o false) b s1 = .ok (resolved c (armedOf s c op o false) b, s1) := by
    have hmis : ¬((armedOf s c op o false).op.buffered = true ∧ ((resolved c (armedOf s c op o false) b).lbuf.toNat % 32 ≠ 0 ∨
        ((armedOf s c op o false).op = .copy ∧ (resolved c (armedOf s c op o false) b).xbuf.toNat % 32 ≠ 0))) := by
      rintro ⟨hbuf, h | ⟨hcopy, h⟩⟩
      · exact h (hl hbuf)
      · exact h (hx hcopy)
    have hkout : ¬((armedOf s c op o false).op = .kout ∧ (fieldN b 159 128 = 0 ∨ 65535 < fieldN b 159 128)) := by
      rintro ⟨hop, h⟩
      have := hk hop
      omega
    rw [describeRest, if_neg hkout, if_neg hmis]
    rcases hop with rfl | rfl | rfl | rfl <;> rfl
  exact armed_of_rest hat hlen hnames hturn hnin hb (by rcases hop with rfl | rfl | rfl | rfl <;> rfl) hrest rfl (step_after_entry hat hb) rfl rfl

section Peer
variable {r : Nat} {ep : Word} {s2 : State} (hl : (resolved c (armedOf s c .send o false) b).lbuf.toNat % 32 = 0) (hr : PeerIs c b 215 200 194 r)
  (hep : stepEndpoint s.curStep r s1 = .ok (ep, s2))
include hl hr hep

omit hlen hnames hturn hnin hl hr in
theorem step_after_endpoint : s2.butDescribed = s1.butDescribed ∧ Tbl.get? s2.steps s.curStep = some c := by
  have h := metersOnly_stepEndpoint _ _ _ _ _ hep
  refine ⟨metered_described h, ?_⟩
  rw [metered_steps h]
  exact step_after_entry hat hb

omit hat hlen hnames hturn hnin hb hr hep in
/-- Where the buffer is aligned, only KOUT and COPY have more checks. -/
theorem describeRest_peer {op : StepOp} (hop : op ≠ .kout ∧ op ≠ .copy) :
    ¬((armedOf s c op o false).op = .kout ∧ (fieldN b 159 128 = 0 ∨ 65535 < fieldN b 159 128)) ∧
    ¬((armedOf s c op o false).op.buffered = true ∧ ((resolved c (armedOf s c op o false) b).lbuf.toNat % 32 ≠ 0 ∨
        ((armedOf s c op o false).op = .copy ∧ (resolved c (armedOf s c op o false) b).xbuf.toNat % 32 ≠ 0))) := by
  refine ⟨fun h => hop.1 h.1, ?_⟩
  rintro ⟨-, h | ⟨h, -⟩⟩
  · exact h hl
  · exact hop.2 h

theorem armed_send : ∃ u, armStep .send o s = .next u ∧ ArmedIn s c .send u
    { resolved c (armedOf s c .send o false) b with peerA := ep, matchA := c.nextMatch r 0 (b.extractLsb' 184 8) } := by
  obtain ⟨hkeep, hc2⟩ := step_after_endpoint hat hb hep
  obtain ⟨h1, h2⟩ := describeRest_peer hl (op := .send) ⟨by simp, by simp⟩
  refine armed_of_rest (c1 := c.takeMatch r 0 (b.extractLsb' 184 8)) (t := s2.matchTaken s.curStep (c.takeMatch r 0 (b.extractLsb' 184 8)))
    hat hlen hnames hturn hnin hb rfl ?_ hkeep (tbl_get_set _ _ _) rfl rfl
  rw [describeRest, if_neg h1, if_neg h2]
  exact (step_bind_ok (stepPeer_ok hr s1)).trans ((step_bind_ok hep).trans (step_bind_ok (stepMatch_ok hc2 hat.2.1 r 0 _)))

theorem armed_recv : ∃ u, armStep .recv o s = .next u ∧ ArmedIn s c .recv u
    { resolved c (armedOf s c .recv o false) b with peerA := ep, matchA := c.nextMatch r 1 (b.extractLsb' 184 8) } := by
  obtain ⟨hkeep, hc2⟩ := step_after_endpoint hat hb hep
  obtain ⟨h1, h2⟩ := describeRest_peer (o := o) hl (op := .recv) ⟨by simp, by simp⟩
  refine armed_of_rest (c1 := c.takeMatch r 1 (b.extractLsb' 184 8)) (t := s2.matchTaken s.curStep (c.takeMatch r 1 (b.extractLsb' 184 8)))
    hat hlen hnames hturn hnin hb rfl ?_ hkeep (tbl_get_set _ _ _) rfl rfl
  rw [describeRest, if_neg h1, if_neg h2]
  exact (step_bind_ok (stepPeer_ok hr s1)).trans ((step_bind_ok hep).trans (step_bind_ok (stepMatch_ok hc2 hat.2.1 r 1 _)))

theorem armed_rrs_last (hfl : o.fl.getLsbD 1 = true) : ∃ u, armStep .rrs o s = .next u ∧ ArmedIn s c .rrs u
    { resolved c (armedOf s c .rrs o false) b with peerA := ep, matchA := c.nextMatch r 1 (b.extractLsb' 184 8) } := by
  obtain ⟨hkeep, hc2⟩ := step_after_endpoint hat hb hep
  obtain ⟨h1, h2⟩ := describeRest_peer (o := o) hl (op := .rrs) ⟨by simp, by simp⟩
  refine armed_of_rest (c1 := c.takeMatch r 1 (b.extractLsb' 184 8)) (t := s2.matchTaken s.curStep (c.takeMatch r 1 (b.extractLsb' 184 8)))
    hat hlen hnames hturn hnin hb rfl ?_ hkeep (tbl_get_set _ _ _) rfl rfl
  rw [describeRest, if_neg h1, if_neg h2]
  refine (step_bind_ok (stepPeer_ok hr s1)).trans ((step_bind_ok hep).trans ?_)
  rw [if_pos (by rw [armedOf_fl, hfl])]
  exact step_bind_ok (stepMatch_ok hc2 hat.2.1 r 1 _)

theorem armed_rrs_between {r2 : Nat} {ep2 : Word} {s3 : State} (hfl : o.fl.getLsbD 1 = false) (hr2 : PeerIs c b 231 216 195 r2)
    (hep2 : stepEndpoint s.curStep r2 s2 = .ok (ep2, s3)) : ∃ u, armStep .rrs o s = .next u ∧ ArmedIn s c .rrs u
    { resolved c (armedOf s c .rrs o false) b with
      peerA := ep, matchA := c.nextMatch r 1 (b.extractLsb' 184 8), peerB := ep2, matchB := c.nextMatch r2 0 (b.extractLsb' 184 8) } := by
  obtain ⟨hkeep, hc2⟩ := step_after_endpoint hat hb hep
  obtain ⟨h1, h2⟩ := describeRest_peer (o := o) hl (op := .rrs) ⟨by simp, by simp⟩
  have hmet := metersOnly_stepEndpoint _ _ _ _ _ hep2
  have hc3 : Tbl.get? s3.steps s.curStep = some c := by rw [metered_steps hmet]; exact hc2
  refine armed_of_rest (c1 := (c.takeMatch r 1 (b.extractLsb' 184 8)).takeMatch r2 0 (b.extractLsb' 184 8))
    (t := (s3.matchTaken s.curStep (c.takeMatch r 1 (b.extractLsb' 184 8))).matchTaken s.curStep
      ((c.takeMatch r 1 (b.extractLsb' 184 8)).takeMatch r2 0 (b.extractLsb' 184 8)))
    hat hlen hnames hturn hnin hb rfl ?_ ((metered_described hmet).trans hkeep) (tbl_get_set _ _ _) rfl rfl
  rw [describeRest, if_neg h1, if_neg h2, ← nextMatch_takeMatch c r]
  refine (step_bind_ok (stepPeer_ok hr s1)).trans ((step_bind_ok hep).trans ?_)
  rw [if_neg (by rw [armedOf_fl, hfl]; simp)]
  refine (step_bind_ok (stepPeer_ok hr2 s2)).trans ((step_bind_ok hep2).trans ((step_bind_ok (stepMatch_ok hc3 hat.2.1 r 1 _)).trans ?_))
  exact step_bind_ok (stepMatch_ok (s := s3.matchTaken s.curStep (c.takeMatch r 1 (b.extractLsb' 184 8))) (tbl_get_set _ _ _) hat.2.1 r2 0 _)

end Peer

end Describe

/-! ## WAIT and DONE (R268) -/

/-- A step whose word takes no entry is described at once. -/
theorem stepDescribe_plain {s : State} {h : Nat} {a : Armed} (hop : a.op.described = false) (x : BitVec 8) : stepDescribe h a x s = .ok (a, s) := by
  rw [stepDescribe, if_pos (by simp [hop])]
  rfl

theorem find_last {l : List Armed} {a : Armed} (h : ∀ x ∈ l, x.age ≠ a.age) : (l ++ [a]).find? (fun x => decide (x.age = a.age)) = some a := by
  rw [List.find?_append, List.find?_eq_none.2 fun x hx => by simpa using h x hx]
  simp

theorem map_last {l : List Armed} {a b : Armed} (h : ∀ x ∈ l, x.age ≠ b.age) (hab : a.age = b.age) :
    (l ++ [a]).map (fun x => if x.age = b.age then b else x) = l ++ [b] := by
  have hl : l.map (fun x => if x.age = b.age then b else x) = l.map id := List.map_congr_left fun x hx => if_neg (h x hx)
  rw [List.map_append, hl, List.map_id]
  simp [hab]

theorem runStep_ok {s t : State} (h : Nat) {a : StepAct Unit} (ha : a s = .ok ((), t)) : runStep h a s = .next t := by
  rw [runStep, ha]

/-- A fired step that has nothing to do. -/
theorem stepWork_nothing {s : State} {h age : Nat} {c : StepCtx} {a : Armed} (hage : a.age = age) (hc : Tbl.get? s.steps h = some c) (hst : c.status = none)
    (ha : c.armed a.age = some a) (hstore : c.setArmed a = c) (hf : a.fired = true) (hop : a.op = .wait ∨ a.op = .done) (ho : a.owed = []) :
    ∃ t, stepWork h age s = .ok ((), t) ∧ t.steps = Tbl.set s.steps h c ∧ t.butDescribed = s.butDescribed := by
  subst hage
  have hpay : s.payOwed h a.age = { s with steps := Tbl.set s.steps h c } := by
    have hsame : ({ a with owed := a.owed.filter (fun o => !(o.1.all (fun i => s.performedAt i .dev))) } : Armed) = a := by rw [ho, List.filter_nil, ← ho]
    rw [State.payOwed, hc, Option.bind_some, ha]
    dsimp only
    rw [hsame, ho, List.filter_nil, List.foldl_nil, setStep_of_get hc, hstore]
  have hc' : Tbl.get? ({ s with steps := Tbl.set s.steps h c } : State).steps h = some c := tbl_get_set _ _ _
  refine ⟨{ s with steps := Tbl.set s.steps h c }, ?_, rfl, rfl⟩
  rw [stepWork]
  have hmod : (modify (fun s => s.payOwed h a.age) : StepAct Unit) s = .ok ((), { s with steps := Tbl.set s.steps h c }) := congrArg (fun t => Except.ok ((), t)) hpay
  rw [step_bind_ok hmod, step_bind_ok (stepGet_ok hc' hst), ha]
  dsimp only
  rw [hf, if_neg (by simp), step_bind_get]
  rcases hop with hop | hop
  · rw [hop] <;> rfl
  · rw [hop] <;> rfl

section Fire
variable {s : State} {c : StepCtx} {o : StepF} (hat : StepAt s c) (hlen : c.store.length ≤ 15) (hnames : StepNames c o)
  (hturn : ∀ x ∈ s.steps, x.1 ≤ s.curStep ∨ ∀ a ∈ x.2.store, a.armedAt ≠ s.cycle)

theorem armedOf_no_input {op : StepOp} {f : Bool} (hnin : o.nin = 0) : (armedOf s c op o f).ins = [] := by
  have : stepIns o = [] := by rw [stepIns, hnin]; rfl
  rw [armedOf, this]
  rfl

include hat

/-- An armed step without an input fires, and has nothing to do (R268). -/
theorem fireStep_armed {op : StepOp} (hop : op = .wait ∨ op = .done) (hnin : o.nin = 0) :
    ∃ t, (s.withArmed s.curStep (armedOf s c op o false)).fireStep s.curStep s.nextAge = .next t ∧ ArmedIn s c op t (armedOf s c op o true) := by
  obtain ⟨hc, hst, -, hstore, hrun⟩ := id hat
  generalize ha : armedOf s c op o false = a
  have hage : a.age = s.nextAge := ha ▸ rfl
  have hins : a.ins = [] := ha ▸ armedOf_no_input hnin
  have hne : ∀ x ∈ c.store, x.age ≠ a.age := fun x hx => by rw [hage]; exact (hstore x hx).2.ne
  have harm : s.withArmed s.curStep a = { s with nextAge := s.nextAge + 1, steps := Tbl.set s.steps s.curStep (c.arm a) } :=
    setStep_of_get (s := { s with nextAge := s.nextAge + 1 }) hc _
  have hfound : (c.arm a).armed s.nextAge = some a := by
    rw [← hage]
    exact find_last hne
  have hset : (c.arm a).setArmed { a with fired := true } = { c.arm a with store := c.store ++ [{ a with fired := true }] } :=
    congrArg (fun l => ({ c.arm a with store := l } : StepCtx)) (map_last (a := a) (b := { a with fired := true }) hne rfl)
  have hafter : (({ c.arm a with store := c.store ++ [{ a with fired := true }] } : StepCtx)).setArmed { a with fired := true } =
      { c.arm a with store := c.store ++ [{ a with fired := true }] } :=
    congrArg (fun l => ({ c.arm a with store := l } : StepCtx)) (map_last (a := { a with fired := true }) (b := { a with fired := true }) hne rfl)
  obtain ⟨t, ht, htsteps, htkeep⟩ := stepWork_nothing (s := { s with nextAge := s.nextAge + 1
                                                                     steps := Tbl.set (Tbl.set s.steps s.curStep (c.arm a)) s.curStep { c.arm a with store := c.store ++ [{ a with fired := true }] } })
    (h := s.curStep) (a := { a with fired := true }) hage (tbl_get_set _ _ _) hst (find_last hne) hafter rfl (by rw [← ha]; exact hop) (by rw [← ha]; rfl)
  have hfire : (s.withArmed s.curStep a).fireStep s.curStep s.nextAge = .next t := by
    have hget : Tbl.get? (s.withArmed s.curStep a).steps s.curStep = some (c.arm a) := by rw [harm]; exact tbl_get_set _ _ _
    have hcan : (if (c.arm a).status.isNone && (s.withArmed s.curStep a).running (c.arm a).slot then (c.arm a).armed s.nextAge else none) = some a := by
      rw [harm, hfound]
      exact if_pos (by rw [Bool.and_eq_true]; exact ⟨by simp [StepCtx.arm, hst], hrun⟩)
    have hstale : (s.withArmed s.curStep a).staleStep a = false := by rw [State.staleStep, hins]; rfl
    have hmay : (s.withArmed s.curStep a).mayFire a = true := by rw [State.mayFire, hins]; rfl
    have htake : (s.withArmed s.curStep a).takeTokens a = s.withArmed s.curStep a := by rw [State.takeTokens, hins]; rfl
    rw [State.fireStep, hget, Option.bind_some, hcan]
    dsimp only
    rw [if_neg (by rw [← ha]; simp [armedOf]), hstale, if_neg (by simp), if_pos hmay, htake, setStep_of_get hget, harm]
    dsimp only
    rw [hset]
    exact runStep_ok _ ht
  refine ⟨t, hfire, ?_⟩
  have haf : armedOf s c op o true = { a with fired := true } := by rw [← ha]; rfl
  have hfin : Tbl.get? t.steps s.curStep = some { c.arm a with store := c.store ++ [{ a with fired := true }] } := by
    rw [htsteps]
    exact tbl_get_set _ _ _
  rw [haf]
  exact ⟨(congrArg State.nextAge htkeep :), (congrArg State.tokens htkeep :), (congrArg State.mem htkeep :), (congrArg State.cur htkeep :), by rw [← ha]; rfl,
    _, hfin, rfl, rfl, rfl, rfl⟩

include hlen hnames hturn

theorem armed_waiting {op : StepOp} (hop : op = .wait ∨ op = .done) :
    ∃ t, armStep op o s = .next t ∧ ArmedIn s c op t (armedOf s c op o (decide (o.nin = 0))) := by
  have hd : stepDescribe s.curStep (armedOf s c op o false) o.x s = .ok (armedOf s c op o false, s) :=
    stepDescribe_plain (by rcases hop with rfl | rfl <;> rfl) _
  by_cases hnin : o.nin = 0
  · obtain ⟨t, ht, harmed⟩ := fireStep_armed hat hop hnin
    have hage : (s.withArmed s.curStep (armedOf s c op o false)).nextAge ≠ s.nextAge := by
      rw [State.withArmed, setStep_of_get (s := { s with nextAge := s.nextAge + 1 }) hat.1]
      exact Nat.succ_ne_self _
    refine ⟨t, ?_, by rw [decide_eq_true hnin]; exact harmed⟩
    rw [armStep_eq, if_pos hnin, runStep, armAct_ok hat hlen hnames hturn hd]
    exact (if_neg hage).trans ht
  · rw [decide_eq_false hnin]
    exact ⟨_, armStep_inputs hat hlen hnames hturn hnin hd, armedIn_of rfl hat.1 rfl rfl⟩

end Fire

/-- Settles O29: the control core's side by each instruction, the words by what their entry's description and their peers come to. -/
theorem stepWords : Obligations.StepWords := by
  refine ⟨⟨fun o s q ha hq howed => ⟨fun h => ?_, fun h => ?_⟩, fun k s q hq => ⟨fun hu h => exec_kreset_resets hq hu h, exec_kreset_later hq⟩,
    fun o s q hd hq hcap hrep => exec_kread hd hq hcap hrep, fun o s hr => ⟨exec_cstart_pc_misaligned hr, exec_cstart_table_misaligned hr, fun hx hy hf hroom hfree howed => ?_⟩,
    fun o s c hr hc hs => ⟨fun w => exec_cwait_ended hr hc hs, exec_cwait_waits hr hc hs⟩⟩, fun o s c hat hlen hnames hturn => ⟨fun x hx => ?_, fun b s1 hnin hb => ?_⟩⟩
  · rw [exec_kpost_eq ha hq howed, tokenAdd_fits h]
  · rw [exec_kpost_eq ha hq howed, tokenAdd_saturates h]
  · obtain ⟨h, hdie, hfree', hrun⟩ := exec_cstart_starts hr hx hy hf hroom hfree howed
    exact ⟨h, _, hdie, hfree', hrun, rfl, rfl, rfl, rfl, rfl, rfl, rfl, rfl, rfl, rfl, fun k hk => by
      have : k = 0 ∨ k = 1 ∨ k = 2 ∨ k = 3 := by omega
      rcases this with rfl | rfl | rfl | rfl <;> rfl⟩
  · rcases List.mem_cons.1 hx with rfl | hx
    · exact armed_waiting hat hlen hnames hturn (.inl rfl)
    · obtain rfl := List.mem_singleton.1 hx
      exact armed_waiting hat hlen hnames hturn (.inr rfl)
  · refine ⟨armed_plain hat hlen hnames hturn hnin hb (.inr (.inr (.inl rfl))) (fun h => by cases h) (fun h => by cases h) (fun h => by cases h),
      fun h1 h2 => armed_plain hat hlen hnames hturn hnin hb (.inr (.inr (.inr rfl))) (fun _ => ⟨h1, h2⟩) (fun h => by cases h) (fun h => by cases h),
      fun h1 h2 => armed_plain hat hlen hnames hturn hnin hb (.inl rfl) (fun h => by cases h) (fun _ => h1) (fun _ => h2),
      fun h1 => armed_plain hat hlen hnames hturn hnin hb (.inr (.inl rfl)) (fun h => by cases h) (fun _ => h1) (fun h => by cases h), fun r ep s2 hl hr hep => ?_⟩
    exact ⟨armed_send hat hlen hnames hturn hnin hb hl hr hep, armed_recv hat hlen hnames hturn hnin hb hl hr hep,
      armed_rrs_last hat hlen hnames hturn hnin hb hl hr hep, fun r2 ep2 s3 hfl hr2 hep2 => armed_rrs_between hat hlen hnames hturn hnin hb hl hr hep hfl hr2 hep2⟩

end Sys2Proof.Machine
end

section
/-! PROOFS. O46, part 1: scalar results that land (R34, R80, R142, R176). -/
namespace Sys2Proof.Machine

/-! ## Reading outside the L1 -/

/-- The state but for kept views. -/
def State.butOlds (s : State) : State := { s with olds := [] }

theorem renew_but_olds (s : State) (rs : List CtxRef) (pa n : Nat) : (s.renew rs pa n).butOlds = s.butOlds := rfl

theorem fillPieces_outside {s : State} {c : Context} {ps : List Piece} (h : ∀ p ∈ ps, p.page.inL1 = false) : s.fillPieces c ps = s := by
  unfold State.fillPieces
  split
  · rename_i core _
    refine foldl_keeps_mem (fun t : State => t) ps (fun t p hp => ?_) s
    simp [h p hp]
  · rfl

/-- The state but for what an access outside the L1 changes beside its own effect: counters, kept views, a replay's place, clean sectors. -/
def State.butAccess (s : State) : State := { s with assay := [], rcbs := [], olds := [], replays := [], l1 := [] }

theorem readUnit_outside {s : State} {c : Context} {id : Nat} {ps : List Piece} (h : ∀ p ∈ ps, p.page.inL1 = false) :
    (s.readUnit c id ps).1.butOlds = s.butOlds ∧
      (s.readUnit c id ps).2 = ps.flatMap (fun p => p.range.map (s.loadByte c id (s.oldFor c ps) p.page)) := by
  unfold State.readUnit
  rw [fillPieces_outside h]
  refine ⟨?_, rfl⟩
  dsimp only
  split
  · rfl
  · exact foldl_keeps State.butOlds (fun t (p : Piece) => renew_but_olds t [c.ref] p.pa p.len) ps s

/-- No view that a context may not use is left to it by a read. -/
theorem readUnit_no_olds {s : State} {c : Context} {r : CtxRef} {id : Nat} {ps : List Piece} (h : ∀ p ∈ ps, p.page.inL1 = false)
    (ho : ∀ o ∈ s.olds, o.by_ ≠ r) : ∀ o ∈ (s.readUnit c id ps).1.olds, o.by_ ≠ r := by
  unfold State.readUnit
  rw [fillPieces_outside h]
  dsimp only
  split
  · exact ho
  · refine foldl_holds (P := fun t : State => ∀ o ∈ t.olds, o.by_ ≠ r) ps (fun t p _ ht => ?_) ho
    intro o hmem
    obtain ⟨o', ho', rfl⟩ := List.mem_map.1 (List.mem_of_mem_filter hmem)
    have := ht o' ho'
    split
    · exact this
    · exact this

theorem oldFor_none {s : State} {c : Context} {ps : List Piece} (ho : ∀ o ∈ s.olds, o.by_ ≠ c.ref) : s.oldFor c ps = none := by
  unfold State.oldFor
  split
  · exact List.find?_eq_none.2 fun o h => by simp [ho o h]
  · rfl

/-- What a read takes from outside the L1: the held stores, the stores in coherence order, memory, and where the context stands. -/
theorem loadByte_outside_access {s t : State} {c : Context} {p : PageInfo} (hp : p.inL1 = false) (h : t.butAccess = s.butAccess) (id : Nat)
    (old : Option OldCopy) : t.loadByte c id old p = s.loadByte c id old p := by
  have hh : t.hold = s.hold := (congrArg State.hold h :)
  have hc : t.seenByte c = s.seenByte c := (congrArg (fun u : State => u.seenByte c) h :)
  funext pa
  simp [State.loadByte, hp, hh, hc]

/-! ## What stands around a landing -/

theorem meterPieces_but_meter (s : State) (c : Context) (ps : List Piece) : (s.meterPieces c ps).butMeter = s.butMeter :=
  foldl_keeps State.butMeter (fun t (p : Piece) => meterBytes_but_meter t c.slot c.core?.isSome p.pa p.len) ps s

/-- What identifies a store and gives its bytes. -/
def StoreRec.data (r : StoreRec) : Nat × Nat × List Byte × Option Scope := (r.id, r.pa, r.bytes, r.ps)

/-- A context with other outstanding results and queued copies. -/
def Context.queued (c : Context) (pend : List Pend) (copyq : List CopyEntry) : Context := { c with pend := pend, copyq := copyq }

/-- A release learning changes what releases publish, and the numbers that copies wait for: no bytes, no register (R290). -/
structure Learnt (s t : State) : Prop where
  mem : t.mem = s.mem
  olds : t.olds = s.olds
  hold : t.hold.map StoreRec.data = s.hold.map StoreRec.data
  coh : t.coh.map StoreRec.data = s.coh.map StoreRec.data
  cur : t.cur = s.cur.queued t.cur.pend t.cur.copyq
  ids : t.cur.pend.map (·.id) = s.cur.pend.map (·.id)

theorem learn_learnt {s : State} {c : Context} (hc : c.ref = s.cur.ref) (id : Nat) : Learnt s (s.learn c id) := by
  have hr : ∀ (t : State) (f : Context → Context), t.cur = s.cur → t.setCtx c.ref f = t.setCur f := fun t f ht => by
    rw [hc, ← ht, setCtx_cur_ref]
  unfold State.learn
  dsimp only
  rw [hr]
  · refine ⟨rfl, rfl, (List.map_map ..).trans rfl, (List.map_map ..).trans rfl, rfl, ?_⟩
    rw [setCur_cur]
    refine (List.map_map ..).trans (List.map_congr_left fun q _ => ?_)
    rw [Function.comp_apply]
    split <;> rfl
  · rfl

theorem putS_queues (c : Context) (pend : List Pend) (copyq : List CopyEntry) (d : BitVec 5) (v : Word) :
    (c.queued pend copyq).putS d v = (c.putS d v).queued pend copyq := by
  unfold Context.putS
  split <;> rfl

theorem filter_ids (l : List Pend) (n : Nat) :
    (l.filter (fun x => decide (x.id ≠ n))).map (·.id) = (l.map (·.id)).filter (fun i => decide (i ≠ n)) := by
  rw [List.filter_map]
  rfl

section Landing
variable {s : State} {n : Nat} {q : Pend}

/-- A value is delivered after its access has been learnt of. -/
theorem landed_learnt (hn : q.note = none) (hid : q.id = n) {d : BitVec 5} (hd : q.dst = .s d) {u : State}
    (hcur : u.cur = s.cur) (hmem : u.mem = s.mem) (hhold : u.hold = s.hold) (v : Word) :
    let t := ((u.learn s.cur n).landed s.cur q).setCtx s.cur.ref (fun c => c.deliver q.dst v)
    LandedIn s t n (s.cur.putS d v) ∧ t.coh.map StoreRec.data = u.coh.map StoreRec.data ∧ t.olds = u.olds := by
  obtain ⟨lmem, lolds, lhold, lcoh, lcur, lids⟩ := learn_learnt (s := u) (c := s.cur) (by rw [hcur]) n
  set l := u.learn s.cur n
  have href : l.cur.ref = s.cur.ref := by rw [lcur, hcur]; rfl
  have hl : l.landed s.cur q = l.setCur (fun c => { c with pend := c.pend.filter (fun x => x.id ≠ q.id) }) := by
    unfold State.landed
    rw [hn]
    dsimp only
    rw [← href, setCtx_cur_ref]
  have ht : (l.landed s.cur q).setCtx s.cur.ref (fun c => c.deliver q.dst v) =
      l.setCur (fun c => ({ c with pend := c.pend.filter (fun x => x.id ≠ n) } : Context).putS d v) := by
    rw [hl, hid, hd, ← href]
    exact setCtx_cur_ref (l.setCur (fun c => { c with pend := c.pend.filter (fun x => x.id ≠ n) })) _
  dsimp only
  rw [ht]
  have hcp : (({ l.cur with pend := l.cur.pend.filter (fun x => x.id ≠ n) } : Context).putS d v) =
      (s.cur.putS d v).queued (l.cur.pend.filter (fun x => x.id ≠ n)) l.cur.copyq := by
    rw [← putS_queues, ← hcur]
    exact (congrArg (fun c : Context => (c.queued (l.cur.pend.filter (fun x => x.id ≠ n)) l.cur.copyq).putS d v) lcur :)
  have hids : (l.cur.pend.filter (fun x => decide (x.id ≠ n))).map (·.id) = (s.cur.pend.filter (fun x => decide (x.id ≠ n))).map (·.id) := by
    rw [filter_ids, filter_ids, lids, hcur]
  have hholds : l.hold.map (fun r => (r.id, r.pa, r.bytes)) = s.hold.map (fun r => (r.id, r.pa, r.bytes)) := by
    have := congrArg (List.map fun x : Nat × Nat × List Byte × Option Scope => (x.1, x.2.1, x.2.2.1)) lhold
    rw [List.map_map, List.map_map, hhold] at this
    exact this
  refine ⟨?_, lcoh, lolds⟩
  unfold LandedIn
  rw [setCur_cur, hcp]
  exact ⟨rfl, rfl, rfl, rfl, rfl, rfl, rfl, hids, lmem.trans hmem, hholds⟩

end Landing

theorem LandedIn.mem {s t : State} {n : Nat} {c : Context} (h : LandedIn s t n c) : t.mem = s.mem := by
  obtain ⟨-, -, -, -, -, -, -, -, hm, -⟩ := h
  exact hm

theorem unwritten_of_data {s t : State} (hm : t.mem = s.mem) (hc : t.coh.map StoreRec.data = s.coh.map StoreRec.data) : Unwritten s t := ⟨hm, hc⟩

/-! ## The order of one landing -/

section Order
variable {s : State} {n : Nat} {q : Pend} (hq : s.cur.pend.find? (fun x => decide (x.id = n)) = some q)
include hq

theorem pend_id : q.id = n := by simpa using List.find?_some hq

theorem resultLands_early (h : s.mayLand s.cur q = false) : execResultLands s.cur.ref n s = .next s := by
  unfold execResultLands
  simp [hq, h]

theorem resultLands_poisoned (h : s.mayLand s.cur q = true) {p : Piece} (hp : q.pieces.find? (fun p => s.poisoned p.pa) = some p) :
    execResultLands s.cur.ref n s = .next (s.attribute p.pa s.cur.ref) := by
  unfold execResultLands
  simp [hq, h, hp]

variable (h : s.mayLand s.cur q = true) (hp : ∀ p ∈ q.pieces, s.poisoned p.pa = false)
include h hp
omit hq h in

theorem no_poisoned_piece : q.pieces.find? (fun p => s.poisoned p.pa) = none := List.find?_eq_none.2 fun p hm => by simp [hp p hm]

theorem resultLands_scalar (hs : ∀ base got es k, q.what ≠ .vload base got es k) : execResultLands s.cur.ref n s = .next (s.landScalar s.cur q) := by
  unfold execResultLands
  simp only [ctx?_cur_ref, hq, h, no_poisoned_piece hp]
  cases hw : q.what with
  | vload base got es k => exact absurd hw (hs base got es k)
  | value v => rfl
  | held => rfl
  | load ps signed acq => rfl
  | atomic p op v signed acq rels => rfl

theorem resultLands_vector {base : Tile} {got : List (Nat × Nat)} {es : List ElemAccess} {k : Conv} (hw : q.what = .vload base got es k) :
    execResultLands s.cur.ref n s = .next (s.landVector s.cur q base got es k) := by
  unfold execResultLands
  simp only [ctx?_cur_ref, hq, h, no_poisoned_piece hp]
  rw [hw]
  rfl

end Order

theorem mayLand_early {s : State} {c : Context} {q : Pend} (h : s.cycle < q.at_) : s.mayLand c q = false := by
  unfold State.mayLand
  rw [decide_eq_false (by omega)]
  simp

/-! ## Values, loads, atomics -/

theorem landScalar_value {s : State} {q : Pend} (hn : q.note = none) {v : Word} (hw : q.what = .value v) {d : BitVec 5} (hd : q.dst = .s d) :
    s.landScalar s.cur q = s.setCur (fun c => ({ c with pend := c.pend.filter (fun x => decide (x.id ≠ q.id)) } : Context).putS d v) := by
  unfold State.landScalar State.landed
  rw [hw, hn]
  dsimp only
  rw [setCtx_cur_ref]
  exact (setCtx_cur_ref (s.setCur (fun c => { c with pend := c.pend.filter (fun x => decide (x.id ≠ q.id)) })) _).trans (by rw [hd]; rfl)

/-- A state after the reading and counting of a load. -/
def State.loaded (s : State) (c : Context) (id : Nat) (p : Piece) : State := (s.readUnit c id [p]).1.meterPieces c [p]

theorem loaded_but_access {s : State} {c : Context} {id : Nat} {p : Piece} (hp : p.page.inL1 = false) : (s.loaded c id p).butAccess = s.butAccess := by
  have h1 := meterPieces_but_meter (s.readUnit c id [p]).1 c [p]
  have h2 := (readUnit_outside (s := s) (c := c) (id := id) (ps := [p]) (by simpa using hp)).1
  exact (congrArg (fun u : State => u.butAccess) h1 :).trans (congrArg State.butAccess h2 :)

theorem landScalar_load {s : State} {q : Pend} {p : Piece} {signed : Bool} {acq : Option Scope} (hw : q.what = .load [(p, none)] signed acq)
    (hp : p.page.inL1 = false) :
    let s1 := if acq.isSome then s.orderPoint s.cur true else s
    s.landScalar s.cur q = (((s1.loaded s.cur q.id p).learn s.cur q.id).landed s.cur q).setCtx s.cur.ref (fun c => c.deliver q.dst
      (extend signed p.len (leNat (p.range.map (s1.loadByte s.cur q.id (s1.oldFor s.cur [p]) p.page))))) := by
  intro s1
  have hb : (s1.readUnit s.cur q.id [p]).2 = p.range.map (s1.loadByte s.cur q.id (s1.oldFor s.cur [p]) p.page) := by
    rw [(readUnit_outside (s := s1) (c := s.cur) (id := q.id) (ps := [p]) (by simpa using hp)).2]
    simp
  have hlen : ((s1.readUnit s.cur q.id [p]).2).length = p.len := by rw [hb]; simp [Piece.range]
  have hr : s1.readPieces s.cur q.id [(p, none)] = ((s1.readUnit s.cur q.id [p]).1, (s1.readUnit s.cur q.id [p]).2) := by
    simp [State.readPieces]
  unfold State.landScalar
  rw [hw]
  dsimp only
  rw [show (if acq.isSome then s.orderPoint s.cur true else s) = s1 from rfl, hr]
  dsimp only
  rw [hlen, hb]
  rfl

/-- A load's bytes land in its register, whether it is an acquire or not, and nothing is written. -/
theorem landScalar_load_spec {s : State} {q : Pend} {p : Piece} {signed : Bool} {acq : Option Scope} {d : BitVec 5}
    (hw : q.what = .load [(p, none)] signed acq) (hn : q.note = none) (hd : q.dst = .s d) (hp : p.page.inL1 = false) :
    let s1 := if acq.isSome then s.orderPoint s.cur true else s
    LandedIn s (s.landScalar s.cur q) q.id
        (s.cur.putS d (extend signed p.len (leNat (p.range.map (s.loadByte s.cur q.id (s1.oldFor s.cur [p]) p.page))))) ∧
      Unwritten s (s.landScalar s.cur q) ∧ (s.landScalar s.cur q).olds = (s1.loaded s.cur q.id p).olds := by
  intro s1
  have hs1 : s1.butAccess = s.butAccess := by
    show (if acq.isSome then s.orderPoint s.cur true else s).butAccess = _
    split <;> rfl
  have hu := (loaded_but_access (s := s1) (c := s.cur) (id := q.id) hp).trans hs1
  have hbyte (old : Option OldCopy) : s1.loadByte s.cur q.id old p.page = s.loadByte s.cur q.id old p.page :=
    loadByte_outside_access hp hs1 q.id old
  obtain ⟨hl, hc, ho⟩ := landed_learnt (s := s) (q := q) hn rfl hd (u := s1.loaded s.cur q.id p) (congrArg State.cur hu :) (congrArg State.mem hu :)
    (congrArg State.hold hu :) (extend signed p.len (leNat (p.range.map (s1.loadByte s.cur q.id (s1.oldFor s.cur [p]) p.page))))
  rw [landScalar_load hw hp]
  rw [hbyte] at hl hc ho ⊢
  exact ⟨hl, unwritten_of_data hl.mem (hc.trans (congrArg (fun u : State => u.coh.map StoreRec.data) hu :)), ho⟩

theorem loaded_no_olds {s : State} {c : Context} {r : CtxRef} {id : Nat} {p : Piece} (hp : p.page.inL1 = false) (ho : ∀ o ∈ s.olds, o.by_ ≠ r) :
    ∀ o ∈ (s.loaded c id p).olds, o.by_ ≠ r := by
  have h : (s.loaded c id p).olds = (s.readUnit c id [p]).1.olds := (congrArg State.olds (meterPieces_but_meter (s.readUnit c id [p]).1 c [p]) :)
  rw [h]
  exact readUnit_no_olds (by simpa using hp) ho

/-! ## Atomics -/

/-- The byte last in coherence order is settled by the stores' data and memory. -/
theorem lastByte_of_data {s t : State} (hm : t.mem = s.mem) (hc : t.coh.map StoreRec.data = s.coh.map StoreRec.data) : t.lastByte = s.lastByte := by
  have key : ∀ (u : State) (pa : Nat), u.lastByte pa =
      match ((u.coh.map StoreRec.data).filter (fun x => decide (x.2.1 ≤ pa) && decide (pa < x.2.1 + x.2.2.1.length))).getLast? with
      | some x => x.2.2.1.getD (pa - x.2.1) emptyByte
      | none => u.mem.get pa := by
    intro u pa
    have hf : (u.coh.map StoreRec.data).filter (fun x => decide (x.2.1 ≤ pa) && decide (pa < x.2.1 + x.2.2.1.length)) =
        (u.coh.filter (fun r => r.covers pa && true)).map StoreRec.data := by
      rw [List.filter_map]
      refine congrArg (List.map StoreRec.data) (List.filter_congr fun r _ => ?_)
      exact (Bool.and_true _).symm
    rw [hf, List.getLast?_map]
    unfold State.lastByte lastCover
    cases (u.coh.filter (fun r => r.covers pa && true)).getLast? <;> rfl
  funext pa
  rw [key t, key s, hc, hm]

/-- A store last in coherence order. -/
theorem lastByte_append {s t : State} {r : StoreRec} (hm : t.mem = s.mem) (hc : t.coh = s.coh ++ [r]) (pa : Nat) :
    t.lastByte pa = if r.covers pa then r.byteAt pa else s.lastByte pa := by
  unfold State.lastByte lastCover
  rw [hc, hm, List.filter_append]
  by_cases h : r.covers pa <;> simp [h]

theorem lastByte_store {s t : State} {r : StoreRec} (hm : t.mem = s.mem) (hc : t.coh = s.coh ++ [r]) :
    bytesFrom t.lastByte r.pa r.bytes.length = r.bytes ∧ ∀ a, ¬(r.pa ≤ a ∧ a < r.pa + r.bytes.length) → t.lastByte a = s.lastByte a := by
  constructor
  · refine List.ext_getElem (by simp [bytesFrom]) fun i hi hj => ?_
    have hcov : r.covers (r.pa + i) = true := by simp [StoreRec.covers, hj]
    simp [bytesFrom, lastByte_append hm hc, hcov, StoreRec.byteAt, List.getD_eq_getElem?_getD, hj]
  · intro a ha
    have hcov : r.covers a = false := by simpa [StoreRec.covers] using ha
    simp [lastByte_append hm hc, hcov]

theorem logUndo_unmarked (s : State) (slot budget pa : Nat) : s.logUndo slot budget pa false = s := by
  unfold State.logUndo
  split
  · rfl
  · split
    · rfl
    · simp

/-- A store performed at eng. -/
def StoreRec.atEng (r : StoreRec) : StoreRec := { r with ps := some .eng }

/-- The state with one more store, last in coherence order. -/
def State.placed (s : State) (r : StoreRec) : State := { s with coh := s.coh ++ [r] }

/-- A store to a page without CKPT is placed last in coherence order; beside it only kept views change. -/
theorem place_unmarked {s : State} {r : StoreRec} (h : r.page.ckpt = false) :
    (s.place r).butOlds = (s.placed r.atEng).butOlds := by
  unfold State.place
  rw [h, logUndo_unmarked]
  rfl

theorem capture_off {s : State} {vf : Nat} (h : Tbl.get? s.dortas.captures vf = none) (kind : Nat) : (s.capture vf kind).butReplays = s.butReplays := by
  unfold State.capture
  dsimp only
  rw [presented_dortas, h]
  exact presented_but_replays s vf kind

theorem performAtomic_outside {s : State} {c : Context} {p : Piece} (hp : p.page.inL1 = false) (id : Nat) (op : AtomOp) (v : Word) (rels : List Release) :
    s.performAtomic c id p op v rels =
      (s.place (s.atomRec c id p (natBytes (atomNew op p.len (leNat (bytesFrom s.lastByte p.pa p.len)) v.toNat) p.len) rels),
        leNat (bytesFrom s.lastByte p.pa p.len)) := by
  unfold State.performAtomic
  simp [hp]

/-- An atomic's old value lands and its new one is last in coherence order (R176, R177). -/
theorem landScalar_atomic_spec {s : State} {q : Pend} {p : Piece} {op : AtomOp} {v : Word} {signed : Bool} {acq : Option Scope} {d : BitVec 5}
    {rels : List Release} (hw : q.what = .atomic p op v signed acq rels) (hn : q.note = none) (hd : q.dst = .s d) (hp : p.page.inL1 = false)
    (hck : p.page.ckpt = false) (hcap : Tbl.get? s.dortas.captures (s.vfOf s.cur.slot) = none) :
    let old := leNat (bytesFrom s.lastByte p.pa p.len)
    let t := s.landScalar s.cur q
    LandedIn s t q.id (s.cur.putS d (extend signed p.len old)) ∧ bytesFrom t.lastByte p.pa p.len = natBytes (atomNew op p.len old v.toNat) p.len ∧
      ∀ a, ¬(p.pa ≤ a ∧ a < p.pa + p.len) → t.lastByte a = s.lastByte a := by
  intro old t
  let s1 := if acq.isSome then s.orderPoint s.cur true else s
  have hs1 : s1.butAccess = s.butAccess := by
    show (if acq.isSome then s.orderPoint s.cur true else s).butAccess = _
    split <;> rfl
  have hlast : s1.lastByte = s.lastByte := (congrArg (fun u : State => u.lastByte) hs1 :)
  set new := natBytes (atomNew op p.len old v.toNat) p.len with hnew
  set r := s1.atomRec s.cur q.id p new rels with hr
  have hbut := place_unmarked (s := s1) (r := r) hck
  set u := ((s1.place r).meterPieces s.cur [p]).capture (s.vfOf s.cur.slot) 6 with hu
  have hmeter := meterPieces_but_meter (s1.place r) s.cur [p]
  have hub : u.butReplays = ((s1.place r).meterPieces s.cur [p]).butReplays := by
    refine capture_off ?_ 6
    have h1 : ((s1.place r).meterPieces s.cur [p]).dortas = (s1.place r).dortas := (congrArg State.dortas hmeter :)
    have h2 : (s1.place r).dortas = s1.dortas := (congrArg State.dortas hbut :)
    have h3 : s1.dortas = s.dortas := (congrArg State.dortas hs1 :)
    rw [h1, h2, h3, hcap]
  have hua : u.butAccess = (s1.place r).butAccess := (congrArg (fun u : State => u.butAccess) hub :).trans (congrArg (fun u : State => u.butAccess) hmeter :)
  have hpl : (s1.place r).butAccess = (s1.placed r.atEng).butAccess :=
    (congrArg (fun u : State => u.butAccess) hbut :)
  have hall := hua.trans hpl
  have hcur : u.cur = s.cur := (congrArg State.cur hall :).trans (congrArg State.cur hs1 :)
  have hmem : u.mem = s.mem := (congrArg State.mem hall :).trans (congrArg State.mem hs1 :)
  have hhold : u.hold = s.hold := (congrArg State.hold hall :).trans (congrArg State.hold hs1 :)
  have hucoh : u.coh = s.coh ++ [r.atEng] := (congrArg State.coh hall :).trans (congrArg (fun w : State => w.coh ++ [r.atEng]) hs1 :)
  have ht : t = ((u.learn s.cur q.id).landed s.cur q).setCtx s.cur.ref (fun c => c.deliver q.dst (extend signed p.len old)) := by
    show s.landScalar s.cur q = _
    unfold State.landScalar
    rw [hw]
    dsimp only
    rw [show (if acq.isSome then s.orderPoint s.cur true else s) = s1 from rfl, performAtomic_outside hp, hlast]
  obtain ⟨hl, hc, -⟩ := landed_learnt (s := s) (q := q) hn rfl hd hcur hmem hhold (extend signed p.len old)
  rw [← ht] at hl hc
  have hbytes : t.lastByte = u.lastByte := lastByte_of_data (hl.mem.trans hmem.symm) hc
  have hlen : new.length = p.len := length_natBytes _ _
  obtain ⟨hin, hout⟩ := lastByte_store (s := s) hmem hucoh
  refine ⟨hl, ?_, ?_⟩
  · rw [hbytes, ← hlen]
    exact hin
  · intro a ha
    rw [hbytes]
    exact hout a (by rw [show r.atEng.bytes.length = p.len from hlen]; exact ha)

end Sys2Proof.Machine
end

section
/-! PROOFS. O46, part 2: vector loads that land (R206, R207). -/
namespace Sys2Proof.Machine

/-! ## Tables in order -/

/-- Keys rising. -/
def Rising {α : Type} (t : Tbl α) : Prop := t.Pairwise (fun a b => a.1 < b.1)

theorem tbl_set_perm {α : Type} {t : Tbl α} {k : Nat} (v : α) (hk : k ∉ t.map (·.1)) : (Tbl.set t k v).Perm ((k, v) :: t) := by
  induction t with
  | nil => exact .refl _
  | cons e rest ih =>
    obtain ⟨j, w⟩ := e
    have hne : k ≠ j := fun h => hk (by simp [h])
    unfold Tbl.set
    by_cases hlt : k < j
    · rw [if_pos hlt]
    · rw [if_neg hlt, if_neg hne]
      exact ((ih fun h => hk (by simp [h])).cons _).trans (.swap _ _ _)

theorem mem_tbl_set {α : Type} {t : Tbl α} {k : Nat} {v : α} {x : Nat × α} (h : x ∈ Tbl.set t k v) : x = (k, v) ∨ x ∈ t := by
  induction t with
  | nil => exact .inl (by simpa [Tbl.set] using h)
  | cons e rest ih =>
    unfold Tbl.set at h
    split at h
    · simpa using h
    · split at h
      · rcases List.mem_cons.1 h with h | h
        · exact .inl h
        · exact .inr (List.mem_cons_of_mem _ h)
      · rcases List.mem_cons.1 h with h | h
        · exact .inr (h ▸ List.mem_cons_self ..)
        · exact (ih h).imp id (List.mem_cons_of_mem _)

theorem rising_set {α : Type} {t : Tbl α} (ht : Rising t) (k : Nat) (v : α) : Rising (Tbl.set t k v) := by
  induction t with
  | nil => simp [Tbl.set, Rising]
  | cons e rest ih =>
    obtain ⟨j, w⟩ := e
    obtain ⟨hj, hrest⟩ := List.pairwise_cons.1 ht
    unfold Tbl.set
    by_cases hlt : k < j
    · rw [if_pos hlt]
      refine List.pairwise_cons.2 ⟨fun x hx => ?_, ht⟩
      rcases List.mem_cons.1 hx with rfl | hx
      · exact hlt
      · exact hlt.trans (hj x hx)
    · rw [if_neg hlt]
      by_cases heq : k = j
      · rw [if_pos heq]
        exact List.pairwise_cons.2 ⟨fun x hx => heq ▸ hj x hx, hrest⟩
      · rw [if_neg heq]
        refine List.pairwise_cons.2 ⟨fun x hx => ?_, ih hrest⟩
        rcases mem_tbl_set hx with rfl | hx
        · show j < k
          omega
        · exact hj x hx

theorem addDone_rising {t : List (Nat × Nat)} (ht : Rising t) (l : List (Nat × Nat)) : Rising (addDone t l) :=
  foldl_holds (P := fun u : Tbl Nat => Rising u) l (fun _ x _ hu => rising_set hu x.1 x.2) ht

theorem addDone_perm (l t : List (Nat × Nat)) (hnd : ((t ++ l).map (·.1)).Nodup) : (addDone t l).Perm (t ++ l) := by
  induction l generalizing t with
  | nil => simp [addDone]
  | cons x xs ih =>
    have hx : x.1 ∉ t.map (·.1) := by
      rw [List.map_append, List.nodup_append] at hnd
      exact fun h => hnd.2.2 x.1 h x.1 (by simp) rfl
    have hp : (Tbl.set t x.1 x.2 ++ xs).Perm (t ++ x :: xs) :=
      ((tbl_set_perm x.2 hx).append_right xs).trans (List.perm_middle (a := x)).symm
    exact (ih (Tbl.set t x.1 x.2) (((hp.map (·.1)).nodup_iff).2 hnd)).trans hp

/-- Values added in any order stand in position order. -/
theorem addDone_of_perm {l r : List (Nat × Nat)} (hp : l.Perm r) (hr : Rising r) : addDone [] l = r := by
  have hnd : (r.map (·.1)).Nodup := (List.pairwise_map.2 (hr.imp fun h => Nat.ne_of_lt h))
  have h1 : (addDone [] l).Perm r := (addDone_perm l [] (((hp.map (·.1)).nodup_iff).2 hnd)).trans hp
  exact h1.eq_of_pairwise (fun a b _ _ hab hba => absurd hab (by omega)) (addDone_rising .nil l) hr

/-! ## The units of a load -/

theorem mem_distinct (l : List Nat) (x : Nat) : x ∈ distinct l ↔ x ∈ l := by
  induction l with
  | nil => rfl
  | cons y ys ih =>
    show x ∈ (if (distinct ys).contains y then distinct ys else y :: distinct ys) ↔ _
    split
    · rename_i h
      have hy : y ∈ distinct ys := by simpa using h
      constructor
      · exact fun hx => List.mem_cons_of_mem _ (ih.1 hx)
      · intro hx
        rcases List.mem_cons.1 hx with rfl | hx
        · exact hy
        · exact ih.2 hx
    · simp [ih]

theorem nodup_distinct (l : List Nat) : (distinct l).Nodup := by
  induction l with
  | nil => exact List.nodup_nil
  | cons y ys ih =>
    show (if (distinct ys).contains y then distinct ys else y :: distinct ys).Nodup
    split
    · exact ih
    · rename_i h
      exact List.nodup_cons.2 ⟨by simpa using h, ih⟩

/-- The units of a load are its elements, each once. -/
theorem loadUnits_perm (fmt : BitVec 4) {es : List ElemAccess} (hes : es.Pairwise (fun a b => a.pos < b.pos)) : (loadUnits fmt es).flatten.Perm es := by
  have hnd : es.Nodup := hes.imp fun h e => by subst e; omega
  unfold loadUnits
  split
  · refine (List.perm_ext_iff_of_nodup ?_ hnd).2 fun e => ?_
    · rw [List.nodup_flatten]
      constructor
      · intro u hu
        obtain ⟨k, -, rfl⟩ := List.mem_map.1 hu
        exact hnd.filter _
      · refine List.pairwise_map.2 ((nodup_distinct _).imp fun hne => ?_)
        intro e h1 h2
        exact hne ((of_decide_eq_true (List.mem_filter.1 h1).2).symm.trans (of_decide_eq_true (List.mem_filter.1 h2).2))
    · simp only [List.mem_flatten, List.mem_map, mem_distinct]
      constructor
      · rintro ⟨u, ⟨k, -, rfl⟩, he⟩
        exact List.mem_of_mem_filter he
      · exact fun he => ⟨_, ⟨e.block, ⟨e, he, rfl⟩, rfl⟩, List.mem_filter.2 ⟨he, by simp⟩⟩
  · rw [show (es.map fun e => [e]).flatten = es from List.flatMap_singleton' es]

theorem unitValues_eq (fmt : BitVec 4) (f : Piece → List Byte) (hf : ∀ p, (f p).length = p.len) (u : List ElemAccess) :
    unitValues fmt u ((u.flatMap (·.pieces)).flatMap f) = u.map (fun e => (e.pos, rawOf fmt e.bit (e.pieces.flatMap f))) := by
  induction u with
  | nil => rfl
  | cons e rest ih =>
    have hlen : (e.pieces.flatMap f).length = (e.pieces.map (·.len)).sum := by simp [List.length_flatMap, hf]
    unfold unitValues
    dsimp only
    rw [List.flatMap_cons, List.flatMap_append, ← hlen, List.take_left, List.drop_left, ih, List.map_cons]

section Read
variable {c : Context} {id : Nat} {fmt : BitVec 4}

/-- The bytes of a piece as a context sees them. -/
def State.pieceBytes (s : State) (c : Context) (id : Nat) (p : Piece) : List Byte := p.range.map (s.loadByte c id none p.page)

theorem pieceBytes_length (s : State) (p : Piece) : (s.pieceBytes c id p).length = p.len := by simp [State.pieceBytes, Piece.range]

theorem oldFor_fresh {s : State} {ps : List Piece} (h : ∀ p ∈ ps, p.page.mayBeOld = false) (hne : ps ≠ []) : s.oldFor c ps = none := by
  unfold State.oldFor
  rw [if_neg]
  obtain ⟨p, rest, rfl⟩ := List.exists_cons_of_ne_nil hne
  simp [h p (by simp)]

theorem readUnit_fresh {s : State} {ps : List Piece} (h : ∀ p ∈ ps, p.page.inL1 = false ∧ p.page.mayBeOld = false) :
    (s.readUnit c id ps).2 = ps.flatMap (s.pieceBytes c id) := by
  rw [(readUnit_outside fun p hp => (h p hp).1).2]
  by_cases hne : ps = []
  · rw [hne]
    rfl
  · rw [oldFor_fresh (fun p hp => (h p hp).2) hne]
    rfl

theorem pieceBytes_of_butAccess {s t : State} (h : t.butAccess = s.butAccess) {ps : List Piece} (hp : ∀ p ∈ ps, p.page.inL1 = false) :
    ps.flatMap (t.pieceBytes c id) = ps.flatMap (s.pieceBytes c id) := by
  refine List.flatMap_congr fun p hm => ?_
  unfold State.pieceBytes
  rw [loadByte_outside_access (hp p hm) h]

/-- Reading units one after another: the values of all of them added, and only counters and kept views changed. -/
theorem readUnits_fold {s : State} (us : List (List ElemAccess)) (hus : ∀ u ∈ us, ∀ e ∈ u, ∀ p ∈ e.pieces, p.page.inL1 = false ∧ p.page.mayBeOld = false)
    (t : State) (ht : t.butAccess = s.butAccess) (got : List (Nat × Nat)) :
    let r := us.foldl (fun acc u =>
      let r := acc.1.readUnit c id (u.flatMap (·.pieces))
      (r.1, addDone acc.2 (unitValues fmt u r.2))) (t, got)
    r.1.butAccess = s.butAccess ∧
      r.2 = addDone got (us.flatten.map (fun e => (e.pos, rawOf fmt e.bit (e.pieces.flatMap (s.pieceBytes c id))))) := by
  induction us generalizing t got with
  | nil => exact ⟨ht, rfl⟩
  | cons u rest ih =>
    have hu : ∀ p ∈ u.flatMap (·.pieces), p.page.inL1 = false ∧ p.page.mayBeOld = false := fun p hp => by
      obtain ⟨e, he, hpe⟩ := List.mem_flatMap.1 hp
      exact hus u (by simp) e he p hpe
    have hvals : unitValues fmt u (t.readUnit c id (u.flatMap (·.pieces))).2 =
        u.map (fun e => (e.pos, rawOf fmt e.bit (e.pieces.flatMap (s.pieceBytes c id)))) := by
      rw [readUnit_fresh hu, pieceBytes_of_butAccess ht fun p hp => (hu p hp).1]
      exact unitValues_eq fmt _ (pieceBytes_length s) u
    have hstate : (t.readUnit c id (u.flatMap (·.pieces))).1.butAccess = s.butAccess :=
      (congrArg (fun w : State => w.butAccess) (readUnit_outside fun p hp => (hu p hp).1).1 :).trans ht
    have := ih (fun v hv => hus v (List.mem_cons_of_mem _ hv)) _ hstate (addDone got (unitValues fmt u (t.readUnit c id (u.flatMap (·.pieces))).2))
    refine ⟨this.1, this.2.trans ?_⟩
    rw [hvals, List.flatten_cons, List.map_append]
    exact (List.foldl_append ..).symm

theorem readElems_fresh {s : State} {es : List ElemAccess} (h : ∀ e ∈ es, ∀ p ∈ e.pieces, p.page.inL1 = false ∧ p.page.mayBeOld = false)
    (hes : es.Pairwise (fun a b => a.pos < b.pos)) :
    (s.readElems c id fmt es).1.butAccess = s.butAccess ∧
      (s.readElems c id fmt es).2 = es.map (fun e => (e.pos, rawOf fmt e.bit (e.pieces.flatMap (s.pieceBytes c id)))) := by
  have hperm := loadUnits_perm fmt hes
  have hus : ∀ u ∈ loadUnits fmt es, ∀ e ∈ u, ∀ p ∈ e.pieces, p.page.inL1 = false ∧ p.page.mayBeOld = false := fun u hu e he =>
    h e (hperm.mem_iff.1 (List.mem_flatten.2 ⟨u, hu, he⟩))
  obtain ⟨h1, h2⟩ := readUnits_fold (c := c) (id := id) (fmt := fmt) (loadUnits fmt es) hus s rfl []
  refine ⟨h1, h2.trans (addDone_of_perm (hperm.map _) ?_)⟩
  exact List.pairwise_map.2 hes

end Read

/-! ## A vector load lands -/

/-- A context in which the tile of a vector load, result number n, is written whole and its flags have accrued (R127, R206). -/
def Context.tileLanded (c : Context) (n : Nat) (flags : BitVec 5) (d : BitVec 4) (t : Tile) : Context :=
  ({ c with pend := c.pend.filter (fun x => x.id ≠ n), fcsr := putEnv c.fcsr { envOf c.fcsr with flags := flags } } : Context).setTile d t

theorem tileLanded_learnt {s u : State} (hcur : u.cur = s.cur) (hmem : u.mem = s.mem) (hhold : u.hold = s.hold) (n : Nat) (flags : BitVec 5) (d : BitVec 4)
    (tile : Tile) :
    let t := (u.learn s.cur n).setCtx s.cur.ref (fun c => c.tileLanded n flags d tile)
    LandedIn s t n (({ s.cur with fcsr := putEnv s.cur.fcsr { envOf s.cur.fcsr with flags := flags } } : Context).setTile d tile) ∧
      t.coh.map StoreRec.data = u.coh.map StoreRec.data := by
  obtain ⟨lmem, -, lhold, lcoh, lcur, lids⟩ := learn_learnt (s := u) (c := s.cur) (by rw [hcur]) n
  set l := u.learn s.cur n
  rw [hcur] at lcur
  have href : s.cur.ref = l.cur.ref := by rw [lcur]; rfl
  dsimp only
  rw [href, setCtx_cur_ref]
  refine ⟨?_, lcoh⟩
  have hc : l.cur.tileLanded n flags d tile = (s.cur.queued l.cur.pend l.cur.copyq).tileLanded n flags d tile :=
    congrArg (fun c : Context => c.tileLanded n flags d tile) lcur
  have hids : (l.cur.pend.filter (fun x => decide (x.id ≠ n))).map (·.id) = (s.cur.pend.filter (fun x => decide (x.id ≠ n))).map (·.id) := by
    rw [filter_ids, filter_ids, lids, hcur]
  have hholds : l.hold.map (fun r => (r.id, r.pa, r.bytes)) = s.hold.map (fun r => (r.id, r.pa, r.bytes)) := by
    have := congrArg (List.map fun x : Nat × Nat × List Byte × Option Scope => (x.1, x.2.1, x.2.2.1)) lhold
    rw [List.map_map, List.map_map, hhold] at this
    exact this
  unfold LandedIn
  rw [setCur_cur, hc]
  exact ⟨rfl, rfl, rfl, rfl, rfl, rfl, rfl, hids, lmem.trans hmem, hholds⟩

theorem landVector_spec {s : State} {q : Pend} {base : Tile} {es : List ElemAccess} {k : Conv} {d : BitVec 4} (hd : q.dst = .tile d)
    (h : ∀ e ∈ es, ∀ p ∈ e.pieces, p.page.inL1 = false ∧ p.page.mayBeOld = false) (hes : es.Pairwise (fun a b => a.pos < b.pos)) :
    let raws := es.map (fun e => (e.pos, rawOf k.fmt e.bit (e.pieces.flatMap (s.pieceBytes s.cur q.id))))
    let r := loadElems k raws base ⟨k.mode, k.seed, 0⟩
    let t := s.landVector s.cur q base [] es k
    LandedIn s t q.id (({ s.cur with fcsr := putEnv s.cur.fcsr { envOf s.cur.fcsr with flags := r.2.flags } } : Context).setTile d r.1) ∧ Unwritten s t := by
  intro raws r t
  obtain ⟨hbut, hraws⟩ := readElems_fresh (c := s.cur) (id := q.id) (fmt := k.fmt) h hes
  have hadd : addDone [] (s.readElems s.cur q.id k.fmt es).2 = raws := by
    rw [hraws]
    exact addDone_of_perm (.refl _) (List.pairwise_map.2 hes)
  set u := (s.readElems s.cur q.id k.fmt es).1.meterPieces s.cur (es.flatMap (·.pieces)) with hu
  have hub : u.butAccess = s.butAccess := (congrArg (fun w : State => w.butAccess) (meterPieces_but_meter _ _ _) :).trans hbut
  have ht : t = (u.learn s.cur q.id).setCtx s.cur.ref (fun c => c.tileLanded q.id r.2.flags d r.1) := by
    show s.landVector s.cur q base [] es k = _
    unfold State.landVector
    dsimp only
    rw [hadd, hd]
    rfl
  obtain ⟨hl, hc⟩ := tileLanded_learnt (s := s) (u := u) (congrArg State.cur hub :) (congrArg State.mem hub :) (congrArg State.hold hub :) q.id r.2.flags d r.1
  rw [← ht] at hl hc
  exact ⟨hl, unwritten_of_data hl.mem (hc.trans (congrArg (fun w : State => w.coh.map StoreRec.data) hub :))⟩

/-! ## Results that land -/

theorem results_land (s : State) (n : Nat) (q : Pend) (hq : s.cur.pend.find? (fun x => decide (x.id = n)) = some q) :
    let c := s.cur
    let own (p : Piece) : Bool := p.page.inL1 || p.page.mayBeOld
    let bytes (old : Option OldCopy) (p : Piece) : List Byte := p.range.map (s.loadByte c n old p.page)
    (s.cycle < q.at_ → exec (.resultLands c.ref n) s = .next s) ∧ (s.mayLand c q = false → exec (.resultLands c.ref n) s = .next s) ∧
    (∀ p, s.mayLand c q = true → q.pieces.find? (fun p => s.poisoned p.pa) = some p → exec (.resultLands c.ref n) s = .next (s.attribute p.pa c.ref)) ∧
    (s.mayLand c q = true → q.note = none → (∀ p ∈ q.pieces, s.poisoned p.pa = false) →
      (∀ (v : Word) (d : BitVec 5), q.what = .value v → q.dst = .s d → exec (.resultLands c.ref n) s =
        .next (s.setCur (fun c => ({ c with pend := c.pend.filter (fun x => decide (x.id ≠ n)) } : Context).putS d v))) ∧
      (∀ (p : Piece) (signed : Bool) (d : BitVec 5), q.what = .load [(p, none)] signed none → q.dst = .s d → p.page.inL1 = false →
        ∃ t, exec (.resultLands c.ref n) s = .next t ∧ LandedIn s t n (c.putS d (extend signed p.len (leNat (bytes (s.oldFor c [p]) p)))) ∧ Unwritten s t) ∧
      (∀ (p : Piece) (signed : Bool) (sc : Scope) (d : BitVec 5), q.what = .load [(p, none)] signed (some sc) → q.dst = .s d → p.page.inL1 = false →
        ∃ t, exec (.resultLands c.ref n) s = .next t ∧ LandedIn s t n (c.putS d (extend signed p.len (leNat (bytes none p)))) ∧ Unwritten s t ∧
          ∀ o ∈ t.olds, o.by_ ≠ c.ref) ∧
      (∀ (p : Piece) (op : AtomOp) (v : Word) (signed : Bool) (acq : Option Scope) (d : BitVec 5) (rels : List Release), q.what = .atomic p op v signed acq rels →
        q.dst = .s d → p.page.inL1 = false → p.page.ckpt = false → Tbl.get? s.dortas.captures (s.vfOf c.slot) = none →
        let old := leNat (bytesFrom s.lastByte p.pa p.len)
        ∃ t, exec (.resultLands c.ref n) s = .next t ∧ LandedIn s t n (c.putS d (extend signed p.len old)) ∧
          bytesFrom t.lastByte p.pa p.len = natBytes (atomNew op p.len old v.toNat) p.len ∧
          (∀ a, ¬(p.pa ≤ a ∧ a < p.pa + p.len) → t.lastByte a = s.lastByte a)) ∧
      (∀ (base : Tile) (es : List ElemAccess) (k : Conv) (d : BitVec 4), q.what = .vload base [] es k → q.dst = .tile d → (∀ p ∈ q.pieces, own p = false) →
        es.Pairwise (fun a b => a.pos < b.pos) →
        let raws := es.map (fun e => (e.pos, rawOf k.fmt e.bit (e.pieces.flatMap (bytes none))))
        let r := loadElems k raws base ⟨k.mode, k.seed, 0⟩
        ∃ t, exec (.resultLands c.ref n) s = .next t ∧
          LandedIn s t n (({ c with fcsr := putEnv c.fcsr { envOf c.fcsr with flags := r.2.flags } } : Context).setTile d r.1) ∧ Unwritten s t)) := by
  intro c own bytes
  have hid : q.id = n := pend_id hq
  refine ⟨fun h => resultLands_early hq (mayLand_early h), fun h => resultLands_early hq h, fun p h hp => resultLands_poisoned hq h hp, ?_⟩
  subst hid
  intro h hn hp
  refine ⟨?_, ?_, ?_, ?_, ?_⟩
  · intro v d hw hd
    refine (resultLands_scalar hq h hp (by simp [hw])).trans ?_
    rw [landScalar_value hn hw hd]
  · intro p signed d hw hd hL1
    obtain ⟨hl, hun, -⟩ := landScalar_load_spec hw hn hd hL1
    exact ⟨_, resultLands_scalar hq h hp (by simp [hw]), hl, hun⟩
  · intro p signed sc d hw hd hL1
    obtain ⟨hl, hun, ho⟩ := landScalar_load_spec hw hn hd hL1
    have hgone : ∀ o ∈ (s.orderPoint s.cur true).olds, o.by_ ≠ s.cur.ref := fun o ho => of_decide_eq_true (List.mem_filter.1 ho).2
    refine ⟨_, resultLands_scalar hq h hp (by simp [hw]), ?_, hun, ?_⟩
    · have hnone : (s.orderPoint s.cur true).oldFor s.cur [p] = none := oldFor_none hgone
      rw [show (if (some sc).isSome = true then s.orderPoint s.cur true else s) = s.orderPoint s.cur true from rfl, hnone] at hl
      exact hl
    · rw [ho]
      exact loaded_no_olds hL1 hgone
  · intro p op v signed acq d rels hw hd hL1 hck hcap
    exact ⟨_, resultLands_scalar hq h hp (by simp [hw]), landScalar_atomic_spec hw hn hd hL1 hck hcap⟩
  · intro base es k d hw hd hown hes
    have hfresh : ∀ e ∈ es, ∀ p ∈ e.pieces, p.page.inL1 = false ∧ p.page.mayBeOld = false := fun e he p hpe => by
      have hmem : p ∈ q.pieces := by
        unfold Pend.pieces
        rw [hw]
        exact List.mem_flatMap.2 ⟨e, he, hpe⟩
      exact Bool.or_eq_false_iff.1 (hown p hmem)
    exact ⟨_, resultLands_vector hq h hp hw, landVector_spec hd hfresh hes⟩

end Sys2Proof.Machine
end

section
/-! PROOFS. O46, part 3: stores that leave the hold buffer and merge, sectors written back, bank switches (R148, R281 to R283, R301, R307). -/
namespace Sys2Proof.Machine

/-! ## Marked sectors -/

/-- An instance among those marked is marked (R346). -/
theorem markContained_marks {s : State} {l : List Nat} {k : Nat} {x : Slot} (hk : k ∈ l) (hx : EntryIs s k x) (hkill : x.kill = none) :
    ∃ y, EntryIs (s.markContained l) k y ∧ y.kill = some .rollback := by
  unfold State.markContained
  refine foldl_reaches (key := fun j => j) (k := k) (P := fun t : State => EntryIs t k x) (Q := fun t : State => ∃ y, EntryIs t k y ∧ y.kill = some .rollback)
    ?_ ?_ ?_ l (by simpa using hk) hx
  · intro t j hj ht
    split
    · split
      · exact (tbl_get_set_ne _ _ (Ne.symm hj)).trans ht
      · exact ht
    · exact ht
  · rintro t j rfl ht
    rw [show Tbl.get? t.slots j = some x from ht]
    exact ⟨{ x with kill := some .rollback }, by simp [EntryIs, hkill], rfl⟩
  · rintro t j ⟨y, hy, hyk⟩
    by_cases hj : k = j
    · subst hj
      rw [show Tbl.get? t.slots k = some y from hy]
      refine ⟨y, ?_, hyk⟩
      simp only [hyk, Option.isNone_some, Bool.false_eq_true, if_false]
      exact hy
    · refine ⟨y, ?_, hyk⟩
      split
      · split
        · exact (tbl_get_set_ne _ _ hj).trans hy
        · exact hy
      · exact hy

theorem attribute_but_slots (s : State) (pa : Nat) (r : CtxRef) : (s.attribute pa r).butSlots = s.butSlots := markContained_but_slots s _

/-! ## The hold buffer -/

/-- The state with the store of a number out of the hold buffer. -/
def State.unheld (s : State) (id : Nat) : State := { s with hold := s.hold.filter (fun q => decide (q.id ≠ id)) }

section Hold
variable {s : State} {r : StoreRec} (hr : s.hold.filter (fun q => decide (q.id = r.id)) = [r])
include hr

theorem hold_find : s.hold.find? (fun q => decide (q.id = r.id)) = some r := by
  rw [← List.head?_filter, hr]
  rfl

variable (hloc : r.page.remote = none)
include hloc

theorem holdBufferLeave_stays (h : s.mayLeave r = false) : execHoldBufferLeave r.id s = .next s := by
  unfold execHoldBufferLeave
  rw [hold_find hr]
  dsimp only
  rw [hr, hloc]
  by_cases hp : s.poisoned r.pa = true
  · simp [hp, h]
  · simp [hp, State.leaveHold, hr, h]

theorem holdBufferLeave_poisoned (h : s.mayLeave r = true) (hp : s.poisoned r.pa = true) :
    execHoldBufferLeave r.id s = .next ((s.unheld r.id).attribute r.pa r.by_) := by
  unfold execHoldBufferLeave
  rw [hold_find hr]
  dsimp only
  rw [hr, hloc, if_neg (by simp), show ([r].find? fun q => s.poisoned q.pa) = some r by simp [hp]]
  dsimp only
  rw [if_pos (by simp [h])]
  rfl

theorem holdBufferLeave_performs (h : s.mayLeave r = true) (hp : s.poisoned r.pa = false) :
    execHoldBufferLeave r.id s = .next ((s.unheld r.id).performStore r) := by
  unfold execHoldBufferLeave
  rw [hold_find hr]
  dsimp only
  rw [hr, hloc, if_neg (by simp), show ([r].find? fun q => s.poisoned q.pa) = none by simp [hp]]
  dsimp only
  unfold State.leaveHold
  dsimp only
  rw [hr, if_pos (by simp [h])]
  rfl

end Hold

/-- What a store costs is counted as it is performed (R183). -/
def State.storeMetered (s : State) (r : StoreRec) : State := s.meterBytes r.by_.slot (decide (r.loc.eng < 256)) r.pa r.bytes.length

theorem storeMetered_but_meter (s : State) (r : StoreRec) : (s.storeMetered r).butMeter = s.butMeter := meterBytes_but_meter _ _ _ _ _

theorem performStore_home {s : State} {r : StoreRec} (h : r.page.inL1 = false) : s.performStore r = (s.storeMetered r).place r := by
  unfold State.performStore
  have : (s.storeMetered r).l1Of r = none := by simp [State.l1Of, h]
  dsimp only
  rw [show s.meterBytes r.by_.slot (decide (r.loc.eng < 256)) r.pa r.bytes.length = s.storeMetered r from rfl, this]

theorem ctx?_of_butMeter {s t : State} (h : t.butMeter = s.butMeter) (r : CtxRef) : t.ctx? r = s.ctx? r := (congrArg (fun u : State => u.ctx? r) h :)

theorem performStore_l1 {s : State} {r : StoreRec} {core : Nat} (h : s.l1Of r = some core) :
    ∃ c, s.ctx? r.by_ = some c ∧ s.performStore r = (s.storeMetered r).placePriv c core r := by
  have hl : (s.storeMetered r).l1Of r = some core := (congrArg (fun u : State => u.l1Of r) (storeMetered_but_meter s r) :).trans h
  have hin : r.page.inL1 = true := by
    unfold State.l1Of at h
    split at h
    · assumption
    · cases h
  unfold State.l1Of at h
  rw [if_pos hin] at h
  obtain ⟨c, hc, -⟩ := Option.bind_eq_some_iff.1 h
  refine ⟨c, hc, ?_⟩
  unfold State.performStore
  dsimp only
  rw [show s.meterBytes r.by_.slot (decide (r.loc.eng < 256)) r.pa r.bytes.length = s.storeMetered r from rfl, hl,
    ctx?_of_butMeter (storeMetered_but_meter s r), hc]

/-! ## Sectors of an L1 -/

/-- The state but for its L1 sectors. -/
def State.butL1 (s : State) : State := { s with l1 := [] }

theorem l1Fill_but_l1 (s : State) (c : Context) (core pa : Nat) (p : PageInfo) : (s.l1Fill c core pa p).butL1 = s.butL1 := by
  unfold State.l1Fill
  split <;> rfl

/-- A sector is there once it has been filled, and it is whole. -/
theorem l1Fill_find {s : State} (h : ∀ x ∈ s.l1, x.bytes.length = 32) (c : Context) (core pa : Nat) (p : PageInfo) :
    ∃ y, (s.l1Fill c core pa p).l1Find core pa = some y ∧ y.bytes.length = 32 := by
  unfold State.l1Fill
  split
  · rename_i y hy
    exact ⟨y, hy, h y (List.mem_of_find?_eq_some hy)⟩
  · rename_i hnone
    unfold State.l1Find at hnone ⊢
    refine ⟨_, by rw [List.find?_append, hnone]; simp; rfl, ?_⟩
    simp [bytesFrom]

/-- A sector with a store in it. -/
def L1Sector.written (x : L1Sector) (r : StoreRec) : L1Sector :=
  { x with
    bytes := overlay x.bytes (r.pa % 32) r.bytes, dirty := true, by_ := r.by_, loc := r.loc, ckpt := x.ckpt || r.page.ckpt
    stores := x.stores ++ (r.by_, r.id) :: r.also, rels := x.rels ++ r.rels, so := x.so || r.page.ord == .so }

theorem l1Write_find {s : State} {core : Nat} {r : StoreRec} {y : L1Sector} (h : s.l1Find core r.pa = some y) :
    (s.l1Write core r).l1Find core r.pa = some (y.written r) := by
  unfold State.l1Find at h ⊢
  have hy : (decide (y.core = core) && decide (y.pa = r.pa / 32 * 32)) = true := by simpa using List.find?_some h
  show (s.l1.map (fun x => if x.core = core && x.pa = r.pa / 32 * 32 then x.written r else x)).find? _ = _
  rw [List.find?_map]
  have hp : ((fun x : L1Sector => decide (x.core = core) && decide (x.pa = r.pa / 32 * 32)) ∘
      fun x => if (decide (x.core = core) && decide (x.pa = r.pa / 32 * 32)) = true then x.written r else x) =
      fun x => decide (x.core = core) && decide (x.pa = r.pa / 32 * 32) := by
    funext x
    rw [Function.comp_apply]
    split <;> rfl
  rw [hp, h, Option.map_some, if_pos hy]

theorem overlay_getElem? {img bs : List Byte} {off : Nat} (h : off ≤ img.length) {i : Nat} (hi : i < bs.length) :
    (overlay img off bs)[off + i]? = bs[i]? := by
  unfold overlay
  rw [List.append_assoc, List.getElem?_append_right (by simp), List.length_take, Nat.min_eq_left h, Nat.add_sub_cancel_left,
    List.getElem?_append_left hi]

theorem holds_leave (s : State) (r : StoreRec) (hr : s.hold.filter (fun q => decide (q.id = r.id)) = [r]) (hloc : r.page.remote = none) :
    (s.mayLeave r = false → exec (.holdBufferLeave r.id) s = .next s) ∧
    (s.mayLeave r = true → s.poisoned r.pa = false → r.page.inL1 = false → r.page.ckpt = false →
      ∃ t, exec (.holdBufferLeave r.id) s = .next t ∧ t.hold = s.hold.filter (fun q => decide (q.id ≠ r.id)) ∧ t.coh = s.coh ++ [{ r with ps := some .eng }] ∧
        t.mem = s.mem ∧ t.cur = s.cur) ∧
    (∀ core, s.mayLeave r = true → s.poisoned r.pa = false → s.l1Of r = some core → (∀ x ∈ s.l1, x.bytes.length = 32) →
      ∃ (t : State) (x : L1Sector), exec (.holdBufferLeave r.id) s = .next t ∧ t.l1Find core r.pa = some x ∧ x.dirty = true ∧ (r.by_, r.id) ∈ x.stores ∧
        (∀ i, i < r.bytes.length → x.bytes[r.pa % 32 + i]? = r.bytes[i]?) ∧ t.coh = s.coh ∧ t.mem = s.mem) ∧
    (s.mayLeave r = true → s.poisoned r.pa = true →
      ∃ t, exec (.holdBufferLeave r.id) s = .next t ∧ t.hold = s.hold.filter (fun q => decide (q.id ≠ r.id)) ∧ t.coh = s.coh ∧ t.mem = s.mem ∧
        ∀ x, EntryIs s r.by_.slot x → x.kill = none → ∃ y, EntryIs t r.by_.slot y ∧ y.kill = some .rollback) := by
  refine ⟨holdBufferLeave_stays hr hloc, ?_, ?_, ?_⟩
  · intro h hp hin hck
    refine ⟨_, holdBufferLeave_performs hr hloc h hp, ?_⟩
    rw [performStore_home hin]
    have hb := place_unmarked (s := (s.unheld r.id).storeMetered r) (r := r) hck
    have hm := storeMetered_but_meter (s.unheld r.id) r
    exact ⟨(congrArg State.hold hb :).trans (congrArg State.hold hm :), (congrArg State.coh hb :).trans (congrArg (fun u : State => u.coh ++ [r.atEng]) hm :),
      (congrArg State.mem hb :).trans (congrArg State.mem hm :), (congrArg State.cur hb :).trans (congrArg State.cur hm :)⟩
  · intro core h hp hcore hlen
    obtain ⟨c, -, hperf⟩ := performStore_l1 (s := s.unheld r.id) (r := r) (core := core) hcore
    have hm := storeMetered_but_meter (s.unheld r.id) r
    have hl1 : ((s.unheld r.id).storeMetered r).l1 = s.l1 := (congrArg State.l1 hm :)
    obtain ⟨y, hy, hylen⟩ := l1Fill_find (s := (s.unheld r.id).storeMetered r) (by rw [hl1]; exact hlen) c core r.pa r.page
    have hf := l1Fill_but_l1 ((s.unheld r.id).storeMetered r) c core r.pa r.page
    refine ⟨_, y.written r, holdBufferLeave_performs hr hloc h hp, ?_⟩
    rw [hperf]
    refine ⟨l1Write_find hy, rfl, by simp [L1Sector.written], ?_, (congrArg State.coh hf :).trans (congrArg State.coh hm :),
      (congrArg State.mem hf :).trans (congrArg State.mem hm :)⟩
    intro i hi
    exact overlay_getElem? (by rw [hylen]; exact (Nat.mod_lt _ (by decide)).le) hi
  · intro h hp
    have hb := attribute_but_slots (s.unheld r.id) r.pa r.by_
    exact ⟨_, holdBufferLeave_poisoned hr hloc h hp, (congrArg State.hold hb :), (congrArg State.coh hb :), (congrArg State.mem hb :),
      fun x hx hk => markContained_marks (by simp) hx hk⟩

/-! ## Merging -/

theorem stores_merge (s : State) (a b : StoreRec) (ha : s.hold.find? (fun r => decide (r.id = a.id)) = some a)
    (hb : s.hold.find? (fun r => decide (r.id = b.id) && decide (r.pa / 32 = a.pa / 32)) = some b) :
    (s.mayMerge a b = true → b.page.remote = none → exec (.storeMerge a.id b.id) s =
      .next { s with hold := s.hold.map (fun r => if r.id = a.id then { r with id := b.id, also := (r.by_, a.id) :: r.also } else r) }) ∧
    (a.by_ ≠ b.by_ ∨ a.page.ord = .so ∨ b.page.ord = .so ∨ a.sent = true ∨ b.sent = true ∨ b.id ≤ a.id → exec (.storeMerge a.id b.id) s = .next s) := by
  have hexec : exec (.storeMerge a.id b.id) s = .next (if s.mayMerge a b then s.mergeStores a b else s) := by
    show execStoreMerge a.id b.id s = _
    unfold execStoreMerge
    rw [ha]
    dsimp only
    rw [hb]
  rw [hexec]
  constructor
  · intro h hloc
    simp [h, State.mergeStores, hloc]
  · intro h
    have hno : s.mayMerge a b = false := by
      unfold State.mayMerge
      rcases h with h | h | h | h | h | h <;> simp [h]
    simp [hno]

/-! ## Sectors written back -/

theorem l1Find_sector (s : State) (core n : Nat) {x : L1Sector} (h : s.l1Find core (32 * n) = some x) : x.core = core ∧ x.pa = 32 * n := by
  have hx := List.find?_some h
  simp only [Bool.and_eq_true, decide_eq_true_eq] at hx
  exact ⟨hx.1, by omega⟩

/-- A sector kept clean. -/
def L1Sector.cleaned (x : L1Sector) : L1Sector := { x with dirty := false, stores := [], rels := [], so := false }

/-- The store that a sector is written back as (R283). -/
def L1Sector.asStore (x : L1Sector) (id : Nat) : StoreRec :=
  { StoreRec.new id x.by_ x.loc x.pa x.bytes ⟨x.pa, if x.so then .so else .rc, .priv, 0, false, x.ckpt, none⟩ with
    also := x.stores, rels := x.rels, ps := some .eng }

theorem writeback_unmarked {s : State} {x : L1Sector} (hck : x.ckpt = false) (ho : State.inOrder s.coh x.loc x.pa 32 .eng = true) :
    (s.writeback x).coh = s.coh ++ [x.asStore s.nextId] ∧ (s.writeback x).mem = s.mem ∧
      (s.writeback x).l1 = s.l1.map (fun y => if y.core = x.core ∧ y.pa = x.pa then y.cleaned else y) := by
  unfold State.writeback L1Sector.asStore
  rw [hck, logUndo_unmarked]
  dsimp only
  rw [ho]
  exact ⟨rfl, rfl, rfl⟩

theorem sector_writeback (s : State) (core n : Nat) :
    (s.l1Find core (32 * n) = none → exec (.sectorWriteback core n) s = .next s) ∧
    (∀ x, s.l1Find core (32 * n) = some x →
      (x.dirty = false → exec (.sectorWriteback core n) s = .next { s with l1 := s.l1.filter (fun y => !(y.core = core && y.pa = 32 * n)) }) ∧
      (x.dirty = true → s.poisoned x.pa = false → s.mayWriteBack x = false → exec (.sectorWriteback core n) s = .next s) ∧
      (x.dirty = true → s.poisoned x.pa = false → s.mayWriteBack x = true → x.ckpt = false →
        ∃ (t : State) (r : StoreRec), exec (.sectorWriteback core n) s = .next t ∧ t.coh = s.coh ++ [r] ∧
        r.pa = 32 * n ∧ r.bytes = x.bytes ∧ r.ps = some .eng ∧ r.id = s.nextId ∧ r.also = x.stores ∧ r.rels = x.rels ∧ t.mem = s.mem ∧
        t.l1 = s.l1.map (fun y => if y.core = core ∧ y.pa = 32 * n then { y with dirty := false, stores := [], rels := [], so := false } else y))) := by
  have hexec : exec (.sectorWriteback core n) s = execSectorWriteback core n s := rfl
  rw [hexec]
  unfold execSectorWriteback
  constructor
  · intro h
    rw [h]
  · intro x hx
    obtain ⟨hcore, hpa⟩ := l1Find_sector s core n hx
    rw [hx]
    dsimp only
    refine ⟨?_, ?_, ?_⟩
    · intro hd
      rw [hd, if_pos (by decide)]
      unfold State.l1Drop
      rw [hpa, Nat.mul_div_cancel_left n (by decide), Nat.mul_comm n 32]
    · intro hd hp hw
      simp [hd, hp, hw]
    · intro hd hp hw hck
      rw [hd, hp, hw]
      have ho : State.inOrder s.coh x.loc x.pa 32 .eng = true := by
        unfold State.mayWriteBack at hw
        exact (Bool.and_eq_true_iff.1 hw).2
      obtain ⟨hcoh, hmem, hl1⟩ := writeback_unmarked hck ho
      rw [hcore, hpa] at hl1
      exact ⟨s.writeback x, x.asStore s.nextId, rfl, hcoh, hpa, rfl, rfl, rfl, rfl, rfl, hmem, hl1⟩

/-! ## Bank switches -/

theorem bank_switch (s : State) (g b : Nat) : let k := s.bank g b
    (k.busy = false ∨ s.switchReady g b = false → exec (.bankSwitchDone g b) s = .next s) ∧
    (k.busy = true → s.switchReady g b = true → ∃ t, exec (.bankSwitchDone g b) s = .next t ∧ (t.bank g b).mode = k.toMode ∧ (t.bank g b).route = k.toRoute ∧
      (t.bank g b).busy = false ∧ (∀ a, inBank g b a = false → t.mem.get a = s.mem.get a) ∧
      ((k.mode = 0 ∧ k.toMode ≠ 0) ∨ (k.mode = 1 ∧ k.toMode = 2) ∨ (k.mode = 2 ∧ k.toMode = 1) → ∀ a, inBank g b a = true → t.mem.get a = 0)) := by
  intro k
  have hexec : exec (.bankSwitchDone g b) s = execBankSwitchDone g b s := rfl
  rw [hexec]
  unfold execBankSwitchDone
  constructor
  · intro h
    have hk : s.bank g b = k := rfl
    rcases h with h | h <;> simp [hk, h]
  · intro hb hr
    have hmem (a : Nat) : Memory.get (s.mem.filter (fun c => !inBank g b c.1)) a = if (!inBank g b a) = true then s.mem.get a else 0 :=
      memory_get_filter s.mem (fun a => !inBank g b a) a
    dsimp only
    rw [show s.bank g b = k from rfl, if_neg (by simp [hb, hr])]
    refine ⟨_, rfl, ?_⟩
    split
    · refine ⟨by simp [State.bank], by simp [State.bank], by simp [State.bank], fun a ha => ?_, fun _ a ha => ?_⟩
      · exact (hmem a).trans (by simp [ha])
      · exact (hmem a).trans (by simp [ha])
    · rename_i h
      exact ⟨by simp [State.bank], by simp [State.bank], by simp [State.bank], fun a ha => rfl, fun h' => absurd h' h⟩

end Sys2Proof.Machine
end

section
/-! PROOFS. O46, part 4: stores that rise scope by scope (R279, R284, R290). -/
namespace Sys2Proof.Machine

/-- The store of a number at another stage. -/
def StoreRec.raised (r : StoreRec) (id : Nat) (sc : Scope) : StoreRec := if r.id = id then { r with ps := some sc } else r

/-- The state in which the store of a number is at another stage. -/
def State.raised (s : State) (id : Nat) (sc : Scope) : State := { s with coh := s.coh.map (fun q => q.raised id sc) }

@[simp] theorem raised_id (r : StoreRec) (id : Nat) (sc : Scope) : (r.raised id sc).id = r.id := by unfold StoreRec.raised; split <;> rfl

theorem raised_raised (s : State) (id : Nat) (a b : Scope) : (s.raised id a).raised id b = s.raised id b := by
  unfold State.raised
  dsimp only
  rw [List.map_map]
  refine congrArg (fun l => ({ s with coh := l } : State)) (List.map_congr_left fun q _ => ?_)
  rw [Function.comp_apply]
  unfold StoreRec.raised
  by_cases hid : q.id = id <;> simp [hid]

/-- One store of its number in coherence order, no release, at stage p, with no other store to its bytes. -/
structure Lone (s : State) (r : StoreRec) (p : Scope) : Prop where
  only : s.coh.filter (fun q => decide (q.id = r.id)) = [r]
  rels : r.rels = []
  stage : r.ps = some p
  apart : ∀ q ∈ s.coh, q.id ≠ r.id → q.overlaps r = false

namespace Lone
variable {s : State} {r : StoreRec} {p : Scope} (h : Lone s r p)
include h

theorem eq_of_id {q : StoreRec} (hq : q ∈ s.coh) (hid : q.id = r.id) : q = r := by
  have : q ∈ s.coh.filter (fun q => decide (q.id = r.id)) := List.mem_filter.2 ⟨hq, by simpa using hid⟩
  rw [h.only] at this
  simpa using this

theorem raised_self : s.raised r.id p = s := by
  have : s.coh.map (fun q => q.raised r.id p) = s.coh := by
    refine List.map_congr_left (fun q hq => ?_) |>.trans (List.map_id' _)
    unfold StoreRec.raised
    split
    · rename_i hid
      rw [h.eq_of_id hq hid, ← h.stage]
    · rfl
  unfold State.raised
  rw [this]

theorem raised (a : Scope) : Lone (s.raised r.id a) (r.raised r.id a) a := by
  have hr : r.raised r.id a = { r with ps := some a } := if_pos rfl
  refine ⟨?_, by rw [hr]; exact h.rels, by rw [hr], ?_⟩
  · show (s.coh.map (fun q => q.raised r.id a)).filter _ = _
    rw [List.filter_map, raised_id]
    have : ((fun q : StoreRec => decide (q.id = r.id)) ∘ fun q : StoreRec => q.raised r.id a) = fun q : StoreRec => decide (q.id = r.id) := by
      funext q
      rw [Function.comp_apply, raised_id]
    rw [this, h.only]
    rfl
  · intro q hq hne
    obtain ⟨q', hq', rfl⟩ := List.mem_map.1 hq
    rw [raised_id, raised_id] at hne
    rw [hr]
    have : q'.raised r.id a = q' := if_neg hne
    rw [this]
    exact h.apart q' hq' hne

theorem inOrder (sc : Scope) : State.inOrder (s.coh.takeWhile (fun q => q.id ≠ r.id)) r.loc r.pa r.bytes.length sc = true := by
  unfold State.inOrder
  refine List.all_eq_true.2 fun q hq => ?_
  have hap : q.overlaps r = false := h.apart q ((List.takeWhile_prefix _).subset hq) (by simpa using List.mem_takeWhile_imp hq)
  unfold StoreRec.overlaps at hap
  rw [hap]
  rfl

theorem mayRise_iff (sc : Scope) : s.mayRise r sc = decide (Scope.rank sc = Scope.rank p + 1) := by
  unfold State.mayRise
  rw [h.stage, h.inOrder, h.rels]
  simp [State.published]

theorem rise_skips {sc : Scope} (hsc : Scope.rank sc ≤ Scope.rank p) : s.rise r.id sc = s := by
  unfold State.rise
  dsimp only
  rw [h.only]
  have : s.mayRise r sc = false := (h.mayRise_iff sc).trans (decide_eq_false (by omega))
  simp [this]

theorem rise_next {sc : Scope} (hsc : Scope.rank sc = Scope.rank p + 1) (hne : sc ≠ .sys) : s.rise r.id sc = s.raised r.id sc := by
  have : s.mayRise r sc = true := (h.mayRise_iff sc).trans (decide_eq_true hsc)
  unfold State.rise
  dsimp only
  rw [h.only, if_pos (by simp [this]), if_neg hne]
  simp [State.postNotes, h.rels]
  rfl

theorem rise_sys (hp : p = .fab) : s.rise r.id .sys =
    { s with mem := s.mem.setBytes r.pa r.bytes, coh := s.coh.filter (fun q => decide (q.id ≠ r.id)) } := by
  have : s.mayRise r .sys = true := by rw [h.mayRise_iff, hp]; rfl
  unfold State.rise
  dsimp only
  rw [h.only, if_pos (by simp [this]), if_pos rfl]
  simp [State.postNotes, h.rels]

end Lone

/-- The stages above eng up to a scope. -/
def stagesTo (sc : Scope) : List Scope := [Scope.grp, .dev, .fab, .sys].filter (fun x => decide (Scope.rank x ≤ Scope.rank sc))

theorem rise_stages_below {s : State} {r : StoreRec} {p : Scope} (h : Lone s r p) (l : List Scope) (hl : ∀ x ∈ l, Scope.rank x ≤ Scope.rank p) :
    l.foldl (fun t x => t.rise r.id x) s = s := by
  refine foldl_holds (P := fun t : State => t = s) l (fun t x hx ht => ?_) rfl
  rw [ht]
  exact h.rise_skips (hl x hx)

theorem mem_stages {x sc : Scope} (h : x ∈ (stagesTo sc)) : Scope.rank x ≤ Scope.rank sc := of_decide_eq_true (List.mem_filter.1 h).2

theorem scope_rank_inj {a b : Scope} (h : Scope.rank a = Scope.rank b) : a = b := by
  revert h
  cases a <;> cases b <;> decide

/-- A store that rises to a stage short of sys rises further to the next one. -/
theorem rise_stages_succ {r : StoreRec} {x y : Scope} (hy : (stagesTo y) = (stagesTo x) ++ [y]) (hxy : Scope.rank y = Scope.rank x + 1) (hne : y ≠ .sys)
    (ih : ∀ (s : State) (p : Scope), Lone s r p → Scope.rank p ≤ Scope.rank x → (stagesTo x).foldl (fun t z => t.rise r.id z) s = s.raised r.id x)
    (s : State) (p : Scope) (h : Lone s r p) (hp : Scope.rank p ≤ Scope.rank y) : (stagesTo y).foldl (fun t z => t.rise r.id z) s = s.raised r.id y := by
  by_cases hpx : Scope.rank p ≤ Scope.rank x
  · rw [hy, List.foldl_append, ih s p h hpx]
    have hl := h.raised x
    show (s.raised r.id x).rise r.id y = _
    have := hl.rise_next hxy hne
    rw [raised_id] at this
    rw [this, raised_raised]
  · have hpy : p = y := scope_rank_inj (by omega)
    subst hpy
    rw [rise_stages_below h _ fun z hz => mem_stages hz, h.raised_self]

/-- A store rises up to any stage short of sys. -/
theorem rise_stages {s : State} {r : StoreRec} {p sc : Scope} (h : Lone s r p) (hp : Scope.rank p ≤ Scope.rank sc) (hne : sc ≠ .sys) :
    (stagesTo sc).foldl (fun t z => t.rise r.id z) s = s.raised r.id sc := by
  have h0 : ∀ (s : State) (p : Scope), Lone s r p → Scope.rank p ≤ Scope.rank .eng →
      (stagesTo .eng).foldl (fun t z => t.rise r.id z) s = s.raised r.id .eng := fun s p h hp => by
    have hpe : p = .eng := scope_rank_inj (Nat.le_zero.1 hp)
    subst hpe
    exact h.raised_self.symm
  have h1 := rise_stages_succ (r := r) (x := .eng) (y := .grp) (by decide) rfl (by decide) h0
  have h2 := rise_stages_succ (r := r) (x := .grp) (y := .dev) (by decide) rfl (by decide) h1
  have h3 := rise_stages_succ (r := r) (x := .dev) (y := .fab) (by decide) rfl (by decide) h2
  cases sc with
  | eng => exact h0 s p h hp
  | grp => exact h1 s p h hp
  | dev => exact h2 s p h hp
  | fab => exact h3 s p h hp
  | sys => exact absurd rfl hne

theorem raised_coh_without (s : State) (id : Nat) (sc : Scope) :
    (s.raised id sc).coh.filter (fun q => decide (q.id ≠ id)) = s.coh.filter (fun q => decide (q.id ≠ id)) := by
  show (s.coh.map (fun q => q.raised id sc)).filter _ = _
  rw [List.filter_map]
  have hp : ((fun q : StoreRec => decide (q.id ≠ id)) ∘ fun q : StoreRec => q.raised id sc) = fun q : StoreRec => decide (q.id ≠ id) := by
    funext q
    rw [Function.comp_apply]
    unfold StoreRec.raised
    split <;> rfl
  rw [hp]
  refine (List.map_congr_left fun q hq => ?_).trans (List.map_id' _)
  exact if_neg (of_decide_eq_true (List.mem_filter.1 hq).2)

theorem any_raised {s : State} {r : StoreRec} {p : Scope} (h : Lone s r p) (sc : Scope) : (s.raised r.id sc).coh.any (fun q => decide (q.id = r.id)) = true := by
  have hr : r ∈ s.coh := List.mem_of_mem_filter (h.only ▸ List.mem_singleton_self r)
  refine List.any_eq_true.2 ⟨r.raised r.id sc, List.mem_map.2 ⟨r, hr, rfl⟩, ?_⟩
  simp [StoreRec.raised]

theorem stores_rise (s : State) (r : StoreRec) (p sc : Scope) (hone : s.coh.filter (fun q => decide (q.id = r.id)) = [r]) (hrels : r.rels = [])
    (hps : r.ps = some p) (hp : p ≠ .sys) (hap : ∀ q ∈ s.coh, q.id ≠ r.id → q.overlaps r = false) (hle : Scope.rank p ≤ Scope.rank sc) :
    (sc ≠ .sys → exec (.storeScopeRise r.id sc) s = .next { s with coh := s.coh.map (fun q => if q.id = r.id then { q with ps := some sc } else q) }) ∧
    (sc = .sys → s.mem.wf = true → ∃ t, exec (.storeScopeRise r.id sc) s = .next t ∧ t.coh = s.coh.filter (fun q => decide (q.id ≠ r.id)) ∧
      (∀ a, t.mem.get a = if r.pa ≤ a ∧ a < r.pa + r.bytes.length then r.bytes.getD (a - r.pa) 0 else s.mem.get a) ∧ t.cur = s.cur ∧ t.hold = s.hold) := by
  have h : Lone s r p := ⟨hone, hrels, hps, hap⟩
  have hexec : exec (.storeScopeRise r.id sc) s = .next
      (let t := (stagesTo sc).foldl (fun t x => t.rise r.id x) s
      if t.coh.any (fun q => decide (q.id = r.id)) then t
      else (s.coh.filter (fun q => decide (q.id = r.id))).foldl (fun t q => t.dropWindows q.pa) t) := rfl
  rw [hexec]
  constructor
  · intro hne
    rw [rise_stages h hle hne]
    dsimp only
    rw [if_pos (any_raised h sc)]
    rfl
  · rintro rfl hwf
    have hpf : Scope.rank p ≤ Scope.rank .fab := by
      revert hp
      cases p <;> decide
    have hst : (stagesTo .sys).foldl (fun t x => t.rise r.id x) s = { s with
        mem := s.mem.setBytes r.pa r.bytes, coh := s.coh.filter (fun q => decide (q.id ≠ r.id)) } := by
      rw [show (stagesTo .sys) = (stagesTo .fab) ++ [.sys] by decide, List.foldl_append, rise_stages h hpf (by decide)]
      have hl := (h.raised .fab).rise_sys rfl
      have hr : r.raised r.id .fab = { r with ps := some .fab } := if_pos rfl
      rw [hr] at hl
      refine hl.trans ?_
      have := raised_coh_without s r.id .fab
      dsimp only
      rw [this]
      rfl
    rw [hst]
    dsimp only
    have hnone : (s.coh.filter (fun q => decide (q.id ≠ r.id))).any (fun q => decide (q.id = r.id)) = false := by simp
    rw [hnone, hone]
    refine ⟨_, rfl, rfl, fun a => ?_, rfl, rfl⟩
    exact memory_get_setBytes hwf r.pa a r.bytes

/-- What a release publishes keeps it from rising (R290). -/
theorem release_waits (s : State) (r : StoreRec) (x : Release) (sc : Scope) (i : Nat) (hx : x ∈ r.rels) (hsc : Scope.rank sc ≤ Scope.rank x.scope)
    (hi : i ∈ x.deps) (hown : i ∉ r.ids) (hperf : s.performedAt i sc = false) : s.mayRise r sc = false := by
  have : s.published r.rels r.ids sc = false := by
    unfold State.published
    refine List.all_eq_false.2 ⟨x, hx, ?_⟩
    rw [decide_eq_false (by omega), Bool.false_or]
    exact fun hall => by
      have := List.all_eq_true.1 hall i hi
      simp [hown, hperf] at this
  unfold State.mayRise
  rw [this, Bool.and_false]

/-- Settles O46: results by kind, then the ways of a store: out of the hold buffer, merged, risen, written back, and a bank switch. -/
theorem resultsAndStores : Obligations.ResultsAndStores := by
  unfold Obligations.ResultsAndStores
  exact ⟨results_land, holds_leave, stores_merge, stores_rise, release_waits, sector_writeback, bank_switch⟩

end Sys2Proof.Machine
end

section
/-! PROOFS. O45, part 1: what a flush and a quiescing leave (R342, R346). -/
namespace Sys2Proof.Machine

/-! ## Flushing -/

/-- Blanked: what a flush changes. -/
def State.butFlush (s : State) : State := { s.butWriteback with hold := [], olds := [], assay := [], rcbs := [] }

/-- Entry k after some stores of s have been performed or dropped: it is as before but for its checkpoint. -/
structure Flushed (s : State) (k : Nat) (x : Slot) (t : State) : Prop where
  but : t.butFlush = s.butFlush
  entry : ∃ c, EntryIs t k { x with ckpt := c }
  nextId : s.nextId ≤ t.nextId

namespace Flushed
variable {s t u : State} {k : Nat} {x : Slot}

theorem refl (hx : EntryIs s k x) : Flushed s k x s := ⟨rfl, ⟨_, hx⟩, le_rfl⟩

theorem step (h : Flushed s k x t) (hb : u.butFlush = t.butFlush) (hs : u.slots = t.slots) (hi : u.nextId = t.nextId) : Flushed s k x u :=
  ⟨hb.trans h.but, by simpa [EntryIs, hs] using h.entry, hi ▸ h.nextId⟩

theorem meterBytes (h : Flushed s k x t) (slot : Nat) (core : Bool) (pa n : Nat) : Flushed s k x (t.meterBytes slot core pa n) := by
  have hm := meterBytes_but_meter t slot core pa n
  exact h.step (congrArg (fun w : State => w.butFlush) hm :) (congrArg State.slots hm :) (congrArg State.nextId hm :)

theorem logUndo (h : Flushed s k x t) (slot budget pa : Nat) (ckpt : Bool) : Flushed s k x (t.logUndo slot budget pa ckpt) := by
  have hu := logUndo_but_undo t slot budget pa ckpt
  obtain ⟨c, hc⟩ := h.entry
  exact ⟨(congrArg (fun w : State => w.butFlush) hu :).trans h.but, logUndo_entry hc slot budget pa ckpt, h.nextId.trans_eq (congrArg State.nextId hu.symm :)⟩

theorem place (h : Flushed s k x t) (r : StoreRec) : Flushed s k x (t.place r) :=
  (h.logUndo r.by_.slot (t.undobOf r.by_.slot) r.pa r.page.ckpt).step rfl rfl rfl

theorem placePriv (h : Flushed s k x t) (c : Context) (core : Nat) (r : StoreRec) : Flushed s k x (t.placePriv c core r) := by
  have hf := l1Fill_but_l1 t c core r.pa r.page
  exact h.step (congrArg (fun w : State => w.butFlush) hf :) (congrArg State.slots hf :) (congrArg State.nextId hf :)

theorem performStore (h : Flushed s k x t) (r : StoreRec) : Flushed s k x (t.performStore r) := by
  have hm := h.meterBytes r.by_.slot (decide (r.loc.eng < 256)) r.pa r.bytes.length
  unfold State.performStore
  dsimp only
  split
  · exact hm.placePriv _ _ _
  · exact hm.place r
  · exact hm.place r

theorem leaveHold (h : Flushed s k x t) (id : Nat) : Flushed s k x (t.leaveHold id) := by
  unfold State.leaveHold
  dsimp only
  split
  · exact foldl_holds (P := fun w : State => Flushed s k x w) _ (fun _ r _ hw => hw.performStore r) (h.step rfl rfl rfl)
  · exact h

theorem flushStore (h : Flushed s k x t) (r : StoreRec) : Flushed s k x (t.flushStore r) := by
  unfold State.flushStore
  split
  · exact h.leaveHold r.id
  · exact h.step rfl rfl rfl

theorem writeback (h : Flushed s k x t) (z : L1Sector) : Flushed s k x (t.writeback z) := by
  obtain ⟨c, hc⟩ := h.entry
  have hid : (t.writeback z).nextId = t.nextId + 1 :=
    congrArg (· + 1) (congrArg State.nextId (logUndo_but_undo t z.by_.slot (t.undobOf z.by_.slot) z.pa z.ckpt) :)
  refine ⟨(congrArg (fun w : State => w.butFlush) (writeback_but t z) :).trans h.but, writeback_entry hc z, ?_⟩
  have := h.nextId
  omega

theorem flush (h : Flushed s k x t) (slot : Nat) (rollback : Bool) : Flushed s k x (t.flush slot rollback) := by
  have h1 : Flushed s k x ((t.hold.filter (fun r => decide (r.by_.slot = slot))).foldl State.flushStore t) :=
    foldl_holds (P := fun w : State => Flushed s k x w) _ (fun _ r _ hw => hw.flushStore r) h
  unfold State.flush
  dsimp only
  refine foldl_holds (P := fun w : State => Flushed s k x w) _ (fun _ z _ hw => hw.writeback z) ?_
  split
  · exact h1.step rfl rfl rfl
  · exact h1

end Flushed

/-! ## The fabric -/

/-- The state with another fabric and nothing sent. -/
def State.withFabric (s : State) (f : Fabric) : State := { s with fabric := f, out := [] }

theorem advertise_but_fabric (s : State) (h age : Nat) (e : SitEntry) (enter : Bool) (devs : List (BitVec 32)) (f : Fabric) :
    (s.advertise h age e enter devs).withFabric f = s.withFabric f := by
  unfold State.advertise
  refine foldl_keeps (fun t : State => t.withFabric f) (fun t d => ?_) devs s
  dsimp only
  split
  · split
    · unfold State.enterSia
      split <;> rfl
    · rfl
  · rfl

theorem retireSit_but_fabric (s : State) (k : Nat) (f : Fabric) : (s.retireSit k).withFabric f = s.withFabric f := by
  unfold State.retireSit
  refine foldl_keeps (fun t : State => t.withFabric f) (fun t e => ?_) _ s
  unfold State.sitRetire
  split
  · rfl
  · exact advertise_but_fabric _ _ _ _ _ _ f

/-! ## Quiescing -/

/-- The state in which the contexts of an instance have stopped, its Hearths are cleared and its step contexts cancelled. -/
def State.quieted (s : State) (k : Nat) (rollback : Bool) : State :=
  let s1 := (s.flush k rollback).dropContexts k
  let own := (s1.hearths.filter (fun h => h.2.holder = some k)).map (·.1)
  { s1 with
    hearths := s1.hearths.map (fun h => (h.1, if own.contains h.1 then h.2.clearAll else h.2))
    steps := s1.steps.map (fun c => (c.1, if c.2.slot = k then { c.2 with store := [], status := some (c.2.status.getD 0) } else c.2))
    leaseQ := s1.leaseQ.filter (fun r => r.slot ≠ k)
    saved := s1.saved.filter (fun h => h.1 / 64 ≠ k) }

/-- Blanked: what a quiescing changes beside that. -/
def State.butNet (s : State) (f : Fabric) : State := { s.withFabric f with rounds := [], vfs := [] }

theorem quiesce_but_net {s : State} {k : Nat} {x : Slot} (hx : EntryIs s k x) (rollback : Bool) (f : Fabric) :
    (s.quiesce k rollback).butNet f = (s.quieted k rollback).butNet f := by
  unfold State.quiesce
  rw [show Tbl.get? s.slots k = some x from hx]
  exact congrArg (fun t : State => { t with rounds := [], vfs := [] }) (retireSit_but_fabric _ k f)

theorem ctxsOf_dropContexts (s : State) (k : Nat) : (s.dropContexts k).ctxsOf k = [] := by
  have hcur : ((s.dropContexts k).cur.slot = k && decide ((s.dropContexts k).cur.phase ≠ .joined)) = false := by
    unfold State.dropContexts
    dsimp only
    split
    · simp [Context.blank]
    · rename_i h
      by_cases hk : s.cur.slot = k
      · have : s.cur.phase = .joined := by simpa [hk] using h
        simp [this]
      · simp [hk]
  unfold State.ctxsOf
  rw [List.filter_cons_of_neg (by rw [hcur]; decide)]
  refine List.filter_eq_nil_iff.2 fun c hc => ?_
  have : c.slot ≠ k := of_decide_eq_true (List.mem_filter.1 hc).2
  simp [this]

theorem clearAll_holder (h : Hearth) : h.clearAll.holder = h.holder := by
  unfold Hearth.clearAll Hearth.zero Hearth.dropWaves
  dsimp only
  repeat' split
  all_goals rfl

theorem quieted_holder (s : State) (k : Nat) (rollback : Bool) (hh : (s.flush k rollback).hearths = s.hearths) (g : Nat) :
    ((s.quieted k rollback).hearth g).holder = (s.hearth g).holder := by
  have ht : (s.quieted k rollback).hearths =
      s.hearths.map (fun h => (h.1, if ((s.hearths.filter (fun h => decide (h.2.holder = some k))).map (·.1)).contains h.1 then h.2.clearAll else h.2)) := by
    rw [← hh]
    rfl
  unfold State.hearth
  rw [ht, tbl_get_map s.hearths
    (fun g h => if ((s.hearths.filter (fun h => decide (h.2.holder = some k))).map (·.1)).contains g then h.clearAll else h)]
  cases Tbl.get? s.hearths g with
  | none => rfl
  | some h =>
    dsimp only [Option.map_some, Option.getD_some]
    split
    · exact clearAll_holder h
    · rfl

/-- A quiesced instance has no context; what its entry holds stays its own (R342, R343). -/
theorem quiesce_spec {s : State} {k : Nat} {x : Slot} (hx : EntryIs s k x) (rollback : Bool) :
    (∃ c, EntryIs (s.quiesce k rollback) k { x with ckpt := c }) ∧ (s.quiesce k rollback).ctxsOf k = [] ∧
      (∀ g, ((s.quiesce k rollback).hearth g).holder = (s.hearth g).holder) ∧ (s.quiesce k rollback).routes = s.routes ∧
      (s.quiesce k rollback).troughs = s.troughs ∧ s.nextId ≤ (s.quiesce k rollback).nextId := by
  have hf := (Flushed.refl hx).flush k rollback
  have hn := quiesce_but_net hx rollback s.fabric
  have hslots : (s.quiesce k rollback).slots = (s.flush k rollback).slots := (congrArg State.slots hn :)
  have hids : (s.quiesce k rollback).nextId = (s.flush k rollback).nextId := (congrArg State.nextId hn :)
  refine ⟨?_, ?_, fun g => ?_, ?_, ?_, ?_⟩
  · obtain ⟨c, hc⟩ := hf.entry
    exact ⟨c, by simpa [EntryIs, hslots] using hc⟩
  · exact (congrArg (fun t : State => t.ctxsOf k) hn :).trans (ctxsOf_dropContexts (s.flush k rollback) k)
  · exact (congrArg (fun t : State => (t.hearth g).holder) hn :).trans (quieted_holder s k rollback (congrArg State.hearths hf.but :) g)
  · exact (congrArg State.routes hn :).trans (congrArg State.routes hf.but :)
  · exact (congrArg State.troughs hn :).trans (congrArg State.troughs hf.but :)
  · exact hids ▸ hf.nextId

end Sys2Proof.Machine
end

section
/-! PROOFS. O45, part 2: Dortas' writes, and how a kill ends (R23, R342, R343). -/
namespace Sys2Proof.Machine

/-! ## Bytes written through (R281) -/

/-- One sector's part of a write through. -/
def State.writeCut (s : State) (by_ : CtxRef) (loc : Loc) (page : PageInfo) (pa : Nat) (bs : List Byte) (sc : Scope) (c : Nat × Nat) : State :=
  let t1 := (s.logUndo by_.slot (s.undobOf by_.slot) c.1 page.ckpt).renew [by_] c.1 c.2
  let r : StoreRec := StoreRec.new t1.nextId by_ loc c.1 ((bs.drop (c.1 - pa)).take c.2) { page with pa := c.1 }
  ({ t1 with nextId := t1.nextId + 1, coh := t1.coh ++ [{ r with ps := t1.reach loc c.1 c.2 sc }] } : State).meterBytes by_.slot false c.1 c.2

theorem writeThrough_eq (s : State) (by_ : CtxRef) (loc : Loc) (page : PageInfo) (pa : Nat) (bs : List Byte) (sc : Scope) :
    s.writeThrough by_ loc page pa bs sc =
      (sectorCuts pa (bs.length / 32 + 2) bs.length).foldl (fun t c => t.writeCut by_ loc page pa bs sc c) s := rfl

section Write
variable {s : State} {by_ : CtxRef} {loc : Loc} {page : PageInfo} {pa : Nat} {bs : List Byte} {sc : Scope} {c : Nat × Nat}

theorem writeCut_but_undo : (s.writeCut by_ loc page pa bs sc c).mem = s.mem ∧
    (s.writeCut by_ loc page pa bs sc c).slots = (s.logUndo by_.slot (s.undobOf by_.slot) c.1 page.ckpt).slots ∧
    ∃ r : StoreRec, (s.writeCut by_ loc page pa bs sc c).coh = s.coh ++ [r] ∧ r.pa = c.1 ∧ r.bytes = (bs.drop (c.1 - pa)).take c.2 := by
  have hu := logUndo_but_undo s by_.slot (s.undobOf by_.slot) c.1 page.ckpt
  have hm := fun w : State => meterBytes_but_meter w by_.slot false c.1 c.2
  unfold State.writeCut
  dsimp only
  refine ⟨(congrArg State.mem (hm _) :).trans (congrArg State.mem hu :), (congrArg State.slots (hm _) :), _,
    (congrArg State.coh (hm _) :).trans (congrArg (fun l => l ++ [_]) (congrArg State.coh hu :)), rfl, rfl⟩

theorem writeCut_lastByte (h : pa ≤ c.1) (h' : c.1 + c.2 ≤ pa + bs.length) (x : Nat) :
    (s.writeCut by_ loc page pa bs sc c).lastByte x = if c.1 ≤ x ∧ x < c.1 + c.2 then bs.getD (x - pa) emptyByte else s.lastByte x := by
  obtain ⟨hmem, -, r, hcoh, hpa, hbytes⟩ := writeCut_but_undo (s := s) (by_ := by_) (loc := loc) (page := page) (pa := pa) (bs := bs) (sc := sc) (c := c)
  have hlen : r.bytes.length = c.2 := by
    rw [hbytes, List.length_take, List.length_drop]
    omega
  rw [lastByte_append hmem hcoh]
  by_cases hx : c.1 ≤ x ∧ x < c.1 + c.2
  · have hcov : r.covers x = true := by simpa [StoreRec.covers, hpa, hlen] using hx
    have hi : x - c.1 < c.2 := by omega
    rw [if_pos hcov, if_pos hx, StoreRec.byteAt, hpa, hbytes, List.getD_eq_getElem?_getD, List.getD_eq_getElem?_getD,
      List.getElem?_take_of_lt hi, List.getElem?_drop]
    congr 2
    omega
  · have hcov : ¬ r.covers x = true := by simpa [StoreRec.covers, hpa, hlen] using hx
    rw [if_neg hcov, if_neg hx]

theorem sectorCuts_within (f : Nat) {va n : Nat} {c : Nat × Nat} (h : c ∈ sectorCuts va f n) : va ≤ c.1 ∧ c.1 + c.2 ≤ va + n := by
  induction f generalizing va n with
  | zero => simp [sectorCuts] at h
  | succ f ih =>
    cases n with
    | zero => simp [sectorCuts] at h
    | succ n =>
      rcases List.mem_cons.1 h with rfl | h
      · dsimp only
        omega
      · have := ih h
        omega

theorem sectorCuts_cover (f : Nat) {va n x : Nat} (hf : va % 32 + n ≤ 32 * f) (hx : va ≤ x) (hx' : x < va + n) :
    ∃ c ∈ sectorCuts va f n, c.1 ≤ x ∧ x < c.1 + c.2 := by
  induction f generalizing va n with
  | zero => omega
  | succ f ih =>
    cases n with
    | zero => omega
    | succ n =>
      by_cases h : x < va + min (n + 1) (32 - va % 32)
      · exact ⟨_, List.mem_cons_self .., hx, h⟩
      · obtain ⟨c, hc, hcx⟩ := ih (va := va + min (n + 1) (32 - va % 32)) (n := n + 1 - min (n + 1) (32 - va % 32)) (by omega) (by omega) (by omega)
        exact ⟨c, List.mem_cons_of_mem _ hc, hcx⟩

theorem foldl_writeCut_lastByte {x : Nat} (l : List (Nat × Nat)) (hl : ∀ c ∈ l, pa ≤ c.1 ∧ c.1 + c.2 ≤ pa + bs.length)
    (hx : ∃ c ∈ l, c.1 ≤ x ∧ x < c.1 + c.2) (s : State) :
    (l.foldl (fun t c => t.writeCut by_ loc page pa bs sc c) s).lastByte x = bs.getD (x - pa) emptyByte := by
  induction l generalizing s with
  | nil => simp at hx
  | cons c rest ih =>
    obtain ⟨hc, hrest⟩ := List.forall_mem_cons.1 hl
    by_cases hcx : c.1 ≤ x ∧ x < c.1 + c.2
    · refine foldl_holds (P := fun t : State => t.lastByte x = bs.getD (x - pa) emptyByte) rest (fun t d hd ht => ?_) ?_
      · rw [writeCut_lastByte (hrest d hd).1 (hrest d hd).2, ht, ite_self]
      · rw [writeCut_lastByte hc.1 hc.2, if_pos hcx]
    · refine ih hrest ?_ _
      obtain ⟨d, hd, hdx⟩ := hx
      rcases List.mem_cons.1 hd with rfl | hd
      · exact absurd hdx hcx
      · exact ⟨d, hd, hdx⟩

/-- What has been written through stands last in coherence order. -/
theorem writeThrough_bytes (s : State) : bytesFrom (s.writeThrough by_ loc page pa bs sc).lastByte pa bs.length = bs := by
  refine List.ext_getElem (by simp [bytesFrom]) fun i hi hj => ?_
  have hcover := sectorCuts_cover (bs.length / 32 + 2) (va := pa) (n := bs.length) (x := pa + i) (by omega) (by omega) (by omega)
  have := foldl_writeCut_lastByte (by_ := by_) (loc := loc) (page := page) (sc := sc) _ (fun c hc => sectorCuts_within _ hc) hcover s
  rw [← writeThrough_eq, Nat.add_sub_cancel_left] at this
  simp [bytesFrom, this, List.getD_eq_getElem?_getD, hj]

theorem writeThrough_mem (s : State) : (s.writeThrough by_ loc page pa bs sc).mem = s.mem := by
  rw [writeThrough_eq]
  exact foldl_keeps State.mem (fun _ _ => writeCut_but_undo.1) _ s

end Write

/-! ## Entries near one that ends -/

/-- The other entries keep their bind records, and the table its order. -/
structure SlotsNear (k : Nat) (s t : State) : Prop where
  rising : Rising s.slots → Rising t.slots
  others : ∀ j, j ≠ k → (Tbl.get? t.slots j).map (·.bind) = (Tbl.get? s.slots j).map (·.bind)

namespace SlotsNear
variable {k : Nat} {s t u : State}

theorem of_slots (h : t.slots = s.slots) : SlotsNear k s t := ⟨fun hr => h ▸ hr, fun j _ => by rw [h]⟩

theorem of_set {x : Slot} (h : t.slots = Tbl.set s.slots k x) : SlotsNear k s t :=
  ⟨fun hr => h ▸ rising_set hr k x, fun j hj => by rw [h, tbl_get_set_ne _ _ hj]⟩

theorem trans (h : SlotsNear k s t) (h' : SlotsNear k t u) : SlotsNear k s u :=
  ⟨fun hr => h'.rising (h.rising hr), fun j hj => (h'.others j hj).trans (h.others j hj)⟩

theorem logUndo (s : State) (budget pa : Nat) (ckpt : Bool) : SlotsNear k s (s.logUndo k budget pa ckpt) := by
  unfold State.logUndo
  split
  · exact of_slots rfl
  · split
    · exact of_slots rfl
    · dsimp only
      split
      · exact of_slots rfl
      · split
        · exact of_set (congrArg State.slots (post_but_posted _ _ _) :)
        · exact of_slots rfl

theorem writeThrough (s : State) (n : Nat) (loc : Loc) (page : PageInfo) (pa : Nat) (bs : List Byte) (sc : Scope) :
    SlotsNear k s (s.writeThrough ⟨k, n⟩ loc page pa bs sc) := by
  rw [writeThrough_eq]
  refine foldl_holds (P := fun t : State => SlotsNear k s t) _ (fun t c _ ht => ht.trans ?_) (of_slots rfl)
  exact (logUndo t (t.undobOf k) c.1 page.ckpt).trans (of_slots writeCut_but_undo.2.1)

theorem chargeSlot (s : State) (j : Nat) : SlotsNear k s (s.chargeSlot j) := by
  unfold State.chargeSlot
  split
  · exact of_slots rfl
  · rename_i x hx
    split
    · refine ⟨fun hr => rising_set hr j _, fun i _ => ?_⟩
      by_cases hij : i = j
      · subst hij
        rw [tbl_get_set, hx]
        rfl
      · rw [tbl_get_set_ne _ _ hij]
    · exact of_slots rfl

theorem chargeAll (s : State) : SlotsNear k s s.chargeAll := by
  have h : SlotsNear k s (s.slots.foldl (fun t x => t.chargeSlot x.1) s) :=
    foldl_holds (P := fun t : State => SlotsNear k s t) _ (fun t x _ ht => ht.trans (chargeSlot t x.1)) (of_slots rfl)
  exact h.trans (of_slots rfl)

theorem freeHeld (s : State) : SlotsNear k s (s.freeHeld k) := by
  unfold State.freeHeld
  split
  · exact of_slots rfl
  · split
    · exact of_slots rfl
    · exact of_set rfl

end SlotsNear

/-- A freed key of an ordered table is gone. -/
theorem tbl_get_del_same {α : Type} {t : Tbl α} (ht : Rising t) (k : Nat) : Tbl.get? (Tbl.del t k) k = none := by
  have hgone : ∀ u : Tbl α, (∀ x ∈ u, k ≠ x.1) → Tbl.get? u k = none := by
    intro u hu
    induction u with
    | nil => rfl
    | cons e rest ih =>
      obtain ⟨he, hrest⟩ := List.forall_mem_cons.1 hu
      unfold Tbl.get?
      rw [if_neg (Ne.symm he)]
      exact ih hrest
  induction t with
  | nil => rfl
  | cons e rest ih =>
    obtain ⟨hlt, hrest⟩ := List.pairwise_cons.1 ht
    unfold Tbl.del
    split
    · rename_i he
      exact hgone rest fun x hx => Nat.ne_of_lt (he ▸ hlt x hx)
    · rename_i he
      unfold Tbl.get?
      rw [if_neg he]
      exact ih hrest

/-! ## Bytes that stay -/

/-- No byte has changed, for whichever party reads the latest. -/
structure SameBytes (s t : State) : Prop where
  mem : t.mem = s.mem
  coh : t.coh.map StoreRec.data = s.coh.map StoreRec.data

namespace SameBytes
variable {s t u : State}

theorem of_eq (hm : t.mem = s.mem) (hc : t.coh = s.coh) : SameBytes s t := ⟨hm, by rw [hc]⟩
theorem trans (h : SameBytes s t) (h' : SameBytes t u) : SameBytes s u := ⟨h'.mem.trans h.mem, h'.coh.trans h.coh⟩
theorem lastByte (h : SameBytes s t) : t.lastByte = s.lastByte := lastByte_of_data h.mem h.coh

end SameBytes

/-! ## The end of a kill -/

theorem freeHeld_bytes (s : State) (k : Nat) : SameBytes s (s.freeHeld k) := by
  unfold State.freeHeld
  split
  · exact .of_eq rfl rfl
  · split <;> exact .of_eq rfl rfl

theorem letGo_near (s : State) (k : Nat) : SlotsNear k s (s.letGo k) ∧ SameBytes s (s.letGo k) := by
  have hl := releaseLeases_but_leases s k
  have hr := releaseRoutes_but_held (s.releaseLeases k) k
  have hf := retireSit_but_fabric ((((s.releaseLeases k).releaseRoutes k).releaseRates k).freeHeld k) k s.fabric
  have hslots : (((s.releaseLeases k).releaseRoutes k).releaseRates k).slots = s.slots := (congrArg State.slots hr :).trans (congrArg State.slots hl :)
  have hmem : (((s.releaseLeases k).releaseRoutes k).releaseRates k).mem = s.mem := (congrArg State.mem hr :).trans (congrArg State.mem hl :)
  have hcoh : (((s.releaseLeases k).releaseRoutes k).releaseRates k).coh = s.coh := (congrArg State.coh hr :).trans (congrArg State.coh hl :)
  exact ⟨((SlotsNear.of_slots hslots).trans (.freeHeld _)).trans (.of_slots (congrArg State.slots hf :)),
    ((SameBytes.of_eq hmem hcoh).trans (freeHeld_bytes _ k)).trans (.of_eq (congrArg State.mem hf :) (congrArg State.coh hf :))⟩

theorem idleRecord_near (s : State) (k : Nat) (x : Slot) : SlotsNear k s (s.idleRecord x) ∧ SameBytes s (s.idleRecord x) := by
  unfold State.idleRecord
  split
  · exact ⟨.of_slots rfl, .of_eq rfl rfl⟩
  · unfold State.setLrec
    split <;> exact ⟨.of_slots rfl, .of_eq rfl rfl⟩

theorem disown_bytes (s : State) (k : Nat) : SameBytes s (s.disown k) := ⟨rfl, (List.map_map ..).trans rfl⟩

theorem freeEntry_bytes (s : State) (k : Nat) : SameBytes s (s.freeEntry k) :=
  ((freeHeld_bytes s k).trans (disown_bytes _ k)).trans (.of_eq rfl rfl)

theorem freeEntry_slots (s : State) (k : Nat) : (s.freeEntry k).slots = Tbl.del (s.freeHeld k).slots k := rfl

theorem endVf_keeps (s : State) (vf : Nat) : (s.endVf vf).slots = s.slots ∧ (s.endVf vf).mem = s.mem ∧ (s.endVf vf).coh = s.coh := by
  unfold State.endVf
  split
  · exact ⟨rfl, rfl, rfl⟩
  · split <;> exact ⟨rfl, rfl, rfl⟩

/-- What a killed entry held is given up, its record returns to IDLE, and the entry is free. -/
def State.finished (s : State) (k : Nat) (y : Slot) : State := (((s.chargeAll.letGo k).idleRecord y).freeEntry k).endVf y.vf

theorem finished_spec {s : State} (k : Nat) (y : Slot) (hr : Rising s.slots) :
    Tbl.get? (s.finished k y).slots k = none ∧ SameBytes s (s.finished k y) ∧
      ∀ j, j ≠ k → (Tbl.get? (s.finished k y).slots j).map (·.bind) = (Tbl.get? s.slots j).map (·.bind) := by
  obtain ⟨hg, hgb⟩ := letGo_near s.chargeAll k
  obtain ⟨hi, hib⟩ := idleRecord_near (s.chargeAll.letGo k) k y
  obtain ⟨hes, hem, hec⟩ := endVf_keeps (((s.chargeAll.letGo k).idleRecord y).freeEntry k) y.vf
  have hcharge : SameBytes s s.chargeAll := .of_eq (chargeAll_mem s) (congrArg State.coh (chargeAll_but_charge s) :)
  have hnear := (((SlotsNear.chargeAll (k := k) s).trans hg).trans hi).trans (.freeHeld _)
  have hslots : (s.finished k y).slots = Tbl.del (((s.chargeAll.letGo k).idleRecord y).freeHeld k).slots k := hes.trans (freeEntry_slots _ k)
  refine ⟨?_, (((hcharge.trans hgb).trans hib).trans (freeEntry_bytes _ k)).trans (.of_eq hem hec), fun j hj => ?_⟩
  · rw [hslots]
    exact tbl_get_del_same (hnear.rising hr) k
  · rw [hslots, tbl_get_del_ne _ hj]
    exact hnear.others j hj

theorem completeKill_written {s s1 : State} {k : Nat} {y : Slot} (h6 : y.state = 6) (hm : y.markers = []) (hsit : s.sitLeft k = false)
    (hack : s.unackedOf k = false)
    (hw : s.writeCompl (complRef k) y.vf k (s.complOf y)
      (complBytes (KillCause.status y.kill).1 (KillCause.status y.kill).2.1 y.seq (KillCause.status y.kill).2.2 y.bindCycle s.cycle) = .past s1) :
    s.completeKill k y = .next (s1.finished k y) := by
  unfold State.completeKill
  rw [if_neg (by simp [h6, hm, hsit, hack])]
  rcases hst : KillCause.status y.kill with ⟨st, detail, ctx⟩
  rw [hst] at hw
  dsimp only at hw ⊢
  rw [hw]
  rfl

theorem completeKill_waits {s : State} {k : Nat} {y : Slot} (hm : y.markers ≠ []) : s.completeKill k y = .next s := by
  unfold State.completeKill
  rw [if_pos]
  exact .inr (.inl (by simpa [List.isEmpty_iff] using hm))

end Sys2Proof.Machine
end

section
/-! PROOFS. O45, part 3: kills, rollbacks and marks (R23, R342, R343, R346, R366 to R368). -/
namespace Sys2Proof.Machine

/-! ## The kill sequence -/

/-- A quiesced entry whose drain markers are queued. -/
def Slot.draining (x : Slot) (markers : List (Nat × Nat)) (cause : Option KillCause) : Slot := { x with markers := markers, rolling := true, kill := cause }

theorem newMarkers_stacks (s : State) : s.newMarkers.map (·.1) = List.range 8 := by simp [State.newMarkers, Function.comp_def]

theorem newMarkers_behind {s : State} {m : Nat × Nat} (h : m ∈ s.newMarkers) : m.2 = s.nextId := by
  obtain ⟨k, -, rfl⟩ := List.mem_map.1 h
  rfl

section Kill
variable {s : State} {k : Nat} {x : Slot} (hx : EntryIs s k x)
include hx

theorem killSequence_other (h : x.state ≠ 6) : execKillSequence k s = .next s := by
  unfold execKillSequence
  rw [show Tbl.get? s.slots k = some x from hx]
  dsimp only
  rw [if_pos (.inl h)]

theorem killSequence_starts {r : Nat} (h6 : x.state = 6) (hroll : x.rolling = false) (hk : x.kill = some (.reason r)) :
    ∃ (t : State) (y : Slot), execKillSequence k s = .next t ∧ EntryIs t k y ∧ y.state = 6 ∧ y.markers.map (·.1) = List.range 8 ∧
      (∀ m ∈ y.markers, s.nextId ≤ m.2) ∧ y.rolling = true ∧ y.kill = some (.reason r) ∧ t.ctxsOf k = [] ∧
      (∀ g, (t.hearth g).holder = (s.hearth g).holder) ∧ t.routes = s.routes ∧ t.troughs = s.troughs := by
  obtain ⟨n, hn⟩ := chargeAll_entry hx
  obtain ⟨⟨c, hc⟩, hctx, hhold, hroutes, htroughs, hid⟩ := quiesce_spec hn false
  have hb := chargeAll_but_charge s
  set s1 := s.chargeAll.quiesce k false
  have hexec : execKillSequence k s =
      .next (s1.setSlot k (({ x with chargedAt := n, ckpt := c } : Slot).draining s1.newMarkers (some (.reason r)))) := by
    unfold execKillSequence
    rw [show Tbl.get? s.slots k = some x from hx]
    dsimp only
    rw [if_neg (by simp [h6, hroll]), State.reportFault, hk]
    dsimp only
    rw [show Tbl.get? (s.chargeAll.quiesce k false).slots k = some { x with chargedAt := n, ckpt := c } from hc]
    dsimp only
    rw [hk]
    rfl
  refine ⟨_, _, hexec, entryIs_setSlot _ _ _, h6, newMarkers_stacks s1, fun m hm => ?_, rfl, rfl, hctx, fun g => ?_, ?_, ?_⟩
  · rw [newMarkers_behind hm]
    exact (congrArg State.nextId hb.symm :).trans_le hid
  · exact (hhold g).trans (congrArg (fun w : State => (w.hearth g).holder) hb :)
  · exact hroutes.trans (congrArg State.routes hb :)
  · exact htroughs.trans (congrArg State.troughs hb :)

theorem drainMarker_undrained {n : Nat} (h : ∃ m ∈ x.markers, m.1 = n ∧ s.drained x.vf n m.2 = false) : execDrainMarkerComplete k n s = .next s := by
  unfold execDrainMarkerComplete
  rw [show Tbl.get? s.slots k = some x from hx]
  dsimp only
  obtain ⟨m, hm, hmn, hd⟩ := h
  rw [if_pos (.inr (List.any_eq_true.2 ⟨m, hm, by simp [hmn, hd]⟩))]

theorem drainMarker_completes {n : Nat} (hroll : x.rolling = true) (h : ∀ m ∈ x.markers, m.1 = n → s.drained x.vf n m.2 = true) :
    execDrainMarkerComplete k n s = (s.setSlot k { x with markers := x.markers.filter (fun m => decide (m.1 ≠ n)) }).completeKill k
      { x with markers := x.markers.filter (fun m => decide (m.1 ≠ n)) } := by
  unfold execDrainMarkerComplete
  rw [show Tbl.get? s.slots k = some x from hx]
  dsimp only
  rw [if_neg]
  rintro (hr | hany)
  · exact absurd hr (by simp [hroll])
  · obtain ⟨m, hm, hmd⟩ := List.any_eq_true.1 hany
    simp only [Bool.and_eq_true, decide_eq_true_eq, Bool.not_eq_true'] at hmd
    rw [h m hm hmd.1] at hmd
    exact absurd hmd.2 (by decide)

end Kill

/-- An entry without markers. -/
def Slot.drained (x : Slot) : Slot := { x with markers := [] }

theorem markers_last {x : Slot} {n : Nat} (h : ∀ m ∈ x.markers, m.1 = n) : x.markers.filter (fun m => decide (m.1 ≠ n)) = [] :=
  List.filter_eq_nil_iff.2 fun m hm => by simp [h m hm]

/-- The last marker: the completion record is written, then the entry is freed. -/
theorem drainMarker_last {s : State} {k : Nat} {x : Slot} (hx : EntryIs s k x) (hs : Rising s.slots) {n : Nat} (hroll : x.rolling = true)
    (hd : ∀ m ∈ x.markers, m.1 = n → s.drained x.vf n m.2 = true) {q : RcbNode} (h6 : x.state = 6) (hm : ∀ m ∈ x.markers, m.1 = n)
    (hsit : s.sitLeft k = false) (hack : s.unackedOf k = false) (hq : Tbl.get? s.rcbs x.rcbx = some q) :
    let va := lrCompl (q.lrec x.rcbx x.lrec)
    (va = 0 → ∃ t, exec (.drainMarkerComplete k n) s = .next t ∧ Tbl.get? t.slots k = none ∧ t.mem = s.mem ∧
      ∀ j, j ≠ k → (Tbl.get? t.slots j).map (·.bind) = (Tbl.get? s.slots j).map (·.bind)) ∧
    (∀ (i : PageInfo) (r : Nat), va ≠ 0 → x.kill = some (.reason r) → translateFull (s.setSlot k { x with markers := [] }) x.vf va 2 = .ok i →
      paKind i.pa = .hbm →
      ∃ t, exec (.drainMarkerComplete k n) s = .next t ∧ Tbl.get? t.slots k = none ∧ t.mem = s.mem ∧
        bytesFrom t.lastByte i.pa 32 = natBytes 2 2 ++ natBytes r 2 ++ natBytes x.seq 2 ++ natBytes 0 2 ++ natBytes x.bindCycle 8 ++ natBytes s.cycle 8 ++
          List.replicate 8 0) := by
  intro va
  set s0 := s.setSlot k x.drained with hs0
  have hexec : exec (.drainMarkerComplete k n) s = s0.completeKill k x.drained := by
    refine (drainMarker_completes hx hroll hd).trans ?_
    rw [markers_last hm]
    rfl
  have hcompl : s0.complOf x.drained = va := by
    unfold State.complOf
    rw [show Tbl.get? s0.rcbs x.drained.rcbx = some q from hq]
    rfl
  have hrising : Rising s0.slots := rising_set hs k x.drained
  have hnear : SlotsNear k s s0 := .of_set rfl
  rw [hexec]
  constructor
  · intro hva
    have hw (bytes : List Byte) : s0.writeCompl (complRef k) x.drained.vf k (s0.complOf x.drained) bytes = .past s0 := by
      unfold State.writeCompl
      rw [hcompl]
      exact if_pos hva
    obtain ⟨hgone, hbytes, hothers⟩ := finished_spec k x.drained hrising
    exact ⟨_, completeKill_written (y := x.drained) h6 rfl hsit hack (hw _), hgone, hbytes.mem, fun j hj => (hothers j hj).trans (hnear.others j hj)⟩
  · intro i r hva hk htr hpa
    have hw (bytes : List Byte) : s0.writeCompl (complRef k) x.drained.vf k (s0.complOf x.drained) bytes =
        .past (s0.writeThrough (complRef k) (dortasLoc x.vf) i i.pa bytes .dev) := by
      unfold State.writeCompl
      rw [hcompl]
      dsimp only
      rw [if_neg hva, show translateFull s0 x.drained.vf va 2 = .ok i from htr]
      dsimp only
      rw [hpa]
      rfl
    have hstatus : KillCause.status x.drained.kill = (2, r, 0) := by
      show KillCause.status x.kill = _
      rw [hk]
      rfl
    have hdone := completeKill_written (s := s0) (k := k) (y := x.drained) h6 rfl hsit hack (hw _)
    rw [hstatus] at hdone
    obtain ⟨hgone, hbytes, -⟩ := finished_spec k x.drained
      ((SlotsNear.writeThrough s0 (2 ^ 22) (dortasLoc x.vf) i i.pa (complBytes 2 r x.seq 0 x.bindCycle s.cycle) .dev).rising hrising)
    refine ⟨_, hdone, hgone, hbytes.mem.trans (writeThrough_mem s0), ?_⟩
    have hlast := hbytes.lastByte
    have hlen : (complBytes 2 r x.seq 0 x.bindCycle s.cycle).length = 32 := by
      unfold complBytes
      simp only [List.length_append, length_natBytes, List.length_replicate]
    have hwritten := writeThrough_bytes (by_ := ⟨k, 2 ^ 22⟩) (loc := dortasLoc x.vf) (page := i) (pa := i.pa)
      (bs := complBytes 2 r x.seq 0 x.bindCycle s.cycle) (sc := .dev) s0
    rw [hlen] at hwritten
    exact (congrArg (fun f => bytesFrom f i.pa 32) hlast).trans hwritten

theorem kills_end (s : State) (k : Nat) (x : Slot) (hx : EntryIs s k x) (hs : s.slots.Pairwise (fun a b => a.1 < b.1)) :
     (x.state ≠ 6 → exec (.killSequence k) s = .next s) ∧
     (∀ r, x.state = 6 → x.rolling = false → x.kill = some (.reason r) →
       ∃ (t : State) (y : Slot), exec (.killSequence k) s = .next t ∧ EntryIs t k y ∧ y.state = 6 ∧ y.markers.map (·.1) = List.range 8 ∧
         (∀ m ∈ y.markers, s.nextId ≤ m.2) ∧ y.rolling = true ∧ y.kill = some (.reason r) ∧ t.ctxsOf k = [] ∧
         (∀ g, (t.hearth g).holder = (s.hearth g).holder) ∧ t.routes = s.routes ∧ t.troughs = s.troughs) ∧
     (∀ n, x.rolling = true → (∃ m ∈ x.markers, m.1 = n ∧ s.drained x.vf n m.2 = false) → exec (.drainMarkerComplete k n) s = .next s) ∧
     (∀ n, x.rolling = true → (∀ m ∈ x.markers, m.1 = n → s.drained x.vf n m.2 = true) →
       (x.markers.filter (fun m => decide (m.1 ≠ n)) ≠ [] →
         exec (.drainMarkerComplete k n) s = .next (s.setSlot k { x with markers := x.markers.filter (fun m => decide (m.1 ≠ n)) })) ∧
       (∀ q, x.state = 6 → (∀ m ∈ x.markers, m.1 = n) → s.sitLeft k = false → s.unackedOf k = false → Tbl.get? s.rcbs x.rcbx = some q →
         let va := lrCompl (q.lrec x.rcbx x.lrec)
         (va = 0 → ∃ t, exec (.drainMarkerComplete k n) s = .next t ∧ Tbl.get? t.slots k = none ∧ t.mem = s.mem ∧
           ∀ j, j ≠ k → (Tbl.get? t.slots j).map (·.bind) = (Tbl.get? s.slots j).map (·.bind)) ∧
         (∀ (i : PageInfo) (r : Nat), va ≠ 0 → x.kill = some (.reason r) → translateFull (s.setSlot k { x with markers := [] }) x.vf va 2 = .ok i → paKind i.pa = .hbm →
           ∃ t, exec (.drainMarkerComplete k n) s = .next t ∧ Tbl.get? t.slots k = none ∧ t.mem = s.mem ∧
             bytesFrom t.lastByte i.pa 32 = natBytes 2 2 ++ natBytes r 2 ++ natBytes x.seq 2 ++ natBytes 0 2 ++ natBytes x.bindCycle 8 ++ natBytes s.cycle 8 ++
               List.replicate 8 0))) :=
  ⟨killSequence_other hx, fun _ => killSequence_starts hx, fun _ _ => drainMarker_undrained hx, fun _ hroll hd =>
    ⟨fun hne => (drainMarker_completes hx hroll hd).trans (completeKill_waits hne), fun _ => drainMarker_last hx hs hroll hd⟩⟩

end Sys2Proof.Machine
end

section
/-! PROOFS. O45, part 4: rollbacks, scrubbing and marks (R314, R346, R347, R366 to R368). -/
namespace Sys2Proof.Machine

/-! ## Contexts around a reset of the shared state -/

/-- The contexts' names. -/
def State.names (s : State) : CtxRef × List CtxRef := (s.cur.ref, s.parked.map (·.ref))

theorem ctx?_none_iff (s : State) (r : CtxRef) : s.ctx? r = none ↔ s.names.1 ≠ r ∧ r ∉ s.names.2 := by
  unfold State.ctx? State.names
  split
  · rename_i h
    simp [h]
  · rename_i h
    simp [h, List.find?_eq_none]

theorem ref_ite_clearQb (p : Prop) [Decidable p] (r : Nat) (c : Context) : (if p then clearQb r c else c).ref = c.ref := by
  split <;> rfl

theorem freeRoute_names (s : State) (g r : Nat) : (s.freeRoute g r).names = s.names := by
  unfold State.freeRoute
  split
  · rfl
  · have hnames : ∀ (c : Context) (l : List Context) (o : Nat), ((if c.slot = o ∧ c.grp = g then clearQb r c else c).ref,
        (l.map (fun c => if c.slot = o ∧ c.grp = g then clearQb r c else c)).map (·.ref)) = (c.ref, l.map (·.ref)) := by
      intro c l o
      rw [ref_ite_clearQb, List.map_map]
      exact congrArg _ (List.map_congr_left fun c _ => ref_ite_clearQb _ r c)
    dsimp only
    split
    · exact hnames _ _ _
    · exact hnames _ _ _

theorem releaseRoutes_names (s : State) (k : Nat) : (s.releaseRoutes k).names = s.names := by
  unfold State.releaseRoutes
  refine foldl_keeps (fun t : State => t.names) (fun t r => ?_) _ s
  exact freeRoute_names t _ _

theorem letShared_names (s : State) (k : Nat) (x : Slot) : (s.letShared k x).names = s.names :=
  (releaseRoutes_names _ k).trans (congrArg (fun u : State => u.names) (releaseLeases_but_leases ((s.zeroSram x).resetHearths k) k) :)

theorem resetShared_names {s : State} {k : Nat} {x : Slot} (hx : EntryIs s k x) : (s.resetShared k).names = s.names := by
  rw [resetShared_eq hx]
  exact letShared_names s k x

/-! ## Which instances are struck -/

theorem rollback_unstruck (s : State) (rcb : Nat) (h : ∀ x ∈ s.slots, x.2.kill ≠ some .rollback) : execRollback rcb s = .next s := by
  unfold execRollback
  dsimp only
  rw [if_pos]
  rw [Bool.not_eq_true', List.any_eq_false]
  intro k _ hk
  cases hx : Tbl.get? s.slots k with
  | none => simp [hx] at hk
  | some x =>
    rw [hx, Option.any_some, Bool.and_eq_true, decide_eq_true_eq] at hk
    exact h (k, x) (tbl_mem_of_get hx) hk.1

/-- The undo records of an instance, the latest first. -/
def State.undoLog (s : State) (k : Nat) : List UndoRec := (s.undo.filter (fun u => [k].contains u.slot)).foldl (fun l u => insertUndo u l) []

section Domain
variable {s : State} {rcb k : Nat} {x : Slot} (hdom : (s.slots.filter (fun y => y.2.bound && (s.path y.2.rcbx).contains rcb)).map (·.1) = [k])
  (hx : EntryIs s k x) (hk : x.kill = some .rollback) (hdo : s.domainOf x.rcbx = some rcb)
include hdom hx hk hdo

theorem rollback_quiesces (hroll : x.rolling = false) : ∃ (t : State) (y : Slot), execRollback rcb s = .next t ∧ EntryIs t k y ∧ y.rolling = true ∧
    y.markers.map (·.1) = List.range 8 ∧ y.kill = some .rollback ∧ t.ctxsOf k = [] := by
  obtain ⟨⟨c, hc⟩, hctx, -⟩ := quiesce_spec hx true
  set s1 := s.quiesce k true with hs1
  have hexec : execRollback rcb s = .next (s1.setSlot k (({ x with ckpt := c } : Slot).draining s1.newMarkers (some .rollback))) := by
    unfold execRollback
    dsimp only
    rw [hdom]
    simp only [List.any_cons, List.any_nil, Bool.or_false, show Tbl.get? s.slots k = some x from hx, Option.any_some, hk, hdo, hroll, decide_true,
      Bool.and_self, Bool.not_true, Bool.false_eq_true, if_false, Bool.not_false, if_true, List.filter_cons_of_pos, List.filter_nil, List.foldl_cons,
      List.foldl_nil]
    rw [← hs1, show Tbl.get? s1.slots k = some { x with ckpt := c } from hc]
    rfl
  exact ⟨_, _, hexec, entryIs_setSlot _ _ _, rfl, newMarkers_stacks s1, rfl, hctx⟩

theorem rollback_waits (hroll : x.rolling = true) (hm : x.markers ≠ []) : execRollback rcb s = .next s := by
  have hne : x.markers.isEmpty = false := by simpa using hm
  unfold execRollback
  dsimp only
  rw [hdom]
  simp only [List.any_cons, List.any_nil, Bool.or_false, show Tbl.get? s.slots k = some x from hx, Option.any_some, hk, hdo, hroll, decide_true,
    Bool.and_self, Bool.not_true, Bool.false_eq_true, if_false, hne, Bool.not_false, Bool.true_or, if_true]

theorem rollback_restarts (hroll : x.rolling = true) (hm : x.markers = []) (hsit : s.sitLeft k = false) (hack : s.unackedOf k = false) :
    execRollback rcb s = .next (((s.undoLog k).foldl State.undoSector s).restart k) := by
  unfold execRollback
  dsimp only
  rw [hdom]
  simp only [List.any_cons, List.any_nil, Bool.or_false, show Tbl.get? s.slots k = some x from hx, Option.any_some, hk, hdo, hroll, decide_true,
    Bool.and_self, Bool.not_true, Bool.false_eq_true, if_false, hm, List.isEmpty_nil, hsit, hack, List.foldl_cons, List.foldl_nil]
  rfl

end Domain

/-! ## Restart from a checkpoint (R346) -/

/-- The entry of an instance that restarts. -/
def Slot.restarted (x : Slot) (p : Checkpoint) : Slot :=
  { x with ckpt := some { p with rollbacks := p.rollbacks + 1 }, kill := none, rolling := false, leases := [], offer := none, yieldAsked := none }

/-- The state that an instance restarts in, but for its context. -/
def State.rewound (s : State) (k : Nat) (y : Slot) : State :=
  { (s.resetShared k).setSlot k y with
    undo := (s.resetShared k).undo.filter (fun u => decide (u.slot ≠ k)), steps := (s.resetShared k).steps.filter (fun c => decide (c.2.slot ≠ k)) }

/-- The context of a checkpoint as it goes on: the register that the checkpoint names tells of the rollback. -/
def Checkpoint.resumed (p : Checkpoint) (slot engine cycle : Nat) (ph : Phase) : Context := (p.context slot engine cycle ph).putS p.dest 2

theorem resumed_spec (p : Checkpoint) (slot engine cycle : Nat) (ph : Phase) :
    let c := p.resumed slot engine cycle ph
    c.ref = ⟨slot, 0⟩ ∧ c.pc = p.pc ∧ c.hd = p.hd ∧ c.p = p.p ∧ c.loops = p.loops ∧ c.phase = ph ∧
      (∀ n : BitVec 5, n ≠ 0 → n ≠ p.dest → c.getS n = p.s[n.toNat]'n.isLt) ∧ (p.dest ≠ 0 → c.getS p.dest = 2) := by
  refine ⟨?_, putS_pc _ _ _, putS_hd _ _ _, putS_p _ _ _, putS_loops _ _ _, putS_phase _ _ _, fun n h0 hn => ?_, fun hd => getS_putS_same _ _ hd⟩
  · simp [Context.ref, Checkpoint.resumed, Checkpoint.context]
  · exact (getS_putS_ne _ _ hn).trans (if_neg h0)

section Restart
variable {s : State} {k : Nat} {x : Slot} (hx : EntryIs s k x)
include hx

theorem restart_resumes {p : Checkpoint} (hp : x.ckpt = some p) (hv : p.valid = true) (hr : p.rollbacks < 2) :
    s.restart k = (s.rewound k (x.restarted p)).addContext ((s.rewound k (x.restarted p)).withWindows (x.restarted p)
      (p.resumed k x.ccore s.cycle (if x.state = 2 then .ready else .stopped))) := by
  unfold State.restart
  rw [show Tbl.get? s.slots k = some x from hx]
  dsimp only
  rw [hp]
  dsimp only
  rw [if_neg (by simp [hv, hr])]
  rfl

theorem rewound_ctx? (y : Slot) (hc : s.ctx? ⟨k, 0⟩ = none) : (s.rewound k y).ctx? ⟨k, 0⟩ = none := by
  rw [ctx?_none_iff] at hc ⊢
  have : (s.rewound k y).names = s.names := resetShared_names hx
  rwa [this]

theorem restart_spec {p : Checkpoint} (hp : x.ckpt = some p) (hv : p.valid = true) (hr : p.rollbacks < 2) (hc : s.ctx? ⟨k, 0⟩ = none) :
    ∃ c : Context, EntryIs (s.restart k) k (x.restarted p) ∧ (s.restart k).ctx? ⟨k, 0⟩ = some c ∧ c.pc = p.pc ∧ c.hd = p.hd ∧ c.p = p.p ∧
      c.loops = p.loops ∧ c.phase = (if x.state = 2 then .ready else .stopped) ∧
      (∀ n : BitVec 5, n ≠ 0 → n ≠ p.dest → c.getS n = p.s[n.toNat]'n.isLt) ∧ (p.dest ≠ 0 → c.getS p.dest = 2) := by
  set y := x.restarted p with hy
  set c := (s.rewound k y).withWindows y (p.resumed k x.ccore s.cycle (if x.state = 2 then .ready else .stopped)) with hcdef
  have hres : s.restart k = (s.rewound k y).addContext c := restart_resumes hx hp hv hr
  obtain ⟨href, hrest⟩ := resumed_spec p k x.ccore s.cycle (if x.state = 2 then .ready else .stopped)
  have hcref : c.ref = ⟨k, 0⟩ := href
  have hctx := ctx?_addContext (s := s.rewound k y) (c := c) (by rw [hcref]; exact rewound_ctx? hx y hc)
  rw [hcref] at hctx
  refine ⟨c, ?_, by rw [hres]; exact hctx, hrest⟩
  have hslots : (s.restart k).slots = (s.rewound k y).slots := by
    rw [hres]
    exact (congrArg State.slots (addContext_but_ctxs (s.rewound k y) c) :)
  unfold EntryIs
  rw [hslots]
  exact tbl_get_set _ _ _

end Restart

/-! ## No checkpoint to restart from -/

/-- A checkpoint that an instance cannot restart from. -/
def Spent (c : Option Checkpoint) : Prop := c = none ∨ ∃ p : Checkpoint, c = some p ∧ (p.valid = false ∨ 2 ≤ p.rollbacks)

/-- Entry k is as before but for a checkpoint that is spent. -/
def SpentEntry (k : Nat) (x : Slot) (t : State) : Prop := ∃ c, EntryIs t k { x with ckpt := c } ∧ Spent c

namespace SpentEntry
variable {s t : State} {k : Nat} {x : Slot}

theorem of_slots (h : SpentEntry k x s) (ht : t.slots = s.slots) : SpentEntry k x t := by
  obtain ⟨c, hc, hs⟩ := h
  exact ⟨c, by simpa [EntryIs, ht] using hc, hs⟩

theorem logUndo (h : SpentEntry k x s) (slot budget pa : Nat) (ckpt : Bool) : SpentEntry k x (s.logUndo slot budget pa ckpt) := by
  unfold State.logUndo
  split
  · exact h
  · rename_i y hy
    split
    · exact h
    · dsimp only
      split
      · exact h
      · split
        · obtain ⟨c, hc, hs⟩ := h
          refine of_slots (s := { s with slots := Tbl.set s.slots slot _ }) ?_ (congrArg State.slots (post_but_posted _ _ _) :)
          by_cases hk : k = slot
          · subst hk
            obtain rfl : y = { x with ckpt := c } := Option.some.inj (hy.symm.trans hc)
            exact ⟨_, tbl_get_set _ _ _, .inr ⟨_, rfl, .inl rfl⟩⟩
          · exact ⟨c, (tbl_get_set_ne _ _ hk).trans hc, hs⟩
        · exact h.of_slots rfl

theorem writeback (h : SpentEntry k x s) (z : L1Sector) : SpentEntry k x (s.writeback z) :=
  (h.logUndo z.by_.slot (s.undobOf z.by_.slot) z.pa z.ckpt).of_slots rfl

theorem recallLine (h : SpentEntry k x s) (pa : Nat) : SpentEntry k x (s.recallLine pa) := by
  have : SpentEntry k x ((s.l1.filter (fun z => z.pa / 64 = pa / 64 && z.dirty)).foldl (fun t z => t.writeback z) s) :=
    foldl_holds (P := fun t : State => SpentEntry k x t) _ (fun _ z _ ht => ht.writeback z) h
  exact this.of_slots rfl

theorem writeThrough (h : SpentEntry k x s) (by_ : CtxRef) (loc : Loc) (page : PageInfo) (pa : Nat) (bs : List Byte) (sc : Scope) :
    SpentEntry k x (s.writeThrough by_ loc page pa bs sc) := by
  rw [writeThrough_eq]
  exact foldl_holds (P := fun t : State => SpentEntry k x t) _ (fun t c _ ht => (ht.logUndo _ _ _ _).of_slots writeCut_but_undo.2.1) h

theorem undoSector (h : SpentEntry k x s) (u : UndoRec) : SpentEntry k x (s.undoSector u) := by
  unfold State.undoSector
  refine writeThrough ?_ _ _ _ _ _ _
  exact (h.recallLine u.pa).of_slots rfl

end SpentEntry

/-- The entry of an instance whose domain's rollback kills it (R347). -/
def Slot.lost (x : Slot) : Slot := { x.setState 6 with kill := some (.reason 0x0300), rolling := false, markers := [] }

theorem restart_lost {s : State} {k : Nat} {x : Slot} (h : SpentEntry k x s) : ∃ c, s.restart k = s.setSlot k ({ x with ckpt := c } : Slot).lost := by
  obtain ⟨c, hc, hs⟩ := h
  refine ⟨c, ?_⟩
  unfold State.restart
  rw [show Tbl.get? s.slots k = some { x with ckpt := c } from hc]
  dsimp only
  rcases hs with rfl | ⟨p, rfl, hp⟩
  · rfl
  · dsimp only
    rw [if_pos]
    · rfl
    · rcases hp with hp | hp <;> simp [hp]

theorem lost_state (x : Slot) : x.lost.state = 6 := setState_state x 6

theorem undoSector_bytes (s : State) (u : UndoRec) (h : u.old.length = 32) : bytesFrom (s.undoSector u).lastByte u.pa 32 = u.old := by
  unfold State.undoSector
  dsimp only
  rw [← h]
  exact writeThrough_bytes _

theorem domains_roll_back (s : State) (rcb k : Nat) (x : Slot) (hdom : (s.slots.filter (fun y => y.2.bound && (s.path y.2.rcbx).contains rcb)).map (·.1) = [k])
    (hx : EntryIs s k x) (hk : x.kill = some .rollback) (hdo : s.domainOf x.rcbx = some rcb) :
     (x.rolling = false → ∃ (t : State) (y : Slot), exec (.rollback rcb) s = .next t ∧ EntryIs t k y ∧ y.rolling = true ∧ y.markers.map (·.1) = List.range 8 ∧
       y.kill = some .rollback ∧ t.ctxsOf k = []) ∧
     (x.rolling = true → x.markers ≠ [] → exec (.rollback rcb) s = .next s) ∧
     (x.rolling = true → x.markers = [] → s.sitLeft k = false → s.unackedOf k = false → s.ctx? ⟨k, 0⟩ = none →
       (∀ p : Checkpoint, x.ckpt = some p → p.valid = true → p.rollbacks < 2 → (∀ u ∈ s.undo, u.slot ≠ k) →
         ∃ (t : State) (y : Slot) (c : Context), exec (.rollback rcb) s = .next t ∧ EntryIs t k y ∧ y.state = x.state ∧ y.kill = none ∧ y.rolling = false ∧
           y.ckpt = some { p with rollbacks := p.rollbacks + 1 } ∧ t.ctx? ⟨k, 0⟩ = some c ∧ c.pc = p.pc ∧ c.hd = p.hd ∧ c.p = p.p ∧ c.loops = p.loops ∧
           c.phase = (if x.state = 2 then .ready else .stopped) ∧ (∀ n : BitVec 5, n ≠ 0 → n ≠ p.dest → c.getS n = p.s[n.toNat]'n.isLt) ∧
           (p.dest ≠ 0 → c.getS p.dest = 2)) ∧
       ((x.ckpt = none ∨ ∃ p : Checkpoint, x.ckpt = some p ∧ (p.valid = false ∨ 2 ≤ p.rollbacks)) →
         ∃ (t : State) (y : Slot), exec (.rollback rcb) s = .next t ∧ EntryIs t k y ∧ y.state = 6 ∧ y.kill = some (.reason 0x0300) ∧ y.rolling = false ∧
           ∀ u, s.undo = [u] → u.slot = k → u.old.length = 32 → u.pa % 32 = 0 → bytesFrom t.lastByte u.pa 32 = u.old)) := by
  refine ⟨rollback_quiesces hdom hx hk hdo, rollback_waits hdom hx hk hdo, fun hroll hm hsit hack hctx => ?_⟩
  have hexec : exec (.rollback rcb) s = .next (((s.undoLog k).foldl State.undoSector s).restart k) := rollback_restarts hdom hx hk hdo hroll hm hsit hack
  rw [hexec]
  constructor
  · intro p hp hv hr hundo
    have hlog : s.undoLog k = [] := by
      unfold State.undoLog
      rw [List.filter_eq_nil_iff.2 fun u hu => by simpa using hundo u hu]
      rfl
    rw [hlog, List.foldl_nil]
    obtain ⟨c, he, hc, hrest⟩ := restart_spec hx hp hv hr hctx
    exact ⟨_, _, c, rfl, he, rfl, rfl, rfl, rfl, hc, hrest⟩
  · intro hspent
    have hstart : SpentEntry k x s := ⟨x.ckpt, hx, hspent⟩
    have hundone : SpentEntry k x ((s.undoLog k).foldl State.undoSector s) :=
      foldl_holds (P := fun t : State => SpentEntry k x t) _ (fun _ u _ ht => ht.undoSector u) hstart
    obtain ⟨c, hc⟩ := restart_lost hundone
    rw [hc]
    refine ⟨_, _, rfl, entryIs_setSlot _ _ _, lost_state _, rfl, rfl, fun u hu hslot hlen _ => ?_⟩
    have hlog : s.undoLog k = [u] := by
      unfold State.undoLog
      rw [hu, List.filter_cons_of_pos (by simp [hslot])]
      rfl
    rw [hlog]
    exact undoSector_bytes s u hlen

/-! ## Scrubbing and marks -/

/-- The state with one more marked sector. -/
def State.marked (s : State) (pa : Nat) : State := if s.poison.contains pa then s else { s with poison := s.poison ++ [pa] }

theorem marked_spec (s : State) (pa : Nat) :
    pa ∈ (s.marked pa).poison ∧ (s.marked pa).mem = s.mem ∧ (s.marked pa).cur = s.cur ∧ ∀ a ∈ s.poison, a ∈ (s.marked pa).poison := by
  unfold State.marked
  split
  · rename_i h
    exact ⟨by simpa using h, rfl, rfl, fun a ha => ha⟩
  · exact ⟨by simp, rfl, rfl, fun a ha => List.mem_append_left _ ha⟩

/-- Marking touches no more than the marks, the fault report and the struck entries (R368). -/
theorem mark_keeps (s : State) (pa : Nat) :
    (s.mark pa).poison = (s.marked pa).poison ∧ (s.mark pa).mem = (s.marked pa).mem ∧ (s.mark pa).cur = (s.marked pa).cur := by
  unfold State.mark
  dsimp only
  rw [show (if s.poison.contains pa then s else { s with poison := s.poison ++ [pa] }) = s.marked pa from rfl]
  split
  · split <;> exact ⟨rfl, rfl, rfl⟩
  · have hb := markContained_but_slots (s.marked pa) (s.attributedTo pa)
    exact ⟨(congrArg State.poison hb :), (congrArg State.mem hb :), (congrArg State.cur hb :)⟩

theorem scrub_marks (u : ScrubUnit) (n : Nat) (s : State) : exec (.scrub u n .clean) s = .next s ∧ exec (.scrub u n .correctable) s = .next s ∧
    (scrubOk u n = true → ∃ t, exec (.scrub u n .uncorrectable) s = .next t ∧ scrubPa u n ∈ t.poison ∧ t.mem = s.mem ∧ t.cur = s.cur ∧
      (∀ a ∈ s.poison, a ∈ t.poison)) := by
  refine ⟨rfl, rfl, fun h => ⟨s.mark (scrubPa u n), ?_, ?_⟩⟩
  · show execScrub u n .uncorrectable s = _
    unfold execScrub
    dsimp only
    rw [if_pos h]
  · obtain ⟨hp, hm, hc⟩ := mark_keeps s (scrubPa u n)
    obtain ⟨hin, hmem, hcur, hold⟩ := marked_spec s (scrubPa u n)
    exact ⟨hp ▸ hin, hm.trans hmem, hc.trans hcur, fun a ha => hp ▸ hold a ha⟩

theorem strike_entry (s : State) (k : Nat) (x : Slot) (hx : EntryIs s k x) (hb : x.bound = true) (hk : x.kill = none) :
    EntryIs (s.strike k) k { x with kill := some .rollback } := by
  have hany : (Tbl.get? s.slots k).any Slot.bound = true := by
    rw [show Tbl.get? s.slots k = some x from hx]
    exact hb
  have hmark : s.markContained [k] = s.setSlot k { x with kill := some .rollback } := by
    unfold State.markContained
    rw [List.foldl_cons, List.foldl_nil, show Tbl.get? s.slots k = some x from hx]
    dsimp only
    rw [if_pos (by simp [hk])]
    rfl
  unfold State.strike
  rw [if_pos hany, hmark]
  exact entryIs_setSlot _ _ _

theorem strikeCounter_inconsistent (s : State) (n : Nat) (t : Trough) (ht : Tbl.get? s.troughs n = some t) (hcap : 1 ≤ t.cap) :
    ∃ u, Tbl.get? (s.strikeCounter n).troughs n = some u ∧ u.consistent = false := by
  unfold State.strikeCounter
  rw [ht]
  refine ⟨_, tbl_get_set _ _ _, ?_⟩
  have hlt : (t.head + 2 * t.cap - t.tail) % (2 * t.cap) < 2 * t.cap := Nat.mod_lt _ (by omega)
  unfold Trough.consistent
  dsimp only
  rw [Bool.and_eq_false_iff]
  exact .inr (beq_eq_false_iff_ne.2 (by omega))

/-- Settles O45: the kill sequence and its end, rollbacks, scrubbing, and what a strike marks. -/
theorem killsAndRollbacks : Obligations.KillsAndRollbacks := by
  unfold Obligations.KillsAndRollbacks
  exact ⟨kills_end, rollback_unstruck, domains_roll_back, scrub_marks, strike_entry, strikeCounter_inconsistent⟩

end Sys2Proof.Machine
end

section
/-! PROOFS. Fields of the instruction layouts (R59 to R70): each layout packs its fields side by side, so each reads back as it was packed. -/
namespace Sys2Proof

/-! ## Fields of appended words. In a layout a width is a sum of numerals, which `no_index` keeps out of the simp index. -/

section
variable {u v w lo n : Nat} (x : BitVec v) (y : BitVec w)

@[simp] theorem fld_append_of_le (h : w ≤ lo) : fld (HAppend.hAppend (γ := BitVec (no_index (v + w))) x y) lo n = fld x (lo - w) n :=
  BitVec.extractLsb'_append_eq_of_le h

@[simp] theorem fld_append_of_add_le (h : lo + n ≤ w) : fld (HAppend.hAppend (γ := BitVec (no_index (v + w))) x y) lo n = fld y lo n :=
  BitVec.extractLsb'_append_eq_of_add_le h

@[simp] theorem flag_append_of_le (h : w ≤ lo) : flag (HAppend.hAppend (γ := BitVec (no_index (v + w))) x y) lo = flag x (lo - w) := by
  rw [flag, BitVec.getLsbD_append, if_neg (by omega)]

@[simp] theorem flag_append_of_lt (h : lo < w) : flag (HAppend.hAppend (γ := BitVec (no_index (v + w))) x y) lo = flag y lo := by
  rw [flag, BitVec.getLsbD_append, if_pos h]

@[simp] theorem flag_bit1 (b : Bool) : flag (bit1 b) 0 = b := by simp

/-- Two fields side by side read as one. -/
theorem fld_append_append (z : BitVec u) : fld (z ++ x ++ y) 0 (v + w) = x ++ y := by
  refine BitVec.eq_of_getLsbD_eq fun i hi => ?_
  rw [BitVec.getLsbD_extractLsb', BitVec.getLsbD_append, BitVec.getLsbD_append, BitVec.getLsbD_append, Nat.zero_add]
  simp only [hi, decide_true, Bool.true_and]
  split
  · rfl
  · rw [if_pos (by omega)]

/-- A word cut in two is its two parts side by side. -/
theorem fld_append_fld (x : BitVec (v + w)) : fld x w v ++ fld x 0 w = x := by
  rw [fld, fld, BitVec.extractLsb'_append_extractLsb'_eq_extractLsb' (Nat.zero_add w).symm, BitVec.extractLsb'_eq_self]

end

/-! ## The layouts -/

section
variable {lo n : Nat} (maj : BitVec 7)

@[simp] theorem packR_fields (d a b : BitVec 5) (qa qb : Bool) (fn : BitVec 8) :
    let w := packR maj d a b qa qb fn
    fld w 25 7 = maj ∧ fld w 20 5 = d ∧ fld w 15 5 = a ∧ fld w 10 5 = b ∧ flag w 9 = qa ∧ flag w 8 = qb := by
  simp [packR, -BitVec.getLsbD_eq_getElem]

@[simp] theorem packR_fn (d a b : BitVec 5) (qa qb : Bool) (fn : BitVec 8) (h : lo + n ≤ 8) : fld (packR maj d a b qa qb fn) lo n = fld fn lo n := by
  simp [packR, h]

@[simp] theorem packI_fields (d a : BitVec 5) (qa : Bool) (imm : BitVec 14) :
    let w := packI maj d a qa imm
    fld w 25 7 = maj ∧ fld w 20 5 = d ∧ fld w 15 5 = a ∧ flag w 14 = qa := by
  simp [packI, -BitVec.getLsbD_eq_getElem]

@[simp] theorem packI_imm (d a : BitVec 5) (qa : Bool) (imm : BitVec 14) (h : lo + n ≤ 14) : fld (packI maj d a qa imm) lo n = fld imm lo n := by
  simp [packI, h]

@[simp] theorem packM_fields (d base : BitVec 5) (sz : BitVec 2) (sc : BitVec 3) (ord : BitVec 2) (off : BitVec 8) :
    let w := packM maj d base sz sc ord off
    fld w 25 7 = maj ∧ fld w 20 5 = d ∧ fld w 15 5 = base ∧ fld w 13 2 = sz ∧ fld w 10 3 = sc ∧ fld w 8 2 = ord ∧ fld w 0 8 = off := by
  simp [packM]

@[simp] theorem packB_fields (a b : BitVec 5) (qa qb : Bool) (off : BitVec 13) :
    let w := packB maj a b qa qb off
    fld w 25 7 = maj ∧ fld w 20 5 = a ∧ fld w 15 5 = b ∧ flag w 14 = qa ∧ flag w 13 = qb ∧ fld w 0 13 = off := by
  simp [packB, -BitVec.getLsbD_eq_getElem]

@[simp] theorem packJ_fields (d : BitVec 5) (off : BitVec 20) :
    let w := packJ maj d off
    fld w 25 7 = maj ∧ fld w 20 5 = d ∧ fld w 0 20 = off := by
  simp [packJ]

@[simp] theorem packL_fields (x : BitVec 11) (endw : BitVec 12) (stg : BitVec 2) :
    let w := packL maj x endw stg
    fld w 25 7 = maj ∧ fld w 25 1 = fld maj 0 1 ∧ fld w 20 5 = fld x 6 5 ∧ fld w 14 11 = x ∧ flag w 19 = flag x 5 ∧ fld w 2 12 = endw ∧ fld w 0 2 = stg := by
  simp [packL, -BitVec.getLsbD_eq_getElem]

@[simp] theorem packVV_fields (vd va vb msk : BitVec 4) (mz : Bool) (ty : BitVec 3) (fn : BitVec 5) :
    let w := packVV maj vd va vb msk mz ty fn
    fld w 25 7 = maj ∧ fld w 21 4 = vd ∧ fld w 17 4 = va ∧ fld w 13 4 = vb ∧ fld w 9 4 = msk ∧ flag w 8 = mz ∧ fld w 5 3 = ty ∧ fld w 0 5 = fn := by
  simp [packVV, -BitVec.getLsbD_eq_getElem]

@[simp] theorem packVS_fields (vd va : BitVec 4) (sb : BitVec 5) (qb : Bool) (msk : BitVec 4) (mz : Bool) (ty fn : BitVec 3) :
    let w := packVS maj vd va sb qb msk mz ty fn
    fld w 25 7 = maj ∧ fld w 21 4 = vd ∧ fld w 21 3 = fld vd 0 3 ∧ fld w 17 4 = va ∧ fld w 17 3 = fld va 0 3 ∧ fld w 17 8 = vd ++ va ∧
    fld w 12 5 = sb ∧ flag w 11 = qb ∧ fld w 7 4 = msk ∧ flag w 6 = mz ∧ fld w 3 3 = ty ∧ fld w 0 3 = fn := by
  simpa [packVS, -BitVec.getLsbD_eq_getElem] using fld_append_append vd va maj

@[simp] theorem packVA_fields (vd : BitVec 4) (as : BitVec 3) (pi : Bool) (msk : BitVec 4) (mz : Bool) (ty : BitVec 3) (off : BitVec 9) :
    let w := packVA maj vd as pi msk mz ty off
    fld w 25 7 = maj ∧ fld w 21 4 = vd ∧ fld w 18 3 = as ∧ flag w 17 = pi ∧ fld w 13 4 = msk ∧ flag w 12 = mz ∧ fld w 9 3 = ty := by
  simp [packVA, -BitVec.getLsbD_eq_getElem]

@[simp] theorem packVA_off (vd : BitVec 4) (as : BitVec 3) (pi : Bool) (msk : BitVec 4) (mz : Bool) (ty : BitVec 3) (off : BitVec 9) (h : lo + n ≤ 9) :
    fld (packVA maj vd as pi msk mz ty off) lo n = fld off lo n := by
  simp [packVA, h]

@[simp] theorem packH_fields (sa sb : BitVec 5) (qa qb : Bool) (opt : BitVec 9) (fn : BitVec 4) :
    let w := packH maj sa sb qa qb opt fn
    fld w 25 7 = maj ∧ fld w 20 5 = sa ∧ fld w 15 5 = sb ∧ flag w 14 = qa ∧ flag w 13 = qb ∧ fld w 7 2 = fld opt 3 2 ∧ flag w 6 = flag opt 2 ∧
    flag w 5 = flag opt 1 ∧ flag w 4 = flag opt 0 ∧ fld w 4 2 = fld opt 0 2 ∧ fld w 4 5 = fld opt 0 5 ∧ fld w 0 4 = fn := by
  simp [packH, -BitVec.getLsbD_eq_getElem]

@[simp] theorem packC_fields (sa sb : BitVec 5) (ct : BitVec 6) (rl : Bool) (sc : BitVec 3) (fn : BitVec 5) :
    let w := packC maj sa sb ct rl sc fn
    fld w 25 7 = maj ∧ fld w 20 5 = sa ∧ fld w 15 5 = sb ∧ fld w 9 6 = ct ∧ flag w 8 = rl ∧ fld w 5 3 = sc ∧ fld w 0 5 = fn := by
  simp [packC, -BitVec.getLsbD_eq_getElem]

@[simp] theorem packStep_fields (op : BitVec 6) (o : StepF) :
    fld (packStep op o) 58 6 = op ∧ fld (packStep op o) 40 3 = 0 ∧ StepF.unpack (packStep op o) = o := by
  simp [packStep, StepF.unpack]

end

/-- A step word whose reserved bits are 0 is what its fields pack to (R70). -/
theorem packStep_unpack {w : SWord} (h : fld w 40 3 = 0) : packStep (fld w 58 6) (StepF.unpack w) = w := by
  have hz : 0#3 = w.extractLsb' 40 3 := h.symm
  simp only [packStep, StepF.unpack, hz, BitVec.extractLsb'_append_extractLsb'_eq_extractLsb', BitVec.extractLsb'_eq_self]

end Sys2Proof
end

section
/-! PROOFS. The decoder undoes the encoder (R71, R83). -/
namespace Sys2Proof

/-! ## From an instruction to its word: allocation finds the row again -/

/-! The layout fixes each row's major and function code, which choose the row; its operand fields then read back. The rows in which a field is cut in
two or shares its code with another row have a case of their own. -/

theorem rawWord_encode_cc {i : Instr} {w : IWord} (he : encode i = .word (some .cc) w) : rawWord .cc w = .ok i := by
  cases i <;> cases he
  all_goals simp [rawWord, rawCc, RRR.unpack, RRD.unpack, RA.unpackR, ObjA.unpack, ObjD.unpack, Amo.unpack, Cas.unpack, objImm,
    -BitVec.getLsbD_eq_getElem]

theorem rawWord_encode_ve {i : Instr} {w : IWord} (he : encode i = .word (some .ve) w) : rawWord .ve w = .ok i := by
  cases i <;> cases he
  case vmovs o =>
    have hindex := fld_append_fld (v := 4) (w := 4) o.n
    simp [rawWord, rawVe, VMov.unpack, hindex]
  all_goals simp [rawWord, rawVe, VV.unpack, VU.unpack, VVnz.unpack, VMask.unpack, VDst.unpack, VS.unpack, VPopF.unpack, VPushF.unpack,
    VSb.unpack, VSlot.unpack, VMpop.unpack, VA.unpack, VAIdx.unpack, VTr.unpack, VTrS.unpack, -BitVec.getLsbD_eq_getElem]

theorem rawWord_encode_he {i : Instr} {w : IWord} (he : encode i = .word (some .he) w) : rawWord .he w = .ok i := by
  cases i <;> cases he
  all_goals simp [rawWord, rawHe, HAdmA.unpack, HAdmG.unpack, H2.unpack, H1.unpack, H1F.unpack, HVerF.unpack, -BitVec.getLsbD_eq_getElem]

theorem rawWord_encode_ce {i : Instr} {w : IWord} (he : encode i = .word (some .ce) w) : rawWord .ce w = .ok i := by
  cases i <;> cases he
  all_goals simp [rawWord, rawCe, Cpy.unpack, CTplF.unpack, CZeroF.unpack, -BitVec.getLsbD_eq_getElem]

/-- SYSW's plain form answers every index that `syswOk` leaves to it. -/
theorem rawSysw_sysw {o : SysW} (h : syswOk o.idx = true) : rawSysw (packI 0x2B#7 0 o.a o.qa (0#2 ++ o.idx)) = .ok (.sysw o) := by
  simp only [syswOk, Bool.and_eq_true, bne_iff_ne, Bool.not_eq_true'] at h
  obtain ⟨⟨⟨(hfcsr : o.idx ≠ 0x001#12), (hbank : fld o.idx 4 8 ≠ 0x02#8)⟩, (hqb : fld o.idx 2 10 ≠ 0x014#10)⟩,
    (hli : (0x060#12 ≤ o.idx && o.idx ≤ 0x065#12) = false)⟩ := h
  simp [rawSysw, SysW.unpack, hfcsr, hbank, hqb, hli, -BitVec.getLsbD_eq_getElem]

/-- The index of BANKCFGn as SYSW's other forms see it. -/
theorem bankcfg_index (n : BitVec 4) : let i : BitVec 14 := 0#2 ++ 0x02#8 ++ n
    (0x060#12 ≤ fld i 0 12 && fld i 0 12 ≤ 0x065#12) = false ∧ fld i 0 12 ≠ 0x001#12 ∧ fld i 4 8 = 0x02#8 ∧ fld i 0 4 = n := by
  revert n
  decide

/-- The index of QBn as SYSW's other forms see it. -/
theorem qb_index (n : BitVec 2) : let i : BitVec 14 := 0#2 ++ 0x014#10 ++ n
    (0x060#12 ≤ fld i 0 12 && fld i 0 12 ≤ 0x065#12) = false ∧ fld i 0 12 ≠ 0x001#12 ∧ fld i 4 8 ≠ 0x02#8 ∧ fld i 2 10 = 0x014#10 ∧ fld i 0 2 = n := by
  revert n
  decide

theorem rawSysw_syswBankcfg (o : SysWN 4) : rawSysw (packI 0x2B#7 0 o.a o.qa (0#2 ++ 0x02#8 ++ o.n)) = .ok (.syswBankcfg o) := by
  obtain ⟨hli, hfcsr, hbank, hn⟩ := bankcfg_index o.n
  simp [rawSysw, SysWN.unpack, hli, hfcsr, hbank, hn, -BitVec.getLsbD_eq_getElem, -BitVec.reduceAppend]

theorem rawSysw_syswQb (o : SysWN 2) : rawSysw (packI 0x2B#7 0 o.a o.qa (0#2 ++ 0x014#10 ++ o.n)) = .ok (.syswQb o) := by
  obtain ⟨hli, hfcsr, hbank, hqb, hn⟩ := qb_index o.n
  simp [rawSysw, SysWN.unpack, hli, hfcsr, hbank, hqb, hn, -BitVec.getLsbD_eq_getElem, -BitVec.reduceAppend, -fld_append_of_le,
    -fld_append_of_add_le]

/-- LOOPI's bit 11 chooses between its two majors. -/
theorem rawCommon_loopi (x : BitVec 1) (y : BitVec 11) (endw : BitVec 12) (stg : BitVec 2) :
    let w := packL (0x1F#6 ++ x) y endw stg
    (fld w 25 7).toNat < 0x40 ∧ rawCommon w = .ok (.loopi ⟨x ++ y, endw, stg⟩) := by
  obtain rfl | rfl := BitVec.eq_zero_or_eq_one x
  all_goals simp [rawCommon, LoopImm.unpack, fld]

/-- A word of every kind has a major below 0x40 (R55). -/
theorem rawCommon_encode {i : Instr} {w : IWord} (he : encode i = .word none w) (hwf : i.wf = true) :
    (fld w 25 7).toNat < 0x40 ∧ rawCommon w = .ok i := by
  cases i <;> cases he
  case loopi o =>
    have hloopi := rawCommon_loopi (fld o.n 11 1) (fld o.n 0 11) o.endw o.stg
    rwa [fld_append_fld (v := 1) (w := 11) o.n] at hloopi
  case sysw o => simpa [rawCommon] using rawSysw_sysw hwf
  case syswBankcfg o => simpa [rawCommon] using rawSysw_syswBankcfg o
  case syswQb o => simpa [rawCommon] using rawSysw_syswQb o
  case syswFcsr => simp [rawCommon, rawSysw, RA.unpackI, fld, -BitVec.getLsbD_eq_getElem]
  all_goals simp [rawCommon, RRR.unpack, RRD.unpack, RA.unpackR, PPP.unpack, Imm.unpack, ImmSh.unpack, MPlain.unpack, MOrd.unpack, Br.unpack,
    BrP.unpack, Jmp.unpack, LoopReg.unpack, SysR.unpack, -BitVec.getLsbD_eq_getElem]

/-- A word is read as the well-formed instruction that it encodes, in every kind of context that may run it. -/
theorem rawWord_encode {i : Instr} {own : Option Kind} {w : IWord} {k : Kind} (he : encode i = .word own w) (hwf : i.wf = true)
    (hk : own = none ∨ own = some k) : rawWord k w = .ok i := by
  obtain rfl | rfl := hk
  · obtain ⟨hmaj, hraw⟩ := rawCommon_encode he hwf
    exact (if_pos hmaj).trans hraw
  · cases k with
    | cc => exact rawWord_encode_cc he
    | ve => exact rawWord_encode_ve he
    | he => exact rawWord_encode_he he
    | ce => exact rawWord_encode_ce he
    | se => cases i <;> cases he

/-! ## From a word to its instruction: the row belongs to the kind -/

/-- What the allocation gives is an instruction of every kind or of the context's own. -/
theorem encode_of_rawWord {k : Kind} {w : IWord} {i : Instr} (h : rawWord k w = .ok i) :
    ∃ own v, encode i = .word own v ∧ (own = none ∨ own = some k) := by
  unfold rawWord rawCommon rawSysw rawCc rawVe rawHe rawCe at h
  dsimp only at h
  repeat' split at h
  all_goals cases h
  all_goals exact ⟨_, _, rfl, by simp⟩

/-- R71's checks in one: a word decodes to what its allocation gives exactly when that is well formed and encoded as the word. -/
theorem decodeWord_eq_ok {k : Kind} {w : IWord} {i : Instr} :
    decodeWord k w = .ok i ↔ rawWord k w = .ok i ∧ (encode i).word? = some w ∧ i.wf = true := by
  unfold decodeWord
  cases rawWord k w with
  | error e => simp
  | ok j =>
    dsimp only
    constructor
    · intro h
      split_ifs at h with hj
      cases h
      exact ⟨rfl, hj⟩
    · rintro ⟨⟨⟩, hj⟩
      exact if_pos hj

theorem word?_eq_some {x : Enc} {w : IWord} : x.word? = some w ↔ ∃ own, x = .word own w := by
  cases x <;> simp [Enc.word?]

/-! ## Step words (R70) -/

/-- A step word's OP gives the step, whose operands are the word's fields. -/
theorem encode_of_rawStep {w : SWord} {i : Instr} (h : rawStep w = .ok i) :
    encode i = .step (packStep (fld w 58 6) (StepF.unpack w)) ∧ i.wf = (stepOk (StepF.unpack w) && i.stepFlagsOk (StepF.unpack w)) := by
  unfold rawStep at h
  split at h
  all_goals cases h
  all_goals
    rename_i hop
    exact ⟨congrArg (fun op => Enc.step (packStep op (StepF.unpack w))) (BitVec.eq_of_toNat_eq hop).symm, rfl⟩

theorem rawStep_encode {i : Instr} {w : SWord} (he : encode i = .step w) : rawStep w = .ok i ∧ fld w 40 3 = 0 := by
  cases i <;> cases he
  all_goals simp [rawStep]

/-- `stepOk` in the form of the decoder's checks. -/
theorem stepOk_iff (o : StepF) : stepOk o = true ↔ ¬ 4 < o.nin.toNat ∧ o.inputsClean = true ∧ ¬(o.fl.getLsbD 3 = false ∧ o.out ≠ 0) := by
  rw [stepOk, Bool.and_eq_true, Bool.and_eq_true, Bool.or_eq_true, decide_eq_true_eq, beq_iff_eq, and_assoc, Nat.not_lt,
    not_and_not_right, ← Bool.not_eq_true, or_iff_not_imp_left]

/-- R70's checks in one: a step word decodes to the step of its OP exactly when they all pass. -/
theorem decodeStep_eq_ok {w : SWord} {i : Instr} :
    decodeStep w = .ok i ↔ rawStep w = .ok i ∧ fld w 40 3 = 0 ∧ stepOk (StepF.unpack w) = true ∧ i.stepFlagsOk (StepF.unpack w) = true := by
  rw [stepOk_iff]
  unfold decodeStep
  cases rawStep w with
  | error e => simp
  | ok j =>
    dsimp only
    constructor
    · intro h
      split_ifs at h with hnin hres hout
      cases h
      obtain ⟨hres, hclean, hflags⟩ : fld w 40 3 = 0 ∧ (StepF.unpack w).inputsClean = true ∧ i.stepFlagsOk (StepF.unpack w) = true := by
        simpa [not_or] using hres
      exact ⟨rfl, hres, ⟨hnin, hclean, hout⟩, hflags⟩
    · rintro ⟨⟨⟩, hres, ⟨hnin, hclean, hout⟩, hflags⟩
      rw [if_neg hnin, if_neg (by simp [hres, hclean, hflags]), if_neg hout]

/-- Settles O57: the rows one by one from an instruction to its word, the branches of the allocation from a word to its instruction; what the decoder
checks after the allocation is that the word is the encoding. -/
theorem encodeDecode : Obligations.EncodeDecode := by
  unfold Obligations.EncodeDecode
  refine ⟨fun i own w k hwf he hk => ?_, fun i w hwf he => ?_, fun k w i h => ?_, fun w i h => ?_⟩
  · exact decodeWord_eq_ok.2 ⟨rawWord_encode he hwf hk, word?_eq_some.2 ⟨own, he⟩, hwf⟩
  · obtain ⟨hraw, hres⟩ := rawStep_encode he
    exact decodeStep_eq_ok.2 ⟨hraw, hres, by rwa [(encode_of_rawStep hraw).2, Bool.and_eq_true] at hwf⟩
  · obtain ⟨hraw, hword, hwf⟩ := decodeWord_eq_ok.1 h
    obtain ⟨own, he⟩ := word?_eq_some.1 hword
    obtain ⟨own', v, he', hk⟩ := encode_of_rawWord hraw
    obtain ⟨rfl, -⟩ := Enc.word.inj (he.symm.trans he')
    exact ⟨hwf, own, he, hk⟩
  · obtain ⟨hraw, hres, hok⟩ := decodeStep_eq_ok.1 h
    obtain ⟨he, hwf⟩ := encode_of_rawStep hraw
    exact ⟨by rwa [hwf, Bool.and_eq_true], packStep_unpack hres ▸ he⟩

end Sys2Proof
end

section
/-! PROOFS. One step runs what it fetches (R54, R56, R267): the current context's next move, a step context's next word, and the moves the agenda
names. -/
namespace Sys2Proof.Machine

variable {s : State}

/-! ## The current context -/

/-- With nothing on the agenda, a context that may issue makes its next move. -/
theorem step_of_issuable (hagenda : s.agenda = []) (hissuable : s.issuable s.cur = true) : step s = s.issueCur := by
  rw [step, State.stepMove, hagenda]
  exact if_pos hissuable

/-- The instruction fetched is run, with its exception where there is none. -/
def State.runFetched (s : State) (f : Option (Except DecodeErr Instr)) : Moved :=
  match f with
  | some (.ok i) => exec i s.issuing
  | some (.error e) => execUnallocatedEncoding e (BitVec.ofNat 64 (leNat ((s.fetch s.cur.slot s.cur.kind s.cur.pc).getD []))) s.issuing
  | none => runAct (raise 0x01 2 s.cur.pc) s.issuing

/-- A context that holds no fault and no event to deliver, and has not run into R78's watchdog, issues. -/
theorem issueCur_of_noneDue (hheld : s.atBoundary s.cur = false ∨ (s.cur.faults = [] ∧ s.cur.events = []))
    (hmax : s.cur.sinceBoundary ≤ s.maxiter s.cur.slot) : s.issueCur = s.runFetched s.fetched := by
  have hfault : ¬(s.atBoundary s.cur && !s.cur.faults.isEmpty) = true := by
    obtain h | ⟨h, -⟩ := hheld <;> simp [h]
  have hevent : ¬(s.atBoundary s.cur && !s.cur.events.isEmpty) = true := by
    obtain h | ⟨-, h⟩ := hheld <;> simp [h]
  rw [State.issueCur]
  rw [if_neg hfault, if_neg hevent, if_neg (Nat.not_lt.2 hmax)]
  rfl

theorem fetched_of_decodeBytes {bs rest : List Byte} {r : Except DecodeErr Instr} (hfetch : s.fetch s.cur.slot s.cur.kind s.cur.pc = some bs)
    (hdecode : decodeBytes s.cur.kind bs = some (r, rest)) : s.fetched = some r := by
  rw [State.fetched, hfetch]
  exact congrArg (Option.map Prod.fst) hdecode

theorem fetched_of_noFetch (hfetch : s.fetch s.cur.slot s.cur.kind s.cur.pc = none) : s.fetched = none := by
  rw [State.fetched, hfetch]

/-! ## The moves of the agenda -/

/-- The agenda's first move is made. -/
theorem step_of_agenda {m : Move} {rest : List Move} (hagenda : s.agenda = m :: rest) : step s = ({ s with agenda := rest } : State).move m := by
  rw [step, State.stepMove, hagenda]

/-- A step context that is ready, with no DONE armed, issues its next word while its slot runs. -/
theorem stepIssue_of_ready {h : Nat} {c : StepCtx} (hget : Tbl.get? s.steps h = some c) (hstatus : c.status = none) (hready : c.ready = true)
    (hstore : ∀ a ∈ c.store, a.op ≠ .done) (hrun : s.running c.slot = true) : s.stepIssue h = ({ s with curStep := h } : State).stepWord h c := by
  have hidle : ¬(c.status.isSome || !s.running c.slot || c.store.any (fun a => a.op = .done)) = true := by
    simpa [hstatus, hrun] using hstore
  rw [State.stepIssue, hget]
  dsimp only
  rw [if_neg hidle, if_pos hready]

theorem stepWord_of_ok {h : Nat} {c : StepCtx} {bs : List Byte} {i : Instr} (hfetch : s.fetch c.slot .se c.pc = some bs)
    (hdecode : decodeStep (stepOfBytes bs) = .ok i) : s.stepWord h c = exec i s := by
  rw [State.stepWord, hfetch]
  dsimp only
  rw [hdecode]

theorem stepWord_of_error {h : Nat} {c : StepCtx} {bs : List Byte} {e : DecodeErr} (hfetch : s.fetch c.slot .se c.pc = some bs)
    (hdecode : decodeStep (stepOfBytes bs) = .error e) : s.stepWord h c = exec (.unallocatedEncoding e 0) s := by
  rw [State.stepWord, hfetch]
  dsimp only
  rw [hdecode]
  rfl

theorem stepWord_of_noFetch {h : Nat} {c : StepCtx} (hfetch : s.fetch c.slot .se c.pc = none) : s.stepWord h c = .next (s.stepStop h 0x01 2) := by
  rw [State.stepWord, hfetch]

/-- A message's type names its arrival (R373). -/
theorem arrive_by_type {m : Msg} {q : Instr × Nat} (hq : q ∈ [(Instr.cts m, 1), (.data m, 2), (.ack m, 3), (.coded m, 4), (.dnak m, 5), (.sia m, 6),
    (.siw m, 7), (.rmaWr m, 0x10), (.rmaRd m, 0x11), (.rmaResp m, 0x12)]) (htype : m.type = q.2) : s.arrive m = exec q.1 s := by
  simp only [List.mem_cons, List.not_mem_nil, or_false] at hq
  unfold State.arrive
  rw [htype]
  obtain rfl | rfl | rfl | rfl | rfl | rfl | rfl | rfl | rfl | rfl := hq
  all_goals rfl

/-- Settles O55: what the current context fetches, what a step context fetches, and the moves of the agenda, each by the branch of the machine that it
takes. -/
theorem stepRunsDecoded : Obligations.StepRunsDecoded := by
  unfold Obligations.StepRunsDecoded
  refine ⟨fun s bs hagenda hissuable hheld hmax => ?_, fun s hkind => if_neg hkind, fun s h rest c hagenda hget hstatus hready hstore hrun => ?_,
    fun s i rest hagenda => step_of_agenda hagenda, fun s m rest q hagenda hq htype => (step_of_agenda hagenda).trans (arrive_by_type hq htype)⟩
  · rw [step_of_issuable hagenda hissuable, issueCur_of_noneDue hheld hmax]
    refine ⟨fun hfetch => ⟨fun i rest hdecode => ?_, fun e rest hdecode => ?_⟩, fun hfetch => ?_⟩
    · rw [fetched_of_decodeBytes hfetch hdecode, State.runFetched]
    · rw [fetched_of_decodeBytes hfetch hdecode, State.runFetched, hfetch, Option.getD_some]
      rfl
    · rw [fetched_of_noFetch hfetch, State.runFetched]
  · have hstep : step s = ({ s with agenda := rest, curStep := h } : State).stepWord h c :=
      (step_of_agenda hagenda).trans (stepIssue_of_ready (s := { s with agenda := rest }) hget hstatus hready hstore hrun)
    rw [hstep]
    exact ⟨fun bs hfetch => ⟨fun i hdecode => stepWord_of_ok hfetch hdecode, fun e hdecode => stepWord_of_error hfetch hdecode⟩,
      fun hfetch => stepWord_of_noFetch hfetch⟩

end Sys2Proof.Machine
end

section
/-! PROOFS. Immediates and predicates (O2): what each operand form leaves when its sources are full, and the words and bits that the instructions
compute. -/
namespace Sys2Proof.Machine

/-! ## The operand forms with full sources (R60, R88, R130, R132) -/

section Forms
variable {s : State}

theorem iForm_done {o : Imm} (h : Imm_Ready o.d o.a s) {f : Word → BitVec 14 → Word} {v : Word} (hv : f (s.cur.getS o.a) o.imm = v) :
    runAct (iForm f o) s = .next (s.regDone o.d v) := by
  obtain ⟨hd, ha⟩ := h
  refine runAct_ok ?_
  rw [iForm, act_bind_destReady hd, act_bind_readSrc ha, hv]
  rfl

theorem shForm_done {o : ImmSh} (h : Imm_Ready o.d o.a s) {f : Word → Nat → Word} {v : Word} (hv : f (s.cur.getS o.a) o.sh.toNat = v) :
    runAct (shForm f o) s = .next (s.regDone o.d v) := by
  obtain ⟨hd, ha⟩ := h
  refine runAct_ok ?_
  rw [shForm, act_bind_destReady hd, act_bind_readSrc ha, hv]
  rfl

theorem psetForm_done {o : RRR} (ha : s.cur.isFull o.a = true) (hb : s.cur.isFull o.b = true) {f : Word → Word → Bool} {r : Bool}
    (hr : f (s.cur.getS o.a) (s.cur.getS o.b) = r) : runAct (psetForm f o) s = .next (s.predDone o.d r) := by
  refine runAct_ok ?_
  rw [psetForm, act_bind_readSrc ha, act_bind_readSrc hb, hr]
  rfl

theorem plogForm_done (o : PPP) {f : Bool → Bool → Bool} {r : Bool} (hr : f (s.cur.getP o.a) (s.cur.getP o.b) = r) :
    runAct (plogForm f o) s = .next (s.predDone o.d r) := by
  subst hr
  rfl

end Forms

/-! ## Words -/

section Words
variable (x y : Word) (k : Nat)

theorem boolWord_slt : boolWord (x.slt y) = if x.toInt < y.toInt then 1 else 0 := by
  simp [boolWord, BitVec.slt]

theorem bne_eq_decide_ne : (x != y) = decide (x ≠ y) := by
  rw [decide_not, bne, beq_eq_decide]

theorem shiftLeft_eq_mul : x <<< k = BitVec.ofNat 64 (x.toNat * 2 ^ k) :=
  BitVec.eq_of_toNat_eq (by simp [Nat.shiftLeft_eq])

theorem ushiftRight_eq_div : x >>> k = BitVec.ofNat 64 (x.toNat / 2 ^ k) := by
  refine BitVec.eq_of_toNat_eq ?_
  have hlt : x.toNat / 2 ^ k < 2 ^ 64 := (Nat.div_le_self _ _).trans_lt x.isLt
  rw [BitVec.toNat_ushiftRight, Nat.shiftRight_eq_div_pow, BitVec.toNat_ofNat, Nat.mod_eq_of_lt hlt]

theorem sshiftRight_eq_div : x.sshiftRight k = BitVec.ofInt 64 (x.toInt / 2 ^ k) := by
  rw [BitVec.sshiftRight, Int.shiftRight_eq_div_pow, Nat.cast_pow, Nat.cast_ofNat]

/-- LIH: the immediate fills the 14 bits that the shift leaves free, so that the disjunction is a sum (R130). -/
theorem shiftLeft_or_imm_eq_add (i : BitVec 14) : x <<< 14 ||| i.setWidth 64 = BitVec.ofNat 64 (x.toNat * 2 ^ 14 % 2 ^ 64 + i.toNat) := by
  have hi : i.toNat < 2 ^ 14 := i.isLt
  have hhigh : x.toNat * 2 ^ 14 % 2 ^ 64 = 2 ^ 14 * (x.toNat % 2 ^ 50) := by omega
  have hfits : 2 ^ 14 * (x.toNat % 2 ^ 50) + i.toNat < 2 ^ 64 := by omega
  refine BitVec.eq_of_toNat_eq ?_
  rw [BitVec.toNat_or, BitVec.toNat_shiftLeft, BitVec.toNat_setWidth, BitVec.toNat_ofNat, Nat.shiftLeft_eq, hhigh, Nat.mod_eq_of_lt hfits,
    Nat.mod_eq_of_lt (by omega : i.toNat < 2 ^ 64), Nat.two_pow_add_eq_or_of_lt hi]

end Words

/-- Settles O2: each instruction is an operand form with full sources, and its word or bit is the one R130 and R132 name. -/
theorem immediatesAndPredicates : Obligations.ImmediatesAndPredicates := by
  refine ⟨⟨fun o s h => ?_, fun o s h => ?_⟩, fun o s ha hb => ?_, fun o s => ?_⟩
  · exact ⟨iForm_done h rfl, iForm_done h rfl, iForm_done h rfl, iForm_done h rfl, iForm_done h (boolWord_slt _ _),
      iForm_done h (shiftLeft_or_imm_eq_add _ _)⟩
  · exact ⟨shForm_done h (shiftLeft_eq_mul _ _), shForm_done h (ushiftRight_eq_div _ _), shForm_done h (sshiftRight_eq_div _ _)⟩
  · exact ⟨psetForm_done ha hb rfl, psetForm_done ha hb (bne_eq_decide_ne _ _), psetForm_done ha hb rfl, psetForm_done ha hb BitVec.sle_eq_not_slt.symm,
      psetForm_done ha hb rfl, psetForm_done ha hb (BitVec.ule_eq_not_ult _ _).symm⟩
  · refine ⟨plogForm_done o (f := (· && ·)) ?_, plogForm_done o (f := (· || ·)) ?_, plogForm_done o (f := (· != ·)) ?_,
      plogForm_done o (f := fun a b => a && !b) ?_⟩
    all_goals cases s.cur.getP o.a <;> cases s.cur.getP o.b <;> rfl

end Sys2Proof.Machine
end

section
/-! PROOFS. Atomics (O11), part 1: what an access has passed up to stage 2 is no part of what the writebacks of a release do (R146, R283). -/
namespace Sys2Proof.Machine

/-- The state in which the access at the current context's PC has passed p (R146). -/
def State.withPast (s : State) (p : Option Passed) : State := s.setCur (fun c => { c with past := p })

section WithPast
variable (s : State) (p : Option Passed)

theorem setCtx_withPast (r : CtxRef) {f : Context → Context} (hf : ∀ c : Context, f { c with past := p } = { f c with past := p }) :
    (s.withPast p).setCtx r f = (s.setCtx r f).withPast p := by
  by_cases h : s.cur.ref = r
  · subst h
    rw [setCtx_cur_ref, show (s.withPast p).setCtx s.cur.ref f = (s.withPast p).setCur f from setCtx_cur_ref (s.withPast p) f]
    exact congrArg (fun c => ({ s with cur := c } : State)) (hf s.cur)
  · unfold State.setCtx
    rw [if_neg h, if_neg (show (s.withPast p).cur.ref ≠ r from h)]
    rfl

theorem post_withPast (r : CtxRef) (f : FaultRec) : (s.withPast p).post r f = (s.post r f).withPast p := by
  have hset := setCtx_withPast s p r (f := fun c => { c with events := c.events ++ [{ f with event := true }] }) fun _ => rfl
  have hpost : ∀ c : Context, s.ctx? r = some c → ∀ d : Context, (s.withPast p).ctx? r = some d → d.tvec = c.tvec → d.events = c.events →
      (s.withPast p).post r f = (s.post r f).withPast p := by
    intro c hc d hd htvec hevents
    unfold State.post
    rw [hc, hd]
    dsimp only
    rw [htvec, hevents, hset]
    repeat' split
    all_goals rfl
  by_cases h : s.cur.ref = r
  · subst h
    exact hpost _ (ctx?_cur_ref s) _ (ctx?_cur_ref (s.withPast p)) rfl rfl
  · have hsame : (s.withPast p).ctx? r = s.ctx? r := (if_neg h).trans (if_neg h).symm
    cases hc : s.ctx? r with
    | none =>
      unfold State.post
      rw [hsame, hc]
    | some c => exact hpost c hc c (hsame.trans hc) rfl rfl

theorem post_of_eq_withPast {s t : State} {p : Option Passed} (h : t = s.withPast p) (r : CtxRef) (f : FaultRec) : t.post r f = (s.post r f).withPast p :=
  h ▸ post_withPast s p r f

theorem logUndo_withPast (slot budget pa : Nat) (ckpt : Bool) :
    (s.withPast p).logUndo slot budget pa ckpt = (s.logUndo slot budget pa ckpt).withPast p := by
  unfold State.logUndo
  rw [show (s.withPast p).slots = s.slots from rfl]
  split
  · rfl
  · split
    · rfl
    · dsimp only
      rw [show (s.withPast p).undo = s.undo from rfl, show (s.withPast p).undoBytes = s.undoBytes from rfl]
      split
      · rfl
      · split
        · refine post_of_eq_withPast ?_ _ _
          rfl
        · rfl

theorem writeback_withPast (x : L1Sector) : (s.withPast p).writeback x = (s.writeback x).withPast p := by
  have h := logUndo_withPast s p x.by_.slot (s.undobOf x.by_.slot) x.pa x.ckpt
  unfold State.writeback
  rw [show (s.withPast p).undobOf = s.undobOf from rfl, h]
  rfl

theorem writebackCore_withPast (core : Nat) : (s.withPast p).writebackCore core = (s.writebackCore core).withPast p := by
  unfold State.writebackCore
  rw [show (s.withPast p).l1 = s.l1 from rfl]
  generalize s.l1.filter (fun x => decide (x.core = core)) = l
  induction l generalizing s with
  | nil => rfl
  | cons x rest ih =>
    rw [List.foldl_cons, List.foldl_cons, show (s.withPast p).mayWriteBack x = s.mayWriteBack x from rfl]
    split
    · rw [writeback_withPast, ih]
    · exact ih s

theorem released_withPast (sc : Scope) : (s.withPast p).released sc = (s.released sc).withPast p := by
  unfold State.released
  rw [show (s.withPast p).cur.core? = s.cur.core? from rfl]
  cases s.cur.core? with
  | none => rfl
  | some core =>
    dsimp only
    rw [writebackCore_withPast, ← apply_ite (fun t : State => t.withPast p)]

end WithPast

/-! ## The current context keeps its name -/

theorem post_keeps_ref (s : State) (r : CtxRef) (f : FaultRec) : (s.post r f).cur.ref = s.cur.ref := by
  unfold State.post
  repeat' split
  · rfl
  · rfl
  · unfold State.setCtx
    split <;> rfl
  · rfl
  · rfl

theorem logUndo_keeps_ref (s : State) (slot budget pa : Nat) (ckpt : Bool) : (s.logUndo slot budget pa ckpt).cur.ref = s.cur.ref := by
  unfold State.logUndo
  split
  · rfl
  · split
    · rfl
    · dsimp only
      split
      · rfl
      · split
        · exact post_keeps_ref _ _ _
        · rfl

theorem writebackCore_keeps_ref (s : State) (core : Nat) : (s.writebackCore core).cur.ref = s.cur.ref := by
  refine foldl_keeps (fun t : State => t.cur.ref) (fun t x => ?_) _ s
  split
  · exact logUndo_keeps_ref t x.by_.slot (t.undobOf x.by_.slot) x.pa x.ckpt
  · rfl

theorem released_keeps_ref (s : State) (sc : Scope) : (s.released sc).cur.ref = s.cur.ref := by
  unfold State.released
  split
  · split
    · exact writebackCore_keeps_ref s _
    · rfl
  · rfl

end Sys2Proof.Machine
end

section
/-! PROOFS. Atomics (O11), part 2: the checks that an atomic passes (R142, R145, R146, R176). -/
namespace Sys2Proof.Machine

/-! ## Addresses through the two stages -/

theorem dvd_leafSize (level : Nat) : 2 ^ 16 ∣ leafSize level := by
  unfold leafSize
  split <;> decide

theorem leaf_aligned {second : Bool} {level : Nat} {e : Word} {oa : Nat} (h : pteKind second level e = .leaf oa) : 2 ^ 16 ∣ oa := by
  unfold pteKind at h
  simp only at h
  repeat' split at h
  any_goals contradiction
  obtain rfl := PteKind.leaf.inj h
  exact Dvd.intro_left _ rfl

/-- A walk keeps an address's place in its page. -/
theorem stage1Walk_offset {s : State} {vf va fuel level tbl : Nat} {ipa : Nat} {e : Word} (h : stage1Walk s vf va fuel level tbl = .ok (ipa, e)) :
    ipa % 2 ^ 16 = va % 2 ^ 16 := by
  induction fuel generalizing level tbl with
  | zero => simp [stage1Walk] at h
  | succ fuel ih =>
    unfold stage1Walk at h
    split at h
    · simp at h
    · simp at h
    · dsimp only at h
      split at h
      · simp at h
      · simp at h
      · simp at h
      · exact ih h
      · rename_i oa hleaf
        obtain ⟨rfl, -⟩ := Prod.mk.inj (Xl.ok.inj h)
        rw [Nat.add_mod, Nat.mod_eq_zero_of_dvd (leaf_aligned hleaf), Nat.zero_add, Nat.mod_mod, Nat.mod_mod_of_dvd _ (dvd_leafSize level)]

theorem stage1_offset {s : State} {vf : Nat} {va : Word} {rights : BitVec 3} {ipa : Nat} {e : Word} (h : stage1 s vf va rights = .ok (ipa, e)) :
    ipa / 2 ^ 16 * 2 ^ 16 + va.toNat % 2 ^ 16 = ipa := by
  have hoff : ipa % 2 ^ 16 = va.toNat % 2 ^ 16 := by
    unfold stage1 at h
    split at h
    · simp at h
    · split at h
      · simp at h
      · split at h
        · simp at h
        · simp at h
        · rename_i hwalk
          split at h
          · obtain ⟨rfl, -⟩ := Prod.mk.inj (Xl.ok.inj h)
            exact stage1Walk_offset hwalk
          · simp at h
  rw [← hoff, Nat.div_add_mod']

theorem translateFull_ok {s : State} {vf : Nat} {va : Word} {rights : BitVec 3} {ipa : Nat} {e1 : Word} {info : PageInfo}
    (h : translateFull s vf va rights = .ok info) (h1 : stage1 s vf va rights = .ok (ipa, e1)) :
    ∃ pa e2, stage2 s vf ipa rights = .ok (pa, e2) ∧ info = combine e1 pa e2 := by
  unfold translateFull at h
  rw [h1] at h
  dsimp only at h
  split at h
  · contradiction
  · contradiction
  · exact ⟨_, _, ‹_›, (Xl.ok.inj h).symm⟩

/-- Stage 2 reads memory and the VF's root alone. -/
theorem stage2_withPast (s : State) (p : Option Passed) : stage2 (s.withPast p) = stage2 s := by
  have hwalk : ∀ fuel level tbl ipa rights, stage2Walk (s.withPast p) ipa rights fuel level tbl = stage2Walk s ipa rights fuel level tbl := by
    intro fuel
    induction fuel with
    | zero => exact fun _ _ _ _ => rfl
    | succ fuel ih =>
      intro level tbl ipa rights
      unfold stage2Walk
      simp only [ih]
      rfl
  funext vf ipa rights
  unfold stage2
  simp only [hwalk]
  rfl

/-! ## The checks, one by one -/

theorem act_bind_curVf {β : Type} (f : Nat → Act β) (s : State) : (curVf >>= f) s = f (s.vfOf s.cur.slot) s := rfl

section Checks
variable {s : State} {sc : BitVec 3} {scope : Scope} {dem : Bool}

theorem scopeOf_scopeFor (h : ScopeFor s sc scope dem) : scopeOf sc s = .ok ((scope, dem), s) := by
  rw [scopeOf, act_bind_get]
  unfold ScopeFor at h
  cases hp : s.cur.passed.bind (·.scope) with
  | some r =>
    rw [hp] at h
    subst h
    rfl
  | none =>
    rw [hp] at h
    obtain ⟨hne, rfl, rfl⟩ | ⟨hsys, hpol, rfl, rfl⟩ := h
    · dsimp only
      rw [if_neg hne]
      rfl
    · dsimp only
      rw [if_pos hsys, act_bind_curVf, if_neg hpol]
      rfl

theorem checkBank_isMemory {pa : Nat} (h : IsMemory s pa) (eval : Word) : checkBank pa eval s = .ok ((), s) := by
  rw [checkBank, act_bind_get]
  obtain hk | ⟨g, b, hk, hbusy, hmode⟩ := h
  · have hb : s.bankCheck pa = (none, true) := by rw [State.bankCheck, hk]
    rw [hk, hb]
    rfl
  · have hb : s.bankCheck pa = (none, true) := by
      rw [State.bankCheck, hk]
      simp [hbusy, hmode]
    rw [hk, hb]
    rfl

theorem awaitRequestSlots_slotFree (h : SlotFree s) (eval : Word) : awaitRequestSlots eval s = .ok ((), s) := by
  rw [awaitRequestSlots, act_bind_get, if_pos (show s.outstanding s.cur < s.slotsOf s.cur from h)]
  rfl

end Checks

/-! ## What an atomic does, in parts -/

/-- f with the scope of an atomic: none without an order, else ScopeOf (R145, R176). -/
def withAtomicScope (ord : BitVec 2) (sc : BitVec 3) (f : Option (Scope × Bool) → Act Unit) : Act Unit :=
  if ord = 0 then (do
    let r ← pure none
    f r)
  else (do
    let r ← (do
      let r ← scopeOf sc
      pure (some r))
    f r)

/-- Stage 1 of an atomic's page in s0, with the page's COHR and FMT checked (R116, R176). -/
def atomicChecks (s0 : State) (k : AtomKind) (t : Word) : Act (List (Nat × Nat × Word)) := do
  let vf ← curVf
  let (ipa, e1) ← xl (stage1 s0 vf t 3) t
  raiseIf ((pageOf e1).cohr == .rsh) Code.atomicAttr 0 t
  raiseIf (!k.fmtOk (pageOf e1).fmt) Code.formatMismatch 0 t
  pure [(t.toNat, ipa, e1)]

/-- The access outstanding once its checks have passed, and the next word (R34, R176, R283, R290). -/
def atomicIssue (n : Nat) (signed : Bool) (op : AtomOp) (d : BitVec 5) (t v : Word) (ord : BitVec 2) (r : Option (Scope × Bool)) (info : PageInfo) :
    Act Unit := do
  let scope := (r.map (·.1)).getD .eng
  let acq := if ord = 1 ∨ ord = 3 then some scope else none
  let note := if r.any (·.2) then some t else none
  if ord = 2 ∨ ord = 3 then releaseWriteback scope
  let s ← get
  let id ← freshId
  let rels := if ord = 2 ∨ ord = 3 then [s.release s.cur id scope none] else []
  modCur (fun c => ({ c with
    pend := c.pend ++ [⟨id, if d = 0 then .none else .s d, s.cycle + 5, .atomic ⟨info.pa, n, info⟩ op v signed acq rels, note⟩] } : Context).empty d)
  endAccess
  advance

/-- The checks from stage 1 on, and then the access. -/
def atomicAccess (s0 : State) (k : AtomKind) (n : Nat) (signed : Bool) (op : AtomOp) (d : BitVec 5) (t v : Word) (ord : BitVec 2)
    (r : Option (Scope × Bool)) : Act Unit := do
  let pages ← passOnce r (atomicChecks s0 k t) t
  let info ← stage2At pages t.toNat 3 t
  raiseIf info.remote.isSome Code.atomicAttr 0 t
  checkBank info.pa t
  awaitAcquire
  atomicIssue n signed op d t v ord r info

theorem atomicForm_eq (k : AtomKind) (n : Nat) (signed : Bool) (op : AtomOp) (d a b : BitVec 5) (qa qb : Bool) (ord : BitVec 2) (sc : BitVec 3)
    (cas : Bool) :
    atomicForm k n signed op d a b qa qb ord sc cas = (do
      destReady d
      let t ← readSrc a qa
      let v ← readSrc b qb
      let s0 ← get
      raiseIf (t.toNat % n != 0) Code.misaligned 0 t
      withAtomicScope ord sc (atomicAccess s0 k n signed (if cas then .cas (s0.cur.getS d) else op) d t v ord)) := rfl

/-- The state in which one more result q is outstanding for d (R34). -/
def State.pending (s : State) (d : BitVec 5) (q : Pend) : State :=
  { s.setCur (fun c => ({ c with pend := c.pend ++ [q] } : Context).empty d) with nextId := s.nextId + 1 }

/-- The end of an access forgets what it had passed (R146). -/
theorem pending_withPast (s : State) (p : Option Passed) (q : Pend) (d : BitVec 5) :
    ((s.withPast p).pending d q).withPast none = (s.pending d q).withPast none := by
  unfold State.pending State.withPast State.setCur Context.empty
  split <;> rfl

/-! ## The parts where everything passes -/

section Passes
variable {s : State} {t : Word} {n : Nat} {k : AtomKind} {ord : BitVec 2} {sc : BitVec 3} {scope : Scope} {dem : Bool} {info : PageInfo}

theorem withAtomicScope_ok (h : if ord = 0 then scope = .eng ∧ dem = false else ScopeFor s sc scope dem) (f : Option (Scope × Bool) → Act Unit) :
    withAtomicScope ord sc f s = f (if ord = 0 then none else some (scope, dem)) s := by
  unfold withAtomicScope
  split at h
  · rw [if_pos ‹_›, if_pos ‹_›]
    rfl
  · rw [if_neg ‹_›, if_neg ‹_›]
    exact act_bind_ok (act_bind_ok (scopeOf_scopeFor h))

theorem stage2At_ok {pages : List (Nat × Nat × Word)} {a : Nat} {rights : BitVec 3} {x : Nat × Nat × Word} {pa : Nat} {e2 : Word}
    (hfind : pages.find? (fun y => decide (y.1 / 2 ^ 16 = a / 2 ^ 16)) = some x)
    (hstage : stage2 s (s.vfOf s.cur.slot) (x.2.1 / 2 ^ 16 * 2 ^ 16 + a % 2 ^ 16) rights = .ok (pa, e2)) :
    stage2At pages a rights t s = .ok (combine x.2.2 pa e2, s) := by
  rw [stage2At, act_bind_curVf, act_bind_get, hfind]
  dsimp only
  rw [hstage]
  rfl

/-- What an atomic has passed before stage 2, in this try or an earlier one, and what stage 2 then gives (R146). -/
theorem atomic_pages_ok (h : AtomicOk s t n k ord sc scope dem info) (r : Option (Scope × Bool)) :
    ∃ pages p, passOnce r (atomicChecks s k t) t s = .ok (pages, s.withPast p) ∧
      stage2At pages t.toNat 3 t (s.withPast p) = .ok (info, s.withPast p) := by
  obtain ⟨-, -, hpass, -⟩ := h
  cases hp : s.cur.passed with
  | some p =>
    rw [hp] at hpass
    obtain ⟨x, hfind, pa, e2, hstage, rfl⟩ := hpass
    exact ⟨p.pages, s.cur.past, by rw [passOnce, act_bind_get, hp]; rfl, stage2At_ok hfind hstage⟩
  | none =>
    rw [hp] at hpass
    obtain ⟨⟨ipa, e1, hstage1, hcohr, hfmt⟩, hslot, hfull⟩ := hpass
    obtain ⟨pa, e2, hstage2, rfl⟩ := translateFull_ok hfull hstage1
    have hchecks : atomicChecks s k t s = .ok ([(t.toNat, ipa, e1)], s) := by
      rw [atomicChecks, act_bind_curVf, hstage1, act_bind_ok (show xl (Xl.ok (ipa, e1)) t s = .ok ((ipa, e1), s) from rfl)]
      dsimp only
      rw [act_bind_raiseIf (by simpa using hcohr), act_bind_raiseIf (by simpa using hfmt)]
      rfl
    refine ⟨[(t.toNat, ipa, e1)], some ⟨s.cur.pc, r, [(t.toNat, ipa, e1)], s.cycle, []⟩, ?_, ?_⟩
    · rw [passOnce, act_bind_get, hp]
      dsimp only
      rw [act_bind_ok hchecks, act_bind_ok (awaitRequestSlots_slotFree hslot t)]
      rfl
    · refine stage2At_ok (x := (t.toNat, ipa, e1)) (by simp) ?_
      rw [stage2_withPast, stage1_offset hstage1]
      exact hstage2

theorem atomicIssue_ok {signed : Bool} {op : AtomOp} {d : BitVec 5} {v : Word} (p : Option Passed) (h : ord = 0 → scope = .eng ∧ dem = false) :
    atomicIssue n signed op d t v ord (if ord = 0 then none else some (scope, dem)) info (s.withPast p) =
      .ok ((), s.atomicIssued d t v n signed op ord scope dem info) := by
  have hscope : ((if ord = 0 then none else some (scope, dem)).map (·.1)).getD .eng = scope := by
    split
    · exact (h ‹_›).1.symm
    · rfl
  have hdem : (if ord = 0 then none else some (scope, dem)).any (·.2) = dem := by
    split
    · exact (h ‹_›).2.symm
    · rfl
  unfold atomicIssue State.atomicIssued
  rw [hscope, hdem]
  dsimp only
  by_cases hrel : ord = 2 ∨ ord = 3
  · simp only [if_pos hrel]
    rw [act_bind_ok (releaseWriteback_eq scope (s.withPast p)), released_withPast, ← released_keeps_ref s scope]
    exact congrArg (fun t => Except.ok ((), t)) (congrArg State.goOn (pending_withPast (s.released scope) p _ d))
  · simp only [if_neg hrel]
    exact congrArg (fun t => Except.ok ((), t)) (congrArg State.goOn (pending_withPast s p _ d))

/-- An atomic whose checks pass is outstanding (R176). -/
theorem atomicForm_issued {signed qa qb cas : Bool} {op : AtomOp} {d a b : BitVec 5} (hd : s.cur.isFull d = true) (ha : s.cur.isFull a = true)
    (hb : s.cur.isFull b = true) (h : AtomicOk s (s.cur.getS a) n k ord sc scope dem info) {op' : AtomOp}
    (hop : (if cas then .cas (s.cur.getS d) else op) = op') :
    runAct (atomicForm k n signed op d a b qa qb ord sc cas) s =
      .next (s.atomicIssued d (s.cur.getS a) (s.cur.getS b) n signed op' ord scope dem info) := by
  obtain ⟨pages, p, hpages, hstage2⟩ := atomic_pages_ok h (if ord = 0 then none else some (scope, dem))
  obtain ⟨halign, hscope, -, hlocal, hmem, hacq⟩ := h
  have hnone : ord = 0 → scope = .eng ∧ dem = false := fun h0 => by simpa [h0] using hscope
  refine runAct_ok ?_
  rw [atomicForm_eq, act_bind_destReady hd, act_bind_readSrc ha, act_bind_readSrc hb, act_bind_get, act_bind_raiseIf (by simp [halign]),
    withAtomicScope_ok hscope, hop, atomicAccess, act_bind_ok hpages, act_bind_ok hstage2, act_bind_raiseIf (by simp [hlocal]),
    act_bind_ok (checkBank_isMemory (s := s.withPast p) hmem _), act_bind_ok (awaitAcquire_of_noAcquire (s := s.withPast p) hacq)]
  exact atomicIssue_ok p hnone

end Passes
end Sys2Proof.Machine
end

section
/-! PROOFS. Atomics (O11), part 3: the operation that an op field names, and the new values of the integer atomics (R94, R176). -/
namespace Sys2Proof.Machine

/-! ## The op field (R94) -/

theorem amoOp_eq (signed : Bool) {op : BitVec 3} (h : op ≠ 7) :
    amoOp signed op = [AtomOp.swap, .add, .and, .or, .xor, if signed then .min else .minn, if signed then .max else .maxn].getD op.toNat .swap := by
  have hlt : op.toNat < 7 := by
    have h7 : op.toNat ≠ 7 := fun h' => h (BitVec.eq_of_toNat_eq h')
    have := op.isLt
    omega
  unfold amoOp
  interval_cases op.toNat <;> rfl

theorem amofOp_eq (bf : Bool) {op : BitVec 3} (h : op.toNat ≤ 2) :
    amofOp bf op = (if bf then [AtomOp.faddBf16, .fminBf16, .fmaxBf16] else [AtomOp.faddF32, .fminF32, .fmaxF32]).getD op.toNat .swap := by
  unfold amofOp
  interval_cases op.toNat <;> cases bf <;> rfl

/-! ## New values (R176) -/

/-- A number below w read as two's complement. -/
def asSigned (w k : Nat) : Int := if k < w / 2 then (k : Int) else (k : Int) - w

section NewValues
variable (n old v : Nat)

/-- The model's reading of a number as two's complement is `asSigned`. -/
theorem asSigned_eq (w k : Nat) : (if w / 2 ≤ k then (k : Int) - w else k) = asSigned w k := by
  unfold asSigned
  split <;> split <;> omega

theorem signed_atomNew_min :
    asSigned (2 ^ (8 * n)) (atomNew .min n old v) = min (asSigned (2 ^ (8 * n)) old) (asSigned (2 ^ (8 * n)) (v % 2 ^ (8 * n))) := by
  unfold atomNew
  simp only [asSigned_eq]
  split <;> omega

theorem signed_atomNew_max :
    asSigned (2 ^ (8 * n)) (atomNew .max n old v) = max (asSigned (2 ^ (8 * n)) old) (asSigned (2 ^ (8 * n)) (v % 2 ^ (8 * n))) := by
  unfold atomNew
  simp only [asSigned_eq]
  split <;> omega

theorem atomNew_minn : atomNew .minn n old v = min old (v % 2 ^ (8 * n)) := by
  unfold atomNew
  dsimp only
  split <;> omega

theorem atomNew_maxn : atomNew .maxn n old v = max old (v % 2 ^ (8 * n)) := by
  unfold atomNew
  dsimp only
  split <;> omega

end NewValues

/-- Settles O11: every atomic is one form whose checks pass, with the operation of its op field; the new values one operation at a time. -/
theorem atomics : Obligations.Atomics := by
  refine ⟨⟨fun o s scope dem info hd ha hb => ?_, fun o s scope dem info hd ha hb => ?_⟩, fun n old v c _ _ => ?_⟩
  · refine ⟨fun hop h => ⟨?_, ?_⟩, fun hop h => ⟨?_, ?_⟩, fun hop h => ?_, fun hop h => ?_⟩
    · exact atomicForm_issued hd ha hb h (amoOp_eq true hop)
    · exact atomicForm_issued hd ha hb h (amoOp_eq false hop)
    · exact atomicForm_issued hd ha hb h (amoOp_eq true hop)
    · exact atomicForm_issued hd ha hb h (amoOp_eq false hop)
    · exact atomicForm_issued hd ha hb h (amofOp_eq false hop)
    · exact atomicForm_issued hd ha hb h (amofOp_eq true hop)
  · exact ⟨fun h => atomicForm_issued hd ha hb h rfl, fun h => atomicForm_issued hd ha hb h rfl⟩
  · exact ⟨rfl, rfl, rfl, rfl, rfl, signed_atomNew_min n old v.toNat, signed_atomNew_max n old v.toNat, atomNew_minn n old v.toNat,
      atomNew_maxn n old v.toNat, rfl⟩

end Sys2Proof.Machine
end

section
/-! PROOFS. O22, part 1: rounding to a count of 2^q (R106). -/
namespace Sys2Proof.Machine

/-- x is lo and a fraction r / 2^k above it. -/
structure Split (x : ℚ) (lo : Int) (r k : Nat) : Prop where
  lt : r < 2 ^ k
  eq : x = lo + (r : ℚ) / 2 ^ k

theorem scaleTo_split (m e q : Int) :
    Split ((m : ℚ) * 2 ^ e / 2 ^ q) (scaleTo m e q).1 (scaleTo m e q).2.1 (scaleTo m e q).2.2 := by
  have h2 : (2 : ℚ) ≠ 0 := two_ne_zero
  unfold scaleTo
  split
  · rename_i h
    obtain ⟨n, hn⟩ := Int.eq_ofNat_of_zero_le (Int.sub_nonneg_of_le h)
    refine ⟨by simp, ?_⟩
    rw [hn, mul_div_assoc, ← zpow_sub₀ h2, hn]
    simp
  · rename_i h
    obtain ⟨n, hn⟩ := Int.eq_ofNat_of_zero_le (Int.sub_nonneg_of_le (Int.not_le.1 h).le)
    have hpow : (0 : Int) < 2 ^ n := by positivity
    have hmod := Int.emod_nonneg m hpow.ne'
    simp only [hn, Int.toNat_natCast]
    refine ⟨by have := Int.emod_lt_of_pos m hpow; zify; rwa [Int.toNat_of_nonneg hmod], ?_⟩
    have hcast : (((m % 2 ^ n).toNat : Nat) : ℚ) = ((m % 2 ^ n : Int) : ℚ) := by rw [← Int.cast_natCast, Int.toNat_of_nonneg hmod]
    have hm : (m : ℚ) = 2 ^ n * ((m / 2 ^ n : Int) : ℚ) + ((m % 2 ^ n : Int) : ℚ) := by
      exact_mod_cast (Int.mul_ediv_add_emod m (2 ^ n)).symm
    rw [hcast, mul_div_assoc, ← zpow_sub₀ h2, show e - q = -(n : Int) by omega, zpow_neg, zpow_natCast, ← div_eq_mul_inv]
    rw [hm]
    field_simp

theorem fraction_below_half_iff (r k : Nat) : 2 * r < 2 ^ k ↔ (r : ℚ) / 2 ^ k < 1 / 2 := by
  rw [div_lt_iff₀ (by positivity)]
  constructor
  · intro hlt
    have : (2 * r : ℚ) < 2 ^ k := by exact_mod_cast hlt
    linarith
  · intro hlt
    have : (2 * r : ℚ) < 2 ^ k := by linarith
    exact_mod_cast this

theorem fraction_above_half_iff (r k : Nat) : 2 ^ k < 2 * r ↔ 1 / 2 < (r : ℚ) / 2 ^ k := by
  rw [lt_div_iff₀ (by positivity)]
  constructor
  · intro hlt
    have : (2 ^ k : ℚ) < 2 * r := by exact_mod_cast hlt
    linarith
  · intro hlt
    have : (2 ^ k : ℚ) < 2 * r := by linarith
    exact_mod_cast this

namespace Split
variable {x : ℚ} {lo : Int} {r k : Nat} (h : Split x lo r k)
include h

theorem fraction_lt : (r : ℚ) / 2 ^ k < 1 := by
  rw [div_lt_one (by positivity)]
  exact_mod_cast h.lt

theorem floor : ⌊x⌋ = lo := by
  rw [h.eq, Int.floor_eq_iff]
  have := h.fraction_lt
  exact ⟨by simp; positivity, by linarith⟩

theorem exact_iff : r = 0 ↔ x = lo := by
  rw [h.eq]
  simp

theorem ceil (hr : r ≠ 0) : ⌈x⌉ = lo + 1 := by
  rw [h.eq, Int.ceil_eq_iff]
  have h1 := h.fraction_lt
  have h0 : 0 < (r : ℚ) / 2 ^ k := by positivity
  push_cast
  exact ⟨by linarith, by linarith⟩

/-- What a choice of the nearest neighbour satisfies: `tie` is the neighbour taken half-way. -/
theorem nearest {y tie : Int} (hr : r ≠ 0) (hy : y = if 2 * r < 2 ^ k then lo else if 2 ^ k < 2 * r then lo + 1 else tie) (ht : tie = lo ∨ tie = lo + 1) :
    |(y : ℚ) - x| ≤ 1 / 2 ∧ (|(y : ℚ) - x| = 1 / 2 → y = tie ∧ x = lo + 1 / 2) := by
  have h0 : 0 < (r : ℚ) / 2 ^ k := by positivity
  have h1 := h.fraction_lt
  have hx := h.eq
  have hb := fraction_below_half_iff r k
  have ha := fraction_above_half_iff r k
  set t : ℚ := (r : ℚ) / 2 ^ k
  by_cases hlow : t < 1 / 2
  · obtain rfl : y = lo := by rw [hy, if_pos (hb.2 hlow)]
    have : |(y : ℚ) - x| = t := by rw [hx, abs_sub_comm, add_sub_cancel_left, abs_of_pos h0]
    rw [this]
    exact ⟨hlow.le, fun he => absurd he hlow.ne⟩
  · rw [if_neg (fun hh => hlow (hb.1 hh))] at hy
    by_cases hhigh : 1 / 2 < t
    · obtain rfl : y = lo + 1 := by rw [hy, if_pos (ha.2 hhigh)]
      have : |((lo + 1 : Int) : ℚ) - x| = 1 - t := by
        rw [hx, abs_of_pos (by push_cast; linarith)]
        push_cast
        ring
      rw [this]
      exact ⟨by linarith, fun he => by linarith⟩
    · obtain rfl : y = tie := by rw [hy, if_neg (fun hh => hhigh (ha.1 hh))]
      have hhalf : t = 1 / 2 := le_antisymm (not_lt.1 hhigh) (not_lt.1 hlow)
      rw [hhalf] at hx
      refine ⟨?_, fun _ => ⟨rfl, hx⟩⟩
      rw [hx, abs_le]
      rcases ht with rfl | rfl <;> push_cast <;> constructor <;> linarith

end Split

theorem roundAt_eq (m e q : Int) (mode : Nat) (d : BitVec 32) :
    roundAt m e q mode d = if (scaleTo m e q).2.1 = 0 then ((scaleTo m e q).1, false)
      else (choose (scaleTo m e q).1 (scaleTo m e q).2.1 (scaleTo m e q).2.2 (decide (m < 0)) mode d, true) := rfl

theorem choose_neighbour (lo : Int) (r k : Nat) (neg : Bool) (mode : Nat) (d : BitVec 32) :
    choose lo r k neg mode d = lo ∨ choose lo r k neg mode d = lo + 1 := by
  unfold choose
  dsimp only
  repeat' split
  all_goals simp

theorem choose_stochastic (lo : Int) (r k : Nat) (neg : Bool) (d : BitVec 32) :
    choose lo r k neg 5 d = if d.toNat * 2 ^ k < r * 2 ^ 32 then lo + 1 else lo := by
  simp only [choose]

section RoundAt
variable (m e q : Int) (d : BitVec 32)

/-- The number that a rounding of m × 2^e to a count of 2^q approximates. -/
def countOf (m e q : Int) : ℚ := (m : ℚ) * 2 ^ e / 2 ^ q

theorem countOf_neg_iff : countOf m e q < 0 ↔ m < 0 := by
  have h2 : (0 : ℚ) < 2 ^ e / 2 ^ q := by positivity
  rw [countOf, mul_div_assoc, mul_neg_iff]
  constructor
  · rintro (⟨-, h⟩ | ⟨h, -⟩)
    · exact absurd h h2.not_gt
    · exact_mod_cast h
  · exact fun h => .inr ⟨by exact_mod_cast h, h2⟩

/-- A rounding is exact where the number is a whole count, and inexact elsewhere, where it takes one of the neighbours. -/
theorem roundAt_cases (mode : Nat) : ((countOf m e q) = ⌊countOf m e q⌋ ∧ roundAt m e q mode d = (⌊countOf m e q⌋, false)) ∨
    (((⌊countOf m e q⌋ : Int) : ℚ) ≠ countOf m e q ∧ (roundAt m e q mode d).2 = true ∧
      ∃ r k, r ≠ 0 ∧ Split (countOf m e q) ⌊countOf m e q⌋ r k ∧ (roundAt m e q mode d).1 = choose ⌊countOf m e q⌋ r k (decide (m < 0)) mode d) := by
  have hs := scaleTo_split m e q
  rw [roundAt_eq]
  rw [show (m : ℚ) * 2 ^ e / 2 ^ q = countOf m e q from rfl] at hs
  rw [hs.floor]
  by_cases hr : (scaleTo m e q).2.1 = 0
  · rw [if_pos hr]
    exact .inl ⟨hs.exact_iff.1 hr, rfl⟩
  · rw [if_neg hr]
    exact .inr ⟨fun h => hr (hs.exact_iff.2 h.symm), rfl, _, _, hr, hs, rfl⟩

theorem roundAt_inexact (mode : Nat) : (roundAt m e q mode d).2 = decide (((⌊countOf m e q⌋ : Int) : ℚ) ≠ countOf m e q) := by
  obtain ⟨hx, h⟩ | ⟨hx, h, -⟩ := roundAt_cases m e q d mode
  · rw [h, ← hx]
    simp
  · rw [h, decide_eq_true hx]

theorem roundAt_neighbour (mode : Nat) : (((roundAt m e q mode d).1 : Int) : ℚ) = countOf m e q ∨ (roundAt m e q mode d).1 = ⌊countOf m e q⌋ ∨
    (roundAt m e q mode d).1 = ⌊countOf m e q⌋ + 1 := by
  obtain ⟨hx, h⟩ | ⟨-, -, r, k, -, -, h⟩ := roundAt_cases m e q d mode
  · exact .inr (.inl (by rw [h]))
  · rw [h]
    exact .inr (choose_neighbour ..)

/-- RNE: the nearest count, the even one half-way. -/
theorem roundAt_nearestEven : |(((roundAt m e q 0 d).1 : Int) : ℚ) - countOf m e q| ≤ 1 / 2 ∧
    (|(((roundAt m e q 0 d).1 : Int) : ℚ) - countOf m e q| = 1 / 2 → (roundAt m e q 0 d).1 % 2 = 0) := by
  obtain ⟨hx, h⟩ | ⟨-, -, r, k, hr, hs, h⟩ := roundAt_cases m e q d 0
  · rw [h, ← hx]
    norm_num
  · obtain ⟨h1, h2⟩ := hs.nearest (tie := if ⌊countOf m e q⌋ % 2 = 0 then ⌊countOf m e q⌋ else ⌊countOf m e q⌋ + 1) hr h (by split <;> simp)
    refine ⟨h1, fun he => ?_⟩
    rw [(h2 he).1]
    split <;> omega

/-- RNA: the nearest count, the one away from zero half-way. -/
theorem roundAt_nearestAway : |(((roundAt m e q 4 d).1 : Int) : ℚ) - countOf m e q| ≤ 1 / 2 ∧
    (|(((roundAt m e q 4 d).1 : Int) : ℚ) - countOf m e q| = 1 / 2 → |countOf m e q| ≤ |(((roundAt m e q 4 d).1 : Int) : ℚ)|) := by
  obtain ⟨hx, h⟩ | ⟨-, -, r, k, hr, hs, h⟩ := roundAt_cases m e q d 4
  · rw [h, ← hx]
    norm_num
  · obtain ⟨h1, h2⟩ := hs.nearest (tie := if decide (m < 0) then ⌊countOf m e q⌋ else ⌊countOf m e q⌋ + 1) hr h (by split <;> simp)
    refine ⟨h1, fun he => ?_⟩
    obtain ⟨hy, hx⟩ := h2 he
    rw [hy]
    set lo := ⌊countOf m e q⌋
    have hn := countOf_neg_iff m e q
    by_cases hm : m < 0
    · rw [decide_eq_true hm, if_pos rfl, abs_of_neg (hn.2 hm)]
      linarith [neg_le_abs (lo : ℚ)]
    · rw [decide_eq_false hm, if_neg (by simp), abs_of_nonneg (not_lt.1 (hm ∘ hn.1))]
      push_cast
      linarith [le_abs_self ((lo : ℚ) + 1)]

theorem roundAt_towardZero : |(((roundAt m e q 1 d).1 : Int) : ℚ)| ≤ |countOf m e q| := by
  obtain ⟨hx, h⟩ | ⟨-, -, r, k, hr, hs, h⟩ := roundAt_cases m e q d 1
  · rw [h, ← hx]
  · have h0 : 0 < (r : ℚ) / 2 ^ k := by positivity
    have h1 := hs.fraction_lt
    have hx := hs.eq
    have hn := countOf_neg_iff m e q
    rw [show choose ⌊countOf m e q⌋ r k (decide (m < 0)) 1 d = if decide (m < 0) then ⌊countOf m e q⌋ + 1 else ⌊countOf m e q⌋ from rfl] at h
    rw [h]
    by_cases hm : m < 0
    · have hlo : ⌊countOf m e q⌋ < 0 := Int.floor_lt.2 (by exact_mod_cast hn.2 hm)
      have hle : ((⌊countOf m e q⌋ + 1 : Int) : ℚ) ≤ 0 := by exact_mod_cast hlo
      rw [decide_eq_true hm, if_pos rfl, abs_of_neg (hn.2 hm), abs_of_nonpos hle]
      push_cast
      linarith
    · have hpos := not_lt.1 (hm ∘ hn.1)
      have hlo : (0 : ℚ) ≤ ⌊countOf m e q⌋ := by exact_mod_cast Int.floor_nonneg.2 hpos
      rw [decide_eq_false hm, if_neg (by simp), abs_of_nonneg hpos, abs_of_nonneg hlo]
      linarith

theorem roundAt_down : (roundAt m e q 2 d).1 = ⌊countOf m e q⌋ := by
  obtain ⟨-, h⟩ | ⟨-, -, r, k, -, -, h⟩ := roundAt_cases m e q d 2
  · rw [h]
  · exact h

theorem roundAt_up : (roundAt m e q 3 d).1 = ⌈countOf m e q⌉ := by
  obtain ⟨hx, h⟩ | ⟨-, -, r, k, hr, hs, h⟩ := roundAt_cases m e q d 3
  · rw [h, hx]
    simp
  · exact h.trans (hs.ceil hr).symm

/-- SR: up where the draw lies below the fraction. -/
theorem roundAt_stochastic : (roundAt m e q 5 d).1 =
    if (d.toNat : ℚ) / 2 ^ 32 < countOf m e q - ⌊countOf m e q⌋ then ⌊countOf m e q⌋ + 1 else ⌊countOf m e q⌋ := by
  obtain ⟨hx, h⟩ | ⟨-, -, r, k, hr, hs, h⟩ := roundAt_cases m e q d 5
  · rw [h, if_neg]
    rw [← hx, sub_self]
    exact not_lt.2 (by positivity)
  · rw [h]
    have hlt : (d.toNat : ℚ) / 2 ^ 32 < countOf m e q - ⌊countOf m e q⌋ ↔ d.toNat * 2 ^ k < r * 2 ^ 32 := by
      rw [show countOf m e q - ⌊countOf m e q⌋ = (r : ℚ) / 2 ^ k by linarith [hs.eq], div_lt_div_iff₀ (by positivity) (by positivity)]
      norm_cast
    rw [choose_stochastic]
    simp only [hlt]

end RoundAt
end Sys2Proof.Machine
end

section
/-! PROOFS. O22, part 2: encodings survive a decode and an exact encode (R102 to R104, R119). -/
namespace Sys2Proof.Machine

/-! ## The fields of an encoding -/

/-- What the sign bit adds to an encoding. -/
def Fmt.sign (f : Fmt) (neg : Bool) : Nat := if neg then 2 ^ (f.ew + f.mw) else 0

/-- The value of an encoding by its sign, exponent field and mantissa field (R102 to R104). -/
def Fmt.value (f : Fmt) (neg : Bool) (ex mant : Nat) : FVal :=
  let sg : Int := if neg then -1 else 1
  if f.e4m3 ∧ ex = 2 ^ f.ew - 1 ∧ mant = 2 ^ f.mw - 1 then .nan false
  else if ¬ f.e4m3 ∧ ex = 2 ^ f.ew - 1 then
    if mant = 0 then .inf neg else .nan (decide (mant < 2 ^ (f.mw - 1)))
  else if ex = 0 then
    if mant = 0 then .zero neg else .num (sg * mant) (f.emin - f.mw)
  else .num (sg * (mant + 2 ^ f.mw)) (ex - f.bias - f.mw)

/-- An encoding is its fields, and decodes by them. -/
theorem decode_eq_value {f : Fmt} {b : Nat} (hb : b < 2 ^ f.width) : ∃ (neg : Bool) (ex mant : Nat), ex < 2 ^ f.ew ∧ mant < 2 ^ f.mw ∧
    b = f.sign neg + ex * 2 ^ f.mw + mant ∧ f.decode b = f.value neg ex mant := by
  refine ⟨decide (b / 2 ^ (f.ew + f.mw) % 2 = 1), b / 2 ^ f.mw % 2 ^ f.ew, b % 2 ^ f.mw, Nat.mod_lt _ (by positivity), Nat.mod_lt _ (by positivity), ?_, ?_⟩
  · have hsign : b / 2 ^ (f.ew + f.mw) < 2 :=
      Nat.div_lt_of_lt_mul (by rwa [Nat.mul_comm, ← Nat.pow_succ', show (f.ew + f.mw).succ = f.width by unfold Fmt.width; omega])
    have hhigh : f.sign (decide (b / 2 ^ (f.ew + f.mw) % 2 = 1)) = b / 2 ^ (f.ew + f.mw) * 2 ^ (f.ew + f.mw) := by
      unfold Fmt.sign
      rcases Nat.le_one_iff_eq_zero_or_eq_one.1 (Nat.le_of_lt_succ hsign) with h | h <;> simp [h]
    have hmid := Nat.div_add_mod' (b / 2 ^ f.mw) (2 ^ f.ew)
    rw [Nat.div_div_eq_div_mul, ← Nat.pow_add, Nat.add_comm f.mw f.ew] at hmid
    calc b = b / 2 ^ f.mw * 2 ^ f.mw + b % 2 ^ f.mw := (Nat.div_add_mod' b _).symm
      _ = (b / 2 ^ (f.ew + f.mw) * 2 ^ f.ew + b / 2 ^ f.mw % 2 ^ f.ew) * 2 ^ f.mw + b % 2 ^ f.mw := by rw [hmid]
      _ = _ := by rw [hhigh, Nat.add_mul, Nat.mul_assoc, ← Nat.pow_add]
  · unfold Fmt.decode Fmt.value
    dsimp only
    split_ifs <;> simp_all

/-- The finite magnitudes of a format: mantissa, exponent and encoding (R102, R103). -/
inductive Fmt.Magnitude (f : Fmt) : Nat → Int → Nat → Prop
  | subnormal {m : Nat} (h0 : 0 < m) (h1 : m < 2 ^ f.mw) : Fmt.Magnitude f m (f.emin - f.mw) m
  | normal {m ex : Nat} (h0 : 2 ^ f.mw ≤ m) (h1 : m < 2 ^ (f.mw + 1)) (h2 : 1 ≤ ex) (h3 : ex - f.bias ≤ f.emax) (h4 : ex - f.bias = f.emax → m ≤ f.maxMant) :
      Fmt.Magnitude f m (ex - f.bias - f.mw) (ex * 2 ^ f.mw + (m - 2 ^ f.mw))

theorem magnitude_pos {f : Fmt} {m : Nat} {e : Int} {code : Nat} (h : f.Magnitude m e code) : 0 < m := by
  cases h with
  | subnormal h0 _ => exact h0
  | normal h0 _ _ _ _ => exact lt_of_lt_of_le (by positivity) h0

/-- What a value of the format is, by its kind. -/
theorem value_cases (f : Fmt) (neg : Bool) {ex mant : Nat} (hex : ex < 2 ^ f.ew) (hmant : mant < 2 ^ f.mw) :
    (∃ q, f.value neg ex mant = .nan q) ∨
    (f.value neg ex mant = .inf neg ∧ f.e4m3 = false ∧ ex * 2 ^ f.mw + mant = f.inf) ∨
    (f.value neg ex mant = .zero neg ∧ ex * 2 ^ f.mw + mant = 0) ∨
    ∃ n e, f.Magnitude n e (ex * 2 ^ f.mw + mant) ∧ f.value neg ex mant = .num (if neg then -(n : Int) else n) e := by
  have hsg : ∀ n : Int, (if neg then -1 else 1) * n = if neg then -n else n := fun n => by split <;> ring
  unfold Fmt.value
  dsimp only
  split
  · exact .inl ⟨_, rfl⟩
  rename_i hnan
  split
  · rename_i htop
    split
    · rename_i h0
      exact .inr (.inl ⟨rfl, by simpa using htop.1, by rw [h0, htop.2, Fmt.inf, Nat.add_zero]⟩)
    · exact .inl ⟨_, rfl⟩
  rename_i htop
  split
  · rename_i h0
    subst h0
    split
    · rename_i hm
      exact .inr (.inr (.inl ⟨rfl, by simp [hm]⟩))
    · rename_i hm
      exact .inr (.inr (.inr ⟨mant, _, by simpa using .subnormal (Nat.pos_of_ne_zero hm) hmant, by rw [hsg]⟩))
  · rename_i h0
    have hcast : ((ex : Int) < 2 ^ f.ew) := by exact_mod_cast hex
    have hmag : f.Magnitude (mant + 2 ^ f.mw) (ex - f.bias - f.mw) (ex * 2 ^ f.mw + (mant + 2 ^ f.mw - 2 ^ f.mw)) := by
      refine .normal (by omega) (by rw [Nat.pow_succ]; omega) (by omega) ?_ ?_
      · unfold Fmt.emax
        split
        · omega
        · rename_i h4
          have : (ex : Int) ≠ 2 ^ f.ew - 1 := fun h => htop ⟨h4, by zify [Nat.one_le_two_pow]; omega⟩
          omega
      · intro hmax
        unfold Fmt.emax at hmax
        unfold Fmt.maxMant Fmt.p
        rw [Nat.pow_succ]
        split
        · rename_i h4
          rw [if_pos h4] at hmax
          have : mant ≠ 2 ^ f.mw - 1 := fun h => hnan ⟨h4, by zify [Nat.one_le_two_pow]; omega, h⟩
          omega
        · omega
    rw [Nat.add_sub_cancel] at hmag
    exact .inr (.inr (.inr ⟨_, _, hmag, by rw [hsg]; push_cast; rfl⟩))

/-! ## The exact encode -/

/-- A format has mantissa bits, and its exponents reach up from emin. -/
structure Fmt.Proper (f : Fmt) : Prop where
  mantissa : 1 ≤ f.mw
  range : f.emin ≤ f.emax

theorem fmtOfTy_proper (t : Nat) : (fmtOfTy t).Proper := by
  unfold fmtOfTy
  split <;> exact ⟨by decide, by decide⟩

theorem log2_eq {m k : Nat} (h0 : 2 ^ k ≤ m) (h1 : m < 2 ^ (k + 1)) : m.log2 = k :=
  (Nat.log2_eq_iff (by have := Nat.two_pow_pos k; omega)).2 ⟨h0, h1⟩

/-- A number at its own scale is its own count. -/
theorem roundAt_self (m e : Int) (mode : Nat) (d : BitVec 32) : roundAt m e e mode d = (m, false) := by
  simp [roundAt, scaleTo]

section Encode
variable {f : Fmt} {n : Nat} {e : Int} {code : Nat} (h : f.Magnitude n e code)
include h

/-- The exponent of a rounding's grid is that of the value itself. -/
theorem magnitude_grid : (if e + (n.log2 : Int) < f.emin then f.emin else e + n.log2) - f.mw = e := by
  cases h with
  | subnormal h0 h1 =>
    have : n.log2 < f.mw := (Nat.log2_lt h0.ne').2 h1
    rw [if_pos (by omega)]
  | normal h0 h1 h2 h3 h4 =>
    rw [log2_eq h0 h1, if_neg (by unfold Fmt.emin; omega)]
    omega

theorem encode_magnitude (neg : Bool) : f.encode neg n e = f.sign neg + code := by
  unfold Fmt.encode Fmt.sign
  dsimp only
  rw [if_neg (magnitude_pos h).ne']
  cases h with
  | subnormal h0 h1 =>
    have : n.log2 < f.mw := (Nat.log2_lt h0.ne').2 h1
    rw [if_pos (by omega)]
    simp
  | @normal ex h0 h1 h2 h3 h4 =>
    rw [log2_eq h0 h1, if_neg (by unfold Fmt.emin; omega), if_pos le_rfl, Nat.sub_self, show (ex - f.bias - f.mw + (f.mw : Int) + f.bias).toNat = ex by omega]
    omega

/-- No magnitude of the format overflows. -/
theorem magnitude_fits (hf : f.Proper) :
    ¬((f.maxMant : Int) < (scaleTo (n : Int) e (f.emax - f.mw)).1 ∨
      ((f.maxMant : Int) = (scaleTo (n : Int) e (f.emax - f.mw)).1 ∧ (scaleTo (n : Int) e (f.emax - f.mw)).2.1 ≠ 0)) := by
  have hmax : 2 ^ f.mw ≤ f.maxMant := by
    have : 2 ^ 1 ≤ 2 ^ f.mw := Nat.pow_le_pow_right (by omega) hf.mantissa
    unfold Fmt.maxMant Fmt.p
    rw [Nat.pow_succ]
    split <;> omega
  have hbound : n < 2 ^ (f.mw + 1) ∧ e ≤ f.emax - f.mw ∧ (e = f.emax - f.mw → n ≤ f.maxMant) := by
    cases h with
    | subnormal h0 h1 => exact ⟨by rw [Nat.pow_succ]; omega, by have := hf.range; omega, fun _ => by omega⟩
    | normal h0 h1 h2 h3 h4 => exact ⟨h1, by omega, fun he => h4 (by omega)⟩
  obtain ⟨hn, hle, htop⟩ := hbound
  by_cases he : f.emax - f.mw ≤ e
  · have := htop (le_antisymm hle he)
    rw [scaleTo, if_pos he, show (e - (f.emax - f.mw)).toNat = 0 by omega]
    simp
    omega
  · rw [scaleTo, if_neg he]
    dsimp only
    obtain ⟨k, hk⟩ : ∃ k, (f.emax - f.mw - e).toNat = k + 1 := ⟨(f.emax - f.mw - e).toNat - 1, by omega⟩
    have hlow : n / 2 ^ (k + 1) < f.maxMant := (Nat.div_lt_of_lt_mul (hn.trans_le (by
      rw [← Nat.pow_add]
      exact Nat.pow_le_pow_right (by omega) (by omega)))).trans_le hmax
    have : (n : Int) / 2 ^ (k + 1) < f.maxMant := by exact_mod_cast hlow
    rw [hk]
    omega

/-- A magnitude of the format is delivered as it is, with no flag. -/
theorem roundFmt_magnitude (hf : f.Proper) (sat neg : Bool) (r : REnv) :
    roundFmt f sat (.num (if neg then -(n : Int) else n) e) r = (f.sign neg + code, r.draw) := by
  have hpos := magnitude_pos h
  have habs : (if neg then -(n : Int) else n).natAbs = n := by split <;> simp
  have hneg : decide ((if neg then -(n : Int) else n) < 0) = neg := by
    cases neg
    · simp
    · simpa using hpos
  have hne : (if neg then -(n : Int) else n) ≠ 0 := by split <;> omega
  unfold roundFmt
  dsimp only
  rw [ilog, habs, magnitude_grid h, roundAt_self]
  dsimp only
  rw [habs, hneg, if_neg (magnitude_fits h hf), encode_magnitude h]
  simp [hne, REnv.raise]

end Encode

/-- Round trip of every encoding that is no NaN, infinities with the form that does not saturate (R102 to R104, R119). -/
theorem roundFmt_decode {f : Fmt} (hf : f.Proper) {b : Nat} (hb : b < 2 ^ f.width) (hn : (f.decode b).isNan = false) (sat : Bool)
    (hs : sat = false ∨ ∀ q, f.decode b ≠ .inf q) (r : REnv) : roundFmt f sat (f.decode b) r = (b, r.draw) := by
  obtain ⟨neg, ex, mant, hex, hmant, rfl, hd⟩ := decode_eq_value hb
  rw [hd] at hn hs ⊢
  obtain ⟨q, h⟩ | ⟨h, h4, hc⟩ | ⟨h, hc⟩ | ⟨n, e, hmag, h⟩ := value_cases f neg hex hmant
  · simp [h, FVal.isNan] at hn
  · rcases hs with rfl | hs
    · rw [h, Nat.add_assoc, hc]
      simp [roundFmt, h4, Fmt.sign]
    · exact absurd h (hs neg)
  · rw [h, Nat.add_assoc, hc]
    simp [roundFmt, Fmt.sign]
  · rw [h, roundFmt_magnitude hmag hf, Nat.add_assoc]

@[simp] theorem flags_or_zero (a : Flags) : a ||| 0 = a := BitVec.or_zero
@[simp] theorem flags_zero_or (a : Flags) : 0 ||| a = a := BitVec.zero_or
@[simp] theorem draw_flags (r : REnv) : r.draw.flags = r.flags := by unfold REnv.draw; split <;> rfl
@[simp] theorem draw_mode (r : REnv) : r.draw.mode = r.mode := by unfold REnv.draw; split <;> rfl

/-- Every NaN becomes the canonical one, a signalling one with NV (R104). -/
theorem roundFmt_nan (f : Fmt) (sat q : Bool) (r : REnv) :
    roundFmt f sat (.nan q) r = (f.nan, { r.draw with flags := r.flags ||| (FVal.nan q).sigFlag }) := by
  cases q
  · show (f.nan, r.draw) = (f.nan, { r.draw with flags := r.flags ||| 0 })
    rw [flags_or_zero, ← draw_flags r]
  · show (f.nan, r.draw.raise flNV) = _
    rw [REnv.raise, draw_flags]
    rfl

end Sys2Proof.Machine
end

section
/-! PROOFS. O22, part 3: exact arithmetic (R104, R119, R124, R189), the special operands, and the statement. -/
namespace Sys2Proof.Machine

/-! ## Finite operands -/

/-- A value with a rational number is a zero or a number with a mantissa. -/
theorem rat_eq_some {a : FVal} {x : ℚ} (h : a.rat = some x) : (∃ n, a = .zero n ∧ x = 0) ∨ ∃ m e, a = .num m e ∧ m ≠ 0 ∧ x = (m : ℚ) * 2 ^ e := by
  cases a with
  | nan q => simp [FVal.rat] at h
  | inf n => simp [FVal.rat] at h
  | zero n => exact .inl ⟨n, rfl, by simpa [FVal.rat, eq_comm] using h⟩
  | num m e =>
    by_cases hm : m = 0
    · simp [FVal.rat, hm] at h
    · exact .inr ⟨m, e, rfl, hm, by simpa [FVal.rat, hm, eq_comm] using h⟩

theorem rat_num {m : Int} (h : m ≠ 0) (e : Int) : (FVal.num m e).rat = some ((m : ℚ) * 2 ^ e) := by simp [FVal.rat, h]

theorem zpow_split {e1 e2 : Int} (h : e1 ≤ e2) : (2 : ℚ) ^ e2 = 2 ^ (e2 - e1).toNat * 2 ^ e1 := by
  rw [← zpow_natCast, Int.toNat_of_nonneg (by omega), ← zpow_add₀ two_ne_zero, Int.sub_add_cancel]

theorem dyAdd_value (m1 e1 m2 e2 : Int) : ((dyAdd m1 e1 m2 e2).1 : ℚ) * 2 ^ (dyAdd m1 e1 m2 e2).2 = m1 * 2 ^ e1 + m2 * 2 ^ e2 := by
  unfold dyAdd
  split
  · rename_i h
    rw [zpow_split h]
    push_cast
    ring
  · rename_i h
    rw [zpow_split (e1 := e2) (e2 := e1) (by omega)]
    push_cast
    ring

section Finite
variable {a b : FVal} {x y : ℚ} (ha : a.rat = some x) (hb : b.rat = some y)
include ha

theorem neg_rat : a.neg.rat = some (-x) := by
  obtain ⟨n, rfl, rfl⟩ | ⟨m, e, rfl, hm, rfl⟩ := rat_eq_some ha
  · simp [FVal.neg, FVal.rat]
  · rw [FVal.neg, rat_num (neg_ne_zero.2 hm)]
    push_cast
    rw [neg_mul]

include hb

theorem fAdd_rat (mode : Nat) : (fAdd mode a b).1.rat = some (x + y) ∧ (fAdd mode a b).2 = 0 := by
  obtain ⟨n, rfl, rfl⟩ | ⟨m, e, rfl, hm, rfl⟩ := rat_eq_some ha <;> obtain ⟨n', rfl, rfl⟩ | ⟨m', e', rfl, hm', rfl⟩ := rat_eq_some hb
  · simp [fAdd, FVal.rat]
  · exact ⟨by rw [zero_add]; exact hb, rfl⟩
  · exact ⟨by rw [add_zero]; exact ha, rfl⟩
  · refine ⟨?_, rfl⟩
    have hv := dyAdd_value m e m' e'
    rw [← hv]
    show (if (dyAdd m e m' e').1 = 0 then FVal.zero (mode = 2) else .num (dyAdd m e m' e').1 (dyAdd m e m' e').2).rat = _
    split
    · rename_i h0
      simp [FVal.rat, h0]
    · rename_i h0
      exact rat_num h0 _

theorem fMul_rat : (fMul a b).1.rat = some (x * y) ∧ (fMul a b).2 = 0 := by
  obtain ⟨n, rfl, rfl⟩ | ⟨m, e, rfl, hm, rfl⟩ := rat_eq_some ha <;> obtain ⟨n', rfl, rfl⟩ | ⟨m', e', rfl, hm', rfl⟩ := rat_eq_some hb
  · simp [fMul, FVal.rat]
  · simp [fMul, FVal.rat]
  · simp [fMul, FVal.rat]
  · refine ⟨?_, rfl⟩
    show (FVal.num (m * m') (e + e')).rat = _
    rw [rat_num (mul_ne_zero hm hm'), zpow_add₀ two_ne_zero]
    push_cast
    congr 1
    ring

/-- Comparison follows the numbers. -/
theorem fCmp_rat : fCmp a b = some (if x < y then .lt else if y < x then .gt else .eq) := by
  have hsign : ∀ m e : Int, (0 < (m : ℚ) * 2 ^ e ↔ 0 < m) ∧ ((m : ℚ) * 2 ^ e < 0 ↔ m < 0) := fun m e => by
    have h2 : (0 : ℚ) < 2 ^ e := by positivity
    refine ⟨?_, ?_⟩
    · rw [mul_pos_iff_of_pos_right h2, Int.cast_pos]
    · rw [← not_le, mul_nonneg_iff_of_pos_right h2, Int.cast_nonneg_iff, not_le]
  obtain ⟨n, rfl, rfl⟩ | ⟨m, e, rfl, hm, rfl⟩ := rat_eq_some ha <;> obtain ⟨n', rfl, rfl⟩ | ⟨m', e', rfl, hm', rfl⟩ := rat_eq_some hb
  · simp [fCmp]
  · simp only [fCmp, (hsign m' e').1, (hsign m' e').2]
    split
    · rfl
    · rw [if_pos (by omega)]
  · simp only [fCmp, (hsign m e).1, (hsign m e).2]
    split
    · rw [if_neg (by omega)]
    · rw [if_pos (by omega)]
  · have hv := dyAdd_value m e (-m') e'
    obtain ⟨hp, hn⟩ := hsign (dyAdd m e (-m') e').1 (dyAdd m e (-m') e').2
    rw [hv] at hp hn
    have hlt : (m : ℚ) * 2 ^ e < m' * 2 ^ e' ↔ (dyAdd m e (-m') e').1 < 0 := by
      rw [← hn, ← sub_neg]
      push_cast
      rw [neg_mul, ← sub_eq_add_neg]
    have hgt : (m' : ℚ) * 2 ^ e' < m * 2 ^ e ↔ 0 < (dyAdd m e (-m') e').1 := by
      rw [← hp, ← sub_pos]
      push_cast
      rw [neg_mul, ← sub_eq_add_neg]
    simp only [fCmp, hlt, hgt]

theorem fFma_rat {c : FVal} {z : ℚ} (hc : c.rat = some z) (mode : Nat) : (fFma mode a b c).1.rat = some (x * y + z) ∧ (fFma mode a b c).2 = 0 := by
  obtain ⟨hm, hmf⟩ := fMul_rat ha hb
  obtain ⟨hs, hsf⟩ := fAdd_rat hm hc mode
  exact ⟨hs, by rw [fFma, hmf, hsf]; rfl⟩

end Finite

/-! ## Special operands -/

theorem special_operands (mode : Nat) (a : FVal) (n n' q : Bool) :
    fAdd mode (.inf n) (.inf n') = (if n = n' then (.inf n, 0) else (.nan false, 16)) ∧
    fMul (.inf n) (.zero n') = (.nan false, 16) ∧ fMul (.zero n) (.inf n') = (.nan false, 16) ∧
    (fAdd mode a (.nan q)).1 = .nan false ∧ (fAdd mode (.nan q) a).1 = .nan false ∧ (fMul a (.nan q)).1 = .nan false ∧ (fMul (.nan q) a).1 = .nan false ∧
    fAdd mode (.zero n) (.zero n') = (.zero (if n = n' then n else decide (mode = 2)), 0) ∧
    fCmp a (.nan q) = none ∧ fCmp (.nan q) a = none := by
  refine ⟨rfl, rfl, rfl, ?_, rfl, ?_, rfl, rfl, ?_, rfl⟩ <;> cases a <;> rfl

theorem fLog2_two_pow (k : Nat) (e : Int) : fLog2 (.num (2 ^ k) e) = (FVal.ofDyadic (e + k) 0, 0) := by
  have hl : ilog (2 ^ k) = k := by
    rw [ilog, Int.natAbs_pow]
    exact Nat.log2_two_pow
  unfold fLog2
  dsimp only
  rw [hl, if_neg (not_lt.2 (by positivity)), if_pos rfl]

theorem negative_operands {m : Int} (hm : m < 0) (e : Int) : fLog2 (.num m e) = (.nan false, 16) ∧ fRsqrt (.num m e) = (.nan false, 16) :=
  ⟨if_pos hm, if_pos hm⟩

/-- Settles O22: the roundings of R106 one mode at a time, the round trip by the fields of an encoding, and exact arithmetic by the operands' kinds. -/
theorem roundingAndArithmetic : Obligations.RoundingAndArithmetic := by
  refine ⟨fun m e q d => ?_, fun f b sat r hf hb hinf => ⟨fun hn => ?_, fun hn => ?_⟩, ⟨fun mode a b c x y z ha hb hc => ?_, special_operands⟩, ?_⟩
  · obtain ⟨even, evenTie⟩ := roundAt_nearestEven m e q d
    obtain ⟨away, awayTie⟩ := roundAt_nearestAway m e q d
    exact ⟨fun mode _ => ⟨roundAt_inexact m e q d mode, roundAt_neighbour m e q d mode⟩, even, evenTie, away, awayTie, roundAt_towardZero m e q d,
      roundAt_down m e q d, roundAt_up m e q d, roundAt_stochastic m e q d⟩
  · have hproper : f.Proper := by
      simp only [List.mem_cons, List.not_mem_nil, or_false] at hf
      rcases hf with rfl | rfl | rfl | rfl | rfl <;> exact ⟨by decide, by decide⟩
    exact roundFmt_decode hproper hb hn sat (.inr hinf) r
  · cases hd : f.decode b with
    | nan q => exact roundFmt_nan f sat q r
    | inf n => simp [hd, FVal.isNan] at hn
    | zero n => simp [hd, FVal.isNan] at hn
    | num m e => simp [hd, FVal.isNan] at hn
  · obtain ⟨hadd, haddF⟩ := fAdd_rat ha hb mode
    obtain ⟨hmul, hmulF⟩ := fMul_rat ha hb
    obtain ⟨hfma, hfmaF⟩ := fFma_rat ha hb hc mode
    exact ⟨hadd, haddF, hmul, hmulF, hfma, hfmaF, neg_rat ha, fCmp_rat ha hb⟩
  · refine ⟨rfl, rfl, rfl, rfl, rfl, rfl, fun m e hm => negative_operands hm e, fLog2_two_pow, fun f hf => ?_⟩
    simp only [List.mem_cons, List.not_mem_nil, or_false] at hf
    rcases hf with rfl | rfl | rfl | rfl | rfl | rfl <;> rfl

end Sys2Proof.Machine
end

section
/-! PROOFS. Tiles and the writing loop (R42, R184): what an element reads after a write, and what the loop leaves in the tile and in the rounding
state (R107, R127). -/
namespace Sys2Proof.Machine

/-! ## Elements of a tile -/

section Elements
variable (t : Tile) {w k : Nat} (v : Nat)

theorem elemAt_eq_fieldN (hw : 1 ≤ w) : elemAt t w k = fieldN t (8 * w * k + (8 * w - 1)) (8 * w * k) := by
  rw [fieldN, BitVec.extractLsb'_toNat, elemAt, BitVec.toNat_ushiftRight, show 8 * w * k + (8 * w - 1) + 1 - 8 * w * k = 8 * w by omega]

theorem elemAt_lt : elemAt t w k < 2 ^ (8 * w) := Nat.mod_lt _ (by positivity)

@[simp] theorem elemAt_mod : elemAt t w k % 2 ^ (8 * w) = elemAt t w k := Nat.mod_eq_of_lt (elemAt_lt t)

/-- An element's bits lie in a tile of 2,048 bytes. -/
theorem elem_inside {n : Nat} (hk : k < n) (hn : n * w ≤ 2048) : 8 * w * k + 8 * w ≤ 16384 := by
  have : (k + 1) * w ≤ n * w := Nat.mul_le_mul_right w hk
  nlinarith

/-- Two elements lie apart. -/
theorem elems_apart {j : Nat} (h : j ≠ k) : 8 * w * j + 8 * w ≤ 8 * w * k ∨ 8 * w * k + 8 * w ≤ 8 * w * j := by
  rcases Nat.lt_or_gt_of_ne h with h | h
  · exact .inl (by rw [← Nat.mul_succ]; exact Nat.mul_le_mul_left _ h)
  · exact .inr (by rw [← Nat.mul_succ]; exact Nat.mul_le_mul_left _ h)

variable (hw : 1 ≤ w) (hk : 8 * w * k + 8 * w ≤ 16384)
include hw hk

theorem elemAt_putElem_same : elemAt (putElem t w k v) w k = v % 2 ^ (8 * w) := by
  rw [elemAt_eq_fieldN _ hw, putElem, fieldN_setField_same t v (by omega) (by omega),
    show 8 * w * k + (8 * w - 1) + 1 - 8 * w * k = 8 * w by omega]

theorem elemAt_putElem_ne {j : Nat} (h : j ≠ k) : elemAt (putElem t w k v) w j = elemAt t w j := by
  rw [elemAt_eq_fieldN _ hw, elemAt_eq_fieldN _ hw, putElem, fieldN_setField_ne t v (by omega) (by omega)]
  rcases elems_apart (w := w) h with h | h <;> omega

theorem getLsbD_putElem_above {b : Nat} (hb : 8 * w * k + 8 * w ≤ b) : (putElem t w k v).getLsbD b = t.getLsbD b :=
  getLsbD_setField_ne t v (by omega) (by omega) (by omega)

end Elements

/-! ## Rounding states -/

/-- A rounding in SR mode takes one draw (R107), flags accrue (R127): what is delivered depends on the mode and the stochastic state alone. -/
def Accrues {α : Type} (draws : Bool) (f : REnv → α × REnv) : Prop :=
  ∀ r : REnv, f r = ((f { r with flags := 0 }).1,
    ⟨r.mode, if draws then r.draw.seed else r.seed, r.flags ||| (f { r with flags := 0 }).2.flags⟩)

theorem accrues_raise {α : Type} (v : α) (fl : Flags) : Accrues false (fun r => (v, r.raise fl)) := fun r => by
  simp [REnv.raise]

theorem accrues_keep {α : Type} (v : α) : Accrues false (fun r => (v, r)) := fun r => by
  simp

theorem draw_with_flags (r : REnv) (fl : Flags) : ({ r with flags := fl } : REnv).draw = { r.draw with flags := fl } := by
  unfold REnv.draw
  dsimp only
  split <;> rfl

theorem draw_eq (r : REnv) : r.draw = ⟨r.mode, r.draw.seed, r.flags⟩ := by
  unfold REnv.draw
  split <;> rfl

section Accrues
variable {α β : Type} {draws : Bool} {f : REnv → α × REnv} (h : Accrues draws f)
include h

theorem Accrues.map (g : α → β) : Accrues draws (fun r => (g (f r).1, (f r).2)) := fun r => by
  dsimp only
  rw [h r]

theorem Accrues.raise (fl : Flags) : Accrues draws (fun r => f (r.raise fl)) := fun r => by
  have hd : (r.raise fl).draw = { r.draw with flags := r.flags ||| fl } := draw_with_flags r _
  dsimp only
  rw [h (r.raise fl), h (REnv.raise { r with flags := 0 } fl), hd]
  simp only [REnv.raise, flags_zero_or, BitVec.or_assoc]

end Accrues

theorem accrues_roundFmt (f : Fmt) (sat : Bool) (x : FVal) : Accrues true (roundFmt f sat x) := fun r => by
  unfold roundFmt
  simp only [draw_with_flags]
  cases x with
  | nan q => cases q <;> simp [REnv.raise, ← draw_eq]
  | inf n => dsimp only; split_ifs <;> simp [REnv.raise, ← draw_eq]
  | zero n => simp [← draw_eq]
  | num m e => dsimp only; split_ifs <;> simp [REnv.raise]

theorem accrues_roundElem (f : Fmt) (g : Nat → FVal × Flags) : Accrues true (fun r => roundElem f (g r.mode) r) := fun r => by
  have hround : ∀ v, Accrues true (fun r : REnv => roundFmt f false v (r.raise (g r.mode).2)) := fun v r =>
    (accrues_roundFmt f false v).raise (g r.mode).2 r
  unfold roundElem
  dsimp only
  split
  · split
    · simp only [draw_with_flags]
      simp [REnv.raise]
    · exact hround _ r
  all_goals exact hround _ r

theorem accrues_toIntSat (x : FVal) (lo hi : Int) : Accrues true (toIntSat x lo hi) := fun r => by
  unfold toIntSat
  simp only [draw_with_flags]
  cases x with
  | nan q => simp [REnv.raise]
  | inf n => simp [REnv.raise]
  | zero n => simp [← draw_eq]
  | num m e => dsimp only; split_ifs <;> simp [REnv.raise, ← draw_eq]

/-! ## The writing loop (R184) -/

section Loop
variable (w : Nat) (act : Nat → Bool) (mz : Bool) (f : Nat → REnv → Nat × REnv)

/-- The rounding state after the positions of a list. -/
def envAfter (ks : List Nat) (r : REnv) : REnv := ks.foldl (fun r k => if act k then (f k r).2 else r) r

theorem writeElems_append (ks js : List Nat) (old : Tile) (r : REnv) : writeElems w act mz f (ks ++ js) old r =
    writeElems w act mz f js (writeElems w act mz f ks old r).1 (writeElems w act mz f ks old r).2 := List.foldl_append ..

theorem writeElems_env (ks : List Nat) (old : Tile) (r : REnv) : (writeElems w act mz f ks old r).2 = envAfter act f ks r := by
  induction ks generalizing old r with
  | nil => rfl
  | cons k ks ih =>
    rw [← List.singleton_append, writeElems_append, ih, envAfter, envAfter, List.foldl_append]
    simp only [writeElems, List.foldl_cons, List.foldl_nil]
    split
    · rfl
    · split <;> rfl

variable {w}

/-- What one position leaves. -/
theorem writeElems_one {k : Nat} (hw : 1 ≤ w) (hk : 8 * w * k + 8 * w ≤ 16384) (old : Tile) (r : REnv) :
    elemAt (writeElems w act mz f [k] old r).1 w k = if act k then (f k r).1 % 2 ^ (8 * w) else if mz then 0 else elemAt old w k := by
  simp only [writeElems, List.foldl_cons, List.foldl_nil]
  split
  · exact elemAt_putElem_same _ _ hw hk
  · split
    · rw [elemAt_putElem_same _ _ hw hk, Nat.zero_mod]
    · rfl

/-- Positions not in the list stay, and so does everything above them. -/
theorem writeElems_other {ks : List Nat} (hw : 1 ≤ w) (hks : ∀ k ∈ ks, 8 * w * k + 8 * w ≤ 16384) (old : Tile) (r : REnv) :
    (∀ j, j ∉ ks → elemAt (writeElems w act mz f ks old r).1 w j = elemAt old w j) ∧
      ∀ b, (∀ k ∈ ks, 8 * w * k + 8 * w ≤ b) → (writeElems w act mz f ks old r).1.getLsbD b = old.getLsbD b := by
  induction ks generalizing old r with
  | nil => exact ⟨fun _ _ => rfl, fun _ _ => rfl⟩
  | cons k ks ih =>
    have hk := hks k (by simp)
    obtain ⟨ihe, ihb⟩ := ih (fun j hj => hks j (by simp [hj])) (writeElems w act mz f [k] old r).1 (writeElems w act mz f [k] old r).2
    rw [← List.singleton_append, writeElems_append]
    refine ⟨fun j hj => ?_, fun b hb => ?_⟩
    · have hne : j ≠ k := fun h => hj (by simp [h])
      rw [ihe j fun h => hj (by simp [h])]
      simp only [writeElems, List.foldl_cons, List.foldl_nil]
      split
      · exact elemAt_putElem_ne _ _ hw hk hne
      · split
        · exact elemAt_putElem_ne _ _ hw hk hne
        · rfl
    · rw [ihb b fun j hj => hb j (by simp [hj])]
      simp only [writeElems, List.foldl_cons, List.foldl_nil]
      have hkb := hb k (by simp)
      split
      · exact getLsbD_putElem_above _ _ hw hk hkb
      · split
        · exact getLsbD_putElem_above _ _ hw hk hkb
        · rfl

/-- What a position of the list is left with: its result in the rounding state of the positions before it. -/
theorem writeElems_elem {pre post : List Nat} {k : Nat} (hw : 1 ≤ w) (hks : ∀ j ∈ pre ++ k :: post, 8 * w * j + 8 * w ≤ 16384)
    (hpre : k ∉ pre) (hpost : k ∉ post) (old : Tile) (r : REnv) :
    elemAt (writeElems w act mz f (pre ++ k :: post) old r).1 w k =
      if act k then (f k (envAfter act f pre r)).1 % 2 ^ (8 * w) else if mz then 0 else elemAt old w k := by
  rw [writeElems_append, ← List.singleton_append (l := post), writeElems_append,
    (writeElems_other act mz f hw (fun j hj => hks j (by simp [hj])) _ _).1 k hpost, writeElems_one act mz f hw (hks k (by simp)), writeElems_env,
    (writeElems_other act mz f hw (fun j hj => hks j (by simp [hj])) _ _).1 k hpre]

/-- The same for a loop over the positions below n, which is how every instruction but VTRN runs it. -/
theorem writeElems_range {n k : Nat} (hw : 1 ≤ w) (hn : n * w ≤ 2048) (hk : k < n) (old : Tile) (r : REnv) :
    elemAt (writeElems w act mz f (List.range n) old r).1 w k =
      if act k then (f k (envAfter act f (List.range k) r)).1 % 2 ^ (8 * w) else if mz then 0 else elemAt old w k := by
  obtain ⟨m, rfl⟩ : ∃ m, n = k + (m + 1) := ⟨n - k - 1, by omega⟩
  have hsplit : List.range (k + (m + 1)) = List.range k ++ k :: (List.range m).map (fun i => k + (i + 1)) := by
    rw [List.range_add, List.range_succ_eq_map, List.map_cons, List.map_map]
    rfl
  rw [hsplit]
  refine writeElems_elem act mz f hw (fun j hj => ?_) (by simp) (by simp) old r
  rw [← hsplit] at hj
  exact elem_inside (List.mem_range.1 hj) hn

theorem writeElems_range_above {n b : Nat} (hw : 1 ≤ w) (hn : n * w ≤ 2048) (hb : 8 * w * n ≤ b) (old : Tile) (r : REnv) :
    (writeElems w act mz f (List.range n) old r).1.getLsbD b = old.getLsbD b := by
  refine (writeElems_other act mz f hw (fun k hk => elem_inside (List.mem_range.1 hk) hn) old r).2 b fun k hk => ?_
  have : 8 * w * (k + 1) ≤ 8 * w * n := Nat.mul_le_mul_left _ (List.mem_range.1 hk)
  rw [Nat.mul_succ] at this
  omega

end Loop
end Sys2Proof.Machine
end

section
/-! PROOFS. How a vector element instruction runs (R67, R80, R184, R186): its checks, the tile it writes, and the rounding state it leaves (R107, R127). -/
namespace Sys2Proof.Machine

/-! ## Checks, the write, and the busy tile -/

variable {s : State} {cls own w : Nat}

theorem checkWidth_ok (hw : s.cur.shape.w = w) : checkWidth w s = .ok ((), s) := by
  rw [checkWidth, act_bind_get, hw, bne_self_eq_false, raiseIf_false]
  rfl

theorem awaitTiles_ok {ds : List Dest} (h : TilesFree s ds) : awaitTiles ds s = .ok ((), s) := by
  induction ds with
  | nil => rfl
  | cons d rest ih =>
    have hd : s.cur.pend.any (fun q => q.dst = d) = false := by simpa using h d (by simp)
    rw [awaitTiles, act_bind_get, act_bind_waitIf hd]
    exact ih fun e he => h e (by simp [he])

/-- The state after a busy write, by the context that the write leaves. -/
def State.busyCtx (s : State) (d : Dest) (cls own : Nat) (c : Context) : State :=
  { s with
    cur := ({ c with pend := c.pend ++ [⟨s.nextId, d, s.cycle + s.latency cls own, .held, none⟩] } : Context).nextSeq
    nextId := s.nextId + 1 }

theorem busyDone_eq (d : Dest) (g : Context → Context) : s.busyDone d cls own g = s.busyCtx d cls own (g s.cur) := rfl

theorem busyDone_congr {d : Dest} {g g' : Context → Context} (h : g s.cur = g' s.cur) : s.busyDone d cls own g = s.busyDone d cls own g' := by
  rw [busyDone_eq, busyDone_eq, h]

theorem latency_setCur {g : Context → Context} (h : (g s.cur).slot = s.cur.slot) : (s.setCur g).latency cls own = s.latency cls own := by
  unfold State.latency State.slotOf
  rw [setCur_slots, setCur_cur, setCur_images, h]

/-- The frame of every form: the width and tile checks, one write, its destination busy, the next word. -/
theorem vectorForm_run {ds : List Dest} {d : Dest} {g : Context → Context} (hw : s.cur.shape.w = w) (hfree : TilesFree s ds)
    (hslot : (g s.cur).slot = s.cur.slot) :
    runAct (do checkWidth w; awaitTiles ds; modCur g; occupy d cls own; advance) s = .next (s.busyDone d cls own g) := by
  refine runAct_ok ?_
  rw [act_bind_ok (checkWidth_ok hw), act_bind_ok (awaitTiles_ok hfree), act_bind_modCur, busyDone_eq, State.busyCtx, ← latency_setCur hslot]
  rfl

/-! ## The rounding state over the positions (R107, R127) -/

/-- The rounding environment of position k: the draws of the active positions before it, where the operation draws at all. -/
def State.elemEnv (s : State) (draws : Bool) (msk : BitVec 4) (k : Nat) : REnv :=
  ⟨s.rmode, s.seedAt (if draws then ((List.range k).filter (s.cur.active msk)).length else 0), 0⟩

theorem fcsr_mode : fieldN s.cur.fcsr 2 0 = s.rmode := by
  rw [fieldN_eq, Nat.pow_zero, Nat.div_one]
  rfl

theorem seedAt_zero : s.seedAt 0 = s.cur.fcsr.extractLsb' 32 32 := by
  unfold State.seedAt
  split <;> rfl

theorem envOf_fcsr : envOf s.cur.fcsr = ⟨s.rmode, s.seedAt 0, 0⟩ := by rw [envOf, fcsr_mode, seedAt_zero]

theorem draw_seedAt (n : Nat) (fl : Flags) : (⟨s.rmode, s.seedAt n, fl⟩ : REnv).draw = ⟨s.rmode, s.seedAt (n + 1), fl⟩ := by
  unfold REnv.draw State.seedAt
  dsimp only
  split
  · rw [Function.iterate_succ_apply']
  · rfl

theorem actives_below {msk : BitVec 4} {k : Nat} (hk : k ≤ s.cur.shape.size) :
    (s.cur.actives msk).filter (fun j => decide (j < k)) = (List.range k).filter (s.cur.active msk) := by
  obtain ⟨m, hm⟩ := Nat.exists_eq_add_of_le hk
  have hlow : (List.range k).filter (fun j => decide (j < k)) = List.range k := List.filter_eq_self.2 fun j hj => by simpa using hj
  have hhigh : ((List.range m).map (k + ·)).filter (fun j => decide (j < k)) = [] := List.filter_eq_nil_iff.2 fun j hj => by
    obtain ⟨i, -, rfl⟩ := List.mem_map.1 hj
    simp
  rw [Context.actives, Shape.poss, hm, List.filter_comm, List.range_add, List.filter_append, hlow, hhigh, List.append_nil]

theorem elemEnv_draws {msk : BitVec 4} {k : Nat} (hk : k ≤ s.cur.shape.size) : s.elemEnv true msk k = s.envAt msk k := by
  rw [State.envAt, actives_below hk]
  rfl

theorem envAfter_range_succ (act : Nat → Bool) (f : Nat → REnv → Nat × REnv) (n : Nat) (r : REnv) : envAfter act f (List.range (n + 1)) r =
    if act n then (f n (envAfter act f (List.range n) r)).2 else envAfter act f (List.range n) r := by
  simp [envAfter, List.range_succ]

/-- The rounding state after the positions below n: the draws and the flags of the active ones. -/
theorem envAfter_range {draws : Bool} {msk : BitVec 4} {f : Nat → REnv → Nat × REnv} (hf : ∀ k, Accrues draws (f k)) (n : Nat) :
    envAfter (s.cur.active msk) f (List.range n) (envOf s.cur.fcsr) = { s.elemEnv draws msk n with
      flags := ((List.range n).filter (s.cur.active msk)).foldl (fun a k => a ||| (f k (s.elemEnv draws msk k)).2.flags) 0 } := by
  induction n with
  | zero =>
    rw [envOf_fcsr, State.elemEnv]
    simp [envAfter]
  | succ n ih =>
    rw [envAfter_range_succ, ih, State.elemEnv, List.range_succ, List.filter_append]
    by_cases ha : s.cur.active msk n = true
    · rw [if_pos ha, hf n]
      dsimp only
      rw [draw_seedAt]
      cases draws <;> simp [ha, State.elemEnv, List.range_succ]
    · rw [if_neg ha]
      simp [ha, State.elemEnv, List.range_succ]

/-! ## The writing loop of a form -/

/-- What the writing loop leaves at each position, every result in its own rounding state. -/
theorem writeElems_result {draws mz : Bool} {vd msk : BitVec 4} {f : Nat → REnv → Nat × REnv} (hf : ∀ k, Accrues draws (f k)) (hw : 1 ≤ w)
    (hn : s.cur.shape.size * w ≤ 2048) : ElemResult s w msk mz vd
      (writeElems w (s.cur.active msk) mz f s.cur.shape.poss (s.cur.tile vd) (envOf s.cur.fcsr)).1 (fun k => (f k (s.elemEnv draws msk k)).1) := by
  refine ⟨fun k hk => ?_, fun b hb => writeElems_range_above _ _ _ hw hn hb _ _⟩
  rw [Shape.poss, writeElems_range _ _ _ hw hn hk, envAfter_range hf, hf k]
  rfl

/-- The fcsr that the writing loop leaves. -/
theorem writeElems_fcsr {draws mz : Bool} {vd msk : BitVec 4} {f : Nat → REnv → Nat × REnv} (hf : ∀ k, Accrues draws (f k)) :
    putEnv s.cur.fcsr (writeElems w (s.cur.active msk) mz f s.cur.shape.poss (s.cur.tile vd) (envOf s.cur.fcsr)).2 =
      s.fcsrAfter (if draws then (s.cur.actives msk).length else 0) (s.orFlags msk (fun k => (f k (s.elemEnv draws msk k)).2.flags)) := by
  rw [writeElems_env, Shape.poss, envAfter_range hf]
  rfl

theorem floatW_pos (ty : BitVec 3) : 1 ≤ floatW ty := by
  unfold floatW fmtOfTy
  split <;> decide

theorem intW_pos (ty : BitVec 3) : 1 ≤ intW ty := by
  unfold intW
  split <;> decide

/-- An element form whose operation takes one draw a position, or none: the tile, the draws and the flags. -/
theorem elemForm_spec {draws mz : Bool} {vd msk : BitVec 4} {uses : List Dest} {f : Context → Nat → REnv → Nat × REnv}
    (h : ElemReady s w msk (.tile vd :: uses)) (hw : 1 ≤ w) (hf : ∀ k, Accrues draws (f s.cur k)) :
    ∃ t : Tile, runAct (elemForm cls own w vd msk mz uses f) s = .next (s.busyDone (.tile vd) cls own (fun c => { c.setTile vd t with
        fcsr := s.fcsrAfter (if draws then (s.cur.actives msk).length else 0) (s.orFlags msk (fun k => (f s.cur k (s.elemEnv draws msk k)).2.flags)) })) ∧
      ElemResult s w msk mz vd t (fun k => (f s.cur k (s.elemEnv draws msk k)).1) := by
  obtain ⟨hwidth, -, hsize, hfree⟩ := h
  refine ⟨_, ?_, writeElems_result hf hw hsize⟩
  refine (vectorForm_run hwidth hfree rfl).trans (congrArg _ (busyDone_congr ?_))
  dsimp only
  rw [writeElems_fcsr hf]

end Sys2Proof.Machine
end

section
/-! PROOFS. Vector elements (O23): the rounded operations and special functions (R189, R191), and those that round nothing (R119, R190, R192, R194, R201). -/
namespace Sys2Proof.Machine

variable {s : State} {cls own w : Nat}

/-! ## Forms by what their operation does to the rounding state -/

theorem elemResult_congr {msk vd : BitVec 4} {mz : Bool} {t : Tile} {v v' : Nat → Nat}
    (h : ∀ k, k < s.cur.shape.size → v k % 2 ^ (8 * w) = v' k % 2 ^ (8 * w)) (hr : ElemResult s w msk mz vd t v) : ElemResult s w msk mz vd t v' := by
  obtain ⟨hin, hout⟩ := hr
  exact ⟨fun k hk => by rw [← h k hk]; exact hin k hk, hout⟩

theorem mem_actives {msk : BitVec 4} {k : Nat} : k ∈ s.cur.actives msk ↔ k < s.cur.shape.size ∧ s.cur.active msk k = true := by
  simp [Context.actives, Shape.poss]

theorem orFlags_congr {msk : BitVec 4} {g g' : Nat → Flags} (h : ∀ k, k < s.cur.shape.size → g k = g' k) : s.orFlags msk g = s.orFlags msk g' := by
  unfold State.orFlags
  exact List.foldl_ext _ _ _ fun a k hk => by rw [h k (mem_actives.1 hk).1]

@[simp] theorem orFlags_zero (msk : BitVec 4) : s.orFlags msk (fun _ => 0) = 0 := by
  unfold State.orFlags
  exact foldl_keeps id (fun t _ => flags_or_zero t) _ _

/-- No draw and no flag leave fcsr as it is. -/
@[simp] theorem fcsrAfter_zero : s.fcsrAfter 0 0 = s.cur.fcsr := by
  rw [State.fcsrAfter, seedAt_zero, putEnv]
  refine BitVec.eq_of_getLsbD_eq fun i hi => ?_
  have hmask : (0xFFFFFFFF#64).getLsbD i = decide (i < 32) := by
    rw [show (0xFFFFFFFF#64) = BitVec.ofNat 64 (2 ^ 32 - 1) from rfl, BitVec.getLsbD_ofNat, Nat.testBit_two_pow_sub_one, decide_eq_true hi, Bool.true_and]
  have hseed : (s.cur.fcsr.extractLsb' 32 32 ++ 0#32).getLsbD i = (!decide (i < 32) && s.cur.fcsr.getLsbD i) := by
    rw [BitVec.getLsbD_append]
    by_cases h : i < 32
    · simp [h]
    · simp [h, show i - 32 < 32 by omega, show 32 + (i - 32) = i by omega]
  rw [BitVec.getLsbD_or, BitVec.getLsbD_or, hseed, BitVec.getLsbD_and, hmask]
  by_cases h : i < 32 <;> simp [h]

section Forms
variable {vd msk : BitVec 4} {mz : Bool} {uses : List Dest} {f : Context → Nat → REnv → Nat × REnv} (h : ElemReady s w msk (.tile vd :: uses)) (hw : 1 ≤ w)
include h hw

/-- Every active position rounds once, with its own draw. -/
theorem elemForm_rounds (hf : ∀ k, Accrues true (f s.cur k)) :
    ∃ t : Tile, runAct (elemForm cls own w vd msk mz uses f) s = .next (s.busyDone (.tile vd) cls own (fun c => { c.setTile vd t with
        fcsr := s.fcsrAfter (s.cur.actives msk).length (s.orFlags msk (fun k => (f s.cur k (s.envAt msk k)).2.flags)) })) ∧
      ElemResult s w msk mz vd t (fun k => (f s.cur k (s.envAt msk k)).1) := by
  obtain ⟨t, hrun, hres⟩ := elemForm_spec (cls := cls) (own := own) (mz := mz) h hw hf
  refine ⟨t, ?_, elemResult_congr (fun k hk => by rw [elemEnv_draws hk.le]) hres⟩
  rw [hrun, if_pos rfl, orFlags_congr fun k hk => by rw [elemEnv_draws hk.le]]

/-- No position draws; each has a value and flags of its own. -/
theorem elemForm_flags {v : Nat → Nat} {fl : Nat → Flags} (hf : ∀ k r, f s.cur k r = (v k, r.raise (fl k))) :
    ∃ t : Tile, runAct (elemForm cls own w vd msk mz uses f) s = .next (s.busyDone (.tile vd) cls own (fun c => { c.setTile vd t with
        fcsr := s.fcsrAfter 0 (s.orFlags msk fl) })) ∧ ElemResult s w msk mz vd t v := by
  have hacc : ∀ k, Accrues false (f s.cur k) := fun k => by
    rw [show f s.cur k = fun r => (v k, r.raise (fl k)) from funext (hf k)]
    exact accrues_raise (v k) (fl k)
  obtain ⟨t, hrun, hres⟩ := elemForm_spec (cls := cls) (own := own) (mz := mz) h hw hacc
  refine ⟨t, ?_, elemResult_congr (fun k _ => by rw [hf]) hres⟩
  have hfl : ∀ k, (f s.cur k (s.elemEnv false msk k)).2.flags = fl k := fun k => by
    rw [hf]
    exact flags_zero_or (fl k)
  rw [hrun, if_neg (by simp)]
  simp only [hfl]

/-- Values alone: fcsr stays. -/
theorem elemForm_values {v : Nat → Nat} (hf : ∀ k r, f s.cur k r = (v k, r)) :
    ∃ t : Tile, runAct (elemForm cls own w vd msk mz uses f) s = .next (s.busyDone (.tile vd) cls own (fun c => c.setTile vd t)) ∧
      ElemResult s w msk mz vd t v := by
  obtain ⟨t, hrun, hres⟩ := elemForm_flags (cls := cls) (own := own) (mz := mz) (v := v) (fl := fun _ => 0) h hw fun k r => (hf k r).trans (by simp [REnv.raise])
  refine ⟨t, ?_, hres⟩
  rw [hrun, orFlags_zero, fcsrAfter_zero]
  rfl

omit hw in
/-- A tile computed as a whole. -/
theorem tileForm_run (g : Context → Tile) :
    runAct (tileForm cls own w vd msk uses g) s = .next (s.busyDone (.tile vd) cls own (fun c => c.setTile vd (g s.cur))) :=
  (vectorForm_run h.1 h.2.2.2 rfl).trans (congrArg _ (busyDone_congr rfl))

end Forms

theorem runAct_readSrc {n : BitVec 5} {q : Bool} (h : s.cur.isFull n = true) (f : Word → Act Unit) :
    runAct (readSrc n q >>= f) s = runAct (f (s.cur.getS n)) s := by
  unfold runAct
  rw [act_bind_readSrc h]

/-! ## Rounded operations and special functions (R189, R191) -/

/-- A value rounded with flags of its own; a mode-dependent one. -/
theorem floatForm_spec (g : Nat → FVal → FVal → FVal → FVal × Flags) (o : VV) (h : ElemReady s (floatW o.ty) o.msk [.tile o.vd, .tile o.va, .tile o.vb]) :
    let f := fmtOfTy o.ty.toNat
    let x (k : Nat) := g s.rmode (s.cur.fval f o.va k) (s.cur.fval f o.vb k) (s.cur.fval f o.vd k)
    ∃ t : Tile, runAct (floatForm g o) s = .next (s.busyDone (.tile o.vd) 4 4 (fun c => { c.setTile o.vd t with
        fcsr := s.fcsrAfter (s.cur.actives o.msk).length (s.orFlags o.msk (fun k => (roundElem f (x k) (s.envAt o.msk k)).2.flags)) })) ∧
      ElemResult s (floatW o.ty) o.msk o.mz o.vd t (fun k => (roundElem f (x k) (s.envAt o.msk k)).1) :=
  elemForm_rounds h (floatW_pos o.ty) fun _ => accrues_roundElem _ fun m => g m _ _ _

theorem specialForm_spec (g : FVal → FVal × Flags) (o : VU) (h : ElemReady s (floatW o.ty) o.msk [.tile o.vd, .tile o.va]) :
    let f := fmtOfTy o.ty.toNat
    let x (k : Nat) := g (s.cur.fval f o.va k)
    ∃ t : Tile, runAct (specialForm g o) s = .next (s.busyDone (.tile o.vd) 6 12 (fun c => { c.setTile o.vd t with
        fcsr := s.fcsrAfter (s.cur.actives o.msk).length (s.orFlags o.msk (fun k => (roundElem f (x k) (s.envAt o.msk k)).2.flags)) })) ∧
      ElemResult s (floatW o.ty) o.msk o.mz o.vd t (fun k => (roundElem f (x k) (s.envAt o.msk k)).1) :=
  elemForm_rounds h (floatW_pos o.ty) fun _ => accrues_roundElem _ fun _ => g _

/-! ## Minimum and maximum (R119) -/

theorem fmtOfTy_width (ty : BitVec 3) : (fmtOfTy ty.toNat).width = 8 * floatW ty := by
  unfold floatW fmtOfTy
  split <;> rfl

theorem exactElem_nan (f : Fmt) (q : Bool) (fl : Flags) (r : REnv) : (exactElem f (.nan q, fl) r).1 = f.nan := rfl

/-- An encoding moves as it is, a NaN as the canonical one. -/
theorem exactElem_decode {f : Fmt} (hf : f.Proper) {b : Nat} (hb : b < 2 ^ f.width) (fl : Flags) (r : REnv) :
    (exactElem f (f.decode b, fl) r).1 = if (f.decode b).isNan then f.nan else b := by
  have hround := fun hn => congrArg Prod.fst (roundFmt_decode hf hb hn false (.inl rfl) rneEnv)
  unfold exactElem
  cases hd : f.decode b with
  | nan q => rfl
  | _ => simp only [hd] at hround; exact hround rfl

/-- The value of VMIN to VMAXP on encodings. -/
theorem exactElem_minMax {f : Fmt} (hf : f.Proper) {x y : Nat} (hx : x < 2 ^ f.width) (hy : y < 2 ^ f.width) (isMax prop : Bool) (r : REnv) :
    (exactElem f (fMinMax isMax prop (f.decode x) (f.decode y)) r).1 =
      let a := f.decode x
      let b := f.decode y
      if a.isNan = true ∧ (b.isNan = true ∨ prop = true) then f.nan
      else if a.isNan = true then y
      else if b.isNan = true then (if prop = true then f.nan else x)
      else if isMax = true then (if fBelow a b = true then y else x)
      else (if fBelow b a = true then y else x) := by
  have hxv := fun fl => exactElem_decode hf hx fl r
  have hyv := fun fl => exactElem_decode hf hy fl r
  dsimp only
  unfold fMinMax
  cases ha : (f.decode x).isNan <;> cases hb : (f.decode y).isNan <;> simp only [ha, hb] at hxv hyv ⊢
  · cases isMax
    · by_cases hlt : fBelow (f.decode y) (f.decode x) = true <;> simp [hlt, hxv, hyv]
    · by_cases hlt : fBelow (f.decode x) (f.decode y) = true <;> simp [hlt, hxv, hyv]
  · cases prop <;> simp [hxv, exactElem_nan]
  · cases prop <;> simp [hyv, exactElem_nan]
  · simp [exactElem_nan]

theorem minMaxForm_spec (isMax prop : Bool) (o : VV) (h : ElemReady s (floatW o.ty) o.msk [.tile o.vd, .tile o.va, .tile o.vb]) :
    let f := fmtOfTy o.ty.toNat
    let x (k : Nat) : Nat := elemAt (s.cur.tile o.va) (floatW o.ty) k
    let y (k : Nat) : Nat := elemAt (s.cur.tile o.vb) (floatW o.ty) k
    ∃ t : Tile, runAct (minMaxForm isMax prop o) s = .next (s.busyDone (.tile o.vd) 4 4 (fun c => { c.setTile o.vd t with
        fcsr := s.fcsrAfter 0 (s.orFlags o.msk (fun k => (f.decode (x k)).sigFlag ||| (f.decode (y k)).sigFlag)) })) ∧
      ElemResult s (floatW o.ty) o.msk o.mz o.vd t (fun k =>
        let a := f.decode (x k)
        let b := f.decode (y k)
        if a.isNan = true ∧ (b.isNan = true ∨ prop = true) then f.nan
        else if a.isNan = true then y k
        else if b.isNan = true then (if prop = true then f.nan else x k)
        else if isMax = true then (if fBelow a b = true then y k else x k)
        else (if fBelow b a = true then y k else x k)) := by
  have hlt : ∀ (t : Tile) (k : Nat), elemAt t (floatW o.ty) k < 2 ^ (fmtOfTy o.ty.toNat).width := fun t k => by
    rw [fmtOfTy_width]
    exact elemAt_lt t
  refine elemForm_flags h (floatW_pos o.ty) fun k r => Prod.ext (exactElem_minMax (fmtOfTy_proper _) (hlt _ k) (hlt _ k) isMax prop r) ?_
  show r.raise (fMinMax isMax prop _ _).2 = r.raise _
  unfold fMinMax
  dsimp only
  split <;> rfl

/-! ## Signs (R190) -/

theorem xor_two_pow_of_lt {x n : Nat} (h : x < 2 ^ n) : x ^^^ 2 ^ n = x + 2 ^ n := by
  have hor := Nat.two_pow_add_eq_or_of_lt h 1
  rw [Nat.mul_one] at hor
  rw [Nat.add_comm, hor]
  refine Nat.eq_of_testBit_eq fun i => ?_
  rw [Nat.testBit_xor, Nat.testBit_or, Nat.testBit_two_pow]
  by_cases hi : n = i
  · subst hi
    simp [Nat.testBit_lt_two_pow h]
  · simp [hi]

/-- A flipped sign bit. -/
theorem xor_sign {x n : Nat} (h : x < 2 ^ (n + 1)) : x ^^^ 2 ^ n = if x < 2 ^ n then x + 2 ^ n else x - 2 ^ n := by
  split
  · exact xor_two_pow_of_lt ‹_›
  · rename_i hx
    rw [Nat.pow_succ] at h
    have hlow := xor_two_pow_of_lt (x := x - 2 ^ n) (n := n) (by omega)
    rw [Nat.sub_add_cancel (not_lt.1 hx)] at hlow
    rw [← hlow, Nat.xor_assoc, Nat.xor_self, Nat.xor_zero]
    omega

theorem signForm_spec {g : Nat → Nat → Nat} {v : Nat → Nat} (o : VU) (h : ElemReady s (floatW o.ty) o.msk [.tile o.vd, .tile o.va])
    (hg : ∀ x, x < 2 ^ (8 * floatW o.ty) → g (2 ^ (8 * floatW o.ty - 1)) x = v x) :
    ∃ t : Tile, runAct (signForm g o) s = .next (s.busyDone (.tile o.vd) 4 4 (fun c => c.setTile o.vd t)) ∧
      ElemResult s (floatW o.ty) o.msk o.mz o.vd t (fun k => v (elemAt (s.cur.tile o.va) (floatW o.ty) k)) :=
  elemForm_values h (floatW_pos o.ty) fun _ _ => Prod.ext (hg _ (elemAt_lt _)) rfl

/-! ## Integers (R192) -/

theorem sgnOf_eq_signedOf {n v : Nat} (hv : v < 2 ^ n) : sgnOf n v = signedOf n v := by
  have hcast : (v : Int) % 2 ^ n = v := Int.emod_eq_of_lt (by positivity) (by exact_mod_cast hv)
  unfold sgnOf signedOf
  rw [Nat.mod_eq_of_lt hv, hcast]
  by_cases h : 2 ^ (n - 1) ≤ v
  · rw [if_pos h, if_neg (not_lt.2 h)]
  · rw [if_neg h, if_pos (not_le.1 h)]

theorem intForm_spec {g : Nat → Nat → Nat → Nat} {v : Nat → Nat → Nat} (o : VV) (h : ElemReady s (intW o.ty) o.msk [.tile o.vd, .tile o.va, .tile o.vb])
    (hg : ∀ x y, x < 2 ^ (8 * intW o.ty) → g (8 * intW o.ty) x y = v x y) :
    ∃ t : Tile, runAct (intForm g o) s = .next (s.busyDone (.tile o.vd) 5 2 (fun c => c.setTile o.vd t)) ∧
      ElemResult s (intW o.ty) o.msk o.mz o.vd t (fun k => v (elemAt (s.cur.tile o.va) (intW o.ty) k) (elemAt (s.cur.tile o.vb) (intW o.ty) k)) := by
  obtain ⟨t, hrun, hres⟩ := elemForm_values (cls := 5) (own := 2) (mz := o.mz) h (intW_pos o.ty)
    (f := fun c k r => (g (8 * intW o.ty) (elemAt (c.tile o.va) (intW o.ty) k) (elemAt (c.tile o.vb) (intW o.ty) k) % 2 ^ (8 * intW o.ty), r)) fun _ _ => rfl
  exact ⟨t, hrun, elemResult_congr (fun k _ => by rw [Nat.mod_mod, hg _ _ (elemAt_lt _)]) hres⟩

/-! ## Selection and rearrangement (R194, R201) -/

theorem vsel_spec (o : VVnz) (h : ElemReady s (floatW o.ty) o.msk [.tile o.vd, .tile o.va, .tile o.vb]) :
    ∃ t : Tile, exec (.vsel o) s = .next (s.busyDone (.tile o.vd) 5 2 (fun c => c.setTile o.vd t)) ∧
      ElemResult s (floatW o.ty) 0 false o.vd t (fun k =>
        elemAt (s.cur.tile (if s.cur.active o.msk k = true then o.va else o.vb)) (floatW o.ty) k) := by
  refine ⟨_, tileForm_run h _, fun k hk => ?_, fun b hb => writeElems_range_above _ _ _ (floatW_pos o.ty) h.2.2.1 hb _ _⟩
  have hall : s.cur.active 0 k = true := rfl
  rw [Shape.poss, writeElems_range _ _ _ (floatW_pos o.ty) h.2.2.1 hk, if_pos rfl, if_pos hall]

/-- The positions of the largest square (R201). -/
def squarePoss (h : Shape) : List Nat := h.poss.filter (fun k => k / h.cols < min h.rows h.cols && k % h.cols < min h.rows h.cols)

theorem mem_squarePoss {h : Shape} {k : Nat} :
    k ∈ squarePoss h ↔ k < h.size ∧ k / h.cols < min h.rows h.cols ∧ k % h.cols < min h.rows h.cols := by
  simp [squarePoss, Shape.poss]

theorem vtrn_spec (o : VU) (h : ElemReady s (floatW o.ty) o.msk [.tile o.vd, .tile o.va]) :
    let h := s.cur.shape
    let sq (k : Nat) : Prop := k / h.cols < min h.rows h.cols ∧ k % h.cols < min h.rows h.cols
    ∃ t : Tile, exec (.vtrn o) s = .next (s.busyDone (.tile o.vd) 5 2 (fun c => c.setTile o.vd t)) ∧
      (∀ k, k < h.size → sq k → elemAt t (floatW o.ty) k =
        if s.cur.active o.msk k = true then elemAt (s.cur.tile o.va) (floatW o.ty) (k % h.cols * h.cols + k / h.cols)
        else if o.mz then 0 else elemAt (s.cur.tile o.vd) (floatW o.ty) k) ∧
      (∀ k, k < h.size → ¬ sq k → elemAt t (floatW o.ty) k = elemAt (s.cur.tile o.vd) (floatW o.ty) k) := by
  have hw := floatW_pos o.ty
  have hin : ∀ k ∈ squarePoss s.cur.shape, 8 * floatW o.ty * k + 8 * floatW o.ty ≤ 16384 := fun k hk => elem_inside (mem_squarePoss.1 hk).1 h.2.2.1
  refine ⟨(writeElems (floatW o.ty) (s.cur.active o.msk) o.mz
    (fun k r => (elemAt (s.cur.tile o.va) (floatW o.ty) (k % s.cur.shape.cols * s.cur.shape.cols + k / s.cur.shape.cols), r))
    (squarePoss s.cur.shape) (s.cur.tile o.vd) rneEnv).1, tileForm_run h _, fun k hk hsq => ?_, fun k hk hsq => ?_⟩
  · obtain ⟨pre, post, hsplit⟩ := List.append_of_mem (mem_squarePoss.2 ⟨hk, hsq⟩)
    have hnd : (squarePoss s.cur.shape).Nodup := List.nodup_range.filter _
    rw [hsplit, List.nodup_middle, List.nodup_cons, List.mem_append, not_or] at hnd
    rw [hsplit] at hin ⊢
    rw [writeElems_elem _ _ _ hw hin hnd.1.1 hnd.1.2, elemAt_mod]
  · exact (writeElems_other _ _ _ hw hin _ _).1 k fun hk => hsq (mem_squarePoss.1 hk).2

/-- Settles O23: the rounded forms share one writing loop with one draw a position, the others write values that no rounding touches. -/
theorem vectorElements : Obligations.VectorElements := by
  refine ⟨⟨fun o s h => ?_, fun o s h => ?_⟩, fun o s h => ?_, fun o s h => ?_, fun o s h => ?_,
    fun o s h => vsel_spec o h, fun o s h => ?_, fun o s hb h => ?_, fun o s hva hb h => ?_, fun o s h => vtrn_spec o h⟩
  · intro f a b d m x hx
    simp only [List.mem_cons, List.not_mem_nil, or_false] at hx
    rcases hx with rfl | rfl | rfl | rfl | rfl | rfl
    · exact floatForm_spec (fun m a b _ => fAdd m a b) o h
    · exact floatForm_spec (fun m a b _ => fAdd m a b.neg) o h
    · exact floatForm_spec (fun _ a b _ => fMul a b) o h
    · exact floatForm_spec (fun m a b d => fFma m a b d) o h
    · exact floatForm_spec (fun m a b d => fFma m a b d.neg) o h
    · exact floatForm_spec (fun m a b d => fFma m a.neg b d) o h
  · intro f a x hx
    simp only [List.mem_cons, List.not_mem_nil, or_false] at hx
    rcases hx with rfl | rfl | rfl | rfl | rfl | rfl
    · exact specialForm_spec fExp2 o h
    · exact specialForm_spec fLog2 o h
    · exact specialForm_spec fRcp o h
    · exact specialForm_spec fRsqrt o h
    · exact specialForm_spec fTanh o h
    · exact specialForm_spec fSigm o h
  · intro f x y q hq
    simp only [List.mem_cons, List.not_mem_nil, or_false] at hq
    rcases hq with rfl | rfl | rfl | rfl
    · exact minMaxForm_spec false false o h
    · exact minMaxForm_spec true false o h
    · exact minMaxForm_spec false true o h
    · exact minMaxForm_spec true true o h
  · intro w sign q hq
    have hw := floatW_pos o.ty
    simp only [List.mem_cons, List.not_mem_nil, or_false] at hq
    rcases hq with rfl | rfl
    · exact signForm_spec (g := fun sign x => x % sign) o h fun x _ => rfl
    · exact signForm_spec (g := fun sign x => x ^^^ sign) o h fun x hx => xor_sign (by rwa [show 8 * floatW o.ty - 1 + 1 = 8 * floatW o.ty by omega])
  · intro w n q hq
    simp only [List.mem_cons, List.not_mem_nil, or_false] at hq
    rcases hq with rfl | rfl | rfl | rfl | rfl | rfl | rfl | rfl | rfl
    · exact intForm_spec (g := fun _ a b => a + b) o h fun x y _ => rfl
    · exact intForm_spec (g := fun n a b => a + (2 ^ n - b)) o h fun x y _ => rfl
    · exact intForm_spec (g := fun _ a b => a * b) o h fun x y _ => rfl
    · exact intForm_spec (g := fun _ a b => a &&& b) o h fun x y _ => rfl
    · exact intForm_spec (g := fun _ a b => a ||| b) o h fun x y _ => rfl
    · exact intForm_spec (g := fun _ a b => a ^^^ b) o h fun x y _ => rfl
    · exact intForm_spec (g := fun n a b => a <<< (b % n)) o h fun x y _ => Nat.shiftLeft_eq x _
    · exact intForm_spec (g := fun n a b => a >>> (b % n)) o h fun x y _ => Nat.shiftRight_eq_div_pow x _
    · exact intForm_spec (g := fun n a b => ofInt n (sgnOf n a / 2 ^ (b % n))) o h fun x y hx => by rw [sgnOf_eq_signedOf hx]; rfl
  · obtain ⟨t, hrun, hres⟩ := elemForm_values (cls := 5) (own := 2) (mz := o.mz) h (intW_pos o.ty)
      (f := fun _ k r => (k % 2 ^ (8 * intW o.ty), r)) fun _ _ => rfl
    exact ⟨t, hrun, elemResult_congr (fun k _ => Nat.mod_mod _ _) hres⟩
  · obtain ⟨t, hrun, hres⟩ := elemForm_values (cls := 5) (own := 2) (mz := o.mz) h (floatW_pos o.ty)
      (f := fun c k r => (elemAt (c.tile o.va) (floatW o.ty)
        (k / c.shape.cols * c.shape.cols + ((((k % c.shape.cols : Nat) : Int) - (s.cur.getS o.sb).toInt) % c.shape.cols).toNat), r)) fun _ _ => rfl
    exact ⟨t, (runAct_readSrc hb _).trans hrun, elemResult_congr (fun k _ => by rw [Int.sub_emod_emod]) hres⟩
  · obtain ⟨t, hrun, hres⟩ := elemForm_values (cls := 5) (own := 2) (mz := o.mz) h (floatW_pos o.ty)
      (f := fun _ _ r => ((s.cur.getS o.sb).toNat % 2 ^ (8 * floatW o.ty), r)) fun _ _ => rfl
    refine ⟨t, ?_, elemResult_congr (fun k _ => Nat.mod_mod _ _) hres⟩
    refine Eq.trans (congrArg (fun a => runAct a s) (if_pos hva)) ?_
    exact (runAct_readSrc hb _).trans hrun

end Sys2Proof.Machine
end

section
/-! PROOFS. Conversions (O25, part 1): VCVT (R110, R111, R197), and quantisation of a block (R113, R114). -/
namespace Sys2Proof.Machine

variable {s : State}

/-! ## Conversions (R197) -/

section Convert
variable {o : VV} {dw : Nat} {g : Nat → REnv → Nat × REnv} (hw : s.cur.shape.w = max (srcW o.vb) dw) (hn : s.cur.shape.size * max (srcW o.vb) dw ≤ 2048)
  (hfree : TilesFree s (.tile o.vd :: .tile o.va :: maskUse o.msk)) (hdw : 1 ≤ dw)
include hw hn hfree hdw

theorem cvtForm_spec {draws : Bool} (hg : ∀ v, Accrues draws (g v)) :
    let y (k : Nat) := g (elemAt (s.cur.tile o.va) (srcW o.vb) k) (s.elemEnv draws o.msk k)
    ∃ t : Tile, runAct (cvtForm dw g o) s = .next (s.busyDone (.tile o.vd) 8 6 (fun c => { c.setTile o.vd t with
        fcsr := s.fcsrAfter (if draws then (s.cur.actives o.msk).length else 0) (s.orFlags o.msk (fun k => (y k).2.flags)) })) ∧
      ElemResult s dw o.msk o.mz o.vd t (fun k => (y k).1) := by
  have hacc : ∀ k, Accrues draws (fun r => g (elemAt (s.cur.tile o.va) (srcW o.vb) k) r) := fun k => hg _
  have hsize : s.cur.shape.size * dw ≤ 2048 := (Nat.mul_le_mul_left _ (le_max_right _ _)).trans hn
  refine ⟨_, ?_, writeElems_result (f := fun k r => g (elemAt (s.cur.tile o.va) (srcW o.vb) k) r) hacc hdw hsize⟩
  refine (vectorForm_run hw hfree rfl).trans (congrArg _ (busyDone_congr ?_))
  dsimp only
  rw [writeElems_fcsr hacc]

/-- Every active position is rounded with its own draw. -/
theorem cvtForm_rounds (hg : ∀ v, Accrues true (g v)) :
    let y (k : Nat) := g (elemAt (s.cur.tile o.va) (srcW o.vb) k) (s.envAt o.msk k)
    ∃ t : Tile, runAct (cvtForm dw g o) s = .next (s.busyDone (.tile o.vd) 8 6 (fun c => { c.setTile o.vd t with
        fcsr := s.fcsrAfter (s.cur.actives o.msk).length (s.orFlags o.msk (fun k => (y k).2.flags)) })) ∧
      ElemResult s dw o.msk o.mz o.vd t (fun k => (y k).1) := by
  obtain ⟨t, hrun, hres⟩ := cvtForm_spec hw hn hfree hdw hg
  have henv : ∀ k, k < s.cur.shape.size → s.elemEnv true o.msk k = s.envAt o.msk k := fun k hk => elemEnv_draws hk.le
  refine ⟨t, ?_, elemResult_congr (fun k hk => by dsimp only; rw [henv k hk]) hres⟩
  rw [hrun, if_pos rfl]
  refine congrArg _ (busyDone_congr ?_)
  dsimp only
  rw [orFlags_congr fun k hk => by rw [henv k hk]]

/-- Nothing is rounded: each value has flags of its own. -/
theorem cvtForm_flags {v : Nat → Nat} {fl : Nat → Flags} (hg : ∀ x r, g x r = (v x, r.raise (fl x))) :
    let x (k : Nat) := elemAt (s.cur.tile o.va) (srcW o.vb) k
    ∃ t : Tile, runAct (cvtForm dw g o) s = .next (s.busyDone (.tile o.vd) 8 6 (fun c => { c.setTile o.vd t with
        fcsr := s.fcsrAfter 0 (s.orFlags o.msk (fun k => fl (x k))) })) ∧
      ElemResult s dw o.msk o.mz o.vd t (fun k => v (x k)) := by
  have hacc : ∀ x, Accrues false (g x) := fun x => by
    rw [show g x = fun r => (v x, r.raise (fl x)) from funext (hg x)]
    exact accrues_raise _ _
  have hfl : ∀ x k, (g x (s.elemEnv false o.msk k)).2.flags = fl x := fun x k => by
    rw [hg]
    exact flags_zero_or (fl x)
  obtain ⟨t, hrun, hres⟩ := cvtForm_spec hw hn hfree hdw hacc
  refine ⟨t, ?_, elemResult_congr (fun k _ => by dsimp only; rw [hg]) hres⟩
  rw [hrun, if_neg (by simp)]
  simp only [hfl]

end Convert

section Float
variable {o : VV} (sat : Bool) (hw : s.cur.shape.w = max (srcW o.vb) (floatW o.ty)) (hn : s.cur.shape.size * max (srcW o.vb) (floatW o.ty) ≤ 2048)
  (hfree : TilesFree s (.tile o.vd :: .tile o.va :: maskUse o.msk))
include hw hn hfree

theorem cvtFloat_rounds (hty : o.vb.toNat ≠ o.ty.toNat) :
    let q (k : Nat) := roundFmt (fmtOfTy o.ty.toNat) sat (srcVal o.vb (elemAt (s.cur.tile o.va) (srcW o.vb) k)) (s.envAt o.msk k)
    ∃ t : Tile, runAct (cvtFloat sat o) s = .next (s.busyDone (.tile o.vd) 8 6 (fun c => { c.setTile o.vd t with
        fcsr := s.fcsrAfter (s.cur.actives o.msk).length (s.orFlags o.msk (fun k => (q k).2.flags)) })) ∧
      ElemResult s (floatW o.ty) o.msk o.mz o.vd t (fun k => (q k).1) := by
  unfold cvtFloat
  simp only [if_neg hty]
  exact cvtForm_rounds hw hn hfree (floatW_pos o.ty) fun v => accrues_roundFmt _ sat (srcVal o.vb v)

theorem cvtFloat_copies (hty : o.vb.toNat = o.ty.toNat) :
    let f := fmtOfTy o.ty.toNat
    let x (k : Nat) := elemAt (s.cur.tile o.va) (srcW o.vb) k
    ∃ t : Tile, runAct (cvtFloat sat o) s = .next (s.busyDone (.tile o.vd) 8 6 (fun c => { c.setTile o.vd t with
        fcsr := s.fcsrAfter 0 (s.orFlags o.msk (fun k => (f.decode (x k)).sigFlag)) })) ∧
      ElemResult s (floatW o.ty) o.msk o.mz o.vd t (fun k => if f.decode (x k) = .nan true then f.nan else x k) := by
  unfold cvtFloat
  simp only [if_pos hty]
  refine cvtForm_flags (v := fun x => if (fmtOfTy o.ty.toNat).decode x = .nan true then (fmtOfTy o.ty.toNat).nan else x)
    (fl := fun x => ((fmtOfTy o.ty.toNat).decode x).sigFlag) hw hn hfree (floatW_pos o.ty) fun x r => ?_
  cases (fmtOfTy o.ty.toNat).decode x with
  | nan q => cases q <;> simp [FVal.sigFlag, REnv.raise]
  | inf n => simp [FVal.sigFlag, REnv.raise]
  | zero n => simp [FVal.sigFlag, REnv.raise]
  | num m e => simp [FVal.sigFlag, REnv.raise]

end Float

/-- To an integer: cut to the bounds, and kept modulo the width. -/
theorem cvtInt_spec {o : VV} (hw : s.cur.shape.w = max (srcW o.vb) (intW o.ty)) (hn : s.cur.shape.size * max (srcW o.vb) (intW o.ty) ≤ 2048)
    (hfree : TilesFree s (.tile o.vd :: .tile o.va :: maskUse o.msk)) {lo hi : Int}
    (hlo : lo = if o.ty.toNat < 4 then -(2 ^ (8 * intW o.ty - 1)) else 0)
    (hhi : hi = if o.ty.toNat < 4 then 2 ^ (8 * intW o.ty - 1) - 1 else 2 ^ (8 * intW o.ty) - 1) :
    let q (k : Nat) := toIntSat (srcVal o.vb (elemAt (s.cur.tile o.va) (srcW o.vb) k)) lo hi (s.envAt o.msk k)
    ∃ t : Tile, runAct (cvtInt o) s = .next (s.busyDone (.tile o.vd) 8 6 (fun c => { c.setTile o.vd t with
        fcsr := s.fcsrAfter (s.cur.actives o.msk).length (s.orFlags o.msk (fun k => (q k).2.flags)) })) ∧
      ElemResult s (intW o.ty) o.msk o.mz o.vd t (fun k => ((q k).1 % 2 ^ (8 * intW o.ty)).toNat) := by
  have hform : cvtInt o = cvtForm (intW o.ty) (fun v r => (ofInt (8 * intW o.ty) (toIntSat (srcVal o.vb v) lo hi r).1, (toIntSat (srcVal o.vb v) lo hi r).2)) o := by
    rw [hlo, hhi]
    rfl
  rw [hform]
  exact cvtForm_rounds hw hn hfree (intW_pos o.ty) fun v => (accrues_toIntSat (srcVal o.vb v) lo hi).map (ofInt (8 * intW o.ty))

/-! ## Quantisation of a block (R114) -/

/-- The scale that a shared exponent stands for. -/
def bfpScale (m e : Nat) : Int := (e : Int) - 127 - (m - 2)

@[simp] theorem bfpMant_mode (m : Nat) (q : Int) (x : FVal) (r : REnv) : (bfpMant m q x r).2.mode = r.mode := by
  unfold bfpMant
  cases x <;> simp [REnv.raise]

/-- Each mantissa is its value's, in a rounding state of the same mode. -/
theorem bfpMants_each (m : Nat) (q : Int) (xs : List FVal) (r : REnv) :
    List.Forall₂ (fun x z => ∃ r' : REnv, r'.mode = r.mode ∧ z = (bfpMant m q x r').1) xs (bfpMants m q xs r).1 ∧ (bfpMants m q xs r).2.mode = r.mode := by
  induction xs generalizing r with
  | nil => exact ⟨.nil, rfl⟩
  | cons x xs ih =>
    obtain ⟨ihv, ihm⟩ := ih (bfpMant m q x r).2
    rw [bfpMant_mode] at ihv ihm
    exact ⟨.cons ⟨r, rfl, rfl⟩ ihv, ihm⟩

theorem choose_draw {mode : Nat} (h : mode ≤ 4) (lo : Int) (r k : Nat) (neg : Bool) (d d' : BitVec 32) :
    choose lo r k neg mode d = choose lo r k neg mode d' := by
  interval_cases mode <;> simp only [choose]

theorem roundAt_draw {mode : Nat} (h : mode ≤ 4) (m e q : Int) (d d' : BitVec 32) : roundAt m e q mode d = roundAt m e q mode d' := by
  rw [roundAt_eq, roundAt_eq, choose_draw h _ _ _ _ d d']

/-- A mode that does not draw delivers a mantissa whatever the stochastic state and the flags. -/
theorem bfpMant_steady {r r' : REnv} (h : r.mode ≤ 4) (hr : r'.mode = r.mode) (m : Nat) (q : Int) (x : FVal) :
    (bfpMant m q x r').1 = (bfpMant m q x r).1 := by
  unfold bfpMant
  cases x with
  | num mm e => simp only [draw_mode, hr, roundAt_draw h mm e q r'.draw.seed r.draw.seed]
  | nan n => rfl
  | inf n => rfl
  | zero n => rfl

theorem bfpMants_steady {r r' : REnv} (h : r.mode ≤ 4) (hr : r'.mode = r.mode) (m : Nat) (q : Int) (xs : List FVal) :
    (bfpMants m q xs r').1 = (bfpMants m q xs r).1 := by
  induction xs generalizing r r' with
  | nil => rfl
  | cons x xs ih =>
    show (bfpMant m q x r').1 :: (bfpMants m q xs (bfpMant m q x r').2).1 = (bfpMant m q x r).1 :: (bfpMants m q xs (bfpMant m q x r).2).1
    rw [bfpMant_steady h hr, ih (r := (bfpMant m q x r).2) (by rwa [bfpMant_mode]) (by rw [bfpMant_mode, bfpMant_mode, hr])]

theorem foldl_draw_mode (xs : List FVal) (r : REnv) : (xs.foldl (fun r _ => r.draw) r).mode = r.mode := foldl_keeps _ (fun t _ => draw_mode t) _ _

/-- The shared exponent that QuantiseBlock chooses; it depends on the values alone. -/
def bfpExpOf (m : Nat) (xs : List FVal) : Nat :=
  if xs.any FVal.isNan then 255
  else if xs.any (fun x => match x with | .inf _ => true | .nan _ => false | .zero _ => false | .num _ _ => false) then 253 else bfpExp m xs 0 253

theorem quantise_nan {m : Nat} {xs : List FVal} (h : xs.any FVal.isNan = true) (r : REnv) : quantise m xs r =
    (255, xs.map (fun _ => 0), (xs.foldl (fun r _ => r.draw) r).raise (xs.foldl (fun a x => a ||| x.sigFlag) 0)) := by
  rw [quantise, if_pos h]

theorem quantise_numbers {m : Nat} {xs : List FVal} (h : xs.any FVal.isNan = false) (r : REnv) : quantise m xs r =
    (bfpExpOf m xs, bfpMants m (bfpScale m (bfpExpOf m xs)) xs r) := by
  have hn : ¬xs.any FVal.isNan = true := by simp [h]
  rw [quantise, bfpExpOf, if_neg hn, if_neg hn]
  rfl

theorem quantise_length (m : Nat) (xs : List FVal) (r : REnv) : (quantise m xs r).2.1.length = xs.length := by
  cases h : xs.any FVal.isNan with
  | true => simp [quantise_nan h]
  | false =>
    rw [quantise_numbers h]
    exact (bfpMants_each ..).1.length_eq.symm

theorem quantise_mode (m : Nat) (xs : List FVal) (r : REnv) : (quantise m xs r).2.2.mode = r.mode := by
  cases h : xs.any FVal.isNan with
  | true =>
    rw [quantise_nan h]
    exact foldl_draw_mode xs r
  | false =>
    rw [quantise_numbers h]
    exact (bfpMants_each ..).2

/-- A mode that does not draw: E and the mantissas, whatever the stochastic state and the flags. -/
theorem quantise_steady {r r' : REnv} (h : r.mode ≤ 4) (hr : r'.mode = r.mode) (m : Nat) (xs : List FVal) :
    (quantise m xs r').1 = (quantise m xs r).1 ∧ (quantise m xs r').2.1 = (quantise m xs r).2.1 := by
  cases hn : xs.any FVal.isNan with
  | true => simp [quantise_nan hn]
  | false =>
    rw [quantise_numbers hn, quantise_numbers hn]
    exact ⟨rfl, bfpMants_steady h hr _ _ _⟩

/-! ## The shared exponent and the mantissas of finite values (R114) -/

/-- y lies on the grid of 2^q within a signed mantissa of `lim`. -/
def Fits (lim : Nat) (q : Int) (y : ℚ) : Prop := -(lim : ℚ) ≤ y / 2 ^ q ∧ y / 2 ^ q ≤ lim - 1

/-- The model's test on the whole part and the fraction is the one on the quotient. -/
theorem Split.fits_iff {x : ℚ} {lo : Int} {r k lim : Nat} (h : Split x lo r k) :
    (-(lim : Int) ≤ lo ∧ (lo < (lim : Int) - 1 ∨ (lo = (lim : Int) - 1 ∧ r = 0))) ↔ -(lim : ℚ) ≤ x ∧ x ≤ lim - 1 := by
  have hlow : -(lim : Int) ≤ lo ↔ -(lim : ℚ) ≤ x := by
    rw [← h.floor, Int.le_floor]
    push_cast
    rfl
  rw [hlow, and_congr_right_iff]
  intro _
  have h0 : (0 : ℚ) ≤ (r : ℚ) / 2 ^ k := by positivity
  have h1 := h.fraction_lt
  have hx := h.eq
  constructor
  · rintro (hlt | ⟨heq, hr⟩)
    · have : (lo : ℚ) + 1 ≤ lim - 1 := by exact_mod_cast hlt
      linarith
    · rw [h.exact_iff.1 hr, heq]
      push_cast
      rfl
  · intro hle
    rcases lt_or_ge lo ((lim : Int) - 1) with hlt | hge
    · exact .inl hlt
    · have hge' : (lim : ℚ) - 1 ≤ lo := by exact_mod_cast hge
      have hxe : x = lo := by linarith
      have hle' : lo ≤ (lim : Int) - 1 := by
        rw [hxe] at hle
        exact_mod_cast hle
      exact .inr ⟨le_antisymm hle' hge, h.exact_iff.2 hxe⟩

theorem bfpFits_iff {lim : Nat} (hlim : 1 ≤ lim) {q : Int} {x : FVal} {y : ℚ} (hx : x.rat = some y) : bfpFits lim q x = true ↔ Fits lim q y := by
  obtain ⟨n, rfl, rfl⟩ | ⟨m, e, rfl, -, rfl⟩ := rat_eq_some hx
  · have : (1 : ℚ) ≤ lim := by exact_mod_cast hlim
    simp only [bfpFits, Fits, zero_div, true_iff]
    constructor <;> linarith
  · rw [Fits, ← (scaleTo_split m e q).fits_iff]
    simp [bfpFits]

/-- The least exponent at which all fit, from e up; or the last one. -/
theorem bfpExp_least (m : Nat) (xs : List FVal) (e n : Nat) (hen : e + n = 253) :
    let fit (i : Nat) : Prop := ∀ x ∈ xs, bfpFits (2 ^ (m - 1)) (bfpScale m i) x = true
    e ≤ bfpExp m xs e n ∧ bfpExp m xs e n ≤ 253 ∧ (bfpExp m xs e n < 253 → fit (bfpExp m xs e n)) ∧ ∀ i, e ≤ i → i < bfpExp m xs e n → ¬fit i := by
  intro fit
  induction n generalizing e with
  | zero =>
    refine ⟨by simp [bfpExp]; omega, by simp [bfpExp], by simp [bfpExp], fun i h1 h2 => ?_⟩
    simp only [bfpExp] at h2
    omega
  | succ n ih =>
    have hall : (xs.all (bfpFits (2 ^ (m - 1)) ((e : Int) - 127 - (m - 2)))) = true ↔ fit e := List.all_eq_true
    rw [bfpExp]
    by_cases h : fit e
    · rw [if_pos (hall.2 h)]
      exact ⟨le_rfl, by omega, fun _ => h, fun i h1 h2 => by omega⟩
    · rw [if_neg (fun hh => h (hall.1 hh))]
      obtain ⟨hge, hle, hfit, hnot⟩ := ih (e + 1) (by omega)
      refine ⟨by omega, hle, hfit, fun i h1 h2 => ?_⟩
      rcases Nat.eq_or_lt_of_le h1 with rfl | hlt
      · exact h
      · exact hnot i hlt h2

/-- A mantissa is clipped to its width. -/
theorem bfpMant_range (m : Nat) (q : Int) (x : FVal) (r : REnv) : -(2 : Int) ^ (m - 1) ≤ (bfpMant m q x r).1 ∧ (bfpMant m q x r).1 ≤ 2 ^ (m - 1) - 1 := by
  have hpos : (0 : Int) < 2 ^ (m - 1) := by positivity
  unfold bfpMant
  cases x with
  | nan n => dsimp only; omega
  | inf n => dsimp only; split <;> omega
  | zero n => dsimp only; omega
  | num mm e =>
    dsimp only
    split
    · dsimp only; omega
    · split <;> dsimp only <;> omega

/-- To nearest, a mantissa of a value that fits is within half a step of it. -/
theorem bfpMant_nearest {m : Nat} {q : Int} {x : FVal} {y : ℚ} (hx : x.rat = some y) (hfit : Fits (2 ^ (m - 1)) q y) {r : REnv} (hr : r.mode = 0) :
    |((bfpMant m q x r).1 : ℚ) - y / 2 ^ q| ≤ 1 / 2 := by
  obtain ⟨n, rfl, rfl⟩ | ⟨mm, e, rfl, -, rfl⟩ := rat_eq_some hx
  · simp [bfpMant]
  · obtain ⟨hlow, hhigh⟩ := hfit
    have hnear := (roundAt_nearestEven mm e q r.draw.seed).1
    rw [abs_le, countOf] at hnear
    set t := (roundAt mm e q 0 r.draw.seed).1
    push_cast at hlow hhigh
    have htop : t ≤ 2 ^ (m - 1) - 1 := by
      by_contra hlt
      have : (2 : ℚ) ^ (m - 1) ≤ t := by exact_mod_cast (by omega : (2 : Int) ^ (m - 1) ≤ t)
      linarith
    have hbot : -(2 : Int) ^ (m - 1) ≤ t := by
      by_contra hlt
      have : (t : ℚ) + 1 ≤ -2 ^ (m - 1) := by exact_mod_cast (by omega : t + 1 ≤ -(2 : Int) ^ (m - 1))
      linarith
    have hval : (bfpMant m q (.num mm e) r).1 = t := by
      unfold bfpMant
      simp only [draw_mode, hr]
      rw [if_neg (not_lt.2 htop), if_neg (not_lt.2 hbot)]
    rw [hval, abs_le]
    exact hnear

end Sys2Proof.Machine
end

section
/-! PROOFS. O25, part 2: VQNT over the blocks of a shape (R198), and the obligation. -/
namespace Sys2Proof.Machine

/-! ## Several elements written -/

/-- The elements of a list of positions and values written in order. -/
def putElems (w : Nat) (l : List (Nat × Nat)) (t : Tile) : Tile := l.foldl (fun t p => putElem t w p.1 p.2) t

section Puts
variable {w : Nat} (hw : 1 ≤ w) {l : List (Nat × Nat)} (hl : ∀ p ∈ l, 8 * w * p.1 + 8 * w ≤ 16384)
include hw hl

theorem elemAt_putElems_other (t : Tile) {j : Nat} (hj : ∀ p ∈ l, p.1 ≠ j) : elemAt (putElems w l t) w j = elemAt t w j :=
  foldl_keeps_mem (fun t => elemAt t w j) l (fun t p hp => elemAt_putElem_ne t p.2 hw (hl p hp) (hj p hp).symm) t

theorem getLsbD_putElems_above (t : Tile) {b : Nat} (hb : ∀ p ∈ l, 8 * w * p.1 + 8 * w ≤ b) : (putElems w l t).getLsbD b = t.getLsbD b :=
  foldl_keeps_mem (fun t : Tile => t.getLsbD b) l (fun t p hp => getLsbD_putElem_above t p.2 hw (hl p hp) (hb p hp)) t

theorem elemAt_putElems_mem (hnd : (l.map Prod.fst).Nodup) (t : Tile) {k v : Nat} (hk : (k, v) ∈ l) : elemAt (putElems w l t) w k = v % 2 ^ (8 * w) := by
  induction l generalizing t with
  | nil => simp at hk
  | cons p l ih =>
    have hrest : ∀ p ∈ l, 8 * w * p.1 + 8 * w ≤ 16384 := fun q hq => hl q (by simp [hq])
    rw [List.map_cons, List.nodup_cons] at hnd
    obtain ⟨hhead, hnd⟩ := hnd
    show elemAt (putElems w l (putElem t w p.1 p.2)) w k = _
    rcases List.mem_cons.1 hk with rfl | hk
    · rw [elemAt_putElems_other hw hrest _ fun q hq he => hhead (List.mem_map.2 ⟨q, hq, he⟩)]
      exact elemAt_putElem_same t v hw (hl _ (by simp))
    · exact ih hrest hnd _ hk

end Puts

/-! ## One block -/

/-- The place of an element in a list in order is the number of elements below it. -/
theorem mem_zip_rank {l : List Nat} {zs : List Int} (hs : l.Pairwise (· < ·)) (hlen : zs.length = l.length) {k : Nat} (hk : k ∈ l) :
    (k, zs.getD (l.filter (fun j => decide (j < k))).length 0) ∈ l.zip zs := by
  induction l generalizing zs with
  | nil => simp at hk
  | cons a l ih =>
    obtain ⟨z, zs, rfl⟩ := List.exists_cons_of_length_eq_add_one hlen
    obtain ⟨hlow, hs⟩ := List.pairwise_cons.1 hs
    rcases List.mem_cons.1 hk with rfl | hk
    · have hnone : l.filter (fun j => decide (j < k)) = [] := List.filter_eq_nil_iff.2 fun j hj => by
        have := hlow j hj
        simp
        omega
      simp [hnone]
    · rw [List.filter_cons_of_pos (by simpa using hlow k hk), List.length_cons, List.getD_cons_succ]
      exact List.mem_cons_of_mem _ (ih hs (by simpa using hlen) hk)

section Block
variable (f : Fmt) (m : Nat) (c : Context) (o : VV)

/-- The encoding of a mantissa of a block, an exact value of the format or rounded to nearest (R113). -/
def mantEnc (e : Nat) (z : Int) : Nat := (roundFmt f false (bfpValue m e z) rneEnv).1

/-- QuantiseBlock over the active elements of a block. -/
def blockQuant (ks : List Nat) (r : REnv) : Nat × List Int × REnv := quantise m ((ks.filter (c.active o.msk)).map (c.fval f o.va)) r

/-- What a block writes: the mantissas of its active elements, and zeros at the others under MZ. -/
def blockWrites (ks : List Nat) (r : REnv) : List (Nat × Nat) :=
  ((ks.filter (c.active o.msk)).zip (blockQuant f m c o ks r).2.1).map (fun p => (p.1, mantEnc f m (blockQuant f m c o ks r).1 p.2)) ++
    if o.mz then (ks.filter (fun k => !c.active o.msk k)).map (fun k => (k, 0)) else []

theorem quantBlock_eq (acc : Tile × REnv) (ks : List Nat) :
    quantBlock f m c o acc ks = (putElems (f.width / 8) (blockWrites f m c o ks acc.2) acc.1, (blockQuant f m c o ks acc.2).2.2) := by
  unfold quantBlock blockWrites putElems
  rw [List.foldl_append, List.foldl_map]
  cases o.mz
  · rfl
  · simp only [if_true, List.foldl_map]
    rfl

/-- The value of an element from its block. -/
def blockValue (ks : List Nat) (r : REnv) (k : Nat) : Nat :=
  mantEnc f m (blockQuant f m c o ks r).1 ((blockQuant f m c o ks r).2.1.getD ((ks.filter (c.active o.msk)).filter (fun j => decide (j < k))).length 0)

theorem blockWrites_keys (ks : List Nat) (r : REnv) : (blockWrites f m c o ks r).map Prod.fst =
    ks.filter (c.active o.msk) ++ if o.mz then ks.filter (fun k => !c.active o.msk k) else [] := by
  have hlen : (ks.filter (c.active o.msk)).length ≤ (blockQuant f m c o ks r).2.1.length := by
    rw [blockQuant, quantise_length, List.length_map]
  rw [blockWrites, List.map_append, List.map_map]
  refine congrArg₂ _ (List.map_fst_zip hlen) ?_
  cases o.mz <;> simp [Function.comp_def]

theorem mem_of_blockWrites {ks : List Nat} {r : REnv} {p : Nat × Nat} (hp : p ∈ blockWrites f m c o ks r) : p.1 ∈ ks := by
  have := List.mem_map_of_mem (f := Prod.fst) hp
  rw [blockWrites_keys, List.mem_append] at this
  rcases this with h | h
  · exact (List.mem_filter.1 h).1
  · cases hz : o.mz with
    | false => simp [hz] at h
    | true =>
      rw [hz, if_pos rfl] at h
      exact (List.mem_filter.1 h).1

theorem blockWrites_nodup {ks : List Nat} (hks : ks.Nodup) (r : REnv) : ((blockWrites f m c o ks r).map Prod.fst).Nodup := by
  rw [blockWrites_keys]
  cases o.mz
  · simpa using hks.filter _
  · rw [if_pos rfl, List.nodup_append]
    refine ⟨hks.filter _, hks.filter _, fun a ha b hb he => ?_⟩
    have ha := (List.mem_filter.1 ha).2
    have hb := (List.mem_filter.1 hb).2
    simp [← he, ha] at hb

/-- A steady mode: the value of an element does not depend on what came before its block. -/
theorem blockValue_steady {r r' : REnv} (h : r.mode ≤ 4) (hr : r'.mode = r.mode) (ks : List Nat) (k : Nat) :
    blockValue f m c o ks r' k = blockValue f m c o ks r k := by
  obtain ⟨he, hm⟩ := quantise_steady h hr m ((ks.filter (c.active o.msk)).map (c.fval f o.va))
  unfold blockValue blockQuant
  rw [he, hm]

variable {w : Nat} (hf : f.width / 8 = w) (hw : 1 ≤ w) {ks : List Nat} (hks : ∀ k ∈ ks, 8 * w * k + 8 * w ≤ 16384)
include hf hw hks

theorem quantBlock_elem (hs : ks.Pairwise (· < ·)) (acc : Tile × REnv) {k : Nat} (hk : k ∈ ks) :
    elemAt (quantBlock f m c o acc ks).1 w k =
      if c.active o.msk k = true then blockValue f m c o ks acc.2 k % 2 ^ (8 * w) else if o.mz then 0 else elemAt acc.1 w k := by
  have hin : ∀ p ∈ blockWrites f m c o ks acc.2, 8 * w * p.1 + 8 * w ≤ 16384 := fun p hp => hks _ (mem_of_blockWrites f m c o hp)
  have hnd := blockWrites_nodup f m c o (hs.imp Nat.ne_of_lt) acc.2
  rw [quantBlock_eq, hf]
  by_cases ha : c.active o.msk k = true
  · rw [if_pos ha]
    refine elemAt_putElems_mem hw hin hnd _ (List.mem_append_left _ ?_)
    have hrank := mem_zip_rank (zs := (blockQuant f m c o ks acc.2).2.1) (hs.filter _) (by rw [blockQuant, quantise_length, List.length_map])
      (List.mem_filter.2 ⟨hk, ha⟩)
    exact List.mem_map.2 ⟨_, hrank, rfl⟩
  · rw [if_neg ha]
    cases hz : o.mz with
    | true =>
      rw [if_pos rfl, elemAt_putElems_mem hw hin hnd _ (v := 0), Nat.zero_mod]
      rw [blockWrites, hz, if_pos rfl]
      exact List.mem_append_right _ (List.mem_map.2 ⟨k, List.mem_filter.2 ⟨hk, by simpa using ha⟩, rfl⟩)
    | false =>
      refine elemAt_putElems_other hw hin _ fun p hp he => ha ?_
      have := List.mem_map_of_mem (f := Prod.fst) hp
      rw [blockWrites_keys, hz, if_neg (by simp), List.append_nil, he] at this
      exact (List.mem_filter.1 this).2

theorem quantBlock_other (acc : Tile × REnv) : (∀ j, j ∉ ks → elemAt (quantBlock f m c o acc ks).1 w j = elemAt acc.1 w j) ∧
    ∀ b, (∀ k ∈ ks, 8 * w * k + 8 * w ≤ b) → (quantBlock f m c o acc ks).1.getLsbD b = acc.1.getLsbD b := by
  have hin : ∀ p ∈ blockWrites f m c o ks acc.2, 8 * w * p.1 + 8 * w ≤ 16384 := fun p hp => hks _ (mem_of_blockWrites f m c o hp)
  rw [quantBlock_eq, hf]
  exact ⟨fun j hj => elemAt_putElems_other hw hin _ fun p hp he => hj (he ▸ mem_of_blockWrites f m c o hp),
    fun b hb => getLsbD_putElems_above hw hin _ fun p hp => hb _ (mem_of_blockWrites f m c o hp)⟩

omit hf hw hks in
theorem quantBlock_mode (acc : Tile × REnv) (ks : List Nat) : (quantBlock f m c o acc ks).2.mode = acc.2.mode := by
  rw [quantBlock_eq]
  exact quantise_mode ..

end Block

/-! ## All the blocks -/

section Blocks
variable {f : Fmt} {m : Nat} {c : Context} {o : VV} {w : Nat} (hf : f.width / 8 = w) (hw : 1 ≤ w) {bs : List (List Nat)}
  (hbs : ∀ ks ∈ bs, ∀ k ∈ ks, 8 * w * k + 8 * w ≤ 16384)
include hf hw hbs

theorem quantBlocks_other (acc : Tile × REnv) : (∀ j, (∀ ks ∈ bs, j ∉ ks) → elemAt (bs.foldl (quantBlock f m c o) acc).1 w j = elemAt acc.1 w j) ∧
    ∀ b, (∀ ks ∈ bs, ∀ k ∈ ks, 8 * w * k + 8 * w ≤ b) → (bs.foldl (quantBlock f m c o) acc).1.getLsbD b = acc.1.getLsbD b :=
  ⟨fun j hj => foldl_keeps_mem (fun acc => elemAt acc.1 w j) bs (fun acc ks hk => (quantBlock_other f m c o hf hw (hbs ks hk) acc).1 j (hj ks hk)) acc,
    fun b hb => foldl_keeps_mem (fun acc => acc.1.getLsbD b) bs (fun acc ks hk => (quantBlock_other f m c o hf hw (hbs ks hk) acc).2 b (hb ks hk)) acc⟩

/-- In a steady mode, an element of a block is its block's value. -/
theorem quantBlocks_elem (hs : ∀ ks ∈ bs, ks.Pairwise (· < ·)) (hd : bs.Pairwise List.Disjoint) {r : REnv} (hr : r.mode ≤ 4) (acc : Tile × REnv)
    (hacc : acc.2.mode = r.mode) {ks : List Nat} (hks : ks ∈ bs) {k : Nat} (hk : k ∈ ks) : elemAt (bs.foldl (quantBlock f m c o) acc).1 w k =
      if c.active o.msk k = true then blockValue f m c o ks r k % 2 ^ (8 * w) else if o.mz then 0 else elemAt acc.1 w k := by
  induction bs generalizing acc with
  | nil => simp at hks
  | cons b bs ih =>
    have hrest : ∀ ks ∈ bs, ∀ k ∈ ks, 8 * w * k + 8 * w ≤ 16384 := fun js hj => hbs js (by simp [hj])
    obtain ⟨hhead, hd⟩ := List.pairwise_cons.1 hd
    rw [List.foldl_cons]
    rcases List.mem_cons.1 hks with rfl | hks
    · rw [(quantBlocks_other hf hw hrest _).1 k fun js hj hkj => hhead js hj hk hkj, quantBlock_elem f m c o hf hw (hbs _ (by simp)) (hs _ (by simp)) acc hk,
        blockValue_steady f m c o hr hacc]
    · rw [ih hrest (fun js hj => hs js (by simp [hj])) hd _ (by rw [quantBlock_mode, hacc]) hks,
        (quantBlock_other f m c o hf hw (hbs b (by simp)) acc).1 k fun hkb => hhead ks hks hkb hk]

end Blocks

/-! ## The blocks of a shape (R198) -/

/-- The positions of a shape in row r and block column j. -/
def Shape.block (h : Shape) (b r j : Nat) : List Nat := h.poss.filter (fun k => decide (k / h.cols = r ∧ k % h.cols / b = j))

theorem mem_block {h : Shape} {b r j k : Nat} : k ∈ h.block b r j ↔ k < h.size ∧ k / h.cols = r ∧ k % h.cols / b = j := by
  simp [Shape.block, Shape.poss]

theorem block_sorted (h : Shape) (b r j : Nat) : (h.block b r j).Pairwise (· < ·) := List.Pairwise.filter _ List.pairwise_lt_range

theorem block_eq {h : Shape} {b r j : Nat} (hc : 1 ≤ h.cols) (hb : 1 ≤ b) (hr : r < h.rows) :
    (List.range (min b (h.cols - j * b))).map (fun i => r * h.cols + j * b + i) = h.block b r j := by
  have hrow : r * h.cols + h.cols ≤ h.size := by
    rw [Shape.size, ← Nat.succ_mul]
    exact Nat.mul_le_mul_right _ hr
  refine List.Pairwise.eq_of_mem_iff (r := (· < ·)) (List.pairwise_map.2 (List.pairwise_lt_range.imp fun hij => by omega)) (block_sorted ..) fun k => ?_
  rw [mem_block]
  constructor
  · intro hk
    obtain ⟨i, hi, rfl⟩ := List.mem_map.1 hk
    have hi : i < b ∧ j * b + i < h.cols := by
      have := List.mem_range.1 hi
      omega
    refine ⟨by omega, ?_, ?_⟩
    · rw [Nat.add_assoc, Nat.mul_comm, Nat.mul_add_div hc, Nat.div_eq_of_lt hi.2, Nat.add_zero]
    · rw [Nat.add_assoc, Nat.mul_comm r, Nat.mul_add_mod, Nat.mod_eq_of_lt hi.2, Nat.mul_comm j, Nat.mul_add_div hb, Nat.div_eq_of_lt hi.1, Nat.add_zero]
  · rintro ⟨-, rfl, rfl⟩
    have hcol := Nat.mod_lt k hc
    have hlow := Nat.div_mul_le_self (k % h.cols) b
    have hmod := Nat.mod_lt (k % h.cols) hb
    have hk := Nat.div_add_mod' k h.cols
    have hkb := Nat.div_add_mod' (k % h.cols) b
    exact List.mem_map.2 ⟨k % h.cols % b, List.mem_range.2 (by omega), by omega⟩

theorem blocksOf_eq {h : Shape} {b : Nat} (hc : 1 ≤ h.cols) (hb : 1 ≤ b) :
    blocksOf h b = (List.range h.rows).flatMap (fun r => (List.range ((h.cols + b - 1) / b)).map (h.block b r)) :=
  List.flatMap_congr fun _ hr => List.map_congr_left fun _ _ => block_eq hc hb (List.mem_range.1 hr)

section BlocksOf
variable {h : Shape} {b : Nat} (hc : 1 ≤ h.cols) (hb : 1 ≤ b)
include hc hb

theorem mem_blocksOf {ks : List Nat} (hks : ks ∈ blocksOf h b) : ∃ r j, ks = h.block b r j := by
  rw [blocksOf_eq hc hb] at hks
  obtain ⟨r, -, hks⟩ := List.mem_flatMap.1 hks
  obtain ⟨j, -, rfl⟩ := List.mem_map.1 hks
  exact ⟨r, j, rfl⟩

theorem blocksOf_disjoint : (blocksOf h b).Pairwise List.Disjoint := by
  rw [blocksOf_eq hc hb, List.pairwise_flatMap]
  constructor
  · refine fun r _ => List.pairwise_map.2 (List.pairwise_lt_range.imp fun {i j} hij k hi hj => ?_)
    obtain ⟨-, -, hi⟩ := mem_block.1 hi
    obtain ⟨-, -, hj⟩ := mem_block.1 hj
    omega
  · refine List.pairwise_lt_range.imp fun {r r'} hlt ks hks ks' hks' k hi hj => ?_
    obtain ⟨i, -, rfl⟩ := List.mem_map.1 hks
    obtain ⟨j, -, rfl⟩ := List.mem_map.1 hks'
    obtain ⟨-, hr, -⟩ := mem_block.1 hi
    obtain ⟨-, hr', -⟩ := mem_block.1 hj
    omega

/-- Every position of the shape lies in its block. -/
theorem block_mem_blocksOf {k : Nat} (hk : k < h.size) : h.block b (k / h.cols) (k % h.cols / b) ∈ blocksOf h b := by
  rw [blocksOf_eq hc hb]
  have hcol := Nat.mod_lt k hc
  refine List.mem_flatMap.2 ⟨k / h.cols, List.mem_range.2 ((Nat.div_lt_iff_lt_mul hc).2 hk), List.mem_map.2 ⟨_, List.mem_range.2 ?_, rfl⟩⟩
  rw [Nat.lt_div_iff_mul_lt hb]
  have := Nat.div_mul_le_self (k % h.cols) b
  omega

end BlocksOf

/-! ## VQNT -/

variable {s : State}

/-- The block of position k, over the active elements. -/
theorem block_actives (msk : BitVec 4) (b r j : Nat) : (s.cur.shape.block b r j).filter (s.cur.active msk) =
    (s.cur.actives msk).filter (fun i => decide (i / s.cur.shape.cols = r ∧ i % s.cur.shape.cols / b = j)) := List.filter_comm ..

theorem quantForm_spec {b : Nat} (hb : 1 ≤ b) (o : VV) (h : ElemReady s (floatW o.ty) o.msk [.tile o.vd, .tile o.va]) :
    let f := fmtOfTy o.ty.toNat
    let c := s.cur.shape.cols
    ∃ (t : Tile) (fcsr : Word), runAct (quantForm b o) s = .next (s.busyDone (.tile o.vd) 8 6 (fun c => { c.setTile o.vd t with fcsr := fcsr })) ∧
      (s.rmode ≤ 4 → ElemResult s (floatW o.ty) o.msk o.mz o.vd t
        (fun k => blockValue f o.vb.toNat s.cur o (s.cur.shape.block b (k / c) (k % c / b)) ⟨s.rmode, 0, 0⟩ k)) := by
  intro f c
  obtain ⟨hwidth, hc, hsize, hfree⟩ := h
  refine ⟨_, _, (vectorForm_run hwidth hfree rfl).trans (congrArg _ (busyDone_congr rfl)), fun hmode => ?_⟩
  have hw := floatW_pos o.ty
  have hin : ∀ ks ∈ blocksOf s.cur.shape b, ∀ k ∈ ks, k < s.cur.shape.size := fun ks hks k hk => by
    obtain ⟨r, j, rfl⟩ := mem_blocksOf hc hb hks
    exact (mem_block.1 hk).1
  have hbs : ∀ ks ∈ blocksOf s.cur.shape b, ∀ k ∈ ks, 8 * floatW o.ty * k + 8 * floatW o.ty ≤ 16384 := fun ks hks k hk =>
    elem_inside (hin ks hks k hk) hsize
  constructor
  · intro k hk
    refine quantBlocks_elem rfl hw hbs (fun ks hks => ?_) (blocksOf_disjoint hc hb) (r := ⟨s.rmode, 0, 0⟩) hmode _ fcsr_mode
      (block_mem_blocksOf hc hb hk) (mem_block.2 ⟨hk, rfl, rfl⟩)
    obtain ⟨r, j, rfl⟩ := mem_blocksOf hc hb hks
    exact block_sorted ..
  · intro i hi
    refine (quantBlocks_other (w := floatW o.ty) rfl hw hbs _).2 i fun ks hks k hk => ?_
    have : 8 * floatW o.ty * (k + 1) ≤ 8 * floatW o.ty * s.cur.shape.size := Nat.mul_le_mul_left _ (hin ks hks k hk)
    rw [Nat.mul_succ] at this
    omega

/-! ## R114 over the rationals -/

theorem half_step {a y : ℚ} {q : Int} (h : |a - y / 2 ^ q| ≤ 1 / 2) : |a * 2 ^ q - y| ≤ 2 ^ q / 2 := by
  have hq : (0 : ℚ) < 2 ^ q := by positivity
  have heq : a * 2 ^ q - y = (a - y / 2 ^ q) * 2 ^ q := by field_simp
  rw [heq, abs_mul, abs_of_pos hq]
  calc |a - y / 2 ^ q| * 2 ^ q ≤ 1 / 2 * 2 ^ q := mul_le_mul_of_nonneg_right h hq.le
    _ = 2 ^ q / 2 := by ring

theorem fits_mul_iff {n : Nat} {q : Int} {y : ℚ} : Fits (2 ^ n) q y ↔ -(2 : ℚ) ^ n * 2 ^ q ≤ y ∧ y ≤ ((2 : ℚ) ^ n - 1) * 2 ^ q := by
  have hq : (0 : ℚ) < 2 ^ q := by positivity
  rw [Fits, le_div_iff₀ hq, div_le_iff₀ hq]
  push_cast
  rfl

theorem quantise_finite {m : Nat} {xs : List FVal} {ys : List ℚ} (h : xs.map FVal.rat = ys.map some) (r : REnv) :
    quantise m xs r = (bfpExp m xs 0 253, bfpMants m (bfpScale m (bfpExp m xs 0 253)) xs r) := by
  have hnum : ∀ x ∈ xs, ∃ y, x.rat = some y := fun x hx => by
    have := List.mem_map_of_mem (f := FVal.rat) hx
    rw [h] at this
    obtain ⟨y, -, hy⟩ := List.mem_map.1 this
    exact ⟨y, hy.symm⟩
  have hnan : xs.any FVal.isNan = false := List.any_eq_false.2 fun x hx => by
    obtain ⟨y, hy⟩ := hnum x hx
    cases x <;> simp_all [FVal.rat, FVal.isNan]
  have hexp : bfpExpOf m xs = bfpExp m xs 0 253 := by
    rw [bfpExpOf, if_neg (by simp [hnan]), if_neg]
    rw [Bool.not_eq_true, List.any_eq_false]
    intro x hx
    obtain ⟨y, hy⟩ := hnum x hx
    cases x <;> simp_all [FVal.rat]
  rw [quantise_numbers hnan, hexp]

/-- The values fit one by one. -/
theorem all_fit_iff {lim : Nat} (hlim : 1 ≤ lim) {q : Int} {xs : List FVal} {ys : List ℚ} (h : List.Forall₂ (fun x y => x.rat = some y) xs ys) :
    (∀ x ∈ xs, bfpFits lim q x = true) ↔ ∀ y ∈ ys, Fits lim q y := by
  induction h with
  | nil => simp
  | cons hx _ ih => simp [ih, bfpFits_iff hlim hx]

theorem forall2_rat {xs : List FVal} {ys : List ℚ} (h : xs.map FVal.rat = ys.map some) : List.Forall₂ (fun x y => x.rat = some y) xs ys := by
  rwa [← List.forall₂_eq_eq_eq, List.forall₂_map_left_iff, List.forall₂_map_right_iff] at h

/-- Nearest mantissas of values that fit, pair by pair. -/
theorem bfpMants_nearest {m : Nat} {q : Int} {r : REnv} (hr : r.mode = 0) {xs : List FVal} {ys : List ℚ} {zs : List Int}
    (h : List.Forall₂ (fun x y => x.rat = some y) xs ys) (hz : List.Forall₂ (fun x z => ∃ r' : REnv, r'.mode = r.mode ∧ z = (bfpMant m q x r').1) xs zs)
    (hfit : ∀ y ∈ ys, Fits (2 ^ (m - 1)) q y) : ∀ p ∈ zs.zip ys, |(p.1 : ℚ) * 2 ^ q - p.2| ≤ 2 ^ q / 2 := by
  induction h generalizing zs with
  | nil => simp
  | cons hx _ ih =>
    obtain ⟨z, zs, ⟨r', hr', rfl⟩, hrest, rfl⟩ := List.forall₂_cons_left_iff.1 hz
    intro p hp
    rcases List.mem_cons.1 hp with rfl | hp
    · exact half_step (bfpMant_nearest hx (hfit _ (by simp)) (hr'.trans hr))
    · exact ih hrest (fun y hy => hfit y (by simp [hy])) p hp

theorem bfpMants_range (m : Nat) (q : Int) (xs : List FVal) (r : REnv) : ∀ z ∈ (bfpMants m q xs r).1, -(2 : Int) ^ (m - 1) ≤ z ∧ z ≤ 2 ^ (m - 1) - 1 := by
  induction xs generalizing r with
  | nil => simp [bfpMants]
  | cons x xs ih => exact List.forall_mem_cons.2 ⟨bfpMant_range m q x r, ih _⟩

theorem quantise_spec {m : Nat} {xs : List FVal} {ys : List ℚ} {r : REnv} (h : xs.map FVal.rat = ys.map some) :
    let q := quantise m xs r
    let fit (e : Nat) : Prop := ∀ y ∈ ys, Fits (2 ^ (m - 1)) (bfpScale m e) y
    q.1 ≤ 253 ∧ (q.1 < 253 → fit q.1) ∧ (∀ e, e < q.1 → ¬fit e) ∧ q.2.1.length = xs.length ∧
      (∀ z ∈ q.2.1, -(2 : Int) ^ (m - 1) ≤ z ∧ z ≤ 2 ^ (m - 1) - 1) ∧
      (r.mode = 0 → q.1 < 253 → ∀ p ∈ q.2.1.zip ys, |(p.1 : ℚ) * 2 ^ bfpScale m q.1 - p.2| ≤ 2 ^ bfpScale m q.1 / 2) := by
  intro q fit
  have hrat := forall2_rat h
  have hfit : ∀ e, (∀ x ∈ xs, bfpFits (2 ^ (m - 1)) (bfpScale m e) x = true) ↔ fit e := fun e => all_fit_iff Nat.one_le_two_pow hrat
  obtain ⟨-, hle, hleast, hnot⟩ := bfpExp_least m xs 0 253 rfl
  have hq : q = _ := quantise_finite h r
  obtain ⟨heach, -⟩ := bfpMants_each m (bfpScale m (bfpExp m xs 0 253)) xs r
  refine ⟨by rwa [hq], fun hlt => ?_, fun e he => ?_, quantise_length .., fun z hz => ?_, fun hr hlt => ?_⟩
  · rw [hq] at hlt ⊢
    exact (hfit _).1 (hleast hlt)
  · rw [hq] at he
    exact fun hh => hnot e (Nat.zero_le _) he ((hfit e).2 hh)
  · rw [hq] at hz
    exact bfpMants_range _ _ _ _ z hz
  · rw [hq] at hlt ⊢
    exact bfpMants_nearest hr hrat heach ((hfit _).1 (hleast hlt))

/-! ## The obligation -/

/-- Settles O25: the writing loop with each element rounded in its own state, the blocks of a shape one by one, and the least exponent that holds a block. -/
theorem conversionsAndBlocks : Obligations.ConversionsAndBlocks := by
  refine ⟨⟨fun o s sat i hi hw hn hfree => ?_, fun o s hw hn hfree => ?_, fun o s b i hi h => ?_⟩, fun m xs ys r h2 h11 h => ?_⟩
  · have hexec : exec i s = runAct (cvtFloat sat o) s := by
      rcases hi with ⟨rfl, rfl⟩ | ⟨rfl, rfl⟩ <;> rfl
    rw [hexec]
    exact ⟨cvtFloat_rounds sat hw hn hfree, cvtFloat_copies sat hw hn hfree⟩
  · exact cvtInt_spec hw hn hfree rfl rfl
  · have hexec : exec i s = runAct (quantForm b o) s := by
      rcases hi with ⟨rfl, rfl⟩ | ⟨rfl, rfl⟩ <;> rfl
    have hb : 1 ≤ b := by
      rcases hi with ⟨-, rfl⟩ | ⟨-, rfl⟩ <;> omega
    obtain ⟨t, fcsr, hrun, hres⟩ := quantForm_spec hb o h
    refine ⟨t, fcsr, hexec ▸ hrun, fun hmode => elemResult_congr (fun k _ => ?_) (hres hmode)⟩
    simp only [blockValue, blockQuant, mantEnc, block_actives]
    rfl
  · obtain ⟨hle, hfit, hnot, hlen, hrange, hnear⟩ := quantise_spec (m := m) (r := r) h
    exact ⟨hle, fun hlt y hy => fits_mul_iff.1 (hfit hlt y hy), fun e he hh => hnot e he fun y hy => fits_mul_iff.2 (hh y hy), hlen, hrange, hnear⟩

end Sys2Proof.Machine
end

section
/-! PROOFS. Waves at cells (O40): what a wave does at a cell, by its kind (R120, R223 to R226, R233, R241), the stash records (R230), and when (R217, R218, R220). -/
namespace Sys2Proof.Machine

/-! ## Tables that leave out a default value -/

section Sparse
variable {α : Type} {t : Tbl α}

theorem tbl_del_sublist (t : Tbl α) (k : Nat) : (Tbl.del t k).Sublist t := by
  induction t with
  | nil => exact .refl _
  | cons e rest ih =>
    unfold Tbl.del
    split
    · exact List.sublist_cons_self ..
    · exact ih.cons_cons e

theorem rising_del (ht : Rising t) (k : Nat) : Rising (Tbl.del t k) := List.Pairwise.sublist (tbl_del_sublist t k) ht

variable [DecidableEq α] (k : Nat) (d v : α)

theorem sparse_get (ht : Rising t) : (Tbl.get? (if v = d then Tbl.del t k else Tbl.set t k v) k).getD d = v := by
  split
  · rename_i h
    rw [tbl_get_del_same ht, h]
    rfl
  · rw [tbl_get_set]
    rfl

theorem sparse_get_ne {j : Nat} (h : j ≠ k) : Tbl.get? (if v = d then Tbl.del t k else Tbl.set t k v) j = Tbl.get? t j := by
  split
  · exact tbl_get_del_ne t h
  · exact tbl_get_set_ne t v h

theorem sparse_rising (ht : Rising t) : Rising (if v = d then Tbl.del t k else Tbl.set t k v) := by
  split
  · exact rising_del ht k
  · exact rising_set ht k v

end Sparse

/-! ## A Hearth's cells and stash words, and a wave's sums -/

section Cells
variable {h : Hearth} (i j : Nat)

theorem cell_setCell (hs : Rising h.cells) (c : Cell) : (h.setCell i j c).cell i j = c := sparse_get _ _ c hs
theorem setCell_rising (hs : Rising h.cells) (c : Cell) : Rising (h.setCell i j c).cells := sparse_rising _ _ c hs
theorem stashWord_setStash (hs : Rising h.stash) (n : Nat) (x : BitVec 16) : (h.setStash n i x).stashWord n i = x := sparse_get _ _ x hs

@[simp] theorem setCell_cfg (c : Cell) : (h.setCell i j c).cfg = h.cfg := rfl
@[simp] theorem setCell_waves (c : Cell) : (h.setCell i j c).waves = h.waves := rfl
@[simp] theorem accrue_cell (n : Nat) (f : Flags) : (h.accrue n f).cell i j = h.cell i j := rfl
@[simp] theorem accrue_cfg (n : Nat) (f : Flags) : (h.accrue n f).cfg = h.cfg := rfl
@[simp] theorem accrue_waves (n : Nat) (f : Flags) : (h.accrue n f).waves = h.waves := rfl

theorem sum_setSum {w : Wave} (hs : Rising w.sums) (v : Nat) : (w.setSum i v).sum i = v := sparse_get _ _ v hs
theorem sum_setSum_ne {w : Wave} (v : Nat) (hij : j ≠ i) : (w.setSum i v).sum j = w.sum j := congrArg (·.getD 0) (sparse_get_ne _ _ v hij)

/-- cp takes c, outside a BFP tile. -/
theorem keepC_small (hf : cfgCfmt h.cfg < 6) : h.keepC i j = h.setCell i j { h.cell i j with cp := (h.cell i j).c } := by
  unfold Hearth.keepC
  exact if_neg fun hh => absurd hh.1 (not_le.2 hf)

/-- c takes the rounded w, outside a BFP tile. -/
theorem copyW_small (hf : cfgCfmt h.cfg < 6) :
    h.copyW i j = (h.setCell i j { h.cell i j with c := BitVec.ofNat 16 (roundC (cfgCfmt h.cfg) (h.cell i j).w).1 }).accrue 2 (roundC (cfgCfmt h.cfg) (h.cell i j).w).2 := by
  unfold Hearth.copyW
  exact if_neg (not_le.2 hf)

/-- A cell set and its copy taken. -/
theorem cell_set_copyW (hf : cfgCfmt h.cfg < 6) (hs : Rising h.cells) (c : Cell) :
    ((h.setCell i j c).copyW i j).cell i j = { c with c := BitVec.ofNat 16 (roundC (cfgCfmt h.cfg) c.w).1 } := by
  rw [copyW_small i j (h := h.setCell i j c) hf, accrue_cell, cell_setCell i j (setCell_rising i j hs c), cell_setCell i j hs, setCell_cfg]

theorem cell_keepC (hf : cfgCfmt h.cfg < 6) (hs : Rising h.cells) : (h.keepC i j).cell i j = { h.cell i j with cp := (h.cell i j).c } := by
  rw [keepC_small i j hf, cell_setCell i j hs]

theorem keepC_cfg : (h.keepC i j).cfg = h.cfg := by
  unfold Hearth.keepC
  dsimp only
  split <;> rfl

theorem keepC_rising (hf : cfgCfmt h.cfg < 6) (hs : Rising h.cells) : Rising (h.keepC i j).cells := by
  rw [keepC_small i j hf]
  exact setCell_rising i j hs _

theorem quantSeg_waves (h : Hearth) : (h.quantSeg i j).waves = h.waves :=
  foldl_keeps (fun u : Hearth => u.waves) (f := fun u (x : Nat × Int) => u.setCell x.1 j { u.cell x.1 j with c := BitVec.ofNat 16 (ofInt (cfgCfmt h.cfg - 4) x.2) })
    (fun _ _ => rfl) _ h

theorem keepC_waves : (h.keepC i j).waves = h.waves := by
  unfold Hearth.keepC
  dsimp only
  split <;> rfl

theorem copyW_waves : (h.copyW i j).waves = h.waves := by
  unfold Hearth.copyW
  dsimp only
  split
  · split
    · exact quantSeg_waves ..
    · rfl
  · rfl

end Cells

/-! ## A wave at a cell, by its kind -/

section Kinds
variable (cols : Nat) {h : Hearth} {w : Wave} (gi gj : Nat)

/-- An A wave changes the Hearth's flags alone, and in the wave its sums. -/
theorem waveA_shell (i j : Nat) : (∃ x, (waveA h w gi gj i j).1 = { h with hstat := x }) ∧ ∃ a b, (waveA h w gi gj i j).2 = { w with sums := a, parts := b } := by
  unfold waveA
  dsimp only
  split_ifs <;> exact ⟨⟨_, rfl⟩, _, _, rfl⟩

theorem waveA_small (hrot : w.opt.rot = false) (hf : cfgCfmt h.cfg < 6) (i j : Nat) :
    (waveA h w gi gj i j).2 = w.setSum gj (mac (h.cVal i j) (w.elem (cfgXfmt h.cfg) (cfgB h.cfg) gi) (w.sum gj)).1 := by
  unfold waveA
  dsimp only
  rw [hrot, if_neg (by simp), if_neg (not_le.2 hf)]

/-- A wave leaves the list of waves to its event, and keeps its number and the cells passed. -/
theorem waveCell_keeps : (waveCell cols h w gi gj).1.waves = h.waves ∧ (waveCell cols h w gi gj).2.num = w.num ∧ (waveCell cols h w gi gj).2.passed = w.passed := by
  unfold waveCell
  dsimp only
  split
  · obtain ⟨⟨x, hx⟩, a, b, hw⟩ := waveA_shell (h := if w.opt.ns = true then h else h.stashAt (w.tag.toNat % 16) (gi % 64) (w.elem (cfgXfmt h.cfg) (cfgB h.cfg) gi))
      (w := w) gi gj (gi % 64) (gj % 1024)
    rw [hx, hw]
    exact ⟨by dsimp only; split <;> rfl, rfl, rfl⟩
  · exact ⟨rfl, rfl, rfl⟩
  · exact ⟨rfl, rfl, rfl⟩
  · unfold waveG
    dsimp only
    split <;> exact ⟨rfl, rfl, rfl⟩
  · refine ⟨?_, rfl, rfl⟩
    rw [waveU, copyW_waves, setCell_waves, accrue_waves, keepC_waves]
  · exact ⟨rfl, rfl, rfl⟩
  · refine ⟨?_, rfl, rfl⟩
    rw [waveSet, copyW_waves, setCell_waves, keepC_waves]

/-- R120, R223: an A wave adds c × x to the column's sum, rounded once, and changes no cell. -/
theorem waveCell_a (hk : w.kind = .a) (hrot : w.opt.rot = false) (hf : cfgCfmt h.cfg < 6) :
    let r := waveCell cols h w gi gj
    r.1.cells = h.cells ∧
      r.2 = w.setSum gj (mac (h.cVal (gi % 64) (gj % 1024)) (w.elem (cfgXfmt h.cfg) (cfgB h.cfg) gi) (w.sum gj)).1 := by
  intro r
  set h1 := if w.opt.ns = true then h else h.stashAt (w.tag.toNat % 16) (gi % 64) (w.elem (cfgXfmt h.cfg) (cfgB h.cfg) gi) with hh1
  have hr : r = waveA h1 w gi gj (gi % 64) (gj % 1024) := by simp only [r, waveCell, hk, hh1]
  have hsame : h1.cells = h.cells ∧ h1.cfg = h.cfg ∧ h1.cExp = h.cExp := by
    rw [hh1]
    split <;> exact ⟨rfl, rfl, rfl⟩
  obtain ⟨hcells, hcfg, hexp⟩ := hsame
  obtain ⟨⟨x, hx⟩, -⟩ := waveA_shell (h := h1) (w := w) gi gj (gi % 64) (gj % 1024)
  refine ⟨by rw [hr, hx]; exact hcells, ?_⟩
  rw [hr, waveA_small gi gj hrot (by rwa [hcfg]), hcfg]
  simp only [Hearth.cVal, Hearth.cell, hcells, hcfg, hexp]

/-- R223, R224: an A wave that stashes, and an S wave, write the encoded element. -/
theorem waveCell_stash (hk : w.kind = .a ∧ w.opt.ns = false ∨ w.kind = .s) (hs : Rising h.stash) :
    (waveCell cols h w gi gj).1.stashWord (w.tag.toNat % 16) (gi % 64) = (stashEnc (h.cfg.getLsbD 17) (w.elem (cfgXfmt h.cfg) (cfgB h.cfg) gi)).1 := by
  rcases hk with ⟨hk, hns⟩ | hk
  · obtain ⟨⟨x, hx⟩, -⟩ := waveA_shell (h := h.stashAt (w.tag.toNat % 16) (gi % 64) (w.elem (cfgXfmt h.cfg) (cfgB h.cfg) gi)) (w := w) gi gj (gi % 64) (gj % 1024)
    simp only [waveCell, hk, hns, Bool.false_eq_true, if_false]
    rw [hx]
    exact stashWord_setStash _ hs _ _
  · simp only [waveCell, hk]
    exact stashWord_setStash _ hs _ _

/-- R225: a G wave's sum, and the cell's gradient unless only dx is asked for. -/
theorem waveCell_g (hk : w.kind = .g) (hs : Rising h.cells) :
    let r := waveCell cols h w gi gj
    let x := h.cell (gi % 64) (gj % 1024)
    let dy := w.elem (cfgGfmt h.cfg) (cfgB h.cfg) gj
    r.2 = w.setSum gi (mac (if x.v = w.stamp then h.cVal (gi % 64) (gj % 1024) else h.cpVal (gi % 64) (gj % 1024)) dy (w.sum gi)).1 ∧
    r.1.cell (gi % 64) (gj % 1024) = if w.opt.dx then x else
      { x with g := BitVec.ofNat 32 (mac (stashDec (h.cfg.getLsbD 17) (h.stashWord (w.tag.toNat % 16) (gi % 64))) dy x.g.toNat).1 } := by
  simp only [waveCell, hk, waveG]
  cases w.opt.dx with
  | true => exact ⟨rfl, rfl⟩
  | false =>
    refine ⟨rfl, ?_⟩
    simp only [Bool.false_eq_true, if_false, accrue_cell]
    exact cell_setCell _ _ (h := h.accrue 1 _) hs _

/-- R226: a U wave's update of a cell. -/
theorem waveCell_u (hk : w.kind = .u) (hf : cfgCfmt h.cfg < 6) (hs : Rising h.cells) :
    let x := h.cell (gi % 64) (gj % 1024)
    let hk (q : Nat) : FVal := val32 (w.hk.getD q 0).toNat
    let m := (rne32 (fFma 0 (hk 1) (val32 x.m.toNat) (val32 x.g.toNat))).1
    let t := (rne32 (fFma 0 (hk 2) (val32 x.w.toNat) (val32 m))).1
    let w' := BitVec.ofNat 32 (rne32 (fFma 0 (hk 0).neg (val32 t) (val32 x.w.toNat))).1
    (waveCell cols h w gi gj).1.cell (gi % 64) (gj % 1024) = ⟨w', BitVec.ofNat 16 (roundC (cfgCfmt h.cfg) w').1, x.c, 0, BitVec.ofNat 32 m, x.v + 1⟩ := by
  intro x hk' m t w'
  simp only [waveCell, hk, waveU]
  rw [cell_set_copyW, accrue_cell, cell_keepC _ _ hf hs, accrue_cfg, keepC_cfg]
  · rwa [accrue_cfg, keepC_cfg]
  · exact keepC_rising _ _ hf hs

/-- R226: a U.x wave sends the gradient out and clears it. -/
theorem waveCell_ux (hk : w.kind = .ux) (hs : Rising h.cells) :
    let r := waveCell cols h w gi gj
    let x := h.cell (gi % 64) (gj % 1024)
    r.1.cell (gi % 64) (gj % 1024) = { x with g := 0 } ∧ r.2 = w.setSum (gi * cols + gj) x.g.toNat := by
  intro r x
  simp only [r, waveCell, hk]
  exact ⟨cell_setCell _ _ hs _, rfl⟩

/-- R241: an HWSET wave's weight, its copy, and the copy before it. -/
theorem waveCell_hwset (hk : w.kind = .hwset) (hf : cfgCfmt h.cfg < 6) (hs : Rising h.cells) :
    let x := h.cell (gi % 64) (gj % 1024)
    let w' := BitVec.ofNat 32 (w.image.getD (gi * cols + gj) 0)
    (waveCell cols h w gi gj).1.cell (gi % 64) (gj % 1024) =
      { x with w := w', cp := x.c, c := BitVec.ofNat 16 (roundC (cfgCfmt h.cfg) w').1, v := x.v + 1 } := by
  intro x w'
  simp only [waveCell, hk, waveSet]
  rw [cell_set_copyW _ _ (by rwa [keepC_cfg]) (keepC_rising _ _ hf hs), cell_keepC _ _ hf hs, keepC_cfg]

end Kinds

/-! ## The event in the state -/

section Event
variable {s : State} (g : Nat)

/-- A wave put back changes a list of waves alone. -/
theorem hearth_setWave (w : Wave) (q : Nat) : ∃ ws, (s.setWave g w).hearth q = { s.hearth q with waves := ws } := by
  rw [State.setWave]
  by_cases hq : q = g
  · subst hq
    exact ⟨_, hearth_setHearth_same ..⟩
  · exact ⟨(s.hearth q).waves, hearth_setHearth_ne s _ hq⟩

theorem hearth_setWave_ne (w : Wave) {q : Nat} (hq : q ≠ g) : (s.setWave g w).hearth q = s.hearth q := hearth_setHearth_ne s _ hq

variable {g}

theorem wave_num {n : Nat} {w : Wave} (h : s.wave? g n = some w) : w.num = n := by simpa using List.find?_some h

theorem wave_setWave {w v : Wave} (h : s.wave? g w.num = some v) : (s.setWave g w).wave? g w.num = some w := by
  have hv := wave_num h
  have hsame : ((fun x : Wave => decide (x.num = w.num)) ∘ fun x => if x.num = w.num then w else x) = fun x : Wave => decide (x.num = w.num) := by
    funext x
    dsimp only [Function.comp]
    split <;> simp_all
  rw [State.wave?, State.setWave, hearth_setHearth_same, List.find?_map, hsame, show (s.hearth g).waves.find? _ = some v from h]
  exact congrArg some (if_pos hv)

theorem wave_setHearth {m n : Nat} {h1 : Hearth} (hw : h1.waves = (s.hearth m).waves) : (s.setHearth m h1).wave? g n = s.wave? g n := by
  unfold State.wave?
  by_cases hg : g = m
  · subst hg
    rw [hearth_setHearth_same, hw]
  · rw [hearth_setHearth_ne s _ hg]

/-- The wave after its work at a cell, which it has passed. -/
def Wave.pass (w : Wave) (i : Nat) : Wave := { w with passed := w.passed.set i (w.passed.getD i 0 + 1) }

theorem cellEvent_spec {n i j : Nat} {w : Wave} (h : s.wave? g n = some w) :
    let m := (s.sheetAt g).member i j
    let r := waveCell (s.sheetAt g).cols (s.hearth m) w i j
    let t := s.cellEvent g n i j
    t.wave? g n = some (r.2.pass i) ∧ (∃ ws, t.hearth m = { r.1 with waves := ws }) ∧ (∀ q, q ≠ m → q ≠ g → t.hearth q = s.hearth q) ∧
      t.mem = s.mem ∧ t.cur = s.cur := by
  intro m r t
  obtain ⟨hwaves, hnum, -⟩ := waveCell_keeps (s.sheetAt g).cols (h := s.hearth m) (w := w) i j
  have ht : t = (s.setHearth m r.1).setWave g (r.2.pass i) := by
    show s.cellEvent g n i j = _
    rw [State.cellEvent, h]
    rfl
  have hn : (r.2.pass i).num = n := hnum.trans (wave_num h)
  rw [ht]
  refine ⟨?_, ?_, fun q hm hg => ?_, rfl, rfl⟩
  · rw [← hn]
    refine wave_setWave (v := w) ?_
    rw [hn, wave_setHearth hwaves, h]
  · obtain ⟨ws, hws⟩ := hearth_setWave (s := s.setHearth m r.1) g (r.2.pass i) m
    exact ⟨ws, by rw [hws, hearth_setHearth_same]⟩
  · rw [hearth_setWave_ne g _ hg, hearth_setHearth_ne s _ hm]

theorem exec_waveAtCell {n i j : Nat} {w : Wave} (h : s.wave? g n = some w) (hfr : (s.hearth g).frozen = false) (hst : s.arrayStall g = false)
    (hr : s.cellReady g w i j = true) : exec (.waveAtCell g n i j) s = .next (s.cellEvent g n i j) := by
  show execWaveAtCell g n i j s = _
  rw [execWaveAtCell, h]
  simp [hfr, hst, hr]

theorem exec_waveAtCell_idle {n i j : Nat} (h : s.wave? g n = none ∨ (s.hearth g).frozen = true ∨ s.arrayStall g = true) :
    exec (.waveAtCell g n i j) s = .next s := by
  show execWaveAtCell g n i j s = _
  unfold execWaveAtCell
  cases hw : s.wave? g n with
  | none => rfl
  | some w =>
    dsimp only
    rw [if_neg]
    rcases h with h | h | h
    · rw [hw] at h
      simp at h
    · simp [h]
    · simp [h]

end Event

/-! ## Stash records (R230) -/

section Records
variable {s : State} {g n : Nat}

theorem exec_stashValid {w : Wave} (hok : ShapeOk (s.sheetAt g)) (hfr : (s.hearth g).frozen = false) (hn : n < 16) (hw : w ∈ (s.hearth g).waves)
    (hslot : w.tag.toNat % 16 = n) (hst : ((s.hearth g).slotRec n).st = .writing) (htag : w.tag = ((s.hearth g).slotRec n).tag)
    (hk : w.kind = .s ∨ (w.kind = .a ∧ w.opt.ns = false)) (hdone : w.stashTime (s.sheetAt g) ≤ (s.hearth g).acyc)
    (hpass : (s.sheetAt g).cols ≤ w.passed.getD ((s.sheetAt g).rows - 1) 0) :
    exec (.stashValid g n) s = .next (s.setRecs g n (fun r => { r with st := .valid, at_ := (s.hearth g).acyc + 1 })) := by
  obtain ⟨-, -, hcols, -⟩ := hok
  have hstash : w.stashes = true ∧ w.kind.isSouth = false := by
    rcases hk with h | ⟨h, hns⟩
    · simp [Wave.stashes, h, WaveKind.isSouth]
    · simp [Wave.stashes, h, hns, WaveKind.isSouth]
  obtain ⟨hstash, hwest⟩ := hstash
  have hlast : (s.sheetAt g).cols - 1 < w.passed.getD ((s.sheetAt g).rows - 1) 0 := by
    have : 1 ≤ (s.sheetAt g).cols := by
      unfold Sheet.cols
      omega
    omega
  have hpassed : w.hasPassed (s.sheetAt g) ((s.sheetAt g).rows - 1) ((s.sheetAt g).cols - 1) = true := by
    rw [Wave.hasPassed, hwest, if_neg (by simp), decide_eq_true hlast]
  show execStashValid g n s = _
  rw [execStashValid, hfr, if_neg (by simp), State.stashValid]
  exact congrArg _ (if_pos ⟨hst, List.any_eq_true.2 ⟨w, hw, by
    simp [hstash, Wave.slot, hslot, Nat.mod_eq_of_lt hn, ← htag, hdone, hpassed]⟩⟩)

theorem exec_stashFree {w : Wave} (hfr : (s.hearth g).frozen = false) (hn : n < 16) (hw : w ∈ (s.hearth g).waves)
    (hslot : w.tag.toNat % 16 = n) (hst : ((s.hearth g).slotRec n).st = .reading) (hk : w.kind = .g) (hdx : w.opt.dx = false)
    (hdone : w.start + (s.sheetAt g).dxTime 0 ≤ (s.hearth g).acyc) (hleft : 0 ∈ w.left) :
    exec (.stashFree g n) s = .next (s.setRecs g n (fun r => { r with st := .free, at_ := (s.hearth g).acyc + 1 })) := by
  show execStashFree g n s = _
  rw [execStashFree, hfr, if_neg (by simp), State.stashFree]
  exact congrArg _ (if_pos ⟨hst, List.any_eq_true.2 ⟨w, hw, by
    simp [hk, hdx, Wave.slot, hslot, Nat.mod_eq_of_lt hn, hdone, hleft]⟩⟩)

theorem exec_stashValid_idle (h : (s.hearth g).frozen = true ∨ ((s.hearth g).slotRec n).st ≠ .writing) : exec (.stashValid g n) s = .next s := by
  show execStashValid g n s = _
  rw [execStashValid]
  rcases h with h | h
  · rw [if_pos h]
  · have hkeep : s.stashValid g n = s := if_neg fun hh => h hh.1
    rw [hkeep, ite_self]

theorem exec_stashFree_idle (h : (s.hearth g).frozen = true ∨ ((s.hearth g).slotRec n).st ≠ .reading) : exec (.stashFree g n) s = .next s := by
  show execStashFree g n s = _
  rw [execStashFree]
  rcases h with h | h
  · rw [if_pos h]
  · have hkeep : s.stashFree g n = s := if_neg fun hh => h hh.1
    rw [hkeep, ite_self]

end Records

/-! ## Event times (R217, R218, R220) -/

section Times
variable {k : Sheet} {i j : Nat} (hok : ShapeOk k) (hi : i < 64 * k.h) (hj : j < 1024 * k.w)
include hok hi hj

theorem southTime_spec : k.southTime i j + i + j + i / 64 + j / 1024 + 4 = 1024 * k.w + 64 * k.h + k.h + k.w + 7 * k.bridge (i / 64) (k.h - 1) := by
  obtain ⟨hh, -, hw, -⟩ := hok
  unfold Sheet.southTime Sheet.cols Sheet.rows
  omega

omit hj in
theorem dxTime_spec : k.dxTime i + i + i / 64 + 3 = 1024 * k.w + 64 * k.h + k.h + k.w + 7 * k.bridge (i / 64) (k.h - 1) := by
  obtain ⟨hh, -, hw, -⟩ := hok
  unfold Sheet.dxTime Sheet.cols Sheet.rows
  omega

end Times

/-- No die bridge lies within a tile-row. -/
theorem bridge_same (k : Sheet) (r : Nat) : k.bridge r r = 0 := if_neg (by omega)

theorem lastTime_one {k : Sheet} (hh : k.h = 1) (hw : k.w = 1) (w : Wave) : w.lastTime k = w.start + match w.kind with
    | .a | .g => 1087
    | .s | .hfill => 1086
    | .u | .hwset => 1088
    | .ux => 1150 := by
  have hb := bridge_same k 0
  unfold Wave.lastTime Sheet.exTime Sheet.yTime Sheet.dxTime Sheet.westTime Sheet.rows Sheet.cols
  rw [hh, hw]
  cases w.kind <;> simp [hb]

/-! ## The obligation -/

/-- Settles O40: each kind of wave at a cell, the event in the state, the two record rules, and the arithmetic of the event times. -/
theorem wavesAtCells : Obligations.WavesAtCells := by
  refine ⟨⟨fun s g n i j w hw hfr hst hready => ?_, fun s g n i j h => exec_waveAtCell_idle h, fun s g n w hok hfr hn hmem hslot => ⟨?_, ?_⟩,
    fun s g n h => exec_stashValid_idle h, fun s g n h => exec_stashFree_idle h⟩, fun k i j hok _ _ hi hj => ?_⟩
  · intro k m h x hcells hstash hsums v32 fma
    obtain ⟨-, -, hpassed⟩ := waveCell_keeps k.cols (h := h) (w := w) i j
    obtain ⟨hwave, ⟨ws, hm⟩, hother, hmem, hcur⟩ := cellEvent_spec (i := i) (j := j) hw
    refine ⟨_, _, exec_waveAtCell hw hfr hst hready, hwave, by rw [← hpassed]; rfl, hmem, hcur, hother, ?_⟩
    rw [hm]
    refine ⟨fun hk hrot hf => ?_, fun hk => waveCell_stash k.cols i j hk hstash, fun hk => ?_, fun hk hf => waveCell_u k.cols i j hk hf hcells,
      fun hk => ?_, fun hk hf => waveCell_hwset k.cols i j hk hf hcells⟩
    · obtain ⟨hsame, hsum⟩ := waveCell_a k.cols (h := h) i j hk hrot hf
      rw [hsum]
      refine ⟨congrArg (fun c => (Tbl.get? c (1024 * (i % 64) + j % 1024)).getD Cell.reset) hsame, sum_setSum j hsums _, fun q hq => sum_setSum_ne j q _ hq⟩
    · obtain ⟨hsum, hcell⟩ := waveCell_g k.cols (h := h) i j hk hcells
      rw [hsum]
      exact ⟨sum_setSum i hsums _, hcell⟩
    · obtain ⟨hcell, hsum⟩ := waveCell_ux k.cols (h := h) i j hk hcells
      rw [hsum]
      exact ⟨hcell, sum_setSum _ hsums _⟩
  · exact fun hst htag hk hdone hpass => exec_stashValid hok hfr hn hmem hslot hst htag hk hdone hpass
  · exact fun hst hk hdx hdone hleft => exec_stashFree hfr hn hmem hslot hst hk hdx hdone hleft
  · exact ⟨rfl, rfl, southTime_spec hok hi hj, dxTime_spec hok hi, lastTime_one⟩

end Sys2Proof.Machine
end

section
/-! PROOFS. Vector memory (O28, part 1): the checks of R206 where all pass, and what then runs. -/
namespace Sys2Proof.Machine

variable {s : State}

/-! ## Loops of actions that all pass -/

/-- A loop whose every step answers without a change of state: an answer for each element, and no other. -/
theorem mapM_ok {α β : Type} {f : α → Act β} {P : α → β → Prop} {l : List α} (h : ∀ a ∈ l, ∃ b, f a s = .ok (b, s) ∧ P a b) :
    ∃ bs, l.mapM f s = .ok (bs, s) ∧ (∀ a ∈ l, ∃ b ∈ bs, P a b) ∧ ∀ b ∈ bs, ∃ a ∈ l, P a b := by
  induction l with
  | nil => exact ⟨[], rfl, by simp, by simp⟩
  | cons a l ih =>
    obtain ⟨b, hb, hP⟩ := h a (by simp)
    obtain ⟨bs, hbs, hto, hfrom⟩ := ih fun x hx => h x (by simp [hx])
    refine ⟨b :: bs, ?_, List.forall_mem_cons.2 ⟨⟨b, by simp, hP⟩, fun x hx => ?_⟩, List.forall_mem_cons.2 ⟨⟨a, by simp, hP⟩, fun y hy => ?_⟩⟩
    · rw [List.mapM_cons, act_bind_ok hb, act_bind_ok hbs]
      rfl
    · obtain ⟨y, hy, hxy⟩ := hto x hx
      exact ⟨y, List.mem_cons_of_mem _ hy, hxy⟩
    · obtain ⟨x, hx, hxy⟩ := hfrom y hy
      exact ⟨x, List.mem_cons_of_mem _ hx, hxy⟩

theorem forM_ok {α : Type} {f : α → Act Unit} {l : List α} (h : ∀ a ∈ l, f a s = .ok ((), s)) : l.forM f s = .ok ((), s) := by
  induction l with
  | nil => rfl
  | cons a l ih => exact (act_bind_ok (h a (by simp))).trans (ih fun x hx => h x (by simp [hx]))

/-! ## The pages of an access -/

/-- The pages of the elements are listed by number, and each number once has an element of it. -/
theorem mem_firstPages (es : List VElem) : ∀ e ∈ es, ∃ x ∈ firstPages es, x.1 = e.va / 65536 := by
  induction es using List.reverseRecOn with
  | nil => simp
  | append_singleton es e ih =>
    intro e' he'
    unfold firstPages at ih ⊢
    rw [List.foldl_append, List.foldl_cons, List.foldl_nil]
    rcases List.mem_append.1 he' with he' | he'
    · obtain ⟨x, hx, hn⟩ := ih e' he'
      refine ⟨x, ?_, hn⟩
      split
      · exact hx
      · exact List.mem_append_left _ hx
    · obtain rfl := List.mem_singleton.1 he'
      split
      · rename_i hany
        obtain ⟨x, hx, hn⟩ := List.any_eq_true.1 hany
        exact ⟨x, hx, of_decide_eq_true hn⟩
      · exact ⟨_, List.mem_append_right _ (List.mem_singleton_self _), rfl⟩

/-- Pages that all translate, by number, to local memory. -/
structure PagesOk (s : State) (info : Nat → PageInfo) (es : List VElem) (ps : List VPage) : Prop where
  hit : ∀ p ∈ ps, p.x = .ok (info p.num)
  memory : ∀ p ∈ ps, IsMemory s (info p.num).pa
  here : ∀ p ∈ ps, (info p.num).remote = none
  listed : ∀ e ∈ es, ∃ p ∈ ps, p.num = e.va / 65536

section Pages
variable {info : Nat → PageInfo} {es : List VElem} {ps : List VPage}

theorem pageOfElem_ok (h : PagesOk s info es ps) {e : VElem} (he : e ∈ es) : pageOfElem ps e = some (info (e.va / 65536)) := by
  obtain ⟨p, hp, hn⟩ := h.listed e he
  obtain ⟨q, hq⟩ := Option.isSome_iff_exists.1 (List.find?_isSome (p := fun p : VPage => decide (p.num = e.va / 65536)).2 ⟨p, hp, by simpa using hn⟩)
  have hnum : q.num = e.va / 65536 := by simpa using List.find?_some hq
  rw [pageOfElem, hq]
  dsimp only
  rw [h.hit q (List.mem_of_find?_eq_some hq), hnum]

theorem here_of_elem (h : PagesOk s info es ps) {e : VElem} (he : e ∈ es) : (info (e.va / 65536)).remote = none := by
  obtain ⟨p, hp, hn⟩ := h.listed e he
  rw [← hn]
  exact h.here p hp

/-- The part of the checks that R206 makes of every page. -/
def PagesPass (s : State) (rights : BitVec 3) (p0 : PageInfo) (info : Nat → PageInfo) (es : List VElem) : Prop := ∀ x ∈ firstPages es,
  (∃ ipa e1, stage1 s (s.vfOf s.cur.slot) (BitVec.ofNat 64 x.2) rights = .ok (ipa, e1) ∧
    (pageOf e1).ord = p0.ord ∧ (pageOf e1).cohr = p0.cohr ∧ (pageOf e1).fmt = p0.fmt ∧ (pageOf e1).blk = p0.blk) ∧
  translateFull s (s.vfOf s.cur.slot) (BitVec.ofNat 64 x.2) rights = .ok (info x.1) ∧ IsMemory s (info x.1).pa ∧ (info x.1).remote = none

/-- The first pass over the pages: attributes as at A. -/
def pageAnswer (p0 : PageInfo) (x : Nat × Nat) (y : Nat × Nat × PageInfo) : Prop :=
  y.1 = x.1 ∧ y.2.1 = x.2 ∧ y.2.2.ord = p0.ord ∧ y.2.2.cohr = p0.cohr ∧ y.2.2.fmt = p0.fmt ∧ y.2.2.blk = p0.blk

theorem vPages_ok {p0 : PageInfo} {rights : BitVec 3} (h : PagesPass s rights p0 info es) :
    ∃ ps, vPages p0 rights es s = .ok (ps, s) ∧ PagesOk s info es ps := by
  obtain ⟨firsts, hfirsts, hto, hfrom⟩ := mapM_ok (s := s) (l := firstPages es) (P := pageAnswer p0)
    (f := fun (n, va) => do
      let s1 ← get
      let (_, e1) ← xl (stage1 s1 (s.vfOf s.cur.slot) (BitVec.ofNat 64 va) rights) (BitVec.ofNat 64 va)
      pure (n, va, pageOf e1)) fun ⟨n, va⟩ hx => by
      obtain ⟨⟨ipa, e1, h1, hattr⟩, -⟩ := h _ hx
      refine ⟨(n, va, pageOf e1), ?_, rfl, rfl, hattr⟩
      dsimp only at h1 ⊢
      rw [act_bind_get, h1]
      rfl
  have hsame : firsts.find? (fun (_, _, p) => p.ord != p0.ord || p.cohr != p0.cohr || p.fmt != p0.fmt || p.blk != p0.blk) = none :=
    List.find?_eq_none.2 fun y hy => by
      obtain ⟨x, -, -, -, hord, hcohr, hfmt, hblk⟩ := hfrom y hy
      simp [hord, hcohr, hfmt, hblk]
  have hhit : ∀ y ∈ firsts, translateFull s (s.vfOf s.cur.slot) (BitVec.ofNat 64 y.2.1) rights = .ok (info y.1) ∧
      IsMemory s (info y.1).pa ∧ (info y.1).remote = none := fun y hy => by
    obtain ⟨x, hx, hn, hva, -⟩ := hfrom y hy
    rw [hn, hva]
    exact (h x hx).2
  refine ⟨firsts.map (fun (n, va, p) => ⟨n, va, p, translateFull s (s.vfOf s.cur.slot) (BitVec.ofNat 64 va) rights⟩), ?_, ?_, ?_, ?_, ?_⟩
  · rw [vPages, act_bind_curVf]
    refine (act_bind_ok hfirsts).trans ?_
    rw [hsame]
    rfl
  · exact List.forall_mem_map.2 fun y hy => (hhit y hy).1
  · exact List.forall_mem_map.2 fun y hy => (hhit y hy).2.1
  · exact List.forall_mem_map.2 fun y hy => (hhit y hy).2.2
  · intro e he
    obtain ⟨x, hx, hn⟩ := mem_firstPages es e he
    obtain ⟨y, hy, hyn, -⟩ := hto x hx
    exact ⟨_, List.mem_map_of_mem hy, hyn.trans hn⟩

theorem vBanks_ok (h : PagesOk s info es ps) (hst : s.cur.staged = none) : vBanks ps s = .ok ((), s) := by
  refine forM_ok fun p hp => ?_
  rw [h.hit p hp]
  dsimp only
  rw [act_bind_get, hst, if_neg (by simp)]
  exact checkBank_isMemory (h.memory p hp) _

theorem find_of_hits (h : PagesOk s info es ps) {f : VPage → Bool} (hf : ∀ p i, p.x = .ok i → f p = false) : ps.find? f = none :=
  List.find?_eq_none.2 fun p hp => by simp [hf p _ (h.hit p hp)]

end Pages

/-! ## The form up to its access -/

/-- The index tile that an addressing mode reads. -/
def VMode.uses : VMode → List Dest
  | .contiguous => []
  | .strided _ => []
  | .indexed vi => [.tile vi]

theorem staged_none (h : ∀ x ∈ s.cur.staging, x.1 ≠ s.cur.pc) : s.cur.staged = none := by
  rw [Context.staged, List.find?_eq_none.2 fun x hx => by simpa using h x hx]
  rfl

section Form
variable {load scatter : Bool} {md : VMode} {disp : BitVec 9} {vd msk : BitVec 4} {mz : Bool} {ty as : BitVec 3} {pi : Bool} (hw : s.cur.shape.w = floatW ty)
  (hfree : TilesFree s (.tile vd :: md.uses ++ maskUse msk)) (hacq : NoAcquire s)
include hw hfree hacq

/-- No element is active: nothing is accessed (R205). -/
theorem vmemForm_empty (hacts : s.cur.actives msk = []) : vmemForm load scatter md disp vd msk mz ty as pi s = (do
    if load then vLoadIssue vd msk mz ty 0 [] []
    vDone as pi) s := by
  unfold vmemForm
  rw [act_bind_ok (checkWidth_ok hw)]
  refine (act_bind_ok (awaitTiles_ok hfree)).trans ?_
  rw [act_bind_ok (awaitAcquire_of_noAcquire hacq), act_bind_get]
  dsimp only
  rw [hacts]
  exact congrFun (if_pos rfl) s

/-- Every check passes: what is left is the access (R206). -/
theorem vmemForm_access {a : Word} {p0 : PageInfo} {info : Nat → PageInfo} (ha : s.cur.a[as.toNat]'as.isLt + 32 * disp.signExtend 64 = a)
    (hacts : s.cur.actives msk ≠ []) (hacc : VecAccess s (if load then 1 else 2) a p0 (vecElems s md msk a p0) info)
    (hwhole : load = true ∨ isBfp p0.fmt = false ∨ scatter = false ∧ partialBlock p0 (vecElems s md msk a p0) = none) :
    ∃ ps, PagesOk s info (vecElems s md msk a p0) ps ∧ vmemForm load scatter md disp vd msk mz ty as pi s = (do
      if load then vLoad vd msk mz ty p0.fmt ps (vecElems s md msk a p0) else vStore scatter vd ty p0 ps (vecElems s md msk a p0)
      vDone as pi) s := by
  obtain ⟨⟨ipa, e1, h1, rfl⟩, hplace, hpages, hslot, -, hst⟩ := hacc
  obtain ⟨ps, hps, hok⟩ := vPages_ok hpages
  refine ⟨ps, hok, ?_⟩
  have haligned : (vecElems s md msk a (pageOf e1)).find? (·.misaligned) = none := List.find?_eq_none.2 fun e he => by simp [(hplace e he).1]
  have hinside : (vecElems s md msk a (pageOf e1)).find? (·.beyond) = none := List.find?_eq_none.2 fun e he => by simp [(hplace e he).2]
  have hbad : (if (load || !isBfp (pageOf e1).fmt) = true then none
      else if scatter = true then (vecElems s md msk a (pageOf e1)).head? else partialBlock (pageOf e1) (vecElems s md msk a (pageOf e1))) = none := by
    rcases hwhole with h | h | ⟨h, hp⟩
    · rw [if_pos (by simp [h])]
    · rw [if_pos (by simp [h])]
    · split
      · rfl
      · rw [h, if_neg (by simp), hp]
  have helems : (s.cur.actives msk).map (fun k => vElem (pageOf e1) s.cur.shape.w k (vBase s.cur md a k).1 (vBase s.cur md a k).2) =
      vecElems s md msk a (pageOf e1) := rfl
  unfold vmemForm
  rw [act_bind_ok (checkWidth_ok hw)]
  refine (act_bind_ok (awaitTiles_ok hfree)).trans ?_
  rw [act_bind_ok (awaitAcquire_of_noAcquire hacq), act_bind_get]
  dsimp only
  rw [ha, if_neg (by simpa using hacts), act_bind_curVf, h1]
  dsimp only [unmappedElems, raiseMisaligned, List.find?_nil, xl]
  rw [act_bind_pure, act_bind_pure]
  dsimp only
  rw [helems, haligned]
  dsimp only
  rw [act_bind_ok hps, hinside]
  dsimp only
  rw [hbad]
  dsimp only
  rw [act_bind_ok (vBanks_ok hok (staged_none hst)), act_bind_get, if_pos (by rw [staged_none hst]; rfl),
    act_bind_ok (awaitRequestSlots_slotFree hslot _), find_of_hits hok]
  intro p i hp
  rw [hp]

end Form
end Sys2Proof.Machine
end

section
/-! PROOFS. Vector memory (O28, part 2): a load outstanding for its tile (R205, R206). -/
namespace Sys2Proof.Machine

variable {s : State}

/-! ## The tile that a load starts from -/

/-- The tile before a load lands: MZ has made its inactive elements zero (R205). -/
def State.loadBase (s : State) (vd msk : BitVec 4) (mz : Bool) : Tile :=
  (writeElems s.cur.shape.w (fun _ => false) mz (fun _ r => (0, r)) (s.cur.shape.poss.filter (fun k => !s.cur.active msk k)) (s.cur.tile vd) rneEnv).1

section Base
variable {w : Nat} {vd msk : BitVec 4} (mz : Bool) (hwidth : s.cur.shape.w = w) (hw : 1 ≤ w) (hn : s.cur.shape.size * w ≤ 2048)
include hwidth hw hn

omit hwidth hw in
theorem loadBase_inside {j : Nat} (hj : j ∈ s.cur.shape.poss.filter (fun k => !s.cur.active msk k)) : 8 * w * j + 8 * w ≤ 16384 :=
  elem_inside (List.mem_range.1 (List.mem_filter.1 hj).1) hn

theorem elemAt_loadBase {k : Nat} (hk : k < s.cur.shape.size) :
    elemAt (s.loadBase vd msk mz) w k = if mz = true ∧ s.cur.active msk k = false then 0 else elemAt (s.cur.tile vd) w k := by
  have hin : ∀ j ∈ s.cur.shape.poss.filter (fun k => !s.cur.active msk k), 8 * w * j + 8 * w ≤ 16384 := fun j hj => loadBase_inside hn hj
  rw [State.loadBase, hwidth]
  by_cases ha : s.cur.active msk k = true
  · rw [if_neg (by simp [ha])]
    exact (writeElems_other _ _ _ hw hin _ _).1 k (by simp [ha])
  · have hmem : k ∈ s.cur.shape.poss.filter (fun k => !s.cur.active msk k) := List.mem_filter.2 ⟨List.mem_range.2 hk, by simpa using ha⟩
    have hnd : (s.cur.shape.poss.filter (fun k => !s.cur.active msk k)).Nodup := List.nodup_range.filter _
    obtain ⟨pre, post, hsplit⟩ := List.append_of_mem hmem
    rw [hsplit] at hin hnd ⊢
    obtain ⟨-, hpost, hdis⟩ := List.nodup_append.1 hnd
    rw [writeElems_elem _ _ _ hw hin (fun h => hdis k h k (by simp) rfl) (List.nodup_cons.1 hpost).1, if_neg (by simp)]
    simp [ha]

theorem loadBase_above {b : Nat} (hb : 8 * w * s.cur.shape.size ≤ b) : (s.loadBase vd msk mz).getLsbD b = (s.cur.tile vd).getLsbD b := by
  rw [State.loadBase, hwidth]
  refine (writeElems_other _ _ _ hw (fun j hj => loadBase_inside hn hj) _ _).2 b fun k hk => ?_
  have : 8 * w * (k + 1) ≤ 8 * w * s.cur.shape.size := Nat.mul_le_mul_left _ (List.mem_range.1 (List.mem_filter.1 hk).1)
  rw [Nat.mul_succ] at this
  omega

end Base

/-! ## The issue of a load -/

/-- Nothing is staged for the instruction: there is nothing to drop. -/
theorem setStaged_none {c : Context} (h : ∀ x ∈ c.staging, x.1 ≠ c.pc) : c.setStaged none = c := by
  rw [Context.setStaged, List.filter_eq_self.2 fun x hx => by simpa using h x hx, List.append_nil]

/-- The stochastic state after n draws (R107). -/
theorem seed_after (n : Nat) : (if fieldN s.cur.fcsr 2 0 = 5 then (List.range n).foldl (fun z _ => nextSeed z) (s.cur.fcsr.extractLsb' 32 32)
    else s.cur.fcsr.extractLsb' 32 32) = s.seedAt n := by
  rw [fcsr_mode, List.foldl_const, List.length_range]
  rfl

variable {vd msk : BitVec 4} {mz : Bool} {ty as : BitVec 3} {pi : Bool} {fmt : BitVec 4}

/-- The context of a load that is outstanding, before the instruction is done. -/
def State.loadOut (s : State) (vd : BitVec 4) (ty : BitVec 3) (fmt : BitVec 4) (base : Tile) (els : List ElemAccess) : Context :=
  { s.cur with
    pend := s.cur.pend ++ [⟨s.nextId, .tile vd, s.cycle + s.latency 9 8, .vload base [] els ⟨fmt, ty, s.cur.shape.w, s.rmode, s.cur.fcsr.extractLsb' 32 32⟩, none⟩]
    fcsr := s.seedAt (if movesBits fmt ty then 0 else els.length) ++ s.cur.fcsr.extractLsb' 0 32 }

theorem vLoadIssue_ok (hst : ∀ x ∈ s.cur.staging, x.1 ≠ s.cur.pc) (els : List ElemAccess) : vLoadIssue vd msk mz ty fmt [] els s =
    .ok ((), { s with cur := s.loadOut vd ty fmt (s.loadBase vd msk mz) els, nextId := s.nextId + 1 }) := by
  have hctx : (s.loadOut vd ty fmt (s.loadBase vd msk mz) els).setStaged none = s.loadOut vd ty fmt (s.loadBase vd msk mz) els := setStaged_none hst
  have hdraws : els.length = ([] : List (Nat × Nat)).length + els.length := by simp
  rw [← hctx, State.loadOut, ← fcsr_mode, hdraws, ← seed_after]
  rfl

/-- The access of a load whose pages are all there and local, and the end of the instruction. -/
theorem vLoad_done (hst : ∀ x ∈ s.cur.staging, x.1 ≠ s.cur.pc) {info : Nat → PageInfo} {es : List VElem} {ps : List VPage} (h : PagesOk s info es ps) :
    (do
      vLoad vd msk mz ty fmt ps es
      vDone as pi) s = .ok ((), s.vecLoaded vd ty fmt (s.loadBase vd msk mz) (es.map (fun e => ⟨e.pos, elemPieces (info (e.va / 65536)) e, e.bit⟩)) as pi) := by
  have hnear : es.all (fun e => (pageOfElem ps e).any (fun i => i.remote.isNone)) = true := List.all_eq_true.2 fun e he => by
    rw [pageOfElem_ok h he]
    simp [here_of_elem h he]
  have haccess : es.map (VElem.access ps) = es.map (fun e => ⟨e.pos, elemPieces (info (e.va / 65536)) e, e.bit⟩) := List.map_congr_left fun e he => by
    rw [VElem.access, pageOfElem_ok h he]
    rfl
  have hload : vLoad vd msk mz ty fmt ps es s = vLoadIssue vd msk mz ty fmt [] (es.map (VElem.access ps)) s := by
    rw [vLoad, act_bind_get, staged_none hst]
    dsimp only
    rw [if_pos hnear]
    simp
  rw [haccess] at hload
  rw [act_bind_ok (hload.trans (vLoadIssue_ok hst _))]
  rfl

/-! ## Vector loads -/

variable {md : VMode} {disp : BitVec 9} (hw : s.cur.shape.w = floatW ty) (hfree : TilesFree s (.tile vd :: md.uses ++ maskUse msk))
include hw hfree

theorem load_empty (hacq : NoAcquire s) (hacts : s.cur.actives msk = []) (hst : ∀ x ∈ s.cur.staging, x.1 ≠ s.cur.pc) :
    runAct (vmemForm true false md disp vd msk mz ty as pi) s = .next (s.vecLoaded vd ty 0 (s.loadBase vd msk mz) [] as pi) := by
  refine runAct_ok ((vmemForm_empty hw hfree hacq hacts).trans ?_)
  refine (act_bind_ok (vLoadIssue_ok hst [])).trans ?_
  rfl

theorem load_spec {a : Word} {p0 : PageInfo} {info : Nat → PageInfo} (ha : s.cur.a[as.toNat]'as.isLt + 32 * disp.signExtend 64 = a)
    (hacts : s.cur.actives msk ≠ []) (hacc : VecAccess s 1 a p0 (vecElems s md msk a p0) info) :
    runAct (vmemForm true false md disp vd msk mz ty as pi) s = .next (s.vecLoaded vd ty p0.fmt (s.loadBase vd msk mz)
      ((vecElems s md msk a p0).map (fun e => ⟨e.pos, elemPieces (info (e.va / 65536)) e, e.bit⟩)) as pi) := by
  obtain ⟨-, -, -, -, hacq, hst⟩ := id hacc
  obtain ⟨ps, hps, hrun⟩ := vmemForm_access (load := true) (scatter := false) (mz := mz) (pi := pi) hw hfree hacq ha hacts hacc (.inl rfl)
  exact runAct_ok (hrun.trans (vLoad_done hst hps))

end Sys2Proof.Machine
end

section
/-! PROOFS. Vector memory (O28, part 3): stores in the hold buffer (R116, R205 to R208), and the obligation. -/
namespace Sys2Proof.Machine

variable {s : State}

/-! ## Elements of a page that is not BFP -/

theorem fmtOfTy_bytes (t : Nat) : (fmtOfTy t).width / 8 = 1 ∨ (fmtOfTy t).width / 8 = 2 ∨ (fmtOfTy t).width / 8 = 4 := by
  unfold fmtOfTy
  split <;> decide

/-- An access within one sector is one piece. -/
theorem sectorCuts_one {va n : Nat} (hn : 1 ≤ n) (hfit : va % 32 + n ≤ 32) (f : Nat) : sectorCuts va (f + 1) n = [(va, n)] := by
  obtain ⟨k, rfl⟩ := Nat.exists_eq_add_of_le' hn
  have hmin : min (k + 1) (32 - va % 32) = k + 1 := by omega
  rw [sectorCuts, hmin, Nat.sub_self]
  · cases f <;> rfl
  · omega

section Elements
variable {md : VMode} {msk : BitVec 4} {a : Word} {p0 : PageInfo} {e : VElem}

/-- An aligned element of a page that is not BFP lies in one sector. -/
theorem vecElem_sector {ty : BitVec 3} (hw : s.cur.shape.w = floatW ty) (hf : isBfp p0.fmt = false) (he : e ∈ vecElems s md msk a p0) (hal : e.misaligned = false) :
    1 ≤ e.len ∧ e.va % 32 + e.len ≤ 32 ∧ e.exp = none := by
  obtain ⟨k, -, rfl⟩ := List.mem_map.1 he
  have hlen : fmtBytes p0.fmt s.cur.shape.w = 1 ∨ fmtBytes p0.fmt s.cur.shape.w = 2 ∨ fmtBytes p0.fmt s.cur.shape.w = 4 := by
    unfold fmtBytes
    split
    · rw [hw]
      exact fmtOfTy_bytes _
    · exact fmtOfTy_bytes _
  simp only [vElem, hf, Bool.false_eq_true, if_false] at hal ⊢
  generalize (vBase s.cur md a k).1 = base at hal ⊢
  generalize (vBase s.cur md a k).2 = i at hal ⊢
  generalize fmtBytes p0.fmt s.cur.shape.w = n at hlen hal ⊢
  have hal : base % n = 0 := by simpa using hal
  rcases hlen with rfl | rfl | rfl <;> refine ⟨by omega, by omega, trivial⟩

theorem vecElem_pos (he : e ∈ vecElems s md msk a p0) : e.pos ∈ s.cur.actives msk := by
  obtain ⟨k, hk, rfl⟩ := List.mem_map.1 he
  unfold vElem
  dsimp only
  split <;> exact hk

/-- The positions of the elements are the active ones, in order. -/
theorem vecElems_pos : (vecElems s md msk a p0).map (·.pos) = s.cur.actives msk := by
  rw [vecElems, List.map_map]
  refine List.map_id'' (fun k => ?_) _
  dsimp only [Function.comp, vElem]
  split <;> rfl

end Elements

theorem elemPieces_one {e : VElem} (hn : 1 ≤ e.len) (hfit : e.va % 32 + e.len ≤ 32) (hexp : e.exp = none) (i : PageInfo) : elemPieces i e =
    [⟨i.pa / 65536 * 65536 + e.va % 65536, e.len, { i with pa := i.pa / 65536 * 65536 + e.va % 65536 }⟩] := by
  rw [elemPieces, sectorCuts_one hn hfit, hexp]
  rfl

/-- Nothing blocks where every element is translated. -/
theorem readyElems_all {hit so : VElem → Bool} {es : List VElem} (h : ∀ e ∈ es, hit e = true) : readyElems hit so [] es = es := by
  induction es with
  | nil => rfl
  | cons e es ih =>
    rw [readyElems, if_pos (by simp [h e])]
    rw [ih fun x hx => h x (by simp [hx])]

/-! ## The values of a store (R116) -/

section Values
variable {draws : Bool} {msk : BitVec 4} {f : Nat → REnv → Nat × REnv}

/-- Values taken in element order, each in its own rounding state. -/
theorem values_range (hf : ∀ k, Accrues draws (f k)) (n : Nat) :
    ((List.range n).filter (s.cur.active msk)).foldl (fun acc k => (acc.1 ++ [(k, (f k acc.2).1)], (f k acc.2).2)) (([] : List (Nat × Nat)), envOf s.cur.fcsr) =
      (((List.range n).filter (s.cur.active msk)).map (fun k => (k, (f k (s.elemEnv draws msk k)).1)),
        envAfter (s.cur.active msk) f (List.range n) (envOf s.cur.fcsr)) := by
  induction n with
  | zero => rfl
  | succ n ih =>
    have hval : (f n (envAfter (s.cur.active msk) f (List.range n) (envOf s.cur.fcsr))).1 = (f n (s.elemEnv draws msk n)).1 := by
      rw [envAfter_range hf, hf n]
      rfl
    rw [envAfter_range_succ, List.range_succ, List.filter_append, List.foldl_append, ih]
    by_cases ha : s.cur.active msk n = true
    · simp [ha, hval]
    · simp [ha]

theorem tbl_get_keys {l : List Nat} (v : Nat → Nat) {k : Nat} (hk : k ∈ l) : Tbl.get? (l.map (fun k => (k, v k))) k = some (v k) := by
  induction l with
  | nil => simp at hk
  | cons j l ih =>
    rw [List.map_cons, Tbl.get?]
    by_cases h : j = k
    · rw [if_pos h, h]
    · rw [if_neg h]
      exact ih ((List.mem_cons.1 hk).resolve_left (Ne.symm h))

end Values

section StoreValues
variable {md : VMode} {vd msk : BitVec 4} {a : Word} {p0 : PageInfo} {ty : BitVec 3}

/-- An element as the page holds it, with the flags of its conversion. -/
def outOf (s : State) (p0 : PageInfo) (ty : BitVec 3) (vd msk : BitVec 4) (k : Nat) : Nat × REnv :=
  convOut p0.fmt ty (elemAt (s.cur.tile vd) (floatW ty) k) (s.envAt msk k)

theorem accrues_convOut (fmt : BitVec 4) (ty : BitVec 3) (v : Nat) : Accrues (!movesBits fmt ty) (convOut fmt ty v) := by
  unfold convOut
  cases movesBits fmt ty with
  | true => exact accrues_keep v
  | false => exact accrues_roundFmt _ _ _

/-- The draws of an element that moves as bits do not matter. -/
theorem convOut_env {k : Nat} (hk : k ≤ s.cur.shape.size) (v : Nat) : (convOut p0.fmt ty v (s.elemEnv (!movesBits p0.fmt ty) msk k)).1 = (convOut p0.fmt ty v (s.envAt msk k)).1 ∧
    (convOut p0.fmt ty v (s.elemEnv (!movesBits p0.fmt ty) msk k)).2.flags = (convOut p0.fmt ty v (s.envAt msk k)).2.flags := by
  cases hm : movesBits p0.fmt ty with
  | true => simp [convOut, hm, State.elemEnv, State.envAt]
  | false =>
    rw [Bool.not_false, elemEnv_draws hk]
    exact ⟨rfl, rfl⟩

theorem storeValues_eq : storeValues s.cur p0.fmt ty vd (vecElems s md msk a p0) =
    ((s.cur.actives msk).map (fun k => (k, (convOut p0.fmt ty (elemAt (s.cur.tile vd) (floatW ty) k) (s.elemEnv (!movesBits p0.fmt ty) msk k)).1)),
      envAfter (s.cur.active msk) (fun k => convOut p0.fmt ty (elemAt (s.cur.tile vd) (floatW ty) k)) s.cur.shape.poss (envOf s.cur.fcsr)) := by
  have hfold : storeValues s.cur p0.fmt ty vd (vecElems s md msk a p0) = ((vecElems s md msk a p0).map (·.pos)).foldl (fun acc k =>
      (acc.1 ++ [(k, (convOut p0.fmt ty (elemAt (s.cur.tile vd) (floatW ty) k) acc.2).1)], (convOut p0.fmt ty (elemAt (s.cur.tile vd) (floatW ty) k) acc.2).2))
      (([] : List (Nat × Nat)), envOf s.cur.fcsr) := by
    rw [List.foldl_map]
    rfl
  rw [vecElems_pos] at hfold
  exact hfold.trans (values_range (fun k => accrues_convOut _ _ _) s.cur.shape.size)

theorem storeValues_spec : let r := storeValues s.cur p0.fmt ty vd (vecElems s md msk a p0)
    (∀ e ∈ vecElems s md msk a p0, Tbl.get? r.1 e.pos = some (outOf s p0 ty vd msk e.pos).1) ∧
    putEnv s.cur.fcsr r.2 = s.fcsrAfter (if movesBits p0.fmt ty then 0 else (vecElems s md msk a p0).length)
      ((vecElems s md msk a p0).foldl (fun acc e => acc ||| (outOf s p0 ty vd msk e.pos).2.flags) 0) := by
  intro r
  have hr : r = _ := storeValues_eq
  rw [hr]
  constructor
  · intro e he
    have hpos := vecElem_pos he
    refine (tbl_get_keys _ hpos).trans (congrArg some ?_)
    exact (convOut_env (mem_actives.1 hpos).1.le _).1
  · have hlen : (vecElems s md msk a p0).length = (s.cur.actives msk).length := by rw [← vecElems_pos (md := md) (a := a) (p0 := p0), List.length_map]
    have hflags : (vecElems s md msk a p0).foldl (fun acc e => acc ||| (outOf s p0 ty vd msk e.pos).2.flags) 0 =
        s.orFlags msk (fun k => (convOut p0.fmt ty (elemAt (s.cur.tile vd) (floatW ty) k) (s.elemEnv (!movesBits p0.fmt ty) msk k)).2.flags) := by
      rw [← List.foldl_map (f := fun e : VElem => e.pos) (g := fun acc k => acc ||| (outOf s p0 ty vd msk k).2.flags), vecElems_pos]
      exact (orFlags_congr fun k hk => (convOut_env hk.le _).2).symm
    dsimp only
    rw [Shape.poss, envAfter_range fun k => accrues_convOut p0.fmt ty (elemAt (s.cur.tile vd) (floatW ty) k), hflags, hlen]
    cases movesBits p0.fmt ty <;> rfl

end StoreValues

end Sys2Proof.Machine
end

section
/-! PROOFS. Vector memory (O28, part 4): the records of a store (R116, R118, R147, R206), and the obligation. -/
namespace Sys2Proof.Machine

variable {s : State}

/-! ## Records that enter the hold buffer -/

/-- The state with another hold buffer and another next number. -/
def State.withHold (s : State) (h : List StoreRec) (n : Nat) : State := { s with hold := h, nextId := n }

theorem holdUnit_withHold (va : Word) (ps : List (Piece × List Byte)) (h : List StoreRec) (n : Nat) : holdUnit va none none ps (s.withHold h n) =
    .ok (n, s.withHold (h ++ ps.zipIdx.map (fun x =>
      { StoreRec.new n s.cur.ref (s.locOf s.cur) x.1.1.pa x.1.2 x.1.1.page with req := n + 1 + x.2, va := va })) (n + 1 + ps.length)) := rfl

/-- A loop whose every step puts one record in the hold buffer and uses two numbers. -/
theorem forM_records {α : Type} {f : α → Act Unit} {l : List α} (mk : α → Nat → StoreRec)
    (hf : ∀ x ∈ l, ∀ h n, f x (s.withHold h n) = .ok ((), s.withHold (h ++ [mk x n]) (n + 2))) (h : List StoreRec) (n : Nat) :
    l.forM f (s.withHold h n) = .ok ((), s.withHold (h ++ l.zipIdx.map (fun x => mk x.1 (n + 2 * x.2))) (n + 2 * l.length)) := by
  induction l generalizing h n with
  | nil => simp
  | cons x l ih =>
    refine (act_bind_ok (hf x (by simp) h n)).trans ((ih (fun y hy => hf y (by simp [hy])) _ _).trans ?_)
    have hnext : (l.zipIdx 1).map (fun y => mk y.1 (n + 2 * y.2)) = l.zipIdx.map (fun y => mk y.1 (n + 2 + 2 * y.2)) := by
      rw [List.zipIdx_succ, List.map_map]
      refine List.map_congr_left fun y _ => ?_
      dsimp only [Function.comp]
      rw [Nat.mul_succ, Nat.add_right_comm, Nat.add_assoc]
    rw [List.zipIdx_cons, List.map_cons, Nat.mul_zero, Nat.add_zero, hnext, List.append_assoc, List.singleton_append, List.length_cons, Nat.mul_succ,
      Nat.add_right_comm n 2, Nat.add_assoc]
    rfl

/-- An action that puts records of a kind in the hold buffer, and changes nothing else. -/
def Records (s : State) (Q : StoreRec → Prop) (f : Act Unit) : Prop :=
  ∀ h n, ∃ recs k, f (s.withHold h n) = .ok ((), s.withHold (h ++ recs) (n + k)) ∧ ∀ r ∈ recs, Q r

theorem records_none (Q : StoreRec → Prop) : Records s Q (pure ()) := fun h n => ⟨[], 0, by rw [List.append_nil]; rfl, by simp⟩

theorem records_forM {α : Type} {Q : StoreRec → Prop} {f : α → Act Unit} {l : List α} (hf : ∀ x ∈ l, Records s Q (f x)) : Records s Q (l.forM f) := by
  induction l with
  | nil => exact records_none Q
  | cons x l ih =>
    intro h n
    obtain ⟨recs, k, hrun, hQ⟩ := hf x (by simp) h n
    obtain ⟨recs', k', hrun', hQ'⟩ := ih (fun y hy => hf y (by simp [hy])) (h ++ recs) (n + k)
    refine ⟨recs ++ recs', k + k', (act_bind_ok hrun).trans (hrun'.trans ?_), fun r hr => (List.mem_append.1 hr).elim (hQ r) (hQ' r)⟩
    rw [List.append_assoc, Nat.add_assoc]

theorem records_holdUnit {Q : StoreRec → Prop} {va : Word} {ps : List (Piece × List Byte)}
    (hQ : ∀ p ∈ ps, ∀ r : StoreRec, r.by_ = s.cur.ref → r.ps = none → r.pa = p.1.pa → Q r) : Records s Q (do
      let _ ← holdUnit va none none ps
      pure ()) := fun h n => by
  refine ⟨_, 1 + ps.length, (act_bind_ok (holdUnit_withHold va ps h n)).trans (by rw [← Nat.add_assoc]; rfl), fun r hr => ?_⟩
  obtain ⟨x, hx, rfl⟩ := List.mem_map.1 hr
  exact hQ x.1 (List.fst_mem_of_mem_zipIdx hx) _ rfl rfl rfl

/-- R118: the records of a block lie on its page. -/
theorem records_holdBlock {info : PageInfo} {b : List VElem} (e : Nat) (ms : List Int) :
    Records s (fun r => r.by_ = s.cur.ref ∧ r.ps = none ∧ r.pa / 65536 = info.pa / 65536) (holdBlock info b e ms) := by
  have hpage : ∀ va, (info.pa / 65536 * 65536 + va % 65536) / 65536 = info.pa / 65536 := fun va => by omega
  cases b with
  | nil => exact records_none _
  | cons e0 b =>
    refine records_holdUnit fun p hp r hby hps hpa => ⟨hby, hps, ?_⟩
    rw [hpa]
    rcases List.mem_append.1 hp with hp | hp
    · obtain ⟨c, -, rfl⟩ := List.mem_map.1 hp
      exact hpage _
    · cases he : e0.exp with
      | none => simp [he] at hp
      | some x =>
        simp only [he, List.mem_singleton] at hp
        rw [hp]
        exact hpage _

/-! ## The access of a store -/

section Store
variable {scatter : Bool} {vd msk : BitVec 4} {ty as : BitVec 3} {pi : Bool} {p0 : PageInfo} {info : Nat → PageInfo} {ps : List VPage} {es : List VElem}

/-- The values of a store on a page that is not BFP, and the rounding state after them. -/
def storeVals (s : State) (p0 : PageInfo) (ty : BitVec 3) (vd : BitVec 4) (es : List VElem) : List (Nat × Nat) × REnv :=
  if isBfp p0.fmt then ([], envOf s.cur.fcsr) else storeValues s.cur p0.fmt ty vd es

/-- The blocks of a store on a BFP page, and the rounding state after them. -/
def storeBlks (s : State) (p0 : PageInfo) (ty : BitVec 3) (vd : BitVec 4) (es : List VElem) : List (List VElem × Nat × List Int) × REnv :=
  if isBfp p0.fmt then storeBlocks s.cur p0 ty vd (blockElems p0 es) else ([], envOf s.cur.fcsr)

/-- fcsr after a store. -/
def storeFcsr (s : State) (p0 : PageInfo) (ty : BitVec 3) (vd : BitVec 4) (es : List VElem) : Word :=
  putEnv s.cur.fcsr (if isBfp p0.fmt then (storeBlks s p0 ty vd es).2 else (storeVals s p0 ty vd es).2)

/-- Every page is there and local: all elements are performed now, the stochastic state follows, and the instruction is done. -/
theorem vStore_done (hst : ∀ x ∈ s.cur.staging, x.1 ≠ s.cur.pc) (h : PagesOk s info es ps) {recs : List StoreRec} {n : Nat}
    (hnow : vStoreNow p0 ps (storeVals s p0 ty vd es).1 (storeBlks s p0 ty vd es).1 es s =
      .ok ((), (s.withHold (s.hold ++ recs) (s.nextId + n)).shareRequests s.nextId)) :
    (do
      vStore scatter vd ty p0 ps es
      vDone as pi) s = .ok ((), s.vecStored recs n (storeFcsr s p0 ty vd es) as pi) := by
  have hsome : ∀ e ∈ es, (pageOfElem ps e).isSome = true := fun e he => by rw [pageOfElem_ok h he]; rfl
  have hmissing : es.any (fun e => (pageOfElem ps e).isNone) = false := List.any_eq_false.2 fun e he => by rw [pageOfElem_ok h he]; simp
  have hall : es.filter (fun e => !([] : List (Nat × Nat)).any (fun x => x.1 = e.pos)) = es := List.filter_eq_self.2 fun _ _ => rfl
  have hstore : vStore scatter vd ty p0 ps es s =
      .ok ((), { (s.withHold (s.hold ++ recs) (s.nextId + n)).shareRequests s.nextId with cur := { s.cur with fcsr := storeFcsr s p0 ty vd es } }) := by
    unfold vStore
    rw [act_bind_get, staged_none hst]
    dsimp only [Option.getD_none]
    rw [hall, hmissing]
    refine (act_bind_ok (forM_ok fun e he => ?_)).trans ?_
    · rw [pageOfElem_ok h he]
      dsimp only
      rw [here_of_elem h he, if_neg (by simp)]
      rfl
    · rw [Bool.false_and, if_neg (by simp), readyElems_all hsome]
      refine (act_bind_ok hnow).trans ?_
      refine congrArg (fun c : Context => (Except.ok ((), { (s.withHold (s.hold ++ recs) (s.nextId + n)).shareRequests s.nextId with cur := c }) :
        Except Stop (Unit × State))) ?_
      exact setStaged_none (c := { s.cur with fcsr := storeFcsr s p0 ty vd es }) hst
  rw [act_bind_ok hstore]
  rfl

/-! ## A page that is not BFP -/

/-- The address of an element on its page. -/
def elemPa (info : Nat → PageInfo) (e : VElem) : Nat := (info (e.va / 65536)).pa / 65536 * 65536 + e.va % 65536

/-- The record of an element (R116, R147). -/
def elemRec (s : State) (info : Nat → PageInfo) (v : Nat) (e : VElem) (n : Nat) : StoreRec :=
  { StoreRec.new n s.cur.ref (s.locOf s.cur) (elemPa info e) (natBytes v e.len) { info (e.va / 65536) with pa := elemPa info e } with
    req := n + 1, va := BitVec.ofNat 64 e.va }

theorem storeNow_elements (hf : isBfp p0.fmt = false) (h : PagesOk s info es ps) {vals : List (Nat × Nat)} {v : Nat → Nat}
    (hv : ∀ e ∈ es, Tbl.get? vals e.pos = some (v e.pos)) (hone : ∀ e ∈ es, 1 ≤ e.len ∧ e.va % 32 + e.len ≤ 32 ∧ e.exp = none)
    (blocks : List (List VElem × Nat × List Int)) : vStoreNow p0 ps vals blocks es s =
      .ok ((), (s.withHold (s.hold ++ es.zipIdx.map (fun x => elemRec s info (v x.1.pos) x.1 (s.nextId + 2 * x.2))) (s.nextId + 2 * es.length)).shareRequests s.nextId) := by
  have hloop := forM_records (s := s) (l := es) (fun e n => elemRec s info (v e.pos) e n)
    (f := fun e => match pageOfElem ps e with
      | some i => do
        let _ ← holdUnit (BitVec.ofNat 64 e.va) none none ((elemPieces i e).map (fun q => (q, natBytes ((Tbl.get? vals e.pos).getD 0) e.len)))
        pure ()
      | none => pure ()) (fun e he h' n => by
      obtain ⟨hlen, hfit, hexp⟩ := hone e he
      rw [pageOfElem_ok h he]
      dsimp only
      rw [elemPieces_one hlen hfit hexp, hv e he]
      rfl) s.hold s.nextId
  rw [vStoreNow, act_bind_get, hf, if_neg (by simp)]
  refine (act_bind_ok hloop).trans ?_
  rfl

/-! ## A BFP page -/

/-- The blocks of a store are made of its elements. -/
theorem mem_runsOf {b n : Nat} {es blk : List VElem} (h : blk ∈ runsOf b n es) : ∀ e ∈ blk, e ∈ es := by
  induction n generalizing es with
  | zero => simp [runsOf] at h
  | succ n ih =>
    unfold runsOf at h
    split at h
    · simp at h
    · rcases List.mem_cons.1 h with rfl | h
      · exact fun e he => List.mem_of_mem_take he
      · exact fun e he => List.mem_of_mem_drop (ih h e he)

theorem mem_storeBlocks {c : Context} {bs : List (List VElem)} : ∀ x ∈ (storeBlocks c p0 ty vd bs).1, x.1 ∈ bs := by
  induction bs using List.reverseRecOn with
  | nil => simp [storeBlocks]
  | append_singleton bs b ih =>
    intro x hx
    unfold storeBlocks at ih hx
    rw [List.foldl_append] at hx
    rcases List.mem_append.1 hx with hx | hx
    · exact List.mem_append_left _ (ih x hx)
    · rw [List.mem_singleton.1 hx]
      simp

theorem storeNow_blocks (hf : isBfp p0.fmt = true) (h : PagesOk s info es ps) (vals : List (Nat × Nat)) {blocks : List (List VElem × Nat × List Int)}
    (hb : ∀ x ∈ blocks, ∀ e ∈ x.1, e ∈ es) : ∃ recs n, vStoreNow p0 ps vals blocks es s =
      .ok ((), (s.withHold (s.hold ++ recs) (s.nextId + n)).shareRequests s.nextId) ∧
      ∀ r ∈ recs, r.by_ = s.cur.ref ∧ r.ps = none ∧ ∃ e ∈ es, r.pa / 65536 = (info (e.va / 65536)).pa / 65536 := by
  have hloop : Records s (fun r => r.by_ = s.cur.ref ∧ r.ps = none ∧ ∃ e ∈ es, r.pa / 65536 = (info (e.va / 65536)).pa / 65536)
      (blocks.forM (fun b => match b.1 with
        | [] => pure ()
        | e :: _ => if es.any (fun x => x.pos = e.pos) then (match pageOfElem ps e with
            | some i => holdBlock i b.1 b.2.1 b.2.2
            | none => pure ()) else pure ())) := by
    refine records_forM fun b hmem h' n => ?_
    cases hb1 : b.1 with
    | nil => exact records_none _ h' n
    | cons e rest =>
      have he : e ∈ es := hb b hmem e (by simp [hb1])
      dsimp only
      rw [if_pos (List.any_eq_true.2 ⟨e, he, by simp⟩), pageOfElem_ok h he]
      obtain ⟨recs, k, hrun, hQ⟩ := records_holdBlock (s := s) (info := info (e.va / 65536)) (b := e :: rest) b.2.1 b.2.2 h' n
      exact ⟨recs, k, hrun, fun r hr => ⟨(hQ r hr).1, (hQ r hr).2.1, e, he, (hQ r hr).2.2⟩⟩
  obtain ⟨recs, n, hrun, hQ⟩ := hloop s.hold s.nextId
  refine ⟨recs, n, ?_, hQ⟩
  rw [vStoreNow, act_bind_get, hf, if_pos rfl]
  refine (act_bind_ok hrun).trans ?_
  rfl

/-! ## Vector stores -/

variable {md : VMode} {disp : BitVec 9} {mz : Bool} (hw : s.cur.shape.w = floatW ty) (hfree : TilesFree s (.tile vd :: md.uses ++ maskUse msk))
include hw hfree

theorem store_empty (hacq : NoAcquire s) (hacts : s.cur.actives msk = []) :
    runAct (vmemForm false scatter md disp vd msk mz ty as pi) s = .next { s with cur := s.cur.accessed as pi } :=
  runAct_ok (vmemForm_empty hw hfree hacq hacts)

variable {a : Word} (ha : s.cur.a[as.toNat]'as.isLt + 32 * disp.signExtend 64 = a) (hacts : s.cur.actives msk ≠ [])
  (hacc : VecAccess s 2 a p0 (vecElems s md msk a p0) info)
include ha hacts hacc

theorem store_elements (hf : isBfp p0.fmt = false) :
    runAct (vmemForm false scatter md disp vd msk mz ty as pi) s = .next (s.vecStored
      ((vecElems s md msk a p0).zipIdx.map (fun x => elemRec s info (outOf s p0 ty vd msk x.1.pos).1 x.1 (s.nextId + 2 * x.2))) (2 * (vecElems s md msk a p0).length)
      (s.fcsrAfter (if movesBits p0.fmt ty then 0 else (vecElems s md msk a p0).length)
        ((vecElems s md msk a p0).foldl (fun acc e => acc ||| (outOf s p0 ty vd msk e.pos).2.flags) 0)) as pi) := by
  obtain ⟨-, hplace, -, -, hacq, hst⟩ := id hacc
  obtain ⟨ps, hps, hrun⟩ := vmemForm_access (load := false) (scatter := scatter) (mz := mz) (pi := pi) hw hfree hacq ha hacts hacc (.inr (.inl hf))
  obtain ⟨hvals, hfcsr⟩ := storeValues_spec (s := s) (md := md) (vd := vd) (msk := msk) (a := a) (p0 := p0) (ty := ty)
  have hv : storeVals s p0 ty vd (vecElems s md msk a p0) = storeValues s.cur p0.fmt ty vd (vecElems s md msk a p0) := if_neg (by simp [hf])
  have hnow := storeNow_elements (v := fun k => (outOf s p0 ty vd msk k).1) hf hps (vals := (storeVals s p0 ty vd (vecElems s md msk a p0)).1) (by rwa [hv])
    (fun e he => vecElem_sector hw hf he (hplace e he).1) (storeBlks s p0 ty vd (vecElems s md msk a p0)).1
  have hfinal : storeFcsr s p0 ty vd (vecElems s md msk a p0) = _ := (congrArg (putEnv s.cur.fcsr) ((if_neg (by simp [hf])).trans (congrArg Prod.snd hv))).trans hfcsr
  rw [← hfinal]
  exact runAct_ok (hrun.trans (vStore_done hst hps hnow))

theorem store_blocks (hf : isBfp p0.fmt = true) (hsc : scatter = false) (hwhole : partialBlock p0 (vecElems s md msk a p0) = none) :
    ∃ (recs : List StoreRec) (n : Nat) (fcsr : Word), runAct (vmemForm false scatter md disp vd msk mz ty as pi) s = .next (s.vecStored recs n fcsr as pi) ∧
      (∀ r ∈ recs, r.by_ = s.cur.ref ∧ r.ps = none ∧ ∃ e ∈ vecElems s md msk a p0, r.pa / 65536 = (info (e.va / 65536)).pa / 65536) := by
  obtain ⟨-, -, -, -, hacq, hst⟩ := id hacc
  obtain ⟨ps, hps, hrun⟩ := vmemForm_access (load := false) (scatter := scatter) (mz := mz) (pi := pi) hw hfree hacq ha hacts hacc (.inr (.inr ⟨hsc, hwhole⟩))
  have hb : ∀ x ∈ (storeBlks s p0 ty vd (vecElems s md msk a p0)).1, ∀ e ∈ x.1, e ∈ vecElems s md msk a p0 := fun x hx => by
    rw [storeBlks, if_pos hf] at hx
    exact mem_runsOf (mem_storeBlocks x hx)
  obtain ⟨recs, n, hnow, hQ⟩ := storeNow_blocks hf hps (storeVals s p0 ty vd (vecElems s md msk a p0)).1 hb
  exact ⟨recs, n, _, runAct_ok (hrun.trans (vStore_done hst hps hnow)), hQ⟩

end Store

/-! ## The obligation -/

/-- A vector instruction that accesses memory is the form of its mode, and its tiles are free. -/
theorem tilesFree_mode {vd msk : BitVec 4} {md : VMode} (hvd : TilesFree s (.tile vd :: maskUse msk)) (hidx : TilesFree s md.uses) :
    TilesFree s (.tile vd :: md.uses ++ maskUse msk) := fun d hd => by
  rcases List.mem_append.1 hd with hd | hd
  · rcases List.mem_cons.1 hd with rfl | hd
    · exact hvd _ (by simp)
    · exact hidx d hd
  · exact hvd d (List.mem_cons_of_mem _ hd)

theorem no_disp (x : Word) : x + 32 * (0 : BitVec 9).signExtend 64 = x := by simp

theorem tilesFree_nil : TilesFree s [] := fun d hd => by simp at hd

section Forms
variable {i : Instr} {md : VMode} {vd msk : BitVec 4} {mz pi : Bool} {ty as : BitVec 3} {a : Word}

/-- The three loads as forms (R205). -/
theorem exec_load (h : (∃ o : VA, o.vd = vd ∧ o.msk = msk ∧ o.mz = mz ∧ o.pi = pi ∧ o.ty = ty ∧ o.as = as ∧
      ((i = .vld o ∧ md = .contiguous ∧ a = s.cur.a[as.toNat]'as.isLt + 32 * o.off.signExtend 64) ∨
        (i = .vlds o ∧ md = .strided o.off ∧ a = s.cur.a[as.toNat]'as.isLt))) ∨
      (∃ o : VAIdx, o.vd = vd ∧ o.msk = msk ∧ o.mz = mz ∧ o.pi = pi ∧ o.ty = ty ∧ o.as = as ∧ i = .vgath o ∧ md = .indexed o.vi ∧
        TilesFree s [.tile o.vi] ∧ a = s.cur.a[as.toNat]'as.isLt)) :
    ∃ disp : BitVec 9, exec i s = runAct (vmemForm true false md disp vd msk mz ty as pi) s ∧ s.cur.a[as.toNat]'as.isLt + 32 * disp.signExtend 64 = a ∧
      TilesFree s md.uses := by
  obtain ⟨o, rfl, rfl, rfl, rfl, rfl, rfl, ⟨rfl, rfl, rfl⟩ | ⟨rfl, rfl, rfl⟩⟩ | ⟨o, rfl, rfl, rfl, rfl, rfl, rfl, rfl, rfl, hidx, rfl⟩ := h
  · exact ⟨o.off, rfl, rfl, tilesFree_nil⟩
  · exact ⟨0, rfl, no_disp _, tilesFree_nil⟩
  · exact ⟨0, rfl, no_disp _, hidx⟩

/-- The three stores as forms; a scatter is the indexed one (R205, R209). -/
theorem exec_store (h : (∃ o : VA, o.vd = vd ∧ o.msk = msk ∧ o.pi = pi ∧ o.ty = ty ∧ o.as = as ∧
      ((i = .vst o ∧ md = .contiguous ∧ a = s.cur.a[as.toNat]'as.isLt + 32 * o.off.signExtend 64) ∨
        (i = .vsts o ∧ md = .strided o.off ∧ a = s.cur.a[as.toNat]'as.isLt))) ∨
      (∃ o : VAIdx, o.vd = vd ∧ o.msk = msk ∧ o.pi = pi ∧ o.ty = ty ∧ o.as = as ∧ i = .vscat o ∧ md = .indexed o.vi ∧
        TilesFree s [.tile o.vi] ∧ a = s.cur.a[as.toNat]'as.isLt)) :
    ∃ (disp : BitVec 9) (scatter mz : Bool), exec i s = runAct (vmemForm false scatter md disp vd msk mz ty as pi) s ∧
      s.cur.a[as.toNat]'as.isLt + 32 * disp.signExtend 64 = a ∧ TilesFree s md.uses ∧ (scatter = true → ∃ vi, md = .indexed vi) := by
  obtain ⟨o, rfl, rfl, rfl, rfl, rfl, ⟨rfl, rfl, rfl⟩ | ⟨rfl, rfl, rfl⟩⟩ | ⟨o, rfl, rfl, rfl, rfl, rfl, rfl, rfl, hidx, rfl⟩ := h
  · exact ⟨o.off, false, o.mz, rfl, rfl, tilesFree_nil, by simp⟩
  · exact ⟨0, false, o.mz, rfl, no_disp _, tilesFree_nil, by simp⟩
  · exact ⟨0, true, o.mz, rfl, no_disp _, hidx, fun _ => ⟨o.vi, rfl⟩⟩

end Forms

theorem isBfp_false {fmt : BitVec 4} (h : fmt.toNat < 6) : isBfp fmt = false := decide_eq_false (not_le.2 h)
theorem isBfp_true {fmt : BitVec 4} (h : 6 ≤ fmt.toNat) : isBfp fmt = true := decide_eq_true h

/-- Settles O28: the six forms up to their access, the tile a load starts from, and the records of a store, one by one or block by block. -/
theorem vectorMemory : Obligations.VectorMemory := by
  refine ⟨fun s i md vd msk mz pi ty as a hi h => ?_, fun s i md vd msk pi ty as a hi h => ?_⟩
  · obtain ⟨disp, hexec, ha, hidx⟩ := exec_load hi
    obtain ⟨hw, -, hsize, htiles⟩ := h
    have hfree := tilesFree_mode htiles hidx
    rw [hexec]
    exact ⟨s.loadBase vd msk mz, fun k hk => elemAt_loadBase mz hw (floatW_pos ty) hsize hk, fun b hb => loadBase_above mz hw (floatW_pos ty) hsize hb,
      fun hacts hacq hst => load_empty hw hfree hacq hacts hst, fun p0 info hacts hacc => load_spec hw hfree ha hacts hacc⟩
  · obtain ⟨disp, scatter, mz, hexec, ha, hidx, hsc⟩ := exec_store hi
    obtain ⟨hw, -, -, htiles⟩ := h
    have hfree := tilesFree_mode htiles hidx
    rw [hexec]
    refine ⟨fun hacts hacq => store_empty hw hfree hacq hacts, fun p0 info hacts hfmt hacc => store_elements hw hfree ha hacts hacc (isBfp_false hfmt),
      fun p0 info hacts hfmt hmode hacc hwhole => store_blocks hw hfree ha hacts hacc (isBfp_true hfmt) ?_ hwhole⟩
    by_contra hs
    obtain ⟨vi, hvi⟩ := hsc (by simpa using hs)
    exact hmode vi hvi

end Sys2Proof.Machine
end

section
/-! PROOFS. Integer results (O1): the forms of major 0x00 with full registers, and each result as R128 states it. -/
namespace Sys2Proof.Machine

/-! ## The operand forms with full sources (R59, R128, R129) -/

section Forms
variable {s : State}

theorem rForm_done {o : RRR} (h : RRR_Ready o s) {f : Word → Word → Word} {v : Word} (hv : f (s.cur.getS o.a) (s.cur.getS o.b) = v) :
    runAct (rForm f o) s = .next (s.regDone o.d v) := by
  obtain ⟨hd, ha, hb⟩ := h
  refine runAct_ok ?_
  rw [rForm, act_bind_destReady hd, act_bind_readSrc ha, act_bind_readSrc hb, hv]
  rfl

theorem rFormLate_done {o : RRR} (h : RRR_Ready o s) {cls own : Nat} {f : Word → Word → Word} {v : Word}
    (hv : f (s.cur.getS o.a) (s.cur.getS o.b) = v) : runAct (rFormLate cls own f o) s = .next (s.lateDone o.d cls own v) := by
  obtain ⟨hd, ha, hb⟩ := h
  refine runAct_ok ?_
  rw [rFormLate, act_bind_destReady hd, act_bind_readSrc ha, act_bind_readSrc hb, hv, act_bind_ok (writeSLate_eq _ _ _ _ _), lateDone_eq_goOn]
  rfl

theorem r1Form_done {o : RRD} (h : Imm_Ready o.d o.a s) {f : Word → Word} {v : Word} (hv : f (s.cur.getS o.a) = v) :
    runAct (r1Form f o) s = .next (s.regDone o.d v) := by
  obtain ⟨hd, ha⟩ := h
  refine runAct_ok ?_
  rw [r1Form, act_bind_destReady hd, act_bind_readSrc ha, hv]
  rfl

end Forms

/-! ## Shifts, comparisons, minimum and maximum -/

section Words
variable (x y : Word)

theorem shCount_eq : shCount y = y.toNat % 64 := by
  rw [shCount, BitVec.extractLsb'_toNat, Nat.shiftRight_zero]

theorem aluSll_eq : aluSll x y = BitVec.ofNat 64 (x.toNat * 2 ^ (y.toNat % 64)) := by
  rw [aluSll, shCount_eq, shiftLeft_eq_mul]

theorem aluSrl_eq : aluSrl x y = BitVec.ofNat 64 (x.toNat / 2 ^ (y.toNat % 64)) := by
  rw [aluSrl, shCount_eq, ushiftRight_eq_div]

theorem aluSra_eq : aluSra x y = BitVec.ofInt 64 (x.toInt / 2 ^ (y.toNat % 64)) := by
  rw [aluSra, shCount_eq, sshiftRight_eq_div]

theorem boolWord_ult : boolWord (x.ult y) = if x.toNat < y.toNat then 1 else 0 := by
  simp [boolWord, BitVec.ult]

theorem aluMin_eq : aluMin x y = if x.toInt < y.toInt then x else y := by simp [aluMin, BitVec.slt]
theorem aluMax_eq : aluMax x y = if x.toInt < y.toInt then y else x := by simp [aluMax, BitVec.slt]
theorem aluMinn_eq : aluMinn x y = if x.toNat < y.toNat then x else y := by simp [aluMinn, BitVec.ult]
theorem aluMaxn_eq : aluMaxn x y = if x.toNat < y.toNat then y else x := by simp [aluMaxn, BitVec.ult]

/-! ## Products and quotients -/

theorem mul_eq_ofInt : x * y = BitVec.ofInt 64 (x.toInt * y.toInt) := by
  rw [BitVec.ofInt_mul, BitVec.ofInt_toInt, BitVec.ofInt_toInt]

/-- The one quotient that is no 64-bit integer wraps to the dividend. -/
theorem aluDiv_eq : aluDiv x y =
    if y = 0 then BitVec.allOnes 64 else if x.toInt = -2 ^ 63 ∧ y.toInt = -1 then x else BitVec.ofInt 64 (Int.tdiv x.toInt y.toInt) := by
  unfold aluDiv
  by_cases h : x.toInt = -2 ^ 63 ∧ y.toInt = -1
  · have hx : BitVec.ofInt 64 (Int.tdiv x.toInt y.toInt) = x := by
      rw [← BitVec.ofInt_toInt (x := x), h.1, h.2]
      decide
    rw [if_pos h, hx]
  · rw [if_neg h]

theorem aluRem_eq : aluRem x y = if y = 0 then x else if x.toInt = -2 ^ 63 ∧ y.toInt = -1 then 0
    else BitVec.ofInt 64 (x.toInt - y.toInt * Int.tdiv x.toInt y.toInt) := by
  unfold aluRem
  rw [Int.tmod_def]
  by_cases h : x.toInt = -2 ^ 63 ∧ y.toInt = -1
  · rw [if_pos h, h.1, h.2]
    rfl
  · rw [if_neg h]

theorem aluDivn_eq : aluDivn x y = if y = 0 then BitVec.allOnes 64 else BitVec.ofNat 64 (x.toNat / y.toNat) := by
  rw [aluDivn, BitVec.udiv_def]

theorem aluRemn_eq : aluRemn x y = if y = 0 then x else BitVec.ofNat 64 (x.toNat - y.toNat * (x.toNat / y.toNat)) := by
  have hmod : x.toNat - y.toNat * (x.toNat / y.toNat) = x.toNat % y.toNat := by
    rw [Nat.mod_def]
  rw [aluRemn, hmod, ← BitVec.toNat_umod, BitVec.ofNat_toNat, BitVec.setWidth_eq]

/-! ## Counts of bits -/

/-- Of the low k bits, `clzFrom` counts the zeros above the highest one bit. -/
theorem clzFrom_spec (k : Nat) : clzFrom x k ≤ k ∧ x.toNat % 2 ^ k < 2 ^ (k - clzFrom x k) ∧
    (clzFrom x k < k → 2 ^ (k - 1 - clzFrom x k) ≤ x.toNat % 2 ^ k) := by
  induction k with
  | zero => simp [clzFrom, Nat.mod_one]
  | succ k ih =>
    obtain ⟨hle, hlt, hge⟩ := ih
    have hsplit : x.toNat % 2 ^ (k + 1) = x.toNat % 2 ^ k + 2 ^ k * (x.getLsbD k).toNat := by
      rw [Nat.mod_pow_succ, ← BitVec.testBit_toNat, Nat.toNat_testBit]
    rw [clzFrom, hsplit]
    by_cases hbit : x.getLsbD k = true
    · have hlow : x.toNat % 2 ^ k < 2 ^ k := Nat.mod_lt _ (by positivity)
      rw [if_pos hbit, hbit]
      refine ⟨by omega, ?_, fun _ => ?_⟩
      · rw [Nat.sub_zero, Nat.pow_succ, Bool.toNat_true]
        omega
      · rw [Nat.add_sub_cancel, Nat.sub_zero, Bool.toNat_true]
        omega
    · rw [if_neg hbit, eq_false_of_ne_true hbit, Bool.toNat_false, Nat.mul_zero, Nat.add_zero, Nat.add_sub_add_right]
      refine ⟨by omega, hlt, fun h => ?_⟩
      rw [show k + 1 - 1 - (clzFrom x k + 1) = k - 1 - clzFrom x k by omega]
      exact hge (by omega)

theorem popFrom_eq_length {w : Nat} (x : BitVec w) (k : Nat) : popFrom x k = ((List.range k).filter (fun i => x.getLsbD i)).length := by
  induction k with
  | zero => rfl
  | succ k ih =>
    rw [popFrom, ih, List.range_succ, List.filter_append, List.length_append]
    by_cases hbit : x.getLsbD k = true
    · simp [hbit]
    · simp [hbit]

end Words

theorem exec_clz {o : RRD} {s : State} (h : Imm_Ready o.d o.a s) : ∃ k : Nat, exec (.clz o) s = .next (s.regDone o.d (BitVec.ofNat 64 k)) ∧ k ≤ 64 ∧
    (s.cur.getS o.a).toNat < 2 ^ (64 - k) ∧ (k < 64 → 2 ^ (63 - k) ≤ (s.cur.getS o.a).toNat) := by
  obtain ⟨hle, hlt, hge⟩ := clzFrom_spec (s.cur.getS o.a) 64
  rw [Nat.mod_eq_of_lt (s.cur.getS o.a).isLt] at hlt hge
  exact ⟨_, r1Form_done h rfl, hle, hlt, hge⟩

/-- Settles O1: each instruction is an operand form with full sources, and its result is the one R128 names. -/
theorem integerResults : Obligations.IntegerResults := by
  refine ⟨fun o s h => ?_, fun o s h => ?_, fun o s h => ?_⟩
  · exact ⟨rForm_done h rfl, rForm_done h rfl, rForm_done h rfl, rForm_done h rfl, rForm_done h rfl, rForm_done h (aluSll_eq _ _),
      rForm_done h (aluSrl_eq _ _), rForm_done h (aluSra_eq _ _), rForm_done h (aluMin_eq _ _), rForm_done h (aluMax_eq _ _), rForm_done h (aluMinn_eq _ _),
      rForm_done h (aluMaxn_eq _ _), rForm_done h (boolWord_slt _ _), rForm_done h (boolWord_ult _ _)⟩
  · exact ⟨exec_clz h, r1Form_done h (congrArg (BitVec.ofNat 64) (popFrom_eq_length _ 64))⟩
  · exact ⟨rFormLate_done h (mul_eq_ofInt _ _), rFormLate_done h rfl, rFormLate_done h rfl, rFormLate_done h (aluDiv_eq _ _), rFormLate_done h (aluDivn_eq _ _),
      rFormLate_done h (aluRem_eq _ _), rFormLate_done h (aluRemn_eq _ _)⟩

end Sys2Proof.Machine
end

section
/-! PROOFS. Branches and jumps (O3), and the frame of the scalar instructions (O6). -/
namespace Sys2Proof.Machine

/-! ## Branches and jumps (R133, R134) -/

section Branches
variable {s : State}

theorem brForm_done {o : Br} (ha : s.cur.isFull o.a = true) (hb : s.cur.isFull o.b = true) {f : Word → Word → Bool} {p : Prop} [Decidable p]
    (hf : f (s.cur.getS o.a) (s.cur.getS o.b) = decide p) :
    runAct (brForm f o) s = .next (if p then s.jump (s.cur.pc + 4 * o.off.signExtend 64) else s.goOn) := by
  refine runAct_ok ?_
  rw [brForm, act_bind_readSrc ha, act_bind_readSrc hb, act_bind_get, hf]
  by_cases hp : p
  · rw [decide_eq_true hp, if_pos hp]
    rfl
  · rw [decide_eq_false hp, if_neg hp]
    rfl

theorem exec_bp (o : BrP) :
    exec (.bp o) s = .next (if s.cur.getP o.p = true then s.jump (s.cur.pc + 4 * o.off.signExtend 64) else s.goOn) := by
  refine runAct_ok ?_
  rw [act_ite]
  split <;> rfl

theorem exec_jal {o : Jmp} (hd : s.cur.isFull o.d = true) :
    exec (.jal o) s = .next (s.setCur (fun c => (c.putS o.d (c.pc + 4)).jumpTo (c.pc + 4 * o.off.signExtend 64))) := by
  refine runAct_ok ?_
  rw [act_bind_destReady hd]
  rfl

/-- The alignment check of a target is one of its two low bits (R134). -/
theorem lowBits_ne_zero (t : Word) : (t.extractLsb' 0 2 != 0) = decide (t.toNat % 4 ≠ 0) := by
  rw [Bool.eq_iff_iff, bne_iff_ne, decide_eq_true_eq, ne_eq, extractLsb'_eq_zero_iff, Nat.pow_zero, Nat.div_one]
  rfl

theorem exec_jr_jumps {o : Imm} (h : Imm_Ready o.d o.a s) (ht : (s.cur.getS o.a + 4 * o.imm.signExtend 64).toNat % 4 = 0) :
    exec (.jr o) s = .next (s.setCur (fun c => (c.putS o.d (c.pc + 4)).jumpTo (s.cur.getS o.a + 4 * o.imm.signExtend 64))) := by
  obtain ⟨hd, ha⟩ := h
  refine runAct_ok ?_
  rw [act_bind_destReady hd, act_bind_readSrc ha, act_bind_raiseIf (by rw [lowBits_ne_zero]; simpa using ht)]
  rfl

theorem exec_jr_misaligned {o : Imm} (h : Imm_Ready o.d o.a s) (ht : (s.cur.getS o.a + 4 * o.imm.signExtend 64).toNat % 4 ≠ 0) :
    exec (.jr o) s = .next (s.takeFault s.cur.ref ⟨0x05, 0, s.cur.getS o.a + 4 * o.imm.signExtend 64, false⟩ s.cur.pc) := by
  obtain ⟨hd, ha⟩ := h
  refine runAct_raise ?_
  rw [act_bind_destReady hd, act_bind_readSrc ha, act_bind_raiseIf_stop (by rw [lowBits_ne_zero]; simpa using ht)]

end Branches

/-- Settles O3: the branches are one form with full sources, each with its condition; the jumps one by one. -/
theorem branchesAndJumps : Obligations.BranchesAndJumps := by
  refine ⟨⟨fun o s ha hb => ?_, fun o s => exec_bp o⟩, fun o s hd => exec_jal hd, fun o s h => ⟨exec_jr_jumps h, exec_jr_misaligned h⟩⟩
  exact ⟨brForm_done ha hb rfl, brForm_done ha hb (bne_eq_decide_ne _ _), brForm_done ha hb rfl, brForm_done ha hb BitVec.sle_eq_not_slt.symm,
    brForm_done ha hb rfl, brForm_done ha hb (BitVec.ule_eq_not_ult _ _).symm⟩

end Sys2Proof.Machine
end

section
/-! PROOFS. Exceptions taken in the current context (R151, R365). -/
namespace Sys2Proof.Machine

section TakeFault
variable {s : State} (f : FaultRec) (epc : Word)

theorem takeFault_handler (hd : s.cur.hd = false) (ht : s.cur.tvec ≠ 0) : s.takeFault s.cur.ref f epc = s.setCur (fun c => c.enterHandler f epc) := by
  rw [State.takeFault, ctx?_cur_ref]
  exact (if_pos ⟨hd, ht⟩).trans (setCtx_cur_ref _ _)

theorem takeFault_escalates (h : s.cur.hd = true ∨ s.cur.tvec = 0) : s.takeFault s.cur.ref f epc = s.escalate s.cur.ref f epc := by
  rw [State.takeFault, ctx?_cur_ref]
  refine if_neg fun ⟨hd, ht⟩ => ?_
  rcases h with h | h
  · simp [hd] at h
  · exact ht h

/-- An escalation stops the context, whatever becomes of its entry. -/
theorem escalate_cur_eq (s : State) : (s.escalate s.cur.ref f epc).cur = { s.cur with phase := .stopped, wait := none } := by
  unfold State.escalate
  split
  · rw [setCtx_cur_ref]
    rfl
  · dsimp only
    split
    · rw [setCtx_cur_ref]
      rfl
    · exact congrArg State.cur (setCtx_cur_ref _ _)

/-- A context that has taken an exception is in its handler, or has stopped. -/
theorem takeFault_leaves (s : State) : (s.takeFault s.cur.ref f epc).cur.hd ≠ s.cur.hd ∨ (s.takeFault s.cur.ref f epc).cur.phase = .stopped := by
  by_cases h : s.cur.hd = false ∧ s.cur.tvec ≠ 0
  · left
    rw [takeFault_handler f epc h.1 h.2, h.1]
    simp [Context.enterHandler]
  · right
    have h' : s.cur.hd = true ∨ s.cur.tvec = 0 := by
      rw [not_and_or, not_not, Bool.not_eq_false] at h
      exact h
    rw [takeFault_escalates f epc h', escalate_cur_eq]

end TakeFault
end Sys2Proof.Machine
end

section
/-! PROOFS. The frame of the one-cycle scalar instructions (O6). -/
namespace Sys2Proof.Machine

/-! ## What one of them changes of its context -/

/-- Only the scalar registers, predicates and sequencer differ, and of the scalar registers only d. -/
def ScalarOnly (d : Option (BitVec 5)) (b c : Context) : Prop :=
  OnlyScalar b c ∧ ∀ n, some n ≠ d → c.getS n = b.getS n ∧ c.isFull n = b.isFull n

section ScalarOnly
variable (d : Option (BitVec 5))

theorem scalarOnly_trans {d : Option (BitVec 5)} {a b c : Context} (hab : ScalarOnly d a b) (hbc : ScalarOnly d b c) : ScalarOnly d a c := by
  obtain ⟨hab, hregs⟩ := hab
  obtain ⟨hbc, hregs'⟩ := hbc
  refine ⟨?_, fun n hn => ⟨(hregs' n hn).1.trans (hregs n hn).1, (hregs' n hn).2.trans (hregs n hn).2⟩⟩
  have hover := congrArg (fun x : Context => { x with
    s := a.s, full := a.full, p := a.p, pc := a.pc, loops := a.loops, sinceBoundary := a.sinceBoundary }) hbc
  exact hover.trans hab

theorem scalarOnly_putS (n : BitVec 5) (v : Word) (c : Context) : ScalarOnly (some n) c (c.putS n v) := by
  refine ⟨?_, fun m hm => ⟨getS_putS_ne c v (fun h => hm (congrArg some h)), isFull_putS_ne c v (fun h => hm (congrArg some h))⟩⟩
  unfold Context.putS
  split <;> rfl

theorem scalarOnly_putP (n : BitVec 5) (b : Bool) (c : Context) : ScalarOnly d c (c.putP n b) := by
  unfold Context.putP
  split <;> exact ⟨rfl, fun _ _ => ⟨rfl, rfl⟩⟩

theorem scalarOnly_boundary (b : Bool) (c : Context) : ScalarOnly d c (c.boundary b) := by
  unfold Context.boundary
  split <;> exact ⟨rfl, fun _ _ => ⟨rfl, rfl⟩⟩

theorem scalarOnly_jumpTo (t : Word) (c : Context) : ScalarOnly d c (c.jumpTo t) := by
  refine scalarOnly_trans (b := { c with loops := popOutside c.hd t c.loops, pc := t }) ⟨rfl, fun _ _ => ⟨rfl, rfl⟩⟩ ?_
  exact scalarOnly_boundary d _ _

theorem scalarOnly_nextSeq (c : Context) : ScalarOnly d c c.nextSeq := by
  unfold Context.nextSeq
  split
  · exact ⟨rfl, fun _ _ => ⟨rfl, rfl⟩⟩
  · split
    · refine scalarOnly_trans (b := { c with loops := (loopBackFrom c.hd c.loops (c.pc + 4)).1, pc := (loopBackFrom c.hd c.loops (c.pc + 4)).2.1 })
        ⟨rfl, fun _ _ => ⟨rfl, rfl⟩⟩ ?_
      exact scalarOnly_boundary d _ _
    · exact ⟨rfl, fun _ _ => ⟨rfl, rfl⟩⟩

end ScalarOnly

/-! ## How their effects run -/

/-- An effect on the context's scalar registers, predicates and sequencer, or a stop before anything has changed. -/
def ScalarEffect (d : Option (BitVec 5)) (a : Act Unit) : Prop := ∀ s : State,
  (∃ f, a s = .ok ((), s.setCur f) ∧ ScalarOnly d s.cur (f s.cur)) ∨ (∃ w, a s = .error (.wait w none)) ∨ ∃ f, a s = .error (.raise f)

section Effects
variable {d : Option (BitVec 5)} {a : Act Unit}

theorem scalarEffect_of_change {f : Context → Context} (hf : ∀ c, ScalarOnly d c (f c)) : ScalarEffect d (modCur f) :=
  fun s => .inl ⟨f, rfl, hf s.cur⟩

theorem scalarEffect_advance : ScalarEffect d advance := scalarEffect_of_change (scalarOnly_nextSeq d)
theorem scalarEffect_transfer (t : Word) : ScalarEffect d (transfer t) := scalarEffect_of_change (scalarOnly_jumpTo d t)

/-- A change comes first. -/
theorem scalarEffect_change_bind {f : Context → Context} (hf : ∀ c, ScalarOnly d c (f c)) (ha : ScalarEffect d a) :
    ScalarEffect d (modCur f >>= fun _ => a) := by
  intro s
  rw [act_bind_modCur]
  rcases ha (s.setCur f) with ⟨g, hg, honly⟩ | hstop
  · exact .inl ⟨fun c => g (f c), hg, scalarOnly_trans (hf s.cur) honly⟩
  · exact .inr hstop

theorem scalarEffect_writeS {n : BitVec 5} (v : Word) (ha : ScalarEffect (some n) a) : ScalarEffect (some n) (writeS n v >>= fun _ => a) :=
  scalarEffect_change_bind (scalarOnly_putS n v) ha

theorem scalarEffect_destReady (n : BitVec 5) (ha : ScalarEffect d a) : ScalarEffect d (destReady n >>= fun _ => a) := by
  intro s
  by_cases h : s.cur.isFull n = true
  · rw [act_bind_destReady h]
    exact ha s
  · exact .inr (.inl ⟨_, act_bind_error (destReady_empty (eq_false_of_ne_true h))⟩)

theorem scalarEffect_readSrc (n : BitVec 5) (q : Bool) {f : Word → Act Unit} (hf : ∀ x, ScalarEffect d (f x)) : ScalarEffect d (readSrc n q >>= f) := by
  intro s
  by_cases h : s.cur.isFull n = true
  · rw [act_bind_readSrc h]
    exact hf _ s
  · have hempty := eq_false_of_ne_true h
    cases q with
    | false => exact .inr (.inl ⟨_, act_bind_error (readSrc_empty_wait hempty)⟩)
    | true => exact .inr (.inr ⟨_, act_bind_error (readSrc_empty_trap hempty)⟩)

theorem scalarEffect_get {f : State → Act Unit} (hf : ∀ s, ScalarEffect d (f s)) : ScalarEffect d (get >>= f) := fun s => hf s s

theorem scalarEffect_ite {p : Prop} [Decidable p] {b : Act Unit} (ha : ScalarEffect d a) (hb : ScalarEffect d b) : ScalarEffect d (if p then a else b) := by
  split
  · exact ha
  · exact hb

/-! ## The operand forms -/

theorem scalarEffect_rForm (f : Word → Word → Word) (o : RRR) : ScalarEffect (some o.d) (rForm f o) :=
  scalarEffect_destReady _ <| scalarEffect_readSrc _ _ fun _ => scalarEffect_readSrc _ _ fun _ => scalarEffect_writeS _ scalarEffect_advance
theorem scalarEffect_r1Form (f : Word → Word) (o : RRD) : ScalarEffect (some o.d) (r1Form f o) :=
  scalarEffect_destReady _ <| scalarEffect_readSrc _ _ fun _ => scalarEffect_writeS _ scalarEffect_advance
theorem scalarEffect_iForm (f : Word → BitVec 14 → Word) (o : Imm) : ScalarEffect (some o.d) (iForm f o) :=
  scalarEffect_destReady _ <| scalarEffect_readSrc _ _ fun _ => scalarEffect_writeS _ scalarEffect_advance
theorem scalarEffect_shForm (f : Word → Nat → Word) (o : ImmSh) : ScalarEffect (some o.d) (shForm f o) :=
  scalarEffect_destReady _ <| scalarEffect_readSrc _ _ fun _ => scalarEffect_writeS _ scalarEffect_advance
theorem scalarEffect_psetForm (f : Word → Word → Bool) (o : RRR) : ScalarEffect none (psetForm f o) :=
  scalarEffect_readSrc _ _ fun _ => scalarEffect_readSrc _ _ fun _ => scalarEffect_change_bind (scalarOnly_putP _ _ _) scalarEffect_advance
theorem scalarEffect_plogForm (f : Bool → Bool → Bool) (o : PPP) : ScalarEffect none (plogForm f o) :=
  scalarEffect_change_bind (fun c => scalarOnly_putP _ _ _ c) scalarEffect_advance
theorem scalarEffect_brForm (f : Word → Word → Bool) (o : Br) : ScalarEffect none (brForm f o) :=
  scalarEffect_readSrc _ _ fun _ => scalarEffect_readSrc _ _ fun _ => scalarEffect_get fun _ => scalarEffect_ite (scalarEffect_transfer _) scalarEffect_advance

end Effects

/-- Each of the instructions of `scalarDest` runs such an effect. -/
theorem exec_scalar {i : Instr} {d : Option (BitVec 5)} (h : scalarDest i = some d) (s : State) : ∃ a, exec i s = runAct a s ∧ ScalarEffect d a := by
  cases i with
  | add o | sub o | and o | or o | xor o | sll o | srl o | sra o | min o | max o | minn o | maxn o | slt o | sltn o =>
    cases h
    exact ⟨_, rfl, scalarEffect_rForm _ o⟩
  | clz o | popc o =>
    cases h
    exact ⟨_, rfl, scalarEffect_r1Form _ o⟩
  | addi o | andi o | ori o | xori o | slti o | lih o =>
    cases h
    exact ⟨_, rfl, scalarEffect_iForm _ o⟩
  | slli o | srli o | srai o =>
    cases h
    exact ⟨_, rfl, scalarEffect_shForm _ o⟩
  | jal o =>
    cases h
    exact ⟨_, rfl, scalarEffect_destReady _ <| scalarEffect_writeS _ <| scalarEffect_transfer _⟩
  | psetEq o | psetNe o | psetLt o | psetGe o | psetLtn o | psetGen o =>
    cases h
    exact ⟨_, rfl, scalarEffect_psetForm _ o⟩
  | plogAnd o =>
    cases h
    exact ⟨plogForm (· && ·) o, rfl, scalarEffect_plogForm _ o⟩
  | plogOr o =>
    cases h
    exact ⟨plogForm (· || ·) o, rfl, scalarEffect_plogForm _ o⟩
  | plogXor o =>
    cases h
    exact ⟨plogForm (· != ·) o, rfl, scalarEffect_plogForm _ o⟩
  | plogAndn o =>
    cases h
    exact ⟨plogForm (fun a b => a && !b) o, rfl, scalarEffect_plogForm _ o⟩
  | beq o | bne o | blt o | bge o | bltn o | bgen o =>
    cases h
    exact ⟨_, rfl, scalarEffect_brForm _ o⟩
  | bp o =>
    cases h
    exact ⟨_, rfl, scalarEffect_ite (scalarEffect_transfer _) scalarEffect_advance⟩
  | _ => cases h

/-- Settles O6: the effect of each instruction changes its context alone; a wait or a fault would show in PHASE or HD. -/
theorem scalarFrame : Obligations.ScalarFrame := by
  intro i d s t hi hexec hphase hhd
  obtain ⟨a, hrun, ha⟩ := exec_scalar hi s
  rw [hrun] at hexec
  rcases ha s with ⟨f, hf, honly, hregs⟩ | ⟨w, hw⟩ | ⟨f, hf⟩
  · obtain rfl := Host.Outcome.next.inj ((runAct_ok hf).symm.trans hexec)
    exact ⟨rfl, honly, hregs, fun _ _ => rfl⟩
  · obtain rfl := Host.Outcome.next.inj ((runAct_waitFor hw).symm.trans hexec)
    cases hphase
  · obtain rfl := Host.Outcome.next.inj ((runAct_raise hf).symm.trans hexec)
    rcases takeFault_leaves f s.cur.pc s with h | h
    · exact absurd hhd h
    · simp [h] at hphase

end Sys2Proof.Machine
end

section
/-! PROOFS. FENCE and WAITF (O9). -/
namespace Sys2Proof.Machine

section Fence
variable {s : State}

/-- The wait of FENCE, YIELD and CHKPT where nothing is owed (R149). -/
theorem awaitPerformed_nothing {sc : Scope} (hdeps : s.releaseDeps s.cur false sc = []) (hclean : NoneDirty s) : awaitPerformed sc s = .ok ((), s) := by
  rw [awaitPerformed, act_bind_ok (releaseWriteback_eq sc s), released_of_noneDirty sc hclean, act_bind_get, hdeps]
  rfl

theorem awaitLandedLoads_nothing (h : s.cur.pend.any Pend.isAccess = false) : execFence.awaitLandedLoads s = .ok ((), s) := by
  rw [execFence.awaitLandedLoads, act_bind_get, h]
  rfl

theorem exec_fence_goes_on {c : BitVec 3} {sc : Scope} {dem : Bool} (hscope : ScopeFor s c sc dem) (hdeps : s.releaseDeps s.cur false sc = [])
    (hclean : NoneDirty s) (hpend : s.cur.pend.any Pend.isAccess = false) :
    exec (.fence c) s = .next ((s.orderPoint s.cur true).demoted dem 0).goOn := by
  refine runAct_ok ?_
  rw [act_bind_ok (scopeOf_scopeFor hscope)]
  dsimp only
  rw [act_bind_ok (awaitPerformed_nothing hdeps hclean), act_bind_ok (awaitLandedLoads_nothing hpend), act_bind_modify]
  cases dem <;> rfl

theorem exec_waitf_full {a : BitVec 5} (h : s.cur.isFull a = true) : exec (.waitf a) s = .next s.goOn := by
  refine runAct_ok ?_
  rw [act_bind_readSrc h]
  rfl

end Fence

/-- Settles O9: nothing that FENCE waits for stands, and the register of WAITF is full. -/
theorem fenceAndWaitf : Obligations.FenceAndWaitf :=
  ⟨fun _ _ _ _ hscope hdeps hclean hpend => exec_fence_goes_on hscope hdeps hclean hpend, fun _ _ h => exec_waitf_full h⟩

end Sys2Proof.Machine
end

section
/-! PROOFS. Traps, returns and escalation (O12). -/
namespace Sys2Proof.Machine

section Traps
variable {s : State}

theorem trap_ecause (n : BitVec 8) : (⟨0, n, 0, false⟩ : FaultRec).ecause = n.setWidth 64 <<< 8 := by
  simp [FaultRec.ecause]

theorem exec_trap_handled {n : BitVec 8} (hd : s.cur.hd = false) (ht : s.cur.tvec ≠ 0) :
    exec (.trap n) s = .next (s.setCur (fun c => c.enterHandler ⟨0, n, 0, false⟩ (s.cur.pc + 4))) :=
  congrArg Host.Outcome.next (takeFault_handler _ _ hd ht)

theorem exec_eret_returns (hd : s.cur.hd = true) : exec .eret s = .next (s.setCur Context.leaveHandler) := by
  refine runAct_ok ?_
  rw [if_pos hd]
  rfl

theorem exec_eret_outside (hd : s.cur.hd = false) : exec .eret s = .next (s.takeFault s.cur.ref ⟨0x01, 6, 0, false⟩ s.cur.pc) := by
  refine runAct_raise ?_
  rw [if_neg (by simp [hd])]
  rfl

/-- The return pops the handler's loops, and then those of the body that do not hold EPC (R135, R141, R153). -/
theorem leaveHandler_loops (c : Context) : ∃ out, c.loops.filter (fun e => !e.depth) = out ++ c.leaveHandler.loops ∧
    ∀ e ∈ out, ¬(e.start.toNat ≤ c.epc.toNat ∧ c.epc.toNat ≤ e.stop.toNat) := by
  obtain ⟨out, hout, hpopped, -⟩ := popOutside_spec false c.epc (c.loops.filter (fun e => !e.depth))
  refine ⟨out, ?_, fun e he => (hpopped e he).2⟩
  rw [Context.leaveHandler, jumpTo_loops]
  exact hout

/-- A RUNNING entry goes to KILLING with the fault (R365). -/
theorem escalate_running {x : Slot} (f : FaultRec) (epc : Word) (hx : Tbl.get? s.slots s.cur.slot = some x) (hrun : x.state = 2) :
    s.escalate s.cur.ref f epc =
      ({ s with slots := Tbl.set s.slots s.cur.slot { x.setState 6 with kill := some (.fault f s.cur.num epc) } } : State).setCur
        (fun c => { c with phase := .stopped, wait := none }) := by
  unfold State.escalate
  rw [show s.cur.ref.slot = s.cur.slot from rfl, hx]
  dsimp only
  rw [if_neg (by omega)]
  exact if_pos rfl

end Traps

/-- Settles O12: entering and leaving the handler field by field, and an escalation in a RUNNING entry. -/
theorem trapsAndReturns : Obligations.TrapsAndReturns := by
  refine ⟨⟨fun n s hd ht => ?_, fun s hd => ?_, fun s hd => exec_eret_outside hd⟩, fun s f epc x h hx hrun => ?_⟩
  · exact ⟨_, exec_trap_handled hd ht, rfl, rfl, trap_ecause n, rfl, rfl, rfl, rfl, rfl, fun _ => ⟨rfl, rfl⟩, rfl, rfl, rfl, rfl, fun _ _ => rfl⟩
  · refine ⟨_, exec_eret_returns hd, rfl, jumpTo_hd _ _, jumpTo_pc _ _, leaveHandler_loops s.cur, fun r => ⟨?_, ?_⟩, jumpTo_epc _ _, jumpTo_ecause _ _,
      jumpTo_eval _ _⟩
    · simp [Context.getS, Context.leaveHandler]
    · simp [Context.isFull, Context.leaveHandler]
  · rw [takeFault_escalates f epc h, escalate_running f epc hx hrun]
    exact ⟨rfl, ⟨_, tbl_get_set _ _ _, fieldN_setField_same x.bind 6 (by omega) (by omega), rfl⟩, rfl, rfl⟩

end Sys2Proof.Machine
end

section
/-! PROOFS. YIELD, CHKPT and ASSAYR (O21). -/
namespace Sys2Proof.Machine

/-! ## The waits before a boundary (R157, R182) -/

/-- A release that owes nothing with the copies counted owes nothing without them. -/
theorem releaseDeps_without_copies {s : State} {c : Context} {sc : Scope} (h : s.releaseDeps c true sc = []) : s.releaseDeps c false sc = [] := by
  unfold State.releaseDeps at *
  obtain ⟨hown, hseen⟩ := List.append_eq_nil_iff.1 h
  have hseen' : s.seenUnperformed c sc = [] := by simpa [hown] using hseen
  have hown' : s.ownUnperformed c false sc = [] := by
    unfold State.ownUnperformed at *
    simp only [List.append_eq_nil_iff, List.map_eq_nil_iff] at hown ⊢
    obtain ⟨⟨⟨hstores, hsectors⟩, hpend⟩, -⟩ := hown
    refine ⟨⟨⟨?_, hsectors⟩, hpend⟩, rfl⟩
    refine List.filter_eq_nil_iff.2 fun r hr hp => List.filter_eq_nil_iff.1 hstores r hr ?_
    simp_all
  rw [hown', hseen']
  rfl

section Boundary
variable {s : State}

theorem awaitLanded_nothing (h : s.cur.pend = []) : awaitLanded s = .ok ((), s) := by
  rw [awaitLanded, act_bind_get, h]
  rfl

theorem awaitBoundary_nothing (hkids : s.children s.cur.slot = false) (hpend : s.cur.pend = []) (howed : NothingOwed s .dev) :
    awaitBoundary s = .ok ((), s) := by
  rw [awaitBoundary, act_bind_get, act_bind_waitIf hkids, act_bind_ok (awaitLanded_nothing hpend)]
  exact awaitPerformed_nothing (releaseDeps_without_copies howed.1) howed.2

/-! ## YIELD -/

theorem exec_yield_offers {x : Slot} (hk : s.cur.kind = .cc) (hd : s.cur.hd = false) (hkids : s.children s.cur.slot = false) (hpend : s.cur.pend = [])
    (howed : NothingOwed s .dev) (hx : Tbl.get? s.slots s.cur.slot = some x) (hy : s.cur.yielding = false) :
    exec .yield s = .next (({ s with slots := Tbl.set s.slots s.cur.slot { x with offer := some s.cycle } } : State).setCur (fun c => { c with
      yielding := true, phase := .waiting, wait := some ⟨.yieldReply, s.cycle, c.wdog.toNat * 1024⟩ })) := by
  refine runAct_waitKeep (t := ({ s with slots := Tbl.set s.slots s.cur.slot { x with offer := some s.cycle } } : State).setCur
    (fun c => { c with yielding := true })) ?_
  rw [act_bind_raiseIf (by simp [hk]), act_bind_raiseIf hd, act_bind_ok (awaitBoundary_nothing hkids hpend howed), act_bind_get]
  dsimp only
  rw [hx, hy]
  rfl

theorem exec_yield_privilege (hk : s.cur.kind ≠ .cc) : exec .yield s = .next (s.takeFault s.cur.ref ⟨0x03, 0, 0, false⟩ s.cur.pc) := by
  refine runAct_raise ?_
  rw [act_bind_raiseIf_stop (by simpa using hk)]

/-! ## CHKPT -/

section Chkpt
variable {d : BitVec 5} {x : Slot} (hd : s.cur.isFull d = true) (hkids : s.children s.cur.slot = false) (hpend : s.cur.pend = [])
  (howed : NothingOwed s .dev) (hsteps : s.steps.any (fun c => c.2.slot = s.cur.slot && c.2.status.isNone) = false)
  (hx : Tbl.get? s.slots s.cur.slot = some x)
include hd hkids hpend howed hsteps hx

theorem exec_chkpt_no_budget (hb : s.eff x.rcbx .undob = 0) : exec (.chkpt d) s = .next (s.regDone d 1) := by
  refine runAct_ok ?_
  rw [act_bind_destReady hd, act_bind_ok (awaitBoundary_nothing hkids hpend howed), act_bind_get]
  dsimp only
  rw [act_bind_waitIf hsteps, hx]
  dsimp only
  rw [if_pos hb]
  rfl

theorem exec_chkpt_records (hb : s.eff x.rcbx .undob ≠ 0) : exec (.chkpt d) s = .next (({ s with
    slots := Tbl.set s.slots s.cur.slot { x with ckpt := some (checkpointOf s.cur d) }
    undo := s.undo.filter (fun u => decide (u.slot ≠ s.cur.slot)) } : State).regDone d 0) := by
  refine runAct_ok ?_
  rw [act_bind_destReady hd, act_bind_ok (awaitBoundary_nothing hkids hpend howed), act_bind_get]
  dsimp only
  rw [act_bind_waitIf hsteps, hx]
  dsimp only
  rw [if_neg hb]
  rfl

end Chkpt

/-! ## ASSAYR -/

section Assayr
variable {o : RRD} (h : Imm_Ready o.d o.a s)
include h

theorem exec_assayr_beyond (hx : 10 < (s.cur.getS o.a).toNat) :
    exec (.assayr o) s = .next (s.takeFault s.cur.ref ⟨0x02, 0, s.cur.getS o.a, false⟩ s.cur.pc) := by
  obtain ⟨hd, ha⟩ := h
  refine runAct_raise ?_
  rw [act_bind_destReady hd, act_bind_readSrc ha, act_bind_raiseIf_stop (by simpa using hx)]

/-- Without capture or replay the counter is outstanding under its latency class (R183, R79). -/
theorem exec_assayr_reads (hx : (s.cur.getS o.a).toNat ≤ 10) (hrep : Tbl.get? s.replays (s.vfOf s.cur.slot) = none)
    (hcap : Tbl.get? s.dortas.captures (s.vfOf s.cur.slot) = none) :
    exec (.assayr o) s = .next (s.lateDone o.d 3 8 (BitVec.ofNat 64 ((s.assayOf (s.vfOf s.cur.slot)).counter (s.cur.getS o.a).toNat))) := by
  obtain ⟨hd, ha⟩ := h
  have hret : ∀ v, s.returned v = v := fun v => by simp [State.returned, State.recorded, hrep]
  refine runAct_ok ?_
  rw [act_bind_destReady hd, act_bind_readSrc ha, act_bind_raiseIf (by simpa using hx), act_bind_curVf, act_bind_get,
    act_bind_ok (awaitPresented_shown (by simp [State.presents, hrep])), hret, act_bind_ok (writeSLate_eq _ _ _ _ _), act_bind_modify,
    capture_without_replay (by simpa using hcap) (by simpa using hrep), lateDone_eq_goOn]
  rfl

end Assayr
end Boundary

theorem counter_below {k : Nat} (a : AssayVf) (hk : k < 10) : a.counter k = a.ctr.getD k 0 := if_neg (by omega)

/-- Settles O21: the boundary's waits where nothing stands, then each instruction's own part. -/
theorem yieldCheckpointAssay : Obligations.YieldCheckpointAssay := by
  refine ⟨⟨fun s x hk hd hkids hpend howed hx hy => exec_yield_offers hk hd hkids hpend howed hx hy, fun s hk => exec_yield_privilege hk,
    fun d s x hd hkids hpend howed hsteps hx => ?_⟩, fun o s h hrep => ?_⟩
  · exact ⟨exec_chkpt_no_budget hd hkids hpend howed hsteps hx, exec_chkpt_records hd hkids hpend howed hsteps hx⟩
  · refine ⟨exec_assayr_beyond h, fun hx hcap => ?_, fun hx hcap => ?_⟩
    · rw [exec_assayr_reads h hx.le hrep hcap, counter_below _ hx]
    · rw [exec_assayr_reads h hx.le hrep hcap, hx]
      rfl

end Sys2Proof.Machine
end

section
/-! PROOFS. Loads outstanding and stores held (O7). -/
namespace Sys2Proof.Machine

/-! ## The parts of a load -/

/-- LD and LDA from the checks of the access on (R142). -/
def loadAccess (signed : Bool) (d : BitVec 5) (addr : Word) (n : Nat) (sc : Option (Scope × Bool)) : Act Unit := do
  let pieces ← scalarAccess sc addr n 1
  awaitAcquire
  let parts ← remotePieces addr pieces
  let s ← get
  let since := (s.cur.passed.map (·.since)).getD s.cycle
  let id ← freshId
  let note := if sc.any (·.2) then some addr else none
  modCur (fun c => ({ c with
    pend := c.pend ++ [⟨id, if d = 0 then .none else .s d, since + s.latency loadClass.1 loadClass.2, .load parts signed (sc.map (·.1)), note⟩] } : Context).empty d)
  endAccess
  advance

section Loads
variable {s : State} {signed : Bool} {d base : BitVec 5} {sz : BitVec 2} {off : BitVec 8} (hd : s.cur.isFull d = true) (hb : s.cur.isFull base = true)
include hd hb

theorem loadForm_plain : loadForm signed d base sz off none s = loadAccess signed d (effAddr (s.cur.getS base) off sz) (2 ^ sz.toNat) none s := by
  rw [loadForm, act_bind_destReady hd, act_bind_readSrc hb]
  rfl

theorem loadForm_acquire {c : BitVec 3} {scope : Scope} {dem : Bool} (hscope : ScopeFor s c scope dem)
    (halign : (effAddr (s.cur.getS base) off sz).toNat % 2 ^ sz.toNat = 0) : loadForm signed d base sz off (some c) s =
      loadAccess signed d (effAddr (s.cur.getS base) off sz) (2 ^ sz.toNat) (some (scope, dem)) s := by
  rw [loadForm, act_bind_destReady hd, act_bind_readSrc hb]
  dsimp only
  rw [act_bind_raiseIf (by simp [halign])]
  exact act_bind_ok (scopeOf_scopeFor hscope)

end Loads

section LoadAccess
variable {s : State} {p : Passed} {ps : List Piece} {sc : Option (Scope × Bool)} {va : Word} {n : Nat}

/-- Local pieces are read as the load lands (R377). -/
theorem remotePieces_local (s : State) (va : Word) (h : LocalPieces ps) : remotePieces va ps s = .ok (ps.map (fun x => (x, none)), s) := by
  induction ps with
  | nil => rfl
  | cons x rest ih =>
    have hx : x.page.remote.isNone = true := by rw [h x (by simp)]; rfl
    have hrest := ih fun y hy => h y (by simp [hy])
    rw [remotePieces, act_bind_get, if_pos hx, act_bind_pure]
    exact act_bind_ok hrest

/-- What the access has passed is what it finds on its PC (R146). -/
theorem passed_withPast (s : State) (hpc : p.pc = s.cur.pc) : (s.withPast (some p)).cur.passed = some p := by
  simp [Context.passed, State.withPast, hpc]

theorem loadAccess_outstanding {signed : Bool} {d : BitVec 5} (hacc : AccessOk s sc va n 1 p ps) (hlocal : LocalPieces ps) (hacq : NoAcquire s) :
    loadAccess signed d va n sc s =
      .ok ((), s.loading p.since d ps signed (sc.map (·.1)) (if sc.any (·.2) then some va else none)) := by
  obtain ⟨hpc, hrun⟩ := hacc
  rw [loadAccess, act_bind_ok (t := s.withPast (some p)) hrun, act_bind_ok (awaitAcquire_of_noAcquire (s := s.withPast (some p)) hacq),
    act_bind_ok (remotePieces_local _ va hlocal), act_bind_get, passed_withPast s hpc]
  exact congrArg (fun t => Except.ok ((), t)) (congrArg State.goOn (pending_withPast s (some p) _ d))

end LoadAccess

/-! ## The parts of a store -/

/-- ST and STL from the checks of the access on (R142). -/
def storeAccess (addr v : Word) (n : Nat) (sc : Option (Scope × Bool)) : Act Unit := do
  let pieces ← scalarAccess sc addr n 2
  awaitAcquire
  checkRemotes pieces addr
  match sc with
  | none => pure ()
  | some r => releaseWriteback r.1
  issueStores addr (sc.map (fun r => (r.1, if r.2 then some addr else none))) none pieces (natBytes v.toNat n)
  endAccess
  advance

section Stores
variable {s : State} {d base : BitVec 5} {sz : BitVec 2} {off : BitVec 8} (hd : s.cur.isFull d = true) (hb : s.cur.isFull base = true)
include hd hb

theorem storeForm_plain : storeForm d base sz off none s = storeAccess (effAddr (s.cur.getS base) off sz) (s.cur.getS d) (2 ^ sz.toNat) none s := by
  rw [storeForm, act_bind_readSrc hb, act_bind_readSrc hd]
  rfl

theorem storeForm_release {c : BitVec 3} {scope : Scope} {dem : Bool} (hscope : ScopeFor s c scope dem)
    (halign : (effAddr (s.cur.getS base) off sz).toNat % 2 ^ sz.toNat = 0) : storeForm d base sz off (some c) s =
      storeAccess (effAddr (s.cur.getS base) off sz) (s.cur.getS d) (2 ^ sz.toNat) (some (scope, dem)) s := by
  rw [storeForm, act_bind_readSrc hb, act_bind_readSrc hd]
  dsimp only
  rw [act_bind_raiseIf (by simp [halign])]
  exact act_bind_ok (scopeOf_scopeFor hscope)

end Stores

section StoreAccess
variable {s : State} {p : Passed} {ps : List Piece} {va v : Word} {n : Nat}

theorem checkRemotes_ok (h : RemoteOk s ps) (va : Word) : checkRemotes ps va s = .ok ((), s) := by
  refine forM_ok fun x hx => ?_
  rw [act_ite]
  split
  · obtain ⟨w, hw, hlen, hright⟩ := h x hx ‹_›
    have htarget : remoteTarget x.pa x.len true va s = .ok ((w, x.pa % 2 ^ 36), s) := by
      rw [remoteTarget, act_bind_get, hw]
      dsimp only
      rw [if_neg (by simpa [hright] using hlen)]
      rfl
    rw [act_bind_ok htarget]
    rfl
  · rfl

theorem holdUnit_piece (va : Word) (pair : Option Nat) (x : Piece) (bs : List Byte) (h : List StoreRec) (k : Nat) :
    holdUnit va pair none [(x, bs)] (s.withHold h k) = .ok (k, s.withHold (h ++
      [{ StoreRec.new k s.cur.ref (s.locOf s.cur) x.pa bs x.page with rels := [], req := k + 1, pair := pair.getD k, va := va }]) (k + 2)) := rfl

/-- The pieces of a plain store enter the hold buffer one after another, the first one's number naming them all (R143, R280). -/
theorem issueStores_plain (va : Word) (pair : Option Nat) (bs : List Byte) (h : List StoreRec) (k : Nat) :
    issueStores va none pair ps bs (s.withHold h k) = .ok ((), s.withHold (h ++ heldOf s va [] (pair.getD k) ps bs k) (k + 2 * ps.length)) := by
  induction ps generalizing pair bs h k with
  | nil =>
    rw [heldOf, List.append_nil]
    rfl
  | cons x rest ih =>
    have hpair : (pair.or (some k)).getD (k + 2) = pair.getD k := by cases pair <;> rfl
    have hnext : k + 2 + 2 * rest.length = k + 2 * (x :: rest).length := by
      rw [List.length_cons]
      omega
    rw [issueStores, heldOf, List.append_cons, ← hnext]
    refine (act_bind_ok (holdUnit_piece va pair x _ h k)).trans ((ih _ _ _ _).trans ?_)
    rw [hpair]

theorem heldOf_withPast (s : State) (q : Option Passed) (va : Word) (rels : List Release) (pair : Nat) (ps : List Piece) (bs : List Byte) (id : Nat) :
    heldOf (s.withPast q) va rels pair ps bs id = heldOf s va rels pair ps bs id := by
  induction ps generalizing bs id with
  | nil => rfl
  | cons x rest ih =>
    rw [heldOf, heldOf, ih]
    rfl

theorem storeAccess_plain (hacc : AccessOk s none va n 2 p ps) (hremote : RemoteOk s ps) (hacq : NoAcquire s) :
    storeAccess va v n none s = .ok ((), (s.storing va ps (natBytes v.toNat n) []).goOn) := by
  obtain ⟨-, hrun⟩ := hacc
  have hissue := issueStores_plain (s := s.withPast (some p)) (ps := ps) va none (natBytes v.toNat n) s.hold s.nextId
  rw [storeAccess, act_bind_ok (t := s.withPast (some p)) hrun, act_bind_ok (awaitAcquire_of_noAcquire (s := s.withPast (some p)) hacq),
    act_bind_ok (checkRemotes_ok (s := s.withPast (some p)) hremote va)]
  refine (act_bind_ok hissue).trans ?_
  rw [heldOf_withPast]
  rfl

theorem storeAccess_release {x : Piece} {scope : Scope} {dem : Bool} (hacc : AccessOk s (some (scope, dem)) va n 2 p [x]) (hremote : RemoteOk s [x])
    (hacq : NoAcquire s) : storeAccess va v n (some (scope, dem)) s = .ok ((), ((s.released scope).storing va [x] (natBytes v.toNat n)
      [⟨s.cur.ref, (s.released scope).nextId, scope, (s.released scope).releaseDeps (s.released scope).cur true scope,
        if dem then some va else none⟩]).goOn) := by
  obtain ⟨-, hrun⟩ := hacc
  rw [storeAccess, act_bind_ok (t := s.withPast (some p)) hrun, act_bind_ok (awaitAcquire_of_noAcquire (s := s.withPast (some p)) hacq),
    act_bind_ok (checkRemotes_ok (s := s.withPast (some p)) hremote va)]
  dsimp only
  rw [act_bind_ok (releaseWriteback_eq scope _), released_withPast, ← released_keeps_ref s scope]
  rfl

end StoreAccess

/-- Settles O7: each form is the checks of its access and then the load outstanding, or the store's pieces in the hold buffer. -/
theorem loadsAndStores : Obligations.LoadsAndStores := by
  refine ⟨⟨fun o s p ps hd hb hacq hacc hlocal => ?_, fun o s p ps sc dem hd hb hacq halign hscope hacc hlocal => ?_⟩,
    fun o s p ps hd hb hacq hacc hremote => ?_, fun o s p x sc dem hd hb hacq halign hscope hacc hremote => ?_⟩
  · exact ⟨runAct_ok ((loadForm_plain hd hb).trans (loadAccess_outstanding hacc hlocal hacq)),
      runAct_ok ((loadForm_plain hd hb).trans (loadAccess_outstanding hacc hlocal hacq))⟩
  · exact ⟨runAct_ok ((loadForm_acquire hd hb hscope halign).trans (loadAccess_outstanding hacc hlocal hacq)),
      runAct_ok ((loadForm_acquire hd hb hscope halign).trans (loadAccess_outstanding hacc hlocal hacq))⟩
  · exact runAct_ok ((storeForm_plain hd hb).trans (storeAccess_plain hacc hremote hacq))
  · exact runAct_ok ((storeForm_release hd hb hscope halign).trans (storeAccess_release hacc hremote hacq))

end Sys2Proof.Machine
end

section
/-! PROOFS. The frame of a store (O8): what the context reads after one. -/
namespace Sys2Proof.Machine

/-! ## Bytes of a number -/

theorem natBytes_getD (v n i : Nat) (h : i < n) : (natBytes v n).getD i emptyByte = BitVec.ofNat 8 (v / 256 ^ i) := by
  induction n generalizing v i with
  | zero => omega
  | succ n ih =>
    cases i with
    | zero =>
      rw [natBytes, List.getD_cons_zero, Nat.pow_zero, Nat.div_one]
      exact BitVec.eq_of_toNat_eq (by simp)
    | succ i => rw [natBytes, List.getD_cons_succ, ih _ _ (by omega), Nat.div_div_eq_div_mul, Nat.pow_succ, Nat.mul_comm]

theorem byte_of_word (v : Word) (i : Nat) : BitVec.ofNat 8 (v.toNat / 256 ^ i) = v.extractLsb' (8 * i) 8 := by
  refine BitVec.eq_of_toNat_eq ?_
  rw [BitVec.toNat_ofNat, BitVec.extractLsb'_toNat, Nat.shiftRight_eq_div_pow, Nat.pow_mul]

/-! ## The last store that covers a byte -/

section LastCover
variable {l : List StoreRec} {r : StoreRec} {a : Nat} {p q : StoreRec → Bool}

theorem lastCover_append_hit (hc : r.covers a = true) (hp : p r = true) : lastCover (l ++ [r]) a p = some r := by
  rw [lastCover, List.filter_append, List.filter_singleton, hc, hp]
  exact List.getLast?_concat

theorem lastCover_append_miss (hc : r.covers a = false) : lastCover (l ++ [r]) a p = lastCover l a p := by
  rw [lastCover, List.filter_append, List.filter_singleton, hc]
  exact congrArg List.getLast? (List.append_nil _)

theorem lastCover_congr (h : ∀ r ∈ l, p r = q r) : lastCover l a p = lastCover l a q := by
  rw [lastCover, lastCover]
  exact congrArg List.getLast? (List.filter_congr fun r hr => by rw [h r hr])

end LastCover

/-! ## What a context reads -/

section Reads
variable {s : State} {va : Word} {x : Piece} {bs : List Byte}

/-- What a context reads depends on its name, kind and engine alone. -/
theorem loadByte_congr {c d : Context} (href : d.ref = c.ref) (hkind : d.kind = c.kind) (heng : d.engine = c.engine) (before : Nat)
    (old : Option OldCopy) (page : PageInfo) (a : Nat) : s.loadByte d before old page a = s.loadByte c before old page a := by
  have hcore : d.core? = c.core? := by rw [Context.core?, Context.core?, hkind, heng]
  have hslot : d.slot = c.slot := congrArg CtxRef.slot href
  have hgrp : d.grp = c.grp := by rw [Context.grp, Context.grp, hkind, heng]
  have hloc : s.locOf d = s.locOf c := by rw [State.locOf, State.locOf, hkind, heng, hgrp, hslot]
  have hsees : s.sees d = s.sees c := by
    funext r
    rw [State.sees, State.sees, hloc, href, hcore]
  have hseen : s.seenByte d a = s.seenByte c a := by rw [State.seenByte, State.seenByte, hsees]
  rw [State.loadByte, State.loadByte, href, hcore, hseen]

/-- The record of a plain store's piece. -/
def State.storeRec (s : State) (va : Word) (x : Piece) (bs : List Byte) : StoreRec :=
  { StoreRec.new s.nextId s.cur.ref (s.locOf s.cur) x.pa (bs.take x.len) x.page with rels := [], req := s.nextId + 1, pair := s.nextId, va := va }

theorem storing_hold : (s.storing va [x] bs []).hold = s.hold ++ [s.storeRec va x bs] := rfl

theorem storeRec_covers (hlen : bs.length = x.len) (a : Nat) : (s.storeRec va x bs).covers a = decide (x.pa ≤ a ∧ a < x.pa + x.len) := by
  have hbytes : (s.storeRec va x bs).bytes = bs := List.take_of_length_le hlen.le
  rw [StoreRec.covers, hbytes, hlen, Bool.decide_and]
  rfl

/-- The context itself goes on; its name, kind and engine stay. -/
theorem loadByte_goOn (t : State) (before : Nat) (old : Option OldCopy) (page : PageInfo) (a : Nat) :
    t.goOn.loadByte t.goOn.cur before old page a = t.loadByte t.cur before old page a :=
  loadByte_congr (s := t.goOn) (c := t.cur) (congrArg₂ CtxRef.mk (nextSeq_slot t.cur) (nextSeq_num t.cur)) (nextSeq_kind t.cur) (nextSeq_engine t.cur)
    before old page a

section Stored
variable (hlen : bs.length = x.len) (old : Option OldCopy) (page : PageInfo) {a : Nat}
include hlen

/-- A byte that the store does not cover is read as before (R148). -/
theorem loadByte_storing_elsewhere (hids : ∀ r ∈ s.hold, r.id < s.nextId) (ha : ¬(x.pa ≤ a ∧ a < x.pa + x.len)) :
    (s.storing va [x] bs []).loadByte (s.storing va [x] bs []).cur (s.nextId + 2) old page a = s.loadByte s.cur s.nextId old page a := by
  have hmiss : (s.storeRec va x bs).covers a = false := by rw [storeRec_covers hlen, decide_eq_false ha]
  have hsame : ∀ r ∈ s.hold, (r.owned s.cur.ref && decide (r.id < s.nextId + 2)) = (r.owned s.cur.ref && decide (r.id < s.nextId)) := fun r hr => by
    have hid := hids r hr
    rw [decide_eq_true hid, decide_eq_true (by omega : r.id < s.nextId + 2)]
  rw [State.loadByte, storing_hold, lastCover_append_miss hmiss, State.loadByte,
    ← lastCover_congr (p := fun r => r.owned s.cur.ref && decide (r.id < s.nextId + 2)) hsame]
  rfl

/-- A byte of the store is read as stored (R148). -/
theorem loadByte_storing_here (ha : x.pa ≤ a ∧ a < x.pa + x.len) :
    (s.storing va [x] bs []).loadByte (s.storing va [x] bs []).cur (s.nextId + 2) old page a = bs.getD (a - x.pa) emptyByte := by
  have hhit : (s.storeRec va x bs).covers a = true := by rw [storeRec_covers hlen, decide_eq_true ha]
  have hbytes : (s.storeRec va x bs).bytes = bs := List.take_of_length_le hlen.le
  have hown : ((s.storeRec va x bs).owned s.cur.ref && decide ((s.storeRec va x bs).id < s.nextId + 2)) = true := by
    simp [StoreRec.owned, State.storeRec, StoreRec.new]
  rw [State.loadByte, storing_hold, lastCover_append_hit hhit hown]
  exact congrArg (fun l : List Byte => l.getD (a - x.pa) emptyByte) hbytes

end Stored
end Reads

/-- Settles O8: the store's record is the last in the hold buffer, and the context's own (R148). -/
theorem storeFrame : Obligations.StoreFrame := by
  intro o s p pa info hd hb hacq hacc hlocal hids
  have hlen := length_natBytes (s.cur.getS o.d).toNat (2 ^ o.sz.toNat)
  have hremote : RemoteOk s [⟨pa, 2 ^ o.sz.toNat, info⟩] := fun q hq hr => by
    rw [List.mem_singleton.1 hq, hlocal] at hr
    cases hr
  refine ⟨_, runAct_ok ((storeForm_plain hd hb).trans (storeAccess_plain hacc hremote hacq)), fun old page a ha => ⟨?_, fun _ => rfl⟩,
    fun old page i hi => ?_, fun n => ⟨?_, ?_⟩, nextSeq_p _, nextSeq_fcsr _, nextSeq_epc _, nextSeq_ecause _, nextSeq_eval _, nextSeq_v _, nextSeq_m _,
    nextSeq_a _, rfl⟩
  · rw [loadByte_goOn]
    exact loadByte_storing_elsewhere hlen old page hids ha
  · rw [loadByte_goOn]
    refine (loadByte_storing_here hlen old page ⟨Nat.le_add_right pa i, Nat.add_lt_add_left hi pa⟩).trans ?_
    rw [Nat.add_sub_cancel_left, natBytes_getD _ _ _ hi, byte_of_word]
  · simp [State.goOn, Context.getS, State.storing]
  · simp [State.goOn, Context.isFull, State.storing]

end Sys2Proof.Machine
end

section
/-! PROOFS. The checks of an access (O10, part 1): the pages and pieces of an aligned one, and where the checks pass (R142, R143, R353). -/
namespace Sys2Proof.Machine

/-! ## An aligned access of up to 8 bytes lies in one page and one sector -/

section Aligned
variable {k : Nat} (hk : k ≤ 3) {a : Nat} (ha : a % 2 ^ k = 0)
include hk ha

theorem pageStarts_aligned : pageStarts a (2 ^ k) = [a] := by
  have hpage : a / 2 ^ 16 = (a + 2 ^ k - 1) / 2 ^ 16 := by interval_cases k <;> omega
  rw [pageStarts, if_pos hpage]

theorem sectorCuts_aligned : sectorCuts a 4 (2 ^ k) = [(a, 2 ^ k)] := by
  have hfits : min (2 ^ k) (32 - a % 32) = 2 ^ k := by interval_cases k <;> omega
  have hpos : 2 ^ k ≠ 0 := by positivity
  rw [sectorCuts, hfits, Nat.sub_self, sectorCuts]
  · exact Nat.succ_ne_zero 2
  · exact hpos

end Aligned

/-! ## Stage 1 of an access within one page (R142) -/

section Stage1
variable {s : State} {va : Word} {n : Nat} {rights : BitVec 3} {fmtOk : BitVec 4 → Bool} (hpage : pageStarts va.toNat n = [va.toNat])
include hpage

theorem stage1Pages_hit {ipa : Nat} {e1 : Word} (h1 : stage1 s (s.vfOf s.cur.slot) va rights = .ok (ipa, e1)) :
    stage1Pages va n rights fmtOk s = (do
      raiseIf (!fmtOk (pageOf e1).fmt) Code.formatMismatch 0 va
      pure [(va.toNat, ipa, e1)]) s := by
  rw [stage1Pages, act_bind_curVf, hpage]
  rw [act_bind_ok (a := [(va.toNat, ipa, e1)]) (t := s)]
  · exact act_bind_raiseIf (by simp) _ _ _ _ _
  · rw [List.mapM_cons, act_bind_ok (a := (va.toNat, ipa, e1)) (t := s)]
    · rfl
    · rw [act_bind_get, BitVec.ofNat_toNat, BitVec.setWidth_eq, h1]
      rfl

theorem stage1Pages_ok {ipa : Nat} {e1 : Word} (h1 : stage1 s (s.vfOf s.cur.slot) va rights = .ok (ipa, e1)) (hfmt : fmtOk (pageOf e1).fmt = true) :
    stage1Pages va n rights fmtOk s = .ok ([(va.toNat, ipa, e1)], s) := by
  rw [stage1Pages_hit hpage h1, act_bind_raiseIf (by simp [hfmt])]
  rfl

theorem stage1Pages_format {ipa : Nat} {e1 : Word} (h1 : stage1 s (s.vfOf s.cur.slot) va rights = .ok (ipa, e1)) (hfmt : fmtOk (pageOf e1).fmt = false) :
    stage1Pages va n rights fmtOk s = .error (.raise ⟨Code.formatMismatch, 0, va, false⟩) := by
  rw [stage1Pages_hit hpage h1, act_bind_raiseIf_stop (by simp [hfmt])]

theorem stage1Pages_fault {c d : BitVec 8} (h1 : stage1 s (s.vfOf s.cur.slot) va rights = .fault c d) :
    stage1Pages va n rights fmtOk s = .error (.raise ⟨c, d, va, false⟩) := by
  rw [stage1Pages, act_bind_curVf, hpage]
  refine act_bind_error ?_
  rw [List.mapM_cons]
  refine act_bind_error ?_
  rw [act_bind_get, BitVec.ofNat_toNat, BitVec.setWidth_eq, h1]
  rfl

end Stage1

/-! ## The whole access -/

section Access
variable {s : State} {sc : Option (Scope × Bool)} {va : Word} {n : Nat} {rights : BitVec 3}

theorem passOnce_first {checks : Act (List (Nat × Nat × Word))} {pages : List (Nat × Nat × Word)} (hnone : s.cur.passed = none)
    (hchecks : checks s = .ok (pages, s)) (hslot : SlotFree s) (va : Word) :
    passOnce sc checks va s = .ok (pages, s.withPast (some ⟨s.cur.pc, sc, pages, s.cycle, []⟩)) := by
  rw [passOnce, act_bind_get, hnone]
  dsimp only
  rw [act_bind_ok hchecks, act_bind_ok (awaitRequestSlots_slotFree hslot va)]
  rfl

theorem passOnce_stops {checks : Act (List (Nat × Nat × Word))} {e : Stop} (hnone : s.cur.passed = none) (hchecks : checks s = .error e) (va : Word) :
    passOnce sc checks va s = .error e := by
  rw [passOnce, act_bind_get, hnone]
  exact act_bind_error hchecks

/-- A stop in stage 1 stops the access: nothing has been performed (R146). -/
theorem scalarAccess_stops {e : Stop} (hnone : s.cur.passed = none) (h : stage1Pages va n rights (· == 0) s = .error e) :
    scalarAccess sc va n rights s = .error e := by
  rw [scalarAccess]
  exact act_bind_error (passOnce_stops hnone h va)

/-- Only a copy context's scalar accesses meet its copies (R251). -/
theorem copyConflict_other_kind (t : State) {c : Context} (hk : c.kind ≠ .ce) (pieces : List Piece) (write : Bool) :
    t.copyConflict c pieces write = false := by
  rw [State.copyConflict, beq_eq_false_iff_ne.2 hk]
  rfl

/-- A piece of an access: its first byte through stage 2 (R142, R143). -/
def accessPiece (pages : List (Nat × Nat × Word)) (rights : BitVec 3) (va : Word) : Nat × Nat → Act Piece := fun (a, k) => do
  let i ← stage2At pages a rights va
  pure { pa := i.pa, len := k, page := i }

theorem accessPieces_one {pages : List (Nat × Nat × Word)} {a : Nat} {i : PageInfo} (h : stage2At pages a rights va s = .ok (i, s)) :
    [(a, n)].mapM (accessPiece pages rights va) s = .ok ([⟨i.pa, n, i⟩], s) := by
  rw [List.mapM_cons]
  exact act_bind_ok (act_bind_ok h)

/-- What an access within one page has passed once stage 1 has answered (R146). -/
def Passed.first (s : State) (sc : Option (Scope × Bool)) (va : Word) (ipa : Nat) (e1 : Word) : Passed :=
  ⟨s.cur.pc, sc, [(va.toNat, ipa, e1)], s.cycle, []⟩

theorem accessOk_aligned {k : Nat} {ipa : Nat} {e1 : Word} {info : PageInfo} (hk : k ≤ 3) (halign : va.toNat % 2 ^ k = 0) (hnone : s.cur.passed = none)
    (h1 : stage1 s (s.vfOf s.cur.slot) va rights = .ok (ipa, e1)) (hfmt : (pageOf e1).fmt = 0) (hslot : SlotFree s)
    (hfull : translateFull s (s.vfOf s.cur.slot) va rights = .ok info) (hmem : IsMemory s info.pa) (hkind : s.cur.kind ≠ .ce) :
    AccessOk s sc va (2 ^ k) rights (Passed.first s sc va ipa e1) [⟨info.pa, 2 ^ k, info⟩] := by
  obtain ⟨pa, e2, h2, rfl⟩ := translateFull_ok hfull h1
  have hpages := stage1Pages_ok (fmtOk := (· == 0)) (pageStarts_aligned hk halign) h1 (by simp [hfmt])
  have hstage2 : ∀ p, stage2At [(va.toNat, ipa, e1)] va.toNat rights va (s.withPast p) = .ok (combine e1 pa e2, s.withPast p) := fun p =>
    stage2At_ok (x := (va.toNat, ipa, e1)) (by simp) (by rw [stage2_withPast, stage1_offset h1]; exact h2)
  have hbank : ∀ p, checkBank (combine e1 pa e2).pa va (s.withPast p) = .ok ((), s.withPast p) := fun p =>
    checkBank_isMemory (s := s.withPast p) hmem va
  have hcopies := copyConflict_other_kind (s.withPast (some (Passed.first s sc va ipa e1)))
    (c := (s.withPast (some (Passed.first s sc va ipa e1))).cur) hkind
  refine ⟨rfl, ?_⟩
  rw [scalarAccess, act_bind_ok (passOnce_first hnone hpages hslot va), sectorCuts_aligned hk halign]
  refine (act_bind_ok (accessPieces_one (hstage2 _))).trans ?_
  rw [act_bind_ok (forM_ok fun p hp => ?_), act_bind_get]
  · exact act_bind_waitIf (hcopies _ _) _ _ _
  · rw [List.mem_singleton.1 hp]
    exact hbank _

end Access
end Sys2Proof.Machine
end

section
/-! PROOFS. The checks of an access (O10, part 2): the faults (R142, R144 to R146, R353). -/
namespace Sys2Proof.Machine

/-! ## Stops of the forms -/

section Stops
variable {s : State} {d base : BitVec 5} {sz : BitVec 2} {off : BitVec 8} {signed : Bool} (hd : s.cur.isFull d = true) (hb : s.cur.isFull base = true)
include hd hb

theorem loadForm_misaligned (c : BitVec 3) (h : (effAddr (s.cur.getS base) off sz).toNat % 2 ^ sz.toNat ≠ 0) :
    loadForm signed d base sz off (some c) s = .error (.raise ⟨Code.misaligned, 0, effAddr (s.cur.getS base) off sz, false⟩) := by
  rw [loadForm, act_bind_destReady hd, act_bind_readSrc hb]
  dsimp only
  rw [act_bind_raiseIf_stop (by simp [h])]

theorem storeForm_misaligned (c : BitVec 3) (h : (effAddr (s.cur.getS base) off sz).toNat % 2 ^ sz.toNat ≠ 0) :
    storeForm d base sz off (some c) s = .error (.raise ⟨Code.misaligned, 0, effAddr (s.cur.getS base) off sz, false⟩) := by
  rw [storeForm, act_bind_readSrc hb, act_bind_readSrc hd]
  dsimp only
  rw [act_bind_raiseIf_stop (by simp [h])]

theorem loadForm_scope_stops {c : BitVec 3} {e : Stop} (halign : (effAddr (s.cur.getS base) off sz).toNat % 2 ^ sz.toNat = 0)
    (h : scopeOf c s = .error e) : loadForm signed d base sz off (some c) s = .error e := by
  rw [loadForm, act_bind_destReady hd, act_bind_readSrc hb]
  dsimp only
  rw [act_bind_raiseIf (by simp [halign])]
  exact act_bind_error h

theorem storeForm_scope_stops {c : BitVec 3} {e : Stop} (halign : (effAddr (s.cur.getS base) off sz).toNat % 2 ^ sz.toNat = 0)
    (h : scopeOf c s = .error e) : storeForm d base sz off (some c) s = .error e := by
  rw [storeForm, act_bind_readSrc hb, act_bind_readSrc hd]
  dsimp only
  rw [act_bind_raiseIf (by simp [halign])]
  exact act_bind_error h

theorem loadForm_access_stops {e : Stop} (h : scalarAccess none (effAddr (s.cur.getS base) off sz) (2 ^ sz.toNat) 1 s = .error e) :
    loadForm signed d base sz off none s = .error e := by
  rw [loadForm_plain hd hb]
  exact act_bind_error h

theorem storeForm_access_stops {e : Stop} (h : scalarAccess none (effAddr (s.cur.getS base) off sz) (2 ^ sz.toNat) 2 s = .error e) :
    storeForm d base sz off none s = .error e := by
  rw [storeForm_plain hd hb]
  exact act_bind_error h

end Stops

/-- The ordered loads and the ordered store, where their forms stop alike. -/
theorem exec_ordered_raises {o : MOrd} {s : State} {f : FaultRec} (hload : ∀ signed, loadForm signed o.d o.base o.sz o.off (some o.sc) s = .error (.raise f))
    (hstore : storeForm o.d o.base o.sz o.off (some o.sc) s = .error (.raise f)) :
    ∀ i ∈ [Instr.ldaSigned o, .ldaUnsigned o, .stl o], exec i s = .next (s.takeFault s.cur.ref f s.cur.pc) := by
  simp only [List.forall_mem_cons, List.not_mem_nil, false_imp_iff, implies_true, and_true]
  exact ⟨runAct_raise (hload true), runAct_raise (hload false), runAct_raise hstore⟩

/-- SCOPE_TRAP (R145). -/
theorem scopeOf_trap {s : State} {c : BitVec 3} (hpol : s.scopePol (s.vfOf s.cur.slot) = 1) (hnone : s.cur.passed = none) (hsys : scopeOfCode c = .sys) :
    scopeOf c s = .error (.raise ⟨Code.scopeTrap, 0, 0, false⟩) := by
  rw [scopeOf, act_bind_get, hnone]
  dsimp only [Option.bind_none]
  rw [if_pos hsys, act_bind_curVf, if_pos hpol]
  rfl

/-! ## Atomics -/

section Atomics
variable {s : State} {d a b : BitVec 5} (hd : s.cur.isFull d = true) (ha : s.cur.isFull a = true) (hb : s.cur.isFull b = true) {n : Nat} {k : AtomKind}
  {signed qa qb cas : Bool} {op : AtomOp} {ord : BitVec 2} {sc : BitVec 3}
include hd ha hb

theorem atomicForm_misaligned (h : (s.cur.getS a).toNat % n ≠ 0) : runAct (atomicForm k n signed op d a b qa qb ord sc cas) s =
    .next (s.takeFault s.cur.ref ⟨Code.misaligned, 0, s.cur.getS a, false⟩ s.cur.pc) := by
  refine runAct_raise ?_
  rw [atomicForm_eq, act_bind_destReady hd, act_bind_readSrc ha, act_bind_readSrc hb, act_bind_get, act_bind_raiseIf_stop (by simp [h])]

theorem atomicForm_scope_raises {f : FaultRec} (halign : (s.cur.getS a).toNat % n = 0) (hord : ord ≠ 0) (h : scopeOf sc s = .error (.raise f)) :
    runAct (atomicForm k n signed op d a b qa qb ord sc cas) s = .next (s.takeFault s.cur.ref f s.cur.pc) := by
  refine runAct_raise ?_
  rw [atomicForm_eq, act_bind_destReady hd, act_bind_readSrc ha, act_bind_readSrc hb, act_bind_get, act_bind_raiseIf (by simp [halign]),
    withAtomicScope, if_neg hord]
  exact act_bind_error (act_bind_error h)

end Atomics

theorem exec_amo_misaligned {o : Amo} {s : State} (hd : s.cur.isFull o.d = true) (ha : s.cur.isFull o.a = true) (hb : s.cur.isFull o.b = true) :
    let t := s.cur.getS o.a
    (t.toNat % 4 ≠ 0 → ∀ i ∈ [Instr.amoI32 o, .amoN32 o, .amofF32 o], exec i s = .next (s.takeFault s.cur.ref ⟨0x05, 0, t, false⟩ s.cur.pc)) ∧
    (t.toNat % 8 ≠ 0 → ∀ i ∈ [Instr.amoI64 o, .amoN64 o], exec i s = .next (s.takeFault s.cur.ref ⟨0x05, 0, t, false⟩ s.cur.pc)) ∧
    (t.toNat % 2 ≠ 0 → exec (.amofBf16 o) s = .next (s.takeFault s.cur.ref ⟨0x05, 0, t, false⟩ s.cur.pc)) := by
  simp only [List.forall_mem_cons, List.not_mem_nil, false_imp_iff, implies_true, and_true]
  exact ⟨fun h => ⟨atomicForm_misaligned hd ha hb h, atomicForm_misaligned hd ha hb h, atomicForm_misaligned hd ha hb h⟩,
    fun h => ⟨atomicForm_misaligned hd ha hb h, atomicForm_misaligned hd ha hb h⟩, fun h => atomicForm_misaligned hd ha hb h⟩

theorem exec_amo_scope_raises {o : Amo} {s : State} {f : FaultRec} (hd : s.cur.isFull o.d = true) (ha : s.cur.isFull o.a = true)
    (hb : s.cur.isFull o.b = true) (hord : o.ord ≠ 0) (halign : (s.cur.getS o.a).toNat % 8 = 0) (h : scopeOf o.sc s = .error (.raise f)) :
    ∀ i ∈ [Instr.amoI32 o, .amoN32 o, .amoI64 o, .amoN64 o, .amofF32 o, .amofBf16 o], exec i s = .next (s.takeFault s.cur.ref f s.cur.pc) := by
  have h4 : (s.cur.getS o.a).toNat % 4 = 0 := by omega
  have h2 : (s.cur.getS o.a).toNat % 2 = 0 := by omega
  simp only [List.forall_mem_cons, List.not_mem_nil, false_imp_iff, implies_true, and_true]
  exact ⟨atomicForm_scope_raises hd ha hb h4 hord h, atomicForm_scope_raises hd ha hb h4 hord h, atomicForm_scope_raises hd ha hb halign hord h,
    atomicForm_scope_raises hd ha hb halign hord h, atomicForm_scope_raises hd ha hb h4 hord h, atomicForm_scope_raises hd ha hb h2 hord h⟩

/-- Settles O10: alignment first, then the scope, then the page; an aligned access that meets nothing passes. -/
theorem accessChecks : Obligations.AccessChecks := by
  refine ⟨⟨fun o s hd hb h => ?_, fun o s hd ha hb => exec_amo_misaligned hd ha hb⟩,
    fun s sc va k rights ipa e1 info hk halign hnone h1 hfmt hslot hfull hmem hkind => ?_, fun o s va hd hb hva halign hnone => ?_,
    fun s hpol hnone => ⟨fun c hsys => ?_, fun o hd hb hsys halign => ?_, fun o hd ha hb hsys hord halign => ?_⟩⟩
  · exact exec_ordered_raises (fun _ => loadForm_misaligned hd hb o.sc h) (storeForm_misaligned hd hb o.sc h)
  · exact ⟨_, rfl, accessOk_aligned hk halign hnone h1 hfmt hslot hfull hmem hkind⟩
  · have hpage := pageStarts_aligned (Nat.le_of_lt_succ o.sz.isLt) halign
    subst hva
    refine ⟨fun c d h1 => ?_, fun c d h1 => ?_, fun ipa e h1 hfmt => ?_, fun ipa e h1 hfmt => ?_⟩
    · have hstop := scalarAccess_stops (sc := none) hnone (stage1Pages_fault (fmtOk := (· == 0)) hpage h1)
      exact ⟨runAct_raise (loadForm_access_stops hd hb hstop), runAct_raise (loadForm_access_stops hd hb hstop)⟩
    · exact runAct_raise (storeForm_access_stops hd hb (scalarAccess_stops hnone (stage1Pages_fault hpage h1)))
    · exact runAct_raise (loadForm_access_stops hd hb (scalarAccess_stops hnone (stage1Pages_format hpage h1 (by simpa using hfmt))))
    · exact runAct_raise (storeForm_access_stops hd hb (scalarAccess_stops hnone (stage1Pages_format hpage h1 (by simpa using hfmt))))
  · exact runAct_raise (act_bind_error (scopeOf_trap hpol hnone hsys))
  · exact exec_ordered_raises (fun _ => loadForm_scope_stops hd hb halign (scopeOf_trap hpol hnone hsys))
      (storeForm_scope_stops hd hb halign (scopeOf_trap hpol hnone hsys))
  · exact exec_amo_scope_raises hd ha hb hord halign (scopeOf_trap hpol hnone hsys)

end Sys2Proof.Machine
end

section
/-! PROOFS. Words of the spec's examples (O56). -/
namespace Sys2Proof.Machine

/-- Settles O56: the decoder computes each word's instruction. -/
theorem decodeWords : Obligations.DecodeWords := by
  unfold Obligations.DecodeWords
  decide +kernel

end Sys2Proof.Machine
end

section
/-! PROOFS. Words built up from their high end: the next field below adds its value at its place (R167, R174). -/
namespace Sys2Proof.Machine

theorem toNat_setField_below {n : Nat} {b : BitVec n} {x : Nat} (v hi lo : Nat) (hb : b.toNat = x) (hx : x % 2 ^ (hi + 1) = 0) (hlo : lo ≤ hi) (hhi : hi < n) :
    (setField b hi lo v).toNat = x + 2 ^ lo * (v % 2 ^ (hi + 1 - lo)) := by
  obtain ⟨q, rfl⟩ := Nat.dvd_of_mod_eq_zero hx
  have hlt : 2 ^ lo * (v % 2 ^ (hi + 1 - lo)) < 2 ^ (hi + 1) := by
    calc 2 ^ lo * (v % 2 ^ (hi + 1 - lo)) < 2 ^ lo * 2 ^ (hi + 1 - lo) :=
          Nat.mul_lt_mul_of_pos_left (Nat.mod_lt _ (Nat.two_pow_pos _)) (Nat.two_pow_pos _)
      _ = 2 ^ (hi + 1) := by rw [← Nat.pow_add, Nat.add_sub_cancel' (by omega)]
  rw [Nat.two_pow_add_eq_or_of_lt hlt]
  refine Nat.eq_of_testBit_eq fun i => ?_
  rw [BitVec.testBit_toNat, getLsbD_setField b v hlo hhi, ← BitVec.testBit_toNat, hb, Nat.testBit_or, Nat.testBit_two_pow_mul, Nat.testBit_two_pow_mul,
    Nat.testBit_mod_two_pow]
  by_cases h : lo ≤ i ∧ i ≤ hi
  · simp [h, show i - lo < hi + 1 - lo by omega, show ¬ hi + 1 ≤ i by omega]
  · rw [if_neg h]
    by_cases h2 : lo ≤ i
    · simp [show ¬ i - lo < hi + 1 - lo by omega]
    · simp [h2]

theorem toNat_bit (b : Bool) : (if b = true then 1 else 0) = b.toNat := by cases b <;> rfl

end Sys2Proof.Machine
end

section
/-! PROOFS. Troughs (O16): the checks before an instruction on one, then each instruction, its waits and its refusals. -/
namespace Sys2Proof.Machine

/-! ## The trough that an instruction names (R48, R165, R166, R312) -/

section Named
variable {s : State} {i : BitVec 8} {k : Nat} {t : Trough} (hnamed : TroughNamed s i k t)
include hnamed

theorem troughNamed_of_named : troughNamed i s = .ok ((k, t), s) := by
  obtain ⟨hi, rfl, hget, hgrp⟩ := hnamed
  have hown : (!t.dev && s.cur.grp != s.homeGrp s.cur.slot) = false := by
    rcases hgrp with h | h <;> simp [h]
  rw [troughNamed, act_bind_get, act_bind_ok (relocate_within hi s)]
  simp only [show Tbl.get? s.troughs (troughKey (s.homeGrp s.cur.slot) (fieldN s.cur.wtro 15 0 + i.toNat)) = some t from hget]
  rw [act_bind_raiseIf hown]
  rfl

theorem troughReady_of_named (hconf : t.conf = true) (hinc : t.inc = false) : troughReady i s = .ok ((k, t), s) := by
  rw [troughReady, act_bind_ok (troughNamed_of_named hnamed)]
  dsimp only
  rw [act_bind_raiseIf (by simp [hconf]), act_bind_raiseIf hinc]
  rfl

end Named

theorem troughUpdate_of_consistent {t : Trough} (h : t.consistent = true) (k : Nat) (f : Trough → Trough) (s : State) :
    troughUpdate k t f s = .ok ((), s.setTrough k (f t)) := by
  rw [troughUpdate, if_pos h]
  rfl

theorem troughUpdate_of_inconsistent {t : Trough} (h : t.consistent = false) (k : Nat) (f : Trough → Trough) (s : State) :
    troughUpdate k t f s = .error (.raiseKept ⟨Code.troughInconsistent, 0, 0, false⟩ (s.setTrough k { t with inc := true })) := by
  rw [troughUpdate, h]
  rfl

/-! ## Turns (R313) -/

theorem awaitClaim_now {s : State} {k : Nat} {t : Trough} (hfree : t.slotAt t.headSlot = .free) (hturn : t.mayClaim (t.position s.cur) s.cycle = true) :
    awaitClaim k t s = .ok ((), s) := by
  rw [awaitClaim, act_bind_get]
  simp [hfree, hturn]

theorem awaitClaim_full {s : State} {k : Nat} {t : Trough} (hfree : t.slotAt t.headSlot ≠ .free) :
    awaitClaim k t s = .error (.wait (.troughFree (k / 1024) (k % 1024))
      (some (s.setTrough k { t with claimPtr := t.claimPtr.meet t.positions (t.position s.cur) s.cycle false }))) := by
  rw [awaitClaim, act_bind_get]
  simp [hfree]

theorem awaitTake_now {s : State} {k : Nat} {t : Trough} (hfull : t.takeable s.cycle = true) (hturn : t.mayTake (t.position s.cur) s.cycle = true) :
    awaitTake k t s = .ok ((), s) := by
  rw [awaitTake, act_bind_get]
  simp [hfull, hturn]

/-- R166, R213: what makes a trough's slot takeable in a cycle. -/
theorem takeable_iff (t : Trough) (cycle : Nat) :
    t.takeable cycle = true ↔ t.slotAt (t.tail % t.cap) = .full ∧ ∃ n < t.cap, t.slotAt n = .full ∧ t.filledAt.getD n 0 ≤ cycle := by
  simp [Trough.takeable, Trough.tailSlot]

/-! ## Words of slots (R165) -/

/-- Bits 12 to 31 of a slot word are reserved, its index is bits 0 to 11, its count bits 32 to 63. -/
theorem slotWord_reserved {x : Word} (h : x.toNat / 2 ^ 12 % 2 ^ 20 = 0) : (x.extractLsb' 12 20 != 0) = false := by
  simp [(extractLsb'_eq_zero_iff x 12 20).2 h]

theorem slotWord_index (x : Word) : fieldN x 11 0 = x.toNat % 2 ^ 12 := by
  rw [fieldN_eq]
  simp

theorem slotWord_count (x : Word) : fieldN x 63 32 = x.toNat / 2 ^ 32 := by
  rw [fieldN_eq]
  have := x.isLt
  omega

theorem slotWord_countBits (x : Word) : x.extractLsb' 32 32 = BitVec.ofNat 32 (x.toNat / 2 ^ 32) := by
  rw [BitVec.extractLsb', Nat.shiftRight_eq_div_pow]

/-! ## Claims, fills, takes and releases (R165, R313) -/

section Good
variable {s : State} {i : BitVec 8} {k : Nat} {t : Trough} (hnamed : TroughNamed s i k t) (hgood : TroughGood t)
include hnamed hgood

theorem exec_tclaim_claims {o : ObjD} (ho : o.t = i) (hd : s.cur.isFull o.d = true) (hfree : t.slotAt (t.head % t.cap) = .free)
    (hturn : t.mayClaim (t.position s.cur) s.cycle = true) :
    exec (.tclaim o) s = .next (((s.setTrough k (t.claimBy (t.position s.cur) s.cycle)).orderPoint s.cur false).regDone o.d
      (BitVec.ofNat 64 (t.head % t.cap))) := by
  subst ho
  obtain ⟨hconf, hinc, hcons⟩ := hgood
  refine runAct_ok ?_
  rw [act_bind_destReady hd, act_bind_ok (troughReady_of_named hnamed hconf hinc)]
  dsimp only
  rw [act_bind_ok (awaitClaim_now hfree hturn), act_bind_get, act_bind_ok (troughUpdate_of_consistent hcons k _ s)]
  rfl

theorem exec_ttake_takes {o : ObjD} (ho : o.t = i) (hd : s.cur.isFull o.d = true) (hfull : t.takeable s.cycle = true)
    (hturn : t.mayTake (t.position s.cur) s.cycle = true) :
    exec (.ttake o) s = .next (((s.setTrough k (t.takeBy (t.position s.cur) s.cycle)).orderPoint s.cur false).regDone o.d
      (t.counts.getD (t.tail % t.cap) 0 ++ BitVec.ofNat 32 (t.tail % t.cap))) := by
  subst ho
  obtain ⟨hconf, hinc, hcons⟩ := hgood
  refine runAct_ok ?_
  rw [act_bind_destReady hd, act_bind_ok (troughReady_of_named hnamed hconf hinc)]
  dsimp only
  rw [act_bind_ok (awaitTake_now hfull hturn), act_bind_ok (troughUpdate_of_consistent hcons k _ s)]
  rfl

theorem exec_tfill_fills {o : ObjA} (ho : o.t = i) (ha : s.cur.isFull o.a = true) (howed : NothingOwed s t.scope)
    (hres : (s.cur.getS o.a).toNat / 2 ^ 12 % 2 ^ 20 = 0) (hcap : (s.cur.getS o.a).toNat % 2 ^ 12 < t.cap)
    (hst : t.slotAt ((s.cur.getS o.a).toNat % 2 ^ 12) = .filling) (hn : (s.cur.getS o.a).toNat / 2 ^ 32 ≤ t.slotBytes) :
    exec (.tfill o) s = .next (s.setTrough k (t.fill ((s.cur.getS o.a).toNat % 2 ^ 12)
      (BitVec.ofNat 32 ((s.cur.getS o.a).toNat / 2 ^ 32)) s.cycle)).goOn := by
  subst ho
  obtain ⟨hconf, hinc, hcons⟩ := hgood
  refine runAct_ok ?_
  rw [act_bind_readSrc ha, act_bind_ok (troughReady_of_named hnamed hconf hinc)]
  dsimp only
  rw [act_bind_raiseIf (slotWord_reserved hres), slotWord_index, slotWord_count, slotWord_countBits,
    act_bind_raiseIf (by simpa using ⟨⟨hcap, hst⟩, hn⟩), act_bind_ok (awaitRelease_of_nothingOwed howed false),
    act_bind_ok (troughUpdate_of_consistent hcons k _ s)]
  rfl

theorem exec_trelease_frees {o : ObjA} (ho : o.t = i) (ha : s.cur.isFull o.a = true) (howed : NothingOwed s t.scope)
    (hres : (s.cur.getS o.a).toNat / 2 ^ 12 % 2 ^ 20 = 0) (hcap : (s.cur.getS o.a).toNat % 2 ^ 12 < t.cap)
    (hst : t.slotAt ((s.cur.getS o.a).toNat % 2 ^ 12) = .draining) :
    exec (.trelease o) s = .next ((s.setTrough k (t.release ((s.cur.getS o.a).toNat % 2 ^ 12))).wakeNow
      (.troughFree (k / 1024) (k % 1024))).goOn := by
  subst ho
  obtain ⟨hconf, hinc, hcons⟩ := hgood
  refine runAct_ok ?_
  rw [act_bind_readSrc ha, act_bind_ok (troughReady_of_named hnamed hconf hinc)]
  dsimp only
  rw [act_bind_raiseIf (slotWord_reserved hres), slotWord_index, act_bind_raiseIf (by simpa using ⟨hcap, hst⟩),
    act_bind_ok (awaitRelease_of_nothingOwed howed false), act_bind_ok (troughUpdate_of_consistent hcons k _ s)]
  rfl

theorem exec_twaitf_goesOn (hfull : t.takeable s.cycle = true) : exec (.twaitf i) s = .next s.goOn := by
  obtain ⟨hconf, hinc, _⟩ := hgood
  refine runAct_ok ?_
  rw [act_bind_ok (troughReady_of_named hnamed hconf hinc)]
  dsimp only
  rw [act_bind_waitIf (by simp [hfull])]
  rfl

theorem exec_twaite_goesOn (hfree : t.slotAt (t.head % t.cap) = .free) : exec (.twaite i) s = .next s.goOn := by
  obtain ⟨hconf, hinc, _⟩ := hgood
  refine runAct_ok ?_
  rw [act_bind_ok (troughReady_of_named hnamed hconf hinc)]
  dsimp only
  rw [act_bind_waitIf (by simp [Trough.headSlot, hfree])]
  rfl

end Good

/-! ## TCFG, TSTAT, TRESYNC, and the claim that does not go through (R165 to R167) -/

/-- A configured trough at its start (R165). -/
def Trough.configured (t : Trough) (base : Nat) : Trough :=
  { t with
    base := base, conf := true, inc := false, head := 0, tail := 0, claimed := 0, filled := 0
    counts := t.counts.map (fun _ => 0), claimPtr := .reset, takePtr := .reset }

/-- R167: TSTAT's word field by field. -/
theorem stat_eq {t : Trough} (hhead : t.head < 2 ^ 13) (htail : t.tail < 2 ^ 13) (hclaimed : t.claimed < 2 ^ 13) (hfilled : t.filled < 2 ^ 13) :
    t.stat = BitVec.ofNat 64 (t.head + 2 ^ 16 * t.tail + 2 ^ 32 * t.claimed + 2 ^ 48 * t.filled + 2 ^ 62 * t.inc.toNat + 2 ^ 63 * t.conf.toNat) := by
  have hc := t.conf.toNat_lt
  have hi := t.inc.toNat_lt
  have h63 := toNat_setField_below (x := 0) t.conf.toNat 63 63 (rfl : (0 : Word).toNat = 0) (by omega) (by omega) (by omega)
  have h62 := toNat_setField_below t.inc.toNat 62 62 h63 (by omega) (by omega) (by omega)
  have h48 := toNat_setField_below t.filled 60 48 h62 (by omega) (by omega) (by omega)
  have h32 := toNat_setField_below t.claimed 44 32 h48 (by omega) (by omega) (by omega)
  have h16 := toNat_setField_below t.tail 28 16 h32 (by omega) (by omega) (by omega)
  have h0 := toNat_setField_below t.head 12 0 h16 (by omega) (by omega) (by omega)
  rw [Trough.stat, toNat_bit, toNat_bit, ← BitVec.toNat_inj, BitVec.toNat_ofNat, h0]
  omega

/-- TRESYNC's walk moves the tail only (R167). -/
theorem skipTail_but_tail (t : Trough) (n : Nat) : { t.skipTail n with tail := t.tail } = t := by
  induction n generalizing t with
  | zero => rfl
  | succ n ih =>
    rw [Trough.skipTail]
    split
    · exact (congrArg (fun u : Trough => { u with tail := t.tail }) (ih { t with tail := (t.tail + 1) % (2 * t.cap) }) :)
    · rfl

/-- What TRESYNC sets beside the pointers: the counts are those of the slots' states (R167). -/
theorem resync_but_pointers (t : Trough) :
    { t.resync with head := t.head, tail := t.tail } = { t with claimed := t.count .filling, filled := t.count .full, inc := false } := by
  rw [Trough.resync]
  split
  · exact (congrArg (fun u : Trough => { u with head := t.head, inc := false }) (skipTail_but_tail { t with claimed := t.count .filling, filled := t.count .full } (t.cap - 1)) :)
  · rfl

theorem resync_head (t : Trough) : t.resync.head = (t.resync.tail + t.resync.claimed + t.resync.filled) % (2 * t.resync.cap) := rfl

section Named
variable {s : State} {i : BitVec 8} {k : Nat} {t : Trough} (hnamed : TroughNamed s i k t)
include hnamed

theorem exec_tcfg_configures {o : ObjA} {x : Slot} (ho : o.t = i) (ha : s.cur.isFull o.a = true) (hslot : s.slotOf s.cur = some x)
    (hfree : ∀ y ∈ t.slots, y = .free) (halign : (s.cur.getS o.a).toNat % 32 = 0)
    (hspan : (s.cur.getS o.a).toNat + t.cap * t.slotBytes ≤ 1024 * x.sramKiB) :
    exec (.tcfg o) s = .next (s.setTrough k (t.configured (s.cur.getS o.a).toNat)).goOn := by
  subst ho
  have hany : t.slots.any (fun y => y != .free) = false := by simpa using hfree
  refine runAct_ok ?_
  rw [act_bind_readSrc ha, act_bind_ok (troughNamed_of_named hnamed)]
  dsimp only
  rw [act_bind_raiseIf hany]
  simp only [hslot]
  rw [act_bind_raiseIf (by simpa [halign] using hspan)]
  rfl

theorem exec_tstat_reads {o : ObjD} (ho : o.t = i) (hd : s.cur.isFull o.d = true) : exec (.tstat o) s = .next (s.regDone o.d t.stat) := by
  subst ho
  refine runAct_ok ?_
  rw [act_bind_destReady hd, act_bind_ok (troughNamed_of_named hnamed)]
  rfl

theorem exec_tresync_resyncs (hconf : t.conf = true) : exec (.tresync i) s = .next (s.setTrough k t.resync).goOn := by
  refine runAct_ok ?_
  rw [act_bind_ok (troughNamed_of_named hnamed)]
  dsimp only
  rw [act_bind_raiseIf (by simp [hconf])]
  rfl

theorem exec_tclaim_waits {o : ObjD} (ho : o.t = i) (hd : s.cur.isFull o.d = true) (hconf : t.conf = true) (hinc : t.inc = false)
    (hfree : t.slotAt (t.head % t.cap) ≠ .free) :
    exec (.tclaim o) s = .next ((s.setTrough k { t with
      claimPtr := t.claimPtr.meet t.positions (t.position s.cur) s.cycle false }).enterWait (.troughFree (k / 1024) (k % 1024))) := by
  subst ho
  refine runAct_waitKeep ?_
  rw [act_bind_destReady hd, act_bind_ok (troughReady_of_named hnamed hconf hinc)]
  dsimp only
  rw [act_bind_error (awaitClaim_full hfree)]

theorem exec_tclaim_inconsistent {o : ObjD} (ho : o.t = i) (hd : s.cur.isFull o.d = true) (hconf : t.conf = true) (hinc : t.inc = false)
    (hcons : t.consistent = false) (hfree : t.slotAt (t.head % t.cap) = .free) (hturn : t.mayClaim (t.position s.cur) s.cycle = true) :
    exec (.tclaim o) s = .next ((s.setTrough k { t with inc := true }).takeFault s.cur.ref ⟨0x0F, 0, 0, false⟩ s.cur.pc) := by
  subst ho
  refine runAct_raiseKept ?_
  rw [act_bind_destReady hd, act_bind_ok (troughReady_of_named hnamed hconf hinc)]
  dsimp only
  rw [act_bind_ok (awaitClaim_now hfree hturn), act_bind_get, act_bind_error (troughUpdate_of_inconsistent hcons k _ s)]

end Named

/-- Settles O16, one lemma for each instruction on a trough. -/
theorem troughs : Obligations.Troughs := by
  refine ⟨fun s i k t hnamed hgood => ?_, fun s i k t hnamed => ?_⟩
  · exact ⟨fun _ => exec_tclaim_claims hnamed hgood, fun _ => exec_ttake_takes hnamed hgood, fun _ => exec_tfill_fills hnamed hgood,
      fun _ => exec_trelease_frees hnamed hgood, exec_twaitf_goesOn hnamed hgood, exec_twaite_goesOn hnamed hgood, takeable_iff t s.cycle⟩
  · have hrest := resync_but_pointers t
    have hclaimed : t.resync.claimed = t.count .filling := (congrArg Trough.claimed hrest :)
    have hfilled : t.resync.filled = t.count .full := (congrArg Trough.filled hrest :)
    have hcap : t.resync.cap = t.cap := (congrArg Trough.cap hrest :)
    refine ⟨fun _ _ => exec_tcfg_configures hnamed, fun o ho hd hhead htail hc hf => ?_, fun hconf => ?_, fun hconf hinc o ho hd => ?_,
      fun hconf hinc hcons o ho hd => ?_⟩
    · rw [exec_tstat_reads hnamed ho hd, stat_eq hhead htail hc hf]
    · refine ⟨exec_tresync_resyncs hnamed hconf, hclaimed, hfilled, (congrArg Trough.inc hrest :), (congrArg Trough.slots hrest :), ?_⟩
      rw [resync_head, hclaimed, hfilled, hcap]
    · exact exec_tclaim_waits hnamed ho hd hconf hinc
    · exact exec_tclaim_inconsistent hnamed ho hd hconf hinc hcons

end Sys2Proof.Machine
end

section
/-! PROOFS. Routes made and dropped (O17, part 1; R168, R169). -/
namespace Sys2Proof.Machine

/-- R168: an endpoint value as code and unit. -/
theorem endpointOf_eq (x : Word) : endpointOf x = ⟨x.toNat % 2 ^ 8, x.toNat / 2 ^ 8 % 2 ^ 4⟩ := by
  rw [endpointOf, fieldN_eq, fieldN_eq, Nat.pow_zero, Nat.div_one]

theorem endpoint_reserved {x : Word} (h : x.toNat < 2 ^ 12) : (x.extractLsb' 12 52 != 0) = false := by
  rw [bne_eq_false_iff_eq, extractLsb'_eq_zero_iff, Nat.div_eq_of_lt h, Nat.zero_mod]

theorem endpointDirs_some {e : Endpoint} {f : Bool × Bool → Bool} (h : (endpointDirs e).any f = true) : (endpointDirs e).all (fun d => !f d) = false := by
  cases hd : endpointDirs e <;> simp_all

/-- The free routes of a group. -/
def State.freeRoutes (s : State) (g : Nat) : List Nat := (List.range 64).filter (fun r => (Tbl.get? s.routes (routeKey g r)).isNone)

theorem mem_freeRoutes {s : State} {g r : Nat} : r ∈ s.freeRoutes g ↔ r < 64 ∧ Tbl.get? s.routes (routeKey g r) = none := by
  simp [State.freeRoutes]

/-- One of the numbers is picked, or none of an empty list (assumption 2). -/
theorem pickFree_of_mem {l : List Nat} {x : Nat} (h : x ∈ l) (s : State) : ∃ y ∈ l, pickFree l s = .ok (some y, { s with free := s.free + 1 }) := by
  obtain ⟨y, hy, hmem⟩ := getElem?_mod_of_mem h (Config.freeWord s.free).toNat
  exact ⟨y, hmem, by rw [← hy]; rfl⟩

theorem pickFree_nil (s : State) : pickFree [] s = .ok (none, { s with free := s.free + 1 }) := rfl

/-- The checks of SWROUTE pass: its operands name two endpoints, a source and a destination, which the instance holds, which have room for one more
route and which no HBIND has bound (R168). -/
structure RouteAllowed (s : State) (sl : Slot) (x y : Word) : Prop where
  word : x.toNat < 2 ^ 12 ∧ y.toNat < 2 ^ 12
  src : (endpointDirs (endpointOf x)).any (fun d => d.1) = true
  dst : (endpointDirs (endpointOf y)).any (fun d => d.2) = true
  held : sl.holdsEndpoint s.cur.grp (endpointOf x) = true ∧ sl.holdsEndpoint s.cur.grp (endpointOf y) = true
  srcRoom : ((s.routesOfGroup s.cur.grp).filter (fun r => r.2.src = endpointOf x)).length < endpointLimit (endpointOf x)
  dstRoom : ((s.routesOfGroup s.cur.grp).filter (fun r => r.2.dst = endpointOf y)).length < endpointLimit (endpointOf y)
  unbound : execSwroute.hbound s s.cur.grp (endpointOf x) = false ∧ execSwroute.hbound s s.cur.grp (endpointOf y) = false

section Swroute
variable {o : RRR} {s : State} {sl : Slot} (hr : RRR_Ready o s) (hslot : s.slotOf s.cur = some sl) (hok : RouteAllowed s sl (s.cur.getS o.a) (s.cur.getS o.b))
include hr hslot hok

/-- The route that SWROUTE makes (R168). -/
def State.newRoute (s : State) (r : Nat) (a b : Endpoint) : State :=
  { s with routes := Tbl.set s.routes (routeKey s.cur.grp r) ⟨s.cur.slot, a, b, [], none, 0, none⟩, free := s.free + 1 }

/-- What SWROUTE does once its checks have passed and a number has been picked (R168). -/
theorem exec_swroute_picked {p : Option Nat} (hp : pickFree (s.freeRoutes s.cur.grp) s = .ok (p, { s with free := s.free + 1 })) :
    exec (.swroute o) s = .next (match p with
      | none => ({ s with free := s.free + 1 } : State).regDone o.d (BitVec.allOnes 64)
      | some r => (s.newRoute r (endpointOf (s.cur.getS o.a)) (endpointOf (s.cur.getS o.b))).regDone o.d (BitVec.ofNat 64 r)) := by
  obtain ⟨hd, ha, hb⟩ := hr
  obtain ⟨⟨hx, hy⟩, hsrc, hdst, ⟨hholdA, hholdB⟩, hlimA, hlimB, hbA, hbB⟩ := hok
  refine runAct_ok ?_
  rw [act_bind_destReady hd, act_bind_readSrc ha, act_bind_readSrc hb, act_bind_raiseIf (endpoint_reserved hx), act_bind_raiseIf (endpoint_reserved hy), act_bind_get]
  dsimp only
  rw [act_bind_raiseIf (endpointDirs_some hsrc), act_bind_raiseIf (endpointDirs_some hdst)]
  simp only [hslot]
  rw [act_bind_raiseIf (by rw [hholdA]; rfl), act_bind_raiseIf (by rw [hholdB]; rfl), act_bind_raiseIf (by simpa using hlimA),
    act_bind_raiseIf (by simpa using hlimB), act_bind_raiseIf hbA, act_bind_raiseIf hbB]
  refine (act_bind_ok hp).trans ?_
  cases p <;> rfl

theorem exec_swroute_connects (hfree : ∃ r, r < 64 ∧ Tbl.get? s.routes (s.cur.grp * 64 + r) = none) :
    ∃ r, r < 64 ∧ Tbl.get? s.routes (s.cur.grp * 64 + r) = none ∧
      exec (.swroute o) s = .next ((s.newRoute r (endpointOf (s.cur.getS o.a)) (endpointOf (s.cur.getS o.b))).regDone o.d (BitVec.ofNat 64 r)) := by
  obtain ⟨q, hq, hnone⟩ := hfree
  obtain ⟨r, hmem, hp⟩ := pickFree_of_mem (mem_freeRoutes.2 ⟨hq, hnone⟩) s
  obtain ⟨hlt, hr0⟩ := mem_freeRoutes.1 hmem
  exact ⟨r, hlt, hr0, exec_swroute_picked hr hslot hok hp⟩

theorem exec_swroute_full (hfull : ∀ r, r < 64 → Tbl.get? s.routes (s.cur.grp * 64 + r) ≠ none) :
    exec (.swroute o) s = .next (({ s with free := s.free + 1 } : State).regDone o.d (BitVec.allOnes 64)) := by
  have hnil : s.freeRoutes s.cur.grp = [] := List.eq_nil_iff_forall_not_mem.2 fun r hmem => hfull r (mem_freeRoutes.1 hmem).1 (mem_freeRoutes.1 hmem).2
  exact exec_swroute_picked hr hslot hok (hnil ▸ pickFree_nil s)

end Swroute

/-! ## SWDROP (R169) -/

theorem freeRoute_routes {s : State} {g n : Nat} {r : Route} (hr : Tbl.get? s.routes (routeKey g n) = some r) :
    (s.freeRoute g n).routes = Tbl.del s.routes (routeKey g n) := by
  rw [State.freeRoute, hr]
  dsimp only
  split <;> rfl

theorem freeRoute_rates {s : State} {g n : Nat} {r : Route} (hr : Tbl.get? s.routes (routeKey g n) = some r) :
    (s.freeRoute g n).rates = (s.unbindRoute g n).rates := by
  rw [State.freeRoute, hr]
  dsimp only
  split <;> rfl

theorem unbindRoute_unbound {s : State} {g n : Nat} {q : Nat × RateLoop} (hq : q ∈ (s.unbindRoute g n).rates) :
    ¬(q.1 / 32 = g ∧ q.2.route = true ∧ q.2.src = n) := by
  rintro ⟨h1, h2, h3⟩
  have := (List.mem_filter.1 hq).2
  simp [h1, h2, h3] at this

theorem exec_swdrop_frees {o : RA} {s : State} {r : Route} (ha : s.cur.isFull o.a = true) (hlt : (s.cur.getS o.a).toNat < 64)
    (hr : Tbl.get? s.routes (routeKey s.cur.grp (s.cur.getS o.a).toNat) = some r) (hown : r.owner = s.cur.slot) (hempty : r.entries = []) (hpart : r.partway = none) :
    exec (.swdrop o) s = .next (s.freeRoute s.cur.grp (s.cur.getS o.a).toNat).goOn := by
  have howns : s.ownsRoute s.cur.slot s.cur.grp (s.cur.getS o.a).toNat = true := by
    rw [State.ownsRoute]
    simp only [show Tbl.get? s.routes (s.cur.grp * 64 + (s.cur.getS o.a).toNat) = some r from hr, hown, decide_true]
  refine runAct_ok ?_
  rw [act_bind_readSrc ha]
  simp only [hr]
  rw [act_bind_raiseIf (by simp [howns, hlt]), act_bind_waitIf (by simp [hempty, hpart])]
  rfl

end Sys2Proof.Machine
end

section
/-! PROOFS. Hearth leases asked for, tried, returned and renewed (O17, part 2; R163, R164). -/
namespace Sys2Proof.Machine

/-! ## The Hearths that a selector names (R163) -/

theorem leaseSel_of_named {s : State} {x : Word} {grps : List Nat} (h : LeaseNamed s x grps) : leaseSel x s = .ok (grps, s) := by
  obtain ⟨hx, sl, g, hslot, hbit, hsel⟩ := h
  have hres : (x.extractLsb' 9 55 != 0) = false := by rw [bne_eq_false_iff_eq, extractLsb'_eq_zero_iff, Nat.div_eq_of_lt hx, Nat.zero_mod]
  have hg : (s.slotOf s.cur).bind (fun sl => nthSetBit sl.hmask (fieldN x 7 0)) = some g := by
    rw [hslot, Option.bind_some, fieldN_eq, Nat.pow_zero, Nat.div_one]
    exact hbit
  rw [leaseSel, act_bind_get, act_bind_raiseIf hres]
  simp only [hg]
  rcases hsel with ⟨hone, rfl⟩ | ⟨hsheet, h, w, hlead, rfl⟩
  · simp only [hone]
    rfl
  · simp [hsheet, hlead, State.sheetOf]

/-! ## Grants and returns -/

/-- R164: a lease granted starts its run in this cycle. -/
theorem grantLease_hearth (s : State) (slot : Nat) (grps : List Nat) (g : Nat) :
    (s.grantLease slot grps).hearth g =
      if g ∈ grps then { s.hearth g with holder := some slot, leaseGrps := grps, runStart := s.cycle, runCount := 0 } else s.hearth g := by
  unfold State.grantLease
  generalize hall : grps = all
  have key : ∀ (l : List Nat) (t : State), t.cycle = s.cycle →
      (l.foldl (fun t g => t.setHearth g { t.hearth g with holder := some slot, leaseGrps := all, runStart := t.cycle, runCount := 0 }) t).hearth g =
        if g ∈ l then { t.hearth g with holder := some slot, leaseGrps := all, runStart := s.cycle, runCount := 0 } else t.hearth g := by
    intro l
    induction l with
    | nil => exact fun _ _ => rfl
    | cons a rest ih =>
      intro t ht
      rw [List.foldl_cons, ih (t.setHearth a _) ht]
      by_cases ha : g = a
      · subst ha
        simp [ht]
      · simp [hearth_setHearth_ne _ _ ha, ha]
  exact key all s rfl

theorem grantLease_granted {s t : State} {grps : List Nat} (ht : t.hearths = (s.grantLease s.cur.slot grps).hearths) : Granted s t grps := by
  intro g hg
  have h : t.hearth g = (s.grantLease s.cur.slot grps).hearth g := by rw [State.hearth, ht, State.hearth]
  rw [h, grantLease_hearth, if_pos hg]
  exact ⟨rfl, rfl, rfl, rfl⟩

theorem grantLease_cur (s : State) (slot : Nat) (grps : List Nat) : (s.grantLease slot grps).cur = s.cur :=
  (congrArg State.cur (grantLease_but_hearths s slot grps) :)

theorem grantLease_leaseQ (s : State) (slot : Nat) (grps : List Nat) : (s.grantLease slot grps).leaseQ = s.leaseQ :=
  (congrArg State.leaseQ (grantLease_but_hearths s slot grps) :)

/-- With nobody waiting, scanning the requests changes nothing. -/
theorem grantLeases_of_noRequest {s : State} (h : s.leaseQ = []) : s.grantLeases = s := by
  rw [State.grantLeases, h, State.grantScan, ← h]

/-- The only request, for Hearths that nobody holds, is granted at once. -/
theorem askLease_grantLeases_of_free {s : State} {grps : List Nat} (h : LeaseFree s grps) (slot : Nat) (reclaim : Bool) :
    (s.askLease slot grps reclaim).grantLeases = { (s.askLease slot grps reclaim).grantLease slot grps with leaseQ := [] } := by
  obtain ⟨hq, hfree⟩ := h
  have hblocked : grps.any (fun g => ((s.askLease slot grps reclaim).hearth g).holder.isSome) = false := by
    rw [List.any_eq_false]
    intro g hg
    rw [show ((s.askLease slot grps reclaim).hearth g) = s.hearth g from rfl, hfree g hg]
    simp
  have hone : (s.askLease slot grps reclaim).leaseQ = [⟨slot, grps, reclaim, s.cycle, s.coreOf slot⟩] := by rw [State.askLease, hq]; rfl
  rw [State.grantLeases, hone, State.grantScan]
  simp [hblocked, State.grantScan]

/-- Hearths that nobody holds are not held by the instance. -/
theorem holdsLease_of_free {s : State} {grps : List Nat} (hne : grps ≠ []) (hfree : ∀ g ∈ grps, (s.hearth g).holder = none) (slot : Nat) :
    s.holdsLease slot grps = false := by
  obtain ⟨g, hg⟩ := List.exists_mem_of_ne_nil grps hne
  rw [Bool.eq_false_iff, Ne, holdsLease_iff]
  intro h
  have := h g hg
  rw [hfree g hg] at this
  cases this

/-- A lease that covers Hearth g is returned with it. -/
theorem returnLeases_holder {s : State} {slot : Nat} {l : List Nat} {g : Nat} (hg : g ∈ l) (hheld : (s.hearth g).holder = some slot)
    (hcov : g ∈ (s.hearth g).leaseGrps) : ((s.returnLeases slot l).hearth g).holder = none := by
  unfold State.returnLeases
  refine foldl_reaches (key := id) (P := fun t : State => t.hearth g = s.hearth g ∨ (t.hearth g).holder = none)
    (Q := fun t : State => (t.hearth g).holder = none) (k := g) (fun t x _ ht => ?_) (fun t x hx ht => ?_)
    (fun t x ht => ?_) l (by simpa using hg) (.inl rfl)
  · split
    · rw [dropLease_hearth]
      split
      · exact .inr rfl
      · exact ht
    · exact ht
  · obtain rfl : x = g := hx
    rcases ht with ht | ht
    · rw [if_pos (ht ▸ hheld), dropLease_hearth, if_pos (ht ▸ hcov)]
    · rw [if_neg (by rw [ht]; simp)]
      exact ht
  · split
    · rw [dropLease_hearth]
      split
      · rfl
      · exact ht
    · exact ht

theorem returnLeases_but_hearths (s : State) (slot : Nat) (l : List Nat) : (s.returnLeases slot l).butHearths = s.butHearths := by
  unfold State.returnLeases
  refine foldl_keeps State.butHearths (fun t g => ?_) l s
  split
  · exact dropLease_but_hearths t _
  · rfl

theorem returnLeases_of_notHeld {s : State} {slot : Nat} {l : List Nat} (h : ∀ g ∈ l, (s.hearth g).holder ≠ some slot) : s.returnLeases slot l = s := by
  unfold State.returnLeases
  induction l with
  | nil => rfl
  | cons a rest ih =>
    rw [List.foldl_cons, if_neg (h a (by simp))]
    exact ih fun g hg => h g (List.mem_cons_of_mem _ hg)

/-! ## LEASE.ACQ, LEASE.REL, LEASE.TRY (R163) -/

section Selected
variable {s : State} {grps : List Nat} (hne : grps ≠ [])

section Acq
variable {o : RA} (ha : s.cur.isFull o.a = true) (hnamed : LeaseNamed s (s.cur.getS o.a) grps)
include ha hnamed

theorem exec_leaseAcq_held (hheld : s.holdsLease s.cur.slot grps = true) : exec (.leaseAcq o) s = .next s.goOn := by
  refine runAct_ok ?_
  rw [act_bind_readSrc ha, act_bind_ok (leaseSel_of_named hnamed), if_pos hheld]
  rfl

include hne in
theorem exec_leaseAcq_free (hfree : LeaseFree s grps) :
    exec (.leaseAcq o) s = .next ((s.askLease s.cur.slot grps false).grantLeases).goOn := by
  have hheld : ((s.askLease s.cur.slot grps false).grantLeases).holdsLease s.cur.slot grps = true := by
    rw [askLease_grantLeases_of_free hfree]
    exact grantLease_holds (s.askLease s.cur.slot grps false) s.cur.slot grps
  have hreq : s.requested s.cur.slot grps = false := by rw [State.requested, hfree.1]; rfl
  refine runAct_ok ?_
  rw [act_bind_readSrc ha, act_bind_ok (leaseSel_of_named hnamed), if_neg (by simp [holdsLease_of_free hne hfree.2]), if_neg (by simp [hreq]), act_bind_modify, act_bind_get, if_pos hheld]
  rfl

theorem exec_leaseRel_returns (hq : s.leaseQ = []) : exec (.leaseRel o) s = .next (s.returnLeases s.cur.slot grps).grantLeases.goOn := by
  refine runAct_ok ?_
  rw [act_bind_readSrc ha, act_bind_ok (leaseSel_of_named hnamed), act_bind_modify]
  have hnone : s.leaseQ.filter (fun r => !(r.slot = s.cur.slot && r.grps = grps)) = s.leaseQ := by rw [hq]; rfl
  rw [hnone]
  rfl

end Acq

section Try
variable {o : RRD} (hr : Imm_Ready o.d o.a s) (hnamed : LeaseNamed s (s.cur.getS o.a) grps)
include hr hnamed

theorem exec_leaseTry_held (hheld : s.holdsLease s.cur.slot grps = true) : exec (.leaseTry o) s = .next (s.regDone o.d 1) := by
  obtain ⟨hd, ha⟩ := hr
  refine runAct_ok ?_
  rw [act_bind_destReady hd, act_bind_readSrc ha, act_bind_ok (leaseSel_of_named hnamed), if_pos hheld]
  rfl

include hne in
theorem exec_leaseTry_free (hfree : LeaseFree s grps) : exec (.leaseTry o) s = .next ((s.grantLease s.cur.slot grps).regDone o.d 1) := by
  obtain ⟨hd, ha⟩ := hr
  have hnone : grps.any (fun g => (s.hearth g).holder.isSome || s.leaseQ.any (fun r => r.grps.contains g)) = false := by
    rw [List.any_eq_false]
    intro g hg
    simp [hfree.1, hfree.2 g hg]
  refine runAct_ok ?_
  rw [act_bind_destReady hd, act_bind_readSrc ha, act_bind_ok (leaseSel_of_named hnamed), if_neg (by simp [holdsLease_of_free hne hfree.2]), if_neg (Bool.eq_false_iff.1 hnone)]
  rfl

theorem exec_leaseTry_refused {g h : Nat} (hg : g ∈ grps) (hh : (s.hearth g).holder = some h) (hother : h ≠ s.cur.slot) :
    exec (.leaseTry o) s = .next (s.regDone o.d 0) := by
  obtain ⟨hd, ha⟩ := hr
  have hnot : ¬ s.holdsLease s.cur.slot grps = true := fun hall => hother (Option.some.inj (hh ▸ holdsLease_iff.1 hall g hg))
  have hsome : grps.any (fun g => (s.hearth g).holder.isSome || s.leaseQ.any (fun r => r.grps.contains g)) = true :=
    List.any_eq_true.2 ⟨g, hg, by simp [hh]⟩
  refine runAct_ok ?_
  rw [act_bind_destReady hd, act_bind_readSrc ha, act_bind_ok (leaseSel_of_named hnamed), if_neg hnot, if_pos hsome]
  rfl

end Try
end Selected

/-! ## Runs (R164, R338, R343) -/

theorem runOver_of_holder {s : State} {g slot : Nat} (h : (s.hearth g).holder = some slot) :
    s.runOver g = (!s.keepsLease slot && (decide (64 ≤ (s.hearth g).runCount) || decide ((s.hearth g).runStart + 95000 ≤ s.cycle))) := by
  simp [State.runOver, h]

theorem endRun_of_noRequest {s : State} {g slot : Nat} (h : (s.hearth g).holder = some slot) (hq : s.leaseQ = []) :
    s.endRun g = s.grantLease slot (s.hearth g).leaseGrps := by
  simp [State.endRun, h, hq]

/-- Settles O17, one lemma for each outcome of SWROUTE, SWDROP, the lease instructions and the end of a run. -/
theorem routesAndLeases : Obligations.RoutesAndLeases := by
  refine ⟨⟨fun o s sl hr hslot => ?_, fun o s r ha hlt hget hown hempty hpart => ?_⟩, fun o s grps ha hnamed hne => ?_,
    fun o s grps hr hnamed hne => ?_, fun g s slot hheld hq hcov => ?_⟩
  · dsimp only
    rw [← endpointOf_eq, ← endpointOf_eq]
    intro hx hy hsrc hdst hA hB hlimA hlimB hbA hbB
    have hok : RouteAllowed s sl (s.cur.getS o.a) (s.cur.getS o.b) := ⟨⟨hx, hy⟩, hsrc, hdst, ⟨hA, hB⟩, hlimA, hlimB, hbA, hbB⟩
    exact ⟨exec_swroute_connects hr hslot hok, exec_swroute_full hr hslot hok⟩
  · exact ⟨exec_swdrop_frees ha hlt hget hown hempty hpart, freeRoute_routes hget, fun q hq => unbindRoute_unbound (freeRoute_rates hget ▸ hq)⟩
  · refine ⟨fun hfree => ⟨_, exec_leaseAcq_free hne ha hnamed hfree, ?_, ?_, ?_⟩, exec_leaseAcq_held ha hnamed, fun hq hheld hcov => ?_, fun hq hnot => ?_⟩
    · rw [askLease_grantLeases_of_free hfree]
      exact grantLease_granted (s := s.askLease s.cur.slot grps false) rfl
    · rw [askLease_grantLeases_of_free hfree]
      rfl
    · rw [askLease_grantLeases_of_free hfree]
      exact congrArg Context.nextSeq (grantLease_cur (s.askLease s.cur.slot grps false) s.cur.slot grps)
    · have hbut := returnLeases_but_hearths s s.cur.slot grps
      have hcur : (s.returnLeases s.cur.slot grps).cur = s.cur := (congrArg State.cur hbut :)
      have hnone : (s.returnLeases s.cur.slot grps).leaseQ = [] := (congrArg State.leaseQ hbut :).trans hq
      refine ⟨_, exec_leaseRel_returns ha hnamed hq, ?_, fun g hg => ?_⟩
      · rw [grantLeases_of_noRequest hnone]
        exact congrArg Context.nextSeq hcur
      · rw [grantLeases_of_noRequest hnone]
        exact returnLeases_holder hg (holdsLease_iff.1 hheld g hg) (hcov g hg)
    · rw [exec_leaseRel_returns ha hnamed hq, returnLeases_of_notHeld hnot, grantLeases_of_noRequest hq]
  · refine ⟨fun hfree => ⟨_, exec_leaseTry_free hne hr hnamed hfree, grantLease_granted rfl, ?_⟩, exec_leaseTry_held hr hnamed, ?_⟩
    · exact congrArg (fun c : Context => (c.putS o.d 1).nextSeq) (grantLease_cur s s.cur.slot grps)
    · rintro ⟨g, hg, h, hh, hother⟩
      exact exec_leaseTry_refused hr hnamed hg hh hother
  · have hover := runOver_of_holder hheld
    refine ⟨fun hend hkeep => ⟨s.grantLease slot (s.hearth g).leaseGrps, ?_, ?_⟩, fun hcount hcyc => ?_, fun hkeep => ?_⟩
    · have hrun : s.runOver g = true := by rw [hover, hkeep]; simpa using hend
      rw [← endRun_of_noRequest hheld hq]
      exact congrArg Host.Outcome.next (if_pos hrun)
    · rw [grantLease_hearth, if_pos hcov]
      exact ⟨rfl, rfl, rfl⟩
    · have hrun : s.runOver g = false := by rw [hover]; simp [Nat.not_le.2 hcount, Nat.not_le.2 hcyc]
      exact congrArg Host.Outcome.next (if_neg (by simp [hrun]))
    · have hrun : s.runOver g = false := by rw [hover, hkeep]; rfl
      exact congrArg Host.Outcome.next (if_neg (by simp [hrun]))

end Sys2Proof.Machine
end

section
/-! PROOFS. Proofer loops (O18): the instructions (R170, R171, R174), then the controller (R172). -/
namespace Sys2Proof.Machine

/-! ## The loop that an instruction names (R170) -/

theorem rateNamed_none {s : State} {l : BitVec 8} (h : Tbl.get? s.rates (rateKey s.cur.grp l.toNat) = none) :
    rateNamed l s = .ok ((rateKey s.cur.grp l.toNat, none), s) := by
  rw [rateNamed, act_bind_get]
  simp only [h]
  rfl

theorem rateNamed_owned {s : State} {l : BitVec 8} {r : RateLoop} (h : Tbl.get? s.rates (rateKey s.cur.grp l.toNat) = some r) (hown : r.owner = s.cur.slot) :
    rateNamed l s = .ok ((rateKey s.cur.grp l.toNat, some r), s) := by
  rw [rateNamed, act_bind_get]
  simp only [h]
  rw [act_bind_raiseIf (by simp [hown])]
  rfl

theorem rateNamed_held {s : State} {l : BitVec 8} {k : Nat} {r : RateLoop} (h : LoopHeld s l k r) : rateNamed l s = .ok ((k, some r), s) := by
  obtain ⟨rfl, hget, hown⟩ := h
  exact rateNamed_owned hget hown

/-- A loop of the group that no other instance holds is named without a fault. -/
theorem rateNamed_ok {s : State} {l : BitVec 8} (h : ∀ r, Tbl.get? s.rates (rateKey s.cur.grp l.toNat) = some r → r.owner = s.cur.slot) :
    rateNamed l s = .ok ((rateKey s.cur.grp l.toNat, Tbl.get? s.rates (rateKey s.cur.grp l.toNat)), s) := by
  cases hget : Tbl.get? s.rates (rateKey s.cur.grp l.toNat) with
  | none => exact rateNamed_none hget
  | some r => exact rateNamed_owned hget (h r hget)

/-! ## RATE.BIND (R170) -/

/-- A loop as RATE.BIND leaves it when it was unbound: not set, both weights 16. -/
def RateLoop.fresh (owner ctx prod cons : Nat) (route : Bool) (src : Nat) : RateLoop :=
  ⟨owner, ctx, prod, cons, route, src, false, 0, 0, 0, 16, 16, 0, false, false, none, [], 0, 0, false⟩

section Bind
variable {o : ObjA} {s : State} (ha : s.cur.isFull o.a = true)
include ha

theorem exec_rateBind_unbinds (hown : ∀ r, Tbl.get? s.rates (rateKey s.cur.grp o.t.toNat) = some r → r.owner = s.cur.slot)
    (hx : s.cur.getS o.a = 0x8000000000000000#64) :
    exec (.rateBind o) s = .next ({ s with rates := Tbl.del s.rates (rateKey s.cur.grp o.t.toNat) } : State).goOn := by
  refine runAct_ok ?_
  rw [act_bind_readSrc ha, act_bind_ok (rateNamed_ok hown), hx]
  rfl

theorem exec_rateBind_binds (hnone : Tbl.get? s.rates (rateKey s.cur.grp o.t.toNat) = none) (h63 : (s.cur.getS o.a).getLsbD 63 = false)
    (hhigh : (s.cur.getS o.a).toNat / 2 ^ 48 = 0) (hmid : (s.cur.getS o.a).toNat / 2 ^ 9 % 2 ^ 7 = 0)
    (hprod : s.liveCtx s.cur.slot ((s.cur.getS o.a).toNat / 2 ^ 16 % 2 ^ 16) = true)
    (hcons : s.liveCtx s.cur.slot ((s.cur.getS o.a).toNat / 2 ^ 32 % 2 ^ 16) = true)
    (hne : (s.cur.getS o.a).toNat / 2 ^ 16 % 2 ^ 16 ≠ (s.cur.getS o.a).toNat / 2 ^ 32 % 2 ^ 16)
    (hroute : (s.cur.getS o.a).getLsbD 8 = true → s.ownsRoute s.cur.slot s.cur.grp ((s.cur.getS o.a).toNat % 2 ^ 8) = true)
    (htrough : (s.cur.getS o.a).getLsbD 8 = false → (s.cur.getS o.a).toNat % 2 ^ 8 < fieldN s.cur.wtro 40 32) :
    exec (.rateBind o) s = .next (s.setRate (rateKey s.cur.grp o.t.toNat) (.fresh s.cur.slot s.cur.num ((s.cur.getS o.a).toNat / 2 ^ 16 % 2 ^ 16)
      ((s.cur.getS o.a).toNat / 2 ^ 32 % 2 ^ 16) ((s.cur.getS o.a).getLsbD 8)
      (if (s.cur.getS o.a).getLsbD 8 then (s.cur.getS o.a).toNat % 2 ^ 8 else fieldN s.cur.wtro 15 0 + (s.cur.getS o.a).toNat % 2 ^ 8))).goOn := by
  generalize hxe : s.cur.getS o.a = x at *
  have hres : (x.extractLsb' 48 15 != 0 || x.extractLsb' 9 7 != 0 || (x.getLsbD 63 && x.extractLsb' 0 48 != 0)) = false := by
    rw [(extractLsb'_eq_zero_iff x 48 15).2 (by rw [hhigh]; rfl), (extractLsb'_eq_zero_iff x 9 7).2 hmid, h63]
    rfl
  have hp : fieldN x 31 16 = x.toNat / 2 ^ 16 % 2 ^ 16 := fieldN_eq x 31 16
  have hc : fieldN x 47 32 = x.toNat / 2 ^ 32 % 2 ^ 16 := fieldN_eq x 47 32
  have h8 : fieldN x 7 0 = x.toNat % 2 ^ 8 := by rw [fieldN_eq]; simp
  have hlow : (x.extractLsb' 0 8).toNat = x.toNat % 2 ^ 8 := by rw [BitVec.extractLsb'_toNat]; simp
  have hctx : (!s.liveCtx s.cur.slot (x.toNat / 2 ^ 16 % 2 ^ 16) || !s.liveCtx s.cur.slot (x.toNat / 2 ^ 32 % 2 ^ 16) ||
      x.toNat / 2 ^ 16 % 2 ^ 16 == x.toNat / 2 ^ 32 % 2 ^ 16) = false := by
    rw [hprod, hcons, beq_false_of_ne hne]; rfl
  refine runAct_ok ?_
  rw [act_bind_readSrc ha, act_bind_ok (rateNamed_none hnone)]
  simp only [hxe]
  rw [act_bind_raiseIf hres]
  simp only [h63, hp, hc, h8]
  cases h : x.getLsbD 8 with
  | true =>
    have hown : (true && !s.ownsRoute s.cur.slot s.cur.grp (x.toNat % 2 ^ 8)) = false := by rw [hroute h]; rfl
    rw [if_neg Bool.false_ne_true, if_pos rfl, act_bind_pure, act_bind_raiseIf hctx, act_bind_raiseIf hown]
    rfl
  | false =>
    have hwin := relocate_within (i := x.extractLsb' 0 8) (hlow ▸ htrough h) s
    rw [hlow] at hwin
    rw [if_neg Bool.false_ne_true, if_neg Bool.false_ne_true, act_bind_ok hwin, act_bind_raiseIf hctx]
    rfl

end Bind

/-! ## RATE.SET and RATE.HOLD (R171, R174) -/

section Fields
variable (p : BitVec 128)

/-! The fields of a parameter record as numbers (R171). -/

theorem rpIMAX_eq : rpIMAX p = p.toNat / 2 ^ 112 % 2 ^ 15 := fieldN_eq p 126 112
theorem rpPHOFF_eq : rpPHOFF p = p.toNat / 2 ^ 96 % 2 ^ 16 := fieldN_eq p 111 96
theorem rpWC0_eq : rpWC0 p = p.toNat / 2 ^ 88 % 2 ^ 8 := fieldN_eq p 95 88
theorem rpWP0_eq : rpWP0 p = p.toNat / 2 ^ 80 % 2 ^ 8 := fieldN_eq p 87 80
theorem rpWMAX_eq : rpWMAX p = p.toNat / 2 ^ 72 % 2 ^ 8 := fieldN_eq p 79 72
theorem rpWMIN_eq : rpWMIN p = p.toNat / 2 ^ 64 % 2 ^ 8 := fieldN_eq p 71 64
theorem rpSP_eq : rpSP p = p.toNat / 2 ^ 47 % 2 ^ 17 := fieldN_eq p 63 47
theorem rpKI_eq : rpKI p = p.toNat / 2 ^ 36 % 2 ^ 4 := fieldN_eq p 39 36
theorem rpKP_eq : rpKP p = p.toNat / 2 ^ 32 % 2 ^ 4 := fieldN_eq p 35 32
theorem rpP_eq : rpP p = 256 * 2 ^ (p.toNat / 2 ^ 40 % 2 ^ 4) := congrArg (256 * 2 ^ ·) (fieldN_eq p 43 40)

end Fields

/-- A loop as RATE.SET leaves it: measuring afresh with the weights of its record. -/
def RateLoop.started (r : RateLoop) (p : BitVec 128) : RateLoop :=
  { r with
    set := true, param := p, i := 0, e := 0, pcnt := 0, hold := false, frozen := false, sign := none, history := []
    wp := rpWP0 p, wc := rpWC0 p, a := 0, z := 0, resuming := true }

section Held
variable {o : ObjA} {s : State} {k : Nat} {r : RateLoop} (ha : s.cur.isFull o.a = true) (hheld : LoopHeld s o.t k r)
include ha hheld

theorem exec_rateSet_sets {u : State} {bs : List Byte} (halign : (s.cur.getS o.a).toNat % 16 = 0) (hload : acquireLoad (s.cur.getS o.a) 16 .eng s = .ok (bs, u))
    (hform : rateMalformed (BitVec.ofNat 128 (leNat bs)) (s.rateCap r s.cur.grp) = false)
    (hstable : unstable (⟨r.prod, r.cons, BitVec.ofNat 128 (leNat bs)⟩ :: s.activeEdges s.cur.slot k) = none) :
    exec (.rateSet o) s = .next (u.setRate k (r.started (BitVec.ofNat 128 (leNat bs)))).goOn := by
  refine runAct_ok ?_
  rw [act_bind_readSrc ha, act_bind_ok (rateNamed_held hheld)]
  dsimp only
  rw [act_bind_raiseIf (by simpa using halign), act_bind_ok hload, act_bind_raiseIf hform]
  simp only [hstable]
  rfl

theorem exec_rateHold_holds (hx : s.cur.getS o.a = 1) : exec (.rateHold o) s = .next (s.setRate k r.enterHold).goOn := by
  refine runAct_ok ?_
  rw [act_bind_readSrc ha, act_bind_ok (rateNamed_held hheld), hx]
  rfl

theorem exec_rateHold_releases (hx : s.cur.getS o.a = 0) :
    exec (.rateHold o) s = .next (s.setRate k { r with hold := false, i := 0, sign := none, history := [] }).goOn := by
  refine runAct_ok ?_
  rw [act_bind_readSrc ha, act_bind_ok (rateNamed_held hheld), hx]
  rfl

end Held

theorem enterHold_of_set {r : RateLoop} (h : r.set = true) : r.enterHold = { r with
    hold := true, i := 0, wp := r.param.toNat / 2 ^ 80 % 2 ^ 8, wc := r.param.toNat / 2 ^ 88 % 2 ^ 8 } := by
  rw [RateLoop.enterHold, h, ← rpWP0_eq, ← rpWC0_eq]
  rfl

/-! ## RATE.READ (R174) -/

/-- R174: the word of a loop field by field. -/
theorem word_eq (r : RateLoop) : r.word = BitVec.ofNat 64
    ((r.e % 2 ^ 24).toNat * 2 ^ 40 + (r.i % 2 ^ 16).toNat * 2 ^ 24 + r.wp % 2 ^ 8 * 2 ^ 16 + r.wc % 2 ^ 8 * 2 ^ 8 + r.pcnt % 2 ^ 4 * 2 ^ 4 +
      r.hold.toNat * 8 + r.frozen.toNat * 4 + r.set.toNat * 2 + 1) := by
  have he : (r.e % 2 ^ 24).toNat < 2 ^ 24 := by omega
  have hi : (r.i % 2 ^ 16).toNat < 2 ^ 16 := by omega
  have hh := r.hold.toNat_lt
  have hf := r.frozen.toNat_lt
  have hs := r.set.toNat_lt
  have h40 := toNat_setField_below (x := 0) (r.e % 2 ^ 24).toNat 63 40 (rfl : (0 : Word).toNat = 0) (by omega) (by omega) (by omega)
  have h24 := toNat_setField_below (r.i % 2 ^ 16).toNat 39 24 h40 (by omega) (by omega) (by omega)
  have h16 := toNat_setField_below r.wp 23 16 h24 (by omega) (by omega) (by omega)
  have h8 := toNat_setField_below r.wc 15 8 h16 (by omega) (by omega) (by omega)
  have h4 := toNat_setField_below r.pcnt 7 4 h8 (by omega) (by omega) (by omega)
  have h3 := toNat_setField_below r.hold.toNat 3 3 h4 (by omega) (by omega) (by omega)
  have h2 := toNat_setField_below r.frozen.toNat 2 2 h3 (by omega) (by omega) (by omega)
  have h1 := toNat_setField_below r.set.toNat 1 1 h2 (by omega) (by omega) (by omega)
  have h0 := toNat_setField_below 1 0 0 h1 (by omega) (by omega) (by omega)
  rw [RateLoop.word]
  dsimp only
  rw [toNat_bit, toNat_bit, toNat_bit, ← BitVec.toNat_inj, BitVec.toNat_ofNat, h0]
  omega

theorem exec_rateRead_held {o : ObjD} {s : State} {k : Nat} {r : RateLoop} (hd : s.cur.isFull o.d = true) (hheld : LoopHeld s o.t k r) :
    exec (.rateRead o) s = .next (s.regDone o.d r.word) := by
  refine runAct_ok ?_
  rw [act_bind_destReady hd, act_bind_ok (rateNamed_held hheld)]
  rfl

theorem exec_rateRead_unbound {o : ObjD} {s : State} (hd : s.cur.isFull o.d = true) (hnone : Tbl.get? s.rates (rateKey s.cur.grp o.t.toNat) = none) :
    exec (.rateRead o) s = .next (s.regDone o.d 0) := by
  refine runAct_ok ?_
  rw [act_bind_destReady hd, act_bind_ok (rateNamed_none hnone)]
  rfl

/-! ## The period boundary (R172) -/

/-- What the controller computes from a period (R172): the error, the integral, the correction. -/
def RateLoop.err (r : RateLoop) : Int := (16 * r.a / rpP r.param : Nat) - (rpSP r.param : Int)
def RateLoop.integral (r : RateLoop) : Int :=
  if r.z ≤ rpP r.param / 2 then max (-(rpIMAX r.param : Int)) (min (rpIMAX r.param : Int) (r.i + r.err)) else r.i
def RateLoop.correction (r : RateLoop) : Int :=
  (if rpKP r.param = 15 then 0 else r.err / 2 ^ rpKP r.param) + (if rpKI r.param = 15 then 0 else r.integral / 2 ^ rpKI r.param)

/-- Where the flag of a choice is false, the choice was the second one. -/
theorem fst_of_flag_false {α : Type} {p : Prop} [Decidable p] {x y : α} (h : (if p then (x, true) else (y, false)).2 = false) :
    (if p then (x, true) else (y, false)).1 = y := by
  split at h
  · cases h
  · rename_i hp
    rw [if_neg hp]

/-- R172: a loop that is not in HOLD and does not enter it, after a period boundary. -/
theorem period_fields {r : RateLoop} (hhold : r.hold = false) (hstay : r.period.2 = false) :
    r.period.1.e = r.err ∧ r.period.1.i = r.integral ∧
    (r.period.1.wp : Int) = max (rpWMIN r.param : Int) (min (rpWMAX r.param : Int) ((rpWP0 r.param : Int) - r.correction)) ∧
    (r.period.1.wc : Int) = max (rpWMIN r.param : Int) (min (rpWMAX r.param : Int) ((rpWC0 r.param : Int) + r.correction)) ∧
    r.period.1.a = 0 ∧ r.period.1.z = 0 ∧ r.period.1.frozen = !decide (r.z ≤ rpP r.param / 2) ∧ r.period.1.pcnt = (r.pcnt + 1) % 16 ∧ r.period.1.hold = false := by
  have hclamp : ∀ w : Int, ((max (rpWMIN r.param : Int) (min (rpWMAX r.param : Int) w)).toNat : Int) = max (rpWMIN r.param : Int) (min (rpWMAX r.param : Int) w) :=
    fun w => by omega
  rw [show r.period.1 = _ from fst_of_flag_false hstay]
  simp only [hhold, Bool.not_false, Bool.and_true, decide_eq_true_eq, Bool.false_eq_true, if_false, hclamp, and_self, and_true]
  exact ⟨rfl, rfl, rfl, rfl⟩

theorem exec_prooferPeriod_boundary {g l : Nat} {s : State} {r : RateLoop} (hget : Tbl.get? s.rates (rateKey g l) = some r) (hset : r.set = true)
    (hrun : s.running r.owner = true) (hres : r.resuming = false) (hcap : Tbl.get? s.dortas.captures (s.vfOf r.owner) = none)
    (hrep : Tbl.get? s.replays (s.vfOf r.owner) = none) (hcyc : s.cycle % rpP r.param = rpPHOFF r.param) (hstay : r.period.2 = false) :
    exec (.prooferPeriod g l) s = .next (s.setRate (rateKey g l) r.period.1) := by
  have hpres : s.presents (s.vfOf r.owner) 4 (rateKey g l) 0 = true := by rw [State.presents, hrep]
  have hrec : ∀ n, s.recorded (s.vfOf r.owner) n = none := fun n => by rw [State.recorded, hrep]; rfl
  show execProoferPeriod g l s = _
  rw [execProoferPeriod]
  simp only [hget]
  rw [if_pos ⟨hset, hrun, hcyc⟩]
  simp only [hres, hpres, hrec, hstay]
  exact congrArg Host.Outcome.next (capture_without_replay (s := s.setRate (rateKey g l) r.period.1) hcap hrep)

/-- Settles O18, one lemma for each outcome of the loop instructions, and the controller's computation field by field. -/
theorem proofers : Obligations.Proofers := by
  refine ⟨⟨fun o s ha => ?_, fun o s u k r bs ha hheld => ?_, fun o s k r ha hheld => ?_, fun o s hd => ?_⟩, fun g l s r hget hset hrun hres hhold hcap hrep => ?_⟩
  · intro x k hown
    refine ⟨exec_rateBind_unbinds ha hown, fun hnone h63 hhigh hmid => ?_⟩
    intro prod cons hprod hcons hne hroute htrough
    exact exec_rateBind_binds ha hnone h63 hhigh hmid hprod hcons hne hroute htrough
  · intro p halign hload hform hstable
    rw [← rpWP0_eq, ← rpWC0_eq]
    exact exec_rateSet_sets ha hheld halign hload hform hstable
  · exact ⟨fun hx hset => enterHold_of_set hset ▸ exec_rateHold_holds ha hheld hx, exec_rateHold_releases ha hheld⟩
  · exact ⟨fun k r hheld => word_eq r ▸ exec_rateRead_held hd hheld, exec_rateRead_unbound hd⟩
  · intro p f hcyc e i u hstay
    have he : r.err = e := by rw [RateLoop.err, rpSP_eq, rpP_eq]; push_cast; rfl
    have hi : r.integral = i := by rw [RateLoop.integral, he, rpIMAX_eq, rpP_eq]
    have h15 : ∀ n : Nat, (n : Int) = 15 ↔ n = 15 := fun n => by omega
    have hu : r.correction = u := by
      rw [RateLoop.correction, he, hi, rpKP_eq, rpKI_eq]
      simp only [u, f, h15, Int.toNat_natCast]
    have hperiod := period_fields hhold hstay
    rw [he, hi, hu, rpP_eq, rpWMIN_eq, rpWMAX_eq, rpWP0_eq, rpWC0_eq] at hperiod
    refine ⟨_, r.period.1, exec_prooferPeriod_boundary hget hset hrun hres hcap hrep (by rw [rpP_eq, rpPHOFF_eq]; exact hcyc) hstay, rfl, hperiod⟩

end Sys2Proof.Machine
end

section
/-! PROOFS. Hearth instructions (O37, part 1): the frame that all of them share (R164, R220, R245, R246). -/
namespace Sys2Proof.Machine

/-- Every Hearth instruction is the common frame around a body of its own. -/
theorem exec_hearth {i : Instr} (h : isHearth i = true) : ∃ body, ∀ s, exec i s = runAct (heForm body) s := by
  cases i with
  | hadmitA o | hadmitS o | hadmitG o | hadmitU o | hdrop o | hload o | hstore o | hspill o | hfill o | hwset o | hzero o | hhad o | hsetk o | hmesh o | hcfg o
  | hbind o | hver o | hfreeze o | hthaw o | hdrain => exact ⟨_, fun _ => rfl⟩
  | _ => cases h

/-! ## The lease check (R164) -/

/-- The context has lost its lease: the fault is raised, and not again while the reclaim stands. -/
def State.loseLease (s : State) : Host.Outcome State Fault Refusal :=
  .next ((s.setCur (fun c => { c with leaseLost := true })).takeFault s.cur.ref ⟨Code.leaseLost, 0, 0, false⟩ s.cur.pc)

theorem hearthAccess_checked {s : State} (h : s.cur.heAt = some s.cur.pc) : hearthAccess s = .ok ((), s) := by
  rw [hearthAccess, act_bind_get, if_pos h]
  rfl

section Check
variable {s : State} (hat : s.cur.heAt ≠ some s.cur.pc) (hrun : s.runOver s.cur.engine = false)
include hat hrun

/-- The check once it has seen that the run goes on. -/
theorem hearthAccess_unchecked : hearthAccess s =
    (if s.cur.leasePassed then
      .error (.raiseKept ⟨Code.leaseLost, 0, 0, false⟩ (s.setCur (fun c => { c with leasePassed := false, leaseLost := true })))
    else if (s.hearth s.cur.engine).holder = some s.cur.slot then .ok ((), s.heIn)
    else if s.cur.leaseLost && s.leaseQ.any (fun r => r.slot = s.cur.slot && r.grps.contains s.cur.engine) then
      .error (.wait (.lease s.cur.engine) (some s))
    else .error (.raiseKept ⟨Code.leaseLost, 0, 0, false⟩ (s.setCur (fun c => { c with leaseLost := true })))) := by
  rw [hearthAccess, act_bind_get, if_neg hat, act_bind_modify, if_neg (by simp [hrun]), act_bind_get]
  dsimp only
  rw [act_ite, act_ite, act_ite]
  rfl

theorem hearthAccess_passed (hpass : s.cur.leasePassed = true) : hearthAccess s =
    .error (.raiseKept ⟨Code.leaseLost, 0, 0, false⟩ (s.setCur (fun c => { c with leasePassed := false, leaseLost := true }))) := by
  rw [hearthAccess_unchecked hat hrun, if_pos hpass]

variable (hpass : s.cur.leasePassed = false)
include hpass

theorem hearthAccess_held (hheld : (s.hearth s.cur.engine).holder = some s.cur.slot) : hearthAccess s = .ok ((), s.heIn) := by
  rw [hearthAccess_unchecked hat hrun, if_neg (Bool.eq_false_iff.1 hpass), if_pos hheld]

variable (hheld : (s.hearth s.cur.engine).holder ≠ some s.cur.slot)
include hheld

theorem hearthAccess_waits (hlost : s.cur.leaseLost = true) (hback : ∃ r ∈ s.leaseQ, r.slot = s.cur.slot ∧ s.cur.engine ∈ r.grps) :
    hearthAccess s = .error (.wait (.lease s.cur.engine) (some s)) := by
  rw [hearthAccess_unchecked hat hrun, if_neg (Bool.eq_false_iff.1 hpass), if_neg hheld, if_pos (by simpa [hlost] using hback)]

theorem hearthAccess_lost (h : ¬(s.cur.leaseLost = true ∧ ∃ r ∈ s.leaseQ, r.slot = s.cur.slot ∧ s.cur.engine ∈ r.grps)) :
    hearthAccess s = .error (.raiseKept ⟨Code.leaseLost, 0, 0, false⟩ (s.setCur (fun c => { c with leaseLost := true }))) := by
  rw [hearthAccess_unchecked hat hrun, if_neg (Bool.eq_false_iff.1 hpass), if_neg hheld, if_neg (by simpa using h)]

end Check

/-! ## What a body leaves -/

/-- The frame's rest, from the lease check on. -/
def heBody (body : Nat → Act Unit) : Act Unit := heStops (do
  let s ← get
  body (s.leadOf s.cur.engine)
  modCur (fun c => { c.endStage with heAt := none })
  advance)

theorem heForm_checked {s t : State} (h : hearthAccess s = .ok ((), t)) (body : Nat → Act Unit) : heForm body s = heBody body t := act_bind_ok h
theorem heForm_stopped {s : State} {e : Stop} (h : hearthAccess s = .error e) (body : Nat → Act Unit) : heForm body s = .error e := act_bind_error h

/-- Stops that keep their state: neither a bare wait nor a bare fault. -/
theorem heStops_keeps (a : Act Unit) (s : State) : (∀ w, heStops a s ≠ .error (.wait w none)) ∧ ∀ f, heStops a s ≠ .error (.raise f) := by
  unfold heStops
  cases ha : a s with
  | ok r => simp
  | error e =>
    cases e with
    | wait w kept => cases kept <;> simp
    | raise f | raiseKept f t | fault f => simp

theorem heBody_keeps (body : Nat → Act Unit) (s : State) : (∀ w, heBody body s ≠ .error (.wait w none)) ∧ ∀ f, heBody body s ≠ .error (.raise f) :=
  heStops_keeps _ s

/-- A stop that keeps its state gives the same outcome from every state that the instruction may have begun in. -/
theorem runAct_of_kept {a b : Act Unit} {s t : State} (h : a s = b t) (hw : ∀ w, b t ≠ .error (.wait w none)) (hf : ∀ f, b t ≠ .error (.raise f)) :
    runAct a s = runAct b t := by
  unfold runAct
  rw [h]
  cases hb : b t with
  | ok r => rfl
  | error e =>
    cases e with
    | wait w kept =>
      cases kept with
      | none => exact absurd hb (hw w)
      | some u => rfl
    | raise f => exact absurd hb (hf f)
    | raiseKept f u | fault f => rfl

/-- A Hearth instruction that passes the lease check runs as from the state after the check. -/
theorem exec_hearth_held {i : Instr} {s : State} (hi : isHearth i = true) (h : hearthAccess s = .ok ((), s.heIn)) : exec i s = exec i s.heIn := by
  obtain ⟨body, hbody⟩ := exec_hearth hi
  obtain ⟨hw, hf⟩ := heBody_keeps body s.heIn
  have hin : hearthAccess s.heIn = .ok ((), s.heIn) := hearthAccess_checked rfl
  rw [hbody, hbody, runAct_of_kept (heForm_checked h body) hw hf, runAct_of_kept (heForm_checked hin body) hw hf]

section Ready
variable {body : Nat → Act Unit} {s t : State} {g : Nat} (hready : HeReady s g)
include hready

theorem run_heForm_ok (h : body g s = .ok ((), t)) : runAct (heForm body) s = .next t.heDone := by
  obtain ⟨hat, rfl⟩ := hready
  refine runAct_ok ?_
  rw [heForm_checked (hearthAccess_checked hat), heBody, heStops, act_bind_get, act_bind_ok h]
  rfl

theorem run_heForm_waits {w : WaitCond} (h : body g s = .error (.wait w none)) : runAct (heForm body) s = .next (s.enterWait w) := by
  obtain ⟨hat, rfl⟩ := hready
  refine runAct_waitKeep ?_
  rw [heForm_checked (hearthAccess_checked hat), heBody, heStops, act_bind_get, act_bind_error h]

theorem run_heForm_raises {code detail : BitVec 8} {eval : Word} (h : body g s = .error (.raise ⟨code, detail, eval, false⟩)) :
    runAct (heForm body) s = s.heFault code detail eval := by
  obtain ⟨hat, rfl⟩ := hready
  refine (runAct_raiseKept (t := s.setCur Context.endStage) ?_).trans rfl
  rw [heForm_checked (hearthAccess_checked hat), heBody, heStops, act_bind_get, act_bind_error h]

end Ready

/-! ## Frozen and quiescent Hearths (R220, R246) -/

theorem notFrozen_ok {s : State} {g : Nat} (h : (s.hearth g).frozen = false) : notFrozen g s = .ok ((), s) := by
  rw [notFrozen, act_bind_get, h]
  rfl

theorem notFrozen_frozen {s : State} {g : Nat} (h : (s.hearth g).frozen = true) : notFrozen g s = .error (.raise ⟨Code.illegalOp, 12, 0, false⟩) := by
  rw [notFrozen, act_bind_get, h]
  rfl

/-- A frozen Hearth is not quiescent. -/
theorem not_frozen_of_isQuiet {s : State} {g : Nat} (h : s.isQuiet g = true) : (s.hearth g).frozen = false := by
  simpa using (Bool.and_eq_true_iff.1 h).2

theorem awaitQuiet_ok {s : State} {g : Nat} (h : s.isQuiet g = true) : awaitQuiet g s = .ok ((), s) := by
  rw [awaitQuiet, act_bind_ok (notFrozen_ok (not_frozen_of_isQuiet h)), act_bind_get, h]
  rfl

theorem awaitQuiet_busy {s : State} {g : Nat} (hf : (s.hearth g).frozen = false) (h : s.isQuiet g = false) :
    awaitQuiet g s = .error (.wait (.quiescent g) none) := by
  rw [awaitQuiet, act_bind_ok (notFrozen_ok hf), act_bind_get, h]
  rfl

/-- The instructions that ask first whether the Hearth is frozen: HDRAIN, HADMIT.U, HHAD. -/
theorem exec_hearth_frozen {i : Instr} {s : State} {g : Nat} (hi : i ∈ [Instr.hdrain, .hadmitU false, .hadmitU true, .hhad 0, .hhad 1, .hhad 2])
    (hready : HeReady s g) (hf : (s.hearth g).frozen = true) : exec i s = s.heFault 0x01 12 0 := by
  have hquiet : awaitQuiet g s = .error (.raise ⟨Code.illegalOp, 12, 0, false⟩) := by rw [awaitQuiet, act_bind_error (notFrozen_frozen hf)]
  simp only [List.mem_cons, List.not_mem_nil, or_false] at hi
  rcases hi with rfl | rfl | rfl | rfl | rfl | rfl
  · exact run_heForm_raises hready hquiet
  · exact run_heForm_raises hready (act_bind_error (notFrozen_frozen hf))
  · exact run_heForm_raises hready (act_bind_error (notFrozen_frozen hf))
  · exact run_heForm_raises hready (act_bind_error hquiet)
  · exact run_heForm_raises hready (act_bind_error hquiet)
  · exact run_heForm_raises hready (act_bind_error hquiet)

/-- R163, R164: what a Hearth instruction does with its lease before anything else. -/
theorem exec_hearth_lease {i : Instr} {s : State} (hi : isHearth i = true) (hat : s.cur.heAt ≠ some s.cur.pc) (hrun : s.runOver s.cur.engine = false) :
    (s.cur.leasePassed = true → exec i s =
      .next ((s.setCur (fun c => { c with leasePassed := false, leaseLost := true })).takeFault s.cur.ref ⟨Code.leaseLost, 0, 0, false⟩ s.cur.pc)) ∧
    (s.cur.leasePassed = false → (s.hearth s.cur.engine).holder = some s.cur.slot → exec i s = exec i s.heIn) ∧
    (s.cur.leasePassed = false → (s.hearth s.cur.engine).holder ≠ some s.cur.slot →
      let back : Prop := ∃ r ∈ s.leaseQ, r.slot = s.cur.slot ∧ s.cur.engine ∈ r.grps
      (¬(s.cur.leaseLost = true ∧ back) → exec i s = s.loseLease) ∧
      (s.cur.leaseLost = true → back → exec i s = .next (s.enterWait (.lease s.cur.engine)))) := by
  obtain ⟨body, hbody⟩ := exec_hearth hi
  refine ⟨fun hpass => ?_, fun hpass hheld => exec_hearth_held hi (hearthAccess_held hat hrun hpass hheld), fun hpass hheld => ⟨fun h => ?_, fun hlost hback => ?_⟩⟩
  · rw [hbody, runAct_raiseKept (heForm_stopped (hearthAccess_passed hat hrun hpass) body)]
    rfl
  · rw [hbody, runAct_raiseKept (heForm_stopped (hearthAccess_lost hat hrun hpass hheld h) body)]
    rfl
  · rw [hbody, runAct_waitKeep (heForm_stopped (hearthAccess_waits hat hrun hpass hheld hlost hback) body)]

/-- R245: HDRAIN. -/
theorem exec_hdrain {s : State} {g : Nat} (hready : HeReady s g) (hf : (s.hearth g).frozen = false) :
    (s.isQuiet g = true → exec .hdrain s = .next s.heDone) ∧ (s.isQuiet g = false → exec .hdrain s = .next (s.enterWait (.quiescent g))) :=
  ⟨fun h => run_heForm_ok hready (awaitQuiet_ok h), fun h => run_heForm_waits hready (awaitQuiet_busy hf h)⟩

end Sys2Proof.Machine
end

section
/-! PROOFS. Hearth instructions (O37, part 2): the compute copy taken anew (R123, R221, R239). -/
namespace Sys2Proof.Machine

/-! ## Cells changed all at once -/

/-- A table that leaves out its default value reads the same without the entries that hold it. -/
theorem sparse_filter {α : Type} [DecidableEq α] {t : Tbl α} (ht : Rising t) (d : α) (k : Nat) :
    (Tbl.get? (t.filter (fun x => x.2 != d)) k).getD d = (Tbl.get? t k).getD d := by
  induction t with
  | nil => rfl
  | cons e rest ih =>
    obtain ⟨j, v⟩ := e
    obtain ⟨hlt, hrest⟩ := List.pairwise_cons.1 ht
    by_cases hv : v = d
    · subst hv
      rw [List.filter_cons_of_neg (by simp), ih hrest]
      by_cases hj : j = k
      · subst hj
        have hnone : Tbl.get? rest j = none := by
          cases hget : Tbl.get? rest j with
          | none => rfl
          | some w => exact absurd (hlt _ (tbl_mem_of_get hget)) (lt_irrefl j)
        simp [Tbl.get?, hnone]
      · simp [Tbl.get?, hj]
    · rw [List.filter_cons_of_pos (by simpa using hv)]
      by_cases hj : j = k
      · simp [Tbl.get?, hj]
      · simpa [Tbl.get?, hj] using ih hrest

theorem rising_map {α β : Type} {t : Tbl α} (ht : Rising t) (f : α → β) : Rising (t.map (fun x => (x.1, f x.2))) := List.pairwise_map.2 ht

/-- Every cell changed, where a cell at its reset values stays so. -/
theorem cell_mapCells {h : Hearth} (hs : Rising h.cells) {f : Cell → Cell} (hf : f Cell.reset = Cell.reset) (i j : Nat) :
    (h.mapCells f).cell i j = f (h.cell i j) := by
  unfold Hearth.cell Hearth.mapCells
  dsimp only
  rw [sparse_filter (rising_map hs f), tbl_get_map h.cells (fun _ => f)]
  cases Tbl.get? h.cells (1024 * i + j) with
  | none => exact hf.symm
  | some c => rfl

/-! ## A column segment quantised -/

/-- The same stored values w and v in every cell; the tables in order. -/
def SameStored (a b : Hearth) : Prop := Rising b.cells ∧ ∀ i j, (b.cell i j).w = (a.cell i j).w ∧ (b.cell i j).v = (a.cell i j).v

theorem setCell_sameStored {a b : Hearth} (h : SameStored a b) (i j : Nat) (x : BitVec 16) : SameStored a (b.setCell i j { b.cell i j with c := x }) := by
  obtain ⟨hs, hsame⟩ := h
  refine ⟨setCell_rising i j hs _, fun p q => ?_⟩
  by_cases hk : 1024 * p + q = 1024 * i + j
  · have hcell : ∀ c : Hearth, c.cell p q = c.cell i j := fun c => by rw [Hearth.cell, hk, Hearth.cell]
    rw [hcell, cell_setCell i j hs, hcell]
    exact hsame i j
  · have hcell : (b.setCell i j { b.cell i j with c := x }).cell p q = b.cell p q := congrArg (·.getD Cell.reset) (sparse_get_ne _ _ _ hk)
    rw [hcell]
    exact hsame p q

theorem quantSeg_sameStored {a b : Hearth} (h : SameStored a b) (i j : Nat) : SameStored a (b.quantSeg i j) := by
  have key : ∀ l : List (Nat × Int), SameStored a
      (l.foldl (fun u x => u.setCell x.1 j { u.cell x.1 j with c := BitVec.ofNat 16 (ofInt (cfgCfmt b.cfg - 4) x.2) }) b) :=
    fun l => foldl_holds (P := SameStored a) l (fun _ _ _ ht => setCell_sameStored ht _ _ _) h
  exact ⟨(key _).1, (key _).2⟩

/-- What of a Hearth a compute copy leaves: all but cells, segment exponents and flags. -/
def Hearth.butCopy (h : Hearth) : Hearth := { h with cells := [], cExp := [], cpExp := [], hstat := 0 }

theorem quantSeg_butCopy (h : Hearth) (i j : Nat) : (h.quantSeg i j).butCopy = h.butCopy :=
  foldl_keeps Hearth.butCopy (f := fun u (x : Nat × Int) => u.setCell x.1 j { u.cell x.1 j with c := BitVec.ofNat 16 (ofInt (cfgCfmt h.cfg - 4) x.2) })
    (fun _ _ => rfl) _ h

/-! ## The whole copy -/

theorem recopy_butCopy (h : Hearth) : h.recopy.butCopy = h.butCopy := by
  unfold Hearth.recopy
  split
  · exact foldl_keeps Hearth.butCopy (f := fun t (x : Nat × Nat) => t.quantSeg x.1 x.2) (fun t x => quantSeg_butCopy t _ _) _ { h with cExp := [] }
  · rfl

/-- R109, R123: the copy of zero is zero in the formats that are no BFP. -/
theorem roundC_zero {f : Nat} (h2 : 2 ≤ f) (h6 : f < 6) : BitVec.ofNat 16 (roundC f 0).1 = 0 := by
  have : f = 2 ∨ f = 3 ∨ f = 4 ∨ f = 5 := by omega
  rcases this with rfl | rfl | rfl | rfl <;> decide +kernel

/-- A cell whose copies are its rounded w. -/
def Cell.rounded (c : Cell) (f : Nat) : Cell := { c with c := BitVec.ofNat 16 (roundC f c.w).1, cp := BitVec.ofNat 16 (roundC f c.w).1 }

/-- R221: the copies taken from w; w and v stay, cp equals c, and outside a BFP tile c is w rounded. -/
theorem recopy_cell {h : Hearth} (hs : Rising h.cells) (hf : 2 ≤ cfgCfmt h.cfg) (i j : Nat) :
    (h.recopy.cell i j).w = (h.cell i j).w ∧ (h.recopy.cell i j).v = (h.cell i j).v ∧ (h.recopy.cell i j).cp = (h.recopy.cell i j).c ∧
      (cfgCfmt h.cfg < 6 → (h.recopy.cell i j).c = BitVec.ofNat 16 (roundC (cfgCfmt h.cfg) (h.cell i j).w).1) := by
  unfold Hearth.recopy
  split
  · rename_i hbfp
    dsimp only
    have hsame : SameStored h ((h.cells.map (fun x => (x.1 / 1024 / cfgB h.cfg, x.1 % 1024))).dedup.foldl (fun t x => t.quantSeg x.1 x.2) { h with cExp := [] }) :=
      foldl_holds (P := SameStored h) _ (fun _ _ _ ht => quantSeg_sameStored ht _ _) ⟨hs, fun _ _ => ⟨rfl, rfl⟩⟩
    have hcell := cell_mapCells hsame.1 (f := fun c => { c with cp := c.c }) rfl i j
    obtain ⟨hw, hv⟩ := hsame.2 i j
    refine ⟨(congrArg Cell.w hcell).trans hw, (congrArg Cell.v hcell).trans hv, ?_, fun h6 => absurd hbfp (not_le.2 h6)⟩
    exact (congrArg Cell.cp hcell).trans (congrArg Cell.c hcell).symm
  · rename_i hbfp
    have hreset : Cell.reset.rounded (cfgCfmt h.cfg) = Cell.reset :=
      congrArg (fun z : BitVec 16 => ({ Cell.reset with c := z, cp := z } : Cell)) (roundC_zero hf (not_le.1 hbfp))
    have hcell := cell_mapCells hs (f := fun c => c.rounded (cfgCfmt h.cfg)) hreset i j
    exact ⟨(congrArg Cell.w hcell :), (congrArg Cell.v hcell :), (congrArg Cell.cp hcell).trans (congrArg Cell.c hcell).symm, fun _ => (congrArg Cell.c hcell :)⟩

end Sys2Proof.Machine
end

section
/-! PROOFS. HCFG, HMESH and HBIND (O37, part 3; R221, R238, R244), and the statement. -/
namespace Sys2Proof.Machine

/-! ## Hearths changed together -/

/-- Hearths changed by an update that gives the same when it is made twice: each is changed once, however often it stands in the list. -/
theorem updHearths_hearth {f : Hearth → Hearth} (hf : ∀ h, f (f h) = f h) (s : State) (grps : List Nat) (g : Nat) :
    (s.updHearths grps f).hearth g = if g ∈ grps then f (s.hearth g) else s.hearth g := by
  unfold State.updHearths
  induction grps generalizing s with
  | nil => rfl
  | cons a rest ih =>
    rw [List.foldl_cons, ih]
    by_cases ha : g = a
    · subst ha
      simp [hf]
    · simp [hearth_setHearth_ne _ _ ha, ha]

theorem updHearths_but_hearths (s : State) (grps : List Nat) (f : Hearth → Hearth) : (s.updHearths grps f).butHearths = s.butHearths := by
  unfold State.updHearths
  exact foldl_keeps State.butHearths (f := fun t g => t.setHearth g (f (t.hearth g))) (fun _ _ => rfl) grps s

theorem updHearths_cur (s : State) (grps : List Nat) (f : Hearth → Hearth) : (s.updHearths grps f).cur = s.cur :=
  (congrArg State.cur (updHearths_but_hearths s grps f) :)
theorem updHearths_mem (s : State) (grps : List Nat) (f : Hearth → Hearth) : (s.updHearths grps f).mem = s.mem :=
  (congrArg State.mem (updHearths_but_hearths s grps f) :)

/-! ## HCFG (R221) -/

/-- A Hearth under a new configuration: the copies are taken anew where CFMT or the block length changes. -/
def Hearth.configured (x y : Word) (h : Hearth) : Hearth :=
  let h1 := { h with cfg := x, sseed := orSeed (y.extractLsb' 0 32), wseed := orSeed (y.extractLsb' 32 32) }
  if cfgCfmt h.cfg != cfgCfmt x || h.cfg.getLsbD 16 != x.getLsbD 16 then h1.recopy else h1

/-- CFMT and the block length are bits 12 to 16 of a configuration. -/
theorem cfg_format_bits (x : Word) : fieldN x 16 12 = cfgCfmt x + 16 * (x.getLsbD 16).toNat := by
  have hbit : (x.getLsbD 16).toNat = x.toNat / 2 ^ 16 % 2 := Nat.toNat_testBit _ _
  rw [cfgCfmt, fieldN_eq, fieldN_eq, hbit]
  omega

theorem cfg_format_same {x z : Word} : (cfgCfmt z != cfgCfmt x || z.getLsbD 16 != x.getLsbD 16) = false ↔ fieldN z 16 12 = fieldN x 16 12 := by
  have hz : cfgCfmt z < 2 ^ 4 := fieldN_lt z 15 12
  have hx : cfgCfmt x < 2 ^ 4 := fieldN_lt x 15 12
  rw [cfg_format_bits, cfg_format_bits, Bool.or_eq_false_iff, bne_eq_false_iff_eq, bne_eq_false_iff_eq]
  cases z.getLsbD 16 <;> cases x.getLsbD 16 <;> simp <;> omega

section Configured
variable (x y : Word) (h : Hearth)

/-- What HCFG sets beside the cells. -/
theorem configured_butCopy : (h.configured x y).butCopy =
    ({ h with cfg := x, sseed := orSeed (y.extractLsb' 0 32), wseed := orSeed (y.extractLsb' 32 32) } : Hearth).butCopy := by
  unfold Hearth.configured
  dsimp only
  split
  · exact recopy_butCopy _
  · rfl

theorem configured_cfg : (h.configured x y).cfg = x := (congrArg Hearth.cfg (configured_butCopy x y h) :)
theorem configured_sseed : (h.configured x y).sseed = orSeed (y.extractLsb' 0 32) := (congrArg Hearth.sseed (configured_butCopy x y h) :)
theorem configured_wseed : (h.configured x y).wseed = orSeed (y.extractLsb' 32 32) := (congrArg Hearth.wseed (configured_butCopy x y h) :)

theorem configured_same (hfmt : fieldN h.cfg 16 12 = fieldN x 16 12) :
    h.configured x y = { h with cfg := x, sseed := orSeed (y.extractLsb' 0 32), wseed := orSeed (y.extractLsb' 32 32) } :=
  if_neg (Bool.eq_false_iff.1 (cfg_format_same.2 hfmt))

theorem configured_changed (hfmt : fieldN h.cfg 16 12 ≠ fieldN x 16 12) :
    h.configured x y = ({ h with cfg := x, sseed := orSeed (y.extractLsb' 0 32), wseed := orSeed (y.extractLsb' 32 32) } : Hearth).recopy :=
  if_pos (eq_true_of_ne_false (mt cfg_format_same.1 hfmt))

/-- Fields set to what they hold already. -/
theorem set_config_same {k : Hearth} {c : Word} {a b : BitVec 32} (hc : k.cfg = c) (ha : k.sseed = a) (hb : k.wseed = b) :
    ({ k with cfg := c, sseed := a, wseed := b } : Hearth) = k := by
  subst hc ha hb
  rfl

/-- HCFG made twice is HCFG made once. -/
theorem configured_twice : (h.configured x y).configured x y = h.configured x y := by
  rw [configured_same x y _ (by rw [configured_cfg]), set_config_same (configured_cfg x y h) (configured_sseed x y h) (configured_wseed x y h)]

end Configured

theorem slotsTooSmall_iff {s : State} {m : Nat} {x : Word} :
    s.slotsTooSmall m x = true ↔ ∃ b ∈ (s.hearth m).binds, ∃ t, Tbl.get? s.troughs b.2 = some t ∧ t.slotBytes < edgeBytes x b.1 := by
  rw [State.slotsTooSmall, List.any_eq_true]
  refine exists_congr fun b => and_congr_right fun _ => ?_
  cases Tbl.get? s.troughs b.2 <;> simp

/-- A configuration that HCFG takes names a CFMT of at least 2 (R221). -/
theorem cfmt_of_good {x : Word} (h : cfgBad x = false) : 2 ≤ cfgCfmt x := by
  by_contra hlt
  have hbad : cfgBad x = true := by
    simp only [cfgBad, Bool.or_eq_true]
    simp [show cfgCfmt x < 2 by omega]
  rw [hbad] at h
  cases h

section Hcfg
variable {o : H2} {s : State} {g : Nat} (hready : HeReady s g) (hquiet : s.isQuiet g = true) (ha : s.cur.isFull o.sa = true) (hb : s.cur.isFull o.sb = true)
include hready hquiet ha hb

theorem exec_hcfg_reserved (hbad : cfgBad (s.cur.getS o.sa) = true) : exec (.hcfg o) s = s.heFault Code.reservedField 0 (s.cur.getS o.sa) := by
  refine run_heForm_raises hready ?_
  rw [act_bind_readSrc ha, act_bind_readSrc hb, act_bind_ok (awaitQuiet_ok hquiet), act_bind_raiseIf_stop hbad]

theorem exec_hcfg_slots (hgood : cfgBad (s.cur.getS o.sa) = false) (hsmall : (s.members g).any (fun m => s.slotsTooSmall m (s.cur.getS o.sa)) = true) :
    exec (.hcfg o) s = s.heFault Code.hearthShape 0 (s.cur.getS o.sa) := by
  refine run_heForm_raises hready ?_
  rw [act_bind_readSrc ha, act_bind_readSrc hb, act_bind_ok (awaitQuiet_ok hquiet), act_bind_raiseIf hgood, act_bind_get, act_bind_raiseIf_stop hsmall]

theorem exec_hcfg_configures (hgood : cfgBad (s.cur.getS o.sa) = false) (hfit : (s.members g).any (fun m => s.slotsTooSmall m (s.cur.getS o.sa)) = false) :
    exec (.hcfg o) s = .next (s.updHearths (s.members g) (Hearth.configured (s.cur.getS o.sa) (s.cur.getS o.sb))).heDone := by
  refine run_heForm_ok hready ?_
  rw [act_bind_readSrc ha, act_bind_readSrc hb, act_bind_ok (awaitQuiet_ok hquiet), act_bind_raiseIf hgood, act_bind_get, act_bind_raiseIf hfit]
  rfl

end Hcfg

/-! ## HMESH (R238) -/

/-- A Hearth that has left its sheet. -/
def Hearth.left (h : Hearth) : Hearth := { h with sheet := none }

/-- A Hearth that joins a sheet with the lead's configuration. -/
def Hearth.joined (l : Hearth) (sheet : Nat × Nat × Nat) (h : Hearth) : Hearth :=
  { h with sheet := some sheet, cfg := l.cfg, hk := l.hk, vw := l.vw, hord := l.hord, signs := l.signs }

theorem lead_mem_sheet (g : Nat) (h w : Nat) : g ∈ sheetMembers g (h + 1) (w + 1) :=
  List.mem_flatMap.2 ⟨0, by simp, List.mem_map.2 ⟨0, by simp, rfl⟩⟩

section Hmesh
variable {o : H1} {s : State} {g : Nat} (hready : HeReady s g) (hquiet : s.isQuiet g = true) (ha : s.cur.isFull o.sa = true)
include hready hquiet ha

theorem exec_hmesh_leaves (hx : s.cur.getS o.sa = 0) :
    exec (.hmesh o) s = .next (s.updHearths (s.members g) Hearth.left).heDone := by
  refine run_heForm_ok hready ?_
  rw [act_bind_readSrc ha, act_bind_ok (notFrozen_ok (not_frozen_of_isQuiet hquiet)), hx,
    act_bind_raiseIf (b := (0 : Word).extractLsb' 5 59 != 0) (by decide), act_bind_get, if_pos rfl,
    act_bind_ok (awaitQuiet_ok hquiet)]
  rfl

variable (hx : s.cur.getS o.sa ≠ 0) (hlt : (s.cur.getS o.sa).toNat < 32)
include hx hlt

omit hready hquiet ha hx in
theorem sheetWord_reserved : ((s.cur.getS o.sa).extractLsb' 5 59 != 0) = false := by
  rw [bne_eq_false_iff_eq, extractLsb'_eq_zero_iff, Nat.div_eq_of_lt (b := 2 ^ 5) hlt, Nat.zero_mod]

theorem exec_hmesh_outside (hout : 8 < g / 4 + (fieldN (s.cur.getS o.sa) 4 2 + 1) ∨ 4 < g % 4 + (fieldN (s.cur.getS o.sa) 1 0 + 1)) :
    exec (.hmesh o) s = s.heFault Code.hearthShape 0 (s.cur.getS o.sa) := by
  have hbad : (decide (7 < g / 4 + (fieldN (s.cur.getS o.sa) 4 2 + 1 - 1)) || decide (3 < g % 4 + (fieldN (s.cur.getS o.sa) 1 0 + 1 - 1))) = true := by
    rw [Bool.or_eq_true, decide_eq_true_eq, decide_eq_true_eq]
    omega
  refine run_heForm_raises hready ?_
  rw [act_bind_readSrc ha, act_bind_ok (notFrozen_ok (not_frozen_of_isQuiet hquiet)), act_bind_raiseIf (sheetWord_reserved hlt), act_bind_get, if_neg hx]
  dsimp only
  rw [act_bind_raiseIf_stop (by rw [hbad]; rfl)]

theorem exec_hmesh_joins {ms : List Nat} (hms : ms = sheetMembers g (fieldN (s.cur.getS o.sa) 4 2 + 1) (fieldN (s.cur.getS o.sa) 1 0 + 1))
    (hh : g / 4 + (fieldN (s.cur.getS o.sa) 4 2 + 1) ≤ 8) (hw : g % 4 + (fieldN (s.cur.getS o.sa) 1 0 + 1) ≤ 4)
    (hsheet : ∀ m ∈ ms, (s.hearth m).sheet = none) (hmask : ∀ m ∈ ms, ∃ sl, s.slotOf s.cur = some sl ∧ sl.hmask.getLsbD m = true)
    (hheld : ∀ m ∈ ms, (s.hearth m).holder = some s.cur.slot) (hall : ∀ m ∈ ms, s.isQuiet m = true) :
    exec (.hmesh o) s = .next ((s.updHearths (s.members g) Hearth.left).updHearths ms
      ((s.hearth g).joined (g, fieldN (s.cur.getS o.sa) 4 2 + 1, fieldN (s.cur.getS o.sa) 1 0 + 1))).heDone := by
  subst hms
  generalize hme : sheetMembers g (fieldN (s.cur.getS o.sa) 4 2 + 1) (fieldN (s.cur.getS o.sa) 1 0 + 1) = ms at *
  have hshape : (decide (7 < g / 4 + (fieldN (s.cur.getS o.sa) 4 2 + 1 - 1)) || decide (3 < g % 4 + (fieldN (s.cur.getS o.sa) 1 0 + 1 - 1)) ||
      ms.any (fun m => (s.hearth m).sheet.any (fun k => k.1 != g))) = false := by
    rw [Bool.or_eq_false_iff, Bool.or_eq_false_iff, decide_eq_false_iff_not, decide_eq_false_iff_not, List.any_eq_false]
    exact ⟨⟨by omega, by omega⟩, fun m hm => by simp [hsheet m hm]⟩
  have hright : ms.any (fun m => (s.slotOf s.cur).all (fun sl => !sl.hmask.getLsbD m)) = false := by
    rw [List.any_eq_false]
    intro m hm
    obtain ⟨sl, hsl, hbit⟩ := hmask m hm
    rw [hsl]
    simpa using hbit
  have hlease : (!s.holdsLease s.cur.slot ms) = false := by rw [holdsLease_iff.2 hheld]; rfl
  have hbusy : ms.find? (fun m => !s.isQuiet m) = none := List.find?_eq_none.2 fun m hm => by simp [hall m hm]
  refine run_heForm_ok hready ?_
  rw [act_bind_readSrc ha, act_bind_ok (notFrozen_ok (not_frozen_of_isQuiet hquiet)), act_bind_raiseIf (sheetWord_reserved hlt), act_bind_get, if_neg hx]
  dsimp only
  rw [hme, act_bind_raiseIf hshape, act_bind_raiseIf hright, act_bind_raiseIf hlease, act_bind_ok (awaitQuiet_ok hquiet)]
  simp only [hbusy]
  rfl

end Hmesh

/-! ## HBIND (R244) -/

/-- The member of the sheet led by g that an HBIND word names. -/
def bindMember (g : Nat) (x : Word) : Nat := g + 4 * (fieldN x 12 8 / 4) + fieldN x 12 8 % 4

/-- A Hearth's edges bound anew. -/
def State.setBinds (s : State) (m : Nat) (b : Tbl Nat) : State := s.setHearth m { s.hearth m with binds := b }

/-- What HBIND does with member m and its edge once its word is in order and the Hearth is quiescent. -/
def bindEdge (s : State) (g m edge : Nat) (x : Word) : Act Unit := do
  raiseIf (s.edgeRoute m edge).isSome Code.illegalOp 9 0
  raiseIf (decide ((s.sheetAt g).h ≤ fieldN x 12 8 / 4 ∨ (s.sheetAt g).w ≤ fieldN x 12 8 % 4)) Code.hearthShape 0 x
  if x.getLsbD 63 then modify (fun u => u.setBinds m (Tbl.del (u.hearth m).binds edge))
  else
    let i ← relocate s.cur.wtro (x.extractLsb' 16 8)
    match Tbl.get? s.troughs (troughKey (s.homeGrp s.cur.slot) i) with
    | none => raise Code.troughState 0 0
    | some t =>
      raiseIf (!t.dev && m != s.homeGrp s.cur.slot) Code.permission 2 ((x.extractLsb' 16 8).setWidth 64)
      raiseIf (decide (t.slotBytes < edgeBytes (s.hearth m).cfg edge)) Code.hearthShape 0 x
      modify (fun u => u.setBinds m (Tbl.set (u.hearth m).binds edge (troughKey (s.homeGrp s.cur.slot) i)))

theorem bindWord_reserved {x : Word} (h24 : x.extractLsb' 24 39 = 0) (h13 : fieldN x 15 13 = 0) (h3 : fieldN x 7 3 = 0) (hedge : fieldN x 2 0 < 6) :
    (x.extractLsb' 24 39 != 0 || x.extractLsb' 13 3 != 0 || x.extractLsb' 3 5 != 0 || decide (5 < fieldN x 2 0)) = false := by
  have h13' : x.extractLsb' 13 3 = 0 := BitVec.eq_of_toNat_eq h13
  have h3' : x.extractLsb' 3 5 = 0 := BitVec.eq_of_toNat_eq h3
  rw [h24, h13', h3', decide_eq_false (by omega : ¬ 5 < fieldN x 2 0)]
  rfl

theorem exec_hbind_body {o : H1} {s : State} {g : Nat} {x : Word} (hquiet : s.isQuiet g = true) (ha : s.cur.isFull o.sa = true) (hx : s.cur.getS o.sa = x)
    (hres : (x.extractLsb' 24 39 != 0 || x.extractLsb' 13 3 != 0 || x.extractLsb' 3 5 != 0 || decide (5 < fieldN x 2 0)) = false) :
    ∃ body, exec (.hbind o) s = runAct (heForm body) s ∧ body g s = bindEdge s g (bindMember g x) (fieldN x 2 0) x s := by
  refine ⟨_, rfl, ?_⟩
  rw [act_bind_readSrc ha, hx]
  dsimp only
  rw [act_bind_raiseIf hres, act_bind_ok (awaitQuiet_ok hquiet), act_bind_get]
  rfl

section BindEdge
variable {s : State} {g m edge : Nat} {x : Word}

theorem bindEdge_routed (hroute : s.edgeRoute m edge ≠ none) : bindEdge s g m edge x s = .error (.raise ⟨0x01, 9, 0, false⟩) :=
  act_bind_raiseIf_stop (Option.isSome_iff_ne_none.2 hroute) _ _ _ _ _

variable (hroute : s.edgeRoute m edge = none) (hrow : fieldN x 12 8 / 4 < (s.sheetAt g).h) (hcol : fieldN x 12 8 % 4 < (s.sheetAt g).w)
include hroute hrow hcol

theorem bindEdge_unbinds (h63 : x.getLsbD 63 = true) : bindEdge s g m edge x s = .ok ((), s.setBinds m (Tbl.del (s.hearth m).binds edge)) := by
  rw [bindEdge, act_bind_raiseIf (by rw [hroute]; rfl), act_bind_raiseIf (by simp [hrow, hcol]), if_pos h63]
  rfl

variable {t : Trough} {key : Nat} (h63 : x.getLsbD 63 = false) (hwin : (x.extractLsb' 16 8).toNat < fieldN s.cur.wtro 40 32)
  (hkey : key = troughKey (s.homeGrp s.cur.slot) (fieldN s.cur.wtro 15 0 + (x.extractLsb' 16 8).toNat)) (ht : Tbl.get? s.troughs key = some t)
  (hscope : t.dev = true ∨ m = s.homeGrp s.cur.slot)
include h63 hwin hkey ht hscope

/-- What is left once the trough has been found. -/
theorem bindEdge_found : bindEdge s g m edge x s = (do
    raiseIf (decide (t.slotBytes < edgeBytes (s.hearth m).cfg edge)) Code.hearthShape 0 x
    modify (fun u => u.setBinds m (Tbl.set (u.hearth m).binds edge key)) : Act Unit) s := by
  subst hkey
  have hgrp : (!t.dev && m != s.homeGrp s.cur.slot) = false := by rcases hscope with h | h <;> simp [h]
  rw [bindEdge, act_bind_raiseIf (by rw [hroute]; rfl), act_bind_raiseIf (by simp [hrow, hcol]), if_neg (Bool.eq_false_iff.1 h63),
    act_bind_ok (relocate_within hwin s)]
  simp only [ht]
  rw [act_bind_raiseIf hgrp]

theorem bindEdge_binds (hfit : edgeBytes (s.hearth m).cfg edge ≤ t.slotBytes) :
    bindEdge s g m edge x s = .ok ((), s.setBinds m (Tbl.set (s.hearth m).binds edge key)) := by
  rw [bindEdge_found hroute hrow hcol h63 hwin hkey ht hscope, act_bind_raiseIf (decide_eq_false (not_lt.2 hfit))]
  rfl

theorem bindEdge_slots (hsmall : t.slotBytes < edgeBytes (s.hearth m).cfg edge) :
    bindEdge s g m edge x s = .error (.raise ⟨Code.hearthShape, 0, x, false⟩) := by
  rw [bindEdge_found hroute hrow hcol h63 hwin hkey ht hscope, act_bind_raiseIf_stop (decide_eq_true hsmall)]

end BindEdge


/-! ## The statement -/

section Configured
variable (x y : Word) {h : Hearth}

/-- R221: the registers and the cells of a configured Hearth. -/
theorem configured_values (hgood : cfgBad x = false) (hcells : Rising h.cells) :
    (h.configured x y).cfg = x ∧ (h.configured x y).sseed = orSeed (y.extractLsb' 0 32) ∧ (h.configured x y).wseed = orSeed (y.extractLsb' 32 32) ∧
      (h.configured x y).vw = h.vw ∧ (fieldN h.cfg 16 12 = fieldN x 16 12 → (h.configured x y).cells = h.cells) ∧
      (fieldN h.cfg 16 12 ≠ fieldN x 16 12 → ∀ i j, ((h.configured x y).cell i j).w = (h.cell i j).w ∧ ((h.configured x y).cell i j).v = (h.cell i j).v ∧
        ((h.configured x y).cell i j).cp = ((h.configured x y).cell i j).c ∧
        (fieldN x 15 12 < 6 → ((h.configured x y).cell i j).c = BitVec.ofNat 16 (roundC (fieldN x 15 12) (h.cell i j).w).1)) := by
  refine ⟨configured_cfg x y h, configured_sseed x y h, configured_wseed x y h, (congrArg Hearth.vw (configured_butCopy x y h) :), fun hsame => ?_,
    fun hchanged i j => ?_⟩
  · rw [configured_same x y h hsame]
  · rw [configured_changed x y h hchanged]
    exact recopy_cell (h := { h with cfg := x, sseed := orSeed (y.extractLsb' 0 32), wseed := orSeed (y.extractLsb' 32 32) }) hcells (cfmt_of_good hgood) i j

end Configured

section Shapes
variable {s : State} {g : Nat} (hready : HeReady s g) (hquiet : s.isQuiet g = true)
include hready hquiet

/-- HCFG over the members of a sheet whose bound slots are long enough. -/
theorem exec_hcfg_fits {o : H2} (ha : s.cur.isFull o.sa = true) (hb : s.cur.isFull o.sb = true) (hgood : cfgBad (s.cur.getS o.sa) = false)
    (hfit : ∀ m ∈ s.members g, ∀ b ∈ (s.hearth m).binds, ∀ t, Tbl.get? s.troughs b.2 = some t → edgeBytes (s.cur.getS o.sa) b.1 ≤ t.slotBytes) :
    ∃ t, exec (.hcfg o) s = .next t ∧ t.cur = s.heDone.cur ∧ t.mem = s.mem ∧
      ∀ m ∈ s.members g, t.hearth m = (s.hearth m).configured (s.cur.getS o.sa) (s.cur.getS o.sb) := by
  have hnone : (s.members g).any (fun m => s.slotsTooSmall m (s.cur.getS o.sa)) = false := by
    refine List.any_eq_false.2 fun m hm hsmall => ?_
    obtain ⟨b, hb, t, ht, hlt⟩ := slotsTooSmall_iff.1 hsmall
    exact absurd (hfit m hm b hb t ht) (not_le.2 hlt)
  refine ⟨_, exec_hcfg_configures hready hquiet ha hb hgood hnone, ?_, updHearths_mem _ _ _, fun m hm => ?_⟩
  · exact congrArg (fun c : Context => ({ c.setStaged none with heAt := none } : Context).nextSeq) (updHearths_cur s _ _)
  · exact (updHearths_hearth (configured_twice _ _) s _ m).trans (if_pos hm)

/-- HMESH over Hearths that stand in no sheet: each takes the lead's configuration. -/
theorem exec_hmesh_joined {o : H1} {ms : List Nat} (ha : s.cur.isFull o.sa = true) (hx : s.cur.getS o.sa ≠ 0) (hlt : (s.cur.getS o.sa).toNat < 32)
    (hms : ms = sheetMembers g (fieldN (s.cur.getS o.sa) 4 2 + 1) (fieldN (s.cur.getS o.sa) 1 0 + 1))
    (hh : g / 4 + (fieldN (s.cur.getS o.sa) 4 2 + 1) ≤ 8) (hw : g % 4 + (fieldN (s.cur.getS o.sa) 1 0 + 1) ≤ 4)
    (hsheet : ∀ m ∈ ms, (s.hearth m).sheet = none) (hmask : ∀ m ∈ ms, ∃ sl, s.slotOf s.cur = some sl ∧ sl.hmask.getLsbD m = true)
    (hheld : ∀ m ∈ ms, (s.hearth m).holder = some s.cur.slot) (hall : ∀ m ∈ ms, s.isQuiet m = true) :
    ∃ t, exec (.hmesh o) s = .next t ∧ t.cur = s.heDone.cur ∧ t.mem = s.mem ∧ ∀ m ∈ ms,
      t.hearth m = (s.hearth g).joined (g, fieldN (s.cur.getS o.sa) 4 2 + 1, fieldN (s.cur.getS o.sa) 1 0 + 1) (s.hearth m) := by
  refine ⟨_, exec_hmesh_joins hready hquiet ha hx hlt hms hh hw hsheet hmask hheld hall, ?_, ?_, fun m hm => ?_⟩
  · exact congrArg (fun c : Context => ({ c.setStaged none with heAt := none } : Context).nextSeq) ((updHearths_cur _ _ _).trans (updHearths_cur s _ _))
  · exact (updHearths_mem _ _ _).trans (updHearths_mem _ _ _)
  · refine (updHearths_hearth (f := (s.hearth g).joined _) (fun _ => rfl) _ ms m).trans ((if_pos hm).trans ?_)
    rw [updHearths_hearth (f := Hearth.left) (fun _ => rfl)]
    split <;> rfl

end Shapes

/-- Settles O37: the lease check and the frame of every Hearth instruction, then HCFG, HMESH and HBIND outcome by outcome. -/
theorem hearthLeaseAndShapes : Obligations.HearthLeaseAndShapes := by
  refine ⟨⟨fun i s hi hat hrun => exec_hearth_lease hi hat hrun, fun s g hready hf => exec_hdrain hready hf, fun i s g hi hready hf => exec_hearth_frozen hi hready hf⟩,
    fun s g hready hquiet => ⟨fun o ha hb => ⟨exec_hcfg_reserved hready hquiet ha hb, fun hgood ⟨m, hm, hsmall⟩ => ?_, fun hgood hfit hcells => ?_⟩,
      fun o ha => ⟨exec_hmesh_leaves hready hquiet ha, fun hx hlt => exec_hmesh_outside hready hquiet ha hx hlt,
        fun hx hlt hh hw => exec_hmesh_joined hready hquiet ha hx hlt rfl hh hw⟩, fun o t ha h24 h13 h3 hedge => ?_⟩⟩
  · exact exec_hcfg_slots hready hquiet ha hb hgood (List.any_eq_true.2 ⟨m, hm, slotsTooSmall_iff.2 hsmall⟩)
  · obtain ⟨t, hexec, hcur, hmem, hconf⟩ := exec_hcfg_fits hready hquiet ha hb hgood hfit
    refine ⟨t, hexec, hcur, hmem, fun m hm => ?_⟩
    rw [hconf m hm]
    exact configured_values _ _ hgood (hcells m hm)
  · obtain ⟨body, hexec, hbody⟩ := exec_hbind_body hquiet ha rfl (bindWord_reserved h24 h13 h3 hedge)
    refine ⟨fun hroute => ?_, fun hroute hrow hcol => ⟨fun h63 => ?_, fun h63 hwin hget hscope => ⟨fun hfit => ?_, fun hsmall => ?_⟩⟩⟩
    · exact hexec.trans (run_heForm_raises hready (hbody.trans (bindEdge_routed hroute)))
    · exact hexec.trans (run_heForm_ok hready (hbody.trans (bindEdge_unbinds hroute hrow hcol h63)))
    · exact hexec.trans (run_heForm_ok hready (hbody.trans (bindEdge_binds hroute hrow hcol h63 hwin rfl hget hscope hfit)))
    · exact hexec.trans (run_heForm_raises hready (hbody.trans (bindEdge_slots hroute hrow hcol h63 hwin rfl hget hscope hsmall)))

end Sys2Proof.Machine
end

section
/-! PROOFS. Stream registers (O27, part 1): waking, units popped from a route, and rows with their mark (R43, R210, R213, R315, R316). -/
namespace Sys2Proof.Machine

/-! ## Contexts woken (R166, R315) -/

/-- The context's wait for `w` began in this cycle. -/
def Context.wakes (w : WaitCond) (cycle : Nat) (c : Context) : Prop := c.phase = .waiting ∧ c.wait.any (fun x => x.cond = w && x.since = cycle) = true

/-- A context whose wait for `w` began in this cycle may issue again. -/
def Context.woken (w : WaitCond) (cycle : Nat) (c : Context) : Context :=
  if c.phase = .waiting ∧ c.wait.any (fun x => x.cond = w && x.since = cycle) then { c with phase := .ready, wait := none, lastIssue := cycle } else c

theorem wakeNow_eq (s : State) (w : WaitCond) :
    s.wakeNow w = { s with cur := s.cur.woken w s.cycle, parked := s.parked.map (Context.woken w s.cycle) } := rfl

section Woken
variable {w : WaitCond} {n : Nat} {c : Context}

theorem woken_of_wakes (h : c.wakes w n) : c.woken w n = { c with phase := .ready, wait := none, lastIssue := n } := if_pos h
theorem woken_of_not_wakes (h : ¬ c.wakes w n) : c.woken w n = c := if_neg h

theorem woken_but_wait : { c.woken w n with phase := c.phase, wait := c.wait, lastIssue := c.lastIssue } = c := by
  by_cases h : c.wakes w n
  · rw [woken_of_wakes h]
  · rw [woken_of_not_wakes h]

theorem woken_twice : (c.woken w n).woken w n = c.woken w n := by
  by_cases h : c.wakes w n
  · rw [woken_of_wakes h]
    exact woken_of_not_wakes fun h' => by cases h'.1
  · rw [woken_of_not_wakes h, woken_of_not_wakes h]

/-- Waking touches neither the tiles nor the marks. -/
theorem woken_setTile (d : BitVec 4) (x : Tile) (m : List (Word × Nat × Nat)) :
    ({ c.setTile d x with mark := m } : Context).woken w n = { (c.woken w n).setTile d x with mark := m } := by
  by_cases h : c.wakes w n
  · rw [woken_of_wakes h]
    exact woken_of_wakes (c := { c.setTile d x with mark := m }) h
  · rw [woken_of_not_wakes h]
    exact woken_of_not_wakes (c := { c.setTile d x with mark := m }) h

end Woken

section Woken
variable (s : State) (w : WaitCond)

theorem wakeNow_twice : (s.wakeNow w).wakeNow w = s.wakeNow w := by
  rw [wakeNow_eq, wakeNow_eq, woken_twice, List.map_map]
  exact congrArg (fun p => ({ s with cur := s.cur.woken w s.cycle, parked := p } : State))
    (List.map_congr_left fun c _ => woken_twice)

theorem wakeNow_cur_but_wait : { (s.wakeNow w).cur with phase := s.cur.phase, wait := s.cur.wait, lastIssue := s.cur.lastIssue } = s.cur  := woken_but_wait

theorem wakeNow_shape : (s.wakeNow w).cur.shape = s.cur.shape := (congrArg Context.shape (wakeNow_cur_but_wait s w) :)
theorem wakeNow_active (msk : BitVec 4) : (s.wakeNow w).cur.active msk = s.cur.active msk :=
  (congrArg (fun c : Context => c.active msk) (wakeNow_cur_but_wait s w) :)
theorem wakeNow_tile (d : BitVec 4) : (s.wakeNow w).cur.tile d = s.cur.tile d := (congrArg (fun c : Context => c.tile d) (wakeNow_cur_but_wait s w) :)
theorem wakeNow_pend : (s.wakeNow w).cur.pend = s.cur.pend := (congrArg Context.pend (wakeNow_cur_but_wait s w) :)
theorem wakeNow_mark : (s.wakeNow w).cur.mark = s.cur.mark := (congrArg Context.mark (wakeNow_cur_but_wait s w) :)
theorem wakeNow_pc : (s.wakeNow w).cur.pc = s.cur.pc := (congrArg Context.pc (wakeNow_cur_but_wait s w) :)

end Woken

/-! ## Units popped from a route (R210, R315) -/

/-- The state but for the route FIFOs. -/
def State.butRoutes (s : State) : State := { s with routes := [] }

theorem wakeNow_butRoutes (s : State) (w : WaitCond) : (s.wakeNow w).butRoutes = s.butRoutes.wakeNow w := rfl

theorem unitOf_isUnit {cycle : Nat} {u : List RouteEntry} (h : IsUnit cycle u) (rest : List RouteEntry) :
    unitOf cycle (u ++ rest) = some (unitBytes u, u.length) := by
  obtain ⟨hold, hopen, e, hlast, hend⟩ := h
  induction u with
  | nil => cases hlast
  | cons a u ih =>
    have ha : ¬ cycle ≤ a.pushed := not_le.2 (hold a (by simp))
    rw [List.cons_append, unitOf, if_neg ha]
    cases u with
    | nil =>
      obtain rfl : a = e := by simpa using hlast
      simp [hend, unitBytes]
    | cons b u =>
      have hao : a.unitEnd = false := hopen a (by simp)
      rw [if_neg (by simp [hao]), ih (fun x hx => hold x (by simp [hx])) (fun x hx => hopen x (by simp [hx])) (by simpa using hlast)]
      rfl

/-- A whole unit popped, entry by entry: what it leaves of the route, and the producer woken. -/
theorem foldl_popRoute {s : State} {k : Nat} {r : Route} (hr : Tbl.get? s.routes k = some r) (n : Nat) :
    Tbl.get? ((List.range (n + 1)).foldl (fun t _ => t.popRoute k) s).routes k = some { r with entries := r.entries.drop (n + 1) } ∧
      ((List.range (n + 1)).foldl (fun t _ => t.popRoute k) s).butRoutes = (s.wakeNow (.routeRoom (k / 64) (k % 64))).butRoutes := by
  have hpop : ∀ (t : State) (q : Route), Tbl.get? t.routes k = some q → Tbl.get? (t.popRoute k).routes k = some { q with entries := q.entries.drop 1 } ∧
      (t.popRoute k).butRoutes = (t.wakeNow (.routeRoom (k / 64) (k % 64))).butRoutes := fun t q hq => by
    unfold State.popRoute
    simp only [hq]
    exact ⟨tbl_get_set _ _ _, rfl⟩
  induction n with
  | zero => exact hpop s r hr
  | succ n ih =>
    obtain ⟨hget, hbut⟩ := ih
    obtain ⟨hget', hbut'⟩ := hpop _ _ hget
    rw [List.range_succ, List.foldl_append]
    refine ⟨hget'.trans (by simp [List.drop_drop]), ?_⟩
    exact hbut'.trans (by rw [wakeNow_butRoutes, hbut, ← wakeNow_butRoutes, wakeNow_twice])

theorem popUnit_ok {s : State} {k : Nat} {r : Route} {u rest : List RouteEntry} (hr : Tbl.get? s.routes k = some r) (hu : IsUnit s.cycle u)
    (he : r.entries = u ++ rest) :
    ∃ t, popUnit k s = .ok (unitBytes u, t) ∧ Tbl.get? t.routes k = some { r with entries := rest } ∧
      t.butRoutes = (s.wakeNow (.routeRoom (k / 64) (k % 64))).butRoutes := by
  have hunit : s.routeUnit k = some (unitBytes u, u.length) := by rw [State.routeUnit, hr, Option.bind_some, he, unitOf_isUnit hu]
  obtain ⟨n, hn⟩ : ∃ n, u.length = n + 1 := by
    obtain ⟨-, -, e, hlast, -⟩ := hu
    cases u with
    | nil => cases hlast
    | cons a u => exact ⟨_, rfl⟩
  obtain ⟨hget, hbut⟩ := foldl_popRoute hr n
  refine ⟨_, ?_, hget.trans (by rw [he, ← hn, List.drop_left]), hbut⟩
  rw [popUnit, act_bind_get]
  simp only [hunit, hn]
  rfl

/-! ## The route that a stream register names (R43) -/

section Stream
variable {s : State} {n : BitVec 5} {push : Bool} {k : Nat} {r : Route} (h : StreamRoute s n push k r)
include h

theorem streamOf_route : streamOf n push s = .ok (.route k, s) := by
  obtain ⟨q, hq, h63, h62, h60, rfl, hr, -⟩ := h
  have hq' : s.cur.qb[n.toNat % 4]'(Nat.mod_lt _ (by decide)) = q := by
    rw [Vector.getElem?_eq_getElem (Nat.mod_lt _ (by decide))] at hq
    exact Option.some.inj hq
  have hkey : routeKey s.cur.grp (fieldN q 7 0) = s.cur.grp * 64 + q.toNat % 256 := by
    rw [routeKey, fieldN_eq, Nat.pow_zero, Nat.div_one]
    rfl
  rw [streamOf, act_bind_get, hq']
  dsimp only
  rw [act_bind_raiseIf (by rw [h63, h62, bne_self_eq_false]; rfl), if_pos h60, hkey, act_bind_raiseIf (by rw [hr]; rfl)]
  rfl

theorem streamRoute_get : Tbl.get? s.routes k = some r := by
  obtain ⟨q, -, -, -, -, -, hr, -⟩ := h
  exact hr

theorem streamRoute_unmarked : ∀ m ∈ s.cur.mark, m.1 ≠ s.cur.pc := by
  obtain ⟨q, -, -, -, -, -, -, hm⟩ := h
  exact hm

end Stream

/-! ## Rows with a mark (R213, R316) -/

theorem keepStops_ok {α : Type} {a : Act α} {s t : State} {x : α} (h : a s = .ok (x, t)) : keepStops a s = .ok (x, t) := by
  rw [keepStops, h]

theorem keepStops_wait {α : Type} {a : Act α} {s : State} {w : WaitCond} (h : a s = .error (.wait w none)) :
    keepStops a s = .error (.wait w (some s)) := by
  rw [keepStops, h]

theorem keepStops_waitKeep {α : Type} {a : Act α} {s t : State} {w : WaitCond} (h : a s = .error (.wait w (some t))) :
    keepStops a s = .error (.wait w (some t)) := by
  rw [keepStops, h]

theorem rowMark_setRowMark (c : Context) (m : Nat × Nat) : (c.setRowMark (some m)).rowMark = m := by
  have hnone : (c.mark.filter (fun x => x.1 ≠ c.pc)).find? (fun x => x.1 = c.pc) = none :=
    List.find?_eq_none.2 fun x hx => by simpa using (List.mem_filter.1 hx).2
  have hfind : (c.setRowMark (some m)).mark.find? (fun x => x.1 = c.pc) = some (c.pc, m) := by
    rw [show (c.setRowMark (some m)).mark = c.mark.filter (fun x => x.1 ≠ c.pc) ++ [(c.pc, m)] from rfl, List.find?_append, hnone]
    simp
  exact congrArg (fun x : Option (Word × Nat × Nat) => (x.map (·.2)).getD (0, 0)) hfind

theorem rowMark_unmarked {c : Context} (h : ∀ m ∈ c.mark, m.1 ≠ c.pc) : c.rowMark = (0, 0) := by
  have hnone : c.mark.find? (fun x => x.1 = c.pc) = none := List.find?_eq_none.2 fun x hx => by simpa using h x hx
  rw [Context.rowMark, hnone]
  rfl

/-- The marks of other instructions. -/
def Context.otherMarks (c : Context) : List (Word × Nat × Nat) := c.mark.filter (fun x => x.1 ≠ c.pc)

theorem otherMarks_setRowMark (c : Context) (m : Option (Nat × Nat)) : (c.setRowMark m).otherMarks = c.otherMarks := by
  cases m <;> simp [Context.otherMarks, Context.setRowMark, List.filter_append, List.filter_filter]

theorem setRowMark_none (c : Context) : c.setRowMark none = { c with mark := c.otherMarks } :=
  congrArg (fun l => ({ c with mark := l } : Context)) (List.append_nil _)

theorem otherMarks_unmarked {c : Context} (h : ∀ m ∈ c.mark, m.1 ≠ c.pc) : c.otherMarks = c.mark :=
  List.filter_eq_self.2 fun m hm => by simpa using h m hm

/-- A property that holds before row j and, once the row is done and marked, before row j + 1. -/
theorem rowsFrom_range' {f : Nat → Act Unit} {I : Nat → State → Prop} {n : Nat} (hmark : ∀ j t, I j t → t.cur.rowMark = (j, 0))
    (hrow : ∀ j t, j < n → I j t → ∃ t', f j t = .ok ((), t') ∧ I (j + 1) (t'.setCur (fun c => c.setRowMark (some (j + 1, 0)))))
    (m j : Nat) (hjm : j + m = n) {t : State} (h : I j t) : ∃ t', rowsFrom f (List.range' j m) t = .ok ((), t') ∧ I n t' := by
  induction m generalizing j t with
  | zero =>
    obtain rfl : j = n := by omega
    exact ⟨t, rfl, h⟩
  | succ m ih =>
    obtain ⟨t', ht', hI⟩ := hrow j t (by omega) h
    obtain ⟨u, hu, hIn⟩ := ih (j + 1) (by omega) hI
    refine ⟨u, ?_, hIn⟩
    rw [List.range'_succ, rowsFrom, act_bind_get, hmark j t h, if_neg (Nat.lt_irrefl j), act_bind_ok (keepStops_ok ht'), act_bind_modCur]
    exact keepStops_ok hu

theorem rowsFrom_range {f : Nat → Act Unit} {I : Nat → State → Prop} {n : Nat} (hmark : ∀ j t, I j t → t.cur.rowMark = (j, 0))
    (hrow : ∀ j t, j < n → I j t → ∃ t', f j t = .ok ((), t') ∧ I (j + 1) (t'.setCur (fun c => c.setRowMark (some (j + 1, 0)))))
    {t : State} (h : I 0 t) : ∃ t', rowsFrom f (List.range n) t = .ok ((), t') ∧ I n t' := by
  rw [List.range_eq_range']
  exact rowsFrom_range' hmark hrow n 0 (Nat.zero_add n) h

/-! ## A tile written row by row (R184) -/

section Rows
variable {w : Nat} {act : Nat → Bool} {mz : Bool}

/-- Values that read no rounding state leave it as it is. -/
theorem envAfter_values (val : Nat → Nat) (ks : List Nat) (r : REnv) : envAfter act (fun k e => (val k, e)) ks r = r :=
  foldl_keeps id (fun t k => by simp) ks r

theorem writeElems_congr {f g : Nat → REnv → Nat × REnv} {ks : List Nat} (h : ∀ k ∈ ks, act k = true → f k = g k) (old : Tile) (r : REnv) :
    writeElems w act mz f ks old r = writeElems w act mz g ks old r := by
  unfold writeElems
  refine List.foldl_ext _ _ _ fun acc k hk => ?_
  by_cases ha : act k = true
  · simp [ha, h k hk ha]
  · simp [ha]

/-- The tile after rows below j: every active position its value. -/
def rowsTile (w : Nat) (act : Nat → Bool) (mz : Bool) (val : Nat → Nat) (n : Nat) (old : Tile) : Tile :=
  (writeElems w act mz (fun k e => (val k, e)) (List.range n) old rneEnv).1

theorem range_row (h : Shape) (j : Nat) : List.range ((j + 1) * h.cols) = List.range (j * h.cols) ++ h.row j := by
  rw [Nat.succ_mul, List.range_add]
  rfl

theorem mem_row {h : Shape} {j k : Nat} (hk : k ∈ h.row j) : k / h.cols = j ∧ k % h.cols < h.cols := by
  obtain ⟨c, hc, rfl⟩ := List.mem_map.1 hk
  have hlt := List.mem_range.1 hc
  rw [Nat.mul_comm j, Nat.mul_add_div (by omega), Nat.div_eq_of_lt hlt]
  exact ⟨rfl, Nat.mod_lt _ (by omega)⟩

theorem rowsTile_succ {val : Nat → Nat} {f : Nat → REnv → Nat × REnv} (h : Shape) (j : Nat)
    (hf : ∀ k ∈ h.row j, act k = true → f k = fun e => (val k, e)) (old : Tile) :
    rowsTile w act mz val ((j + 1) * h.cols) old = (writeElems w act mz f (h.row j) (rowsTile w act mz val (j * h.cols) old) rneEnv).1 := by
  unfold rowsTile
  rw [range_row, writeElems_append, writeElems_env, envAfter_values, writeElems_congr hf]

theorem rowsTile_result {s : State} {msk vd : BitVec 4} {val : Nat → Nat} (hw : 1 ≤ w) (hn : s.cur.shape.size * w ≤ 2048) :
    ElemResult s w msk mz vd (rowsTile w (s.cur.active msk) mz val s.cur.shape.size (s.cur.tile vd)) val := by
  refine ⟨fun k hk => ?_, fun b hb => writeElems_range_above _ _ _ hw hn hb _ _⟩
  rw [rowsTile, writeElems_range _ _ _ hw hn hk]

end Rows

/-! ## Rows that have an active position -/

section Active
variable (s : State) (msk : BitVec 4)

/-- The row has an active position. -/
def State.rowActive (j : Nat) : Bool := (s.cur.shape.row j).any (s.cur.active msk)

theorem activeRows_eq : s.activeRows msk = (List.range s.cur.shape.rows).filter (s.rowActive msk) :=
  List.filter_congr fun j _ => by rw [State.rowActive, Shape.row, List.any_map]; rfl

/-- The active rows below j. -/
def State.activeBelow (j : Nat) : List Nat := (List.range j).filter (s.rowActive msk)

theorem activeBelow_succ (j : Nat) : s.activeBelow msk (j + 1) = s.activeBelow msk j ++ if s.rowActive msk j = true then [j] else [] := by
  rw [State.activeBelow, List.range_succ, List.filter_append]
  by_cases h : s.rowActive msk j = true <;> simp [State.activeBelow, h]

theorem activeBelow_rows : s.activeBelow msk s.cur.shape.rows = s.activeRows msk := (activeRows_eq s msk).symm

theorem activeBelow_length_le {i j : Nat} (h : i ≤ j) : (s.activeBelow msk i).length ≤ (s.activeBelow msk j).length := by
  induction j, h using Nat.le_induction with
  | base => exact le_rfl
  | succ j _ ih =>
    rw [activeBelow_succ, List.length_append]
    omega

/-- The active rows below a row of the shape, as the statement counts them. -/
theorem activeRows_below {j : Nat} (hj : j ≤ s.cur.shape.rows) : (s.activeRows msk).filter (fun i => decide (i < j)) = s.activeBelow msk j := by
  obtain ⟨m, hm⟩ := Nat.exists_eq_add_of_le hj
  have hlow : (List.range j).filter (fun i => decide (i < j)) = List.range j := List.filter_eq_self.2 fun i hi => by simpa using hi
  have hhigh : ((List.range m).map (j + ·)).filter (fun i => decide (i < j)) = [] := List.filter_eq_nil_iff.2 fun i hi => by
    obtain ⟨c, -, rfl⟩ := List.mem_map.1 hi
    simp
  rw [activeRows_eq, hm, List.filter_comm, List.range_add, List.filter_append, hlow, hhigh, List.append_nil]
  rfl

end Active

end Sys2Proof.Machine
end

section
/-! PROOFS. Stream registers (O27, part 2): VPOP (R211). -/
namespace Sys2Proof.Machine

/-! ## A state between two rows -/

/-- A state but for its routes, one tile and the marks. -/
def State.withRows (u : State) (routes : Tbl Route) (d : BitVec 4) (x : Tile) (m : List (Word × Nat × Nat)) : State :=
  { u with routes := routes, cur := { u.cur.setTile d x with mark := m } }

/-- States that agree but for the route FIFOs. -/
theorem eq_of_butRoutes {s t : State} (h : t.butRoutes = s.butRoutes) : t = { s with routes := t.routes } := by
  have hset : ({ t.butRoutes with routes := t.routes } : State) = { s.butRoutes with routes := t.routes } := by rw [h]
  exact hset

section WithRows
variable (u : State) (routes : Tbl Route) (d : BitVec 4) (x y : Tile) (m : List (Word × Nat × Nat))

theorem setTile_setTile (c : Context) : (c.setTile d x).setTile d y = c.setTile d y := by
  unfold Context.setTile
  rw [Vector.set_set]

theorem tile_setTile (c : Context) : (c.setTile d x).tile d = x := Vector.getElem_set_self _

theorem setTile_tile (c : Context) : c.setTile d (c.tile d) = c := by
  unfold Context.setTile Context.tile
  rw [Vector.set_getElem_self]

theorem withRows_setTile : (u.withRows routes d x m).setCur (fun c => c.setTile d y) = u.withRows routes d y m :=
  congrArg (fun c : Context => ({ u with routes := routes, cur := { c with mark := m } } : State)) (setTile_setTile d x y u.cur)

theorem withRows_wakeNow (w : WaitCond) : (u.withRows routes d x m).wakeNow w = (u.wakeNow w).withRows routes d x m :=
  congrArg (fun c : Context => ({ (u.wakeNow w) with routes := routes, cur := c } : State)) (woken_setTile d x m)

theorem withRows_tile : (u.withRows routes d x m).cur.tile d = x := tile_setTile d x u.cur

theorem withRows_of_butRoutes {t : State} (h : t.butRoutes = (u.withRows routes d x m).butRoutes) : t = u.withRows t.routes d x m := eq_of_butRoutes h

theorem withRows_active (msk : BitVec 4) : (u.withRows routes d x m).cur.active msk = u.cur.active msk := rfl
theorem withRows_pc : (u.withRows routes d x m).cur.pc = u.cur.pc := rfl
theorem withRows_cycle : (u.withRows routes d x m).cycle = u.cycle := rfl
theorem withRows_ownMark : (u.withRows routes d x m).setCur (fun c => { c with mark := u.cur.mark }) = { u with routes := routes, cur := u.cur.setTile d x } := rfl

theorem withRows_setRowMark (k : Option (Nat × Nat)) : (u.withRows routes d x m).setCur (fun c => c.setRowMark k) =
    u.withRows routes d x ((u.withRows routes d x m).setCur (fun c => c.setRowMark k)).cur.mark := rfl

/-- A state is its own, with the tile that it has. -/
theorem withRows_self (s : State) : s = s.withRows s.routes d (s.cur.tile d) s.cur.mark :=
  congrArg (fun c : Context => ({ s with cur := { c with mark := s.cur.mark } } : State)) (setTile_tile d s.cur).symm

end WithRows

/-! ## VPOP row by row -/

/-- One row of VPOP. -/
def popRow (o : VPopF) (h : Shape) (q : StreamObj) (r : Nat) : Act Unit := do
  let s ← get
  let bs ← if (h.row r).any (s.cur.active o.msk) then takeUnit q else pure []
  modCur (fun c => c.setTile o.vd (writeElems (floatW o.ty) (c.active o.msk) o.mz
    (fun k e => (leNat ((bs.drop (k % h.cols * floatW o.ty)).take (floatW o.ty)), e)) (h.row r) (c.tile o.vd) rneEnv).1)

theorem exec_vpop_eq (o : VPopF) (s : State) : exec (.vpop o) s = runAct (do
    checkWidth (floatW o.ty)
    let q ← streamOf o.sb false
    awaitTiles (.tile o.vd :: maskUse o.msk)
    rowsFrom (popRow o s.cur.shape q) (List.range s.cur.shape.rows)
    modCur (fun c => c.setRowMark none)
    advance) s := rfl

/-- The producer that waits for room is woken once an entry has been popped. -/
def State.popWoken (s : State) (k : Nat) (rows : List Nat) : State := if rows = [] then s else s.wakeNow (.routeRoom (k / 64) (k % 64))

theorem popWoken_cur_eq {α : Type} (g : Context → α) (hg : ∀ (c : Context) p w n, g { c with phase := p, wait := w, lastIssue := n } = g c)
    (s : State) (k : Nat) (rows : List Nat) : g (s.popWoken k rows).cur = g s.cur := by
  unfold State.popWoken
  split
  · rfl
  · exact (hg _ _ _ _).symm.trans (congrArg g (wakeNow_cur_but_wait s (.routeRoom (k / 64) (k % 64))))

theorem popWoken_hold (s : State) (k : Nat) (rows : List Nat) : (s.popWoken k rows).hold = s.hold := by
  unfold State.popWoken
  split <;> rfl

theorem popWoken_mem (s : State) (k : Nat) (rows : List Nat) : (s.popWoken k rows).mem = s.mem := by
  unfold State.popWoken
  split <;> rfl

theorem popWoken_active (s : State) (k : Nat) (rows : List Nat) (msk : BitVec 4) : (s.popWoken k rows).cur.active msk = s.cur.active msk :=
  popWoken_cur_eq (fun c : Context => c.active msk) (fun _ _ _ _ => rfl) s k rows
theorem popWoken_pc (s : State) (k : Nat) (rows : List Nat) : (s.popWoken k rows).cur.pc = s.cur.pc :=
  popWoken_cur_eq Context.pc (fun _ _ _ _ => rfl) s k rows
theorem popWoken_mark (s : State) (k : Nat) (rows : List Nat) : (s.popWoken k rows).cur.mark = s.cur.mark :=
  popWoken_cur_eq Context.mark (fun _ _ _ _ => rfl) s k rows

theorem popWoken_wakeNow (s : State) (k : Nat) (rows : List Nat) (j : Nat) :
    (s.popWoken k rows).wakeNow (.routeRoom (k / 64) (k % 64)) = s.popWoken k (rows ++ [j]) := by
  unfold State.popWoken
  rw [if_neg (List.append_ne_nil_of_right_ne_nil rows (List.cons_ne_nil j []))]
  split
  · rfl
  · exact wakeNow_twice s _

theorem popWoken_cycle (s : State) (k : Nat) (rows : List Nat) : (s.popWoken k rows).cycle = s.cycle := by
  unfold State.popWoken
  split <;> rfl

/-- What VPOP gives position k: its bytes of the unit of its row. -/
def popVal (s : State) (o : VPopF) (us : List (List RouteEntry)) (k : Nat) : Nat :=
  leNat (((unitBytes (us.getD (s.activeBelow o.msk (k / s.cur.shape.cols)).length [])).drop (k % s.cur.shape.cols * floatW o.ty)).take (floatW o.ty))

/-- VPOP before row j: a unit popped for each active row below, the tile written so far, the mark at j. -/
structure PopRows (s : State) (o : VPopF) (k : Nat) (r : Route) (us : List (List RouteEntry)) (rest : List RouteEntry) (j : Nat) (t : State) : Prop where
  route : Tbl.get? t.routes k = some { r with entries := (us.drop (s.activeBelow o.msk j).length).flatten ++ rest }
  mark : t.cur.rowMark = (j, 0)
  others : t.cur.otherMarks = s.cur.mark
  state : t = (s.popWoken k (s.activeBelow o.msk j)).withRows t.routes o.vd
    (rowsTile (floatW o.ty) (s.cur.active o.msk) o.mz (popVal s o us) (j * s.cur.shape.cols) (s.cur.tile o.vd)) t.cur.mark

section Vpop
variable {s : State} {o : VPopF} {k : Nat} {r : Route} {us : List (List RouteEntry)} {rest : List RouteEntry}

/-- The row of VPOP once its bytes are there. -/
theorem popRow_bytes {q : StreamObj} {j : Nat} {t t1 : State} {bs : List Byte} (h : Shape)
    (hbs : (if (h.row j).any (t.cur.active o.msk) then takeUnit q else pure []) t = .ok (bs, t1)) :
    popRow o h q j t = .ok ((), t1.setCur (fun c => c.setTile o.vd (writeElems (floatW o.ty) (c.active o.msk) o.mz
      (fun k e => (leNat ((bs.drop (k % h.cols * floatW o.ty)).take (floatW o.ty)), e)) (h.row j) (c.tile o.vd) rneEnv).1)) := by
  rw [popRow, act_bind_get]
  by_cases hact : (h.row j).any (t.cur.active o.msk) = true
  · rw [if_pos hact] at hbs ⊢
    exact act_bind_ok hbs
  · rw [if_neg hact] at hbs ⊢
    exact act_bind_ok hbs

theorem popRows_active {j : Nat} {t : State} (h : PopRows s o k r us rest j t) : t.cur.active o.msk = s.cur.active o.msk := by
  rw [h.state, withRows_active, popWoken_active]

theorem popRows_cycle {j : Nat} {t : State} (h : PopRows s o k r us rest j t) : t.cycle = s.cycle := by
  rw [h.state, withRows_cycle, popWoken_cycle]

/-- A row's bytes: the unit that comes next for an active row, else none; the positions' values are those of the statement. -/
theorem popRows_step {j : Nat} {t : State} (hlen : us.length = (s.activeRows o.msk).length) (hus : ∀ u ∈ us, IsUnit s.cycle u)
    (hj : j < s.cur.shape.rows) (h : PopRows s o k r us rest j t) :
    ∃ t1 bs, (if (s.cur.shape.row j).any (t.cur.active o.msk) then takeUnit (.route k) else pure []) t = .ok (bs, t1) ∧
      Tbl.get? t1.routes k = some { r with entries := (us.drop (s.activeBelow o.msk (j + 1)).length).flatten ++ rest } ∧
      t1 = (s.popWoken k (s.activeBelow o.msk (j + 1))).withRows t1.routes o.vd
        (rowsTile (floatW o.ty) (s.cur.active o.msk) o.mz (popVal s o us) (j * s.cur.shape.cols) (s.cur.tile o.vd)) t.cur.mark ∧
      ∀ i ∈ s.cur.shape.row j, s.cur.active o.msk i = true →
        (fun e : REnv => (leNat ((bs.drop (i % s.cur.shape.cols * floatW o.ty)).take (floatW o.ty)), e)) = fun e => (popVal s o us i, e) := by
  rw [popRows_active h, show (s.cur.shape.row j).any (s.cur.active o.msk) = s.rowActive o.msk j from rfl]
  by_cases ha : s.rowActive o.msk j = true
  · have hsucc : s.activeBelow o.msk (j + 1) = s.activeBelow o.msk j ++ [j] := by rw [activeBelow_succ, if_pos ha]
    have hlt : (s.activeBelow o.msk j).length < us.length := by
      have := activeBelow_length_le s o.msk hj
      rw [activeBelow_rows, ← hlen, Nat.succ_eq_add_one, hsucc, List.length_append, List.length_singleton] at this
      exact this
    have hdrop := List.drop_eq_getElem_cons hlt
    obtain ⟨t1, hpop, hroute, hbut⟩ := popUnit_ok (u := us[(s.activeBelow o.msk j).length]) h.route
      (by rw [popRows_cycle h]; exact hus _ (List.getElem_mem _)) (by rw [hdrop, List.flatten_cons, List.append_assoc])
    refine ⟨t1, unitBytes us[(s.activeBelow o.msk j).length], by rw [if_pos ha]; exact hpop, ?_, ?_, fun i hi _ => ?_⟩
    · rw [hroute, hsucc, List.length_append, List.length_singleton]
    · rw [h.state, withRows_wakeNow, popWoken_wakeNow, ← hsucc] at hbut
      exact withRows_of_butRoutes _ _ _ _ _ hbut
    · rw [popVal, (mem_row hi).1, List.getD_eq_getElem _ _ hlt]
  · have hsucc : s.activeBelow o.msk (j + 1) = s.activeBelow o.msk j := by rw [activeBelow_succ, if_neg ha, List.append_nil]
    refine ⟨t, [], by rw [if_neg ha]; rfl, by rw [hsucc]; exact h.route, by rw [hsucc]; exact h.state, fun i hi hact => ?_⟩
    exact absurd (List.any_eq_true.2 ⟨i, hi, hact⟩) ha

theorem popRows_row {j : Nat} {t : State} (hlen : us.length = (s.activeRows o.msk).length) (hus : ∀ u ∈ us, IsUnit s.cycle u)
    (hj : j < s.cur.shape.rows) (h : PopRows s o k r us rest j t) :
    ∃ t', popRow o s.cur.shape (.route k) j t = .ok ((), t') ∧
      PopRows s o k r us rest (j + 1) (t'.setCur (fun c => c.setRowMark (some (j + 1, 0)))) := by
  obtain ⟨t1, bs, hbs, hroute, hstate, hval⟩ := popRows_step hlen hus hj h
  have hact : t1.cur.active o.msk = s.cur.active o.msk := by
    rw [hstate, withRows_active, popWoken_active]
  have htile : t1.cur.tile o.vd =
      rowsTile (floatW o.ty) (s.cur.active o.msk) o.mz (popVal s o us) (j * s.cur.shape.cols) (s.cur.tile o.vd) :=
    (congrArg (fun v : State => v.cur.tile o.vd) hstate).trans (withRows_tile _ _ _ _ _)
  have hrow := popRow_bytes s.cur.shape hbs
  have hset : t1.setCur (fun c => c.setTile o.vd (writeElems (floatW o.ty) (c.active o.msk) o.mz
      (fun k e => (leNat ((bs.drop (k % s.cur.shape.cols * floatW o.ty)).take (floatW o.ty)), e)) (s.cur.shape.row j) (c.tile o.vd) rneEnv).1) =
      (s.popWoken k (s.activeBelow o.msk (j + 1))).withRows t1.routes o.vd
        (rowsTile (floatW o.ty) (s.cur.active o.msk) o.mz (popVal s o us) ((j + 1) * s.cur.shape.cols) (s.cur.tile o.vd)) t.cur.mark := by
    rw [rowsTile_succ s.cur.shape j hval, ← htile, ← hact, ← withRows_setTile, ← hstate]
    rfl
  rw [hset] at hrow
  refine ⟨_, hrow, hroute, rowMark_setRowMark _ _, (otherMarks_setRowMark _ _).trans ?_, withRows_setRowMark _ _ _ _ _ _⟩
  have hpc : t.cur.pc = (s.popWoken k (s.activeBelow o.msk (j + 1))).cur.pc := by rw [h.state, withRows_pc, popWoken_pc, popWoken_pc]
  rw [← h.others, Context.otherMarks, Context.otherMarks, hpc]
  rfl

/-- VPOP over a route. -/
theorem exec_vpop_route (hready : ElemReady s (floatW o.ty) o.msk [.tile o.vd]) (hq : StreamRoute s o.sb false k r)
    (hus : ∀ u ∈ us, IsUnit s.cycle u) (he : r.entries = us.flatten ++ rest) (hlen : us.length = (s.activeRows o.msk).length) :
    ∃ t, exec (.vpop o) s = .next t ∧ Tbl.get? t.routes k = some { r with entries := rest } ∧ t = { (s.popWoken k (s.activeRows o.msk)) with
      routes := t.routes
      cur := ((s.popWoken k (s.activeRows o.msk)).cur.setTile o.vd
        (rowsTile (floatW o.ty) (s.cur.active o.msk) o.mz (popVal s o us) s.cur.shape.size (s.cur.tile o.vd))).nextSeq } := by
  obtain ⟨hwidth, -, -, hfree⟩ := hready
  have h0 : PopRows s o k r us rest 0 s := by
    refine ⟨?_, rowMark_unmarked (streamRoute_unmarked hq), otherMarks_unmarked (streamRoute_unmarked hq), ?_⟩
    · rw [streamRoute_get hq, show s.activeBelow o.msk 0 = [] from rfl, List.length_nil, List.drop_zero, ← he]
    · rw [Nat.zero_mul]
      exact withRows_self o.vd s
  obtain ⟨t, hrows, hroute, -, hothers, hstate⟩ := rowsFrom_range (I := PopRows s o k r us rest) (fun j t h => h.mark)
    (fun j t hj h => popRows_row hlen hus hj h) h0
  rw [activeBelow_rows] at hroute hstate
  rw [List.drop_eq_nil_of_le hlen.le] at hroute
  refine ⟨(t.setCur (fun c => c.setRowMark none)).setCur Context.nextSeq, ?_, hroute, ?_⟩
  · refine (exec_vpop_eq o s).trans (runAct_ok ?_)
    rw [act_bind_ok (checkWidth_ok hwidth), act_bind_ok (streamOf_route hq), act_bind_ok (awaitTiles_ok (ds := .tile o.vd :: maskUse o.msk) hfree), act_bind_ok hrows, act_bind_modCur]
    rfl
  · have hcur : t.setCur (fun c => c.setRowMark none) = t.setCur (fun c => { c with mark := (s.popWoken k (s.activeRows o.msk)).cur.mark }) :=
      congrArg (fun c : Context => ({ t with cur := c } : State)) ((setRowMark_none t.cur).trans (by rw [hothers, popWoken_mark]))
    have hmarked := congrArg (fun v : State => v.setCur (fun c => { c with mark := (s.popWoken k (s.activeRows o.msk)).cur.mark })) hstate
    rw [withRows_ownMark] at hmarked
    rw [hcur, hmarked]
    rfl

/-- R211: VPOP takes a unit for each row with an active position. -/
theorem exec_vpop_pops (hready : ElemReady s (floatW o.ty) o.msk [.tile o.vd]) (hq : StreamRoute s o.sb false k r)
    (hus : ∀ u ∈ us, IsUnit s.cycle u) (he : r.entries = us.flatten ++ rest) (hlen : us.length = (s.activeRows o.msk).length) :
    ∃ (t : State) (tile : Tile), exec (.vpop o) s = .next t ∧ Tbl.get? t.routes k = some { r with entries := rest } ∧
      t.cur = ((s.popWoken k (s.activeRows o.msk)).cur.setTile o.vd tile).nextSeq ∧ t.hold = s.hold ∧ t.mem = s.mem ∧
      t.parked = (s.popWoken k (s.activeRows o.msk)).parked ∧ ElemResult s (floatW o.ty) o.msk o.mz o.vd tile (fun i =>
        leNat (((unitBytes (us.getD ((s.activeRows o.msk).filter (fun j => decide (j < i / s.cur.shape.cols))).length [])).drop
          (i % s.cur.shape.cols * floatW o.ty)).take (floatW o.ty))) := by
  obtain ⟨t, hexec, hroute, hstate⟩ := exec_vpop_route hready hq hus he hlen
  obtain ⟨-, hcols, hsize, -⟩ := hready
  refine ⟨t, _, hexec, hroute, (congrArg State.cur hstate).trans rfl, ?_, ?_, (congrArg State.parked hstate).trans rfl,
    elemResult_congr (fun i hi => ?_) (rowsTile_result (val := popVal s o us) (floatW_pos o.ty) hsize)⟩
  · exact (congrArg State.hold hstate).trans (popWoken_hold s k _)
  · exact (congrArg State.mem hstate).trans (popWoken_mem s k _)
  · have hrow : i / s.cur.shape.cols ≤ s.cur.shape.rows := (Nat.div_lt_of_lt_mul ((Nat.mul_comm _ _).trans_gt hi)).le
    rw [activeRows_below s o.msk hrow]
    rfl

end Vpop

end Sys2Proof.Machine
end

section
/-! PROOFS. Stream registers (O27, part 3): VPUSH (R210, R211, R315, R316). -/
namespace Sys2Proof.Machine

/-! ## The entries of a unit (R210) -/

/-- The entries of a unit in the order they are pushed: the last ends the unit. -/
def pushedAs (cycle : Nat) : List (List Byte) → List RouteEntry
  | [] => []
  | bs :: rest => ⟨bs, rest.isEmpty, cycle⟩ :: pushedAs cycle rest

theorem pushedAs_entriesOf {bs : List Byte} (h : bs.length ≤ 512) (cycle : Nat) : pushedAs cycle (entriesOf 3 bs) = rowEntries cycle bs := by
  by_cases h256 : bs.length ≤ 256
  · rw [entriesOf, rowEntries, if_pos h256, if_pos h256]
    rfl
  · have hrest : (bs.drop 256).length ≤ 256 := by
      rw [List.length_drop]
      omega
    rw [entriesOf, rowEntries, if_neg h256, if_neg h256, entriesOf, if_pos hrest]
    rfl

theorem length_pushedAs (cycle : Nat) (l : List (List Byte)) : (pushedAs cycle l).length = l.length := by
  induction l with
  | nil => rfl
  | cons bs l ih => rw [pushedAs, List.length_cons, ih, List.length_cons]

/-- Rows that are sent end with the end of a unit. -/
theorem sent_ends {cycle : Nat} {bytes : Nat → List Byte} {rows : List Nat} (h : rows ≠ []) :
    ∃ e, (rows.flatMap (fun j => rowEntries cycle (bytes j))).getLast? = some e ∧ e.unitEnd = true := by
  obtain ⟨l, j, rfl⟩ := (List.eq_nil_or_concat rows).resolve_left h
  have hlast : ∃ e, (rowEntries cycle (bytes j)).getLast? = some e ∧ e.unitEnd = true := by
    unfold rowEntries
    split <;> exact ⟨_, rfl, rfl⟩
  obtain ⟨e, he, hend⟩ := hlast
  exact ⟨e, by simp [List.getLast?_append, he], hend⟩

/-! ## Entries pushed (R315, R316) -/

/-- The state but for what a push changes: the routes, their counters, and the marks. -/
def State.butPushed (s : State) : State := { s with routes := [], arbs := [], cur := { s.cur with mark := [] } }

/-- A state reached by pushing entries into a route. -/
structure Pushed (s : State) (k : Nat) (r : Route) (es : List RouteEntry) (t : State) : Prop where
  but : t.butPushed = s.butPushed
  others : t.cur.otherMarks = s.cur.otherMarks
  route : ∃ r', Tbl.get? t.routes k = some r' ∧ r'.entries = r.entries ++ es ∧ r'.src = r.src ∧ r'.dst = r.dst ∧ r'.owner = r.owner ∧ r'.ext = r.ext ∧
    (∀ p, r'.partway = some p → p = s.cur.ref) ∧ ((∃ e, es.getLast? = some e ∧ e.unitEnd = true) → r'.partway = none)

theorem pushRoute_but_routes (s : State) (by_ : CtxRef) (k : Nat) (bs : List Byte) (e : Bool) :
    ({ s.pushRoute by_ k bs e with routes := [], arbs := [] } : State) = { s with routes := [], arbs := [] } := by
  unfold State.pushRoute
  split
  · rfl
  · dsimp only
    split <;> rfl

theorem pushRoute_cur (s : State) (by_ : CtxRef) (k : Nat) (bs : List Byte) (e : Bool) : (s.pushRoute by_ k bs e).cur = s.cur :=
  (congrArg State.cur (pushRoute_but_routes s by_ k bs e) :)

theorem pushRoute_butPushed (s : State) (by_ : CtxRef) (k : Nat) (bs : List Byte) (e : Bool) : (s.pushRoute by_ k bs e).butPushed = s.butPushed :=
  (congrArg State.butPushed (pushRoute_but_routes s by_ k bs e) :)

theorem pushRoute_get {s : State} {k : Nat} {r : Route} (h : Tbl.get? s.routes k = some r) (by_ : CtxRef) (bs : List Byte) (e : Bool) :
    ∃ c, Tbl.get? (s.pushRoute by_ k bs e).routes k =
      some { r with counter := c, entries := r.entries ++ [⟨bs, e, s.cycle⟩], partway := if e then none else some by_ } := by
  unfold State.pushRoute
  simp only [h]
  split
  · exact ⟨_, tbl_get_set _ _ _⟩
  · exact ⟨_, tbl_get_set _ _ _⟩

section Pushed
variable {s t : State} {k : Nat} {r : Route} {es : List RouteEntry}

theorem pushed_nothing (hr : Tbl.get? s.routes k = some r) (hp : ∀ p, r.partway = some p → p = s.cur.ref) : Pushed s k r [] s :=
  ⟨rfl, rfl, r, hr, (List.append_nil _).symm, rfl, rfl, rfl, rfl, hp, fun ⟨_, h, _⟩ => by cases h⟩

section
variable (h : Pushed s k r es t)
include h

theorem Pushed.ref : t.cur.ref = s.cur.ref := (congrArg (fun u : State => u.cur.ref) h.but :)
theorem Pushed.cycle : t.cycle = s.cycle := (congrArg State.cycle h.but :)

theorem Pushed.setRowMark (m : Option (Nat × Nat)) : Pushed s k r es (t.setCur (fun c => c.setRowMark m)) where
  but := h.but
  others := (otherMarks_setRowMark t.cur m).trans h.others
  route := h.route

theorem Pushed.room (hroom : r.entries.length + es.length < r.depth) : t.routeHasRoom t.cur.ref k = true := by
  obtain ⟨r', hr', hent, -, -, -, hext, hpart, -⟩ := h.route
  have hdepth : r'.depth = r.depth := by rw [Route.depth, Route.depth, hext]
  have hlen : r'.entries.length < r'.depth := by rwa [hdepth, hent, List.length_append]
  have hown : r'.partway.all (fun p => p = t.cur.ref) = true := by
    cases hp : r'.partway with
    | none => rfl
    | some p => simpa [h.ref] using hpart p hp
  rw [State.routeHasRoom]
  simp only [hr']
  rw [decide_eq_true hlen, hown]
  rfl

theorem Pushed.push (bs : List Byte) (e : Bool) : Pushed s k r (es ++ [⟨bs, e, s.cycle⟩]) (t.pushRoute t.cur.ref k bs e) where
  but := (pushRoute_butPushed t t.cur.ref k bs e).trans h.but
  others := by rw [pushRoute_cur, h.others]
  route := by
    obtain ⟨r', hr', hent, hsrc, hdst, hown, hext, -, -⟩ := h.route
    obtain ⟨c, hget⟩ := pushRoute_get hr' t.cur.ref bs e
    refine ⟨_, hget, ?_, hsrc, hdst, hown, hext, fun p hp => ?_, fun ⟨x, hx, hend⟩ => ?_⟩
    · dsimp only
      rw [hent, List.append_assoc, h.cycle]
    · cases e with
      | true => cases hp
      | false => exact (Option.some.inj hp).symm.trans h.ref
    · obtain rfl : _ = x := by simpa using hx
      exact if_pos hend

/-- The entries of a unit from one on, each with room. -/
theorem Pushed.entries {row i : Nat} {l : List (List Byte)} (hi : t.cur.rowMark.2 ≤ i) (hroom : r.entries.length + es.length + l.length ≤ r.depth) :
    ∃ t', pushEntries k row l i t = .ok ((), t') ∧ Pushed s k r (es ++ pushedAs s.cycle l) t' := by
  induction l generalizing i es t with
  | nil => exact ⟨t, rfl, by rw [pushedAs, List.append_nil]; exact h⟩
  | cons bs l ih =>
    rw [List.length_cons] at hroom
    obtain ⟨t', ht', hpushed⟩ := ih (i := i + 1) ((h.push bs l.isEmpty).setRowMark (some (row, i + 1)))
      (le_of_eq (congrArg Prod.snd (rowMark_setRowMark _ (row, i + 1)))) (by rw [List.length_append, List.length_singleton]; omega)
    refine ⟨t', ?_, by rwa [pushedAs, List.append_cons]⟩
    rw [pushEntries, act_bind_get, if_neg (not_lt.2 hi), act_bind_waitIf (by rw [h.room (by omega)]; rfl), act_bind_modify]
    exact keepStops_ok ht'

end
end Pushed

/-! ## VPUSH row by row (R211) -/

/-- One row of VPUSH. -/
def pushRow (o : VPushF) (h : Shape) (q : StreamObj) (r : Nat) : Act Unit := do
  let s ← get
  if (h.row r).any (s.cur.active o.msk) then pushUnit q r (s.cur.elemBytes (floatW o.ty) o.va o.msk (h.row r)) else pure ()

theorem runAct_congr {a b : Act Unit} {s : State} (h : a s = b s) : runAct a s = runAct b s := by
  unfold runAct
  rw [h]

section Vpush
variable {s : State} {o : VPushF} {k : Nat} {r : Route}

/-- VPUSH over a route, its checks passed. -/
theorem exec_vpush_rows (hready : ElemReady s (floatW o.ty) o.msk [.tile o.va]) (hq : StreamRoute s o.sb true k r) :
    exec (.vpush o) s = runAct (do
      rowsFrom (pushRow o s.cur.shape (.route k)) (List.range s.cur.shape.rows)
      modCur (fun c => c.setRowMark none)
      advance) s := by
  obtain ⟨hwidth, -, -, hfree⟩ := hready
  refine runAct_congr ?_
  rw [act_bind_ok (checkWidth_ok hwidth), act_bind_ok (streamOf_route hq), act_bind_ok (awaitTiles_ok (ds := .tile o.va :: maskUse o.msk) hfree)]
  rfl

/-- The bytes of row j. -/
def State.rowBytes (s : State) (o : VPushF) (j : Nat) : List Byte := s.sentBytes (floatW o.ty) o.va o.msk (s.cur.shape.row j)

theorem rowBytes_length (j : Nat) : (s.rowBytes o j).length = s.cur.shape.cols * floatW o.ty := by
  rw [State.rowBytes, State.sentBytes, List.length_flatMap]
  simp [length_natBytes, Shape.row, Function.comp_def]

/-- The entries of the active rows below j. -/
def sentBelow (s : State) (o : VPushF) (j : Nat) : List RouteEntry := (s.activeBelow o.msk j).flatMap (fun i => rowEntries s.cycle (s.rowBytes o i))

theorem sentBelow_succ (j : Nat) : sentBelow s o (j + 1) =
    sentBelow s o j ++ if s.rowActive o.msk j = true then rowEntries s.cycle (s.rowBytes o j) else [] := by
  rw [sentBelow, activeBelow_succ, List.flatMap_append]
  split <;> simp [sentBelow]

theorem sentBelow_length_le {i j : Nat} (h : i ≤ j) : (sentBelow s o i).length ≤ (sentBelow s o j).length := by
  induction j, h using Nat.le_induction with
  | base => exact le_rfl
  | succ j _ ih =>
    rw [sentBelow_succ, List.length_append]
    omega

/-- A row of VPUSH that is active. -/
theorem pushRow_active {q : StreamObj} {h : Shape} {j : Nat} {t : State} (ha : (h.row j).any (t.cur.active o.msk) = true) :
    pushRow o h q j t = pushUnit q j (t.cur.elemBytes (floatW o.ty) o.va o.msk (h.row j)) t := by
  rw [pushRow, act_bind_get, if_pos ha]

theorem pushRow_inactive {q : StreamObj} {h : Shape} {j : Nat} {t : State} (ha : ¬(h.row j).any (t.cur.active o.msk) = true) :
    pushRow o h q j t = .ok ((), t) := by
  rw [pushRow, act_bind_get, if_neg ha]
  rfl

theorem Pushed.active {es : List RouteEntry} {t : State} (h : Pushed s k r es t) : t.cur.active o.msk = s.cur.active o.msk :=
  (congrArg (fun u : State => u.cur.active o.msk) h.but :)

theorem Pushed.elemBytes {es : List RouteEntry} {t : State} (h : Pushed s k r es t) (j : Nat) :
    t.cur.elemBytes (floatW o.ty) o.va o.msk (s.cur.shape.row j) = s.rowBytes o j :=
  (congrArg (fun u : State => u.cur.elemBytes (floatW o.ty) o.va o.msk (s.cur.shape.row j)) h.but :)

theorem pushRow_pushes {j : Nat} {t : State} (hcols : s.cur.shape.cols * floatW o.ty ≤ 512) (hj : j < s.cur.shape.rows)
    (hroom : r.entries.length + (sentBelow s o s.cur.shape.rows).length ≤ r.depth) (h : Pushed s k r (sentBelow s o j) t) (hmark : t.cur.rowMark = (j, 0)) :
    ∃ t', pushRow o s.cur.shape (.route k) j t = .ok ((), t') ∧ Pushed s k r (sentBelow s o (j + 1)) t' := by
  have hrow : (s.cur.shape.row j).any (t.cur.active o.msk) = s.rowActive o.msk j := by rw [h.active, State.rowActive]
  by_cases ha : s.rowActive o.msk j = true
  · have hsucc : sentBelow s o (j + 1) = sentBelow s o j ++ pushedAs s.cycle (entriesOf 3 (s.rowBytes o j)) := by
      rw [sentBelow_succ, if_pos ha, pushedAs_entriesOf (by rwa [rowBytes_length])]
    have hlen := sentBelow_length_le (s := s) (o := o) hj
    rw [Nat.succ_eq_add_one, hsucc, List.length_append, length_pushedAs] at hlen
    obtain ⟨t', ht', hpushed⟩ := h.entries (row := j) (i := 0) (l := entriesOf 3 (s.rowBytes o j)) (by rw [hmark]) (by omega)
    refine ⟨t', ?_, by rwa [hsucc]⟩
    rw [pushRow_active (hrow.trans ha), h.elemBytes]
    exact ht'
  · refine ⟨t, pushRow_inactive (by rwa [hrow]), ?_⟩
    rw [sentBelow_succ, if_neg ha, List.append_nil]
    exact h

/-- R211: VPUSH sends a unit for each row with an active position. -/
theorem exec_vpush_pushes (hready : ElemReady s (floatW o.ty) o.msk [.tile o.va]) (hq : StreamRoute s o.sb true k r)
    (hcols : s.cur.shape.cols * floatW o.ty ≤ 512) (hp : ∀ p, r.partway = some p → p = s.cur.ref)
    (hroom : r.entries.length + ((s.activeRows o.msk).flatMap (fun j => rowEntries s.cycle (s.rowBytes o j))).length ≤ r.depth) :
    ∃ (t : State) (r' : Route), exec (.vpush o) s = .next t ∧ Tbl.get? t.routes k = some r' ∧
      r'.entries = r.entries ++ (s.activeRows o.msk).flatMap (fun j => rowEntries s.cycle (s.rowBytes o j)) ∧ r'.src = r.src ∧ r'.dst = r.dst ∧
      r'.owner = r.owner ∧ (s.activeRows o.msk ≠ [] → r'.partway = none) ∧ t.cur = s.cur.nextSeq ∧ t.hold = s.hold ∧ t.mem = s.mem ∧ t.parked = s.parked := by
  have hunmarked := streamRoute_unmarked hq
  rw [← activeBelow_rows] at hroom
  obtain ⟨t, hrows, hpushed, -⟩ := rowsFrom_range (f := pushRow o s.cur.shape (.route k)) (n := s.cur.shape.rows)
    (I := fun j t => Pushed s k r (sentBelow s o j) t ∧ t.cur.rowMark = (j, 0)) (fun j t h => h.2)
    (fun j t hj h => by
      obtain ⟨t', ht', hpushed⟩ := pushRow_pushes hcols hj hroom h.1 h.2
      exact ⟨t', ht', hpushed.setRowMark _, rowMark_setRowMark _ _⟩)
    (t := s) ⟨pushed_nothing (streamRoute_get hq) hp, rowMark_unmarked hunmarked⟩
  obtain ⟨r', hr', hent, hsrc, hdst, hown, -, -, hpart⟩ := hpushed.route
  have hcur : t.cur.setRowMark none = s.cur := by
    rw [setRowMark_none, hpushed.others, otherMarks_unmarked hunmarked]
    exact (congrArg (fun u : State => ({ u.cur with mark := s.cur.mark } : Context)) hpushed.but :)
  rw [sentBelow, activeBelow_rows] at hent hpart
  refine ⟨(t.setCur (fun c => c.setRowMark none)).setCur Context.nextSeq, r', ?_, hr', hent, hsrc, hdst, hown, fun hne => hpart (sent_ends hne),
    congrArg Context.nextSeq hcur, (congrArg State.hold hpushed.but :), (congrArg State.mem hpushed.but :), (congrArg State.parked hpushed.but :)⟩
  refine (exec_vpush_rows hready hq).trans (runAct_ok ?_)
  rw [act_bind_ok hrows, act_bind_modCur]
  rfl

/-- R316: VPUSH waits while another producer has pushed part of a unit. -/
theorem exec_vpush_waits {p : CtxRef} (hready : ElemReady s (floatW o.ty) o.msk [.tile o.va]) (hq : StreamRoute s o.sb true k r)
    (hp : r.partway = some p) (hne : p ≠ s.cur.ref) (hfirst : (s.activeRows o.msk).head? = some 0) :
    exec (.vpush o) s = .next (s.enterWait (.routeRoom (k / 64) (k % 64))) := by
  have hmem : 0 ∈ (List.range s.cur.shape.rows).filter (s.rowActive o.msk) := by
    rw [← activeRows_eq]
    exact List.mem_of_mem_head? hfirst
  obtain ⟨hrows, hact⟩ := List.mem_filter.1 hmem
  obtain ⟨n, hn⟩ := Nat.exists_eq_succ_of_ne_zero (Nat.pos_iff_ne_zero.1 (List.mem_range.1 hrows))
  have hmark := rowMark_unmarked (streamRoute_unmarked hq)
  have hroom : s.routeHasRoom s.cur.ref k = false := by
    rw [State.routeHasRoom, streamRoute_get hq]
    simp [hp, hne]
  have hentry : ∀ bs rest, pushEntries k 0 (bs :: rest) 0 s = .error (.wait (.routeRoom (k / 64) (k % 64)) none) := fun bs rest => by
    rw [pushEntries, act_bind_get, hmark, if_neg (Nat.lt_irrefl 0), act_bind_waitIf_stop (by rw [hroom]; rfl)]
  have hrow : pushRow o s.cur.shape (.route k) 0 s = .error (.wait (.routeRoom (k / 64) (k % 64)) none) := by
    rw [pushRow_active hact, pushUnit, entriesOf]
    split
    · exact hentry _ _
    · exact hentry _ _
  refine (exec_vpush_rows hready hq).trans (runAct_waitKeep ?_)
  rw [hn, List.range_succ_eq_map]
  refine act_bind_error ?_
  rw [rowsFrom, act_bind_get, hmark, if_neg (Nat.lt_irrefl 0), act_bind_error (keepStops_wait hrow)]

end Vpush

end Sys2Proof.Machine
end

section
/-! PROOFS. Stream registers (O27, part 4): VBCAST (R202); a trough's invariants through a claim and a take (R165, R166), and its slot's bytes read and written (R210). -/
namespace Sys2Proof.Machine

/-! ## A tile written and busy -/

section Busy
variable {s : State} {d : Dest} {cls own : Nat} {g : Context → Context}

theorem writeBusy_ok (hslot : (g s.cur).slot = s.cur.slot) : (do modCur g; occupy d cls own; advance) s = .ok ((), s.busyDone d cls own g) := by
  rw [act_bind_modCur, busyDone_eq, State.busyCtx, ← latency_setCur hslot]
  rfl

end Busy

/-! ## VBCAST over a route (R202) -/

/-- An element form whose values read no rounding state. -/
theorem elemForm_values_ok {s : State} {cls own w : Nat} {mz : Bool} {vd msk : BitVec 4} (h : ElemReady s w msk [.tile vd]) (hw : 1 ≤ w) (v : Nat → Nat) :
    ∃ t : Tile, elemForm cls own w vd msk mz [] (fun _ k r => (v k, r)) s = .ok ((), s.busyDone (.tile vd) cls own (fun c => c.setTile vd t)) ∧
      ElemResult s w msk mz vd t v := by
  obtain ⟨hwidth, -, hsize, hfree⟩ := h
  have hf : ∀ k, Accrues false (fun r : REnv => (v k, r)) := fun k => accrues_keep (v k)
  refine ⟨_, ?_, writeElems_result hf hw hsize⟩
  rw [elemForm, act_bind_ok (checkWidth_ok hwidth), act_bind_ok (awaitTiles_ok (ds := [Dest.tile vd] ++ maskUse msk) hfree)]
  refine (writeBusy_ok rfl).trans (congrArg (fun u => Except.ok ((), u)) (busyDone_congr ?_))
  have hfcsr := (writeElems_fcsr (mz := mz) (vd := vd) (msk := msk) (w := w) hf).trans
    ((congrArg₂ s.fcsrAfter (if_neg Bool.false_ne_true) (orFlags_zero msk)).trans fcsrAfter_zero)
  exact congrArg (fun x => ({ s.cur.setTile vd _ with fcsr := x } : Context)) hfcsr

section Vbcast
variable {s : State} {o : VS} {k : Nat} {r : Route} {u rest : List RouteEntry}

/-- R202: VBCAST spreads the first element of one unit. -/
theorem exec_vbcast_pops (hva : o.va = 1) (hready : ElemReady s (floatW o.ty) o.msk [.tile o.vd]) (hq : StreamRoute s o.sb false k r)
    (hu : IsUnit s.cycle u) (he : r.entries = u ++ rest) :
    ∃ (t : State) (tile : Tile), exec (.vbcast o) s = .next t ∧ Tbl.get? t.routes k = some { r with entries := rest } ∧
      t.cur = ((s.wakeNow (.routeRoom (k / 64) (k % 64))).busyDone (.tile o.vd) 5 2 (fun c => c.setTile o.vd tile)).cur ∧
      ElemResult s (floatW o.ty) o.msk o.mz o.vd tile (fun _ => leNat ((unitBytes u).take (floatW o.ty))) := by
  obtain ⟨t1, hpop, hroute, hbut⟩ := popUnit_ok (streamRoute_get hq) hu he
  have hcur : t1.cur = (s.wakeNow (.routeRoom (k / 64) (k % 64))).cur := (congrArg State.cur hbut :)
  have hready1 : ElemReady t1 (floatW o.ty) o.msk [.tile o.vd] := by
    unfold ElemReady TilesFree at hready ⊢
    rwa [hcur, wakeNow_shape, wakeNow_pend]
  obtain ⟨tile, hform, hres⟩ := elemForm_values_ok (cls := 5) (own := 2) (mz := o.mz) hready1 (floatW_pos o.ty) (fun _ => leNat ((unitBytes u).take (floatW o.ty)))
  obtain ⟨hwidth, -, -, hfree⟩ := hready
  refine ⟨t1.busyDone (.tile o.vd) 5 2 (fun c => c.setTile o.vd tile), tile, runAct_ok ?_, hroute,
    (congrArg (fun v : State => (v.busyDone (.tile o.vd) 5 2 (fun c => c.setTile o.vd tile)).cur) hbut :), ?_⟩
  · rw [hva, if_neg (by decide), act_bind_ok (checkWidth_ok hwidth), act_bind_ok (streamOf_route hq),
      act_bind_ok (awaitTiles_ok (ds := .tile o.vd :: maskUse o.msk) hfree)]
    exact (act_bind_ok hpop).trans hform
  · unfold ElemResult at hres ⊢
    rwa [hcur, wakeNow_shape, wakeNow_active, wakeNow_tile] at hres

end Vbcast

/-! ## The invariants of a trough (R166) -/

section Mod
variable {h t m n : Nat} (hh : h < m) (ht : t < m)
include hh ht

omit hh ht in
theorem mod_below_twice {x : Nat} (hx : x < 2 * m) : x % m = if x < m then x else x - m := by
  split
  · rename_i hlt
    exact Nat.mod_eq_of_lt hlt
  · rename_i hge
    rw [Nat.mod_eq_sub_mod (not_lt.1 hge), Nat.mod_eq_of_lt (by omega)]

theorem head_advances (e : (h + m - t) % m = n) (hn : n + 1 < m) : ((h + 1) % m + m - t) % m = n + 1 := by
  have hmod : (h + 1) % m < m := Nat.mod_lt _ (by omega)
  rw [mod_below_twice (by omega)] at e ⊢
  rw [mod_below_twice (show h + 1 < 2 * m by omega)] at hmod ⊢
  split at e <;> split_ifs <;> omega

theorem tail_advances (e : (h + m - t) % m = n + 1) : (h + m - (t + 1) % m) % m = n := by
  have hmod : (t + 1) % m < m := Nat.mod_lt _ (by omega)
  rw [mod_below_twice (by omega)] at e ⊢
  rw [mod_below_twice (show t + 1 < 2 * m by omega)] at hmod ⊢
  split at e <;> split_ifs <;> omega

end Mod

/-- Every slot is in one of the four states. -/
theorem slots_by_state (l : List SlotState) : (l.filter (fun y => y = .free)).length + (l.filter (fun y => y = .filling)).length +
    (l.filter (fun y => y = .full)).length + (l.filter (fun y => y = .draining)).length = l.length := by
  induction l with
  | nil => rfl
  | cons a l ih => cases a <;> simp <;> omega

theorem consistent_iff {t : Trough} (h : t.slots.length = t.cap) :
    t.consistent = true ↔ (t.head + 2 * t.cap - t.tail) % (2 * t.cap) = t.claimed + t.filled := by
  have hsum := slots_by_state t.slots
  rw [Trough.consistent, Bool.and_eq_true, beq_iff_eq, beq_iff_eq]
  exact ⟨fun h' => h'.2, fun h' => ⟨hsum.trans h, h'⟩⟩

section Consistent
variable {t : Trough} (hcons : t.consistent = true) (hlen : t.slots.length = t.cap) (hhead : t.head < 2 * t.cap) (htail : t.tail < 2 * t.cap)
include hcons hlen hhead htail

theorem claimBy_consistent (hroom : t.claimed + t.filled < t.cap) (pos cycle : Nat) : (t.claimBy pos cycle).consistent = true := by
  have hlen' : (t.claimBy pos cycle).slots.length = t.cap := (List.length_set ..).trans hlen
  refine (consistent_iff hlen').2 ((head_advances hhead htail ((consistent_iff hlen).1 hcons) (by omega)).trans ?_)
  exact Nat.add_right_comm _ _ 1

theorem takeBy_consistent (hfilled : 1 ≤ t.filled) (pos cycle : Nat) : (t.takeBy pos cycle).consistent = true := by
  have hlen' : (t.takeBy pos cycle).slots.length = t.cap := (List.length_set ..).trans hlen
  refine (consistent_iff hlen').2 (tail_advances (n := t.claimed + (t.filled - 1)) hhead htail (((consistent_iff hlen).1 hcons).trans ?_))
  omega

end Consistent

theorem troughAt_ok {s : State} {k : Nat} {t : Trough} (h : Tbl.get? s.troughs k = some t) (hinc : t.inc = false) : troughAt k s = .ok (t, s) := by
  rw [troughAt, act_bind_get]
  simp only [h]
  rw [act_bind_raiseIf hinc]
  rfl

/-! ## A slot's bytes (R210, R308, R311) -/

theorem slotPieces_outside {s : State} {owner off n : Nat} {p : Piece} (h : p ∈ s.slotPieces owner off n) :
    p.page.inL1 = false ∧ p.page.mayBeOld = false ∧ p.page.ckpt = false := by
  unfold State.slotPieces at h
  split at h
  · cases h
  · obtain ⟨c, -, rfl⟩ := List.mem_map.1 h
    exact ⟨rfl, rfl, rfl⟩

theorem checkSlot_ok {s : State} {ps : List Piece} (h : ∀ p ∈ ps, IsMemory s p.pa) : checkSlot ps s = .ok ((), s) := by
  induction ps with
  | nil => rfl
  | cons p ps ih =>
    obtain ⟨hp, hps⟩ := List.forall_mem_cons.1 h
    exact (act_bind_ok (f := fun _ => checkSlot ps) (checkBank_isMemory hp 0)).trans (ih hps)

theorem awaitOrder_ok {s : State} {ps : List Piece} {sc : Scope} (h : s.ahead (s.locOf s.cur) ps sc = []) : awaitOrder ps sc s = .ok ((), s) := by
  rw [awaitOrder, act_bind_get, h]
  rfl

/-- The state but for the troughs and what an access outside the L1 changes beside its own effect. -/
def State.butStream (s : State) : State := { s with troughs := [], olds := [], l1 := [], assay := [], rcbs := [] }

theorem readPieces_outside {l : List Piece} (h : ∀ p ∈ l, p.page.inL1 = false ∧ p.page.mayBeOld = false) (s : State) (c : Context) (id : Nat) :
    (s.readPieces c id (l.map (fun p => (p, none)))).1.butOlds = s.butOlds ∧
      (s.readPieces c id (l.map (fun p => (p, none)))).2 = l.flatMap (fun p => p.range.map (s.loadByte c id none p.page)) := by
  induction l generalizing s with
  | nil => exact ⟨rfl, rfl⟩
  | cons p l ih =>
    obtain ⟨⟨hl1, hold⟩, hrest⟩ := List.forall_mem_cons.1 h
    obtain ⟨hbut, hbytes⟩ := readUnit_outside (s := s) (c := c) (id := id) (ps := [p]) (by simpa using hl1)
    obtain ⟨ihbut, ihbytes⟩ := ih hrest (s.readUnit c id [p]).1
    have hnone : s.oldFor c [p] = none := by simp [State.oldFor, hold]
    refine ⟨ihbut.trans hbut, ?_⟩
    have hload : ∀ q ∈ l, (s.readUnit c id [p]).1.loadByte c id none q.page = s.loadByte c id none q.page := fun q hq =>
      loadByte_outside_access (hrest q hq).1 (congrArg State.butAccess hbut) id none
    have hbytes' : (s.readUnit c id [p]).2 = p.range.map (s.loadByte c id none p.page) := by rw [hbytes, hnone]; simp
    rw [List.map_cons, State.readPieces, List.flatMap_cons]
    exact congrArg₂ (· ++ ·) hbytes' (ihbytes.trans (List.flatMap_congr fun q hq => by rw [hload q hq]))

/-- What one cut written through does beside counters and kept views. -/
def State.cutPlaced (s : State) (by_ : CtxRef) (loc : Loc) (page : PageInfo) (pa : Nat) (bs : List Byte) (sc : Scope) (c : Nat × Nat) : State :=
  { s with
    nextId := s.nextId + 1
    coh := s.coh ++ [{ StoreRec.new s.nextId by_ loc c.1 ((bs.drop (c.1 - pa)).take c.2) { page with pa := c.1 } with ps := s.reach loc c.1 c.2 sc }] }

section WriteThrough
variable {by_ : CtxRef} {loc : Loc} {page : PageInfo} {pa : Nat} {bs : List Byte} {sc : Scope} (hckpt : page.ckpt = false)
include hckpt

theorem writeCut_unmarked (s : State) (c : Nat × Nat) :
    ({ s.writeCut by_ loc page pa bs sc c with olds := [], assay := [], rcbs := [] } : State) =
      { s.cutPlaced by_ loc page pa bs sc c with olds := [], assay := [], rcbs := [] } := by
  have hlog : s.logUndo by_.slot (s.undobOf by_.slot) c.1 page.ckpt = s := by rw [hckpt, logUndo_unmarked]
  unfold State.writeCut
  rw [hlog]
  exact (congrArg (fun v : State => ({ v with olds := [] } : State)) (meterBytes_but_meter _ by_.slot false c.1 c.2)).trans rfl

theorem writeCut_troughs (s : State) (c : Nat × Nat) : (s.writeCut by_ loc page pa bs sc c).troughs = s.troughs :=
  (congrArg State.troughs (writeCut_unmarked hckpt s c) :)

theorem writeThrough_troughs (s : State) : (s.writeThrough by_ loc page pa bs sc).troughs = s.troughs :=
  foldl_keeps State.troughs (fun t c => writeCut_troughs hckpt t c) _ s

theorem writeCut_butStream (s : State) (c : Nat × Nat) :
    (s.writeCut by_ loc page pa bs sc c).butStream = (s.butStream.cutPlaced by_ loc page pa bs sc c).butStream :=
  (congrArg State.butStream (writeCut_unmarked hckpt s c) :)

theorem writeThrough_butStream {s t : State} (h : t.butStream = s.butStream) :
    (t.writeThrough by_ loc page pa bs sc).butStream = (s.writeThrough by_ loc page pa bs sc).butStream := by
  rw [writeThrough_eq, writeThrough_eq]
  generalize sectorCuts pa (bs.length / 32 + 2) bs.length = l
  induction l generalizing s t with
  | nil => exact h
  | cons c l ih => exact ih (by rw [writeCut_butStream hckpt, writeCut_butStream hckpt, h])

/-- What bytes written through leave: everything but coherence order, the numbering of stores, counters and kept views. -/
theorem writeThrough_leaves (s : State) : ({ (s.writeThrough by_ loc page pa bs sc).butStream with coh := [], nextId := 0 } : State) =
    { s.butStream with coh := [], nextId := 0 } :=
  foldl_keeps (fun v : State => ({ v.butStream with coh := [], nextId := 0 } : State))
    (fun t c => (congrArg (fun v : State => ({ v with coh := [], nextId := 0 } : State)) (writeCut_butStream hckpt t c) :)) _ s

end WriteThrough

section WritePieces
variable {by_ : CtxRef} {loc : Loc} {sc : Scope} {ps : List Piece} (hps : ∀ p ∈ ps, p.page.ckpt = false)
include hps

theorem writePieces_troughs (s : State) (bs : List Byte) : (s.writePieces by_ loc sc ps bs).troughs = s.troughs := by
  induction ps generalizing s bs with
  | nil => rfl
  | cons p ps ih =>
    obtain ⟨hp, hrest⟩ := List.forall_mem_cons.1 hps
    exact (ih hrest _ _).trans (writeThrough_troughs hp s)

theorem writePieces_butStream {s t : State} (h : t.butStream = s.butStream) (bs : List Byte) :
    (t.writePieces by_ loc sc ps bs).butStream = (s.writePieces by_ loc sc ps bs).butStream := by
  induction ps generalizing s t bs with
  | nil => exact h
  | cons p ps ih =>
    obtain ⟨hp, hrest⟩ := List.forall_mem_cons.1 hps
    exact ih hrest (writeThrough_butStream hp h) _

theorem writePieces_leaves (s : State) (bs : List Byte) : ({ (s.writePieces by_ loc sc ps bs).butStream with coh := [], nextId := 0 } : State) =
    { s.butStream with coh := [], nextId := 0 } := by
  induction ps generalizing s bs with
  | nil => rfl
  | cons p ps ih =>
    obtain ⟨hp, hrest⟩ := List.forall_mem_cons.1 hps
    exact (ih hrest _ _).trans (writeThrough_leaves hp s)

end WritePieces

end Sys2Proof.Machine
end

section
/-! PROOFS. Stream registers (O27, part 5): VLDT and VSTT (R212), and the statement. -/
namespace Sys2Proof.Machine

/-! ## A slot taken and a slot put (R165, R210) -/

theorem setTrough_get (s : State) (k : Nat) (t : Trough) : Tbl.get? (s.setTrough k t).troughs k = some t := tbl_get_set _ _ _

theorem wakeNow_butStream (s : State) (w : WaitCond) : (s.wakeNow w).butStream = s.butStream.wakeNow w := rfl

/-- A claim or a take leaves everything but the trough, and is an ordering point (R285). -/
theorem orderPoint_butStream (s : State) (k : Nat) (t : Trough) (c : Context) (e : Bool) : ((s.setTrough k t).orderPoint c e).butStream = s.butStream := rfl

/-- The trough's place does not matter to what a read takes from outside the L1. -/
theorem loadByte_setTrough (s : State) (k : Nat) (t : Trough) (c d : Context) (e : Bool) (id : Nat) {p : PageInfo} (hp : p.inL1 = false) :
    ((s.setTrough k t).orderPoint d e).loadByte c id none p = s.loadByte c id none p :=
  (loadByte_outside_access (s := s.setTrough k t) (t := (s.setTrough k t).orderPoint d e) hp rfl id none).trans rfl

/-- What follows a take: the slot's bytes are read, the slot is freed, and a producer that waits for it is woken. -/
def readSlot (k i n : Nat) (ps : List Piece) : Act (List Byte) := do
  let s ← get
  let (s1, bs) := s.readPieces s.cur s.nextId (ps.map (fun p => (p, none)))
  set s1
  let t1 ← troughAt k
  troughUpdate k t1 (fun t => t.release i)
  modify (fun s => (s.meter s.cur.slot 6 n).wakeNow (.troughFree (k / 1024) (k % 1024)))
  pure bs

theorem readSlot_ok {s : State} {k : Nat} {t : Trough} {ps : List Piece} (hget : Tbl.get? s.troughs k = some t) (hinc : t.inc = false)
    (hcons : t.consistent = true) (hout : ∀ p ∈ ps, p.page.inL1 = false ∧ p.page.mayBeOld = false) (i n : Nat) :
    ∃ u, readSlot k i n ps s = .ok (ps.flatMap (fun p => p.range.map (s.loadByte s.cur s.nextId none p.page)), u) ∧
      Tbl.get? u.troughs k = some (t.release i) ∧ u.butStream = (s.wakeNow (.troughFree (k / 1024) (k % 1024))).butStream := by
  obtain ⟨hread, hbytes⟩ := readPieces_outside hout s s.cur s.nextId
  have hstream : (s.readPieces s.cur s.nextId (ps.map (fun p => (p, none)))).1.butStream = s.butStream := (congrArg State.butStream hread :)
  have hget1 : Tbl.get? (s.readPieces s.cur s.nextId (ps.map (fun p => (p, none)))).1.troughs k = some t :=
    (congrArg (fun v : State => Tbl.get? v.troughs k) hread).trans hget
  rw [← hbytes]
  unfold readSlot
  rw [act_bind_get]
  generalize s.readPieces s.cur s.nextId (ps.map (fun p => (p, none))) = rd at *
  obtain ⟨s1, bs⟩ := rd
  dsimp only at hread hstream hget1 ⊢
  have hmeter := fun v : State => congrArg State.butStream (meter_but_meter v v.cur.slot 6 n)
  refine ⟨((s1.setTrough k (t.release i)).meter s1.cur.slot 6 n).wakeNow (.troughFree (k / 1024) (k % 1024)), ?_, ?_, ?_⟩
  · rw [act_bind_ok (show (set s1 : Act PUnit) s = .ok ((), s1) from rfl), act_bind_ok (troughAt_ok hget1 hinc),
      act_bind_ok (troughUpdate_of_consistent hcons k _ s1)]
    rfl
  · exact (congrArg (fun v : State => Tbl.get? v.troughs k) (meter_but_meter (s1.setTrough k (t.release i)) s1.cur.slot 6 n)).trans (setTrough_get _ _ _)
  · rw [wakeNow_butStream, wakeNow_butStream]
    exact congrArg (fun v : State => v.wakeNow (.troughFree (k / 1024) (k % 1024))) ((hmeter (s1.setTrough k (t.release i))).trans hstream)

section Slot
variable {s : State} {k : Nat} {t : Trough} (hget : Tbl.get? s.troughs k = some t) (hinc : t.inc = false) (hcons : t.consistent = true)
  (hlen : t.slots.length = t.cap) (hhead : t.head < 2 * t.cap) (htail : t.tail < 2 * t.cap) (howed : NothingOwed s t.scope) {ps : List Piece}
  (hmem : ∀ p ∈ ps, IsMemory s p.pa)
include hget hinc hcons hlen hhead htail howed hmem

theorem takeSlot_ok (hfull : t.takeable s.cycle = true) (hturn : t.mayTake (t.position s.cur) s.cycle = true) (hfilled : 1 ≤ t.filled)
    (hps : s.slotPieces t.owner (t.base + t.tailSlot * t.slotBytes) (t.counts.getD t.tailSlot 0).toNat = ps) :
    ∃ u, takeSlot k s = .ok (ps.flatMap (fun p => p.range.map (s.loadByte s.cur s.nextId none p.page)), u) ∧
      Tbl.get? u.troughs k = some ((t.takeBy (t.position s.cur) s.cycle).release t.tailSlot) ∧
      u.butStream = (s.wakeNow (.troughFree (k / 1024) (k % 1024))).butStream := by
  have hout : ∀ p ∈ ps, p.page.inL1 = false ∧ p.page.mayBeOld = false := fun p hp => by
    obtain ⟨hl1, hold, -⟩ := slotPieces_outside (hps ▸ hp)
    exact ⟨hl1, hold⟩
  obtain ⟨u, hread, hgetu, hbut⟩ := readSlot_ok
    (s := (s.setTrough k (t.takeBy (t.position s.cur) s.cycle)).orderPoint s.cur false) (setTrough_get _ _ _) hinc
    (takeBy_consistent hcons hlen hhead htail hfilled (t.position s.cur) s.cycle) hout t.tailSlot (t.counts.getD t.tailSlot 0).toNat
  refine ⟨u, ?_, hgetu, hbut⟩
  have hbytes : ps.flatMap (fun p => p.range.map
        (((s.setTrough k (t.takeBy (t.position s.cur) s.cycle)).orderPoint s.cur false).loadByte s.cur s.nextId none p.page)) =
      ps.flatMap (fun p => p.range.map (s.loadByte s.cur s.nextId none p.page)) :=
    List.flatMap_congr fun p hp => by rw [loadByte_setTrough _ _ _ _ _ _ _ (hout p hp).1]
  rw [takeSlot, act_bind_ok (troughAt_ok hget hinc), act_bind_ok (awaitTake_now hfull hturn), act_bind_get,
    act_bind_ok (awaitRelease_of_nothingOwed howed false)]
  dsimp only
  rw [hps, act_bind_ok (checkSlot_ok hmem), act_bind_ok (troughUpdate_of_consistent hcons k _ s), ← hbytes]
  exact hread

theorem putSlot_ok {bs : List Byte} (hfree : t.slotAt t.headSlot = .free) (hturn : t.mayClaim (t.position s.cur) s.cycle = true)
    (hroom : t.claimed + t.filled < t.cap) (hps : s.slotPieces t.owner (t.base + t.headSlot * t.slotBytes) bs.length = ps)
    (hahead : s.ahead (s.locOf s.cur) ps t.scope = []) :
    ∃ u, putSlot k bs s = .ok ((), u) ∧
      Tbl.get? u.troughs k = some ((t.claimBy (t.position s.cur) s.cycle).fill t.headSlot (BitVec.ofNat 32 bs.length) s.cycle) ∧
      u.butStream = (s.writePieces s.cur.ref (s.locOf s.cur) t.scope ps bs).butStream := by
  have hckpt : ∀ p ∈ ps, p.page.ckpt = false := fun p hp => by
    obtain ⟨-, -, hc⟩ := slotPieces_outside (hps ▸ hp)
    exact hc
  have hbut := writePieces_butStream (by_ := s.cur.ref) (loc := s.locOf s.cur) (sc := t.scope) hckpt
    (orderPoint_butStream s k (t.claimBy (t.position s.cur) s.cycle) s.cur false) bs
  have hget1 := (congrArg (fun r : Tbl Trough => Tbl.get? r k) (writePieces_troughs (by_ := s.cur.ref) (loc := s.locOf s.cur) (sc := t.scope) hckpt
    ((s.setTrough k (t.claimBy (t.position s.cur) s.cycle)).orderPoint s.cur false) bs)).trans (setTrough_get _ _ _)
  have hcycle : (((s.setTrough k (t.claimBy (t.position s.cur) s.cycle)).orderPoint s.cur false).writePieces s.cur.ref (s.locOf s.cur) t.scope ps bs).cycle =
      s.cycle := (congrArg State.cycle (writePieces_leaves hckpt _ bs) :)
  refine ⟨_, ?_, setTrough_get _ _ _, hbut⟩
  rw [putSlot, act_bind_ok (troughAt_ok hget hinc), act_bind_ok (awaitClaim_now hfree hturn), act_bind_ok (awaitRelease_of_nothingOwed howed false)]
  dsimp only
  rw [act_bind_get, hps, act_bind_ok (checkSlot_ok hmem), act_bind_ok (awaitOrder_ok hahead), act_bind_ok (troughUpdate_of_consistent hcons k _ s)]
  rw [act_bind_ok (s := s.setTrough k (t.claimBy (t.position s.cur) s.cycle)) (x := transitionAcquire false) rfl, act_bind_modify]
  refine (act_bind_ok (troughAt_ok hget1 hinc)).trans ?_
  exact troughUpdate_of_consistent (claimBy_consistent hcons hlen hhead htail hroom (t.position s.cur) s.cycle) k _ _

end Slot

/-! ## VLDT and VSTT (R212) -/

theorem trough_of_named {s : State} {i : BitVec 8} {k : Nat} {t : Trough} (h : TroughNamed s i k t) : Tbl.get? s.troughs k = some t := by
  obtain ⟨-, -, hget, -⟩ := h
  exact hget

section Tiles
variable {s : State} {i : BitVec 8} {k : Nat} {t : Trough} (hnamed : TroughNamed s i k t) (hgood : TroughGood t)
  (hlen : t.slots.length = t.cap) (hhead : t.head < 2 * t.cap) (htail : t.tail < 2 * t.cap) (howed : NothingOwed s t.scope)
include hnamed hgood hlen hhead htail howed

/-- VLDT moves a slot into a tile and frees the slot. -/
theorem exec_vldt_takes {o : VTr} {ps : List Piece} (ho : o.t = i) (hready : ElemReady s (floatW o.ty) o.msk [.tile o.vd]) (hfull : t.takeable s.cycle = true)
    (hturn : t.mayTake (t.position s.cur) s.cycle = true) (hfilled : 1 ≤ t.filled)
    (hps : s.slotPieces t.owner (t.base + t.tailSlot * t.slotBytes) (t.counts.getD t.tailSlot 0).toNat = ps) (hmem : ∀ p ∈ ps, IsMemory s p.pa) :
    ∃ (u : State) (tile : Tile), exec (.vldt o) s = .next u ∧
      u.cur = ((s.wakeNow (.troughFree (k / 1024) (k % 1024))).busyDone (.tile o.vd) 9 8 (fun c => c.setTile o.vd tile)).cur ∧
      Tbl.get? u.troughs k = some ((t.takeBy (t.position s.cur) s.cycle).release t.tailSlot) ∧
      ElemResult s (floatW o.ty) o.msk o.mz o.vd tile (fun j =>
        leNat (((ps.flatMap (fun p => p.range.map (s.loadByte s.cur s.nextId none p.page))).drop (j * floatW o.ty)).take (floatW o.ty))) := by
  subst ho
  obtain ⟨hconf, hinc, hcons⟩ := hgood
  obtain ⟨hwidth, -, hsize, hfree⟩ := hready
  have hget := trough_of_named hnamed
  obtain ⟨u, htake, hgetu, hbut⟩ := takeSlot_ok hget hinc hcons hlen hhead htail howed hmem hfull hturn hfilled hps
  have hcur : u.cur = (s.wakeNow (.troughFree (k / 1024) (k % 1024))).cur := (congrArg State.cur hbut :)
  refine ⟨u.busyDone (.tile o.vd) 9 8 (fun c => c.setTile o.vd _), _, runAct_ok ?_,
    (congrArg (fun v : State => (v.busyDone (.tile o.vd) 9 8 (fun c => c.setTile o.vd _)).cur) hbut :), hgetu,
    rowsTile_result (floatW_pos o.ty) hsize⟩
  rw [act_bind_ok (checkWidth_ok hwidth), act_bind_ok (troughReady_of_named hnamed hconf hinc)]
  dsimp only
  rw [act_bind_ok (awaitTiles_ok (ds := .tile o.vd :: maskUse o.msk) hfree), act_bind_ok htake]
  refine (writeBusy_ok rfl).trans (congrArg (fun v => Except.ok ((), v)) (busyDone_congr ?_))
  rw [hcur, wakeNow_active, wakeNow_shape, wakeNow_tile]
  rfl

/-- VSTT moves a tile into a slot and fills it. -/
theorem exec_vstt_puts {o : VTrS} {ps : List Piece} (ho : o.t = i) (hready : ElemReady s (floatW o.ty) o.msk [.tile o.vd])
    (hfit : s.cur.shape.size * floatW o.ty ≤ t.slotBytes) (hfree : t.slotAt t.headSlot = .free) (hturn : t.mayClaim (t.position s.cur) s.cycle = true)
    (hroom : t.claimed + t.filled < t.cap)
    (hps : s.slotPieces t.owner (t.base + t.headSlot * t.slotBytes) (s.cur.shape.size * floatW o.ty) = ps) (hmem : ∀ p ∈ ps, IsMemory s p.pa)
    (hahead : s.ahead (s.locOf s.cur) ps t.scope = []) :
    ∃ u, exec (.vstt o) s = .next u ∧ u.cur = s.cur.nextSeq ∧
      u.coh = (s.writePieces s.cur.ref (s.locOf s.cur) t.scope ps (s.sentBytes (floatW o.ty) o.vd o.msk (List.range s.cur.shape.size))).coh ∧
      u.mem = s.mem ∧ u.hold = s.hold ∧
      Tbl.get? u.troughs k = some ((t.claimBy (t.position s.cur) s.cycle).fill t.headSlot (BitVec.ofNat 32 (s.cur.shape.size * floatW o.ty)) s.cycle) := by
  subst ho
  obtain ⟨hconf, hinc, hcons⟩ := hgood
  obtain ⟨hwidth, -, -, htiles⟩ := hready
  have hget := trough_of_named hnamed
  have hbytes : (s.sentBytes (floatW o.ty) o.vd o.msk (List.range s.cur.shape.size)).length = s.cur.shape.size * floatW o.ty := by
    rw [State.sentBytes, List.length_flatMap]
    simp [length_natBytes]
  have hckpt : ∀ p ∈ ps, p.page.ckpt = false := fun p hp => by
    obtain ⟨-, -, hc⟩ := slotPieces_outside (hps ▸ hp)
    exact hc
  rw [← hbytes] at hps ⊢
  obtain ⟨u, hput, hgetu, hbut⟩ := putSlot_ok hget hinc hcons hlen hhead htail howed hmem hfree hturn hroom hps hahead
  have hleaves := (congrArg (fun v : State => ({ v with coh := [], nextId := 0 } : State)) hbut).trans (writePieces_leaves hckpt s _)
  refine ⟨u.setCur Context.nextSeq, runAct_ok ?_, (congrArg (fun v : State => v.cur.nextSeq) hleaves :), (congrArg State.coh hbut :),
    (congrArg State.mem hleaves :), (congrArg State.hold hleaves :), hgetu⟩
  rw [act_bind_ok (checkWidth_ok hwidth), act_bind_ok (troughNamed_of_named hnamed)]
  dsimp only
  rw [act_bind_raiseIf (decide_eq_false (not_lt.2 hfit)), act_bind_ok (troughReady_of_named hnamed hconf hinc)]
  dsimp only
  rw [act_bind_ok (awaitTiles_ok (ds := .tile o.vd :: maskUse o.msk) htiles)]
  exact (act_bind_ok hput).trans rfl

end Tiles

/-- Settles O27: the four stream instructions on a route, then the two on a trough's slot. -/
theorem vectorStreams : Obligations.VectorStreams := by
  refine ⟨⟨fun o s k r us rest hready hq hus he hlen => exec_vpop_pops hready hq hus he hlen,
    fun o s k r hready hq hcols hp => exec_vpush_pushes hready hq hcols hp,
    fun o s k r p hready hq hp hne => exec_vpush_waits hready hq hp hne,
    fun o s k r u rest hva hready hq hu he => exec_vbcast_pops hva hready hq hu he⟩, fun s i k t x hnamed hgood _ hlen _ hhead htail howed => ⟨?_, ?_⟩⟩
  · exact fun o ho hready hfull hturn hfilled hmem => exec_vldt_takes hnamed hgood hlen hhead htail howed ho hready hfull hturn hfilled rfl hmem
  · exact fun o ho hready hfit hfree hturn hroom hmem hahead => exec_vstt_puts hnamed hgood hlen hhead htail howed ho hready hfit hfree hturn hroom rfl hmem hahead

end Sys2Proof.Machine
end
